-- ==== Sys2Proof/Word.lean ====
section
/-!
DEFINITION. The word types of the PS-416 and their plainest arithmetic: bytes, 32-bit instruction units and lane
registers, 64-bit K registers and lane state words (R3, R85, R116), and little-endian assembly of bytes (R3).
-/

namespace Sys2Proof

/-- One byte of memory, of a tile or of LOCAL storage (R3). -/
abbrev Byte := BitVec 8
/-- A 32-bit instruction unit (R85) or the value of a V register in one lane (R73). -/
abbrev Word := BitVec 32
/-- A 64-bit value: a K register (R89), a D pair (R8), a lane state word (R116). -/
abbrev DWord := BitVec 64
/-- A set of virtual lanes of one group, bit i for lane i. -/
abbrev LaneMask := BitVec 32

/-- The number a list of bytes holds, the first byte the least significant (R3). -/
def leNat : List Byte → Nat
  | [] => 0
  | b :: bs => b.toNat + 256 * leNat bs

/-- The `n` little-endian bytes of a number (R3). -/
def leBytes : Nat → Nat → List Byte
  | 0, _ => []
  | n + 1, v => BitVec.ofNat 8 v :: leBytes n (v / 256)

/-- `x[hi:lo]` of R9 as a number, with `len` bits from bit `lo`. -/
def bitsOf (x : Nat) (lo len : Nat) : Nat := x / 2 ^ lo % 2 ^ len

/-- Bit `i` of a number. -/
def bitAt (x i : Nat) : Bool := x / 2 ^ i % 2 == 1

/-- The lane numbers of a group in ascending order. -/
def allLanes : List Nat := List.range 32

end Sys2Proof
end

