-- ==== Sys2Proof/Syntax.lean ====
section
/-!
DEFINITION. The abstract syntax of the Kloas instruction set and of the machine's events: register names, operands,
guards, prefixes, and `Instr`, the one inductive with a constructor for every row of the opcode table.
-/

namespace Sys2Proof

/-- A per-lane vector register name V0 to V127 (R8). -/
abbrev VReg := BitVec 7
/-- A D pair by its number n: Dn is V(2n) with V(2n+1) (R8, R89). -/
abbrev DReg := BitVec 6
/-- A group-uniform register K0 to K63 (R8). -/
abbrev KReg := BitVec 6
/-- A predicate P0 to P7 (R8). -/
abbrev PReg := BitVec 3
/-- A tile register T0 to T31 (R8). -/
abbrev TReg := BitVec 5
/-- A stream pattern register W0 to W7 (R8). -/
abbrev WReg := BitVec 3
/-- A fence token slot F0 to F3 (R8). -/
abbrev FReg := BitVec 2
/-- An accumulator set Z0 to Z3 (R241). -/
abbrev ZReg := BitVec 2
/-- An 8-bit immediate (R93). -/
abbrev Imm8 := BitVec 8

/-- The second operand B8 where it names a V or a K register (R88). -/
inductive Src where
  | v (n : VReg)
  | k (n : KReg)
  deriving DecidableEq, Repr

/-- The second operand B8 where it names a D pair or a 64-bit K register (R88, R89). -/
inductive SrcD where
  | d (n : DReg)
  | k (n : KReg)
  deriving DecidableEq, Repr

/-- A guard: predicate GP, negated when `neg` (R92). -/
structure Guard where
  neg : Bool
  p : PReg
  deriving DecidableEq, Repr

/-- GEN, GNEG and GP of a long word: `none` when GEN is 0 (R90). -/
abbrev GuardF := Option Guard

/-- Short form, or long form with its guard fields (R91). -/
inductive Ext where
  | short
  | long (g : GuardF)
  deriving DecidableEq, Repr

/-- Short form, or long form with SCOPE and guard (R184, R301). -/
inductive ExtS where
  | short
  | long (sc : BitVec 4) (g : GuardF)
  deriving DecidableEq, Repr

/-- Short form, or long form with SCOPE, the tag code of FMOD and guard (R186). -/
inductive ExtSF where
  | short
  | long (sc : BitVec 4) (fmod : BitVec 4) (g : GuardF)
  deriving DecidableEq, Repr

/-- Short form, or long form with the scale of `lea` and guard (R150). -/
inductive ExtLea where
  | short
  | long (scale : BitVec 2) (g : GuardF)
  deriving DecidableEq, Repr

/-- The immediate count of `loop` (R138): the short form holds n itself, the long form n - 1 in IMM8. -/
inductive LoopCount where
  | short (n : BitVec 7)
  | long (imm : Imm8)
  deriving DecidableEq, Repr

/-- Integer comparison conditions, in the order of FMOD of `cmp.cc.i64` (R148). -/
inductive Cond where
  | eq | ne | lt | le | gt | ge
  deriving DecidableEq, Repr

/-- Floating-point comparison conditions of `fcmp` (R227). -/
inductive FCond where
  | eq | ne | lt | le | gt | ge | un | or
  deriving DecidableEq, Repr

/-- The functions of opcodes 0x8E and 0x9E (R230). -/
inductive FloatFn where
  | frcp | frsqrt | fexp2 | flog2 | fsinpi | fcospi
  deriving DecidableEq, Repr

/-- Targets F32 and F64 of `cvt.f.i` and `cvt.f.f` (R232, R234). -/
inductive FTarget where
  | f32 | f64
  deriving DecidableEq, Repr

/-- Integer targets of `cvt.i.f` (R233). -/
inductive ITarget where
  | i32 | n32 | i64 | n64
  deriving DecidableEq, Repr

/-- Block targets of `cvt.tb` and `tbunpk` (R236, R238). -/
inductive BTarget where
  | tb8 | tb6 | tb4
  deriving DecidableEq, Repr

/-- Targets of `mepi` (R253). -/
inductive MTarget where
  | f32 | bf16 | f16 | tb8 | tb6 | tb4
  deriving DecidableEq, Repr

/-- Operations of `uget.op` and `uput.op` (R303, R304); `swap` only in `uget`. -/
inductive UrnOp where
  | add | min | max | and | or | xor | swap
  deriving DecidableEq, Repr

/-- Rounding modes (R211). -/
inductive RMode where
  | rne | rz | rup | rdn
  deriving DecidableEq, Repr

/-- Operand slots of a prefix, in the order of the STREAM slot code (R97). -/
inductive SlotName where
  | a | b | c | d
  deriving DecidableEq, Repr

/-- A set of operand slots (the step mask of REPEAT, the slot mask of FORMAT, R97). -/
structure SlotSet where
  d : Bool
  a : Bool
  b : Bool
  c : Bool
  deriving DecidableEq, Repr

/-- The prefixes of one sequence (R97, R98). HINT carries its code and changes nothing (R105). -/
structure Prefixes where
  round : Option RMode := none
  sat : Bool := false
  rep : Option (Nat × SlotSet) := none
  guard : Option Guard := none
  streams : List (WReg × SlotName) := []
  format : Option (BitVec 4 × SlotSet) := none
  hint : Option (BitVec 8) := none
  deriving DecidableEq, Repr

/-- What a barrier packet between packages asks for (R294). -/
inductive BarOp where
  | arrive (n : Nat)
  | drop (n : Nat)
  | expect (n : Nat)
  deriving DecidableEq, Repr

/-- A barrier packet of R294 that reaches the home package: who sent it, its sequence number there, the object, and
what is asked. -/
structure BarPacket where
  src : Nat
  seq : Nat
  handle : BitVec 32
  op : BarOp
  deriving DecidableEq, Repr

/-- What a fabric packet carries (R314 to R323). `src` of a request is the sender's DPKG with the leaf on whose behalf
it acts; a reply names the group and operation it answers. -/
inductive FabBody where
  /-- remote write of bytes at a window offset, part of an operation on `len` bytes from `base` on -/
  | write (win off : Nat) (bytes : List Byte) (base len : Nat)
  /-- remote read of `n` bytes, part of an operation on `len` bytes from `base` on -/
  | read (win off n base len : Nat)
  /-- remote 8-byte add or exchange -/
  | atom (win off : Nat) (exch : Bool) (val : BitVec 64)
  /-- tagged message to an interface -/
  | msg (vi : Nat) (mtag : BitVec 32) (payload : List Byte)
  /-- remote event -/
  | event (vi : Nat) (num : BitVec 8)
  /-- answer: outcome code of R319 (0 OK), byte offset within the operation, data -/
  | reply (outcome off : Nat) (data : List Byte)
  /-- items that a rank pushes into a Blend session of another package, the last of their segment or not; or its close -/
  | push (sid rank : Nat) (items : List (BitVec 64)) (last close : Bool)
  /-- the marker of a cut on its way to another package (R359); one that comes is the event `CUT_MARKER_ARRIVAL` -/
  | marker
  /-- a part of a migrating leaf, for a leaf of the target (R358): 0 bytes of the page at a guest physical address, 1 bytes of its
  state, 2 the end, with the number of those bytes -/
  | carry (leaf part_ at_ : Nat) (data : List Byte)
  deriving DecidableEq, Repr

/-- A fabric packet: sender, sender's leaf number, addressee, the operation it belongs to at its sender. -/
structure FabPacket where
  src : Nat
  srcLeaf : Nat
  dst : Nat
  gid : Nat
  op : Nat
  body : FabBody
  deriving DecidableEq, Repr

/-- One constructor per row of `spec/opcode_table.json`: the instructions of R107 and R108 with the operands
their words carry, then the events of the machine with the data that says which of their kind occurs. -/
inductive Instr where
  /-- `NOP`, short opcode 0x00 -/
  | nop (x : Ext)
  /-- `MOV`, short opcode 0x20 -/
  | mov (d : VReg) (b : Src) (x : Ext)
  /-- `BRA`, short opcode 0x01 -/
  | bra (b : Imm8) (x : Ext)
  /-- `JMP`, short opcode 0x02 -/
  | jmp (a : DReg) (x : Ext)
  /-- `CALL`, short opcode 0x03 -/
  | call (d : DReg) (b : Imm8) (x : Ext)
  /-- `CALLX`, short opcode 0x04 -/
  | callx (d a : DReg) (x : Ext)
  /-- `EXIT`, short opcode 0x05 -/
  | exit (x : Ext)
  /-- `YIELD`, short opcode 0x06 -/
  | yield (x : Ext)
  /-- `WAIT`, short opcode 0x07 -/
  | wait (ur tx cp st ld : BitVec 4) (x : Bool)
  /-- `LOOP`, short opcode 0x08 -/
  | loop (n : LoopCount)
  /-- `LOOP_K`, short opcode 0x08 -/
  | loopK (b : KReg) (x : Bool)
  /-- `TRIGGER`, short opcode 0x09 -/
  | trigger (x : Ext)
  /-- `TRES`, short opcode 0x0A -/
  | tres (d : DReg) (x : Ext)
  /-- `SPAWN`, short opcode 0x0B -/
  | spawn (a : DReg) (x : Ext)
  /-- `RING_ADV`, short opcode 0x0C -/
  | ringAdv (d : KReg) (x : Bool)
  /-- `RING_CUR`, short opcode 0x0D -/
  | ringCur (d a : KReg) (x : Bool)
  /-- `GETLSW`, short opcode 0x0E -/
  | getlsw (d : DReg) (x : Ext)
  /-- `BRANY`, short opcode 0x0F -/
  | brany (a : PReg) (b : Imm8) (x : Ext)
  /-- `BRALL`, short opcode 0x10 -/
  | brall (a : PReg) (b : Imm8) (x : Ext)
  /-- `PAND`, short opcode 0x11 -/
  | pand (d a b : PReg) (x : Ext)
  /-- `POR`, short opcode 0x12 -/
  | por (d a b : PReg) (x : Ext)
  /-- `PXOR`, short opcode 0x13 -/
  | pxor (d a b : PReg) (x : Ext)
  /-- `PANDN`, short opcode 0x14 -/
  | pandn (d a b : PReg) (x : Ext)
  /-- `PTEST`, short opcode 0x15 -/
  | ptest (d : PReg) (a : VReg) (x : Ext)
  /-- `PGET`, short opcode 0x16 -/
  | pget (d : VReg) (a : PReg) (x : Ext)
  /-- `PMASK`, short opcode 0x17 -/
  | pmask (d : PReg) (b : KReg) (x : Ext)
  /-- `ADD_I32`, short opcode 0x21 -/
  | addI32 (d a : VReg) (b : Src) (x : Ext)
  /-- `SUB_I32`, short opcode 0x22 -/
  | subI32 (d a : VReg) (b : Src) (x : Ext)
  /-- `MUL_I32`, short opcode 0x23 -/
  | mulI32 (d a : VReg) (b : Src) (x : Ext)
  /-- `MULHI_I32`, short opcode 0x24 -/
  | mulhiI32 (d a : VReg) (b : Src) (x : Ext)
  /-- `MAD_I32`, short opcode 0x25 -/
  | madI32 (d a : VReg) (b : Src) (c : VReg) (x : GuardF)
  /-- `DIV_I32`, short opcode 0x26 -/
  | divI32 (d a : VReg) (b : Src) (x : Ext)
  /-- `REM_I32`, short opcode 0x27 -/
  | remI32 (d a : VReg) (b : Src) (x : Ext)
  /-- `MIN_I32`, short opcode 0x28 -/
  | minI32 (d a : VReg) (b : Src) (x : Ext)
  /-- `MAX_I32`, short opcode 0x29 -/
  | maxI32 (d a : VReg) (b : Src) (x : Ext)
  /-- `ABS_I32`, short opcode 0x2A -/
  | absI32 (d a : VReg) (x : Ext)
  /-- `NEG_I32`, short opcode 0x2B -/
  | negI32 (d a : VReg) (x : Ext)
  /-- `ADDI_I32`, short opcode 0x2C -/
  | addiI32 (d a : VReg) (b : Imm8) (x : Ext)
  /-- `AND_I32`, short opcode 0x2D -/
  | andI32 (d a : VReg) (b : Src) (x : Ext)
  /-- `OR_I32`, short opcode 0x2E -/
  | orI32 (d a : VReg) (b : Src) (x : Ext)
  /-- `XOR_I32`, short opcode 0x2F -/
  | xorI32 (d a : VReg) (b : Src) (x : Ext)
  /-- `ANDN_I32`, short opcode 0x30 -/
  | andnI32 (d a : VReg) (b : Src) (x : Ext)
  /-- `NOT_I32`, short opcode 0x31 -/
  | notI32 (d a : VReg) (x : Ext)
  /-- `SHL_I32`, short opcode 0x32 -/
  | shlI32 (d a : VReg) (b : Src) (x : Ext)
  /-- `SHR_I32`, short opcode 0x33 -/
  | shrI32 (d a : VReg) (b : Src) (x : Ext)
  /-- `SHLI_I32`, short opcode 0x34 -/
  | shliI32 (d a : VReg) (b : BitVec 5) (x : Ext)
  /-- `SHRI_I32`, short opcode 0x35 -/
  | shriI32 (d a : VReg) (b : BitVec 5) (x : Ext)
  /-- `ROTL_I32`, short opcode 0x36 -/
  | rotlI32 (d a : VReg) (b : Src) (x : Ext)
  /-- `POPC_I32`, short opcode 0x37 -/
  | popcI32 (d a : VReg) (x : Ext)
  /-- `CLZ_I32`, short opcode 0x38 -/
  | clzI32 (d a : VReg) (x : Ext)
  /-- `BREV_I32`, short opcode 0x39 -/
  | brevI32 (d a : VReg) (x : Ext)
  /-- `BFX_I32`, short opcode 0x3A -/
  | bfxI32 (d a : VReg) (b : Src) (x : Ext)
  /-- `CMP_EQ_I32`, short opcode 0x3B -/
  | cmpEqI32 (d : PReg) (a : VReg) (b : Src) (x : Ext)
  /-- `CMP_NE_I32`, short opcode 0x3C -/
  | cmpNeI32 (d : PReg) (a : VReg) (b : Src) (x : Ext)
  /-- `CMP_LT_I32`, short opcode 0x3D -/
  | cmpLtI32 (d : PReg) (a : VReg) (b : Src) (x : Ext)
  /-- `CMP_LE_I32`, short opcode 0x3E -/
  | cmpLeI32 (d : PReg) (a : VReg) (b : Src) (x : Ext)
  /-- `CMP_GT_I32`, short opcode 0x3F -/
  | cmpGtI32 (d : PReg) (a : VReg) (b : Src) (x : Ext)
  /-- `CMP_GE_I32`, short opcode 0x40 -/
  | cmpGeI32 (d : PReg) (a : VReg) (b : Src) (x : Ext)
  /-- `SEL`, short opcode 0x41 -/
  | sel (d a : VReg) (b : Src) (c : PReg) (wide : Bool) (x : GuardF)
  /-- `ADD_I64`, short opcode 0x42 -/
  | addI64 (d a : DReg) (b : SrcD) (x : Ext)
  /-- `SUB_I64`, short opcode 0x43 -/
  | subI64 (d a : DReg) (b : SrcD) (x : Ext)
  /-- `MUL_I64`, short opcode 0x44 -/
  | mulI64 (d a : DReg) (b : SrcD) (x : Ext)
  /-- `MULW_I32`, short opcode 0x45 -/
  | mulwI32 (d : DReg) (a : VReg) (b : Src) (x : Ext)
  /-- `SHL_I64`, short opcode 0x46 -/
  | shlI64 (d a : DReg) (b : SrcD) (x : Ext)
  /-- `SHR_I64`, short opcode 0x47 -/
  | shrI64 (d a : DReg) (b : SrcD) (x : Ext)
  /-- `LEA`, short opcode 0x48 -/
  | lea (d a : DReg) (b : Src) (x : ExtLea)
  /-- `ADDI_I64`, short opcode 0x49 -/
  | addiI64 (d a : DReg) (b : Imm8) (x : Ext)
  /-- `CMP_I64`, short opcode 0x4A -/
  | cmpI64 (d : PReg) (a : DReg) (b : SrcD) (cc : Cond) (x : GuardF)
  /-- `EXT_I64`, short opcode 0x4B -/
  | extI64 (d : DReg) (a : VReg) (x : Ext)
  /-- `TRN_I32`, short opcode 0x4C -/
  | trnI32 (d : VReg) (a : DReg) (x : Ext)
  /-- `MOV_64`, short opcode 0x4D -/
  | mov64 (d : DReg) (b : SrcD) (x : Ext)
  /-- `SMOV`, short opcode 0x4E -/
  | smov (d : VReg) (b : Imm8) (x : Ext)
  /-- `KSET`, short opcode 0x4F -/
  | kset (d : KReg) (a : DReg) (x : Ext)
  /-- `XFROM`, short opcode 0x60 -/
  | xfrom (d a : VReg) (b : Src) (x : Ext)
  /-- `XROT`, short opcode 0x61 -/
  | xrot (d a : VReg) (b : Src) (x : Ext)
  /-- `XSTEP`, short opcode 0x62 -/
  | xstep (d a : VReg) (b : Src) (x : Ext)
  /-- `XFLIP`, short opcode 0x63 -/
  | xflip (d a : VReg) (b : Src) (x : Ext)
  /-- `PANY`, short opcode 0x64 -/
  | pany (d a : PReg) (x : Ext)
  /-- `PEVERY`, short opcode 0x65 -/
  | pevery (d a : PReg) (x : Ext)
  /-- `XSAME`, short opcode 0x66 -/
  | xsame (d : PReg) (a : VReg) (x : Ext)
  /-- `PCOLLECT`, short opcode 0x67 -/
  | pcollect (d : VReg) (a : PReg) (x : Ext)
  /-- `XPEERS`, short opcode 0x68 -/
  | xpeers (d a : VReg) (x : Ext)
  /-- `XLOW`, short opcode 0x69 -/
  | xlow (d a : VReg) (x : Ext)
  /-- `FOLD_ADD_I32`, short opcode 0x6A -/
  | foldAddI32 (d a : VReg) (x : Ext)
  /-- `FOLD_MIN_I32`, short opcode 0x6B -/
  | foldMinI32 (d a : VReg) (x : Ext)
  /-- `FOLD_MAX_I32`, short opcode 0x6C -/
  | foldMaxI32 (d a : VReg) (x : Ext)
  /-- `FOLD_AND_I32`, short opcode 0x6D -/
  | foldAndI32 (d a : VReg) (x : Ext)
  /-- `FOLD_OR_I32`, short opcode 0x6E -/
  | foldOrI32 (d a : VReg) (x : Ext)
  /-- `SCAN_INC_I32`, short opcode 0x6F -/
  | scanIncI32 (d a : VReg) (x : Ext)
  /-- `SCAN_EXC_I32`, short opcode 0x70 -/
  | scanExcI32 (d a : VReg) (x : Ext)
  /-- `PRANK`, short opcode 0x71 -/
  | prank (d : VReg) (a : PReg) (x : Ext)
  /-- `XPACK`, short opcode 0x72 -/
  | xpack (d a : VReg) (b : PReg) (x : Ext)
  /-- `RNG`, short opcode 0x73 -/
  | rng (d a : DReg) (b : KReg) (x : Ext)
  /-- `FADD_F32`, short opcode 0x80 -/
  | faddF32 (d a : VReg) (b : Src) (x : Ext)
  /-- `FSUB_F32`, short opcode 0x81 -/
  | fsubF32 (d a : VReg) (b : Src) (x : Ext)
  /-- `FMUL_F32`, short opcode 0x82 -/
  | fmulF32 (d a : VReg) (b : Src) (x : Ext)
  /-- `FFMA_F32`, short opcode 0x83 -/
  | ffmaF32 (d a : VReg) (b : Src) (c : VReg) (x : GuardF)
  /-- `FDIV_F32`, short opcode 0x84 -/
  | fdivF32 (d a : VReg) (b : Src) (x : Ext)
  /-- `FSQRT_F32`, short opcode 0x85 -/
  | fsqrtF32 (d a : VReg) (x : Ext)
  /-- `FMIN_F32`, short opcode 0x86 -/
  | fminF32 (d a : VReg) (b : Src) (x : Ext)
  /-- `FMAX_F32`, short opcode 0x87 -/
  | fmaxF32 (d a : VReg) (b : Src) (x : Ext)
  /-- `FMIN_NAN_F32`, short opcode 0x88 -/
  | fminNanF32 (d a : VReg) (b : Src) (x : Ext)
  /-- `FMAX_NAN_F32`, short opcode 0x89 -/
  | fmaxNanF32 (d a : VReg) (b : Src) (x : Ext)
  /-- `FABS_F32`, short opcode 0x8A -/
  | fabsF32 (d a : VReg) (x : Ext)
  /-- `FNEG_F32`, short opcode 0x8B -/
  | fnegF32 (d a : VReg) (x : Ext)
  /-- `FCMP_F32`, short opcode 0x8C -/
  | fcmpF32 (d : PReg) (cc : FCond) (a : VReg) (b : Src) (x : Ext)
  /-- `FRND_F32`, short opcode 0x8D -/
  | frndF32 (d a : VReg) (x : Ext)
  /-- `FFUNC_F32`, short opcode 0x8E -/
  | ffuncF32 (d a : VReg) (b : FloatFn) (x : Ext)
  /-- `FCLASS`, short opcode 0x8F -/
  | fclass (d a : VReg) (x : Ext)
  /-- `FADD_F64`, short opcode 0x90 -/
  | faddF64 (d a : DReg) (b : SrcD) (x : Ext)
  /-- `FSUB_F64`, short opcode 0x91 -/
  | fsubF64 (d a : DReg) (b : SrcD) (x : Ext)
  /-- `FMUL_F64`, short opcode 0x92 -/
  | fmulF64 (d a : DReg) (b : SrcD) (x : Ext)
  /-- `FFMA_F64`, short opcode 0x93 -/
  | ffmaF64 (d a : DReg) (b : SrcD) (c : DReg) (x : GuardF)
  /-- `FDIV_F64`, short opcode 0x94 -/
  | fdivF64 (d a : DReg) (b : SrcD) (x : Ext)
  /-- `FSQRT_F64`, short opcode 0x95 -/
  | fsqrtF64 (d a : DReg) (x : Ext)
  /-- `FMIN_F64`, short opcode 0x96 -/
  | fminF64 (d a : DReg) (b : SrcD) (x : Ext)
  /-- `FMAX_F64`, short opcode 0x97 -/
  | fmaxF64 (d a : DReg) (b : SrcD) (x : Ext)
  /-- `FMIN_NAN_F64`, short opcode 0x98 -/
  | fminNanF64 (d a : DReg) (b : SrcD) (x : Ext)
  /-- `FMAX_NAN_F64`, short opcode 0x99 -/
  | fmaxNanF64 (d a : DReg) (b : SrcD) (x : Ext)
  /-- `FABS_F64`, short opcode 0x9A -/
  | fabsF64 (d a : DReg) (x : Ext)
  /-- `FNEG_F64`, short opcode 0x9B -/
  | fnegF64 (d a : DReg) (x : Ext)
  /-- `FCMP_F64`, short opcode 0x9C -/
  | fcmpF64 (d : PReg) (cc : FCond) (a : DReg) (b : SrcD) (x : Ext)
  /-- `FRND_F64`, short opcode 0x9D -/
  | frndF64 (d a : DReg) (x : Ext)
  /-- `FFUNC_F64`, short opcode 0x9E -/
  | ffuncF64 (d a : DReg) (b : FloatFn) (x : Ext)
  /-- `FFLAG`, short opcode 0x9F -/
  | fflag (d : VReg) (b : Src) (x : Ext)
  /-- `CVT_F_I`, short opcode 0xA0 -/
  | cvtFI (d a : VReg) (b : FTarget) (x : Ext)
  /-- `CVT_I_F`, short opcode 0xA1 -/
  | cvtIF (d a : VReg) (b : ITarget) (x : Ext)
  /-- `CVT_F_F`, short opcode 0xA2 -/
  | cvtFF (d a : VReg) (b : FTarget) (e1 : Bool) (x : Ext)
  /-- `CVT_BF16X2_F32`, short opcode 0xA3 -/
  | cvtBf16x2F32 (d a : VReg) (b : Src) (x : Ext)
  /-- `CVT_F16X2_F32`, short opcode 0xA4 -/
  | cvtF16x2F32 (d a : VReg) (b : Src) (x : Ext)
  /-- `CVT_TB_F32`, short opcode 0xA5 -/
  | cvtTbF32 (d a : VReg) (b : BTarget) (x : Ext)
  /-- `TBPK`, short opcode 0xA6 -/
  | tbpk (d a : VReg) (x : Ext)
  /-- `TBUNPK`, short opcode 0xA7 -/
  | tbunpk (d a : VReg) (b : BTarget) (x : Ext)
  /-- `LD_G_I8`, short opcode 0xB0 -/
  | ldGI8 (d : VReg) (a : DReg) (b : Imm8) (x : ExtS)
  /-- `LD_G_N8`, short opcode 0xB1 -/
  | ldGN8 (d : VReg) (a : DReg) (b : Imm8) (x : ExtS)
  /-- `LD_G_I16`, short opcode 0xB2 -/
  | ldGI16 (d : VReg) (a : DReg) (b : Imm8) (x : ExtS)
  /-- `LD_G_N16`, short opcode 0xB3 -/
  | ldGN16 (d : VReg) (a : DReg) (b : Imm8) (x : ExtS)
  /-- `LD_G_32`, short opcode 0xB4 -/
  | ldG32 (d : VReg) (a : DReg) (b : Imm8) (x : ExtSF)
  /-- `LD_G_64`, short opcode 0xB5 -/
  | ldG64 (d a : DReg) (b : Imm8) (x : ExtSF)
  /-- `ST_G_8`, short opcode 0xB6 -/
  | stG8 (d : VReg) (a : DReg) (b : Imm8) (x : ExtS)
  /-- `ST_G_16`, short opcode 0xB7 -/
  | stG16 (d : VReg) (a : DReg) (b : Imm8) (x : ExtS)
  /-- `ST_G_32`, short opcode 0xB8 -/
  | stG32 (d : VReg) (a : DReg) (b : Imm8) (x : ExtS)
  /-- `ST_G_64`, short opcode 0xB9 -/
  | stG64 (d a : DReg) (b : Imm8) (x : ExtS)
  /-- `LD_T_32`, short opcode 0xBA -/
  | ldT32 (d : VReg) (a : TReg) (b : Src) (x : Ext)
  /-- `ST_T_32`, short opcode 0xBB -/
  | stT32 (d : VReg) (a : TReg) (b : Src) (x : Ext)
  /-- `APCONV_T`, short opcode 0xBC -/
  | apconvT (d : DReg) (a : TReg) (b : Src) (x : Ext)
  /-- `APCONV_L`, short opcode 0xBD -/
  | apconvL (d : DReg) (b : Src) (x : Ext)
  /-- `APTEST`, short opcode 0xBE -/
  | aptest (d : PReg) (a : DReg) (b : BitVec 3) (x : Ext)
  /-- `TALLOC`, short opcode 0xBF -/
  | talloc (d : TReg) (a : KReg) (b : BitVec 3) (x : Ext)
  /-- `TREL`, short opcode 0xC0 -/
  | trel (d : TReg) (x : Ext)
  /-- `CP`, short opcode 0xC1 -/
  | cp (a b : KReg) (x : ExtS)
  /-- `PF`, short opcode 0xC2 -/
  | pf (a : DReg) (b : Imm8) (x : Ext)
  /-- `WSET`, short opcode 0xC3 -/
  | wset (d : WReg) (a : KReg) (x : Bool)
  /-- `WPOS`, short opcode 0xC4 -/
  | wpos (d : VReg) (a : WReg) (x : Ext)
  /-- `WSKIP`, short opcode 0xC5 -/
  | wskip (d : WReg) (b : KReg) (x : Ext)
  /-- `WCLR`, short opcode 0xC6 -/
  | wclr (d : WReg) (x : Bool)
  /-- `LDK`, short opcode 0xC7 -/
  | ldk (d a : KReg) (b : Imm8) (x : Ext)
  /-- `ARRIVE`, short opcode 0xD0 -/
  | arrive (b : KReg) (x : Ext)
  /-- `EXPECT`, short opcode 0xD1 -/
  | expect (a b : KReg) (x : Ext)
  /-- `BWAIT`, short opcode 0xD2 -/
  | bwait (b : KReg) (x : Ext)
  /-- `BPHASE`, short opcode 0xD3 -/
  | bphase (d : VReg) (b : KReg) (x : Ext)
  /-- `FENCE`, short opcode 0xD4 -/
  | fence (d : FReg) (b : BitVec 4) (x : Bool)
  /-- `FWAIT`, short opcode 0xD5 -/
  | fwait (d : FReg) (x : Bool)
  /-- `MON`, short opcode 0xD6 -/
  | mon (a : DReg) (x : ExtS)
  /-- `MWAIT`, short opcode 0xD7 -/
  | mwait (b : KReg) (x : Ext)
  /-- `UGET_I32`, short opcode 0xD8 -/
  | ugetI32 (d : VReg) (a : DReg) (b : Src) (op : UrnOp) (sc : BitVec 4) (x : GuardF)
  /-- `UGET_I64`, short opcode 0xD9 -/
  | ugetI64 (d a : DReg) (b : SrcD) (op : UrnOp) (sc : BitVec 4) (x : GuardF)
  /-- `UGET_FADD`, short opcode 0xDA -/
  | ugetFadd (d : VReg) (a : DReg) (b : Src) (wide : Bool) (sc : BitVec 4) (x : GuardF)
  /-- `UPUT_I32`, short opcode 0xDB -/
  | uputI32 (a : DReg) (b : Src) (op : UrnOp) (sc : BitVec 4) (x : GuardF)
  /-- `UPUT_I64`, short opcode 0xDC -/
  | uputI64 (a : DReg) (b : SrcD) (op : UrnOp) (sc : BitVec 4) (x : GuardF)
  /-- `UPUT_FADD`, short opcode 0xDD -/
  | uputFadd (a : DReg) (b : Src) (wide : Bool) (sc : BitVec 4) (x : GuardF)
  /-- `UCMPX`, short opcode 0xDE -/
  | ucmpx (d : VReg) (a : DReg) (b : Src) (c : VReg) (wide : Bool) (sc : BitVec 4) (x : GuardF)
  /-- `ORED`, short opcode 0xDF -/
  | ored (d : BitVec 3) (b : Src) (x : Ext)
  /-- `BALLOC`, short opcode 0xE0 -/
  | balloc (d a : KReg) (b : BitVec 3) (x : Ext)
  /-- `BDROP`, short opcode 0xE1 -/
  | bdrop (b : KReg) (x : Ext)
  /-- `SYS`, short opcode 0xE8 -/
  | sys (b : Imm8) (x : Ext)
  /-- `BRK`, short opcode 0xE9 -/
  | brk (b : Imm8) (x : Ext)
  /-- `HCALL`, short opcode 0xEA -/
  | hcall (d : KReg) (b : Imm8) (x : Ext)
  /-- `SRET`, short opcode 0xEB -/
  | sret (x : Ext)
  /-- `HRET`, short opcode 0xEC -/
  | hret (x : Ext)
  /-- `CTLRD`, short opcode 0xED -/
  | ctlrd (d : DReg) (b : Imm8) (x : Ext)
  /-- `CTLWR`, short opcode 0xEE -/
  | ctlwr (a : DReg) (b : Imm8) (x : Ext)
  /-- `LSWRD`, short opcode 0xEF -/
  | lswrd (d : DReg) (a : VReg) (x : Ext)
  /-- `TINV`, short opcode 0xF0 -/
  | tinv (b : KReg) (x : Ext)
  /-- `TPROBE`, short opcode 0xF1 -/
  | tprobe (d a : DReg) (x : Ext)
  /-- `EVCLR`, short opcode 0xF2 -/
  | evclr (b : KReg) (x : Ext)
  /-- `ERRRD`, short opcode 0xF3 -/
  | errrd (d : DReg) (b : BitVec 3) (x : Ext)
  /-- `LHALT`, short opcode 0xF4 -/
  | lhalt (x : Ext)
  /-- `EINJ`, short opcode 0xF5 -/
  | einj (a : DReg) (b : BitVec 1) (x : Ext)
  /-- `MMA_TB8`, long opcode 0x40 -/
  | mmaTb8 (a : KReg) (x : GuardF)
  /-- `MMA_TB6`, long opcode 0x41 -/
  | mmaTb6 (a : KReg) (x : GuardF)
  /-- `MMA_TB4`, long opcode 0x42 -/
  | mmaTb4 (a : KReg) (x : GuardF)
  /-- `MMA_BF16`, long opcode 0x43 -/
  | mmaBf16 (a : KReg) (x : GuardF)
  /-- `MMA_F16`, long opcode 0x44 -/
  | mmaF16 (a : KReg) (x : GuardF)
  /-- `MMA_F32`, long opcode 0x45 -/
  | mmaF32 (a : KReg) (x : GuardF)
  /-- `MZERO`, long opcode 0x46 -/
  | mzero (d : ZReg) (x : GuardF)
  /-- `MEPI`, long opcode 0x47 -/
  | mepi (d : ZReg) (a : KReg) (tgt : MTarget) (sc : BitVec 4) (x : GuardF)
  /-- `MREL`, long opcode 0x48 -/
  | mrel (d : ZReg) (x : GuardF)
  /-- `MSAVE`, long opcode 0x49 -/
  | msave (d : ZReg) (a : KReg) (sc : BitVec 4) (x : GuardF)
  /-- `MLOAD`, long opcode 0x4A -/
  | mload (d : ZReg) (a : KReg) (x : GuardF)
  /-- `WBAL`, long opcode 0x4B -/
  | wbal (d a : KReg) (b : BitVec 3) (x : GuardF)
  /-- `WBLD`, long opcode 0x4C -/
  | wbld (a : KReg) (x : GuardF)
  /-- `MBIAS`, long opcode 0x4D -/
  | mbias (d : ZReg) (a : KReg) (x : GuardF)
  /-- `MSTAT`, long opcode 0x4E -/
  | mstat (d : KReg) (a : ZReg) (x : GuardF)
  /-- `MXSET`, long opcode 0x4F -/
  | mxset (d : ZReg) (b : KReg) (x : GuardF)
  /-- `ASN_RUN`, long opcode 0x60 -/
  | asnRun (a : KReg) (x : GuardF)
  /-- `ASN_CONT`, long opcode 0x61 -/
  | asnCont (a : KReg) (x : GuardF)
  /-- `ASN_BEST`, long opcode 0x62 -/
  | asnBest (a : KReg) (x : GuardF)
  /-- `ASN_INV`, long opcode 0x63 -/
  | asnInv (a : KReg) (x : GuardF)
  /-- `ASN_STAT`, long opcode 0x64 -/
  | asnStat (d : KReg) (x : GuardF)
  /-- `ASN_CHK`, long opcode 0x65 -/
  | asnChk (a : KReg) (x : GuardF)
  /-- `FWR`, long opcode 0x70 -/
  | fwr (a b : KReg) (x : GuardF)
  /-- `FRD`, long opcode 0x71 -/
  | frd (a b : KReg) (x : GuardF)
  /-- `FRD_K`, long opcode 0x72 -/
  | frdK (d a : KReg) (x : GuardF)
  /-- `FATOM`, long opcode 0x73 -/
  | fatom (d a : KReg) (exch : Bool) (x : GuardF)
  /-- `FSEND`, long opcode 0x74 -/
  | fsend (a : KReg) (x : GuardF)
  /-- `FEVENT`, long opcode 0x75 -/
  | fevent (a : KReg) (x : GuardF)
  /-- `FSTAT`, long opcode 0x76 -/
  | fstat (d : KReg) (x : GuardF)
  /-- `BOPEN`, long opcode 0x77 -/
  | bopen (d a : KReg) (x : GuardF)
  /-- `BPUSH`, long opcode 0x78 -/
  | bpush (a : KReg) (x : GuardF)
  /-- `BCLOSE`, long opcode 0x79 -/
  | bclose (a : KReg) (x : GuardF)
  /-- `BSTAT`, long opcode 0x7A -/
  | bstat (d a : KReg) (x : GuardF)
  /-- `BFREE`, long opcode 0x7B -/
  | bfree (a : KReg) (x : GuardF)
  /-- event `TRIGGER_RETIRE` -/
  | triggerRetire (gid : Nat)
  /-- event `TALLOC_GRANT` -/
  | tallocGrant (lvl : Bool) (unit index base : Nat)
  /-- event `COPY_BYTE_TRANSFER` -/
  | copyByteTransfer (gid op byte : Nat)
  /-- event `COPY_RETIRE` -/
  | copyRetire (gid : Nat)
  /-- event `LOAD_READ` -/
  | loadRead (gid : Nat)
  /-- event `LOAD_RETIRE` -/
  | loadRetire (gid : Nat)
  /-- event `STORE_RETIRE` -/
  | storeRetire (gid : Nat)
  /-- event `BUFFER_DRAIN` -/
  | bufferDrain (wid : Nat)
  /-- event `URN_REPLY_LAND` -/
  | urnReplyLand (gid op lane : Nat)
  /-- event `MWAIT_TIMEOUT` -/
  | mwaitTimeout (gid : Nat)
  /-- event `BARRIER_RUN_GRANT` -/
  | barrierRunGrant (lvl : Bool) (unit index : Nat)
  /-- event `BARRIER_CHANGE_APPLY` -/
  | barrierChangeApply (cid : Nat)
  /-- event `BARRIER_PACKET_ARRIVAL` -/
  | barrierPacketArrival (pkt : BarPacket)
  /-- event `PHASE_MIRROR_UPDATE` -/
  | phaseMirrorUpdate (dpkg : Nat) (handle : BitVec 32) (phase : BitVec 24)
  /-- event `HOSTCALL_RECORD_WRITE` -/
  | hostcallRecordWrite (gid : Nat)
  /-- event `MMA_KSTEP` -/
  | mmaKstep (core gid : Nat)
  /-- event `MATRIX_OP_EXECUTE` -/
  | matrixOpExecute (core gid : Nat)
  /-- event `WEIGHT_REGION_GRANT` -/
  | weightRegionGrant (core index base : Nat)
  /-- event `AUCTION_ROUND` -/
  | auctionRound (cluster : Nat)
  /-- event `FABRIC_PACKET_RECEIVE` -/
  | fabricPacketReceive (pkt : FabPacket) (crcOk : Bool)
  /-- event `REMOTE_ACCESS_APPLY` -/
  | remoteAccessApply (pid : Nat)
  /-- event `FABRIC_OP_RETIRE` -/
  | fabricOpRetire (gid op : Nat)
  /-- event `FABRIC_MESSAGE_ARRIVAL` -/
  | fabricMessageArrival (pid : Nat)
  /-- event `FABRIC_EVENT_ARRIVAL` -/
  | fabricEventArrival (pid : Nat)
  /-- event `BLEND_PUSH_RETIRE` -/
  | blendPushRetire (gid op : Nat)
  /-- event `BLEND_RECORD_WRITE` -/
  | blendRecordWrite (sid : Nat)
  /-- event `BLEND_SESSION_END` -/
  | blendSessionEnd (sid : Nat)
  /-- event `BLEND_TIMEOUT` -/
  | blendTimeout (sid : Nat)
  /-- event `EV_CLEAR_WRITE` -/
  | evClearWrite (vi n : Nat) (val : BitVec 64)
  /-- event `EVSET_WRITE` -/
  | evsetWrite (vi : Nat) (num : BitVec 8)
  /-- event `QUEUE_ENABLE` -/
  | queueEnable (vi q : Nat) (val : BitVec 32)
  /-- event `QUEUE_DISABLE` -/
  | queueDisable (vi q : Nat) (val : BitVec 32)
  /-- event `QTAIL_DOORBELL` -/
  | qtailDoorbell (vi q : Nat) (tail : BitVec 32)
  /-- event `QUEUE_RESUME` -/
  | queueResume (vi q : Nat)
  /-- event `HOSTCALL_RING_ENABLE` -/
  | hostcallRingEnable (vi : Nat) (val : BitVec 32)
  /-- event `PAGE_RING_ENABLE` -/
  | pageRingEnable (vi : Nat) (val : BitVec 32)
  /-- event `HDONE_WRITE` -/
  | hdoneWrite (vi : Nat) (seq : BitVec 32)
  /-- event `PRRESP_WRITE` -/
  | prrespWrite (vi : Nat) (fail : Bool) (tag : BitVec 32)
  /-- event `REGISTER_WRITE` -/
  | registerWrite (fn off size : Nat) (val : BitVec 64)
  /-- event `FUNCTION_LEVEL_RESET` -/
  | functionLevelReset (vi : Nat)
  /-- event `HOST_POSTED_WRITE` -/
  | hostPostedWrite (addr : BitVec 48) (bytes : List (BitVec 8))
  /-- event `CONSUME` -/
  | consume (vi q : Nat)
  /-- event `RELEASE` -/
  | release (vi q : Nat)
  /-- event `LAUNCH_RECORD_READ` -/
  | launchRecordRead (lid : Nat)
  /-- event `TASK_RECORD_READ` -/
  | taskRecordRead (gid op : Nat)
  /-- event `PIECE_DISPATCH` -/
  | pieceDispatch (lid : Nat) (places : List (Nat × Nat))
  /-- event `PIECE_RETIRE` -/
  | pieceRetire (pid : Nat)
  /-- event `COMPLETE` -/
  | complete (lid : Nat)
  /-- event `HEARTBEAT_TIMEOUT` -/
  | heartbeatTimeout (qc : Nat)
  /-- event `QUEUE_CORE_REPAIR` -/
  | queueCoreRepair (qc : Nat)
  /-- event `QUEUE_WATCHDOG_EXPIRY` -/
  | queueWatchdogExpiry (vi q : Nat)
  /-- event `LEAF_DRAIN` -/
  | leafDrain (leaf : Nat)
  /-- event `POLICY_CORE_RESTART` -/
  | policyCoreRestart
  /-- event `BUDGET_PERIOD_START` -/
  | budgetPeriodStart
  /-- event `TENANT_SWITCH` -/
  | tenantSwitch (leaf : Nat)
  /-- event `ASSIST_TIMEOUT` -/
  | assistTimeout (tag : Nat)
  /-- event `ASSIST_REPLY` -/
  | assistReply (val : BitVec 64)
  /-- event `PAGE_REQUEST_POST` -/
  | pageRequestPost (gid lane : Nat)
  /-- event `STAGE2_PAGE_SERVICE` -/
  | stage2PageService (eid : Nat)
  /-- event `WALK_COMPLETE` -/
  | walkComplete (wid : Nat)
  /-- event `INVALIDATION_ARRIVAL` -/
  | invalidationArrival (iid cluster : Nat)
  /-- event `INVALIDATION_ACK` -/
  | invalidationAck (iid : Nat)
  /-- event `PREEMPT` -/
  | preempt (gid : Nat)
  /-- event `RESTORE` -/
  | restore (gid core ctx : Nat)
  /-- event `SUSPENDED_COPY_RESUME` -/
  | suspendedCopyResume (gid op : Nat)
  /-- event `FREQUENCY_STEP` -/
  | frequencyStep (die : Nat)
  /-- event `RELOCK_END` -/
  | relockEnd (die : Nat)
  /-- event `POWER_SAMPLE` -/
  | powerSample (watts : Nat)
  /-- event `JUNCTION_HOT` -/
  | junctionHot (die : Nat)
  /-- event `THERMAL_TRIP` -/
  | thermalTrip (die : Nat)
  /-- event `CXL_LINK_DOWN` -/
  | cxlLinkDown (port : Nat)
  /-- event `RESET` -/
  | reset
  /-- event `BOOT_READY` -/
  | bootReady
  /-- event `PART_CONFIG` -/
  | partConfig
  /-- event `WINDOW_SET` -/
  | windowSet
  /-- event `PLIMIT_SET` -/
  | plimitSet
  /-- event `FREQ_TARGET` -/
  | freqTarget
  /-- event `TICKET_MAKE` -/
  | ticketMake
  /-- event `TICKET_TAKE` -/
  | ticketTake
  /-- event `ATTEST` -/
  | attest
  /-- event `IMAGE_LOAD` -/
  | imageLoad
  /-- event `ROLLBACK_ADVANCE` -/
  | rollbackAdvance
  /-- event `TICKET_EXPIRY` -/
  | ticketExpiry (tid : Nat)
  /-- event `MIGRATION_PHASE` -/
  | migrationPhase (leaf : Nat)
  /-- event `MIGRATION_FAILURE` -/
  | migrationFailure (leaf : Nat)
  /-- event `CUT_MARKER_ARRIVAL` -/
  | cutMarkerArrival (leaf dpkg : Nat)
  /-- event `CHECKPOINT_WRITE` -/
  | checkpointWrite (leaf : Nat) (addr : BitVec 48)
  /-- event `ASSIGNMENT_OP_EXECUTE` -/
  | assignmentOpExecute (cluster : Nat)
  /-- event `BARRIER_PACKET_RESEND` -/
  | barrierPacketResend (cid : Nat)
  deriving DecidableEq, Repr

end Sys2Proof
end

