-- ==== Sys2Proof/Config.lean ====
section
/-!
DEFINITION. What one device fixes and the manual does not state: values without a body, so that nothing can be proved
of them but what holds for every value. Each is named in the assumption log.
-/

namespace Sys2Proof

/-- The bits a function opcode returns for an operand, within the bound of R230: `wide` for F64, the function, the
operand's bits. Used modulo the number of results the bound allows. DESIGN CHOICE, log
entry 9: a free value. -/
opaque Config.fnValue : Bool → FloatFn → Nat → Nat

/-- The difference of `%time` from the hub's count at a read, 0 to 4 standing for −2 to 2 ns (R324): by the number of
free values drawn before. DESIGN CHOICE, log entry 10. -/
opaque Config.timeSkew : Nat → Nat

/-- Whether the core gathers the `k`-th of the lanes that may be gathered at a REGROUP header (R122), by the number of free
values drawn before. DESIGN CHOICE, log entry 24: a free value, for the manual says only that the core may. -/
opaque Config.gathers : Nat → Nat → Bool

/-- How often an event that caches and banks cause occurs at one access (R337, events 4 and 5), by the event and the number
of free values drawn before. DESIGN CHOICE, log entry 24: a free value. -/
opaque Config.cacheEvents : Nat → Nat → Nat

/-- Units of 64 bytes that an access to memory moves on its channel or port (R62), by the number of free values drawn before: what
the caches hold decides it. DESIGN CHOICE, log entry 24: a free value. -/
opaque Config.channelUnits : Nat → Nat

/-- Nanoseconds for which a restart keeps the policy core away (R67), by the number of free values drawn before. DESIGN CHOICE,
log entry 70: a free value. -/
opaque Config.policyAway : Nat → Nat

/-- What POISON leaves in xval where the line read is one of a context image, which no generic address names (R182, R166), by the
number of free values drawn before. DESIGN CHOICE, log entry 103: a free value. -/
opaque Config.imageXval : Nat → Nat

/-- The other packages on which groups of a POD-bound piece lie (R294), by the piece: they are placed there by other devices. DESIGN
CHOICE, log entry 101: a free value. -/
opaque Config.piecePackages : Nat → List Nat

/-- The route table that the management function loads into the fabric router, as the fabric numbers with a route, and the ports it
makes inter-pod (R314). DESIGN CHOICE, log entry 101: free values. -/
opaque Config.routeTable : List Nat
opaque Config.interPodPorts : List Nat

/-- Which of the reads that an engine may make next it makes (R252, R271, R276), by the number of free values drawn before. DESIGN
CHOICE, log entry 33: a free value. -/
opaque Config.readPick : Nat → Nat

/-- Bytes of the expander behind a CXL port, and whether it marks a line poisoned at a time (R313). DESIGN CHOICE, log entry 105: free
values. -/
opaque Config.cxlCapacity : Nat → Nat
opaque Config.cxlMarks : Nat → Nat → Bool

/-- The rank of a NaN among the values and bids of an auction (R265), which the manual does not state. DESIGN CHOICE, log entry
11: a free value. -/
opaque Config.nanBidRank : Int

/-- Byte `i` of the data of an assist request, by its function and what it carries (R367, R392): the manual does not state the
layout. DESIGN CHOICE, log entry 13, as every value below: free values. -/
opaque Config.assistByte : Nat → List Nat → Nat → BitVec 8

/-- The device certificate that ATTEST returns, of at most 4,096 bytes (R387, R390): an X.509 certificate in DER. -/
opaque Config.deviceCertificate : List (BitVec 8)

/-- The private key of the device's identity key pair, which never leaves the hub, and the number that it takes for a signature over a
digest (R387). -/
opaque Config.identityKey : Nat
opaque Config.signNonce : List (BitVec 8) → Nat

/-- The partition configuration in force, as the bytes whose SHA-256 a report carries (R387): the manual does not say how
it is written down; by the partition blocks in force, each with its partition. -/
opaque Config.configBytes : List (Nat × List (BitVec 8)) → List (BitVec 8)

/-- What stands for the DIGEST of the running image before an image runs (R387): byte `i`. -/
opaque Config.romDigest : Nat → BitVec 8

/-- The image in hub flash, and the key hash fused, at manufacture (R384, R385). DESIGN CHOICE, log entry 97: free values. -/
opaque Config.flashImage : List (BitVec 8)
opaque Config.fusedKeyHash : List (BitVec 8)

/-- Memory channels, and CXL ports, that fail when they are trained (R384), by the number of free values drawn before, and how many
fabric links do. DESIGN CHOICE, log entry 97: free values. -/
opaque Config.failedChannels : Nat → List Nat
opaque Config.failedPorts : Nat → List Nat
opaque Config.failedLinks : Nat → Nat

/-- What a migration ticket says (R357): source package and leaf, target package and leaf, the source's clusters and memory sizes, and
when it was made by the reference time of the device that reads it. -/
structure TicketFacts where
  srcPkg : Nat
  srcLeaf : Nat
  dstPkg : Nat
  dstLeaf : Nat
  clusters : Nat
  sizes : List Nat
  made : Nat
  deriving DecidableEq, Repr, Inhabited

/-- Byte `i` of a ticket with a number, and what a device reads in a ticket's 128 bytes (R357): the manual does not state the layout.
DESIGN CHOICE, log entry 13: free values. -/
opaque Config.ticketBytes : TicketFacts → Nat → Nat → BitVec 8
opaque Config.ticketRead : List (BitVec 8) → TicketFacts

/-- The other packages that hold a slice of a top-level partition (R359). DESIGN CHOICE, log entry 101: a free value. -/
opaque Config.partPackages : Nat → List Nat

end Sys2Proof
end

