-- ==== Sys2Proof/WellFormed.lean ====
section
/-!
DEFINITION. Which instructions the words of the manual can hold: ranges of register bases, immediates, scopes, special
and control register numbers that a constructor's types alone do not fix (R89, R90, R184 and the entries of the
instructions). An event carries no word and is well formed as it stands.
-/

namespace Sys2Proof

/-- Control register numbers that R336 lists. -/
def ctlListed (n : Imm8) : Bool :=
  let x := n.toNat
  x ≤ 0x02 || (0x04 ≤ x && x ≤ 0x06) || (0x10 ≤ x && x ≤ 0x16) || (0x18 ≤ x && x ≤ 0x1F)

/-- Special register numbers that R76 or R153 lists. A level register is also checked against NLEVEL at issue. -/
def specialListed (n : Imm8) : Bool :=
  let x := n.toNat
  x ≤ 0x05 || (0x10 ≤ x && x ≤ 0x7B && x % 16 ≤ 0x0B) || (0x80 ≤ x && x ≤ 0x82) || (0x90 ≤ x && x ≤ 0x97)

/-- FMOD values of `ld.g.32` (R186). -/
def loadTag32 (t : BitVec 4) : Bool :=
  let x := t.toNat
  x ≤ 2 || x == 5 || (7 ≤ x && x ≤ 13)
/-- FMOD values of `ld.g.64` (R186). -/
def loadTag64 (t : BitVec 4) : Bool :=
  let x := t.toNat
  x == 0 || x == 3 || x == 4 || x == 6

/-- A scope code (R90). -/
def scopeOk (s : BitVec 4) : Bool := decide (s.toNat ≤ 10)
/-- An even register number where a slot is a pair. -/
def evenIf (wide : Bool) (n : VReg) : Bool := !wide || n.toNat % 2 == 0
/-- A source register even where the slot is a pair. -/
def srcEvenIf (wide : Bool) : Src → Bool
  | .v n => evenIf wide n
  | .k _ => true
/-- Scope of an optional long form. -/
def extScopeOk : ExtS → Bool
  | .short => true
  | .long s _ => scopeOk s
/-- Scope and tag of an optional long form of a load. -/
def extLoadOk (ok : BitVec 4 → Bool) : ExtSF → Bool
  | .short => true
  | .long s t _ => scopeOk s && ok t

/-- The fields of an instruction hold values that its word admits. -/
def Instr.wellFormed : Instr → Bool
  | .loop (.short n) => decide (n.toNat ≠ 0)
  | .sel d a b _ wide _ => evenIf wide d && evenIf wide a && srcEvenIf wide b
  | .smov d b _ => specialListed b && evenIf (decide (128 ≤ b.toNat)) d
  | .rng _ _ b _ => b.toNat % 2 == 0
  | .cvtFI d _ b _ => evenIf (decide (b = .f64)) d
  | .cvtIF d _ b _ => evenIf (decide (b = .i64 ∨ b = .n64)) d
  | .cvtFF d _ b _ _ => evenIf (decide (b = .f64)) d
  | .ldGI8 _ _ _ x => extScopeOk x
  | .ldGN8 _ _ _ x => extScopeOk x
  | .ldGI16 _ _ _ x => extScopeOk x
  | .ldGN16 _ _ _ x => extScopeOk x
  | .ldG32 _ _ _ x => extLoadOk loadTag32 x
  | .ldG64 _ _ _ x => extLoadOk loadTag64 x
  | .stG8 _ _ _ x => extScopeOk x
  | .stG16 _ _ _ x => extScopeOk x
  | .stG32 _ _ _ x => extScopeOk x
  | .stG64 _ _ _ x => extScopeOk x
  | .aptest _ _ b _ => decide (b.toNat ≤ 4)
  | .cp a _ x => decide (a.toNat ≤ 60) && extScopeOk x
  | .wset _ a _ => decide (a.toNat ≤ 60)
  | .fence _ b _ => scopeOk b
  | .mon _ x => extScopeOk x
  | .ugetI32 _ _ _ _ sc _ => scopeOk sc
  | .ugetI64 _ _ _ _ sc _ => scopeOk sc
  | .ugetFadd d _ b wide sc _ => evenIf wide d && srcEvenIf wide b && scopeOk sc
  | .uputI32 _ _ op sc _ => scopeOk sc && decide (op ≠ .swap)
  | .uputI64 _ _ op sc _ => scopeOk sc && decide (op ≠ .swap)
  | .uputFadd _ b wide sc _ => srcEvenIf wide b && scopeOk sc
  | .ucmpx d _ b c wide sc _ => evenIf wide d && evenIf wide c && srcEvenIf wide b && scopeOk sc
  | .hcall d _ _ => decide (d.toNat ≤ 60)
  | .ctlrd _ b _ => ctlListed b
  | .ctlwr _ b _ => ctlListed b
  | .errrd _ b _ => decide (b.toNat ≤ 5)
  | .mmaTb8 a _ => decide (a.toNat ≤ 56)
  | .mmaTb6 a _ => decide (a.toNat ≤ 56)
  | .mmaTb4 a _ => decide (a.toNat ≤ 56)
  | .mmaBf16 a _ => decide (a.toNat ≤ 56)
  | .mmaF16 a _ => decide (a.toNat ≤ 56)
  | .mmaF32 a _ => decide (a.toNat ≤ 56)
  | .mepi _ a _ sc _ => decide (a.toNat ≤ 61) && scopeOk sc
  | .msave _ _ sc _ => scopeOk sc
  | .wbld a _ => decide (a.toNat ≤ 61)
  | .mbias _ a _ => decide (a.toNat ≤ 62)
  | .asnRun a _ => decide (a.toNat ≤ 58)
  | .asnCont a _ => decide (a.toNat ≤ 58)
  | .asnBest a _ => decide (a.toNat ≤ 58)
  | .asnInv a _ => decide (a.toNat ≤ 58)
  | .asnChk a _ => decide (a.toNat ≤ 58)
  | .fwr a _ _ => decide (a.toNat ≤ 61)
  | .frd a _ _ => decide (a.toNat ≤ 61)
  | .fatom _ a _ _ => decide (a.toNat ≤ 62)
  | .fsend a _ => decide (a.toNat ≤ 61)
  | .fevent a _ => decide (a.toNat ≤ 62)
  | .bopen _ a _ => decide (a.toNat ≤ 60)
  | .bpush a _ => decide (a.toNat ≤ 61)
  | .bclose a _ => decide (a.toNat ≤ 61)
  | _ => true

end Sys2Proof
end

