-- ==== Sys2Proof/Decode.lean ====
section
/-!
DEFINITION. From bytes to instructions and back: the field maps of the short and long words (R88, R90, R91), the
decoder of one instruction with the unit at which a reserved or illegal encoding offends (R89, R110), the encoder
written from the same maps, the prefixes and which instruction accepts which (R97, R98), block headers and loop
increment words (R94, R96), and whole sequences (R87).
-/

namespace Sys2Proof

/-- Fields of a short word, or of a long word's low unit (R88). -/
structure LoFields where
  op : BitVec 8
  d : BitVec 7
  a : BitVec 7
  b : BitVec 8
  deriving DecidableEq, Repr

/-- Fields of a long word's high unit (R90). -/
structure HiFields where
  xop : BitVec 4
  scope : BitVec 4
  imm8 : BitVec 8
  fmod : BitVec 4
  c : BitVec 7
  gen : Bool
  gneg : Bool
  gp : BitVec 3
  deriving DecidableEq, Repr

/-- The fields of a low unit, numbered as R88 numbers its bits. -/
def loFields (w : Nat) : LoFields :=
  ⟨BitVec.ofNat 8 (w / 4), BitVec.ofNat 7 (w / 1024), BitVec.ofNat 7 (w / 131072), BitVec.ofNat 8 (w / 16777216)⟩

/-- The fields of a high unit: bit 32 + i of R90 is bit i of the unit. -/
def hiFields (w : Nat) : HiFields :=
  ⟨BitVec.ofNat 4 (w / 268435456), BitVec.ofNat 4 (w / 16777216), BitVec.ofNat 8 (w / 65536), BitVec.ofNat 4 (w / 4096),
   BitVec.ofNat 7 (w / 32), w / 16 % 2 == 1, w / 8 % 2 == 1, BitVec.ofNat 3 w⟩

/-- The low unit with these fields and length selector `ls` (R88, R85). -/
def loUnit (ls : Nat) (f : LoFields) : Nat :=
  ls + 4 * f.op.toNat + 1024 * f.d.toNat + 131072 * f.a.toNat + 16777216 * f.b.toNat

/-- The high unit with these fields (R90). -/
def hiUnit (h : HiFields) : Nat :=
  h.gp.toNat + 8 * h.gneg.toNat + 16 * h.gen.toNat + 32 * h.c.toNat + 4096 * h.fmod.toNat + 65536 * h.imm8.toNat +
    16777216 * h.scope.toNat + 268435456 * h.xop.toNat

/-- The unit of an instruction that offends (R110): the low one, or the high one. -/
inductive BadUnit where
  | low
  | high
  deriving DecidableEq, Repr

/-- Reading fields: an answer, or the unit that offends. Low-unit fields are read before high-unit ones, so that the
lowest offending unit is the one reported. -/
abbrev Field (α : Type) := Except BadUnit α

/-- Demands `c` of the low unit. -/
def needLo (c : Bool) : Field Unit := if c then .ok () else .error .low
/-- Demands `c` of the high unit. -/
def needHi (c : Bool) : Field Unit := if c then .ok () else .error .high

/-- A field the instruction does not use (R89). -/
def fZero {n : Nat} (x : BitVec n) : Field Unit := needLo (x == 0)
/-- A V register field. -/
def fV (x : BitVec 7) : Field VReg := .ok x
/-- A D pair field: an even value 2n for Dn (R89). -/
def fD (x : BitVec 7) : Field DReg := do
  needLo (x.toNat % 2 == 0)
  .ok (BitVec.ofNat 6 (x.toNat / 2))
/-- A V field, or a pair field when `wide`, kept as the register number it holds. -/
def fX (wide : Bool) (x : BitVec 7) : Field VReg := do
  needLo (!wide || x.toNat % 2 == 0)
  .ok x
/-- A K field: bits [5:0], bit 6 reserved. -/
def fK (x : BitVec 7) : Field KReg := do
  needLo (x.toNat < 64)
  .ok (BitVec.ofNat 6 x.toNat)
/-- A K field that names the first of several registers, at most `m` (R184). -/
def fKb (m : Nat) (x : BitVec 7) : Field KReg := do
  needLo (x.toNat ≤ m)
  .ok (BitVec.ofNat 6 x.toNat)
/-- A P field: bits [2:0]. -/
def fP (x : BitVec 7) : Field PReg := do
  needLo (x.toNat < 8)
  .ok (BitVec.ofNat 3 x.toNat)
/-- A T field: bits [4:0]. -/
def fT (x : BitVec 7) : Field TReg := do
  needLo (x.toNat < 32)
  .ok (BitVec.ofNat 5 x.toNat)
/-- A W field: bits [2:0]. -/
def fW (x : BitVec 7) : Field WReg := do
  needLo (x.toNat < 8)
  .ok (BitVec.ofNat 3 x.toNat)
/-- An F or Z field: bits [1:0]. -/
def fF (x : BitVec 7) : Field FReg := do
  needLo (x.toNat < 4)
  .ok (BitVec.ofNat 2 x.toNat)
/-- A slot number of `ored`: bits [2:0] (R310). -/
def fSlot (x : BitVec 7) : Field (BitVec 3) := do
  needLo (x.toNat < 8)
  .ok (BitVec.ofNat 3 x.toNat)

/-- B8 naming a V or a K register (R88). -/
def fSrc (x : BitVec 8) : Field Src :=
  if x.toNat < 128 then .ok (.v (BitVec.ofNat 7 x.toNat))
  else do
    needLo (x.toNat < 192)
    .ok (.k (BitVec.ofNat 6 x.toNat))
/-- B8 naming a D pair or a K register (R88, R89). -/
def fSrcD (x : BitVec 8) : Field SrcD :=
  if x.toNat < 128 then do
    needLo (x.toNat % 2 == 0)
    .ok (.d (BitVec.ofNat 6 (x.toNat / 2)))
  else do
    needLo (x.toNat < 192)
    .ok (.k (BitVec.ofNat 6 x.toNat))
/-- B8 naming a V register, a pair when `wide`, or a K register. -/
def fSrcX (wide : Bool) (x : BitVec 8) : Field Src :=
  if x.toNat < 128 then do
    needLo (!wide || x.toNat % 2 == 0)
    .ok (.v (BitVec.ofNat 7 x.toNat))
  else do
    needLo (x.toNat < 192)
    .ok (.k (BitVec.ofNat 6 x.toNat))
/-- B8 naming a K register: B8[7] is 1, B8[6] is 0 (R184). -/
def fBK (x : BitVec 8) : Field KReg := do
  needLo (128 ≤ x.toNat && x.toNat < 192)
  .ok (BitVec.ofNat 6 x.toNat)
/-- B8 naming an even K register (R160). -/
def fBK2 (x : BitVec 8) : Field KReg := do
  needLo (128 ≤ x.toNat && x.toNat < 192 && x.toNat % 2 == 0)
  .ok (BitVec.ofNat 6 x.toNat)
/-- A P register in B8. -/
def fBP (x : BitVec 8) : Field PReg := do
  needLo (x.toNat < 8)
  .ok (BitVec.ofNat 3 x.toNat)
/-- An immediate of any value. -/
def fImm (x : BitVec 8) : Field Imm8 := .ok x
/-- An immediate below `2 ^ n` kept in `n` bits. -/
def fSmall (n : Nat) (x : BitVec 8) : Field (BitVec n) := do
  needLo (x.toNat < 2 ^ n)
  .ok (BitVec.ofNat n x.toNat)
/-- An immediate at most `m`, kept in `n` bits. -/
def fUpTo (n m : Nat) (x : BitVec 8) : Field (BitVec n) := do
  needLo (x.toNat ≤ m)
  .ok (BitVec.ofNat n x.toNat)
/-- A control register number that R336 lists. -/
def fCtl (x : BitVec 8) : Field Imm8 := do
  needLo (ctlListed x)
  .ok x
/-- A special register number that R76 or R153 lists. -/
def fSpecial (x : BitVec 8) : Field Imm8 := do
  needLo (specialListed x)
  .ok x
/-- A function code (R230). -/
def fFn (x : BitVec 8) : Field FloatFn :=
  match x.toNat with
  | 0 => .ok .frcp
  | 1 => .ok .frsqrt
  | 2 => .ok .fexp2
  | 3 => .ok .flog2
  | 4 => .ok .fsinpi
  | 5 => .ok .fcospi
  | _ => .error .low
/-- Target F32 or F64 by tag code (R232). -/
def fFTarget (x : Nat) : Field FTarget :=
  match x with
  | 5 => .ok .f32
  | 6 => .ok .f64
  | _ => .error .low
/-- Integer target by tag code (R233). -/
def fITarget (x : BitVec 8) : Field ITarget :=
  match x.toNat with
  | 1 => .ok .i32
  | 2 => .ok .n32
  | 3 => .ok .i64
  | 4 => .ok .n64
  | _ => .error .low
/-- Block target by tag code (R236). -/
def fBTarget (x : BitVec 8) : Field BTarget :=
  match x.toNat with
  | 9 => .ok .tb8
  | 10 => .ok .tb6
  | 11 => .ok .tb4
  | _ => .error .low
/-- A comparison condition of `fcmp` in D[6:3], with P in D[2:0] (R227). -/
def fFCond (x : BitVec 7) : Field FCond :=
  match x.toNat / 8 with
  | 0 => .ok .eq
  | 1 => .ok .ne
  | 2 => .ok .lt
  | 3 => .ok .le
  | 4 => .ok .gt
  | 5 => .ok .ge
  | 6 => .ok .un
  | 7 => .ok .or
  | _ => .error .low

/-- The guard of a high unit: GNEG and GP are reserved when GEN is 0 (R90). -/
def fGuard (h : HiFields) : Field GuardF :=
  if h.gen then .ok (some ⟨h.gneg, h.gp⟩)
  else do
    needHi (!h.gneg && h.gp == 0)
    .ok none
/-- FMOD, IMM8, C and SCOPE unused, each as the flag says. -/
def fUnused (scope imm8 fmod c : Bool) (h : HiFields) : Field Unit := do
  needHi (!scope || h.scope == 0)
  needHi (!imm8 || h.imm8 == 0)
  needHi (!fmod || h.fmod == 0)
  needHi (!c || h.c == 0)
/-- SCOPE, 0 to 10 (R90). -/
def fScope (h : HiFields) : Field (BitVec 4) := do
  needHi (h.scope.toNat ≤ 10)
  .ok h.scope
/-- Short form, or a long form that adds only the guard. -/
def fExt : Option HiFields → Field Ext
  | none => .ok .short
  | some h => do
    fUnused true true true true h
    .ok (.long (← fGuard h))
/-- Short form, or a long form that adds nothing: the instructions marked HINT only (R130). -/
def fExtH : Option HiFields → Field Bool
  | none => .ok false
  | some h => do
    fUnused true true true true h
    needHi (!h.gen && !h.gneg && h.gp == 0)
    .ok true
/-- Short form, or a long form that adds SCOPE and the guard (R184, R301). -/
def fExtS : Option HiFields → Field ExtS
  | none => .ok .short
  | some h => do
    fUnused false true true true h
    .ok (.long (← fScope h) (← fGuard h))
/-- Short form, or a long form that adds SCOPE, a tag in FMOD and the guard (R186). -/
def fExtSF (ok : BitVec 4 → Bool) : Option HiFields → Field ExtSF
  | none => .ok .short
  | some h => do
    fUnused false true false true h
    needHi (ok h.fmod)
    .ok (.long (← fScope h) h.fmod (← fGuard h))
/-- Short form, or a long form of `lea` (R150). -/
def fExtLea : Option HiFields → Field ExtLea
  | none => .ok .short
  | some h => do
    fUnused true true false true h
    needHi (h.fmod.toNat < 4)
    .ok (.long (BitVec.ofNat 2 h.fmod.toNat) (← fGuard h))
/-- FMOD[0] as the width, FMOD[3:1] reserved (R149, R305, R306). -/
def fWide (h : HiFields) : Field Bool := do
  needHi (h.fmod.toNat < 2)
  .ok (h.fmod.toNat % 2 == 1)
/-- FMOD[0], read before it is checked. -/
def wideBit (h : HiFields) : Bool := h.fmod.toNat % 2 == 1
/-- A condition of `cmp.cc.i64` in FMOD (R148). -/
def fCond (h : HiFields) : Field Cond :=
  match h.fmod.toNat with
  | 0 => .ok .eq
  | 1 => .ok .ne
  | 2 => .ok .lt
  | 3 => .ok .le
  | 4 => .ok .gt
  | 5 => .ok .ge
  | _ => .error .high
/-- An operation of `uget.op`; `uput.op` has no `swap` (R303, R304). -/
def fUrn (swap : Bool) (h : HiFields) : Field UrnOp :=
  match h.fmod.toNat with
  | 0 => .ok .add
  | 1 => .ok .min
  | 2 => .ok .max
  | 3 => .ok .and
  | 4 => .ok .or
  | 5 => .ok .xor
  | 6 => if swap then .ok .swap else .error .high
  | _ => .error .high
/-- A target of `mepi` in FMOD (R253). -/
def fMTarget (h : HiFields) : Field MTarget :=
  match h.fmod.toNat with
  | 5 => .ok .f32
  | 7 => .ok .bf16
  | 8 => .ok .f16
  | 9 => .ok .tb8
  | 10 => .ok .tb6
  | 11 => .ok .tb4
  | _ => .error .high
/-- FMOD of `fatom`: 0 adds, 6 exchanges (R317). -/
def fExch (h : HiFields) : Field Bool :=
  match h.fmod.toNat with
  | 0 => .ok false
  | 6 => .ok true
  | _ => .error .high
/-- The high unit of an instruction that has no short encoding (R91). -/
def fLong : Option HiFields → Field HiFields
  | none => .error .low
  | some h => .ok h

/-- Field values of the encoder. -/
def eSrc : Src → BitVec 8
  | .v n => BitVec.ofNat 8 n.toNat
  | .k n => BitVec.ofNat 8 (128 + n.toNat)
def eSrcD : SrcD → BitVec 8
  | .d n => BitVec.ofNat 8 (2 * n.toNat)
  | .k n => BitVec.ofNat 8 (128 + n.toNat)
def eD (n : DReg) : BitVec 7 := BitVec.ofNat 7 (2 * n.toNat)
def e7 {n : Nat} (x : BitVec n) : BitVec 7 := BitVec.ofNat 7 x.toNat
def e8 {n : Nat} (x : BitVec n) : BitVec 8 := BitVec.ofNat 8 x.toNat
def eBK (n : KReg) : BitVec 8 := BitVec.ofNat 8 (128 + n.toNat)
def eFn : FloatFn → BitVec 8
  | .frcp => 0 | .frsqrt => 1 | .fexp2 => 2 | .flog2 => 3 | .fsinpi => 4 | .fcospi => 5
def eFTarget : FTarget → BitVec 8
  | .f32 => 5 | .f64 => 6
def eITarget : ITarget → BitVec 8
  | .i32 => 1 | .n32 => 2 | .i64 => 3 | .n64 => 4
def eBTarget : BTarget → BitVec 8
  | .tb8 => 9 | .tb6 => 10 | .tb4 => 11
def eFCond : FCond → Nat
  | .eq => 0 | .ne => 1 | .lt => 2 | .le => 3 | .gt => 4 | .ge => 5 | .un => 6 | .or => 7
def eCond : Cond → BitVec 4
  | .eq => 0 | .ne => 1 | .lt => 2 | .le => 3 | .gt => 4 | .ge => 5
def eUrn : UrnOp → BitVec 4
  | .add => 0 | .min => 1 | .max => 2 | .and => 3 | .or => 4 | .xor => 5 | .swap => 6
def eMTarget : MTarget → BitVec 4
  | .f32 => 5 | .bf16 => 7 | .f16 => 8 | .tb8 => 9 | .tb6 => 10 | .tb4 => 11
def eWide (w : Bool) : BitVec 4 := if w then 1 else 0
def eExch (x : Bool) : BitVec 4 := if x then 6 else 0

/-- A high unit with XOP, SCOPE, IMM8, FMOD, C and a guard (R90). -/
def eHi (xop : BitVec 4) (scope : BitVec 4) (imm8 : BitVec 8) (fmod : BitVec 4) (c : BitVec 7) (g : GuardF) : HiFields :=
  match g with
  | none => ⟨xop, scope, imm8, fmod, c, false, false, 0⟩
  | some g => ⟨xop, scope, imm8, fmod, c, true, g.neg, g.p⟩
/-- The high unit of an optional long form. -/
def eExt (xop : BitVec 4) : Ext → Option HiFields
  | .short => none
  | .long g => some (eHi xop 0 0 0 0 g)
def eExtH (xop : BitVec 4) : Bool → Option HiFields
  | false => none
  | true => some (eHi xop 0 0 0 0 none)
def eExtS (xop : BitVec 4) : ExtS → Option HiFields
  | .short => none
  | .long sc g => some (eHi xop sc 0 0 0 g)
def eExtSF (xop : BitVec 4) : ExtSF → Option HiFields
  | .short => none
  | .long sc fm g => some (eHi xop sc 0 fm 0 g)
def eExtLea (xop : BitVec 4) : ExtLea → Option HiFields
  | .short => none
  | .long s g => some (eHi xop 0 0 (BitVec.ofNat 4 s.toNat) 0 g)

/-- Short opcodes 0x00 to 0x0F with their long forms (R107). -/
def decodeShort0 (op : Nat) (f : LoFields) (h : Option HiFields) : Field Instr :=
  match op with
  | 0x00 => do
    fZero f.d
    fZero f.a
    fZero f.b
    let x ← fExt h
    .ok (.nop x)
  | 0x01 => do
    fZero f.d
    fZero f.a
    let b ← fImm f.b
    let x ← fExt h
    .ok (.bra b x)
  | 0x02 => do
    fZero f.d
    let a ← fD f.a
    fZero f.b
    let x ← fExt h
    .ok (.jmp a x)
  | 0x03 => do
    let d ← fD f.d
    fZero f.a
    let b ← fImm f.b
    let x ← fExt h
    .ok (.call d b x)
  | 0x04 => do
    let d ← fD f.d
    let a ← fD f.a
    fZero f.b
    let x ← fExt h
    .ok (.callx d a x)
  | 0x05 => do
    fZero f.d
    fZero f.a
    fZero f.b
    let x ← fExt h
    .ok (.exit x)
  | 0x06 => do
    fZero f.d
    fZero f.a
    fZero f.b
    let x ← fExt h
    .ok (.yield x)
  | 0x07 => do
    needLo (f.b.toNat / 64 == 0)
    let w := f.b.toNat * 16384 + f.a.toNat * 128 + f.d.toNat
    let x ← fExtH h
    .ok (.wait (BitVec.ofNat 4 (w / 65536)) (BitVec.ofNat 4 (w / 4096)) (BitVec.ofNat 4 (w / 256)) (BitVec.ofNat 4 (w / 16)) (BitVec.ofNat 4 w) x)
  | 0x08 => do
    fZero f.d
    fZero f.a
    if 128 ≤ f.b.toNat then do
      let b ← fBK f.b
      let x ← fExtH h
      .ok (.loopK b x)
    else match h with
      | none => do
        needLo (f.b.toNat != 0)
        .ok (.loop (.short (BitVec.ofNat 7 f.b.toNat)))
      | some h => do
        fZero f.b
        fUnused true false true true h
        needHi (!h.gen && !h.gneg && h.gp == 0)
        .ok (.loop (.long h.imm8))
  | 0x09 => do
    fZero f.d
    fZero f.a
    fZero f.b
    let x ← fExt h
    .ok (.trigger x)
  | 0x0A => do
    let d ← fD f.d
    fZero f.a
    fZero f.b
    let x ← fExt h
    .ok (.tres d x)
  | 0x0B => do
    fZero f.d
    let a ← fD f.a
    fZero f.b
    let x ← fExt h
    .ok (.spawn a x)
  | 0x0C => do
    let d ← fK f.d
    fZero f.a
    fZero f.b
    let x ← fExtH h
    .ok (.ringAdv d x)
  | 0x0D => do
    let d ← fK f.d
    let a ← fK f.a
    fZero f.b
    let x ← fExtH h
    .ok (.ringCur d a x)
  | 0x0E => do
    let d ← fD f.d
    fZero f.a
    fZero f.b
    let x ← fExt h
    .ok (.getlsw d x)
  | 0x0F => do
    fZero f.d
    let a ← fP f.a
    let b ← fImm f.b
    let x ← fExt h
    .ok (.brany a b x)
  | _ => .error .low

/-- Short opcodes 0x10 to 0x1F with their long forms (R107). -/
def decodeShort1 (op : Nat) (f : LoFields) (h : Option HiFields) : Field Instr :=
  match op with
  | 0x10 => do
    fZero f.d
    let a ← fP f.a
    let b ← fImm f.b
    let x ← fExt h
    .ok (.brall a b x)
  | 0x11 => do
    let d ← fP f.d
    let a ← fP f.a
    let b ← fBP f.b
    let x ← fExt h
    .ok (.pand d a b x)
  | 0x12 => do
    let d ← fP f.d
    let a ← fP f.a
    let b ← fBP f.b
    let x ← fExt h
    .ok (.por d a b x)
  | 0x13 => do
    let d ← fP f.d
    let a ← fP f.a
    let b ← fBP f.b
    let x ← fExt h
    .ok (.pxor d a b x)
  | 0x14 => do
    let d ← fP f.d
    let a ← fP f.a
    let b ← fBP f.b
    let x ← fExt h
    .ok (.pandn d a b x)
  | 0x15 => do
    let d ← fP f.d
    let a ← fV f.a
    fZero f.b
    let x ← fExt h
    .ok (.ptest d a x)
  | 0x16 => do
    let d ← fV f.d
    let a ← fP f.a
    fZero f.b
    let x ← fExt h
    .ok (.pget d a x)
  | 0x17 => do
    let d ← fP f.d
    fZero f.a
    let b ← fBK f.b
    let x ← fExt h
    .ok (.pmask d b x)
  | _ => .error .low

/-- Short opcodes 0x20 to 0x2F with their long forms (R107). -/
def decodeShort2 (op : Nat) (f : LoFields) (h : Option HiFields) : Field Instr :=
  match op with
  | 0x20 => do
    let d ← fV f.d
    fZero f.a
    let b ← fSrc f.b
    let x ← fExt h
    .ok (.mov d b x)
  | 0x21 => do
    let d ← fV f.d
    let a ← fV f.a
    let b ← fSrc f.b
    let x ← fExt h
    .ok (.addI32 d a b x)
  | 0x22 => do
    let d ← fV f.d
    let a ← fV f.a
    let b ← fSrc f.b
    let x ← fExt h
    .ok (.subI32 d a b x)
  | 0x23 => do
    let d ← fV f.d
    let a ← fV f.a
    let b ← fSrc f.b
    let x ← fExt h
    .ok (.mulI32 d a b x)
  | 0x24 => do
    let d ← fV f.d
    let a ← fV f.a
    let b ← fSrc f.b
    let x ← fExt h
    .ok (.mulhiI32 d a b x)
  | 0x25 => do
    let h ← fLong h
    let d ← fV f.d
    let a ← fV f.a
    let b ← fSrc f.b
    fUnused true true true false h
    let c := h.c
    let x ← fGuard h
    .ok (.madI32 d a b c x)
  | 0x26 => do
    let d ← fV f.d
    let a ← fV f.a
    let b ← fSrc f.b
    let x ← fExt h
    .ok (.divI32 d a b x)
  | 0x27 => do
    let d ← fV f.d
    let a ← fV f.a
    let b ← fSrc f.b
    let x ← fExt h
    .ok (.remI32 d a b x)
  | 0x28 => do
    let d ← fV f.d
    let a ← fV f.a
    let b ← fSrc f.b
    let x ← fExt h
    .ok (.minI32 d a b x)
  | 0x29 => do
    let d ← fV f.d
    let a ← fV f.a
    let b ← fSrc f.b
    let x ← fExt h
    .ok (.maxI32 d a b x)
  | 0x2A => do
    let d ← fV f.d
    let a ← fV f.a
    fZero f.b
    let x ← fExt h
    .ok (.absI32 d a x)
  | 0x2B => do
    let d ← fV f.d
    let a ← fV f.a
    fZero f.b
    let x ← fExt h
    .ok (.negI32 d a x)
  | 0x2C => do
    let d ← fV f.d
    let a ← fV f.a
    let b ← fImm f.b
    let x ← fExt h
    .ok (.addiI32 d a b x)
  | 0x2D => do
    let d ← fV f.d
    let a ← fV f.a
    let b ← fSrc f.b
    let x ← fExt h
    .ok (.andI32 d a b x)
  | 0x2E => do
    let d ← fV f.d
    let a ← fV f.a
    let b ← fSrc f.b
    let x ← fExt h
    .ok (.orI32 d a b x)
  | 0x2F => do
    let d ← fV f.d
    let a ← fV f.a
    let b ← fSrc f.b
    let x ← fExt h
    .ok (.xorI32 d a b x)
  | _ => .error .low

/-- Short opcodes 0x30 to 0x3F with their long forms (R107). -/
def decodeShort3 (op : Nat) (f : LoFields) (h : Option HiFields) : Field Instr :=
  match op with
  | 0x30 => do
    let d ← fV f.d
    let a ← fV f.a
    let b ← fSrc f.b
    let x ← fExt h
    .ok (.andnI32 d a b x)
  | 0x31 => do
    let d ← fV f.d
    let a ← fV f.a
    fZero f.b
    let x ← fExt h
    .ok (.notI32 d a x)
  | 0x32 => do
    let d ← fV f.d
    let a ← fV f.a
    let b ← fSrc f.b
    let x ← fExt h
    .ok (.shlI32 d a b x)
  | 0x33 => do
    let d ← fV f.d
    let a ← fV f.a
    let b ← fSrc f.b
    let x ← fExt h
    .ok (.shrI32 d a b x)
  | 0x34 => do
    let d ← fV f.d
    let a ← fV f.a
    let b ← fSmall 5 f.b
    let x ← fExt h
    .ok (.shliI32 d a b x)
  | 0x35 => do
    let d ← fV f.d
    let a ← fV f.a
    let b ← fSmall 5 f.b
    let x ← fExt h
    .ok (.shriI32 d a b x)
  | 0x36 => do
    let d ← fV f.d
    let a ← fV f.a
    let b ← fSrc f.b
    let x ← fExt h
    .ok (.rotlI32 d a b x)
  | 0x37 => do
    let d ← fV f.d
    let a ← fV f.a
    fZero f.b
    let x ← fExt h
    .ok (.popcI32 d a x)
  | 0x38 => do
    let d ← fV f.d
    let a ← fV f.a
    fZero f.b
    let x ← fExt h
    .ok (.clzI32 d a x)
  | 0x39 => do
    let d ← fV f.d
    let a ← fV f.a
    fZero f.b
    let x ← fExt h
    .ok (.brevI32 d a x)
  | 0x3A => do
    let d ← fV f.d
    let a ← fV f.a
    let b ← fSrc f.b
    let x ← fExt h
    .ok (.bfxI32 d a b x)
  | 0x3B => do
    let d ← fP f.d
    let a ← fV f.a
    let b ← fSrc f.b
    let x ← fExt h
    .ok (.cmpEqI32 d a b x)
  | 0x3C => do
    let d ← fP f.d
    let a ← fV f.a
    let b ← fSrc f.b
    let x ← fExt h
    .ok (.cmpNeI32 d a b x)
  | 0x3D => do
    let d ← fP f.d
    let a ← fV f.a
    let b ← fSrc f.b
    let x ← fExt h
    .ok (.cmpLtI32 d a b x)
  | 0x3E => do
    let d ← fP f.d
    let a ← fV f.a
    let b ← fSrc f.b
    let x ← fExt h
    .ok (.cmpLeI32 d a b x)
  | 0x3F => do
    let d ← fP f.d
    let a ← fV f.a
    let b ← fSrc f.b
    let x ← fExt h
    .ok (.cmpGtI32 d a b x)
  | _ => .error .low

/-- Short opcodes 0x40 to 0x4F with their long forms (R107). -/
def decodeShort4 (op : Nat) (f : LoFields) (h : Option HiFields) : Field Instr :=
  match op with
  | 0x40 => do
    let d ← fP f.d
    let a ← fV f.a
    let b ← fSrc f.b
    let x ← fExt h
    .ok (.cmpGeI32 d a b x)
  | 0x41 => do
    let h ← fLong h
    let d ← fX (wideBit h) f.d
    let a ← fX (wideBit h) f.a
    let b ← fSrcX (wideBit h) f.b
    fUnused true true false false h
    let wide ← fWide h
    needHi (h.c.toNat < 8)
    let c := BitVec.ofNat 3 h.c.toNat
    let x ← fGuard h
    .ok (.sel d a b c wide x)
  | 0x42 => do
    let d ← fD f.d
    let a ← fD f.a
    let b ← fSrcD f.b
    let x ← fExt h
    .ok (.addI64 d a b x)
  | 0x43 => do
    let d ← fD f.d
    let a ← fD f.a
    let b ← fSrcD f.b
    let x ← fExt h
    .ok (.subI64 d a b x)
  | 0x44 => do
    let d ← fD f.d
    let a ← fD f.a
    let b ← fSrcD f.b
    let x ← fExt h
    .ok (.mulI64 d a b x)
  | 0x45 => do
    let d ← fD f.d
    let a ← fV f.a
    let b ← fSrc f.b
    let x ← fExt h
    .ok (.mulwI32 d a b x)
  | 0x46 => do
    let d ← fD f.d
    let a ← fD f.a
    let b ← fSrcD f.b
    let x ← fExt h
    .ok (.shlI64 d a b x)
  | 0x47 => do
    let d ← fD f.d
    let a ← fD f.a
    let b ← fSrcD f.b
    let x ← fExt h
    .ok (.shrI64 d a b x)
  | 0x48 => do
    let d ← fD f.d
    let a ← fD f.a
    let b ← fSrc f.b
    let x ← fExtLea h
    .ok (.lea d a b x)
  | 0x49 => do
    let d ← fD f.d
    let a ← fD f.a
    let b ← fImm f.b
    let x ← fExt h
    .ok (.addiI64 d a b x)
  | 0x4A => do
    let h ← fLong h
    let d ← fP f.d
    let a ← fD f.a
    let b ← fSrcD f.b
    fUnused true true false true h
    let cc ← fCond h
    let x ← fGuard h
    .ok (.cmpI64 d a b cc x)
  | 0x4B => do
    let d ← fD f.d
    let a ← fV f.a
    fZero f.b
    let x ← fExt h
    .ok (.extI64 d a x)
  | 0x4C => do
    let d ← fV f.d
    let a ← fD f.a
    fZero f.b
    let x ← fExt h
    .ok (.trnI32 d a x)
  | 0x4D => do
    let d ← fD f.d
    fZero f.a
    let b ← fSrcD f.b
    let x ← fExt h
    .ok (.mov64 d b x)
  | 0x4E => do
    let d ← fX (decide (128 ≤ f.b.toNat)) f.d
    fZero f.a
    let b ← fSpecial f.b
    let x ← fExt h
    .ok (.smov d b x)
  | 0x4F => do
    let d ← fK f.d
    let a ← fD f.a
    fZero f.b
    let x ← fExt h
    .ok (.kset d a x)
  | _ => .error .low

/-- Short opcodes 0x60 to 0x6F with their long forms (R107). -/
def decodeShort6 (op : Nat) (f : LoFields) (h : Option HiFields) : Field Instr :=
  match op with
  | 0x60 => do
    let d ← fV f.d
    let a ← fV f.a
    let b ← fSrc f.b
    let x ← fExt h
    .ok (.xfrom d a b x)
  | 0x61 => do
    let d ← fV f.d
    let a ← fV f.a
    let b ← fSrc f.b
    let x ← fExt h
    .ok (.xrot d a b x)
  | 0x62 => do
    let d ← fV f.d
    let a ← fV f.a
    let b ← fSrc f.b
    let x ← fExt h
    .ok (.xstep d a b x)
  | 0x63 => do
    let d ← fV f.d
    let a ← fV f.a
    let b ← fSrc f.b
    let x ← fExt h
    .ok (.xflip d a b x)
  | 0x64 => do
    let d ← fP f.d
    let a ← fP f.a
    fZero f.b
    let x ← fExt h
    .ok (.pany d a x)
  | 0x65 => do
    let d ← fP f.d
    let a ← fP f.a
    fZero f.b
    let x ← fExt h
    .ok (.pevery d a x)
  | 0x66 => do
    let d ← fP f.d
    let a ← fV f.a
    fZero f.b
    let x ← fExt h
    .ok (.xsame d a x)
  | 0x67 => do
    let d ← fV f.d
    let a ← fP f.a
    fZero f.b
    let x ← fExt h
    .ok (.pcollect d a x)
  | 0x68 => do
    let d ← fV f.d
    let a ← fV f.a
    fZero f.b
    let x ← fExt h
    .ok (.xpeers d a x)
  | 0x69 => do
    let d ← fV f.d
    let a ← fV f.a
    fZero f.b
    let x ← fExt h
    .ok (.xlow d a x)
  | 0x6A => do
    let d ← fV f.d
    let a ← fV f.a
    fZero f.b
    let x ← fExt h
    .ok (.foldAddI32 d a x)
  | 0x6B => do
    let d ← fV f.d
    let a ← fV f.a
    fZero f.b
    let x ← fExt h
    .ok (.foldMinI32 d a x)
  | 0x6C => do
    let d ← fV f.d
    let a ← fV f.a
    fZero f.b
    let x ← fExt h
    .ok (.foldMaxI32 d a x)
  | 0x6D => do
    let d ← fV f.d
    let a ← fV f.a
    fZero f.b
    let x ← fExt h
    .ok (.foldAndI32 d a x)
  | 0x6E => do
    let d ← fV f.d
    let a ← fV f.a
    fZero f.b
    let x ← fExt h
    .ok (.foldOrI32 d a x)
  | 0x6F => do
    let d ← fV f.d
    let a ← fV f.a
    fZero f.b
    let x ← fExt h
    .ok (.scanIncI32 d a x)
  | _ => .error .low

/-- Short opcodes 0x70 to 0x7F with their long forms (R107). -/
def decodeShort7 (op : Nat) (f : LoFields) (h : Option HiFields) : Field Instr :=
  match op with
  | 0x70 => do
    let d ← fV f.d
    let a ← fV f.a
    fZero f.b
    let x ← fExt h
    .ok (.scanExcI32 d a x)
  | 0x71 => do
    let d ← fV f.d
    let a ← fP f.a
    fZero f.b
    let x ← fExt h
    .ok (.prank d a x)
  | 0x72 => do
    let d ← fV f.d
    let a ← fV f.a
    let b ← fBP f.b
    let x ← fExt h
    .ok (.xpack d a b x)
  | 0x73 => do
    let d ← fD f.d
    let a ← fD f.a
    let b ← fBK2 f.b
    let x ← fExt h
    .ok (.rng d a b x)
  | _ => .error .low

/-- Short opcodes 0x80 to 0x8F with their long forms (R107). -/
def decodeShort8 (op : Nat) (f : LoFields) (h : Option HiFields) : Field Instr :=
  match op with
  | 0x80 => do
    let d ← fV f.d
    let a ← fV f.a
    let b ← fSrc f.b
    let x ← fExt h
    .ok (.faddF32 d a b x)
  | 0x81 => do
    let d ← fV f.d
    let a ← fV f.a
    let b ← fSrc f.b
    let x ← fExt h
    .ok (.fsubF32 d a b x)
  | 0x82 => do
    let d ← fV f.d
    let a ← fV f.a
    let b ← fSrc f.b
    let x ← fExt h
    .ok (.fmulF32 d a b x)
  | 0x83 => do
    let h ← fLong h
    let d ← fV f.d
    let a ← fV f.a
    let b ← fSrc f.b
    fUnused true true true false h
    let c := h.c
    let x ← fGuard h
    .ok (.ffmaF32 d a b c x)
  | 0x84 => do
    let d ← fV f.d
    let a ← fV f.a
    let b ← fSrc f.b
    let x ← fExt h
    .ok (.fdivF32 d a b x)
  | 0x85 => do
    let d ← fV f.d
    let a ← fV f.a
    fZero f.b
    let x ← fExt h
    .ok (.fsqrtF32 d a x)
  | 0x86 => do
    let d ← fV f.d
    let a ← fV f.a
    let b ← fSrc f.b
    let x ← fExt h
    .ok (.fminF32 d a b x)
  | 0x87 => do
    let d ← fV f.d
    let a ← fV f.a
    let b ← fSrc f.b
    let x ← fExt h
    .ok (.fmaxF32 d a b x)
  | 0x88 => do
    let d ← fV f.d
    let a ← fV f.a
    let b ← fSrc f.b
    let x ← fExt h
    .ok (.fminNanF32 d a b x)
  | 0x89 => do
    let d ← fV f.d
    let a ← fV f.a
    let b ← fSrc f.b
    let x ← fExt h
    .ok (.fmaxNanF32 d a b x)
  | 0x8A => do
    let d ← fV f.d
    let a ← fV f.a
    fZero f.b
    let x ← fExt h
    .ok (.fabsF32 d a x)
  | 0x8B => do
    let d ← fV f.d
    let a ← fV f.a
    fZero f.b
    let x ← fExt h
    .ok (.fnegF32 d a x)
  | 0x8C => do
    let d : PReg := BitVec.ofNat 3 f.d.toNat
    let cc ← fFCond f.d
    let a ← fV f.a
    let b ← fSrc f.b
    let x ← fExt h
    .ok (.fcmpF32 d cc a b x)
  | 0x8D => do
    let d ← fV f.d
    let a ← fV f.a
    fZero f.b
    let x ← fExt h
    .ok (.frndF32 d a x)
  | 0x8E => do
    let d ← fV f.d
    let a ← fV f.a
    let b ← fFn f.b
    let x ← fExt h
    .ok (.ffuncF32 d a b x)
  | 0x8F => do
    let d ← fV f.d
    let a ← fX false f.a
    fZero f.b
    let x ← fExt h
    .ok (.fclass d a x)
  | _ => .error .low

/-- Short opcodes 0x90 to 0x9F with their long forms (R107). -/
def decodeShort9 (op : Nat) (f : LoFields) (h : Option HiFields) : Field Instr :=
  match op with
  | 0x90 => do
    let d ← fD f.d
    let a ← fD f.a
    let b ← fSrcD f.b
    let x ← fExt h
    .ok (.faddF64 d a b x)
  | 0x91 => do
    let d ← fD f.d
    let a ← fD f.a
    let b ← fSrcD f.b
    let x ← fExt h
    .ok (.fsubF64 d a b x)
  | 0x92 => do
    let d ← fD f.d
    let a ← fD f.a
    let b ← fSrcD f.b
    let x ← fExt h
    .ok (.fmulF64 d a b x)
  | 0x93 => do
    let h ← fLong h
    let d ← fD f.d
    let a ← fD f.a
    let b ← fSrcD f.b
    fUnused true true true false h
    needHi (h.c.toNat % 2 == 0)
    let c := BitVec.ofNat 6 (h.c.toNat / 2)
    let x ← fGuard h
    .ok (.ffmaF64 d a b c x)
  | 0x94 => do
    let d ← fD f.d
    let a ← fD f.a
    let b ← fSrcD f.b
    let x ← fExt h
    .ok (.fdivF64 d a b x)
  | 0x95 => do
    let d ← fD f.d
    let a ← fD f.a
    fZero f.b
    let x ← fExt h
    .ok (.fsqrtF64 d a x)
  | 0x96 => do
    let d ← fD f.d
    let a ← fD f.a
    let b ← fSrcD f.b
    let x ← fExt h
    .ok (.fminF64 d a b x)
  | 0x97 => do
    let d ← fD f.d
    let a ← fD f.a
    let b ← fSrcD f.b
    let x ← fExt h
    .ok (.fmaxF64 d a b x)
  | 0x98 => do
    let d ← fD f.d
    let a ← fD f.a
    let b ← fSrcD f.b
    let x ← fExt h
    .ok (.fminNanF64 d a b x)
  | 0x99 => do
    let d ← fD f.d
    let a ← fD f.a
    let b ← fSrcD f.b
    let x ← fExt h
    .ok (.fmaxNanF64 d a b x)
  | 0x9A => do
    let d ← fD f.d
    let a ← fD f.a
    fZero f.b
    let x ← fExt h
    .ok (.fabsF64 d a x)
  | 0x9B => do
    let d ← fD f.d
    let a ← fD f.a
    fZero f.b
    let x ← fExt h
    .ok (.fnegF64 d a x)
  | 0x9C => do
    let d : PReg := BitVec.ofNat 3 f.d.toNat
    let cc ← fFCond f.d
    let a ← fD f.a
    let b ← fSrcD f.b
    let x ← fExt h
    .ok (.fcmpF64 d cc a b x)
  | 0x9D => do
    let d ← fD f.d
    let a ← fD f.a
    fZero f.b
    let x ← fExt h
    .ok (.frndF64 d a x)
  | 0x9E => do
    let d ← fD f.d
    let a ← fD f.a
    let b ← fFn f.b
    let x ← fExt h
    .ok (.ffuncF64 d a b x)
  | 0x9F => do
    let d ← fV f.d
    fZero f.a
    let b ← fSrc f.b
    let x ← fExt h
    .ok (.fflag d b x)
  | _ => .error .low

/-- Short opcodes 0xA0 to 0xAF with their long forms (R107). -/
def decodeShortA (op : Nat) (f : LoFields) (h : Option HiFields) : Field Instr :=
  match op with
  | 0xA0 => do
    let d ← fX (f.b == 6) f.d
    let a ← fX false f.a
    let b ← fFTarget f.b.toNat
    let x ← fExt h
    .ok (.cvtFI d a b x)
  | 0xA1 => do
    let d ← fX (f.b == 3 || f.b == 4) f.d
    let a ← fX false f.a
    let b ← fITarget f.b
    let x ← fExt h
    .ok (.cvtIF d a b x)
  | 0xA2 => do
    let d ← fX (f.b.toNat % 16 == 6) f.d
    let a ← fX false f.a
    needLo (f.b.toNat < 32)
    let b ← fFTarget (f.b.toNat % 16)
    let e1 := f.b.toNat / 16 % 2 == 1
    let x ← fExt h
    .ok (.cvtFF d a b e1 x)
  | 0xA3 => do
    let d ← fV f.d
    let a ← fV f.a
    let b ← fSrc f.b
    let x ← fExt h
    .ok (.cvtBf16x2F32 d a b x)
  | 0xA4 => do
    let d ← fV f.d
    let a ← fV f.a
    let b ← fSrc f.b
    let x ← fExt h
    .ok (.cvtF16x2F32 d a b x)
  | 0xA5 => do
    let d ← fV f.d
    let a ← fV f.a
    let b ← fBTarget f.b
    let x ← fExt h
    .ok (.cvtTbF32 d a b x)
  | 0xA6 => do
    let d ← fV f.d
    let a ← fV f.a
    fZero f.b
    let x ← fExt h
    .ok (.tbpk d a x)
  | 0xA7 => do
    let d ← fV f.d
    let a ← fV f.a
    let b ← fBTarget f.b
    let x ← fExt h
    .ok (.tbunpk d a b x)
  | _ => .error .low

/-- Short opcodes 0xB0 to 0xBF with their long forms (R107). -/
def decodeShortB (op : Nat) (f : LoFields) (h : Option HiFields) : Field Instr :=
  match op with
  | 0xB0 => do
    let d ← fV f.d
    let a ← fD f.a
    let b ← fImm f.b
    let x ← fExtS h
    .ok (.ldGI8 d a b x)
  | 0xB1 => do
    let d ← fV f.d
    let a ← fD f.a
    let b ← fImm f.b
    let x ← fExtS h
    .ok (.ldGN8 d a b x)
  | 0xB2 => do
    let d ← fV f.d
    let a ← fD f.a
    let b ← fImm f.b
    let x ← fExtS h
    .ok (.ldGI16 d a b x)
  | 0xB3 => do
    let d ← fV f.d
    let a ← fD f.a
    let b ← fImm f.b
    let x ← fExtS h
    .ok (.ldGN16 d a b x)
  | 0xB4 => do
    let d ← fV f.d
    let a ← fD f.a
    let b ← fImm f.b
    let x ← fExtSF loadTag32 h
    .ok (.ldG32 d a b x)
  | 0xB5 => do
    let d ← fD f.d
    let a ← fD f.a
    let b ← fImm f.b
    let x ← fExtSF loadTag64 h
    .ok (.ldG64 d a b x)
  | 0xB6 => do
    let d ← fV f.d
    let a ← fD f.a
    let b ← fImm f.b
    let x ← fExtS h
    .ok (.stG8 d a b x)
  | 0xB7 => do
    let d ← fV f.d
    let a ← fD f.a
    let b ← fImm f.b
    let x ← fExtS h
    .ok (.stG16 d a b x)
  | 0xB8 => do
    let d ← fV f.d
    let a ← fD f.a
    let b ← fImm f.b
    let x ← fExtS h
    .ok (.stG32 d a b x)
  | 0xB9 => do
    let d ← fD f.d
    let a ← fD f.a
    let b ← fImm f.b
    let x ← fExtS h
    .ok (.stG64 d a b x)
  | 0xBA => do
    let d ← fV f.d
    let a ← fT f.a
    let b ← fSrc f.b
    let x ← fExt h
    .ok (.ldT32 d a b x)
  | 0xBB => do
    let d ← fV f.d
    let a ← fT f.a
    let b ← fSrc f.b
    let x ← fExt h
    .ok (.stT32 d a b x)
  | 0xBC => do
    let d ← fD f.d
    let a ← fT f.a
    let b ← fSrc f.b
    let x ← fExt h
    .ok (.apconvT d a b x)
  | 0xBD => do
    let d ← fD f.d
    fZero f.a
    let b ← fSrc f.b
    let x ← fExt h
    .ok (.apconvL d b x)
  | 0xBE => do
    let d ← fP f.d
    let a ← fD f.a
    let b ← fUpTo 3 4 f.b
    let x ← fExt h
    .ok (.aptest d a b x)
  | 0xBF => do
    let d ← fT f.d
    let a ← fK f.a
    let b ← fSmall 3 f.b
    let x ← fExt h
    .ok (.talloc d a b x)
  | _ => .error .low

/-- Short opcodes 0xC0 to 0xCF with their long forms (R107). -/
def decodeShortC (op : Nat) (f : LoFields) (h : Option HiFields) : Field Instr :=
  match op with
  | 0xC0 => do
    let d ← fT f.d
    fZero f.a
    fZero f.b
    let x ← fExt h
    .ok (.trel d x)
  | 0xC1 => do
    fZero f.d
    let a ← fKb 60 f.a
    let b ← fBK f.b
    let x ← fExtS h
    .ok (.cp a b x)
  | 0xC2 => do
    fZero f.d
    let a ← fD f.a
    let b ← fImm f.b
    let x ← fExt h
    .ok (.pf a b x)
  | 0xC3 => do
    let d ← fW f.d
    let a ← fKb 60 f.a
    fZero f.b
    let x ← fExtH h
    .ok (.wset d a x)
  | 0xC4 => do
    let d ← fV f.d
    let a ← fW f.a
    fZero f.b
    let x ← fExt h
    .ok (.wpos d a x)
  | 0xC5 => do
    let d ← fW f.d
    fZero f.a
    let b ← fBK f.b
    let x ← fExt h
    .ok (.wskip d b x)
  | 0xC6 => do
    let d ← fW f.d
    fZero f.a
    fZero f.b
    let x ← fExtH h
    .ok (.wclr d x)
  | 0xC7 => do
    let d ← fK f.d
    let a ← fK f.a
    let b ← fImm f.b
    let x ← fExt h
    .ok (.ldk d a b x)
  | _ => .error .low

/-- Short opcodes 0xD0 to 0xDF with their long forms (R107). -/
def decodeShortD (op : Nat) (f : LoFields) (h : Option HiFields) : Field Instr :=
  match op with
  | 0xD0 => do
    fZero f.d
    fZero f.a
    let b ← fBK f.b
    let x ← fExt h
    .ok (.arrive b x)
  | 0xD1 => do
    fZero f.d
    let a ← fK f.a
    let b ← fBK f.b
    let x ← fExt h
    .ok (.expect a b x)
  | 0xD2 => do
    fZero f.d
    fZero f.a
    let b ← fBK f.b
    let x ← fExt h
    .ok (.bwait b x)
  | 0xD3 => do
    let d ← fV f.d
    fZero f.a
    let b ← fBK f.b
    let x ← fExt h
    .ok (.bphase d b x)
  | 0xD4 => do
    let d ← fF f.d
    fZero f.a
    let b ← fUpTo 4 10 f.b
    let x ← fExtH h
    .ok (.fence d b x)
  | 0xD5 => do
    let d ← fF f.d
    fZero f.a
    fZero f.b
    let x ← fExtH h
    .ok (.fwait d x)
  | 0xD6 => do
    fZero f.d
    let a ← fD f.a
    fZero f.b
    let x ← fExtS h
    .ok (.mon a x)
  | 0xD7 => do
    fZero f.d
    fZero f.a
    let b ← fBK f.b
    let x ← fExt h
    .ok (.mwait b x)
  | 0xD8 => do
    let h ← fLong h
    let d ← fV f.d
    let a ← fD f.a
    let b ← fSrc f.b
    fUnused false true false true h
    let op ← fUrn true h
    let sc ← fScope h
    let x ← fGuard h
    .ok (.ugetI32 d a b op sc x)
  | 0xD9 => do
    let h ← fLong h
    let d ← fD f.d
    let a ← fD f.a
    let b ← fSrcD f.b
    fUnused false true false true h
    let op ← fUrn true h
    let sc ← fScope h
    let x ← fGuard h
    .ok (.ugetI64 d a b op sc x)
  | 0xDA => do
    let h ← fLong h
    let d ← fX (wideBit h) f.d
    let a ← fD f.a
    let b ← fSrcX (wideBit h) f.b
    fUnused false true false true h
    let wide ← fWide h
    let sc ← fScope h
    let x ← fGuard h
    .ok (.ugetFadd d a b wide sc x)
  | 0xDB => do
    let h ← fLong h
    fZero f.d
    let a ← fD f.a
    let b ← fSrc f.b
    fUnused false true false true h
    let op ← fUrn false h
    let sc ← fScope h
    let x ← fGuard h
    .ok (.uputI32 a b op sc x)
  | 0xDC => do
    let h ← fLong h
    fZero f.d
    let a ← fD f.a
    let b ← fSrcD f.b
    fUnused false true false true h
    let op ← fUrn false h
    let sc ← fScope h
    let x ← fGuard h
    .ok (.uputI64 a b op sc x)
  | 0xDD => do
    let h ← fLong h
    fZero f.d
    let a ← fD f.a
    let b ← fSrcX (wideBit h) f.b
    fUnused false true false true h
    let wide ← fWide h
    let sc ← fScope h
    let x ← fGuard h
    .ok (.uputFadd a b wide sc x)
  | 0xDE => do
    let h ← fLong h
    let d ← fX (wideBit h) f.d
    let a ← fD f.a
    let b ← fSrcX (wideBit h) f.b
    fUnused false true false false h
    let wide ← fWide h
    let sc ← fScope h
    needHi (!wide || h.c.toNat % 2 == 0)
    let c := h.c
    let x ← fGuard h
    .ok (.ucmpx d a b c wide sc x)
  | 0xDF => do
    let d ← fSlot f.d
    fZero f.a
    let b ← fSrcX false f.b
    let x ← fExt h
    .ok (.ored d b x)
  | _ => .error .low

/-- Short opcodes 0xE0 to 0xEF with their long forms (R107). -/
def decodeShortE (op : Nat) (f : LoFields) (h : Option HiFields) : Field Instr :=
  match op with
  | 0xE0 => do
    let d ← fK f.d
    let a ← fK f.a
    let b ← fSmall 3 f.b
    let x ← fExt h
    .ok (.balloc d a b x)
  | 0xE1 => do
    fZero f.d
    fZero f.a
    let b ← fBK f.b
    let x ← fExt h
    .ok (.bdrop b x)
  | 0xE8 => do
    fZero f.d
    fZero f.a
    let b ← fImm f.b
    let x ← fExt h
    .ok (.sys b x)
  | 0xE9 => do
    fZero f.d
    fZero f.a
    let b ← fImm f.b
    let x ← fExt h
    .ok (.brk b x)
  | 0xEA => do
    let d ← fKb 60 f.d
    fZero f.a
    let b ← fImm f.b
    let x ← fExt h
    .ok (.hcall d b x)
  | 0xEB => do
    fZero f.d
    fZero f.a
    fZero f.b
    let x ← fExt h
    .ok (.sret x)
  | 0xEC => do
    fZero f.d
    fZero f.a
    fZero f.b
    let x ← fExt h
    .ok (.hret x)
  | 0xED => do
    let d ← fD f.d
    fZero f.a
    let b ← fCtl f.b
    let x ← fExt h
    .ok (.ctlrd d b x)
  | 0xEE => do
    fZero f.d
    let a ← fD f.a
    let b ← fCtl f.b
    let x ← fExt h
    .ok (.ctlwr a b x)
  | 0xEF => do
    let d ← fD f.d
    let a ← fV f.a
    fZero f.b
    let x ← fExt h
    .ok (.lswrd d a x)
  | _ => .error .low

/-- Short opcodes 0xF0 to 0xFF with their long forms (R107). -/
def decodeShortF (op : Nat) (f : LoFields) (h : Option HiFields) : Field Instr :=
  match op with
  | 0xF0 => do
    fZero f.d
    fZero f.a
    let b ← fBK f.b
    let x ← fExt h
    .ok (.tinv b x)
  | 0xF1 => do
    let d ← fD f.d
    let a ← fD f.a
    fZero f.b
    let x ← fExt h
    .ok (.tprobe d a x)
  | 0xF2 => do
    fZero f.d
    fZero f.a
    let b ← fBK f.b
    let x ← fExt h
    .ok (.evclr b x)
  | 0xF3 => do
    let d ← fD f.d
    fZero f.a
    let b ← fUpTo 3 5 f.b
    let x ← fExt h
    .ok (.errrd d b x)
  | 0xF4 => do
    fZero f.d
    fZero f.a
    fZero f.b
    let x ← fExt h
    .ok (.lhalt x)
  | 0xF5 => do
    fZero f.d
    let a ← fD f.a
    let b ← fUpTo 1 1 f.b
    let x ← fExt h
    .ok (.einj a b x)
  | _ => .error .low

/-- The instruction that a short opcode, in its short form or (`h` given) its long form, stands for (R107, R91). -/
def decodeShortOp (op : Nat) (f : LoFields) (h : Option HiFields) : Field Instr :=
  match op / 16 with
  | 0x0 => decodeShort0 op f h
  | 0x1 => decodeShort1 op f h
  | 0x2 => decodeShort2 op f h
  | 0x3 => decodeShort3 op f h
  | 0x4 => decodeShort4 op f h
  | 0x6 => decodeShort6 op f h
  | 0x7 => decodeShort7 op f h
  | 0x8 => decodeShort8 op f h
  | 0x9 => decodeShort9 op f h
  | 0xA => decodeShortA op f h
  | 0xB => decodeShortB op f h
  | 0xC => decodeShortC op f h
  | 0xD => decodeShortD op f h
  | 0xE => decodeShortE op f h
  | 0xF => decodeShortF op f h
  | _ => .error .low

/-- Long opcodes 0x40 to 0x4F (R108). -/
def decodeLong4 (op : Nat) (f : LoFields) (h : HiFields) : Field Instr :=
  match op with
  | 0x40 => do
    fZero f.d
    let a ← fKb 56 f.a
    fZero f.b
    fUnused true true true true h
    let x ← fGuard h
    .ok (.mmaTb8 a x)
  | 0x41 => do
    fZero f.d
    let a ← fKb 56 f.a
    fZero f.b
    fUnused true true true true h
    let x ← fGuard h
    .ok (.mmaTb6 a x)
  | 0x42 => do
    fZero f.d
    let a ← fKb 56 f.a
    fZero f.b
    fUnused true true true true h
    let x ← fGuard h
    .ok (.mmaTb4 a x)
  | 0x43 => do
    fZero f.d
    let a ← fKb 56 f.a
    fZero f.b
    fUnused true true true true h
    let x ← fGuard h
    .ok (.mmaBf16 a x)
  | 0x44 => do
    fZero f.d
    let a ← fKb 56 f.a
    fZero f.b
    fUnused true true true true h
    let x ← fGuard h
    .ok (.mmaF16 a x)
  | 0x45 => do
    fZero f.d
    let a ← fKb 56 f.a
    fZero f.b
    fUnused true true true true h
    let x ← fGuard h
    .ok (.mmaF32 a x)
  | 0x46 => do
    let d ← fF f.d
    fZero f.a
    fZero f.b
    fUnused true true true true h
    let x ← fGuard h
    .ok (.mzero d x)
  | 0x47 => do
    let d ← fF f.d
    let a ← fKb 61 f.a
    fZero f.b
    fUnused false true false true h
    let tgt ← fMTarget h
    let sc ← fScope h
    let x ← fGuard h
    .ok (.mepi d a tgt sc x)
  | 0x48 => do
    let d ← fF f.d
    fZero f.a
    fZero f.b
    fUnused true true true true h
    let x ← fGuard h
    .ok (.mrel d x)
  | 0x49 => do
    let d ← fF f.d
    let a ← fK f.a
    fZero f.b
    fUnused false true true true h
    let sc ← fScope h
    let x ← fGuard h
    .ok (.msave d a sc x)
  | 0x4A => do
    let d ← fF f.d
    let a ← fK f.a
    fZero f.b
    fUnused true true true true h
    let x ← fGuard h
    .ok (.mload d a x)
  | 0x4B => do
    let d ← fK f.d
    let a ← fK f.a
    let b ← fSmall 3 f.b
    fUnused true true true true h
    let x ← fGuard h
    .ok (.wbal d a b x)
  | 0x4C => do
    fZero f.d
    let a ← fKb 61 f.a
    fZero f.b
    fUnused true true true true h
    let x ← fGuard h
    .ok (.wbld a x)
  | 0x4D => do
    let d ← fF f.d
    let a ← fKb 62 f.a
    fZero f.b
    fUnused true true true true h
    let x ← fGuard h
    .ok (.mbias d a x)
  | 0x4E => do
    let d ← fK f.d
    let a ← fF f.a
    fZero f.b
    fUnused true true true true h
    let x ← fGuard h
    .ok (.mstat d a x)
  | 0x4F => do
    let d ← fF f.d
    fZero f.a
    let b ← fBK f.b
    fUnused true true true true h
    let x ← fGuard h
    .ok (.mxset d b x)
  | _ => .error .low

/-- Long opcodes 0x60 to 0x6F (R108). -/
def decodeLong6 (op : Nat) (f : LoFields) (h : HiFields) : Field Instr :=
  match op with
  | 0x60 => do
    fZero f.d
    let a ← fKb 58 f.a
    fZero f.b
    fUnused true true true true h
    let x ← fGuard h
    .ok (.asnRun a x)
  | 0x61 => do
    fZero f.d
    let a ← fKb 58 f.a
    fZero f.b
    fUnused true true true true h
    let x ← fGuard h
    .ok (.asnCont a x)
  | 0x62 => do
    fZero f.d
    let a ← fKb 58 f.a
    fZero f.b
    fUnused true true true true h
    let x ← fGuard h
    .ok (.asnBest a x)
  | 0x63 => do
    fZero f.d
    let a ← fKb 58 f.a
    fZero f.b
    fUnused true true true true h
    let x ← fGuard h
    .ok (.asnInv a x)
  | 0x64 => do
    let d ← fK f.d
    fZero f.a
    fZero f.b
    fUnused true true true true h
    let x ← fGuard h
    .ok (.asnStat d x)
  | 0x65 => do
    fZero f.d
    let a ← fKb 58 f.a
    fZero f.b
    fUnused true true true true h
    let x ← fGuard h
    .ok (.asnChk a x)
  | _ => .error .low

/-- Long opcodes 0x70 to 0x7F (R108). -/
def decodeLong7 (op : Nat) (f : LoFields) (h : HiFields) : Field Instr :=
  match op with
  | 0x70 => do
    fZero f.d
    let a ← fKb 61 f.a
    let b ← fBK f.b
    fUnused true true true true h
    let x ← fGuard h
    .ok (.fwr a b x)
  | 0x71 => do
    fZero f.d
    let a ← fKb 61 f.a
    let b ← fBK f.b
    fUnused true true true true h
    let x ← fGuard h
    .ok (.frd a b x)
  | 0x72 => do
    let d ← fK f.d
    let a ← fK f.a
    fZero f.b
    fUnused true true true true h
    let x ← fGuard h
    .ok (.frdK d a x)
  | 0x73 => do
    let d ← fK f.d
    let a ← fKb 62 f.a
    fZero f.b
    fUnused true true false true h
    let exch ← fExch h
    let x ← fGuard h
    .ok (.fatom d a exch x)
  | 0x74 => do
    fZero f.d
    let a ← fKb 61 f.a
    fZero f.b
    fUnused true true true true h
    let x ← fGuard h
    .ok (.fsend a x)
  | 0x75 => do
    fZero f.d
    let a ← fKb 62 f.a
    fZero f.b
    fUnused true true true true h
    let x ← fGuard h
    .ok (.fevent a x)
  | 0x76 => do
    let d ← fK f.d
    fZero f.a
    fZero f.b
    fUnused true true true true h
    let x ← fGuard h
    .ok (.fstat d x)
  | 0x77 => do
    let d ← fK f.d
    let a ← fKb 60 f.a
    fZero f.b
    fUnused true true true true h
    let x ← fGuard h
    .ok (.bopen d a x)
  | 0x78 => do
    fZero f.d
    let a ← fKb 61 f.a
    fZero f.b
    fUnused true true true true h
    let x ← fGuard h
    .ok (.bpush a x)
  | 0x79 => do
    fZero f.d
    let a ← fKb 61 f.a
    fZero f.b
    fUnused true true true true h
    let x ← fGuard h
    .ok (.bclose a x)
  | 0x7A => do
    let d ← fK f.d
    let a ← fK f.a
    fZero f.b
    fUnused true true true true h
    let x ← fGuard h
    .ok (.bstat d a x)
  | 0x7B => do
    fZero f.d
    let a ← fK f.a
    fZero f.b
    fUnused true true true true h
    let x ← fGuard h
    .ok (.bfree a x)
  | _ => .error .low

/-- Opcodes the short space assigns (R107). -/
def shortAssigned (op : Nat) : Bool :=
  op ≤ 0x17 || (0x20 ≤ op && op ≤ 0x4F) || (0x60 ≤ op && op ≤ 0x73) || (0x80 ≤ op && op ≤ 0xA7) ||
    (0xB0 ≤ op && op ≤ 0xC7) || (0xD0 ≤ op && op ≤ 0xE1) || (0xE8 ≤ op && op ≤ 0xF5)

/-- The instruction that an opcode of the long space stands for (R108). -/
def decodeLongOp (op : Nat) (f : LoFields) (h : HiFields) : Field Instr :=
  match op / 16 with
  | 4 => decodeLong4 op f h
  | 6 => decodeLong6 op f h
  | 7 => decodeLong7 op f h
  | _ => .error .low

/-- The instruction in a word: its low unit, and for a long word its high unit (R85, R91). In a long form the low
unit offends when none of its four short opcodes is assigned, and otherwise the high unit, which holds XOP. -/
def decodeWord (lo hi : Nat) : Field Instr :=
  let f := loFields lo
  let op := f.op.toNat
  match lo % 4 with
  | 0 => decodeShortOp op f none
  | 2 =>
    let h := hiFields hi
    if op < 64 then
      let s := 4 * op + h.xop.toNat % 4
      if !(shortAssigned (4 * op) || shortAssigned (4 * op + 1) || shortAssigned (4 * op + 2) || shortAssigned (4 * op + 3)) then
        .error .low
      else if !shortAssigned s then .error .high
      else do
        let i ← decodeShortOp s f (some h)
        needHi (h.xop.toNat < 4)
        .ok i
    else do
      let i ← decodeLongOp op f h
      needHi (h.xop == 0)
      .ok i
  | _ => .error .low

/-- The fields of an instruction's word (R88, R90, R91); none for an event, which has no word. -/
def encodeFields : Instr → Option (LoFields × Option HiFields)
  | .nop x =>
    some (⟨0x00, 0, 0, 0⟩, eExt 0 x)
  | .mov d b x =>
    some (⟨0x20, d, 0, eSrc b⟩, eExt 0 x)
  | .bra b x =>
    some (⟨0x01, 0, 0, b⟩, eExt 1 x)
  | .jmp a x =>
    some (⟨0x02, 0, eD a, 0⟩, eExt 2 x)
  | .call d b x =>
    some (⟨0x03, eD d, 0, b⟩, eExt 3 x)
  | .callx d a x =>
    some (⟨0x04, eD d, eD a, 0⟩, eExt 0 x)
  | .exit x =>
    some (⟨0x05, 0, 0, 0⟩, eExt 1 x)
  | .yield x =>
    some (⟨0x06, 0, 0, 0⟩, eExt 2 x)
  | .wait ur tx cp st ld x =>
    let w := ur.toNat * 65536 + tx.toNat * 4096 + cp.toNat * 256 + st.toNat * 16 + ld.toNat
    some (⟨0x07, BitVec.ofNat 7 w, BitVec.ofNat 7 (w / 128), BitVec.ofNat 8 (w / 16384)⟩, eExtH 3 x)
  | .loop (.short n) =>
    some (⟨0x08, 0, 0, e8 n⟩, none)
  | .loop (.long i) =>
    some (⟨0x08, 0, 0, 0⟩, some (eHi 0 0 i 0 0 none))
  | .loopK b x =>
    some (⟨0x08, 0, 0, eBK b⟩, eExtH 0 x)
  | .trigger x =>
    some (⟨0x09, 0, 0, 0⟩, eExt 1 x)
  | .tres d x =>
    some (⟨0x0A, eD d, 0, 0⟩, eExt 2 x)
  | .spawn a x =>
    some (⟨0x0B, 0, eD a, 0⟩, eExt 3 x)
  | .ringAdv d x =>
    some (⟨0x0C, e7 d, 0, 0⟩, eExtH 0 x)
  | .ringCur d a x =>
    some (⟨0x0D, e7 d, e7 a, 0⟩, eExtH 1 x)
  | .getlsw d x =>
    some (⟨0x0E, eD d, 0, 0⟩, eExt 2 x)
  | .brany a b x =>
    some (⟨0x0F, 0, e7 a, b⟩, eExt 3 x)
  | .brall a b x =>
    some (⟨0x10, 0, e7 a, b⟩, eExt 0 x)
  | .pand d a b x =>
    some (⟨0x11, e7 d, e7 a, e8 b⟩, eExt 1 x)
  | .por d a b x =>
    some (⟨0x12, e7 d, e7 a, e8 b⟩, eExt 2 x)
  | .pxor d a b x =>
    some (⟨0x13, e7 d, e7 a, e8 b⟩, eExt 3 x)
  | .pandn d a b x =>
    some (⟨0x14, e7 d, e7 a, e8 b⟩, eExt 0 x)
  | .ptest d a x =>
    some (⟨0x15, e7 d, a, 0⟩, eExt 1 x)
  | .pget d a x =>
    some (⟨0x16, d, e7 a, 0⟩, eExt 2 x)
  | .pmask d b x =>
    some (⟨0x17, e7 d, 0, eBK b⟩, eExt 3 x)
  | .addI32 d a b x =>
    some (⟨0x21, d, a, eSrc b⟩, eExt 1 x)
  | .subI32 d a b x =>
    some (⟨0x22, d, a, eSrc b⟩, eExt 2 x)
  | .mulI32 d a b x =>
    some (⟨0x23, d, a, eSrc b⟩, eExt 3 x)
  | .mulhiI32 d a b x =>
    some (⟨0x24, d, a, eSrc b⟩, eExt 0 x)
  | .madI32 d a b c x =>
    some (⟨0x25, d, a, eSrc b⟩, some (eHi 1 0 0 (0) (c) x))
  | .divI32 d a b x =>
    some (⟨0x26, d, a, eSrc b⟩, eExt 2 x)
  | .remI32 d a b x =>
    some (⟨0x27, d, a, eSrc b⟩, eExt 3 x)
  | .minI32 d a b x =>
    some (⟨0x28, d, a, eSrc b⟩, eExt 0 x)
  | .maxI32 d a b x =>
    some (⟨0x29, d, a, eSrc b⟩, eExt 1 x)
  | .absI32 d a x =>
    some (⟨0x2A, d, a, 0⟩, eExt 2 x)
  | .negI32 d a x =>
    some (⟨0x2B, d, a, 0⟩, eExt 3 x)
  | .addiI32 d a b x =>
    some (⟨0x2C, d, a, b⟩, eExt 0 x)
  | .andI32 d a b x =>
    some (⟨0x2D, d, a, eSrc b⟩, eExt 1 x)
  | .orI32 d a b x =>
    some (⟨0x2E, d, a, eSrc b⟩, eExt 2 x)
  | .xorI32 d a b x =>
    some (⟨0x2F, d, a, eSrc b⟩, eExt 3 x)
  | .andnI32 d a b x =>
    some (⟨0x30, d, a, eSrc b⟩, eExt 0 x)
  | .notI32 d a x =>
    some (⟨0x31, d, a, 0⟩, eExt 1 x)
  | .shlI32 d a b x =>
    some (⟨0x32, d, a, eSrc b⟩, eExt 2 x)
  | .shrI32 d a b x =>
    some (⟨0x33, d, a, eSrc b⟩, eExt 3 x)
  | .shliI32 d a b x =>
    some (⟨0x34, d, a, e8 b⟩, eExt 0 x)
  | .shriI32 d a b x =>
    some (⟨0x35, d, a, e8 b⟩, eExt 1 x)
  | .rotlI32 d a b x =>
    some (⟨0x36, d, a, eSrc b⟩, eExt 2 x)
  | .popcI32 d a x =>
    some (⟨0x37, d, a, 0⟩, eExt 3 x)
  | .clzI32 d a x =>
    some (⟨0x38, d, a, 0⟩, eExt 0 x)
  | .brevI32 d a x =>
    some (⟨0x39, d, a, 0⟩, eExt 1 x)
  | .bfxI32 d a b x =>
    some (⟨0x3A, d, a, eSrc b⟩, eExt 2 x)
  | .cmpEqI32 d a b x =>
    some (⟨0x3B, e7 d, a, eSrc b⟩, eExt 3 x)
  | .cmpNeI32 d a b x =>
    some (⟨0x3C, e7 d, a, eSrc b⟩, eExt 0 x)
  | .cmpLtI32 d a b x =>
    some (⟨0x3D, e7 d, a, eSrc b⟩, eExt 1 x)
  | .cmpLeI32 d a b x =>
    some (⟨0x3E, e7 d, a, eSrc b⟩, eExt 2 x)
  | .cmpGtI32 d a b x =>
    some (⟨0x3F, e7 d, a, eSrc b⟩, eExt 3 x)
  | .cmpGeI32 d a b x =>
    some (⟨0x40, e7 d, a, eSrc b⟩, eExt 0 x)
  | .sel d a b c wide x =>
    some (⟨0x41, d, a, eSrc b⟩, some (eHi 1 0 0 (eWide wide) (e7 c) x))
  | .addI64 d a b x =>
    some (⟨0x42, eD d, eD a, eSrcD b⟩, eExt 2 x)
  | .subI64 d a b x =>
    some (⟨0x43, eD d, eD a, eSrcD b⟩, eExt 3 x)
  | .mulI64 d a b x =>
    some (⟨0x44, eD d, eD a, eSrcD b⟩, eExt 0 x)
  | .mulwI32 d a b x =>
    some (⟨0x45, eD d, a, eSrc b⟩, eExt 1 x)
  | .shlI64 d a b x =>
    some (⟨0x46, eD d, eD a, eSrcD b⟩, eExt 2 x)
  | .shrI64 d a b x =>
    some (⟨0x47, eD d, eD a, eSrcD b⟩, eExt 3 x)
  | .lea d a b x =>
    some (⟨0x48, eD d, eD a, eSrc b⟩, eExtLea 0 x)
  | .addiI64 d a b x =>
    some (⟨0x49, eD d, eD a, b⟩, eExt 1 x)
  | .cmpI64 d a b cc x =>
    some (⟨0x4A, e7 d, eD a, eSrcD b⟩, some (eHi 2 0 0 (eCond cc) (0) x))
  | .extI64 d a x =>
    some (⟨0x4B, eD d, a, 0⟩, eExt 3 x)
  | .trnI32 d a x =>
    some (⟨0x4C, d, eD a, 0⟩, eExt 0 x)
  | .mov64 d b x =>
    some (⟨0x4D, eD d, 0, eSrcD b⟩, eExt 1 x)
  | .smov d b x =>
    some (⟨0x4E, d, 0, b⟩, eExt 2 x)
  | .kset d a x =>
    some (⟨0x4F, e7 d, eD a, 0⟩, eExt 3 x)
  | .xfrom d a b x =>
    some (⟨0x60, d, a, eSrc b⟩, eExt 0 x)
  | .xrot d a b x =>
    some (⟨0x61, d, a, eSrc b⟩, eExt 1 x)
  | .xstep d a b x =>
    some (⟨0x62, d, a, eSrc b⟩, eExt 2 x)
  | .xflip d a b x =>
    some (⟨0x63, d, a, eSrc b⟩, eExt 3 x)
  | .pany d a x =>
    some (⟨0x64, e7 d, e7 a, 0⟩, eExt 0 x)
  | .pevery d a x =>
    some (⟨0x65, e7 d, e7 a, 0⟩, eExt 1 x)
  | .xsame d a x =>
    some (⟨0x66, e7 d, a, 0⟩, eExt 2 x)
  | .pcollect d a x =>
    some (⟨0x67, d, e7 a, 0⟩, eExt 3 x)
  | .xpeers d a x =>
    some (⟨0x68, d, a, 0⟩, eExt 0 x)
  | .xlow d a x =>
    some (⟨0x69, d, a, 0⟩, eExt 1 x)
  | .foldAddI32 d a x =>
    some (⟨0x6A, d, a, 0⟩, eExt 2 x)
  | .foldMinI32 d a x =>
    some (⟨0x6B, d, a, 0⟩, eExt 3 x)
  | .foldMaxI32 d a x =>
    some (⟨0x6C, d, a, 0⟩, eExt 0 x)
  | .foldAndI32 d a x =>
    some (⟨0x6D, d, a, 0⟩, eExt 1 x)
  | .foldOrI32 d a x =>
    some (⟨0x6E, d, a, 0⟩, eExt 2 x)
  | .scanIncI32 d a x =>
    some (⟨0x6F, d, a, 0⟩, eExt 3 x)
  | .scanExcI32 d a x =>
    some (⟨0x70, d, a, 0⟩, eExt 0 x)
  | .prank d a x =>
    some (⟨0x71, d, e7 a, 0⟩, eExt 1 x)
  | .xpack d a b x =>
    some (⟨0x72, d, a, e8 b⟩, eExt 2 x)
  | .rng d a b x =>
    some (⟨0x73, eD d, eD a, eBK b⟩, eExt 3 x)
  | .faddF32 d a b x =>
    some (⟨0x80, d, a, eSrc b⟩, eExt 0 x)
  | .fsubF32 d a b x =>
    some (⟨0x81, d, a, eSrc b⟩, eExt 1 x)
  | .fmulF32 d a b x =>
    some (⟨0x82, d, a, eSrc b⟩, eExt 2 x)
  | .ffmaF32 d a b c x =>
    some (⟨0x83, d, a, eSrc b⟩, some (eHi 3 0 0 (0) (c) x))
  | .fdivF32 d a b x =>
    some (⟨0x84, d, a, eSrc b⟩, eExt 0 x)
  | .fsqrtF32 d a x =>
    some (⟨0x85, d, a, 0⟩, eExt 1 x)
  | .fminF32 d a b x =>
    some (⟨0x86, d, a, eSrc b⟩, eExt 2 x)
  | .fmaxF32 d a b x =>
    some (⟨0x87, d, a, eSrc b⟩, eExt 3 x)
  | .fminNanF32 d a b x =>
    some (⟨0x88, d, a, eSrc b⟩, eExt 0 x)
  | .fmaxNanF32 d a b x =>
    some (⟨0x89, d, a, eSrc b⟩, eExt 1 x)
  | .fabsF32 d a x =>
    some (⟨0x8A, d, a, 0⟩, eExt 2 x)
  | .fnegF32 d a x =>
    some (⟨0x8B, d, a, 0⟩, eExt 3 x)
  | .fcmpF32 d cc a b x =>
    some (⟨0x8C, BitVec.ofNat 7 (8 * eFCond cc + d.toNat), a, eSrc b⟩, eExt 0 x)
  | .frndF32 d a x =>
    some (⟨0x8D, d, a, 0⟩, eExt 1 x)
  | .ffuncF32 d a b x =>
    some (⟨0x8E, d, a, eFn b⟩, eExt 2 x)
  | .fclass d a x =>
    some (⟨0x8F, d, a, 0⟩, eExt 3 x)
  | .faddF64 d a b x =>
    some (⟨0x90, eD d, eD a, eSrcD b⟩, eExt 0 x)
  | .fsubF64 d a b x =>
    some (⟨0x91, eD d, eD a, eSrcD b⟩, eExt 1 x)
  | .fmulF64 d a b x =>
    some (⟨0x92, eD d, eD a, eSrcD b⟩, eExt 2 x)
  | .ffmaF64 d a b c x =>
    some (⟨0x93, eD d, eD a, eSrcD b⟩, some (eHi 3 0 0 (0) (eD c) x))
  | .fdivF64 d a b x =>
    some (⟨0x94, eD d, eD a, eSrcD b⟩, eExt 0 x)
  | .fsqrtF64 d a x =>
    some (⟨0x95, eD d, eD a, 0⟩, eExt 1 x)
  | .fminF64 d a b x =>
    some (⟨0x96, eD d, eD a, eSrcD b⟩, eExt 2 x)
  | .fmaxF64 d a b x =>
    some (⟨0x97, eD d, eD a, eSrcD b⟩, eExt 3 x)
  | .fminNanF64 d a b x =>
    some (⟨0x98, eD d, eD a, eSrcD b⟩, eExt 0 x)
  | .fmaxNanF64 d a b x =>
    some (⟨0x99, eD d, eD a, eSrcD b⟩, eExt 1 x)
  | .fabsF64 d a x =>
    some (⟨0x9A, eD d, eD a, 0⟩, eExt 2 x)
  | .fnegF64 d a x =>
    some (⟨0x9B, eD d, eD a, 0⟩, eExt 3 x)
  | .fcmpF64 d cc a b x =>
    some (⟨0x9C, BitVec.ofNat 7 (8 * eFCond cc + d.toNat), eD a, eSrcD b⟩, eExt 0 x)
  | .frndF64 d a x =>
    some (⟨0x9D, eD d, eD a, 0⟩, eExt 1 x)
  | .ffuncF64 d a b x =>
    some (⟨0x9E, eD d, eD a, eFn b⟩, eExt 2 x)
  | .fflag d b x =>
    some (⟨0x9F, d, 0, eSrc b⟩, eExt 3 x)
  | .cvtFI d a b x =>
    some (⟨0xA0, d, a, eFTarget b⟩, eExt 0 x)
  | .cvtIF d a b x =>
    some (⟨0xA1, d, a, eITarget b⟩, eExt 1 x)
  | .cvtFF d a b e1 x =>
    some (⟨0xA2, d, a, eFTarget b + (if e1 then 16 else 0)⟩, eExt 2 x)
  | .cvtBf16x2F32 d a b x =>
    some (⟨0xA3, d, a, eSrc b⟩, eExt 3 x)
  | .cvtF16x2F32 d a b x =>
    some (⟨0xA4, d, a, eSrc b⟩, eExt 0 x)
  | .cvtTbF32 d a b x =>
    some (⟨0xA5, d, a, eBTarget b⟩, eExt 1 x)
  | .tbpk d a x =>
    some (⟨0xA6, d, a, 0⟩, eExt 2 x)
  | .tbunpk d a b x =>
    some (⟨0xA7, d, a, eBTarget b⟩, eExt 3 x)
  | .ldGI8 d a b x =>
    some (⟨0xB0, d, eD a, b⟩, eExtS 0 x)
  | .ldGN8 d a b x =>
    some (⟨0xB1, d, eD a, b⟩, eExtS 1 x)
  | .ldGI16 d a b x =>
    some (⟨0xB2, d, eD a, b⟩, eExtS 2 x)
  | .ldGN16 d a b x =>
    some (⟨0xB3, d, eD a, b⟩, eExtS 3 x)
  | .ldG32 d a b x =>
    some (⟨0xB4, d, eD a, b⟩, eExtSF 0 x)
  | .ldG64 d a b x =>
    some (⟨0xB5, eD d, eD a, b⟩, eExtSF 1 x)
  | .stG8 d a b x =>
    some (⟨0xB6, d, eD a, b⟩, eExtS 2 x)
  | .stG16 d a b x =>
    some (⟨0xB7, d, eD a, b⟩, eExtS 3 x)
  | .stG32 d a b x =>
    some (⟨0xB8, d, eD a, b⟩, eExtS 0 x)
  | .stG64 d a b x =>
    some (⟨0xB9, eD d, eD a, b⟩, eExtS 1 x)
  | .ldT32 d a b x =>
    some (⟨0xBA, d, e7 a, eSrc b⟩, eExt 2 x)
  | .stT32 d a b x =>
    some (⟨0xBB, d, e7 a, eSrc b⟩, eExt 3 x)
  | .apconvT d a b x =>
    some (⟨0xBC, eD d, e7 a, eSrc b⟩, eExt 0 x)
  | .apconvL d b x =>
    some (⟨0xBD, eD d, 0, eSrc b⟩, eExt 1 x)
  | .aptest d a b x =>
    some (⟨0xBE, e7 d, eD a, e8 b⟩, eExt 2 x)
  | .talloc d a b x =>
    some (⟨0xBF, e7 d, e7 a, e8 b⟩, eExt 3 x)
  | .trel d x =>
    some (⟨0xC0, e7 d, 0, 0⟩, eExt 0 x)
  | .cp a b x =>
    some (⟨0xC1, 0, e7 a, eBK b⟩, eExtS 1 x)
  | .pf a b x =>
    some (⟨0xC2, 0, eD a, b⟩, eExt 2 x)
  | .wset d a x =>
    some (⟨0xC3, e7 d, e7 a, 0⟩, eExtH 3 x)
  | .wpos d a x =>
    some (⟨0xC4, d, e7 a, 0⟩, eExt 0 x)
  | .wskip d b x =>
    some (⟨0xC5, e7 d, 0, eBK b⟩, eExt 1 x)
  | .wclr d x =>
    some (⟨0xC6, e7 d, 0, 0⟩, eExtH 2 x)
  | .ldk d a b x =>
    some (⟨0xC7, e7 d, e7 a, b⟩, eExt 3 x)
  | .arrive b x =>
    some (⟨0xD0, 0, 0, eBK b⟩, eExt 0 x)
  | .expect a b x =>
    some (⟨0xD1, 0, e7 a, eBK b⟩, eExt 1 x)
  | .bwait b x =>
    some (⟨0xD2, 0, 0, eBK b⟩, eExt 2 x)
  | .bphase d b x =>
    some (⟨0xD3, d, 0, eBK b⟩, eExt 3 x)
  | .fence d b x =>
    some (⟨0xD4, e7 d, 0, e8 b⟩, eExtH 0 x)
  | .fwait d x =>
    some (⟨0xD5, e7 d, 0, 0⟩, eExtH 1 x)
  | .mon a x =>
    some (⟨0xD6, 0, eD a, 0⟩, eExtS 2 x)
  | .mwait b x =>
    some (⟨0xD7, 0, 0, eBK b⟩, eExt 3 x)
  | .ugetI32 d a b op sc x =>
    some (⟨0xD8, d, eD a, eSrc b⟩, some (eHi 0 sc 0 (eUrn op) (0) x))
  | .ugetI64 d a b op sc x =>
    some (⟨0xD9, eD d, eD a, eSrcD b⟩, some (eHi 1 sc 0 (eUrn op) (0) x))
  | .ugetFadd d a b wide sc x =>
    some (⟨0xDA, d, eD a, eSrc b⟩, some (eHi 2 sc 0 (eWide wide) (0) x))
  | .uputI32 a b op sc x =>
    some (⟨0xDB, 0, eD a, eSrc b⟩, some (eHi 3 sc 0 (eUrn op) (0) x))
  | .uputI64 a b op sc x =>
    some (⟨0xDC, 0, eD a, eSrcD b⟩, some (eHi 0 sc 0 (eUrn op) (0) x))
  | .uputFadd a b wide sc x =>
    some (⟨0xDD, 0, eD a, eSrc b⟩, some (eHi 1 sc 0 (eWide wide) (0) x))
  | .ucmpx d a b c wide sc x =>
    some (⟨0xDE, d, eD a, eSrc b⟩, some (eHi 2 sc 0 (eWide wide) (c) x))
  | .ored d b x =>
    some (⟨0xDF, e7 d, 0, eSrc b⟩, eExt 3 x)
  | .balloc d a b x =>
    some (⟨0xE0, e7 d, e7 a, e8 b⟩, eExt 0 x)
  | .bdrop b x =>
    some (⟨0xE1, 0, 0, eBK b⟩, eExt 1 x)
  | .sys b x =>
    some (⟨0xE8, 0, 0, b⟩, eExt 0 x)
  | .brk b x =>
    some (⟨0xE9, 0, 0, b⟩, eExt 1 x)
  | .hcall d b x =>
    some (⟨0xEA, e7 d, 0, b⟩, eExt 2 x)
  | .sret x =>
    some (⟨0xEB, 0, 0, 0⟩, eExt 3 x)
  | .hret x =>
    some (⟨0xEC, 0, 0, 0⟩, eExt 0 x)
  | .ctlrd d b x =>
    some (⟨0xED, eD d, 0, b⟩, eExt 1 x)
  | .ctlwr a b x =>
    some (⟨0xEE, 0, eD a, b⟩, eExt 2 x)
  | .lswrd d a x =>
    some (⟨0xEF, eD d, a, 0⟩, eExt 3 x)
  | .tinv b x =>
    some (⟨0xF0, 0, 0, eBK b⟩, eExt 0 x)
  | .tprobe d a x =>
    some (⟨0xF1, eD d, eD a, 0⟩, eExt 1 x)
  | .evclr b x =>
    some (⟨0xF2, 0, 0, eBK b⟩, eExt 2 x)
  | .errrd d b x =>
    some (⟨0xF3, eD d, 0, e8 b⟩, eExt 3 x)
  | .lhalt x =>
    some (⟨0xF4, 0, 0, 0⟩, eExt 0 x)
  | .einj a b x =>
    some (⟨0xF5, 0, eD a, e8 b⟩, eExt 1 x)
  | .mmaTb8 a x =>
    some (⟨0x40, 0, e7 a, 0⟩, some (eHi 0 0 0 (0) (0) x))
  | .mmaTb6 a x =>
    some (⟨0x41, 0, e7 a, 0⟩, some (eHi 0 0 0 (0) (0) x))
  | .mmaTb4 a x =>
    some (⟨0x42, 0, e7 a, 0⟩, some (eHi 0 0 0 (0) (0) x))
  | .mmaBf16 a x =>
    some (⟨0x43, 0, e7 a, 0⟩, some (eHi 0 0 0 (0) (0) x))
  | .mmaF16 a x =>
    some (⟨0x44, 0, e7 a, 0⟩, some (eHi 0 0 0 (0) (0) x))
  | .mmaF32 a x =>
    some (⟨0x45, 0, e7 a, 0⟩, some (eHi 0 0 0 (0) (0) x))
  | .mzero d x =>
    some (⟨0x46, e7 d, 0, 0⟩, some (eHi 0 0 0 (0) (0) x))
  | .mepi d a tgt sc x =>
    some (⟨0x47, e7 d, e7 a, 0⟩, some (eHi 0 sc 0 (eMTarget tgt) (0) x))
  | .mrel d x =>
    some (⟨0x48, e7 d, 0, 0⟩, some (eHi 0 0 0 (0) (0) x))
  | .msave d a sc x =>
    some (⟨0x49, e7 d, e7 a, 0⟩, some (eHi 0 sc 0 (0) (0) x))
  | .mload d a x =>
    some (⟨0x4A, e7 d, e7 a, 0⟩, some (eHi 0 0 0 (0) (0) x))
  | .wbal d a b x =>
    some (⟨0x4B, e7 d, e7 a, e8 b⟩, some (eHi 0 0 0 (0) (0) x))
  | .wbld a x =>
    some (⟨0x4C, 0, e7 a, 0⟩, some (eHi 0 0 0 (0) (0) x))
  | .mbias d a x =>
    some (⟨0x4D, e7 d, e7 a, 0⟩, some (eHi 0 0 0 (0) (0) x))
  | .mstat d a x =>
    some (⟨0x4E, e7 d, e7 a, 0⟩, some (eHi 0 0 0 (0) (0) x))
  | .mxset d b x =>
    some (⟨0x4F, e7 d, 0, eBK b⟩, some (eHi 0 0 0 (0) (0) x))
  | .asnRun a x =>
    some (⟨0x60, 0, e7 a, 0⟩, some (eHi 0 0 0 (0) (0) x))
  | .asnCont a x =>
    some (⟨0x61, 0, e7 a, 0⟩, some (eHi 0 0 0 (0) (0) x))
  | .asnBest a x =>
    some (⟨0x62, 0, e7 a, 0⟩, some (eHi 0 0 0 (0) (0) x))
  | .asnInv a x =>
    some (⟨0x63, 0, e7 a, 0⟩, some (eHi 0 0 0 (0) (0) x))
  | .asnStat d x =>
    some (⟨0x64, e7 d, 0, 0⟩, some (eHi 0 0 0 (0) (0) x))
  | .asnChk a x =>
    some (⟨0x65, 0, e7 a, 0⟩, some (eHi 0 0 0 (0) (0) x))
  | .fwr a b x =>
    some (⟨0x70, 0, e7 a, eBK b⟩, some (eHi 0 0 0 (0) (0) x))
  | .frd a b x =>
    some (⟨0x71, 0, e7 a, eBK b⟩, some (eHi 0 0 0 (0) (0) x))
  | .frdK d a x =>
    some (⟨0x72, e7 d, e7 a, 0⟩, some (eHi 0 0 0 (0) (0) x))
  | .fatom d a exch x =>
    some (⟨0x73, e7 d, e7 a, 0⟩, some (eHi 0 0 0 (eExch exch) (0) x))
  | .fsend a x =>
    some (⟨0x74, 0, e7 a, 0⟩, some (eHi 0 0 0 (0) (0) x))
  | .fevent a x =>
    some (⟨0x75, 0, e7 a, 0⟩, some (eHi 0 0 0 (0) (0) x))
  | .fstat d x =>
    some (⟨0x76, e7 d, 0, 0⟩, some (eHi 0 0 0 (0) (0) x))
  | .bopen d a x =>
    some (⟨0x77, e7 d, e7 a, 0⟩, some (eHi 0 0 0 (0) (0) x))
  | .bpush a x =>
    some (⟨0x78, 0, e7 a, 0⟩, some (eHi 0 0 0 (0) (0) x))
  | .bclose a x =>
    some (⟨0x79, 0, e7 a, 0⟩, some (eHi 0 0 0 (0) (0) x))
  | .bstat d a x =>
    some (⟨0x7A, e7 d, e7 a, 0⟩, some (eHi 0 0 0 (0) (0) x))
  | .bfree a x =>
    some (⟨0x7B, 0, e7 a, 0⟩, some (eHi 0 0 0 (0) (0) x))
  | _ => none

/-- The instruction lies in the long space (R108). -/
def Instr.longSpace (i : Instr) : Bool :=
  match i with
  | .mmaTb8 _ _ => true
  | .mmaTb6 _ _ => true
  | .mmaTb4 _ _ => true
  | .mmaBf16 _ _ => true
  | .mmaF16 _ _ => true
  | .mmaF32 _ _ => true
  | .mzero _ _ => true
  | .mepi _ _ _ _ _ => true
  | .mrel _ _ => true
  | .msave _ _ _ _ => true
  | .mload _ _ _ => true
  | .wbal _ _ _ _ => true
  | .wbld _ _ => true
  | .mbias _ _ _ => true
  | .mstat _ _ _ => true
  | .mxset _ _ _ => true
  | .asnRun _ _ => true
  | .asnCont _ _ => true
  | .asnBest _ _ => true
  | .asnInv _ _ => true
  | .asnStat _ _ => true
  | .asnChk _ _ => true
  | .fwr _ _ _ => true
  | .frd _ _ _ => true
  | .frdK _ _ _ => true
  | .fatom _ _ _ _ => true
  | .fsend _ _ => true
  | .fevent _ _ => true
  | .fstat _ _ => true
  | .bopen _ _ _ => true
  | .bpush _ _ => true
  | .bclose _ _ => true
  | .bstat _ _ _ => true
  | .bfree _ _ => true
  | _ => false

/-- The units of an instruction's word: one, or two in a long form, whose OP is a quarter of a short opcode (R91). -/
def encodeUnits (i : Instr) : List Nat :=
  match encodeFields i with
  | none => []
  | some (f, none) => [loUnit 0 f]
  | some (f, some h) =>
    if i.longSpace then [loUnit 2 f, hiUnit h]
    else [loUnit 2 { f with op := BitVec.ofNat 8 (f.op.toNat / 4) }, hiUnit h]

/-- The bytes of an instruction's word, each unit little-endian (R85). -/
def encode (i : Instr) : List Byte := (encodeUnits i).flatMap (leBytes 4)

/-- The instruction at the start of these bytes, and the bytes after it; none where the word is not an instruction. -/
def decodeBytes (bs : List Byte) : Option (Instr × List Byte) :=
  let lo := leNat (bs.take 4)
  if bs.length < 4 then none
  else if lo % 4 == 2 then
    if bs.length < 8 then none
    else match decodeWord lo (leNat ((bs.drop 4).take 4)) with
      | .ok i => some (i, bs.drop 8)
      | .error _ => none
  else match decodeWord lo 0 with
    | .ok i => some (i, bs.drop 4)
    | .error _ => none

/-- The instruction whose bits are `w`, numbered as the opcode table numbers them: the word's bytes from bit 0 up,
with zero bits above. -/
def decodeTableWord (nbits w : Nat) : Option Instr :=
  (decodeBytes (leBytes 8 (w % 2 ^ nbits))).map (·.1)

/-- An operand slot: the register or registers it names. `byTag` is a V register, or a pair, as its tag says. -/
inductive Opd where
  | none
  | v (n : Nat)
  | pair (n : Nat)
  | byTag (n : Nat)
  | k (n count : Nat)
  | p (n : Nat)
  | t (n : Nat)
  | w (n : Nat)
  | f (n : Nat)
  | z (n : Nat)
  | imm
  deriving DecidableEq, Repr

/-- The slots of an instruction. -/
structure Opnds where
  d : Opd := .none
  a : Opd := .none
  b : Opd := .none
  c : Opd := .none
  deriving DecidableEq, Repr

/-- A register whose width a field of the word fixes. -/
def Opd.wide (w : Bool) (n : Nat) : Opd := if w then .pair n else .v n
/-- A V or K source. -/
def Opd.src : Src → Opd
  | .v n => .v n.toNat
  | .k n => .k n.toNat 1
/-- A pair or K source. -/
def Opd.srcD : SrcD → Opd
  | .d n => .pair (2 * n.toNat)
  | .k n => .k n.toNat 1
/-- A V, pair or K source whose width a field fixes. -/
def Opd.srcX (w : Bool) : Src → Opd
  | .v n => Opd.wide w n.toNat
  | .k n => .k n.toNat 1
/-- A V, pair or K source whose width a tag fixes. -/
def Opd.srcTag : Src → Opd
  | .v n => .byTag n.toNat
  | .k n => .k n.toNat 1

/-- The operand slots of an instruction (R89). -/
def Instr.opnds : Instr → Opnds
  | .nop _ => {  }
  | .mov d b _ => { d := .v d.toNat, b := .src b }
  | .bra _ _ => { b := .imm }
  | .jmp a _ => { a := .pair (2 * a.toNat) }
  | .call d _ _ => { d := .pair (2 * d.toNat), b := .imm }
  | .callx d a _ => { d := .pair (2 * d.toNat), a := .pair (2 * a.toNat) }
  | .exit _ => {  }
  | .yield _ => {  }
  | .wait _ _ _ _ _ _ => {}
  | .loop _ => {}
  | .loopK b _ => { b := .k b.toNat 1 }
  | .trigger _ => {  }
  | .tres d _ => { d := .pair (2 * d.toNat) }
  | .spawn a _ => { a := .pair (2 * a.toNat) }
  | .ringAdv d _ => { d := .k d.toNat 1 }
  | .ringCur d a _ => { d := .k d.toNat 1, a := .k a.toNat 1 }
  | .getlsw d _ => { d := .pair (2 * d.toNat) }
  | .brany a _ _ => { a := .p a.toNat, b := .imm }
  | .brall a _ _ => { a := .p a.toNat, b := .imm }
  | .pand d a b _ => { d := .p d.toNat, a := .p a.toNat, b := .p b.toNat }
  | .por d a b _ => { d := .p d.toNat, a := .p a.toNat, b := .p b.toNat }
  | .pxor d a b _ => { d := .p d.toNat, a := .p a.toNat, b := .p b.toNat }
  | .pandn d a b _ => { d := .p d.toNat, a := .p a.toNat, b := .p b.toNat }
  | .ptest d a _ => { d := .p d.toNat, a := .v a.toNat }
  | .pget d a _ => { d := .v d.toNat, a := .p a.toNat }
  | .pmask d b _ => { d := .p d.toNat, b := .k b.toNat 1 }
  | .addI32 d a b _ => { d := .v d.toNat, a := .v a.toNat, b := .src b }
  | .subI32 d a b _ => { d := .v d.toNat, a := .v a.toNat, b := .src b }
  | .mulI32 d a b _ => { d := .v d.toNat, a := .v a.toNat, b := .src b }
  | .mulhiI32 d a b _ => { d := .v d.toNat, a := .v a.toNat, b := .src b }
  | .madI32 d a b c _ => { d := .v d.toNat, a := .v a.toNat, b := .src b, c := .v c.toNat }
  | .divI32 d a b _ => { d := .v d.toNat, a := .v a.toNat, b := .src b }
  | .remI32 d a b _ => { d := .v d.toNat, a := .v a.toNat, b := .src b }
  | .minI32 d a b _ => { d := .v d.toNat, a := .v a.toNat, b := .src b }
  | .maxI32 d a b _ => { d := .v d.toNat, a := .v a.toNat, b := .src b }
  | .absI32 d a _ => { d := .v d.toNat, a := .v a.toNat }
  | .negI32 d a _ => { d := .v d.toNat, a := .v a.toNat }
  | .addiI32 d a _ _ => { d := .v d.toNat, a := .v a.toNat, b := .imm }
  | .andI32 d a b _ => { d := .v d.toNat, a := .v a.toNat, b := .src b }
  | .orI32 d a b _ => { d := .v d.toNat, a := .v a.toNat, b := .src b }
  | .xorI32 d a b _ => { d := .v d.toNat, a := .v a.toNat, b := .src b }
  | .andnI32 d a b _ => { d := .v d.toNat, a := .v a.toNat, b := .src b }
  | .notI32 d a _ => { d := .v d.toNat, a := .v a.toNat }
  | .shlI32 d a b _ => { d := .v d.toNat, a := .v a.toNat, b := .src b }
  | .shrI32 d a b _ => { d := .v d.toNat, a := .v a.toNat, b := .src b }
  | .shliI32 d a _ _ => { d := .v d.toNat, a := .v a.toNat, b := .imm }
  | .shriI32 d a _ _ => { d := .v d.toNat, a := .v a.toNat, b := .imm }
  | .rotlI32 d a b _ => { d := .v d.toNat, a := .v a.toNat, b := .src b }
  | .popcI32 d a _ => { d := .v d.toNat, a := .v a.toNat }
  | .clzI32 d a _ => { d := .v d.toNat, a := .v a.toNat }
  | .brevI32 d a _ => { d := .v d.toNat, a := .v a.toNat }
  | .bfxI32 d a b _ => { d := .v d.toNat, a := .v a.toNat, b := .src b }
  | .cmpEqI32 d a b _ => { d := .p d.toNat, a := .v a.toNat, b := .src b }
  | .cmpNeI32 d a b _ => { d := .p d.toNat, a := .v a.toNat, b := .src b }
  | .cmpLtI32 d a b _ => { d := .p d.toNat, a := .v a.toNat, b := .src b }
  | .cmpLeI32 d a b _ => { d := .p d.toNat, a := .v a.toNat, b := .src b }
  | .cmpGtI32 d a b _ => { d := .p d.toNat, a := .v a.toNat, b := .src b }
  | .cmpGeI32 d a b _ => { d := .p d.toNat, a := .v a.toNat, b := .src b }
  | .sel d a b c wide _ => { d := .wide wide d.toNat, a := .wide wide a.toNat, b := .srcX wide b, c := .p c.toNat }
  | .addI64 d a b _ => { d := .pair (2 * d.toNat), a := .pair (2 * a.toNat), b := .srcD b }
  | .subI64 d a b _ => { d := .pair (2 * d.toNat), a := .pair (2 * a.toNat), b := .srcD b }
  | .mulI64 d a b _ => { d := .pair (2 * d.toNat), a := .pair (2 * a.toNat), b := .srcD b }
  | .mulwI32 d a b _ => { d := .pair (2 * d.toNat), a := .v a.toNat, b := .src b }
  | .shlI64 d a b _ => { d := .pair (2 * d.toNat), a := .pair (2 * a.toNat), b := .srcD b }
  | .shrI64 d a b _ => { d := .pair (2 * d.toNat), a := .pair (2 * a.toNat), b := .srcD b }
  | .lea d a b _ => { d := .pair (2 * d.toNat), a := .pair (2 * a.toNat), b := .src b }
  | .addiI64 d a _ _ => { d := .pair (2 * d.toNat), a := .pair (2 * a.toNat), b := .imm }
  | .cmpI64 d a b _ _ => { d := .p d.toNat, a := .pair (2 * a.toNat), b := .srcD b }
  | .extI64 d a _ => { d := .pair (2 * d.toNat), a := .v a.toNat }
  | .trnI32 d a _ => { d := .v d.toNat, a := .pair (2 * a.toNat) }
  | .mov64 d b _ => { d := .pair (2 * d.toNat), b := .srcD b }
  | .smov d b _ => { d := .wide (decide (128 ≤ b.toNat)) d.toNat, b := .imm }
  | .kset d a _ => { d := .k d.toNat 1, a := .pair (2 * a.toNat) }
  | .xfrom d a b _ => { d := .v d.toNat, a := .v a.toNat, b := .src b }
  | .xrot d a b _ => { d := .v d.toNat, a := .v a.toNat, b := .src b }
  | .xstep d a b _ => { d := .v d.toNat, a := .v a.toNat, b := .src b }
  | .xflip d a b _ => { d := .v d.toNat, a := .v a.toNat, b := .src b }
  | .pany d a _ => { d := .p d.toNat, a := .p a.toNat }
  | .pevery d a _ => { d := .p d.toNat, a := .p a.toNat }
  | .xsame d a _ => { d := .p d.toNat, a := .v a.toNat }
  | .pcollect d a _ => { d := .v d.toNat, a := .p a.toNat }
  | .xpeers d a _ => { d := .v d.toNat, a := .v a.toNat }
  | .xlow d a _ => { d := .v d.toNat, a := .v a.toNat }
  | .foldAddI32 d a _ => { d := .v d.toNat, a := .v a.toNat }
  | .foldMinI32 d a _ => { d := .v d.toNat, a := .v a.toNat }
  | .foldMaxI32 d a _ => { d := .v d.toNat, a := .v a.toNat }
  | .foldAndI32 d a _ => { d := .v d.toNat, a := .v a.toNat }
  | .foldOrI32 d a _ => { d := .v d.toNat, a := .v a.toNat }
  | .scanIncI32 d a _ => { d := .v d.toNat, a := .v a.toNat }
  | .scanExcI32 d a _ => { d := .v d.toNat, a := .v a.toNat }
  | .prank d a _ => { d := .v d.toNat, a := .p a.toNat }
  | .xpack d a b _ => { d := .v d.toNat, a := .v a.toNat, b := .p b.toNat }
  | .rng d a b _ => { d := .pair (2 * d.toNat), a := .pair (2 * a.toNat), b := .k b.toNat 2 }
  | .faddF32 d a b _ => { d := .v d.toNat, a := .v a.toNat, b := .src b }
  | .fsubF32 d a b _ => { d := .v d.toNat, a := .v a.toNat, b := .src b }
  | .fmulF32 d a b _ => { d := .v d.toNat, a := .v a.toNat, b := .src b }
  | .ffmaF32 d a b c _ => { d := .v d.toNat, a := .v a.toNat, b := .src b, c := .v c.toNat }
  | .fdivF32 d a b _ => { d := .v d.toNat, a := .v a.toNat, b := .src b }
  | .fsqrtF32 d a _ => { d := .v d.toNat, a := .v a.toNat }
  | .fminF32 d a b _ => { d := .v d.toNat, a := .v a.toNat, b := .src b }
  | .fmaxF32 d a b _ => { d := .v d.toNat, a := .v a.toNat, b := .src b }
  | .fminNanF32 d a b _ => { d := .v d.toNat, a := .v a.toNat, b := .src b }
  | .fmaxNanF32 d a b _ => { d := .v d.toNat, a := .v a.toNat, b := .src b }
  | .fabsF32 d a _ => { d := .v d.toNat, a := .v a.toNat }
  | .fnegF32 d a _ => { d := .v d.toNat, a := .v a.toNat }
  | .fcmpF32 d _ a b _ => { d := .p d.toNat, a := .v a.toNat, b := .src b }
  | .frndF32 d a _ => { d := .v d.toNat, a := .v a.toNat }
  | .ffuncF32 d a _ _ => { d := .v d.toNat, a := .v a.toNat, b := .imm }
  | .fclass d a _ => { d := .v d.toNat, a := .byTag a.toNat }
  | .faddF64 d a b _ => { d := .pair (2 * d.toNat), a := .pair (2 * a.toNat), b := .srcD b }
  | .fsubF64 d a b _ => { d := .pair (2 * d.toNat), a := .pair (2 * a.toNat), b := .srcD b }
  | .fmulF64 d a b _ => { d := .pair (2 * d.toNat), a := .pair (2 * a.toNat), b := .srcD b }
  | .ffmaF64 d a b c _ => { d := .pair (2 * d.toNat), a := .pair (2 * a.toNat), b := .srcD b, c := .pair (2 * c.toNat) }
  | .fdivF64 d a b _ => { d := .pair (2 * d.toNat), a := .pair (2 * a.toNat), b := .srcD b }
  | .fsqrtF64 d a _ => { d := .pair (2 * d.toNat), a := .pair (2 * a.toNat) }
  | .fminF64 d a b _ => { d := .pair (2 * d.toNat), a := .pair (2 * a.toNat), b := .srcD b }
  | .fmaxF64 d a b _ => { d := .pair (2 * d.toNat), a := .pair (2 * a.toNat), b := .srcD b }
  | .fminNanF64 d a b _ => { d := .pair (2 * d.toNat), a := .pair (2 * a.toNat), b := .srcD b }
  | .fmaxNanF64 d a b _ => { d := .pair (2 * d.toNat), a := .pair (2 * a.toNat), b := .srcD b }
  | .fabsF64 d a _ => { d := .pair (2 * d.toNat), a := .pair (2 * a.toNat) }
  | .fnegF64 d a _ => { d := .pair (2 * d.toNat), a := .pair (2 * a.toNat) }
  | .fcmpF64 d _ a b _ => { d := .p d.toNat, a := .pair (2 * a.toNat), b := .srcD b }
  | .frndF64 d a _ => { d := .pair (2 * d.toNat), a := .pair (2 * a.toNat) }
  | .ffuncF64 d a _ _ => { d := .pair (2 * d.toNat), a := .pair (2 * a.toNat), b := .imm }
  | .fflag d b _ => { d := .v d.toNat, b := .src b }
  | .cvtFI d a b _ => { d := .wide (decide (b = .f64)) d.toNat, a := .byTag a.toNat, b := .imm }
  | .cvtIF d a b _ => { d := .wide (decide (b = .i64 ∨ b = .n64)) d.toNat, a := .byTag a.toNat, b := .imm }
  | .cvtFF d a b _ _ => { d := .wide (decide (b = .f64)) d.toNat, a := .byTag a.toNat, b := .imm }
  | .cvtBf16x2F32 d a b _ => { d := .v d.toNat, a := .v a.toNat, b := .src b }
  | .cvtF16x2F32 d a b _ => { d := .v d.toNat, a := .v a.toNat, b := .src b }
  | .cvtTbF32 d a _ _ => { d := .v d.toNat, a := .v a.toNat, b := .imm }
  | .tbpk d a _ => { d := .v d.toNat, a := .v a.toNat }
  | .tbunpk d a _ _ => { d := .v d.toNat, a := .v a.toNat, b := .imm }
  | .ldGI8 d a _ _ => { d := .v d.toNat, a := .pair (2 * a.toNat), b := .imm }
  | .ldGN8 d a _ _ => { d := .v d.toNat, a := .pair (2 * a.toNat), b := .imm }
  | .ldGI16 d a _ _ => { d := .v d.toNat, a := .pair (2 * a.toNat), b := .imm }
  | .ldGN16 d a _ _ => { d := .v d.toNat, a := .pair (2 * a.toNat), b := .imm }
  | .ldG32 d a _ _ => { d := .v d.toNat, a := .pair (2 * a.toNat), b := .imm }
  | .ldG64 d a _ _ => { d := .pair (2 * d.toNat), a := .pair (2 * a.toNat), b := .imm }
  | .stG8 d a _ _ => { d := .v d.toNat, a := .pair (2 * a.toNat), b := .imm }
  | .stG16 d a _ _ => { d := .v d.toNat, a := .pair (2 * a.toNat), b := .imm }
  | .stG32 d a _ _ => { d := .v d.toNat, a := .pair (2 * a.toNat), b := .imm }
  | .stG64 d a _ _ => { d := .pair (2 * d.toNat), a := .pair (2 * a.toNat), b := .imm }
  | .ldT32 d a b _ => { d := .v d.toNat, a := .t a.toNat, b := .src b }
  | .stT32 d a b _ => { d := .v d.toNat, a := .t a.toNat, b := .src b }
  | .apconvT d a b _ => { d := .pair (2 * d.toNat), a := .t a.toNat, b := .src b }
  | .apconvL d b _ => { d := .pair (2 * d.toNat), b := .src b }
  | .aptest d a _ _ => { d := .p d.toNat, a := .pair (2 * a.toNat), b := .imm }
  | .talloc d a _ _ => { d := .t d.toNat, a := .k a.toNat 1, b := .imm }
  | .trel d _ => { d := .t d.toNat }
  | .cp a b _ => { a := .k a.toNat 4, b := .k b.toNat 1 }
  | .pf a _ _ => { a := .pair (2 * a.toNat), b := .imm }
  | .wset d a _ => { d := .w d.toNat, a := .k a.toNat 4 }
  | .wpos d a _ => { d := .v d.toNat, a := .w a.toNat }
  | .wskip d b _ => { d := .w d.toNat, b := .k b.toNat 1 }
  | .wclr d _ => { d := .w d.toNat }
  | .ldk d a _ _ => { d := .k d.toNat 1, a := .k a.toNat 1, b := .imm }
  | .arrive b _ => { b := .k b.toNat 1 }
  | .expect a b _ => { a := .k a.toNat 1, b := .k b.toNat 1 }
  | .bwait b _ => { b := .k b.toNat 1 }
  | .bphase d b _ => { d := .v d.toNat, b := .k b.toNat 1 }
  | .fence d _ _ => { d := .f d.toNat, b := .imm }
  | .fwait d _ => { d := .f d.toNat }
  | .mon a _ => { a := .pair (2 * a.toNat) }
  | .mwait b _ => { b := .k b.toNat 1 }
  | .ugetI32 d a b _ _ _ => { d := .v d.toNat, a := .pair (2 * a.toNat), b := .src b }
  | .ugetI64 d a b _ _ _ => { d := .pair (2 * d.toNat), a := .pair (2 * a.toNat), b := .srcD b }
  | .ugetFadd d a b wide _ _ => { d := .wide wide d.toNat, a := .pair (2 * a.toNat), b := .srcX wide b }
  | .uputI32 a b _ _ _ => { a := .pair (2 * a.toNat), b := .src b }
  | .uputI64 a b _ _ _ => { a := .pair (2 * a.toNat), b := .srcD b }
  | .uputFadd a b wide _ _ => { a := .pair (2 * a.toNat), b := .srcX wide b }
  | .ucmpx d a b c wide _ _ => { d := .wide wide d.toNat, a := .pair (2 * a.toNat), b := .srcX wide b, c := .wide wide c.toNat }
  | .ored _ b _ => { d := .imm, b := .srcTag b }
  | .balloc d a _ _ => { d := .k d.toNat 1, a := .k a.toNat 1, b := .imm }
  | .bdrop b _ => { b := .k b.toNat 1 }
  | .sys _ _ => { b := .imm }
  | .brk _ _ => { b := .imm }
  | .hcall d _ _ => { d := .k d.toNat 4, b := .imm }
  | .sret _ => {  }
  | .hret _ => {  }
  | .ctlrd d _ _ => { d := .pair (2 * d.toNat), b := .imm }
  | .ctlwr a _ _ => { a := .pair (2 * a.toNat), b := .imm }
  | .lswrd d a _ => { d := .pair (2 * d.toNat), a := .v a.toNat }
  | .tinv b _ => { b := .k b.toNat 1 }
  | .tprobe d a _ => { d := .pair (2 * d.toNat), a := .pair (2 * a.toNat) }
  | .evclr b _ => { b := .k b.toNat 1 }
  | .errrd d _ _ => { d := .pair (2 * d.toNat), b := .imm }
  | .lhalt _ => {  }
  | .einj a _ _ => { a := .pair (2 * a.toNat), b := .imm }
  | .mmaTb8 a _ => { a := .k a.toNat 8 }
  | .mmaTb6 a _ => { a := .k a.toNat 8 }
  | .mmaTb4 a _ => { a := .k a.toNat 8 }
  | .mmaBf16 a _ => { a := .k a.toNat 8 }
  | .mmaF16 a _ => { a := .k a.toNat 8 }
  | .mmaF32 a _ => { a := .k a.toNat 8 }
  | .mzero d _ => { d := .z d.toNat }
  | .mepi d a _ _ _ => { d := .z d.toNat, a := .k a.toNat 3 }
  | .mrel d _ => { d := .z d.toNat }
  | .msave d a _ _ => { d := .z d.toNat, a := .k a.toNat 1 }
  | .mload d a _ => { d := .z d.toNat, a := .k a.toNat 1 }
  | .wbal d a _ _ => { d := .k d.toNat 1, a := .k a.toNat 1, b := .imm }
  | .wbld a _ => { a := .k a.toNat 3 }
  | .mbias d a _ => { d := .z d.toNat, a := .k a.toNat 2 }
  | .mstat d a _ => { d := .k d.toNat 1, a := .z a.toNat }
  | .mxset d b _ => { d := .z d.toNat, b := .k b.toNat 1 }
  | .asnRun a _ => { a := .k a.toNat 6 }
  | .asnCont a _ => { a := .k a.toNat 6 }
  | .asnBest a _ => { a := .k a.toNat 6 }
  | .asnInv a _ => { a := .k a.toNat 6 }
  | .asnStat d _ => { d := .k d.toNat 1 }
  | .asnChk a _ => { a := .k a.toNat 6 }
  | .fwr a b _ => { a := .k a.toNat 3, b := .k b.toNat 1 }
  | .frd a b _ => { a := .k a.toNat 3, b := .k b.toNat 1 }
  | .frdK d a _ => { d := .k d.toNat 1, a := .k a.toNat 1 }
  | .fatom d a _ _ => { d := .k d.toNat 1, a := .k a.toNat 2 }
  | .fsend a _ => { a := .k a.toNat 3 }
  | .fevent a _ => { a := .k a.toNat 2 }
  | .fstat d _ => { d := .k d.toNat 1 }
  | .bopen d a _ => { d := .k d.toNat 1, a := .k a.toNat 4 }
  | .bpush a _ => { a := .k a.toNat 3 }
  | .bclose a _ => { a := .k a.toNat 3 }
  | .bstat d a _ => { d := .k d.toNat 1, a := .k a.toNat 1 }
  | .bfree a _ => { a := .k a.toNat 1 }
  | _ => {}

/-- Opcode of an instruction in its own space (R107, R108); 0x100 for an event. -/
def Instr.opcode : Instr → Nat
  | .nop _ => 0x00
  | .mov _ _ _ => 0x20
  | .bra _ _ => 0x01
  | .jmp _ _ => 0x02
  | .call _ _ _ => 0x03
  | .callx _ _ _ => 0x04
  | .exit _ => 0x05
  | .yield _ => 0x06
  | .wait _ _ _ _ _ _ => 0x07
  | .loop _ => 0x08
  | .loopK _ _ => 0x08
  | .trigger _ => 0x09
  | .tres _ _ => 0x0A
  | .spawn _ _ => 0x0B
  | .ringAdv _ _ => 0x0C
  | .ringCur _ _ _ => 0x0D
  | .getlsw _ _ => 0x0E
  | .brany _ _ _ => 0x0F
  | .brall _ _ _ => 0x10
  | .pand _ _ _ _ => 0x11
  | .por _ _ _ _ => 0x12
  | .pxor _ _ _ _ => 0x13
  | .pandn _ _ _ _ => 0x14
  | .ptest _ _ _ => 0x15
  | .pget _ _ _ => 0x16
  | .pmask _ _ _ => 0x17
  | .addI32 _ _ _ _ => 0x21
  | .subI32 _ _ _ _ => 0x22
  | .mulI32 _ _ _ _ => 0x23
  | .mulhiI32 _ _ _ _ => 0x24
  | .madI32 _ _ _ _ _ => 0x25
  | .divI32 _ _ _ _ => 0x26
  | .remI32 _ _ _ _ => 0x27
  | .minI32 _ _ _ _ => 0x28
  | .maxI32 _ _ _ _ => 0x29
  | .absI32 _ _ _ => 0x2A
  | .negI32 _ _ _ => 0x2B
  | .addiI32 _ _ _ _ => 0x2C
  | .andI32 _ _ _ _ => 0x2D
  | .orI32 _ _ _ _ => 0x2E
  | .xorI32 _ _ _ _ => 0x2F
  | .andnI32 _ _ _ _ => 0x30
  | .notI32 _ _ _ => 0x31
  | .shlI32 _ _ _ _ => 0x32
  | .shrI32 _ _ _ _ => 0x33
  | .shliI32 _ _ _ _ => 0x34
  | .shriI32 _ _ _ _ => 0x35
  | .rotlI32 _ _ _ _ => 0x36
  | .popcI32 _ _ _ => 0x37
  | .clzI32 _ _ _ => 0x38
  | .brevI32 _ _ _ => 0x39
  | .bfxI32 _ _ _ _ => 0x3A
  | .cmpEqI32 _ _ _ _ => 0x3B
  | .cmpNeI32 _ _ _ _ => 0x3C
  | .cmpLtI32 _ _ _ _ => 0x3D
  | .cmpLeI32 _ _ _ _ => 0x3E
  | .cmpGtI32 _ _ _ _ => 0x3F
  | .cmpGeI32 _ _ _ _ => 0x40
  | .sel _ _ _ _ _ _ => 0x41
  | .addI64 _ _ _ _ => 0x42
  | .subI64 _ _ _ _ => 0x43
  | .mulI64 _ _ _ _ => 0x44
  | .mulwI32 _ _ _ _ => 0x45
  | .shlI64 _ _ _ _ => 0x46
  | .shrI64 _ _ _ _ => 0x47
  | .lea _ _ _ _ => 0x48
  | .addiI64 _ _ _ _ => 0x49
  | .cmpI64 _ _ _ _ _ => 0x4A
  | .extI64 _ _ _ => 0x4B
  | .trnI32 _ _ _ => 0x4C
  | .mov64 _ _ _ => 0x4D
  | .smov _ _ _ => 0x4E
  | .kset _ _ _ => 0x4F
  | .xfrom _ _ _ _ => 0x60
  | .xrot _ _ _ _ => 0x61
  | .xstep _ _ _ _ => 0x62
  | .xflip _ _ _ _ => 0x63
  | .pany _ _ _ => 0x64
  | .pevery _ _ _ => 0x65
  | .xsame _ _ _ => 0x66
  | .pcollect _ _ _ => 0x67
  | .xpeers _ _ _ => 0x68
  | .xlow _ _ _ => 0x69
  | .foldAddI32 _ _ _ => 0x6A
  | .foldMinI32 _ _ _ => 0x6B
  | .foldMaxI32 _ _ _ => 0x6C
  | .foldAndI32 _ _ _ => 0x6D
  | .foldOrI32 _ _ _ => 0x6E
  | .scanIncI32 _ _ _ => 0x6F
  | .scanExcI32 _ _ _ => 0x70
  | .prank _ _ _ => 0x71
  | .xpack _ _ _ _ => 0x72
  | .rng _ _ _ _ => 0x73
  | .faddF32 _ _ _ _ => 0x80
  | .fsubF32 _ _ _ _ => 0x81
  | .fmulF32 _ _ _ _ => 0x82
  | .ffmaF32 _ _ _ _ _ => 0x83
  | .fdivF32 _ _ _ _ => 0x84
  | .fsqrtF32 _ _ _ => 0x85
  | .fminF32 _ _ _ _ => 0x86
  | .fmaxF32 _ _ _ _ => 0x87
  | .fminNanF32 _ _ _ _ => 0x88
  | .fmaxNanF32 _ _ _ _ => 0x89
  | .fabsF32 _ _ _ => 0x8A
  | .fnegF32 _ _ _ => 0x8B
  | .fcmpF32 _ _ _ _ _ => 0x8C
  | .frndF32 _ _ _ => 0x8D
  | .ffuncF32 _ _ _ _ => 0x8E
  | .fclass _ _ _ => 0x8F
  | .faddF64 _ _ _ _ => 0x90
  | .fsubF64 _ _ _ _ => 0x91
  | .fmulF64 _ _ _ _ => 0x92
  | .ffmaF64 _ _ _ _ _ => 0x93
  | .fdivF64 _ _ _ _ => 0x94
  | .fsqrtF64 _ _ _ => 0x95
  | .fminF64 _ _ _ _ => 0x96
  | .fmaxF64 _ _ _ _ => 0x97
  | .fminNanF64 _ _ _ _ => 0x98
  | .fmaxNanF64 _ _ _ _ => 0x99
  | .fabsF64 _ _ _ => 0x9A
  | .fnegF64 _ _ _ => 0x9B
  | .fcmpF64 _ _ _ _ _ => 0x9C
  | .frndF64 _ _ _ => 0x9D
  | .ffuncF64 _ _ _ _ => 0x9E
  | .fflag _ _ _ => 0x9F
  | .cvtFI _ _ _ _ => 0xA0
  | .cvtIF _ _ _ _ => 0xA1
  | .cvtFF _ _ _ _ _ => 0xA2
  | .cvtBf16x2F32 _ _ _ _ => 0xA3
  | .cvtF16x2F32 _ _ _ _ => 0xA4
  | .cvtTbF32 _ _ _ _ => 0xA5
  | .tbpk _ _ _ => 0xA6
  | .tbunpk _ _ _ _ => 0xA7
  | .ldGI8 _ _ _ _ => 0xB0
  | .ldGN8 _ _ _ _ => 0xB1
  | .ldGI16 _ _ _ _ => 0xB2
  | .ldGN16 _ _ _ _ => 0xB3
  | .ldG32 _ _ _ _ => 0xB4
  | .ldG64 _ _ _ _ => 0xB5
  | .stG8 _ _ _ _ => 0xB6
  | .stG16 _ _ _ _ => 0xB7
  | .stG32 _ _ _ _ => 0xB8
  | .stG64 _ _ _ _ => 0xB9
  | .ldT32 _ _ _ _ => 0xBA
  | .stT32 _ _ _ _ => 0xBB
  | .apconvT _ _ _ _ => 0xBC
  | .apconvL _ _ _ => 0xBD
  | .aptest _ _ _ _ => 0xBE
  | .talloc _ _ _ _ => 0xBF
  | .trel _ _ => 0xC0
  | .cp _ _ _ => 0xC1
  | .pf _ _ _ => 0xC2
  | .wset _ _ _ => 0xC3
  | .wpos _ _ _ => 0xC4
  | .wskip _ _ _ => 0xC5
  | .wclr _ _ => 0xC6
  | .ldk _ _ _ _ => 0xC7
  | .arrive _ _ => 0xD0
  | .expect _ _ _ => 0xD1
  | .bwait _ _ => 0xD2
  | .bphase _ _ _ => 0xD3
  | .fence _ _ _ => 0xD4
  | .fwait _ _ => 0xD5
  | .mon _ _ => 0xD6
  | .mwait _ _ => 0xD7
  | .ugetI32 _ _ _ _ _ _ => 0xD8
  | .ugetI64 _ _ _ _ _ _ => 0xD9
  | .ugetFadd _ _ _ _ _ _ => 0xDA
  | .uputI32 _ _ _ _ _ => 0xDB
  | .uputI64 _ _ _ _ _ => 0xDC
  | .uputFadd _ _ _ _ _ => 0xDD
  | .ucmpx _ _ _ _ _ _ _ => 0xDE
  | .ored _ _ _ => 0xDF
  | .balloc _ _ _ _ => 0xE0
  | .bdrop _ _ => 0xE1
  | .sys _ _ => 0xE8
  | .brk _ _ => 0xE9
  | .hcall _ _ _ => 0xEA
  | .sret _ => 0xEB
  | .hret _ => 0xEC
  | .ctlrd _ _ _ => 0xED
  | .ctlwr _ _ _ => 0xEE
  | .lswrd _ _ _ => 0xEF
  | .tinv _ _ => 0xF0
  | .tprobe _ _ _ => 0xF1
  | .evclr _ _ => 0xF2
  | .errrd _ _ _ => 0xF3
  | .lhalt _ => 0xF4
  | .einj _ _ _ => 0xF5
  | .mmaTb8 _ _ => 0x40
  | .mmaTb6 _ _ => 0x41
  | .mmaTb4 _ _ => 0x42
  | .mmaBf16 _ _ => 0x43
  | .mmaF16 _ _ => 0x44
  | .mmaF32 _ _ => 0x45
  | .mzero _ _ => 0x46
  | .mepi _ _ _ _ _ => 0x47
  | .mrel _ _ => 0x48
  | .msave _ _ _ _ => 0x49
  | .mload _ _ _ => 0x4A
  | .wbal _ _ _ _ => 0x4B
  | .wbld _ _ => 0x4C
  | .mbias _ _ _ => 0x4D
  | .mstat _ _ _ => 0x4E
  | .mxset _ _ _ => 0x4F
  | .asnRun _ _ => 0x60
  | .asnCont _ _ => 0x61
  | .asnBest _ _ => 0x62
  | .asnInv _ _ => 0x63
  | .asnStat _ _ => 0x64
  | .asnChk _ _ => 0x65
  | .fwr _ _ _ => 0x70
  | .frd _ _ _ => 0x71
  | .frdK _ _ _ => 0x72
  | .fatom _ _ _ _ => 0x73
  | .fsend _ _ => 0x74
  | .fevent _ _ => 0x75
  | .fstat _ _ => 0x76
  | .bopen _ _ _ => 0x77
  | .bpush _ _ => 0x78
  | .bclose _ _ => 0x79
  | .bstat _ _ _ => 0x7A
  | .bfree _ _ => 0x7B
  | _ => 0x100

/-- The guard of a long word (R92). -/
def Instr.guard : Instr → GuardF
  | .nop (.long g) => g
  | .mov _ _ (.long g) => g
  | .bra _ (.long g) => g
  | .jmp _ (.long g) => g
  | .call _ _ (.long g) => g
  | .callx _ _ (.long g) => g
  | .exit (.long g) => g
  | .yield (.long g) => g
  | .trigger (.long g) => g
  | .tres _ (.long g) => g
  | .spawn _ (.long g) => g
  | .getlsw _ (.long g) => g
  | .brany _ _ (.long g) => g
  | .brall _ _ (.long g) => g
  | .pand _ _ _ (.long g) => g
  | .por _ _ _ (.long g) => g
  | .pxor _ _ _ (.long g) => g
  | .pandn _ _ _ (.long g) => g
  | .ptest _ _ (.long g) => g
  | .pget _ _ (.long g) => g
  | .pmask _ _ (.long g) => g
  | .addI32 _ _ _ (.long g) => g
  | .subI32 _ _ _ (.long g) => g
  | .mulI32 _ _ _ (.long g) => g
  | .mulhiI32 _ _ _ (.long g) => g
  | .madI32 _ _ _ _ g => g
  | .divI32 _ _ _ (.long g) => g
  | .remI32 _ _ _ (.long g) => g
  | .minI32 _ _ _ (.long g) => g
  | .maxI32 _ _ _ (.long g) => g
  | .absI32 _ _ (.long g) => g
  | .negI32 _ _ (.long g) => g
  | .addiI32 _ _ _ (.long g) => g
  | .andI32 _ _ _ (.long g) => g
  | .orI32 _ _ _ (.long g) => g
  | .xorI32 _ _ _ (.long g) => g
  | .andnI32 _ _ _ (.long g) => g
  | .notI32 _ _ (.long g) => g
  | .shlI32 _ _ _ (.long g) => g
  | .shrI32 _ _ _ (.long g) => g
  | .shliI32 _ _ _ (.long g) => g
  | .shriI32 _ _ _ (.long g) => g
  | .rotlI32 _ _ _ (.long g) => g
  | .popcI32 _ _ (.long g) => g
  | .clzI32 _ _ (.long g) => g
  | .brevI32 _ _ (.long g) => g
  | .bfxI32 _ _ _ (.long g) => g
  | .cmpEqI32 _ _ _ (.long g) => g
  | .cmpNeI32 _ _ _ (.long g) => g
  | .cmpLtI32 _ _ _ (.long g) => g
  | .cmpLeI32 _ _ _ (.long g) => g
  | .cmpGtI32 _ _ _ (.long g) => g
  | .cmpGeI32 _ _ _ (.long g) => g
  | .sel _ _ _ _ _ g => g
  | .addI64 _ _ _ (.long g) => g
  | .subI64 _ _ _ (.long g) => g
  | .mulI64 _ _ _ (.long g) => g
  | .mulwI32 _ _ _ (.long g) => g
  | .shlI64 _ _ _ (.long g) => g
  | .shrI64 _ _ _ (.long g) => g
  | .lea _ _ _ (.long _ g) => g
  | .addiI64 _ _ _ (.long g) => g
  | .cmpI64 _ _ _ _ g => g
  | .extI64 _ _ (.long g) => g
  | .trnI32 _ _ (.long g) => g
  | .mov64 _ _ (.long g) => g
  | .smov _ _ (.long g) => g
  | .kset _ _ (.long g) => g
  | .xfrom _ _ _ (.long g) => g
  | .xrot _ _ _ (.long g) => g
  | .xstep _ _ _ (.long g) => g
  | .xflip _ _ _ (.long g) => g
  | .pany _ _ (.long g) => g
  | .pevery _ _ (.long g) => g
  | .xsame _ _ (.long g) => g
  | .pcollect _ _ (.long g) => g
  | .xpeers _ _ (.long g) => g
  | .xlow _ _ (.long g) => g
  | .foldAddI32 _ _ (.long g) => g
  | .foldMinI32 _ _ (.long g) => g
  | .foldMaxI32 _ _ (.long g) => g
  | .foldAndI32 _ _ (.long g) => g
  | .foldOrI32 _ _ (.long g) => g
  | .scanIncI32 _ _ (.long g) => g
  | .scanExcI32 _ _ (.long g) => g
  | .prank _ _ (.long g) => g
  | .xpack _ _ _ (.long g) => g
  | .rng _ _ _ (.long g) => g
  | .faddF32 _ _ _ (.long g) => g
  | .fsubF32 _ _ _ (.long g) => g
  | .fmulF32 _ _ _ (.long g) => g
  | .ffmaF32 _ _ _ _ g => g
  | .fdivF32 _ _ _ (.long g) => g
  | .fsqrtF32 _ _ (.long g) => g
  | .fminF32 _ _ _ (.long g) => g
  | .fmaxF32 _ _ _ (.long g) => g
  | .fminNanF32 _ _ _ (.long g) => g
  | .fmaxNanF32 _ _ _ (.long g) => g
  | .fabsF32 _ _ (.long g) => g
  | .fnegF32 _ _ (.long g) => g
  | .fcmpF32 _ _ _ _ (.long g) => g
  | .frndF32 _ _ (.long g) => g
  | .ffuncF32 _ _ _ (.long g) => g
  | .fclass _ _ (.long g) => g
  | .faddF64 _ _ _ (.long g) => g
  | .fsubF64 _ _ _ (.long g) => g
  | .fmulF64 _ _ _ (.long g) => g
  | .ffmaF64 _ _ _ _ g => g
  | .fdivF64 _ _ _ (.long g) => g
  | .fsqrtF64 _ _ (.long g) => g
  | .fminF64 _ _ _ (.long g) => g
  | .fmaxF64 _ _ _ (.long g) => g
  | .fminNanF64 _ _ _ (.long g) => g
  | .fmaxNanF64 _ _ _ (.long g) => g
  | .fabsF64 _ _ (.long g) => g
  | .fnegF64 _ _ (.long g) => g
  | .fcmpF64 _ _ _ _ (.long g) => g
  | .frndF64 _ _ (.long g) => g
  | .ffuncF64 _ _ _ (.long g) => g
  | .fflag _ _ (.long g) => g
  | .cvtFI _ _ _ (.long g) => g
  | .cvtIF _ _ _ (.long g) => g
  | .cvtFF _ _ _ _ (.long g) => g
  | .cvtBf16x2F32 _ _ _ (.long g) => g
  | .cvtF16x2F32 _ _ _ (.long g) => g
  | .cvtTbF32 _ _ _ (.long g) => g
  | .tbpk _ _ (.long g) => g
  | .tbunpk _ _ _ (.long g) => g
  | .ldGI8 _ _ _ (.long _ g) => g
  | .ldGN8 _ _ _ (.long _ g) => g
  | .ldGI16 _ _ _ (.long _ g) => g
  | .ldGN16 _ _ _ (.long _ g) => g
  | .ldG32 _ _ _ (.long _ _ g) => g
  | .ldG64 _ _ _ (.long _ _ g) => g
  | .stG8 _ _ _ (.long _ g) => g
  | .stG16 _ _ _ (.long _ g) => g
  | .stG32 _ _ _ (.long _ g) => g
  | .stG64 _ _ _ (.long _ g) => g
  | .ldT32 _ _ _ (.long g) => g
  | .stT32 _ _ _ (.long g) => g
  | .apconvT _ _ _ (.long g) => g
  | .apconvL _ _ (.long g) => g
  | .aptest _ _ _ (.long g) => g
  | .talloc _ _ _ (.long g) => g
  | .trel _ (.long g) => g
  | .cp _ _ (.long _ g) => g
  | .pf _ _ (.long g) => g
  | .wpos _ _ (.long g) => g
  | .wskip _ _ (.long g) => g
  | .ldk _ _ _ (.long g) => g
  | .arrive _ (.long g) => g
  | .expect _ _ (.long g) => g
  | .bwait _ (.long g) => g
  | .bphase _ _ (.long g) => g
  | .mon _ (.long _ g) => g
  | .mwait _ (.long g) => g
  | .ugetI32 _ _ _ _ _ g => g
  | .ugetI64 _ _ _ _ _ g => g
  | .ugetFadd _ _ _ _ _ g => g
  | .uputI32 _ _ _ _ g => g
  | .uputI64 _ _ _ _ g => g
  | .uputFadd _ _ _ _ g => g
  | .ucmpx _ _ _ _ _ _ g => g
  | .ored _ _ (.long g) => g
  | .balloc _ _ _ (.long g) => g
  | .bdrop _ (.long g) => g
  | .sys _ (.long g) => g
  | .brk _ (.long g) => g
  | .hcall _ _ (.long g) => g
  | .sret (.long g) => g
  | .hret (.long g) => g
  | .ctlrd _ _ (.long g) => g
  | .ctlwr _ _ (.long g) => g
  | .lswrd _ _ (.long g) => g
  | .tinv _ (.long g) => g
  | .tprobe _ _ (.long g) => g
  | .evclr _ (.long g) => g
  | .errrd _ _ (.long g) => g
  | .lhalt (.long g) => g
  | .einj _ _ (.long g) => g
  | .mmaTb8 _ g => g
  | .mmaTb6 _ g => g
  | .mmaTb4 _ g => g
  | .mmaBf16 _ g => g
  | .mmaF16 _ g => g
  | .mmaF32 _ g => g
  | .mzero _ g => g
  | .mepi _ _ _ _ g => g
  | .mrel _ g => g
  | .msave _ _ _ g => g
  | .mload _ _ g => g
  | .wbal _ _ _ g => g
  | .wbld _ g => g
  | .mbias _ _ g => g
  | .mstat _ _ g => g
  | .mxset _ _ g => g
  | .asnRun _ g => g
  | .asnCont _ g => g
  | .asnBest _ g => g
  | .asnInv _ g => g
  | .asnStat _ g => g
  | .asnChk _ g => g
  | .fwr _ _ g => g
  | .frd _ _ g => g
  | .frdK _ _ g => g
  | .fatom _ _ _ g => g
  | .fsend _ g => g
  | .fevent _ g => g
  | .fstat _ g => g
  | .bopen _ _ g => g
  | .bpush _ g => g
  | .bclose _ g => g
  | .bstat _ _ g => g
  | .bfree _ g => g
  | _ => none

/-- The instruction is encoded as a long word. -/
def Instr.isLong (i : Instr) : Bool :=
  match encodeFields i with
  | some (_, some _) => true
  | _ => false

/-- The prefixes an instruction accepts besides HINT (R98): GUARD, ROUND, SAT, and the slots of REPEAT, FORMAT and
STREAM. -/
structure Accepts where
  guard : Bool := false
  round : Bool := false
  sat : Bool := false
  rep : SlotSet := ⟨false, false, false, false⟩
  fmt : SlotSet := ⟨false, false, false, false⟩
  str : SlotSet := ⟨false, false, false, false⟩
  deriving DecidableEq, Repr

/-- Slot sets by name. -/
def slotsOf (d a b c : Bool) : SlotSet := ⟨d, a, b, c⟩
/-- GUARD and HINT. -/
def acceptG : Accepts := { guard := true }
/-- GUARD, HINT, and these slots for FORMAT and REPEAT and those for STREAM. -/
def acceptFRS (fr str : SlotSet) : Accepts := { guard := true, rep := fr, fmt := fr, str := str }

/-- What a short opcode accepts, in either form (R113, R114, R131, R144, R145, R148, R156, R184, R222, R295, R344). -/
def acceptsShort (op : Nat) : Accepts :=
  let dab := slotsOf true true true false
  let da := slotsOf true true false false
  let ab := slotsOf false true true false
  let db := slotsOf true false true false
  let no := slotsOf false false false false
  if op == 0x07 || op == 0x08 || op == 0x0C || op == 0x0D || op == 0xC3 || op == 0xC6 || op == 0xD4 || op == 0xD5 then {}
  else if op ≤ 0x17 then acceptG
  else if op == 0x20 then acceptFRS db (slotsOf false false true false)
  else if op == 0x25 then { acceptFRS (slotsOf true true true true) (slotsOf true true true true) with sat := true }
  else if op == 0x2A || op == 0x2B || op == 0x2C || op == 0x34 then { acceptFRS da da with sat := true }
  else if op == 0x31 || op == 0x35 || op == 0x37 || op == 0x38 || op == 0x39 then acceptFRS da da
  else if 0x3B ≤ op && op ≤ 0x40 then acceptFRS ab ab
  else if op == 0x21 || op == 0x22 || op == 0x23 || op == 0x26 || op == 0x32 then { acceptFRS dab dab with sat := true }
  else if 0x21 ≤ op && op ≤ 0x41 then acceptFRS dab dab
  else if op == 0x42 || op == 0x43 || op == 0x44 || op == 0x46 then { acceptFRS dab no with sat := true }
  else if op == 0x45 then acceptFRS dab ab
  else if op == 0x47 then acceptFRS dab no
  else if op == 0x48 then acceptFRS dab (slotsOf false false true false)
  else if op == 0x49 then { acceptFRS da no with sat := true }
  else if op == 0x4A then acceptFRS ab no
  else if op == 0x4B then acceptFRS da (slotsOf false true false false)
  else if op == 0x4C then { acceptFRS da (slotsOf true false false false) with sat := true }
  else if op == 0x4D then acceptFRS db no
  else if op == 0x4E || op == 0x4F then acceptG
  else if 0x60 ≤ op && op ≤ 0x63 then { guard := true, fmt := dab, rep := da }
  else if op == 0x64 || op == 0x65 then acceptG
  else if op == 0x66 then { guard := true, fmt := slotsOf false true false false }
  else if op == 0x67 || op == 0x71 then { guard := true, fmt := slotsOf true false false false }
  else if op == 0x6A || op == 0x6F || op == 0x70 then { guard := true, fmt := da, sat := true }
  else if 0x68 ≤ op && op ≤ 0x73 then { guard := true, fmt := da }
  else if op == 0x83 then { acceptFRS (slotsOf true true true true) (slotsOf true true true true) with round := true }
  else if op == 0x93 then { acceptFRS (slotsOf true true true true) no with round := true }
  else if op == 0x80 || op == 0x81 || op == 0x82 || op == 0x84 then { acceptFRS dab dab with round := true }
  else if op == 0x90 || op == 0x91 || op == 0x92 || op == 0x94 then { acceptFRS dab no with round := true }
  else if op == 0x85 || op == 0x8D then { acceptFRS da da with round := true }
  else if op == 0x95 || op == 0x9D then { acceptFRS da no with round := true }
  else if 0x86 ≤ op && op ≤ 0x89 then acceptFRS dab dab
  else if 0x96 ≤ op && op ≤ 0x99 then acceptFRS dab no
  else if op == 0x8A || op == 0x8B || op == 0x8E || op == 0x8F then acceptFRS da da
  else if op == 0x9A || op == 0x9B || op == 0x9E then acceptFRS da no
  else if op == 0x8C then acceptFRS ab ab
  else if op == 0x9C then acceptFRS ab no
  else if op == 0x9F then { guard := true, rep := db }
  else if 0xA0 ≤ op && op ≤ 0xA2 then { acceptFRS da da with round := true }
  else if op == 0xA3 || op == 0xA4 then { acceptFRS dab dab with round := true }
  else if 0xA5 ≤ op && op ≤ 0xA7 then { guard := true, fmt := slotsOf false true false false }
  else if 0xB0 ≤ op && op ≤ 0xB5 then { guard := true, fmt := slotsOf true false false false, rep := da }
  else if 0xB6 ≤ op && op ≤ 0xB9 then { guard := true, rep := da }
  else if op == 0xBA then { guard := true, fmt := slotsOf true false false false, rep := db }
  else if op == 0xBB then { guard := true, rep := db }
  else acceptG

/-- What the instruction of a unit accepts: every instruction of the long space takes GUARD and HINT (R242). -/
def acceptsOf (lo hi : Nat) : Accepts :=
  let op := lo / 4 % 256
  if lo % 4 == 0 then acceptsShort op
  else if op < 64 then acceptsShort (4 * op + hi / 268435456 % 4)
  else acceptG

/-- One prefix unit, read on its own (R97). -/
inductive Pfx where
  | round (m : RMode)
  | sat
  | rep (count : Nat) (steps : SlotSet)
  | guard (g : Guard)
  | stream (w : WReg) (s : SlotName)
  | format (tag : BitVec 4) (slots : SlotSet)
  | hint (code : BitVec 8)
  deriving DecidableEq, Repr

/-- Four consecutive bits as D, A, B, C. -/
def slotBits (x : Nat) : SlotSet := ⟨bitAt x 0, bitAt x 1, bitAt x 2, bitAt x 3⟩

/-- The prefix in a unit; none for KIND 7, a nonzero reserved bit, or tag code 14 or 15 (R97, R98). -/
def parsePfx (u : Nat) : Option Pfx :=
  match u / 4 % 8 with
  | 0 =>
    if u / 128 == 0 then
      match u / 32 % 4 with
      | 0 => some (.round .rne)
      | 1 => some (.round .rz)
      | 2 => some (.round .rup)
      | _ => some (.round .rdn)
    else none
  | 1 => if u / 32 == 0 then some .sat else none
  | 2 => if u / 32768 == 0 then some (.rep (u / 32 % 64 + 1) (slotBits (u / 2048 % 16))) else none
  | 3 => if u / 512 == 0 then some (.guard ⟨bitAt u 8, BitVec.ofNat 3 (u / 32)⟩) else none
  | 4 =>
    if u / 1024 == 0 then
      some (.stream (BitVec.ofNat 3 (u / 32))
        (match u / 256 % 4 with | 0 => .a | 1 => .b | 2 => .c | _ => .d))
    else none
  | 5 =>
    if u / 8192 == 0 && u / 32 % 16 < 14 then some (.format (BitVec.ofNat 4 (u / 32)) (slotBits (u / 512 % 16)))
    else none
  | 6 => if u / 8192 == 0 then some (.hint (BitVec.ofNat 8 (u / 32))) else none
  | _ => none

/-- Every slot of `x` is one of `y`. -/
def slotsIn (x y : SlotSet) : Bool :=
  (!x.d || y.d) && (!x.a || y.a) && (!x.b || y.b) && (!x.c || y.c)
/-- A slot is one of `y`. -/
def slotIn (s : SlotName) (y : SlotSet) : Bool :=
  match s with
  | .a => y.a
  | .b => y.b
  | .c => y.c
  | .d => y.d

/-- A prefix added to those already read: none where its kind is taken, or the instruction does not accept it with its
slots (R98). Slots of a short word never include C. -/
def addPfx (acc : Accepts) (p : Prefixes) : Pfx → Option Prefixes
  | .round m => if acc.round && p.round.isNone then some { p with round := some m } else none
  | .sat => if acc.sat && !p.sat then some { p with sat := true } else none
  | .rep n s => if slotsIn s acc.rep && acc.rep != slotsOf false false false false && p.rep.isNone then
      some { p with rep := some (n, s) } else none
  | .guard g => if acc.guard && p.guard.isNone then some { p with guard := some g } else none
  | .stream w s =>
    if slotIn s acc.str && p.streams.length < 2 && !p.streams.any (fun x => x.2 == s) then
      some { p with streams := p.streams ++ [(w, s)] } else none
  | .format t s => if slotsIn s acc.fmt && acc.fmt != slotsOf false false false false && p.format.isNone then
      some { p with format := some (t, s) } else none
  | .hint c => if p.hint.isNone then some { p with hint := some c } else none

/-- Reads prefix units in order up to the first that offends: the prefixes before it, and its number, which is the number
of units where none offends (R98, R110). -/
def goodPfx (acc : Accepts) : Prefixes → Nat → List Nat → Prefixes × Nat
  | p, n, [] => (p, n)
  | p, n, u :: us =>
    if 3 ≤ n then (p, n)
    else match parsePfx u with
      | none => (p, n)
      | some x => match addPfx acc p x with
        | none => (p, n)
        | some p' => goodPfx acc p' (n + 1) us

/-- The field value a slot has in the word. -/
def slotField (f : LoFields) (hi : Nat) : SlotName → Nat
  | .a => f.a.toNat
  | .b => f.b.toNat
  | .c => (hiFields hi).c.toNat
  | .d => f.d.toNat

/-- The operand of a slot. -/
def Opnds.slot (o : Opnds) : SlotName → Opd
  | .a => o.a
  | .b => o.b
  | .c => o.c
  | .d => o.d

/-- Why a sequence is malformed (R110): it ended after a prefix, or unit `n` of it offends. -/
inductive SeqErr where
  | orphan
  | illegal (n : Nat)
  deriving DecidableEq, Repr

/-- A sequence read: prefixes, how many units they took, the instruction, and its own number of units. -/
structure Seq where
  pfx : Prefixes
  npfx : Nat
  instr : Instr
  units : Nat
  deriving DecidableEq, Repr

/-- FORMAT on D of a load names a tag the load does not allow, or stands beside a nonzero FMOD (R186, R190). -/
def loadFormatBad (i : Instr) (t : BitVec 4) : Bool :=
  match i with
  | .ldGI8 _ _ _ _ => t != 0
  | .ldGI16 _ _ _ _ => t != 0
  | .ldGN8 _ _ _ _ => t != 0
  | .ldGN16 _ _ _ _ => t != 0
  | .ldG32 _ _ _ (.long _ f _) => f != 0 || !loadTag32 t
  | .ldG32 _ _ _ .short => !loadTag32 t
  | .ldG64 _ _ _ (.long _ f _) => f != 0 || !loadTag64 t
  | .ldG64 _ _ _ .short => !loadTag64 t
  | .ldT32 _ _ _ _ => !loadTag32 t
  | _ => false

/-- High units with fewer and fewer fields kept: all of it, its XOP, and the part of XOP that names the opcode. -/
def roughHigh (lo hi : Nat) : List Nat :=
  let x := hi / 268435456 * 268435456
  [hi, x, if lo / 4 % 256 < 64 then x % 1073741824 else 0]

/-- The instruction that two units name, fields that offend left out as far as needed; none where no field tells. -/
def roughInstr (lo hi : Nat) : Option Instr :=
  ([lo, lo % 1024].flatMap (fun l => (roughHigh lo hi).map (fun h => decodeWord l h))).findSome? Except.toOption

/-- Units that decode to no instruction: the lower of those that offend. A field of the high unit that offends does not hide
one of the low unit that offends as well. -/
def offending (lo hi : Nat) : Option BadUnit :=
  match decodeWord lo hi with
  | .ok _ => none
  | .error .low => some .low
  | .error .high =>
    some (((roughHigh lo hi).findSome? (fun h => match decodeWord lo h with
      | .ok _ => some .high
      | .error .low => some .low
      | .error .high => none)).getD .high)

/-- A prefix that fits no other unit of its sequence: STREAM on a 64-bit slot (R203), FORMAT that its load does not allow
(R186), GUARD beside GEN (R92). -/
def pfxClash (i : Option Instr) (gen : Bool) (u : Nat) : Bool :=
  match parsePfx u, i with
  | some (.stream _ s), some i => match i.opnds.slot s with
    | .pair _ => true
    | _ => false
  | some (.format t m), some i => m.d && loadFormatBad i t
  | some (.guard _), _ => gen
  | _, _ => false

/-- A whole sequence from its prefix units and its instruction's units (R87, R98, R103). The lowest offending unit is
reported: prefixes first, then the low and the high unit of the instruction. A guard prefix beside GEN offends as the
prefix, the lower of the two units. -/
def decodeSeq (pfx : List Nat) (ins : List Nat) : Except SeqErr Seq :=
  match ins with
  | [] => .error (if pfx.isEmpty then .illegal 0 else .orphan)
  | lo :: rest =>
    let hi := rest.headD 0
    let n := pfx.length
    let (p, k) := goodPfx (acceptsOf lo hi) {} 0 pfx
    match (pfx.take k).findIdx? (pfxClash (roughInstr lo hi) (lo % 4 == 2 && (hiFields hi).gen)) with
    | some m => .error (.illegal m)
    | none =>
      if k < n then .error (.illegal k)
      else
        let bound (c : Bool) : Bool := p.streams.any (fun x => slotField (loFields lo) hi x.2 != 0 && (x.2 == .c) == c)
        if (lo % 4 == 2 && rest.isEmpty) || bound false || offending lo hi == some .low then .error (.illegal n)
        else match decodeWord lo hi with
          | .error _ => .error (.illegal (n + 1))
          | .ok i => if bound true then .error (.illegal (n + 1)) else .ok ⟨p, n, i, if lo % 4 == 2 then 2 else 1⟩

/-- The guard of a sequence: from GEN of its long word or from its GUARD prefix (R92). -/
def Seq.guard (s : Seq) : GuardF :=
  match s.pfx.guard with
  | some g => some g
  | none => s.instr.guard

/-- A block header's fields that the machine acts on (R94). LIVE, PREFETCH and RECOFF affect only timing (R95). -/
structure Header where
  len : Nat
  loop : Bool
  regroup : Bool
  reconv : Bool
  deriving DecidableEq, Repr

/-- The header whose low unit is `u`; none where it is malformed: bit 13 set, LEN 0, or LOOP with LEN 1 (R94). -/
def parseHeader (u : Nat) : Option Header :=
  let len := u / 4 % 256
  let loop := bitAt u 10
  if bitAt u 13 || len == 0 || (loop && len == 1) then none
  else some ⟨len, loop, bitAt u 11, bitAt u 12⟩

/-- Steps of a loop increment word (R96). -/
structure LoopWord where
  t : Nat
  c : Nat
  b : Nat
  a : Nat
  d : Nat
  deriving DecidableEq, Repr

/-- The loop increment word `u`; none where a reserved bit is set (R96). -/
def parseLoopWord (u : Nat) : Option LoopWord :=
  if u / 16777216 != 0 || u % 16 != 0 then none
  else some ⟨u / 1048576 % 16, u / 65536 % 16, u / 4096 % 16, u / 256 % 16, u / 16 % 16⟩

end Sys2Proof
end

