-- ==== Sys2Proof/Machine/Table.lean ====
section
/-!
DEFINITION. Sparse tables: the one shape in which the machine keeps registers, tags, bytes and records by number. A
table is a list of numbered entries in strictly rising order. A register file or a memory lists only the entries that
differ from the value an unlisted entry reads as, so that equal contents are equal data.
-/

namespace Sys2Proof.Machine

/-- Numbered entries, in strictly rising order of their numbers. -/
abbrev Tbl (α : Type) := List (Nat × α)

/-- The entry numbered `k`, if there is one. -/
def tblFind {α : Type} : Tbl α → Nat → Option α
  | [], _ => none
  | (j, v) :: t, k => if k = j then some v else tblFind t k

/-- The entry numbered `k`, or `d` where none is listed. -/
def tblGet {α : Type} (t : Tbl α) (d : α) (k : Nat) : α := (tblFind t k).getD d

/-- The table without entry `k`. -/
def tblErase {α : Type} : Tbl α → Nat → Tbl α
  | [], _ => []
  | (j, v) :: t, k => if k = j then tblErase t k else (j, v) :: tblErase t k

/-- The table with entry `k` holding `v`, whatever `v` is: for tables of records. -/
def tblSet {α : Type} : Tbl α → Nat → α → Tbl α
  | [], k, v => [(k, v)]
  | (j, u) :: t, k, v =>
    if k = j then (k, v) :: t else if k < j then (k, v) :: (j, u) :: t else (j, u) :: tblSet t k v

/-- The table with entry `k` holding `v`, where an unlisted entry reads as `d`: writing `d` removes the entry. -/
def tblPut {α : Type} [DecidableEq α] (t : Tbl α) (d : α) (k : Nat) (v : α) : Tbl α :=
  if v = d then tblErase t k else tblSet t k v

/-- Every number of the table lies above `b`, and the numbers rise strictly. -/
def tblSortedFrom {α : Type} : Nat → Tbl α → Bool
  | _, [] => true
  | b, (j, _) :: t => decide (b ≤ j) && tblSortedFrom (j + 1) t

/-- The canonical form of a table whose unlisted entries read as `d`: numbers rise strictly, no entry equals `d`. -/
def tblWf {α : Type} [DecidableEq α] (d : α) (t : Tbl α) : Bool :=
  tblSortedFrom 0 t && t.all (fun p => decide (p.2 ≠ d))

/-- The canonical form of memory: addresses rise strictly, and no byte listed is 0, as which an unlisted one reads. -/
def Memory.wf (m : Tbl Byte) : Bool := tblWf 0 m

/-- The record numbered `k` changed by `f`; the table as it is where none is listed. -/
def tblMod {α : Type} (t : Tbl α) (k : Nat) (f : α → α) : Tbl α :=
  match tblFind t k with
  | none => t
  | some v => tblSet t k (f v)

/-- The numbers listed, in rising order. -/
def tblKeys {α : Type} (t : Tbl α) : List Nat := t.map (·.1)

end Sys2Proof.Machine
end

