-- ==== Sys2Proof/Machine/Records.lean ====
section
/-!
DEFINITION. The records of which the state of the device is made: format tags, lanes, groups and their outstanding
operations, writes in flight, tiles, barrier objects, engines, launches and pieces, interfaces and queues, partition
leaves, dies, the fabric and the management function. Plain data only; what changes them stands elsewhere.
-/

namespace Sys2Proof.Machine
open Sys2Proof

/-- Format tags by their codes 0 to 13 (R206). -/
inductive Tag where
  | raw | i32 | n32 | i64 | n64 | f32 | f64 | bf16x2 | f16x2 | tb8 | tb6 | tb4 | i8x4 | n8x4
  deriving DecidableEq, Repr

/-- The classes of outstanding operations (R125). -/
inductive Cls where
  | ld | st | cp | tx | ur
  deriving DecidableEq, Repr

/-- The modes a lane runs in; code 3 never occurs (R116). -/
inductive Mode where
  | user | supervisor | hypervisor
  deriving DecidableEq, Repr

/-- Why a lane is parked (R338). -/
inductive Park where
  | none | page | monitor | hostcall
  deriving DecidableEq, Repr

/-- How a lane came to its ADDR, which decides whether a header stands there (R86, R395) and whether a LOOP header
keeps the loop pass (R129): inside its block, at a header (start, branch, vector, fall-through), at its block's header by
the back-edge of `loop`, or by a trap return. -/
inductive Came where
  | within | header | back | ret
  deriving DecidableEq, Repr

/-- What a lane keeps once per mode: loop pass, repeat pass and block mark (R129, R101, R395). -/
structure ModeState where
  loop : BitVec 16 := 0
  rep : BitVec 6 := 0
  mark : BitVec 10 := 0
  deriving DecidableEq, Repr

/-- One virtual lane of a group: its state word and everything the context image and the save record keep for it
(R116, R348, R349), its point (R76), and whether it has counted as triggered (R49). -/
structure Lane where
  /-- fields of the lane state word (R116); PARKED is `park` -/
  age : BitVec 10 := 0
  absent : Bool := false
  yielded : Bool := false
  exited : Bool := false
  mode : Mode := .user
  addr : BitVec 48 := 0
  came : Came := .header
  /-- sticky exception flags NX UF OF DZ NV (R215) -/
  flags : BitVec 5 := 0
  park : Park := .none
  /-- parked-fault record (R350) -/
  fault : BitVec 64 := 0
  /-- address whose page the parked access needs: the xval of a failed service (R341) -/
  faultAddr : BitVec 64 := 0
  /-- reference time at which a parked `mwait` gives up (R301) -/
  deadline : Option Nat := none
  /-- address past the sequence at which the lane is parked by `mwait` -/
  resume : BitVec 48 := 0
  /-- the place past the sequence is the next header -/
  resumeAtHeader : Bool := false
  m0 : ModeState := {}
  m1 : ModeState := {}
  m2 : ModeState := {}
  xpcS : BitVec 64 := 0
  xcauseS : BitVec 8 := 0
  xvalS : BitVec 64 := 0
  xpcH : BitVec 64 := 0
  xcauseH : BitVec 8 := 0
  xvalH : BitVec 64 := 0
  /-- use counts of W0 to W7 (R202) -/
  use : Tbl (BitVec 32) := []
  /-- coordinates of the lane's point (R76) -/
  cx : BitVec 32 := 0
  cy : BitVec 32 := 0
  cz : BitVec 32 := 0
  cw : BitVec 32 := 0
  triggered : Bool := false
  /-- where several levels are bound to GROUP and share the group: the lane's pieces of the levels below the highest of
  them, by level from 1 (R71) -/
  own : List Nat := []
  /-- writes ordered before the lane's exit, which counts as its trigger (R286) -/
  exitWrites : List Nat := []
  /-- ordered reduction slots the lane has contributed to (R310) -/
  contributed : BitVec 8 := 0
  /-- latest `%time` the lane has read (R324) -/
  lastTime : BitVec 64 := 0
  /-- stages and pages on which the lane has faulted: the REPEAT mark of R340 -/
  faulted : List (Nat × Nat) := []
  /-- the lane's next issue is one that R354 makes at restore; the page it waited for cannot be made present -/
  restored : Bool := false
  failing : Bool := false
  deriving DecidableEq, Repr

/-- A T register: tile handle (0xFFFF_FFFF no tile, 0xFFFF_FFFE pending) and format tag (R193, R348). -/
structure TileReg where
  handle : BitVec 32 := 0xFFFFFFFF
  tag : Tag := .raw
  deriving DecidableEq, Repr

/-- A stream pattern register: the four words that `wset` read (R202). -/
structure Pattern where
  w0 : DWord
  w1 : DWord
  w2 : DWord
  w3 : DWord
  deriving DecidableEq, Repr

/-- What a fence token or a barrier change waits for: writes by number, and loads not yet read, whose writes will be
added when they are read (R284, R293). -/
structure Cover where
  writes : List Nat := []
  loads : List Nat := []
  deriving DecidableEq, Repr

/-- A fence token in a slot F (R284, R348). -/
structure Token where
  scope : BitVec 4
  met : Bool
  cover : Cover
  deriving DecidableEq, Repr

/-- Monitor states (R301). -/
inductive MonState where
  | disarmed | armed | touched
  deriving DecidableEq, Repr

/-- One byte's place: a system physical address, a byte of a tile named by its handle, or a LOCAL byte of a lane. -/
inductive Loc where
  | sys (a : Nat)
  | tile (handle off : Nat)
  | loc (gid lane off : Nat)
  deriving DecidableEq, Repr

/-- The monitor of a virtual group (R301): its state, its level, the generic address of the line and the place of the
line's first byte. -/
structure Monitor where
  state : MonState := .disarmed
  level : BitVec 4 := 0
  line : BitVec 64 := 0
  place : Loc := .sys 0
  deriving DecidableEq, Repr

/-- The host call a group waits for (R343, R348). -/
structure HostCall where
  waiting : Bool := false
  seq : BitVec 32 := 0
  kd : BitVec 6 := 0
  lanes : LaneMask := 0
  /-- its HDONE came while the group was not resident, and takes effect at restore -/
  held : Bool := false
  deriving DecidableEq, Repr

/-- An error reported at a later `wait` (R394). -/
structure PendErr where
  cause : BitVec 8
  xval : BitVec 64
  deriving DecidableEq, Repr

/-- What a unit of storage belongs to: a piece, or a TASK group (R78, R32). -/
inductive Owner where
  | piece (pid : Nat)
  | task (gid : Nat)
  deriving DecidableEq, Repr

/-- How a loaded value becomes a register value (R186). -/
inductive Extend where
  | s8 | z8 | s16 | z16 | w32 | w64
  deriving DecidableEq, Repr

/-- One lane's part of a load: where its bytes lie, and once read whether they were poisoned. -/
structure LoadLane where
  lane : Nat
  mode : Mode
  loc : Loc
  read : Bool
  val : DWord
  /-- where the poison trap is enabled: the value at issue and the writes it came from, which stand where the line is poisoned
  before the read (R166, R182; DEDUCED, log entry 22) -/
  early : Option (DWord × List Nat) := none
  deriving DecidableEq, Repr

/-- The operation an urn performs (R303 to R306). -/
inductive UrnAct where
  | int (op : UrnOp) (signed : Bool)
  | cmpx
  | fadd
  deriving DecidableEq, Repr

/-- An urn request on one address: what it does to how many bytes, the level at which it performs, and for each lane of
the issue that names the address, in order: lane, operand, comparand. -/
structure UrnReq where
  act : UrnAct
  bytes : Nat
  level : Nat
  parts : List (Nat × DWord × DWord)
  deriving DecidableEq, Repr

/-- One lane's part of an urn operation: its write, its reply, and whether the reply has landed. -/
structure UrnLane where
  lane : Nat
  mode : Mode
  wid : Nat
  reply : Option DWord
  landed : Bool
  deriving DecidableEq, Repr

/-- What asks for a barrier change (R297, R80). -/
inductive BarAsk where
  | arrive (n : Nat)
  | drop (n : Nat)
  | expect (n : Nat) (xval : BitVec 64)
  deriving DecidableEq, Repr

/-- Parameters and progress of a copy: `cp`, `wbld`, `fwr`, `frd` (R196, R255, R317). Bytes are numbered row by row;
`done` lists the bytes written in this run, `credited` counts those credited, the S bytes of R352 of an earlier run
included, and `ended` is set when a fault has ended the copy. -/
structure CopyOp where
  src : DWord
  dst : DWord
  rows : Nat
  rowBytes : Nat
  sstride : Int
  dstride : Int
  credit : Option (BitVec 32)
  scope : Nat
  mode : Mode
  lane : Nat
  done : List Nat
  writes : List Nat
  ended : Bool
  suspended : Bool
  pageTag : Option (BitVec 32)
  answered : Bool
  credited : Nat
  /-- of a fabric copy: bytes read and not yet sent, or come and not yet written; bytes whose packets have been sent; how
  many of those have been answered; the first outcome other than OK (R317) -/
  data : Tbl Byte := []
  asked : List Nat := []
  acked : Nat := 0
  outcome : Nat := 0
  deriving DecidableEq, Repr

/-- A matrix operation with the K words it was issued with (R241). -/
inductive MatAct where
  | mma (fmt : Nat)
  | mzero
  | mepi (target : MTarget)
  | mrel
  | msave
  | mload
  | wbal (owner : Owner)
  | mbias
  | mstat
  | mxset
  deriving DecidableEq, Repr

/-- A matrix operation in progress: which set, which K register it writes, its words, its next K-step (the next row or
chunk of an operation that writes a tile), whether its prepass is done, and the next unit of its panel (R247). -/
structure MatOp where
  act : MatAct
  set : Nat
  kd : Nat
  words : List DWord
  lane : Nat
  kstep : Nat := 0
  prepassed : Bool := false
  unit : Nat := 0
  /-- kept from the prepass (R252): exponent bytes of A, by row and K-step, and of each panel row -/
  aexpo : List (List Byte) := []
  bexpo : List (List Byte) := []
  /-- payload chunks of A read before their K-step, by row + 64 × K-step (R252) -/
  chunks : Tbl (List Byte) := []
  deriving DecidableEq, Repr

/-- An auction between rounds (R265, R272): held column and kept bid of each row, prices, rounds run. -/
structure Auction where
  chain : List DWord
  held : List (Option (Nat × BitVec 32))
  prices : List (BitVec 32)
  caps : List Nat
  rounds : Nat
  nansc : Bool
  clampsc : Bool
  deriving DecidableEq, Repr

/-- A cluster's assignment engine (R263): operations in arrival order, by a rising number, group and operation; and the
number of the one it served last. -/
structure AssignQ where
  ops : List (Nat × Nat × Nat) := []
  last : Nat := 0
  deriving DecidableEq, Repr

/-- The kinds of remote operation of a group (R316). -/
inductive FabAct where
  | frdK (kd : Nat)
  | fatom (kd : Nat) (exch : Bool) (val : DWord)
  | fsend (mtag : BitVec 32) (len : Nat) (payload : DWord)
  | fevent (num : BitVec 8)
  | fstat (kd : Nat)
  | bopen (kd : Nat) (words : List DWord)
  /-- items read so far, packets sent and answered, the first outcome other than OK -/
  | bpush (words : List DWord) (pos sent acked outcome : Nat)
  | bclose (words : List DWord)
  | bstat (kd : Nat) (handle : DWord)
  | bfree (handle : DWord)
  deriving DecidableEq, Repr

/-- What an outstanding operation is (R125). -/
inductive OpKind where
  /-- load into register `d` (pair when `wide`) -/
  | load (d : Nat) (wide : Bool) (ext : Extend) (lanes : List LoadLane)
  /-- load into K[kd] -/
  | ldk (kd : Nat) (lane : LoadLane)
  /-- store: its writes and the level of its scope -/
  | store (writes : List Nat) (level : Nat)
  /-- `trigger` of these lanes, with the writes ordered before each -/
  | trigger (lanes : List Nat) (writes : List Nat)
  /-- `spawn` of these task slots, not yet read, with the writes of their lanes before it -/
  | spawn (slots : List DWord) (writes : List Nat)
  /-- barrier change on the way to its object -/
  | barrier (cid : Nat)
  /-- host call record not yet written -/
  | hcall (imm : BitVec 8) (mode : Mode) (lanes : LaneMask) (args : List DWord) (kd : Nat) (writes : List Nat)
  /-- invalidation -/
  | tinv (iid : Nat)
  | copy (c : CopyOp)
  /-- tile allocation into T[t] for the key (owner, t), with its shape word -/
  | talloc (t : Nat) (owner : Owner) (shape : DWord)
  /-- barrier run allocation into K[kd] for the key (owner, kd), with its request word and level -/
  | balloc (kd : Nat) (owner : Owner) (req : DWord) (level : Nat)
  | urn (d : Option Nat) (wide : Bool) (level : Nat) (lanes : List UrnLane)
  | ored
  | matrix (m : MatOp)
  /-- `wbld`: a copy into a weight region -/
  | wbld (region woff : Nat) (c : CopyOp)
  | assign (opc : Nat) (words : List DWord) (lane : Nat) (a : Option Auction)
  /-- `asn.stat` into K[kd] -/
  | asnStat (kd : Nat)
  /-- `fwr` (`out` true) or `frd` on a window of another package -/
  | remoteCopy (out : Bool) (dpkg win off : Nat) (c : CopyOp)
  /-- a fabric operation other than a copy: its remote word, its mode, the writes ordered before it, whether its packet has
  been sent, the outcome and value that have come back -/
  | fabric (f : FabAct) (target : DWord) (mode : Mode) (writes : List Nat) (sent : Bool) (got : Option (Nat × DWord))
  /-- an issue with no guard-active lane that counts and retires at once -/
  | empty
  deriving DecidableEq, Repr

/-- What an assignment operation has still to write (R271): words of four bytes by tile address, offset and value, and the status
word that it leaves. -/
structure AsnOut where
  words : List (DWord × Nat × Nat)
  status : DWord
  deriving DecidableEq, Repr

/-- An outstanding operation of a virtual group: its number in the group, class, what it is, whether it has ended
and waits only for older operations of its class, and its scope-independent opcode for `fstat`. -/
structure Op where
  id : Nat
  cls : Cls
  kind : OpKind
  ended : Bool := false
  opc : Nat := 0
  /-- the error it met, pending from its retirement (R394) -/
  err : Option PendErr := none
  /-- its turn among the loads that a used up memory budget has stalled (R62) -/
  stall : Option Nat := none
  /-- words that an assignment operation has read ahead, by tile address (R271) -/
  ahead : Tbl Nat := []
  /-- an assignment operation that has come to its end and still writes (R271) -/
  out : Option AsnOut := none
  deriving DecidableEq, Repr

/-- Measurements of one group in user mode (R363). -/
structure Measure where
  lanes : Nat := 0
  issues : Nat := 0
  memIssues : Nat := 0
  lines : Nat := 0
  deriving DecidableEq, Repr

/-- A virtual group: its context image and save record (R73, R348, R349), the operations it has outstanding, and
where it is placed. -/
structure Group where
  launch : Nat
  vi : Nat
  leaf : Nat
  /-- package core number and group context (R336) -/
  core : Nat
  ctx : Nat
  /-- false while pre-empted -/
  resident : Bool := true
  /-- a TASK group (R31) -/
  task : Bool := false
  role : Nat := 0
  /-- pieces that contain the group, by level from 1; 0 at a level whose pieces share the group (R71) -/
  pieces : List Nat := []
  lanes : Tbl Lane := []
  v : Tbl Word := []
  vtag : Tbl Tag := []
  k : Tbl DWord := []
  p : Tbl LaneMask := []
  t : Tbl TileReg := []
  w : Tbl Pattern := []
  f : Tbl Token := []
  /-- system address of its image in the pool of its leaf (R73, R74) -/
  image : Option Nat := none
  /-- LOCAL bytes, lane i's at i × 65536 (R73) -/
  local_ : Tbl Byte := []
  /-- remote-flags word (R307) -/
  remote : BitVec 5 := 0
  mon : Monitor := {}
  /-- assignment status word (R269) and fabric status word (R319) -/
  asnStatus : DWord := 0
  fabStatus : DWord := 0
  hostcall : HostCall := {}
  tvecS : DWord := 0
  tvecH : DWord := 0
  trapen : DWord := 0
  ops : List Op := []
  nextOp : Nat := 0
  pendST : Option PendErr := none
  pendCP : Option PendErr := none
  pendTX : Option PendErr := none
  /-- writes read by loads of the group and not known to have performed everywhere (R284 item 2) -/
  seen : List Nat := []
  /-- writes covered by tokens whose `fwait` completed (R284 item 3) -/
  fwaited : List Nat := []
  /-- units fetched, by mode × 2^48 + address (R112) -/
  icache : Tbl Word := []
  /-- issue stamp of the group's last issue (R124) -/
  lastIssue : Nat := 0
  meas : Measure := {}
  /-- the group's last lane has exited and its counters are zero: its image is freed (R134) -/
  freed : Bool := false
  /-- a TASK group whose lanes have all exited, and which has been counted as completed (R48) -/
  done : Bool := false
  deriving DecidableEq, Repr

/-- A write in flight, or an urn operation on its way to its urn (R279, R283). `core` is none for an agent of the hub
(R277). `level` is 0 SQ, 1 CB, 2 LB, 3 DB, 4 PB, 5 OB. -/
structure Write where
  id : Nat
  gid : Nat
  lane : Nat
  launch : Nat
  core : Option Nat
  level : Nat
  bytes : List (Loc × Byte)
  urn : Option UrnReq := none
  /-- the operation of the group that an urn operation belongs to -/
  op : Nat := 0
  /-- lanes that share an urn operation with `lane` (R303, R304) -/
  sharers : List Nat := []
  /-- a used up budget has stalled it where it lies (R62) -/
  held : Bool := false
  /-- the group whose copy or engine wrote it, where `gid` is 0 (R289) -/
  by_ : Nat := 0
  deriving DecidableEq, Repr

/-- States of a tile-table entry other than EMPTY, with the copies outstanding (R168). -/
inductive TileState where
  | ready
  | filling (n : Nat)
  | draining (n : Nat)
  deriving DecidableEq, Repr

/-- A tile (R165, R167, R193); its place in the tables is its handle. -/
structure Tile where
  owner : Owner
  leaf : Nat
  reg : Nat
  shape : DWord
  size : Nat
  base : Nat
  state : TileState
  bytes : Tbl Byte
  deriving DecidableEq, Repr

/-- A barrier object (R290); its place in the tables is its handle. -/
structure Barrier where
  owner : Owner
  leaf : Nat
  /-- scope code at which arrivals order writes (R293) -/
  scope : BitVec 4
  /-- package that holds it, when a POD-bound piece's (R294) -/
  far : Option Nat
  phase : BitVec 24 := 0
  exparr : Nat
  arr : Nat := 0
  expb : Nat := 0
  landb : Nat := 0
  deriving DecidableEq, Repr

/-- A run of objects allocated by `balloc` (R299); `pkg` names the home package when it is another one (R294). -/
structure BarRun where
  owner : Owner
  pkg : Option Nat := none
  leaf : Nat
  reg : Nat
  word : DWord
  first : Nat
  count : Nat
  deriving DecidableEq, Repr

/-- A barrier change in flight: the object, what is asked, what must have performed first, and at which scope. `pkg`
names the home package when it is another one (R294). -/
structure Change where
  gid : Nat
  op : Option Nat
  handle : Nat
  pkg : Option Nat
  ask : BarAsk
  cover : Cover
  scope : BitVec 4
  sent : Bool := false
  /-- the leaf whose fabric budget its packets count against (R294) -/
  leaf : Nat := 0
  deriving DecidableEq, Repr

/-- A phase mirror of an object on another package (R294). -/
structure Mirror where
  dpkg : Nat
  handle : BitVec 32
  phase : BitVec 24
  deriving DecidableEq, Repr

/-- A phase packet on its way from this package, the home of an object, to another (R294). -/
structure PhaseOut where
  leaf : Nat
  dst : Nat
  phase : Mirror
  deriving DecidableEq, Repr

/-- What leaves through the fabric ports: a packet, a barrier change for its home package, a phase packet (R314, R294). -/
inductive OutItem where
  | packet (p : FabPacket)
  | change (p : BarPacket)
  | phase (p : PhaseOut)
  deriving DecidableEq, Repr

/-- SPEC codes of an accumulator element (R239). -/
inductive Spec where
  | finite | pinf | ninf | nan
  deriving DecidableEq, Repr

/-- An accumulator set (R239, R249). Elements are numbered 64 i + j. -/
structure AccSet where
  acc : Tbl (BitVec 128) := []
  spec : Tbl Spec := []
  x : Int := 0
  xset : Bool := false
  ksteps : Nat := 0
  err : BitVec 8 := 0
  trunc : Bool := false
  chg : Bool := false
  epi : BitVec 5 := 0
  claim : Option Nat := none
  deriving DecidableEq, Repr

/-- An entry of a core's weight region table (R239, R254). -/
structure WRegion where
  owner : Owner
  leaf : Nat
  reg : Nat
  base : Nat
  len : Nat
  deriving DecidableEq, Repr

/-- An entry of a core's regrouping table (R122): a physical slot of a physical group context, the virtual group and virtual
lane gathered into it, whose image lines are those of that lane, and whether the lane has since taken the header at which it
was gathered. -/
structure Gathered where
  ctx : Nat
  slot : Nat
  gid : Nat
  lane : Nat
  taken : Bool
  deriving DecidableEq, Repr

/-- A core: accumulator sets, weight buffer and region table, event counters and selectors, regrouping table (R239, R336,
R337, R122). -/
structure Core where
  sets : Tbl AccSet := []
  wbuf : Tbl Byte := []
  regions : Tbl WRegion := []
  evsel : Tbl DWord := []
  evc : Tbl DWord := []
  regroup : List Gathered := []
  deriving DecidableEq, Repr

/-- A request that waits for space in a tile store, weight buffer or barrier store, in arrival order (R194). -/
structure StoreWait where
  gid : Nat
  op : Nat
  lvl : Bool
  unit : Nat
  /-- the home package, when it is another one (R294, R299) -/
  pkg : Option Nat := none
  deriving DecidableEq, Repr

/-- A cached table entry of a cluster (R176): stage, leaf, interface of a stage-1 entry, level of the table, input address
whose walk read it, system address of the entry read, value. -/
structure TlbEntry where
  cluster : Nat
  leaf : Nat
  vi : Nat
  stage : Nat
  level : Nat
  input : Nat
  at_ : Nat := 0
  value : DWord
  deriving DecidableEq, Repr

/-- A walk in progress on a cluster (R178): whose access, the entries read so far, the system page it has led to. -/
structure Walk where
  cluster : Nat
  leaf : Nat
  vi : Nat
  mode : Mode
  addr : Nat
  read : List TlbEntry
  stale : Bool
  out : Option Nat := none
  deriving DecidableEq, Repr

/-- An invalidation not yet acknowledged (R177, R179). -/
structure Inval where
  /-- the group and operation that issued it; none for the policy core and the migration engine -/
  gid : Option Nat
  op : Nat
  leaf : Nat
  /-- the interface whose stage 1 it names; 0 for every interface of the leaf -/
  vi : Nat
  stage1 : Bool
  stage2 : Bool
  /-- size in bytes of the page named, 0 for all addresses -/
  size : Nat
  page : Nat
  reached : List Nat
  /-- accesses made on the clusters it has reached and not yet performed, as they stood then: writes, and loads by group
  and operation (R179) -/
  writes : List Nat
  loads : List (Nat × Nat)
  deriving DecidableEq, Repr

/-- States of a launch at the front end (R45 to R51). -/
inductive LaunchPhase where
  /-- released, its record not yet read -/
  | released
  /-- waits for a message (R47) -/
  | armed
  /-- started; pieces are dispatched -/
  | running
  /-- counter zero or failed; its completion steps remain -/
  | completing
  /-- completed (step 3 of R51 done) -/
  | completed
  deriving DecidableEq, Repr

/-- Task slot states (R139). -/
inductive SlotState where
  | reserved (gid lane : Nat)
  | spawned
  deriving DecidableEq, Repr

/-- The cut of one level: counts per dimension and traversal order (R68). -/
structure Cut where
  shape : List Nat
  order : Nat
  deriving DecidableEq, Repr

/-- The slab of top-level pieces being laid out (R364): its origin along d*, the cuts in force in it, and the next position
of its grid in dispatch order. -/
structure Slab where
  origin : Nat
  cuts : List Cut
  next : Nat
  deriving DecidableEq, Repr

/-- Measurements of the pieces of one level since its last decision point (R363, R364). -/
structure LevelStat where
  retired : Nat := 0
  total : Nat := 0
  lanes : Nat := 0
  issues : Nat := 0
  memIssues : Nat := 0
  lines : Nat := 0
  sumDur : Nat := 0
  maxDur : Nat := 0
  deriving DecidableEq, Repr

/-- The Grader's state for one launch (R34, R35, R364 to R368). -/
structure Grader where
  replay : Bool := false
  logging : Bool := false
  /-- the top level is laid out in slabs, and in windows -/
  slabbed : Bool := false
  windowed : Bool := false
  /-- entries of the cut record in use, header included -/
  used : Nat := 0
  /-- pieces retired at all levels -/
  retired : Nat := 0
  /-- cuts of levels 1 and up that the next slab takes -/
  cuts : List Cut := []
  /-- first cuts that the host supplied, by level from 1, and the levels still awaited (R68) -/
  sources : List Bool := []
  awaited : List Nat := []
  slab : Option Slab := none
  /-- origin along d* of the next slab -/
  origin : Nat := 0
  /-- by level from 1 -/
  stats : List LevelStat := []
  /-- decision not yet in effect: level and cut -/
  pending : Option (Nat × Cut) := none
  /-- pieces of the current window still to lay out, and laid out and not retired -/
  winLeft : Nat := 0
  winLive : Nat := 0
  /-- level whose decision the host is asked for at an open decision point (R367), with its measurements -/
  asked : Option Nat := none
  /-- replay: next entry to apply, entries in the record, last AT of each level from 1 -/
  nextEntry : Nat := 0
  entries : Nat := 0
  lastAt : List Nat := []
  /-- pieces laid out so far, by level from 1 -/
  laid : List Nat := []
  /-- writes to the record not yet made: offset and bytes; and writes made and perhaps not performed -/
  log : List (Nat × List Byte) := []
  logged : List Nat := []
  lost : Bool := false
  deriving DecidableEq, Repr

/-- A piece (R69, R76), and what its retirement needs (R362). -/
structure Piece where
  launch : Nat
  level : Nat
  parent : Option Nat
  org : List Nat
  ext : List Nat
  pos : Nat
  pop : Nat
  bar : BitVec 32
  barpkg : BitVec 32
  /-- its sub-pieces, where the level is above 1 -/
  subs : List Nat
  /-- reference time of its dispatch -/
  born : Option Nat := none
  retired : Bool := false
  homeCluster : Option Nat := none
  deriving DecidableEq, Repr

/-- A group laid out and not yet placed on a core (R71, R82): pieces as a group has them, the pieces that each lane has of
its own, the points of its lanes, the piece whose groups get their images together (0 for none), the widest gang it
belongs to, and the target and arguments of a TASK group. -/
structure GroupPlan where
  pieces : List Nat := []
  own : List (List Nat) := []
  role : Nat := 0
  points : List (List Nat)
  unit : Nat := 0
  gang : Option Nat := none
  task : Option (DWord × List DWord) := none
  /-- the image it has been given (R74) -/
  image : Option Nat := none
  deriving DecidableEq, Repr

/-- A launch from its release on (R45 to R51): the entry it came from, its record, and its progress. -/
structure Launch where
  vi : Nat
  leaf : Nat
  queue : Nat
  entry : Nat
  lrec : DWord
  csig : DWord
  cval : DWord
  cscope : Nat
  setMask : List (BitVec 8)
  intr : Bool
  mtag : BitVec 32
  parent : Option Nat
  /-- 512 bytes of the launch record, once read -/
  record : List Byte
  consts : List DWord
  payload : Option DWord
  payloadSlot : Option Nat
  phase : LaunchPhase
  counter : Nat
  error : BitVec 32
  flags : BitVec 32
  start : Option Nat
  end_ : Nat
  /-- points laid out, where NLEVEL is 1; top-level pieces laid out -/
  nextTop : Nat
  dispatched : Nat
  /-- no further piece is laid out: an error stopped the launch, or every point has been -/
  stopped : Bool
  laidOut : Bool
  /-- the launch has subtracted its own count (R48) -/
  counted : Bool
  tasks : Tbl SlotState
  taskGroups : List Nat
  ored : List (Nat × Nat × DWord)
  grader : Grader
  /-- groups that wait for a place: of pieces, and of tasks, in order -/
  plans : List GroupPlan
  taskPlans : List GroupPlan
  /-- core of the domain instance whose freed resources are held for a gang that waits (R82) -/
  gangAt : Option Nat
  /-- the interrupt's vector, where a function-level reset has cleared QCTL since its COMPLETE began (R54) -/
  vec : Option Nat := none
  /-- step of R369 reached; ordered slots written, with their writes; the write of the completion signal -/
  step : Nat
  slotsDone : Nat
  slotWrites : List Nat
  sigWrite : Option Nat
  armedAt : Nat
  deriving DecidableEq, Repr

/-- A queue control block (R56). -/
structure QBlock where
  gen : BitVec 32 := 0
  head : BitVec 32 := 0
  released : BitVec 32 := 0
  inflight : BitVec 32 := 0
  wddead : BitVec 64 := 0
  wdrem : BitVec 64 := 0
  lastid : BitVec 64 := 0
  deriving DecidableEq, Repr

/-- What a queue's previous entry was, for the release rule (R45). -/
inductive Pred where
  | none
  /-- a NOP or EVENT entry, released -/
  | plain
  | launch (lid : Nat)
  deriving DecidableEq, Repr

/-- A queue of a virtual interface (R41, R54, R56, R58), with its watchdog (R59): the reference time at which it expires, or
the nanoseconds left while the tenant is away; 0 where none runs. The control block and its shadow say what the queue core
last recorded. -/
structure Queue where
  qbase : BitVec 64 := 0
  qctl : BitVec 32 := 0
  qtail : BitVec 32 := 0
  qhead : BitVec 32 := 0
  halt : Bool := false
  qerr : BitVec 32 := 0
  qwdog : BitVec 32 := 0
  held : Option (List Byte) := none
  relcnt : BitVec 32 := 0
  block : QBlock := {}
  shadow : QBlock := {}
  wddead : BitVec 64 := 0
  wdrem : BitVec 64 := 0
  pred : Pred := .none
  deriving DecidableEq, Repr

/-- A virtual interface: the registers of its page (R39, R318, R340). -/
structure VI where
  ev : BitVec 256 := 0
  evset : BitVec 32 := 0
  msgdrop : BitVec 32 := 0
  mbase : BitVec 64 := 0
  mctl : BitVec 32 := 0
  hbase : BitVec 64 := 0
  hctl : BitVec 32 := 0
  htail : BitVec 32 := 0
  hhead : BitVec 32 := 0
  hdone : BitVec 32 := 0
  prbase : BitVec 64 := 0
  prctl : BitVec 32 := 0
  prtail : BitVec 32 := 0
  prhead : BitVec 32 := 0
  prresp : BitVec 64 := 0
  stvec : BitVec 64 := 0
  sroot : BitVec 64 := 0
  queues : Tbl Queue := []
  /-- payload slots in use -/
  slots : List Nat := []
  /-- vectors sent to the host, oldest first -/
  msix : List Nat := []
  deriving DecidableEq, Repr

/-- A fabric window of a leaf (R315, R390). -/
structure Window where
  read : Bool
  write : Bool
  base : Nat
  len : Nat
  users : List (BitVec 32)
  deriving DecidableEq, Repr

/-- What a tenant that is away left in the stores of its leaf (R356): tiles, barrier objects, runs, requests that wait for
room, and by core the accumulator sets, weight regions and weight buffer. -/
structure Tenancy where
  tiles : Tbl Tile := []
  barriers : Tbl Barrier := []
  runs : Tbl BarRun := []
  waits : List StoreWait := []
  cores : Tbl Core := []
  deriving DecidableEq, Repr

/-- A partition leaf or top-level partition (R61, R391), numbered as `ctl.leaf` [7:0] (R336). -/
structure Part where
  /-- a child holds resources of a configured parent -/
  configured : Bool := false
  clusters : BitVec 128 := 0
  channels : BitVec 256 := 0
  slices : BitVec 128 := 0
  budgets : List (BitVec 32) := []
  modes : BitVec 6 := 0
  slice : Nat := 1
  assistMs : Nat := 100
  poolBase : Nat := 0
  poolSize : Nat := 0
  prshare : Nat := 0
  hvec : BitVec 64 := 0
  s2root : Nat := 0
  vis : List Nat := []
  msgTgt : List (BitVec 32) := []
  windows : Tbl Window := []
  /-- accumulator sets in the matrix save blocks of the leaf, by 4 × core + set (R257, R350) -/
  saves : Tbl AccSet := []
  /-- counts against the budgets in this period (R62) -/
  used : List Nat := []
  /-- error counts 0 to 5 of `errrd` (R347) -/
  errs : Tbl DWord := []
  /-- interface whose work runs (R65) -/
  tenant : Option Nat := none
  /-- reference time at which the tenant's slice began; the tenant whose switch is under way; what each tenant that is away
  left (R65, R356) -/
  since : Nat := 0
  leaving : Option Nat := none
  away : Tbl Tenancy := []
  /-- drain in progress (R60): 0 none; 1 stopped, and the host is asked; 2 stopped, to be drained; 3 freed, while the stopped
  launches complete. By when the stopped launches must have ended, and those launches -/
  drain : Nat := 0
  drainBy : Nat := 0
  aborted : List Nat := []
  /-- queues whose watchdog expired since the drain began: interface × 64 + queue -/
  expired : List Nat := []
  /-- host-assisted scheduling (R66): what may be released next: interface × 64 + queue + 1, 0 for whatever the device
  itself would choose, none while the host has not answered -/
  allow : Option Nat := none
  deriving DecidableEq, Repr

/-- A page request entry (R339, R340). -/
structure PageReq where
  leaf : Nat
  vi : Nat
  stage : Nat
  page : Nat
  acc : BitVec 8
  user : Bool
  tag : BitVec 32
  gid : Nat
  again : Bool
  written : Bool
  /-- lanes attached: group and lane; lane 32 stands for an operation of the group -/
  lanes : List (Nat × Nat)
  /-- system page of the entry's access, for the stage-2 service of R338 -/
  ops : List (Nat × Nat)
  deriving DecidableEq, Repr

/-- A fault that waits for an entry (R339, last row). -/
structure PageWait where
  leaf : Nat
  vi : Nat
  stage : Nat
  page : Nat
  acc : BitVec 8
  user : Bool
  gid : Nat
  lane : Nat
  op : Option Nat
  again : Bool
  /-- a fault of an issue that R354 makes: it is never attached to an entry -/
  fresh : Bool := false
  deriving DecidableEq, Repr

/-- A compute die's clock (R325, R326, R383). -/
structure Die where
  mhz : Nat := 1800
  target : Nat := 1800
  /-- reference time at which the present clock started, and the counts then -/
  since : Nat := 0
  cyc0 : DWord := 0
  base : DWord := 0
  ratio : Nat := 16777216
  relocking : Bool := false
  relockEnd : Nat := 0
  /-- steps ordered and not begun: by how many MHz, and whether at once, regardless of spacing (R383) -/
  stepWaits : List (Int × Bool) := []
  /-- stopped by a junction at 115 °C (R383) -/
  tripped : Bool := false
  deriving DecidableEq, Repr

/-- A queue core of the firmware complex (R53, R55): whether it is down, since when its heartbeat word stands still, when the
policy core restarted it, and when it last resumed service. -/
structure QueueCore where
  down : Bool := false
  stoppedAt : Nat := 0
  restartAt : Option Nat := none
  upAt : Nat := 0
  deriving DecidableEq, Repr

/-- An assist request not yet answered (R66, R392). -/
structure Assist where
  tag : BitVec 32
  leaf : Nat
  fn : Nat
  data : List Nat
  posted : Nat
  deriving DecidableEq, Repr

/-- A ring of 64-byte records of the management function (R388). -/
structure Ring where
  base : BitVec 64 := 0
  ctl : BitVec 32 := 0
  tail : BitVec 32 := 0
  head : BitVec 32 := 0
  deriving DecidableEq, Repr

/-- A rank of a merge session (R320, R321): items read and not yet merged, last key, whether closed. -/
structure Rank where
  items : List DWord := []
  /-- values by key, in rising order: everything the rank has supplied -/
  keys : Tbl (BitVec 32) := []
  last : Option Nat := none
  closed : Bool := false
  cut : Bool := false
  /-- the push whose segment is being read: package, group and operation -/
  busy : Option (Nat × Nat × Nat) := none
  /-- packets of segments that wait for it, in the order of their arrival (R321) -/
  queue : List FabPacket := []
  deriving DecidableEq, Repr

/-- A merge session of the Blend engine (R321 to R323). -/
structure Session where
  leaf : Nat
  launch : Nat
  vi : Nat
  out : DWord
  ocap : Nat
  f32 : Bool
  dthresh : Nat
  nrank : Nat
  done : DWord
  timeout : Nat
  opened : Nat
  ranks : Tbl Rank
  /-- keys below this are written or dropped -/
  nextKey : Nat
  items : Nat
  dropped : Nat
  ended : Bool
  aborted : Bool
  timedOut : Bool
  incomplete : Bool
  ovf : Bool
  badStream : Bool
  badRank : Nat
  fpflags : BitVec 5
  /-- writes of the output stream, for the done record's order -/
  writes : List Nat
  ending : Bool
  /-- a stream that broke R320 has ended it -/
  broken : Bool := false
  deriving DecidableEq, Repr

/-- A migration ticket made by this device (R357). -/
structure Ticket where
  leaf : Nat
  dpkg : Nat
  target : Nat
  made : Nat
  used : Bool
  deriving DecidableEq, Repr

/-- Phases of a migration of one leaf (R358, R359). -/
inductive MigPhase where
  | snapshot | stream | stop | delta | commit | cutStop | cutDrain | checkpoint
  deriving DecidableEq, Repr

/-- A migration, or a fallback cut, in progress (R358, R359): the phase it is in and whether the host has approved it, the
reference time at which STOP began, the involved packages, those whose markers have come, whether this package has sent its
own, and the cuts repeated. -/
structure Migration where
  phase : MigPhase
  approved : Bool
  stopped : Nat := 0
  involved : List Nat := []
  markers : List Nat := []
  sent : Bool := false
  drops : Nat := 0
  /-- the target's package and leaf (R357) -/
  dst : Nat := 0
  target : Nat := 0
  /-- stage-2 pages at SNAPSHOT, by guest and system address; those still to be sent; the old bytes that the engine keeps of pages
  written before they were sent; pages written since SNAPSHOT (R358) -/
  pages : List (Nat × Nat) := []
  send : List (Nat × Nat) := []
  kept : Tbl (List Byte) := []
  dirty : List Nat := []
  /-- host address and length of the checkpoint from which the leaf is restored (R359) -/
  from_ : Option (Nat × Nat) := none
  deriving DecidableEq, Repr

/-- A command of the management function that has been started and not completed (R389). -/
structure Command where
  block : List Byte
  addr : Nat
  seq : BitVec 32
  deriving DecidableEq, Repr

/-- The management function and the policy core's own registers (R383 to R390). -/
structure Mgmt where
  mcmda : BitVec 64 := 0
  mdoor : BitVec 32 := 0
  mdone : BitVec 32 := 0
  assist : Ring := {}
  ardata : BitVec 64 := 0
  artag : BitVec 64 := 0
  halt : Ring := {}
  ready : Bool := false
  recovery : Bool := false
  commands : List Command := []
  asks : List Assist := []
  nextAsk : BitVec 32 := 0
  plimit : Nat := 2000
  watts : List Nat := []
  lowSince : Option Nat := none
  lastStep : Nat := 0
  /-- reference time of the last power sample (R383) -/
  sampled : Option Nat := none
  /-- VERSION and DIGEST of the running image; the fused rollback counter; the fused key hash, none for the one fused at
  manufacture (R385) -/
  version : BitVec 32 := 0
  digest : List Byte := []
  rollback : BitVec 32 := 0
  keyHash : Option (List Byte) := none
  /-- the image in hub flash, none for the one that was put there at manufacture (R384, R385) -/
  flash : Option (List Byte) := none
  /-- memory channels and links that failed in training and are left out, as their number (R384) -/
  trainFails : Nat := 0
  /-- the budget period in which the counts of R62 were made -/
  period : Nat := 0
  /-- the partition blocks in force, by partition (R387) -/
  configs : Tbl (List Byte) := []
  restarts : List Nat := []
  /-- reference time at which the policy core resumes after its last restart (R67) -/
  policyBack : Nat := 0
  halts : Nat := 0
  tickets : Tbl Ticket := []
  taken : List Nat := []
  /-- leaves whose ticket has been taken, with the package and leaf they come from, and the bytes of their state that have come
  (R357, R358); checkpoints written, by leaf: host address and length (R359) -/
  expected : Tbl (Nat × Nat) := []
  incoming : Tbl (Tbl Byte) := []
  checkpoints : Tbl (Nat × Nat) := []
  queueCores : Tbl QueueCore := []
  msix : List Nat := []
  deriving DecidableEq, Repr

/-- What the machine does next: one issue slot of a group, or one of the events of the opcode table, at a time. -/
inductive Act where
  | issue (gid : Nat)
  | event (i : Instr)
  deriving DecidableEq, Repr

/-- One turn of the agenda: nanoseconds that pass first, and what happens then. -/
structure Turn where
  dt : Nat
  act : Act
  deriving DecidableEq, Repr

/-- The issue in hand (R118): which lanes of which group run which instruction, where it stands, and what its
prefixes and loop steps make of its fields. -/
structure Issue where
  gid : Nat
  lanes : List Nat
  /-- lanes that were in C (R119) -/
  considered : List Nat
  mode : Mode
  /-- address of the sequence, of the instruction's first unit after its prefixes, of the block's header -/
  addr : Nat
  iaddr : Nat
  header : Nat
  /-- address past the sequence, or of the next header at the end of the block (R86) -/
  next : Nat
  /-- address of the header that follows the block -/
  following : Nat
  pfx : Prefixes
  loopPass : Nat
  repPass : Nat
  /-- steps added to V fields D, A, B, C and to T fields in this pass (R96, R101) -/
  stepD : Nat
  stepA : Nat
  stepB : Nat
  stepC : Nat
  stepT : Nat
  deriving DecidableEq, Repr

end Sys2Proof.Machine
end

