-- ==== Sys2Proof/Machine/State.lean ====
section
/-!
DEFINITION. The state of one PS-416 package, as plain data: the groups with their context images, the writes in flight
of the ordering machine, memory, tiles and barrier objects, the engines, translation caches, launches and pieces,
interfaces and queues, partitions, dies, the fabric and the management function; and the state after reset.
-/

namespace Sys2Proof.Machine
open Sys2Proof

/-- Why a step stops with a fault. -/
inductive Fault where
  /-- Raised by `exec` of an instruction that has an encoding when no issue is in hand (`State.issue` is none): the
  machine executes such an instruction only through an issue of a group (R118). A step asks for it only where the agenda
  lists an encoded instruction as an event, which is no act of the device. Safe: the hardware has no such step
  (DESIGN CHOICE, log entry 4). -/
  | noIssue
  deriving DecidableEq, Repr

/-- Why a step is refused. -/
inductive Refusal where
  /-- Raised by an arm of `exec` whose instruction has no meaning in this model yet; safe. -/
  | notModelled (mnemonic : String)
  deriving DecidableEq, Repr

/-- The state of the device. -/
structure State where
  /-- reference time in ns since hub reset (R324) -/
  time : Nat
  /-- what happens next; when empty, the policy of `Policy.lean` chooses (DESIGN CHOICE, log entries 1 and 2) -/
  agenda : List Turn
  /-- the issue in hand, only while `exec` runs it -/
  issue : Option Issue
  /-- issues made so far: stamps for the scheduler's rule (R124) -/
  stamp : Nat
  /-- next free number for groups, writes, pieces, launches and other records -/
  nextId : Nat
  /-- model's own: how many free values have been drawn (DESIGN CHOICE, log entry 8) -/
  drawn : Nat
  groups : Tbl Group
  /-- writes and urn operations in flight, oldest first in every buffer (R277) -/
  flight : List Write
  /-- bytes of memory M by system physical address (R170, R277); unlisted bytes read 0 (DESIGN CHOICE, log entry 5) -/
  mem : List Host.Cell
  /-- poisoned 128-byte lines, by address / 128 (R182) -/
  poisoned : List Nat
  /-- lines that one store or copy is writing whole, with its writes still in flight: they clear poison (R182) -/
  healing : List (Nat × List Nat)
  /-- lines whose next read meets a corrected, or an uncorrectable, error (R347 `einj`) -/
  softNext : List Nat
  hardNext : List Nat
  tiles : Tbl Tile
  barriers : Tbl Barrier
  runs : Tbl BarRun
  changes : Tbl Change
  mirrors : List Mirror
  /-- phase packets not yet acknowledged, and those sent, newest last (R294) -/
  phases : Tbl PhaseOut
  phaseOut : List PhaseOut
  /-- model's own: places written by a store issue of which other writes are still in SQ, with the numbers of its writes (R252) -/
  landed : List (List Loc × List Nat)
  /-- barrier packets already applied: sender, sequence number, and whether the change was discarded (R294) -/
  applied : List (Nat × Nat × Bool)
  waits : List StoreWait
  cores : Tbl Core
  /-- each cluster's assignment engine (R263) -/
  assignQ : Tbl AssignQ
  tlb : List TlbEntry
  walks : Tbl Walk
  invals : Tbl Inval
  launches : Tbl Launch
  pieces : Tbl Piece
  vis : Tbl VI
  parts : Tbl Part
  dies : Tbl Die
  /-- this package's fabric number, and the fabric numbers its router has a route to (R314) -/
  dpkg : Nat
  routes : List Nat
  /-- ports of the router that are inter-pod, and packets that its ports have dropped (R314) -/
  portInter : List Nat
  portDrops : Nat
  inbox : Tbl FabPacket
  outbox : List FabPacket
  barOut : List BarPacket
  /-- packets of a leaf that its fabric budget holds, oldest first (R62) -/
  outwait : List (Nat × OutItem)
  sessions : Tbl Session
  pageReqs : Tbl PageReq
  pageWaits : List PageWait
  /-- fabric operations (group and operation), packets and sessions of the hub (group 0) whose page request was answered
  with FAIL and that have not yet taken notice -/
  pageFails : List (Nat × Nat)
  nextTag : BitVec 32
  /-- CXL ports whose link is down (R313); memory channels left out at boot (R384) -/
  cxlDown : List Nat
  channelsOut : List Nat
  mgmt : Mgmt
  migrations : Tbl Migration
  deriving DecidableEq, Repr

/-- The state right after hub reset (R384 step 1): time 0, nothing running, every register at its reset value, no
partition configured, every die at 1.8 GHz. Values that the manual does not state: DESIGN CHOICE, log entries 5 to 8. -/
def State.reset : State where
  time := 0
  agenda := []
  issue := none
  stamp := 0
  nextId := 1
  drawn := 0
  groups := []
  flight := []
  mem := []
  poisoned := []
  healing := []
  softNext := []
  hardNext := []
  tiles := []
  barriers := []
  runs := []
  changes := []
  mirrors := []
  phases := []
  phaseOut := []
  landed := []
  applied := []
  waits := []
  cores := []
  assignQ := []
  tlb := []
  walks := []
  invals := []
  launches := []
  pieces := []
  vis := []
  parts := []
  dies := []
  dpkg := 0
  routes := []
  portInter := []
  portDrops := 0
  inbox := []
  outbox := []
  barOut := []
  outwait := []
  sessions := []
  pageReqs := []
  pageWaits := []
  pageFails := []
  nextTag := 1
  cxlDown := []
  channelsOut := []
  mgmt := {}
  migrations := []

end Sys2Proof.Machine
end

