-- ==== Sys2Proof/Machine/Ops.lean ====
section
/-!
DEFINITION. The named operations over the state: modes and lane state words, register files with their banks and tags,
groups and lanes by number, launch records and errors, writes performed at a scope, event counters; taking a trap
(R334), halting (R334) and the effects of exit (R134) as one shared operation each, and returning from a trap (R346).
-/

namespace Sys2Proof.Machine
open Sys2Proof

/-! ### Modes and lane state words -/

/-- The code of a mode in MODE (R116). -/
def Mode.num : Mode → Nat
  | .user => 0
  | .supervisor => 1
  | .hypervisor => 2

/-- The mode with a code; code 3 never occurs and reads as hypervisor. -/
def Mode.ofCode : Nat → Mode
  | 0 => .user
  | 1 => .supervisor
  | _ => .hypervisor

/-- PARKED (R116): the lane waits for something (R338). -/
def Lane.parked (l : Lane) : Bool := decide (l.park ≠ .none)

/-- A lane is live when it is not absent, exited or parked (R117). -/
def Lane.live (l : Lane) : Bool := !l.absent && !l.exited && !l.parked

/-- The 64-bit lane state word (R116). -/
def Lane.word (l : Lane) : DWord :=
  BitVec.ofNat 64 (l.addr.toNat + 2 ^ 48 * l.mode.num + 2 ^ 50 * l.parked.toNat + 2 ^ 51 * l.exited.toNat +
    2 ^ 52 * l.yielded.toNat + 2 ^ 53 * l.absent.toNat + 2 ^ 54 * l.age.toNat)

/-- What a lane that no point fills looks like: ABSENT 1 and every other bit 0 (R347). -/
def absentLane : Lane := { absent := true }

/-- Loop pass, repeat pass and block mark of one mode (R332). -/
def Lane.ms (l : Lane) : Mode → ModeState
  | .user => l.m0
  | .supervisor => l.m1
  | .hypervisor => l.m2

/-- The lane with another mode's loop pass, repeat pass and block mark. -/
def Lane.setMs (l : Lane) (m : Mode) (x : ModeState) : Lane :=
  match m with
  | .user => { l with m0 := x }
  | .supervisor => { l with m1 := x }
  | .hypervisor => { l with m2 := x }

/-- The lane with these passes in mode `m`; its block mark stays. -/
def Lane.setPasses (l : Lane) (m : Mode) (loop : BitVec 16) (rep : BitVec 6) : Lane :=
  l.setMs m { l.ms m with loop := loop, rep := rep }

/-- AGE one higher, saturating at 1023 (R119). -/
def Lane.older (l : Lane) : Lane := { l with age := if l.age.toNat < 1023 then l.age + 1 else l.age }

/-! ### Groups, lanes and registers -/

/-- A lane of a group by its virtual number. -/
def Group.lane (g : Group) (i : Nat) : Lane := tblGet g.lanes absentLane i

/-- The group with lane `i` changed. -/
def Group.modLane (g : Group) (i : Nat) (f : Lane → Lane) : Group :=
  { g with lanes := tblSet g.lanes i (f (g.lane i)) }

/-- Numbers of the group's lanes that a point fills. -/
def Group.present (g : Group) : List Nat := allLanes.filter (fun i => !(g.lane i).absent)

/-- Place of V[r] of a lane in the register table: V120 to V127 are banked by mode (R24, R332). -/
def vKey (m : Mode) (r lane : Nat) : Nat := (if r < 120 then r else r + 8 * m.num) * 32 + lane

/-- Place of the tag of V[r]: each mode's bank has its own tags (R332). -/
def tagKey (m : Mode) (r : Nat) : Nat := if r < 120 then r else r + 8 * m.num

/-- V[r] of a lane in mode `m`. -/
def Group.vGet (g : Group) (m : Mode) (r lane : Nat) : Word := tblGet g.v 0 (vKey m r lane)
/-- The group with V[r] of a lane written. -/
def Group.vPut (g : Group) (m : Mode) (r lane : Nat) (x : Word) : Group :=
  { g with v := tblPut g.v 0 (vKey m r lane) x }
/-- The pair at even register `r`: bits [31:0] in V[r], [63:32] in V[r+1] (R207). -/
def Group.dGet (g : Group) (m : Mode) (r lane : Nat) : DWord :=
  BitVec.ofNat 64 ((g.vGet m r lane).toNat + 4294967296 * (g.vGet m (r + 1) lane).toNat)
/-- The group with a pair of a lane written. -/
def Group.dPut (g : Group) (m : Mode) (r lane : Nat) (x : DWord) : Group :=
  (g.vPut m r lane (BitVec.ofNat 32 x.toNat)).vPut m (r + 1) lane (BitVec.ofNat 32 (x.toNat / 4294967296))
/-- The stored tag of V[r]. -/
def Group.tag (g : Group) (m : Mode) (r : Nat) : Tag := tblGet g.vtag .raw (tagKey m r)
/-- The group with the tag of V[r] set. -/
def Group.setTag (g : Group) (m : Mode) (r : Nat) (t : Tag) : Group :=
  { g with vtag := tblPut g.vtag .raw (tagKey m r) t }
/-- K[n] (R8). -/
def Group.kGet (g : Group) (n : Nat) : DWord := tblGet g.k 0 n
/-- The group with K[n] written. -/
def Group.kPut (g : Group) (n : Nat) (x : DWord) : Group := { g with k := tblPut g.k 0 n x }
/-- P[n] as a mask over the lanes. -/
def Group.pMask (g : Group) (n : Nat) : LaneMask := tblGet g.p 0 n
/-- P[n] of a lane. -/
def Group.pGet (g : Group) (n lane : Nat) : Bool := (g.pMask n).getLsbD lane
/-- The group with P[n] of a lane written. -/
def Group.pPut (g : Group) (n lane : Nat) (x : Bool) : Group :=
  let m := g.pMask n
  let bit : LaneMask := BitVec.ofNat 32 (2 ^ lane)
  { g with p := tblPut g.p 0 n (if x then m ||| bit else m &&& ~~~bit) }
/-- T[n]. -/
def Group.tGet (g : Group) (n : Nat) : TileReg := tblGet g.t {} n
/-- The group with T[n] written. -/
def Group.tPut (g : Group) (n : Nat) (x : TileReg) : Group := { g with t := tblPut g.t {} n x }
/-- The count of a class: operations of it not yet retired (R125). -/
def Group.count (g : Group) (c : Cls) : Nat := (g.ops.filter (fun o => decide (o.cls = c))).length
/-- All five counters are zero. -/
def Group.idle (g : Group) : Bool := g.ops.isEmpty

/-- The group numbered `gid`. -/
def State.group (s : State) (gid : Nat) : Option Group := tblFind s.groups gid
/-- The state with group `gid` changed. -/
def State.modGroup (s : State) (gid : Nat) (f : Group → Group) : State := { s with groups := tblMod s.groups gid f }
/-- The state with a lane of group `gid` changed. -/
def State.modLane (s : State) (gid i : Nat) (f : Lane → Lane) : State := s.modGroup gid (fun g => g.modLane i f)
/-- The state with some lanes of group `gid` changed. -/
def State.modLanes (s : State) (gid : Nat) (ls : List Nat) (f : Nat → Lane → Lane) : State :=
  s.modGroup gid (fun g => ls.foldl (fun g i => g.modLane i (f i)) g)
/-- The next free number is taken. -/
def State.bump (s : State) : State := { s with nextId := s.nextId + 1 }

/-- An operation added to a group's outstanding ones (R125), with the next number of the group. -/
def State.addOp (s : State) (gid : Nat) (cls : Cls) (kind : OpKind) (opc : Nat := 0) : State :=
  s.modGroup gid (fun g =>
    { g with ops := g.ops ++ [{ id := g.nextOp, cls := cls, kind := kind, opc := opc }], nextOp := g.nextOp + 1 })
/-- An operation with nothing to do, which has ended at once (R125). -/
def State.addEmpty (s : State) (gid : Nat) (cls : Cls) : State :=
  s.modGroup gid (fun g =>
    { g with ops := g.ops ++ [{ id := g.nextOp, cls := cls, kind := .empty, ended := true }], nextOp := g.nextOp + 1 })
/-- An outstanding operation changed. -/
def State.modOp (s : State) (gid op : Nat) (f : Op → Op) : State :=
  s.modGroup gid (fun g => { g with ops := g.ops.map (fun o => if o.id = op then f o else o) })
/-- An outstanding operation of a group. -/
def Group.op (g : Group) (n : Nat) : Option Op := g.ops.find? (fun o => o.id = n)
/-- An operation retires: it leaves the group's counters. -/
def State.dropOp (s : State) (gid op : Nat) : State :=
  s.modGroup gid (fun g => { g with ops := g.ops.filter (fun o => o.id ≠ op) })
/-- No older operation of the same class is outstanding (R125). -/
def Group.oldest (g : Group) (o : Op) : Bool := g.ops.all (fun p => decide (p.cls ≠ o.cls) || decide (o.id ≤ p.id))

/-! ### Launches and their records -/

/-- A field of a record held as bytes, little-endian (R14). -/
def fieldAt (r : List Byte) (off size : Nat) : Nat := leNat ((r.drop off).take size)

/-- The launch numbered `lid`. -/
def State.launch (s : State) (lid : Nat) : Option Launch := tblFind s.launches lid
/-- The state with a launch changed. -/
def State.modLaunch (s : State) (lid : Nat) (f : Launch → Launch) : State :=
  { s with launches := tblMod s.launches lid f }
/-- NLEVEL of a launch (R15). -/
def Launch.nlevel (l : Launch) : Nat := fieldAt l.record 2 1
/-- FLAGS of a launch record (R16). -/
def Launch.recFlags (l : Launch) : Nat := fieldAt l.record 4 4
/-- NVREG of a launch (R15). -/
def Launch.nvreg (l : Launch) : Nat := fieldAt l.record 0x40 1
/-- LOCAL bytes per lane of a launch (R15). -/
def Launch.localSize (l : Launch) : Nat := fieldAt l.record 0x48 4
/-- The control word of level k (R19). -/
def Launch.control (l : Launch) (k : Nat) : Nat := fieldAt l.record (0x60 + (k - 1) * 40) 8
/-- DOMAIN of level k: 0 GROUP to 5 POD (R19). -/
def Launch.domain (l : Launch) (k : Nat) : Nat := l.control k % 8
/-- SCOPE of level k (R19). -/
def Launch.scope (l : Launch) (k : Nat) : Nat := l.control k / 16 % 16
/-- GANG, TILE, BARRIER of level k (R19). -/
def Launch.gang (l : Launch) (k : Nat) : Bool := bitAt (l.control k) 8
def Launch.tile (l : Launch) (k : Nat) : Bool := bitAt (l.control k) 9
def Launch.barrier (l : Launch) (k : Nat) : Bool := bitAt (l.control k) 10

/-- An error detected in a launch: the first one stays in ERROR, FLAGS bits are ORed (R50, R52). -/
def Launch.addError (l : Launch) (code flags : Nat) : Launch :=
  { l with error := if l.error = 0 then BitVec.ofNat 32 code else l.error, flags := l.flags ||| BitVec.ofNat 32 flags }
/-- FLAGS bits of a launch's completion ORed in (R50). -/
def State.addFlags (s : State) (lid flags : Nat) : State :=
  s.modLaunch lid (fun l => { l with flags := l.flags ||| BitVec.ofNat 32 flags })

/-- The launch of a group, where both exist. -/
def State.launchOf (s : State) (g : Group) : Option Launch := s.launch g.launch

/-- The piece numbered `pid`. -/
def State.piece (s : State) (pid : Nat) : Option Piece := tblFind s.pieces pid
/-- The group as one of its lanes finds it: with the pieces that contain the lane's point (R71, R76). -/
def Group.asLane (g : Group) (i : Nat) : Group :=
  let own := (g.lane i).own
  if own.isEmpty then g else { g with pieces := own ++ g.pieces.drop own.length }

/-- The number of the k-piece that contains a group, for k from 1 (R76). -/
def Group.pieceAt (g : Group) (k : Nat) : Option Nat := if k = 0 then none else g.pieces[k - 1]?

/-- A partition by its number (R336). -/
def State.part (s : State) (n : Nat) : Part := tblGet s.parts {} n
/-- The state with a partition changed. -/
def State.modPart (s : State) (n : Nat) (f : Part → Part) : State := { s with parts := tblSet s.parts n (f (s.part n)) }
/-- Top-level partition of a leaf number. -/
def topOf (leaf : Nat) : Nat := leaf / 16 * 16
/-- An error count of a leaf rises by one, saturating (R347). -/
def State.countErr (s : State) (leaf k : Nat) : State :=
  s.modPart leaf (fun p =>
    let n := tblGet p.errs 0 k
    { p with errs := tblPut p.errs 0 k (if n.toNat + 1 < 2 ^ 64 then n + 1 else n) })

/-- The unit of a budget in what is counted against it: issues, urn requests and page-table reads singly, bytes in 64s
(R62). -/
def budgetUnit (k : Nat) : Nat := if 1 ≤ k && k ≤ 3 then 64 else 1
/-- A partition has used up a budget of this period (R62): 0 issue, 1 memory, 2 fabric, 3 copy, 4 urn, 5 translation. -/
def Part.exhausted (p : Part) (k : Nat) : Bool :=
  let b := p.budgets.getD k 0xFFFFFFFF
  b ≠ 0xFFFFFFFF && decide (b.toNat ≤ p.used.getD k 0 / budgetUnit k)
/-- Activity `k` of a leaf stalls: its own budget or its parent's is used up (R62). -/
def State.exhausted (s : State) (leaf k : Nat) : Bool :=
  (s.part leaf).exhausted k || (s.part (topOf leaf)).exhausted k
/-- A budget of a leaf, or its parent's, has a limit (R62). -/
def State.limited (s : State) (leaf k : Nat) : Bool :=
  (s.part leaf).budgets.getD k 0xFFFFFFFF ≠ 0xFFFFFFFF || (s.part (topOf leaf)).budgets.getD k 0xFFFFFFFF ≠ 0xFFFFFFFF
/-- Counts against a budget. -/
def Part.spend (p : Part) (k n : Nat) : Part :=
  { p with used := (List.range 6).map (fun j => p.used.getD j 0 + if j = k then n else 0) }
/-- A leaf's consumption counts against its own budget and its parent's (R62). -/
def State.spend (s : State) (leaf k n : Nat) : State :=
  let s := s.modPart leaf (fun p => p.spend k n)
  if topOf leaf = leaf then s else s.modPart (topOf leaf) (fun p => p.spend k n)

/-- Bytes of a packet on the fabric: flits of 32 bytes, a header, up to eight of payload, a trailer (R314). -/
def OutItem.bytes (x : OutItem) : Nat :=
  let n := match x with
    | .packet p => match p.body with
      | .write _ _ bs _ _ => bs.length
      | .atom _ _ _ _ => 8
      | .msg _ _ bs => bs.length
      | .reply _ _ bs => bs.length
      | .push _ _ is _ _ => is.length * 8
      | _ => 0
    | _ => 8
  32 * (2 + (n + 31) / 32)
/-- A packet leaves through a port. -/
def State.emit (s : State) (x : OutItem) : State :=
  match x with
  | .packet p => { s with outbox := s.outbox ++ [p] }
  | .change p => { s with barOut := s.barOut ++ [p] }
  | .phase p => { s with phaseOut := s.phaseOut ++ [p] }
/-- A packet of a leaf leaves and counts against its fabric budget, or waits, behind those that wait already, while the budget
is used up (R62, R314). -/
def State.putOut (s : State) (leaf : Nat) (x : OutItem) : State :=
  if s.exhausted leaf 2 || s.outwait.any (fun w => w.1 == leaf) then { s with outwait := s.outwait ++ [(leaf, x)] }
  else (s.emit x).spend leaf 2 x.bytes
/-- The packets that wait leave in their order, as far as the budgets allow (R62). -/
def State.flushOut (s : State) : State :=
  s.outwait.foldl (fun t w => t.putOut w.1 w.2) { s with outwait := [] }

/-- A virtual interface by its number (R36). -/
def State.vi (s : State) (n : Nat) : VI := tblGet s.vis {} n
/-- The state with a virtual interface changed. -/
def State.modVI (s : State) (n : Nat) (f : VI → VI) : State := { s with vis := tblSet s.vis n (f (s.vi n)) }
/-- A queue of an interface. -/
def VI.queue (v : VI) (q : Nat) : Queue := tblGet v.queues {} q
/-- An interrupt of an interface (R36): it has vectors 0 to 64, and a larger number names none (DESIGN CHOICE, log entry
98). -/
def VI.send (v : VI) (n : Nat) : VI := if n ≤ 64 then { v with msix := v.msix ++ [n] } else v
/-- The state with a queue changed. -/
def State.modQueue (s : State) (v q : Nat) (f : Queue → Queue) : State :=
  s.modVI v (fun x => { x with queues := tblSet x.queues q (f (x.queue q)) })

/-- A core by its package number (R2). -/
def State.core (s : State) (n : Nat) : Core := tblGet s.cores {} n
/-- The state with a core changed. -/
def State.modCore (s : State) (n : Nat) (f : Core → Core) : State := { s with cores := tblSet s.cores n (f (s.core n)) }
/-- Package cluster and die of a package core (R2). -/
def clusterOf (core : Nat) : Nat := core / 4
def dieOf (core : Nat) : Nat := core / 52
/-- A compute die. -/
def State.die (s : State) (n : Nat) : Die := tblGet s.dies {} n
/-- The state with a die changed. -/
def State.modDie (s : State) (n : Nat) (f : Die → Die) : State := { s with dies := tblSet s.dies n (f (s.die n)) }

/-- A die whose clock stands takes no step (R326). -/
def State.asleep (s : State) (core : Nat) : Bool := (s.die (dieOf core)).relocking
/-- A group whose die's clock runs. -/
def State.awake (s : State) (gid : Nat) : Option Group :=
  match s.group gid with
  | some g => if s.asleep g.core then none else some g
  | none => none
/-- The package clusters of a partition, in ascending order (R391). -/
def Part.clusterList (p : Part) : List Nat := (List.range 104).filter (fun i => p.clusters.getLsbD i)

/-- The policy core or the migration engine issues an invalidation of everything that clusters hold of a leaf, in some stages and for
every interface (R177). -/
def State.issueInval (s : State) (leaf : Nat) (stage1 stage2 : Bool) : State :=
  let x : Inval := { gid := none, op := 0, leaf := leaf, vi := 0, stage1 := stage1, stage2 := stage2, size := 0, page := 0,
                     reached := [], writes := [], loads := [] }
  { s.bump with invals := tblSet s.invals s.nextId x }

/-- An invalidation that the policy core or the migration engine has issued for a leaf is not yet acknowledged (R179). -/
def State.unacked (s : State) (leaf : Nat) : Bool := s.invals.any (fun x => x.2.gid.isNone && x.2.leaf == leaf)

/-- Event `ev` occurred `n` times on a core: every counter whose selector is enabled and names it counts (R337). -/
def State.countEvent (s : State) (core ev n : Nat) : State :=
  s.modCore core (fun c =>
    { c with evc := (List.range 8).foldl (fun t i =>
        let sel := (tblGet c.evsel 0 i).toNat
        if bitAt sel 8 && sel % 256 == ev then tblPut t 0 i (tblGet t 0 i + BitVec.ofNat 64 n) else t) c.evc })

/-- Some counter of a core counts an event (R337). -/
def Core.counts (c : Core) (ev : Nat) : Bool :=
  (List.range 8).any (fun i =>
    let sel := (tblGet c.evsel 0 i).toNat
    bitAt sel 8 && sel % 256 == ev)

/-- An access at which caches or banks may cause occurrences of an event, which a counter of the core counts (R181, R337). -/
def State.cacheEvent (s : State) (core ev : Nat) : State :=
  if (s.core core).counts ev then
    ({ s with drawn := s.drawn + 1 }).countEvent core ev (Config.cacheEvents ev s.drawn)
  else s

/-! ### Scopes and writes in flight -/

/-- The level at which a write has performed at a scope: 0 SQ to 5 OB, 6 for M (R278). -/
def scopeLevel (sc : Nat) : Nat := if sc ≤ 1 then 0 else if sc ≤ 6 then sc - 1 else 6

/-- The write numbered `wid` has performed at a level: it lies there or above, or has reached M; an urn operation
that is pending has not performed (R278, R283). -/
def State.performed (s : State) (wid lvl : Nat) : Bool :=
  match s.flight.find? (fun w => w.id = wid) with
  | none => true
  | some w => w.urn.isNone && decide (lvl ≤ w.level)

/-- Everything a cover names has been read and has performed at scope `sc` (R284, R293). -/
def State.covered (s : State) (c : Cover) (sc : Nat) : Bool :=
  c.loads.isEmpty && c.writes.all (fun w => s.performed w (scopeLevel sc))

/-- Numbers of the writes and urn operations a group has in flight. -/
def State.ownWrites (s : State) (gid : Nat) : List Nat :=
  (s.flight.filter (fun w => decide (w.gid = gid) && w.core.isSome)).map (·.id)

/-- Numbers of the writes and urn operations one lane has in flight (R136, R286). -/
def State.laneOwn (s : State) (gid i : Nat) : List Nat :=
  (s.flight.filter (fun w => decide (w.gid = gid) && (decide (w.lane = i) || w.sharers.contains i) && w.core.isSome)).map (·.id)

/-- Loads of a group that have lanes not yet read. -/
def Group.unread (g : Group) : List Nat :=
  (g.ops.filter (fun o => match o.kind with
    | .load _ _ _ ls => ls.any (fun l => !l.read)
    | .ldk _ l => !l.read
    | _ => false)).map (·.id)

/-- What a fence or a barrier change of the group covers now: its writes and urn operations, its loads with the
writes they read, and what its completed fences covered (R284, R293). -/
def State.coverNow (s : State) (gid : Nat) (g : Group) : Cover :=
  { writes := s.ownWrites gid ++ g.seen ++ g.fwaited, loads := g.unread }

/-! ### Exit, halt, traps -/

/-- Lanes of a piece that have exited. -/
def State.exitedOf (s : State) (pid : Nat) : Nat :=
  (s.groups.map (fun p => (allLanes.filter (fun i =>
    let l := p.2.lane i
    l.exited && !l.absent && (p.2.asLane i).pieces.contains pid)).length)).foldl (· + ·) 0

/-- One lane leaves the expected arrivals of the armed barriers of its pieces (R80): a drop on its way to each. The last lane of
a piece leaves none: its drop would complete a phase that R330 says does not complete (DEDUCED, log entry 102). -/
def State.dropArmed (s : State) (gid : Nat) (g : Group) : State :=
  g.pieces.foldl (fun s pid =>
    match s.piece pid with
    | some p =>
      if p.bar = 0xFFFFFFFF || p.pop ≤ s.exitedOf pid then s
      else
        let home := p.barpkg.toNat
        let sc : BitVec 4 :=
          if home ≠ s.dpkg then (if home / 256 = s.dpkg / 256 then 6 else 10)
          else match s.launch p.launch with
          | some l => BitVec.ofNat 4 (l.scope p.level)
          | none => 10
        let c : Change := { gid := gid, op := none, handle := p.bar.toNat, leaf := g.leaf,
                            pkg := if home = s.dpkg then none else some home,
                            ask := .drop 1, cover := s.coverNow gid g, scope := sc }
        { s.bump with changes := tblSet s.changes s.nextId c }
    | none => s) s

/-- Lanes of a group leave the gatherings they are in on a core (R122). -/
def State.ungather (s : State) (core gid : Nat) (ls : List Nat) : State :=
  { s with cores := tblMod s.cores core (fun c =>
      { c with regroup := c.regroup.filter (fun e => !(e.gid == gid && ls.contains e.lane)) }) }

/-- The effects of `exit` on a lane besides the group's (R134): EXITED, its trigger, its armed barriers, its task
slots, its gathering (R122). ADDR keeps the sequence's address. -/
def State.exitLane (s : State) (gid i : Nat) : State :=
  match s.group gid with
  | none => s
  | some g =>
    let s := s.modLane gid i (fun l => { l with exited := true, park := .none, deadline := none,
                                                exitWrites := s.laneOwn gid i ++ g.fwaited })
    let s := (s.dropArmed gid (g.asLane i)).ungather g.core gid [i]
    s.modLaunch g.launch (fun l =>
      { l with tasks := l.tasks.filter (fun t => decide (t.2 ≠ .reserved gid i)) })

/-- Bytes of the 64-byte record of a lane halt (R393). -/
def haltRecord (time : Nat) (word xval : DWord) (cause : BitVec 8) (lane vi gid : Nat) : List Byte :=
  leBytes 8 time ++ leBytes 8 word.toNat ++ leBytes 8 xval.toNat ++ [cause] ++ leBytes 1 lane ++ leBytes 2 vi ++
    leBytes 8 gid ++ List.replicate 28 0

/-- A write of bytes to memory M that bypasses every buffer: the host's and the device's to host memory (R277). -/
def memPut (m : List Host.Cell) (a : Nat) : List Byte → List Host.Cell
  | [] => m
  | b :: bs => memPut (tblPut m 0 a b) (a + 1) bs

/-- The 128-byte line of memory a place lies in, or the aligned 128 bytes of a tile. -/
def Loc.line : Loc → Loc
  | .sys a => .sys (a / 128 * 128)
  | .tile h off => .tile h (off / 128 * 128)
  | .loc g l off => .loc g l (off / 128 * 128)

/-- A parked `mwait` lane is released past its sequence (R301). -/
def Lane.unparkMonitor (l : Lane) : Lane :=
  if l.park = .monitor then
    let l := { l with park := .none, deadline := none, addr := l.resume }
    if l.resumeAtHeader then { l.setPasses l.mode 0 0 with came := .header } else l
  else l

/-- The monitor of a group is touched (R301): lanes parked in `mwait` move on and the monitor is disarmed; otherwise it
stays TOUCHED. -/
def Group.touch (g : Group) : Group :=
  if g.lanes.any (fun p => decide (p.2.park = .monitor)) then
    { g with mon := { g.mon with state := .disarmed }, lanes := g.lanes.map (fun p => (p.1, p.2.unparkMonitor)) }
  else { g with mon := { g.mon with state := .touched } }

/-- A lane parked in `mwait` whose deadline has passed: its timeout came first, and nothing else may happen to the group or its monitor
before it (R301). -/
def State.overdue (s : State) (g : Group) : Bool :=
  g.lanes.any (fun p => decide (p.2.park = .monitor) && (match p.2.deadline with
    | some t => decide (t < s.time)
    | none => false))

/-- Bytes put into memory M by the management function, which touch the monitors armed on their lines (R277, R301). -/
def State.putMem (s : State) (a : Nat) (bs : List Byte) : State :=
  { s with
      mem := memPut s.mem a bs,
      groups := s.groups.map (fun p =>
        if p.2.mon.state = .armed && !s.overdue p.2 && (match p.2.mon.place with
          | .sys x => decide (a < x + 128) && decide (x < a + bs.length)
          | _ => false) then (p.1, p.2.touch) else p) }

/-- System address of a PCIe address of the host (R170). -/
def hostBase : Nat := 0x100000000000

/-- Ring size in records of a CTL register: 2^LOG2SIZE (R340). -/
def ringSize (ctl : BitVec 32) : Nat := 2 ^ (ctl.toNat % 32)
/-- ENABLE of a CTL register (R340). -/
def ringOn (ctl : BitVec 32) : Bool := bitAt ctl.toNat 8
/-- VEC of a CTL register (R340). -/
def ringVec (ctl : BitVec 32) : Nat := ctl.toNat / 4096 % 256

/-- A record appended to a ring of the management function, with its vector; none where the ring is off or full. -/
def State.mgmtRecord (s : State) (r : Ring) (bytes : List Byte) : Option (State × Ring) :=
  if !ringOn r.ctl || (r.tail - r.head).toNat ≥ ringSize r.ctl then none
  else
    let a := hostBase + r.base.toNat / 64 * 64 + r.tail.toNat % ringSize r.ctl * 64
    some ({ s.putMem a bytes with mgmt := { s.mgmt with msix := s.mgmt.msix ++ [ringVec r.ctl] } },
      { r with tail := r.tail + 1 })

/-- The child byte that names a partition in a command or an assist request (R390, R392). -/
def childByte (leaf : Nat) : Byte := if leaf % 16 < 8 then 0xFF else BitVec.ofNat 8 (leaf % 8)

/-- The 64 bytes of an assist request (R392); how it lays out what it carries for its function is not stated. -/
def assistRecord (tag : BitVec 32) (leaf fn : Nat) (data : List Nat) : List Byte :=
  leBytes 4 tag.toNat ++ leBytes 1 fn ++ leBytes 1 (leaf / 16) ++ [childByte leaf, 0] ++
    (List.range 56).map (fun i => Config.assistByte fn data i)

/-- A request posted to the assist ring, which then awaits its reply or its timeout (R66); a full ring does not take it. -/
def State.askAssist (s : State) (leaf fn : Nat) (data : List Nat) : State :=
  let tag := s.mgmt.nextAsk
  let a : Assist := { tag := tag, leaf := leaf, fn := fn, data := data, posted := s.time }
  let s := { s with mgmt := { s.mgmt with asks := s.mgmt.asks ++ [a], nextAsk := tag + 1 } }
  match s.mgmtRecord s.mgmt.assist (assistRecord tag leaf fn data) with
  | some (s, r) => { s with mgmt := { s.mgmt with assist := r } }
  | none => s

/-- A request for a function of a leaf awaits its reply. -/
def State.asking (s : State) (leaf fn : Nat) : Bool := s.mgmt.asks.any (fun a => a.leaf == leaf && a.fn == fn)

/-- A leaf's function runs in host-assisted mode (R66). -/
def State.assisted (s : State) (leaf fn : Nat) : Bool := (s.part leaf).modes.getLsbD fn

/-- An uncorrectable error of a leaf, reported to the host where it decides about errors (R66, bit 5). -/
def State.askError (s : State) (leaf : Nat) : State :=
  if s.assisted leaf 5 && !s.asking leaf 5 then s.askAssist leaf 5 [] else s

/-- A phase in which every group of the leaf is stopped (R358, R359). -/
def MigPhase.stops : MigPhase → Bool
  | .snapshot => false
  | .stream => false
  | _ => true

/-- Nothing is issued or admitted on a leaf that is being drained (R60) or carried away (R358, R359). -/
def State.leafStopped (s : State) (leaf : Nat) : Bool :=
  (s.part leaf).drain != 0 || (match tblFind s.migrations leaf with
    | some m => m.phase.stops
    | none => false)

/-- The policy core is away after a restart (R67). -/
def State.policyDown (s : State) : Bool := decide (s.time < s.mgmt.policyBack)

/-- A halted lane's record goes to the halt ring, or is only counted when the ring is full (R393). -/
def State.reportHalt (s : State) (bytes : List Byte) : State :=
  match s.mgmtRecord s.mgmt.halt bytes with
  | some (s, r) => { s with mgmt := { s.mgmt with halt := r } }
  | none => { s with mgmt := { s.mgmt with halts := s.mgmt.halts + 1 } }

/-- A lane halts (R334): every effect of exit, ADDR at the resume address, LANE_HALT with ERR and PARTIAL in its
launch, and a record to the management function with the word as it stood when the trap arose. -/
def State.haltLane (s : State) (gid i : Nat) (cause : BitVec 8) (xval : DWord) (resume : BitVec 48) : State :=
  match s.group gid with
  | none => s
  | some g =>
    let w := { g.lane i with addr := resume, exited := false }.word
    let s := s.exitLane gid i
    let s := s.modLane gid i (fun l => { l with addr := resume })
    let s := s.modLaunch g.launch (fun l => l.addError 0x304 3)
    s.reportHalt (haltRecord s.time w xval cause i g.vi gid)

/-- The mode whose handler takes a trap arising in mode `m`: the lowest higher mode with a vector (R334). -/
def trapMode (g : Group) (m : Mode) : Option (Mode × BitVec 48) :=
  let sv := BitVec.ofNat 48 g.tvecS.toNat
  let hv := BitVec.ofNat 48 g.tvecH.toNat
  match m with
  | .user => if g.tvecS ≠ 0 then some (.supervisor, sv) else if g.tvecH ≠ 0 then some (.hypervisor, hv) else none
  | .supervisor => if g.tvecH ≠ 0 then some (.hypervisor, hv) else none
  | .hypervisor => none

/-- The trap registers of mode `t` filled (R334). -/
def Lane.setTrap (l : Lane) (t : Mode) (xpc xval : DWord) (cause : BitVec 8) : Lane :=
  match t with
  | .hypervisor => { l with xpcH := xpc, xvalH := xval, xcauseH := cause }
  | _ => { l with xpcS := xpc, xvalS := xval, xcauseS := cause }

/-- The lane as a trap leaves it (R334): saved word with the resume address, cause and value in mode `t`, MODE and
ADDR at the handler, AGE 0, YIELDED 0, passes of mode `t` zero. -/
def Lane.enter (l : Lane) (t : Mode) (vec resume : BitVec 48) (cause : BitVec 8) (xval : DWord) : Lane :=
  let l := l.setTrap t { l with addr := resume }.word xval cause
  { l.setPasses t 0 0 with mode := t, addr := vec, came := .header, age := 0, yielded := false, failing := false }

/-- Taking a trap (R334): a lane with cause, value and resume address enters the handler of the lowest higher mode
that has one, or halts. The core's counters count it (R337). -/
def State.takeTrap (s : State) (gid i : Nat) (cause : BitVec 8) (xval : DWord) (resume : BitVec 48) : State :=
  match s.group gid with
  | none => s
  | some g =>
    let s := s.countEvent g.core 6 1
    match trapMode g (g.lane i).mode with
    | some (t, vec) => s.modLane gid i (fun l => l.enter t vec resume cause xval)
    | none => s.haltLane gid i cause xval resume

/-- Returning from a trap to the mode and address of word `w` (R346): passes of the current mode zero, AGE 0, YIELDED
0, every other field of `w` ignored. -/
def Lane.leave (l : Lane) (w : DWord) : Lane :=
  { l.setPasses l.mode 0 0 with
      mode := Mode.ofCode (w.toNat / 2 ^ 48 % 4), addr := BitVec.ofNat 48 (w.toNat / 4 * 4), came := .ret,
      age := 0, yielded := false }

/-! ### Codes of R333 -/
def causeOrphan : BitVec 8 := 0x01
def causeIllegal : BitVec 8 := 0x02
def causeTarget : BitVec 8 := 0x03
def causePriv : BitVec 8 := 0x04
def causeFormat : BitVec 8 := 0x05
def causeExtent : BitVec 8 := 0x06
def causeAlign : BitVec 8 := 0x07
def causePage : BitVec 8 := 0x08
def causeAccess : BitVec 8 := 0x09
def causePoison : BitVec 8 := 0x0A
def causeMonitor : BitVec 8 := 0x0B
def causeSyscall : BitVec 8 := 0x0C
def causeHostcall : BitVec 8 := 0x0D
def causeBreak : BitVec 8 := 0x0E
def causeFP : BitVec 8 := 0x0F
def causeTileState : BitVec 8 := 0x10
def causeBarrier : BitVec 8 := 0x11
def causeEngine : BitVec 8 := 0x12

end Sys2Proof.Machine
end

