-- ==== Sys2Proof/Machine/Load.lean ====
section
/-!
DEFINITION. A program placed for the very next step: one launch, one group with one lane, a block that ends in the given
instruction, and the stage-2 tables through which the lane fetches it. It stands for the launch that the front end would
have read from a queue and dispatched (R45, R68 to R72); log entry 12 says how a program comes to run from reset.
-/

namespace Sys2Proof.Machine
open Sys2Proof

/-- System addresses of the placed stage-2 tables and of the block's header. -/
def placedTable : Nat := 0x1000
def placedBlock : Nat := 0x4000

/-- An instruction ends a LOOP block: `loop`, short or long (R138). -/
def placedLoop (w : Nat) : Bool :=
  (w % 4 == 0 && w / 4 % 256 == 0x08) || (w % 4 == 2 && w / 4 % 256 == 0x02 && w / 2 ^ 60 % 4 == 0)

/-- The bytes of a block whose last word is the instruction `w` (R86, R94, R96). -/
def placedBytes (w : Nat) : List Byte :=
  let units := if w % 4 = 2 then 2 else 1
  let loop := placedLoop w
  let len := units + loop.toNat
  let head := 3 + 4 * len + 1024 * loop.toNat
  leBytes 4 head ++ leBytes 4 0 ++ (if loop then leBytes 4 0 else []) ++ leBytes (4 * units) w

/-- Stage-2 tables that map guest page 0 of 1 GiB onto system page 0 with R, W and X (R173, R174). -/
def placedTables : List (Nat × List Byte) :=
  [(placedTable, leBytes 8 (0x2000 + 1)), (0x2000, leBytes 8 (1 + 2 + 4 + 8))]

/-- A launch record with one level, one point and 120 V registers (R15). -/
def placedRecord : List Byte :=
  leBytes 2 1 ++ [1, 1] ++ leBytes 4 0 ++ leBytes 8 placedBlock ++ leBytes 4 1 ++ leBytes 4 1 ++ leBytes 4 1 ++ leBytes 4 1 ++
    List.replicate 32 0 ++ [30] ++ List.replicate 7 0 ++ leBytes 4 64 ++ List.replicate 436 0

/-- The launch of a placed program. -/
def placedLaunch : Launch where
  vi := 1
  leaf := 0
  queue := 0
  entry := 1
  lrec := 0
  csig := 0
  cval := 0
  cscope := 0
  setMask := []
  intr := false
  mtag := 0
  parent := none
  record := placedRecord
  consts := []
  payload := none
  payloadSlot := none
  phase := .running
  counter := 1
  error := 0
  flags := 0
  start := some 0
  end_ := 0
  nextTop := 1
  dispatched := 1
  stopped := true
  laidOut := true
  counted := false
  tasks := []
  taskGroups := []
  ored := []
  grader := {}
  plans := []
  taskPlans := []
  gangAt := none
  step := 0
  slotsDone := 0
  slotWrites := []
  sigWrite := none
  armedAt := 0

/-- A placed lane in a mode, at the block's header. -/
def placedLane (m : Mode) : Lane := { mode := m, addr := BitVec.ofNat 48 placedBlock }

/-- The state with a program of one instruction placed, and the agenda set to give its group the next issue slot. -/
def State.place (s : State) (m : Mode) (w : Nat) : State :=
  let lid := s.nextId
  let gid := s.nextId + 1
  let g : Group := { launch := lid, vi := 1, leaf := 0, core := 0, ctx := 0, lanes := [(0, placedLane m)] }
  let mem := placedTables.foldl (fun m p => memPut m p.1 p.2) (memPut s.mem placedBlock (placedBytes w))
  let parts := tblSet s.parts 0 { s.part 0 with
    configured := true, clusters := 1, channels := 1, slices := 1, s2root := placedTable, vis := [1] }
  { s with
      nextId := s.nextId + 2, agenda := [⟨0, .issue gid⟩], issue := none, mem := mem, parts := parts,
      launches := tblSet s.launches lid placedLaunch, groups := tblSet s.groups gid g }

/-- The mode in which an instruction of the system class has its effect: the lowest that R344 gives it, and hypervisor for
the rest of that class, so that every register and trap return is within reach; user for every other instruction. -/
def placedMode (w : Nat) : Mode :=
  let op := w / 4 % 256
  let short := if w % 4 = 0 then op else if w % 4 = 2 && op < 64 then 4 * op + w / 2 ^ 60 % 4 else 0
  if 0xEB ≤ short && short ≤ 0xF5 then .hypervisor else .user

end Sys2Proof.Machine
end

