-- ==== Sys2Proof/Machine/Clock.lean ====
section
/-!
DEFINITION. Time: the clocks of the compute dies (R325, R326), what passes with reference time (the cycle counters of
R337), and the reading of `%time` (R324).
-/

namespace Sys2Proof.Machine
open Sys2Proof

/-- Cycles a die's clock has made since it last started or stopped (R325): none during a relock. -/
def Die.ticks (d : Die) (t : Nat) : Nat := if d.relocking then 0 else (t - d.since) * d.mhz / 1000

/-- `%cyc` of a die at reference time `t` (R325). -/
def Die.cyc (d : Die) (t : Nat) : DWord := d.cyc0 + BitVec.ofNat 64 (d.ticks t)

/-- `%cycs` of a die at reference time `t` (R325). -/
def Die.cycs (d : Die) (t : Nat) : DWord := d.base + BitVec.ofNat 64 (d.ticks t * d.ratio / 2 ^ 24)

/-- Q of R325 for a clock of `mhz`: 1.8 GHz / f × 2^24, rounded to nearest even. -/
def clockRatio (mhz : Nat) : Nat :=
  let n := 1800 * 2 ^ 24
  let q := n / mhz
  let r := n % mhz
  if mhz < 2 * r || (2 * r == mhz && q % 2 == 1) then q + 1 else q

/-- The die's clock stops (R326): both counts stay at what they are. -/
def Die.stop (d : Die) (t : Nat) : Die :=
  { d with cyc0 := d.cyc t, base := d.cycs t, since := t, relocking := true }

/-- The die restarts at a clock (R325, R326): the latches of the end of a relock. -/
def Die.restart (d : Die) (t mhz : Nat) : Die :=
  { d with mhz := mhz, since := t, relocking := false, ratio := clockRatio mhz }

/-- Reference time advances by `dt` ns: the counters that count die clock cycles follow (R337). -/
def State.advance (s : State) (dt : Nat) : State :=
  let t := s.time + dt
  let s' := s.cores.foldl (fun (x : State) p =>
    let d := s.die (dieOf p.1)
    x.countEvent p.1 1 (d.ticks t - d.ticks s.time)) s
  { s' with time := t }

/-- One reading of `%time` by the lanes of a group (R324): within 2 ns of the hub's count, and never less than a lane of
them has read before. -/
def State.readTime (s : State) (gid : Nat) (g : Group) (lanes : List Nat) : State × DWord :=
  let near := s.time + Config.timeSkew s.drawn % 5 - 2
  let v := lanes.foldl (fun m i => max m (g.lane i).lastTime.toNat) near
  let s := { s with drawn := s.drawn + 1 }
  (s.modLanes gid lanes (fun _ l => { l with lastTime := BitVec.ofNat 64 v }), BitVec.ofNat 64 v)

end Sys2Proof.Machine
end

