-- ==== Sys2Proof/Machine/Float.lean ====
section
/-!
DEFINITION. Numbers: the IEEE formats of R208 as exact values, rounding (R211 to R213), FTZ (R214), the arithmetic of
R224 to R230, conversions to integers, and the block formats with their encoding (R217, R219, R220). Every result comes
with the flags it raises (R215). Pure functions of bits; which lanes and registers take part stands elsewhere.
-/

namespace Sys2Proof.Machine
open Sys2Proof

/-- Exception flags NX UF OF DZ NV in bits 4 to 0 (R215). -/
abbrev Flags := BitVec 5
def flagNV : Flags := 1
def flagDZ : Flags := 2
def flagOF : Flags := 4
def flagUF : Flags := 8
def flagNX : Flags := 16

/-- An IEEE format: exponent bits, fraction bits, bias (R208). -/
structure Fmt where
  ebits : Nat
  frac : Nat
  bias : Nat
  deriving DecidableEq, Repr
def fmtF64 : Fmt := ⟨11, 52, 1023⟩
def fmtF32 : Fmt := ⟨8, 23, 127⟩
def fmtF16 : Fmt := ⟨5, 10, 15⟩
def fmtBF16 : Fmt := ⟨8, 7, 127⟩

/-- Width in bits. -/
def Fmt.width (f : Fmt) : Nat := f.ebits + f.frac + 1
/-- Sign bit, infinity and canonical NaN (R208). -/
def Fmt.signBit (f : Fmt) (s : Bool) : Nat := if s then 2 ^ (f.ebits + f.frac) else 0
def Fmt.inf (f : Fmt) (s : Bool) : Nat := f.signBit s + (2 ^ f.ebits - 1) * 2 ^ f.frac
def Fmt.nan (f : Fmt) : Nat := f.inf false + 2 ^ (f.frac - 1)
/-- Largest finite value with a sign. -/
def Fmt.big (f : Fmt) (s : Bool) : Nat := f.inf s - 1

/-- What bits of a format stand for: a NaN (signalling or quiet), an infinity, or (−1)^s × m × 2^e exactly. -/
inductive FVal where
  | nan (signalling : Bool)
  | inf (s : Bool)
  | fin (s : Bool) (m : Nat) (e : Int)
  deriving DecidableEq, Repr

/-- The value of bits (R208, R210). -/
def Fmt.value (f : Fmt) (x : Nat) : FVal :=
  let s := bitAt x (f.ebits + f.frac)
  let ex := bitsOf x f.frac f.ebits
  let fr := x % 2 ^ f.frac
  if ex = 2 ^ f.ebits - 1 then
    if fr = 0 then .inf s else .nan (decide (fr < 2 ^ (f.frac - 1)))
  else if ex = 0 then .fin s fr (1 - (f.bias : Int) - f.frac)
  else .fin s (2 ^ f.frac + fr) ((ex : Int) - f.bias - f.frac)

/-- A subnormal reads as a zero of its sign under FTZ (R214). -/
def Fmt.flushIn (f : Fmt) (ftz : Bool) (x : Nat) : Nat :=
  if ftz && bitsOf x f.frac f.ebits == 0 then f.signBit (bitAt x (f.ebits + f.frac)) else x

/-- Value of an operand under FTZ. -/
def Fmt.operand (f : Fmt) (ftz : Bool) (x : Nat) : FVal := f.value (f.flushIn ftz x)

/-- The integer nearest to (m + δ) / 2^sh under a mode, and whether it differs, for 0 < δ < 1 when `sticky` and δ = 0
otherwise; `s` is the sign of the number (R211). -/
def roundShift (mode : RMode) (s : Bool) (m : Nat) (sticky : Bool) (sh : Int) : Nat × Bool :=
  if sh ≤ 0 then (m * 2 ^ (-sh).toNat, sticky)
  else
    let d := 2 ^ sh.toNat
    let q := m / d
    let r := m % d
    let inexact := r != 0 || sticky
    let up := match mode with
      | .rne => decide (d < 2 * r) || (2 * r == d && (sticky || q % 2 == 1))
      | .rz => false
      | .rup => inexact && !s
      | .rdn => inexact && s
    (if up then q + 1 else q, inexact)

/-- The overflow value of a format (R212). -/
def Fmt.overflow (f : Fmt) (mode : RMode) (s : Bool) : Nat :=
  match mode with
  | .rne => f.inf s
  | .rz => f.big s
  | .rup => if s then f.big s else f.inf s
  | .rdn => if s then f.inf s else f.big s

/-- Number of bits of a number. -/
def bitLength (m : Nat) : Nat := if m = 0 then 0 else Nat.log2 m + 1

/-- `round_to` of (−1)^s × (m + δ) × 2^e (R212), FTZ as R214 states. With `sticky`, m must have more bits than the
format. -/
def Fmt.round (f : Fmt) (mode : RMode) (ftz : Bool) (s : Bool) (m : Nat) (sticky : Bool) (e : Int) : Nat × Flags :=
  if m = 0 && !sticky then (f.signBit s, 0)
  else
    let lead : Int := (bitLength m : Int) - 1 + e
    let t := lead - f.frac
    let (y, inexact) := roundShift mode s m sticky (t - e)
    let carry := decide (2 ^ (f.frac + 1) ≤ y)
    let lead' := if carry then lead + 1 else lead
    if (f.bias : Int) < lead' then (f.overflow mode s, flagOF ||| flagNX)
    else if lead' < 1 - (f.bias : Int) then
      if ftz then (f.signBit s, flagUF ||| flagNX)
      else
        let (z, ix) := roundShift mode s m sticky (1 - (f.bias : Int) - f.frac - e)
        (f.signBit s + z, if ix then flagUF ||| flagNX else 0)
    else
      let frac := if carry then 0 else y - 2 ^ f.frac
      (f.signBit s + (lead' + f.bias).toNat * 2 ^ f.frac + frac, if inexact then flagNX else 0)

/-- `round_to` of an exact value; a NaN gives the canonical NaN and no flag (R212). -/
def Fmt.roundVal (f : Fmt) (mode : RMode) (ftz : Bool) : FVal → Nat × Flags
  | .nan _ => (f.nan, 0)
  | .inf s => (f.inf s, 0)
  | .fin s m e => f.round mode ftz s m false e

/-- A NaN operand's result: the canonical NaN, NV if some operand signals (R210). -/
def nanFlag : List FVal → Flags
  | [] => 0
  | .nan true :: _ => flagNV
  | _ :: vs => nanFlag vs

/-- Sum of two exact finite values, with the sign of an exact zero as R212 gives it. -/
def addExact (mode : RMode) (s1 : Bool) (m1 : Nat) (e1 : Int) (s2 : Bool) (m2 : Nat) (e2 : Int) : Bool × Nat × Int :=
  let e := min e1 e2
  let x : Int := (if s1 then -1 else 1) * (m1 * 2 ^ (e1 - e).toNat : Nat)
  let y : Int := (if s2 then -1 else 1) * (m2 * 2 ^ (e2 - e).toNat : Nat)
  let z := x + y
  if z = 0 then (if s1 == s2 then s1 else decide (mode = .rdn), 0, e) else (decide (z < 0), z.natAbs, e)

/-- Addition (R224). -/
def Fmt.add (f : Fmt) (mode : RMode) (ftz : Bool) (a b : FVal) : Nat × Flags :=
  match a, b with
  | .nan _, _ | _, .nan _ => (f.nan, nanFlag [a, b])
  | .inf s, .inf t => if s == t then (f.inf s, 0) else (f.nan, flagNV)
  | .inf s, _ => (f.inf s, 0)
  | _, .inf t => (f.inf t, 0)
  | .fin s1 m1 e1, .fin s2 m2 e2 =>
    let (s, m, e) := addExact mode s1 m1 e1 s2 m2 e2
    f.round mode ftz s m false e

/-- The value with its sign inverted. -/
def FVal.neg : FVal → FVal
  | .nan q => .nan q
  | .inf s => .inf (!s)
  | .fin s m e => .fin (!s) m e

/-- Subtraction (R224). -/
def Fmt.sub (f : Fmt) (mode : RMode) (ftz : Bool) (a b : FVal) : Nat × Flags := f.add mode ftz a b.neg

/-- The value is a zero. -/
def FVal.isZero : FVal → Bool
  | .fin _ m _ => m == 0
  | _ => false
/-- The value is a NaN. -/
def FVal.isNan : FVal → Bool
  | .nan _ => true
  | _ => false
/-- The sign of an infinity or a finite value. -/
def FVal.sign : FVal → Bool
  | .nan _ => false
  | .inf s => s
  | .fin s _ _ => s

/-- Multiplication (R224). -/
def Fmt.mul (f : Fmt) (mode : RMode) (ftz : Bool) (a b : FVal) : Nat × Flags :=
  match a, b with
  | .nan _, _ | _, .nan _ => (f.nan, nanFlag [a, b])
  | .fin s1 m1 e1, .fin s2 m2 e2 => f.round mode ftz (s1 != s2) (m1 * m2) false (e1 + e2)
  | _, _ => if a.isZero || b.isZero then (f.nan, flagNV) else (f.inf (a.sign != b.sign), 0)

/-- Fused multiply and add, rounded once (R224). -/
def Fmt.fma (f : Fmt) (mode : RMode) (ftz : Bool) (a b c : FVal) : Nat × Flags :=
  match a, b, c with
  | .nan _, _, _ | _, .nan _, _ => (f.nan, nanFlag [a, b, c])
  | .fin s1 m1 e1, .fin s2 m2 e2, .fin s3 m3 e3 =>
    let (s, m, e) := addExact mode (s1 != s2) (m1 * m2) (e1 + e2) s3 m3 e3
    f.round mode ftz s m false e
  | .fin _ _ _, .fin _ _ _, .nan _ => (f.nan, nanFlag [c])
  | .fin _ _ _, .fin _ _ _, .inf t => (f.inf t, 0)
  | _, _, c =>
    if a.isZero || b.isZero then (f.nan, flagNV)
    else
      let s := a.sign != b.sign
      match c with
      | .nan _ => (f.nan, nanFlag [c])
      | .inf t => if s == t then (f.inf s, 0) else (f.nan, flagNV)
      | .fin _ _ _ => (f.inf s, 0)

/-- The quotient of two nonzero numbers to more bits than any format has, with what is left over. -/
def quotient (m1 m2 : Nat) : Nat × Bool × Int :=
  let k := bitLength m2 + 64
  (m1 * 2 ^ k / m2, m1 * 2 ^ k % m2 != 0, -(k : Int))

/-- Division (R224). -/
def Fmt.div (f : Fmt) (mode : RMode) (ftz : Bool) (a b : FVal) : Nat × Flags :=
  match a, b with
  | .nan _, _ | _, .nan _ => (f.nan, nanFlag [a, b])
  | .inf _, .inf _ => (f.nan, flagNV)
  | .inf s, .fin t _ _ => (f.inf (s != t), 0)
  | .fin s _ _, .inf t => (f.signBit (s != t), 0)
  | .fin s m1 e1, .fin t m2 e2 =>
    if m2 = 0 then if m1 = 0 then (f.nan, flagNV) else (f.inf (s != t), flagDZ)
    else if m1 = 0 then (f.signBit (s != t), 0)
    else
      let (q, st, k) := quotient m1 m2
      f.round mode ftz (s != t) q st (e1 - e2 + k)

/-- Integer square root by Newton's method with fuel. -/
def isqrtGo (n : Nat) : Nat → Nat → Nat
  | 0, x => x
  | k + 1, x =>
    let y := (x + n / x) / 2
    if x ≤ y then x else isqrtGo n k y
/-- The integer square root. -/
def isqrt (n : Nat) : Nat := if n = 0 then 0 else isqrtGo n 400 (2 ^ (bitLength n / 2 + 1))

/-- A square root of m × 2^e to more bits than any format has, with what is left over. -/
def rootParts (m : Nat) (e : Int) : Nat × Bool × Int :=
  let k : Nat := if e % 2 = 0 then 130 else 131
  let n := m * 2 ^ k
  let r := isqrt n
  (r, r * r != n, (e - k) / 2)

/-- Square root (R224). -/
def Fmt.sqrt (f : Fmt) (mode : RMode) (ftz : Bool) (a : FVal) : Nat × Flags :=
  match a with
  | .nan _ => (f.nan, nanFlag [a])
  | .inf s => if s then (f.nan, flagNV) else (f.inf false, 0)
  | .fin s m e =>
    if m = 0 then (f.signBit s, 0)
    else if s then (f.nan, flagNV)
    else
      let (r, st, k) := rootParts m e
      f.round mode ftz false r st k

/-- Order of two exact values that are not NaN: −1, 0, 1, with −0 equal to +0. -/
def FVal.cmp (a b : FVal) : Int :=
  let key : FVal → Int × Int := fun v => match v with
    | .inf s => (if s then -1 else 1, 0)
    | _ => (0, 0)
  match a, b with
  | .fin s1 m1 e1, .fin s2 m2 e2 =>
    let e := min e1 e2
    let x : Int := (if s1 then -1 else 1) * (m1 * 2 ^ (e1 - e).toNat : Nat)
    let y : Int := (if s2 then -1 else 1) * (m2 * 2 ^ (e2 - e).toNat : Nat)
    if x < y then -1 else if x = y then 0 else 1
  | _, _ =>
    let x := (key a).1
    let y := (key b).1
    if x < y then -1 else if x = y then 0 else 1

/-- `fmin` and `fmax` on operands' bits as read (R225); `nanWins` for the `.nan` forms. -/
def Fmt.minMax (f : Fmt) (isMax nanWins : Bool) (ftz : Bool) (x y : Nat) : Nat × Flags :=
  let x := f.flushIn ftz x
  let y := f.flushIn ftz y
  let a := f.value x
  let b := f.value y
  if nanFlag [a, b] ≠ 0 then (f.nan, flagNV)
  else if a.isNan && b.isNan then (f.nan, 0)
  else if a.isNan || b.isNan then (if nanWins then f.nan else if a.isNan then y else x, 0)
  else
    let c := a.cmp b
    let less := decide (c < 0) || (c == 0 && a.sign && !b.sign)
    (if isMax then (if less then y else x) else (if less then x else y), 0)

/-- Comparison conditions and the flag each raises (R227). -/
def floatCompare (cc : FCond) (a b : FVal) : Bool × Flags :=
  let un := a.isNan || b.isNan
  let quiet := nanFlag [a, b]
  let loud : Flags := if un then flagNV else 0
  let c := a.cmp b
  match cc with
  | .eq => (!un && c == 0, quiet)
  | .ne => (un || c != 0, quiet)
  | .lt => (!un && decide (c < 0), loud)
  | .le => (!un && decide (c ≤ 0), loud)
  | .gt => (!un && decide (0 < c), loud)
  | .ge => (!un && decide (0 ≤ c), loud)
  | .un => (un, quiet)
  | .or => (!un, quiet)

/-- The class mask of bits (R228). -/
def Fmt.classMask (f : Fmt) (x : Nat) : Nat :=
  let s := bitAt x (f.ebits + f.frac)
  let ex := bitsOf x f.frac f.ebits
  match f.value x with
  | .nan true => 256
  | .nan false => 512
  | .inf s => if s then 1 else 128
  | .fin _ m _ =>
    if m = 0 then (if s then 8 else 16)
    else if ex = 0 then (if s then 4 else 32)
    else if s then 2 else 64

/-- Rounding to an integral value in the format (R229). -/
def Fmt.integral (f : Fmt) (mode : RMode) (ftz : Bool) (a : FVal) : Nat × Flags :=
  match a with
  | .nan _ => (f.nan, nanFlag [a])
  | .inf s => (f.inf s, 0)
  | .fin s m e =>
    let (q, ix) := roundShift mode s m false (-e)
    let (r, _) := f.round mode ftz s q false 0
    (r, if ix then flagNX else 0)

/-- `round_to` an integer range (R213): the integer and the flags. -/
def toInteger (lo hi : Int) (mode : RMode) (a : FVal) : Int × Flags :=
  match a with
  | .nan _ => (0, flagNV)
  | .inf s => (if s then lo else hi, flagNV)
  | .fin s m e =>
    let (q, ix) := roundShift mode s m false (-e)
    let x : Int := if s then -(q : Int) else q
    if x < lo then (lo, flagNV) else if hi < x then (hi, flagNV) else (x, if ix then flagNX else 0)

/-- A conversion to another IEEE format (R234, R235): a signalling NaN raises NV. -/
def Fmt.convert (f : Fmt) (mode : RMode) (ftz : Bool) (a : FVal) : Nat × Flags :=
  let (r, fl) := f.roundVal mode ftz a
  (r, fl ||| nanFlag [a])

/-- An integer as an exact value. -/
def FVal.ofInt (x : Int) : FVal := .fin (decide (x < 0)) x.natAbs 0

/-! ### Functions (R230) -/

/-- Bits of a format in numeric order: negative values below zero. -/
def Fmt.ord (f : Fmt) (x : Nat) : Int :=
  let m := x % 2 ^ (f.ebits + f.frac)
  if bitAt x (f.ebits + f.frac) then -(m : Int) else m
/-- Bits at a place of the numeric order. -/
def Fmt.unord (f : Fmt) (i : Int) : Nat := if i < 0 then f.signBit true + i.natAbs else i.toNat
/-- A value from `lo` to `hi` of the numeric order, chosen by a free number. -/
def Fmt.between (f : Fmt) (lo hi : Int) (free : Nat) : Nat := f.unord (lo + (free % ((hi - lo).toNat + 1) : Nat))

/-- Flags of an unlisted operand: `exact` when the returned value equals the exact one (R230), FTZ applied to the
result (R214). -/
def Fmt.fnFlags (f : Fmt) (ftz : Bool) (r : Nat) (isExact : Bool) : Nat × Flags :=
  let tiny := bitsOf r f.frac f.ebits == 0
  let s := bitAt r (f.ebits + f.frac)
  if tiny && ftz && r % 2 ^ f.frac != 0 then (f.signBit s, flagUF ||| flagNX)
  else (r, if isExact then 0 else if tiny then flagUF ||| flagNX else flagNX)

/-- The odd part and the power of two of a nonzero number, with fuel. -/
def oddPartGo : Nat → Nat → Int → Nat × Int
  | 0, m, e => (m, e)
  | k + 1, m, e => if m % 2 = 0 then oddPartGo k (m / 2) (e + 1) else (m, e)
/-- The odd part and the power of two of a nonzero number. -/
def oddPart (m : Nat) (e : Int) : Nat × Int := oddPartGo 64 m e

/-- A finite value as an integer times `2^k`, when it is one. -/
def asMultiple (s : Bool) (m : Nat) (e : Int) (k : Int) : Option Int :=
  let (o, x) := oddPart m e
  if m = 0 then some 0
  else if k ≤ x then some ((if s then -1 else 1) * (o * 2 ^ (x - k).toNat : Nat)) else none

/-- A number rounded towards a side, as its place in the numeric order. -/
def Fmt.directed (f : Fmt) (mode : RMode) (v : Int) (e : Int) : Int :=
  f.ord (f.round mode false (decide (v < 0)) v.natAbs false e).1

/-- A value of the format that differs by at most 2^b from a number between lo × 2^e and hi × 2^e, chosen by a free
number (R230). -/
def Fmt.within (f : Fmt) (lo hi e b : Int) (free : Nat) : Nat :=
  let k := min e b
  let d : Int := 2 ^ (b - k).toNat
  let u : Int := 2 ^ (e - k).toNat
  f.between (f.directed .rup (lo * u - d) k) (f.directed .rdn (hi * u + d) k) free

/-- The power of two of one ulp at m × 2^e. -/
def Fmt.ulpExp (f : Fmt) (m : Nat) (e : Int) : Int := max ((bitLength m : Int) - 1 + e) (1 - (f.bias : Int)) - f.frac

/-- Factors 2^(2^-i), with 160 bits of fraction, multiplied where the fraction `t` has a bit, from bit `k - 1` down. -/
def exp2Go : Nat → Nat → Nat → Nat → Nat
  | 0, _, _, acc => acc
  | k + 1, t, c, acc =>
    let c := isqrt (c * 2 ^ 160)
    exp2Go k t c (if bitAt t k then acc * c / 2 ^ 160 else acc)
/-- 2^(t / 2^160) for a fraction t, times 2^160, to within 2^12. -/
def exp2Frac (t : Nat) : Nat := exp2Go 160 t (2 ^ 161) (2 ^ 160)

/-- Bits of a binary logarithm: the square's excess over 2 is the next bit. -/
def log2Go : Nat → Nat → Nat → Nat
  | 0, _, acc => acc
  | k + 1, y, acc =>
    let y := y * y / 2 ^ 160
    if 2 ^ 161 ≤ y then log2Go k (y / 2) (2 * acc + 1) else log2Go k y (2 * acc)
/-- log2 of y / 2^160 for a y from 2^160 to 2^161, times 2^96: at most 2 too small. -/
def log2Frac (y : Nat) : Nat := log2Go 96 y 0

/-- π with 120 bits of fraction. -/
def piBits : Int := 0x3243f6a8885a308d313198a2e037073
/-- Terms of the sine's series after `term`, alternating in sign. -/
def sinGo : Nat → Nat → Int → Int → Int → Int
  | 0, _, _, _, acc => acc
  | n + 1, k, x2, term, acc =>
    let term := -(term * x2 / 2 ^ 120) / ((2 * k + 2) * (2 * k + 3) : Nat)
    sinGo n (k + 1) x2 term (acc + term)
/-- sin (π t / 2^120) for t from 0 to 2^119, times 2^120, to within 2^8. -/
def sinPart (t : Nat) : Int :=
  let x := piBits * t / 2 ^ 120
  sinGo 30 0 (x * x / 2 ^ 120) x x
/-- sin (π t / 2^120) for any t, times 2^120, to within 2^8. -/
def sinTurn (t : Nat) : Int :=
  let t := t % 2 ^ 121
  let neg := decide (2 ^ 120 ≤ t)
  let t := t % 2 ^ 120
  let v := sinPart (if 2 ^ 119 < t then 2 ^ 120 - t else t)
  if neg then -v else v

/-- m × 2^e times 2^k, without its fraction. -/
def scaled (m : Nat) (e k : Int) : Nat := if 0 ≤ e + k then m * 2 ^ (e + k).toNat else m / 2 ^ (-(e + k)).toNat

/-- A function of one operand's bits (R230), RNE; `free` chooses among the results the bound allows. -/
def Fmt.func (f : Fmt) (ftz : Bool) (fn : FloatFn) (x : Nat) (free : Nat) : Nat × Flags :=
  let a := f.operand ftz x
  let one := f.bias * 2 ^ f.frac
  let absolute : Int := if f.frac = 52 then -51 else -22
  match a with
  | .nan _ => (f.nan, nanFlag [a])
  | .inf s =>
    match fn with
    | .frcp => (f.signBit s, 0)
    | .frsqrt => if s then (f.nan, flagNV) else (f.signBit false, 0)
    | .fexp2 => if s then (f.signBit false, 0) else (f.inf false, 0)
    | .flog2 => if s then (f.nan, flagNV) else (f.inf false, 0)
    | .fsinpi => (f.nan, flagNV)
    | .fcospi => (f.nan, flagNV)
  | .fin s m e =>
    let (o, x2) := oddPart m e
    match fn with
    | .frcp =>
      if m = 0 then (f.inf s, flagDZ)
      else
        let (r, fl) := f.div .rne false (.fin false 1 0) a
        if fl &&& flagOF ≠ 0 then (r, fl)
        else if o = 1 && bitsOf r f.frac f.ebits != 0 then (r, 0)
        else
          let q : Nat := 2 ^ 200 / m
          let lo : Int := q
          let hi : Int := if o = 1 then lo else lo + 1
          let k := -200 - e
          let v := if s then f.within (-hi) (-lo) k (f.ulpExp q k) free else f.within lo hi k (f.ulpExp q k) free
          f.fnFlags ftz v (o == 1 && v == r)
    | .frsqrt =>
      if m = 0 then (f.inf s, flagDZ)
      else if s then (f.nan, flagNV)
      else
        let m2 := if e % 2 = 0 then m else 2 * m
        let q : Nat := isqrt (2 ^ 320 / m2)
        let isExact := o == 1 && x2 % 2 == 0
        let k := -160 - e / 2
        let r := f.within q (if isExact then (q : Int) else q + 1) k (f.ulpExp q k + 1) free
        f.fnFlags ftz r (isExact && decide (f.ord r = f.directed .rne q k))
    | .fexp2 =>
      match asMultiple s m e 0 with
      | some n =>
        if m = 0 then (one, 0)
        else if 20000 < n.natAbs then
          if s then (f.signBit false, flagUF ||| flagNX) else (f.inf false, flagOF ||| flagNX)
        else f.round .rne ftz false 1 false n
      | none =>
        let n : Int := (if s then -((m / 2 ^ (-e).toNat : Nat) : Int) - 1 else (m / 2 ^ (-e).toNat : Nat))
        if (f.bias : Int) < n then (f.inf false, flagOF ||| flagNX)
        else
          let t := scaled m e 160 % 2 ^ 160
          let v := exp2Frac (if s then 2 ^ 160 - 1 - t else t)
          let k := n - 160
          let tiny := decide (n < 1 - (f.bias : Int) - f.frac - 4)
          let b := f.ulpExp (2 ^ 160) k + 1
          let r := if tiny then f.within 1 1 (b - 4) b free else f.within (v - 4096) (v + 4096) k b free
          f.fnFlags ftz r false
    | .flog2 =>
      if m = 0 then (f.inf true, flagDZ)
      else if s then (f.nan, flagNV)
      else if o = 1 && x2 = 0 then (f.signBit false, 0)
      else
        let n : Int := (bitLength m : Int) - 1 + e
        let part := log2Frac (m * 2 ^ (161 - bitLength m))
        let lo : Int := n * 2 ^ 96 + part
        let hi : Int := if o = 1 then lo else lo + 2
        let near := n = -1 || (n = 0 || (n = 1 && o = 1))
        let r := f.within lo hi (-96) (if near then absolute else f.ulpExp lo.natAbs (-96) + 1) free
        f.fnFlags ftz r (o == 1 && decide (f.ord r = f.directed .rne x2 0))
    | .fsinpi =>
      match asMultiple s m e 0 with
      | some _ => (f.signBit s, 0)
      | none =>
        let v := sinTurn (scaled m e 120)
        let v := if s then -v else v
        match asMultiple s m e (-1) with
        | some n =>
          let u : Int := if n % 4 = 1 then 1 else -1
          let r := f.within u u 0 absolute free
          f.fnFlags ftz r (decide (f.ord r = f.directed .rne u 0))
        | none => f.fnFlags ftz (f.within (v - 256) (v + 256) (-120) absolute free) false
    | .fcospi =>
      match asMultiple s m e 0 with
      | some n => (if n % 2 = 0 then one else f.signBit true + one, 0)
      | none =>
        match asMultiple s m e (-1) with
        | some _ => (f.signBit false, 0)
        | none =>
          let v := sinTurn (scaled m e 120 + 2 ^ 119)
          f.fnFlags ftz (f.within (v - 256) (v + 256) (-120) absolute free) false

/-! ### Block formats -/

/-- A block format: element width and m of R217. -/
structure BFmt where
  w : Nat
  m : Nat
  deriving DecidableEq, Repr
def bfmtTB8 : BFmt := ⟨8, 5⟩
def bfmtTB6 : BFmt := ⟨6, 3⟩
def bfmtTB4 : BFmt := ⟨4, 1⟩
/-- Payload bytes per block (R217). -/
def BFmt.payload (b : BFmt) : Nat := b.w * 4

/-- The value of an element with exponents EA and EB (R217). -/
def BFmt.value (b : BFmt) (ea eb elem : Nat) : FVal :=
  let sel := bitAt elem (b.w - 1)
  let s := bitAt elem (b.w - 2)
  let q := elem % 2 ^ (b.m + 1)
  let e := if sel then eb else ea
  if e = 0xFF then .nan false else .fin s q ((e : Int) - 127 - b.m)

/-- rne(m × 2^e / 2^k) (R220). -/
def rneScale (m : Nat) (e k : Int) : Nat := (roundShift .rne false m false (k - e)).1

/-- A block encoded: EA, EB, elements and each element's flags (R220). -/
structure BlockCode where
  ea : Nat
  eb : Nat
  elems : List Nat
  flags : List Flags
  deriving DecidableEq, Repr

/-- The largest finite magnitude of some values, as m × 2^e (R220). -/
def largest : List FVal → Nat × Int
  | [] => (0, 0)
  | .fin _ m e :: vs =>
    let (m', e') := largest vs
    if FVal.cmp (.fin false m' e') (.fin false m e) < 0 then (m, e) else (m', e')
  | _ :: vs => largest vs

/-- `block_encode` (R220). -/
def BFmt.encode (b : BFmt) (vs : List FVal) : BlockCode :=
  let nanblock := vs.any FVal.isNan
  let big := 2 ^ (b.m + 1) - 1
  let (mm, me) := largest vs
  let ea : Nat :=
    if mm = 0 then 0
    else
      let c : Int := (bitLength mm : Int) - 1 + me + 127
      let c0 := max 0 c
      let c1 := if rneScale mm me (c0 - 127 - b.m) ≤ big then c0 else c0 + 1
      min 0xFE c1.toNat
  let eb : Nat := if nanblock then 0xFF else ea - (b.m + 1)
  let elem (sel s : Bool) (q : Nat) : Nat := (if sel then 2 ^ (b.w - 1) else 0) + (if s then 2 ^ (b.w - 2) else 0) + q
  let one (v : FVal) : Nat × Flags :=
    match v with
    | .nan sig => (elem true false 0, if sig then flagNV else 0)
    | .inf s => (elem false s big, flagOF ||| flagNX)
    | .fin s m e =>
      let qb := rneScale m e ((eb : Int) - 127 - b.m)
      let pick : Bool × Nat × Flags :=
        if !nanblock && decide (qb ≤ big) then (true, qb, 0)
        else
          let qa := rneScale m e ((ea : Int) - 127 - b.m)
          if big < qa then (false, big, flagOF) else (false, qa, 0)
      let code := elem pick.1 s pick.2.1
      let same := FVal.cmp (b.value ea eb code) (.fin s m e) == 0
      (code, pick.2.2 ||| (if same then 0 else flagNX) ||| (if m != 0 && pick.2.1 == 0 then flagUF else 0))
  let out := vs.map one
  ⟨ea, eb, out.map (·.1), out.map (·.2)⟩

end Sys2Proof.Machine
end

