-- ==== Sys2Proof/Machine/AssignMath.lean ====
section
/-!
DEFINITION. The auction (R265 to R268): F32 values in order, the two best columns of a row, bids, what a column keeps of
its bids, one round, and the lists and counts of a result. Pure functions of scores, prices, capacities and assignments.
-/

namespace Sys2Proof.Machine
open Sys2Proof

/-! ### F32 values -/

def f32NegInf : Nat := 0xFF800000
def f32PosInf : Nat := 0x7F800000
def f32Max : Nat := 0x7F7FFFFF

/-- The bits are a NaN. -/
def f32IsNan (x : Nat) : Bool := decide (f32PosInf < x % 2 ^ 31)

/-- The place of a value in order; both zeros stand equal, and a NaN where the device ranks it. -/
def bidRank (x : Nat) : Int :=
  if f32IsNan x then Config.nanBidRank else if x / 2 ^ 31 % 2 = 1 then -((x % 2 ^ 31 : Nat) : Int) else (x % 2 ^ 31 : Nat)

/-- Sum and difference in F32 under RNE, subnormals honoured (R265, R212). -/
def f32Add (a b : Nat) : Nat := (fmtF32.add .rne false (fmtF32.value a) (fmtF32.value b)).1
def f32Sub (a b : Nat) : Nat := (fmtF32.sub .rne false (fmtF32.value a) (fmtF32.value b)).1

/-- A score as the auction reads it, with NANSC and CLAMPSC (R265). -/
def readScore (x : Nat) : Nat × Bool × Bool :=
  if f32IsNan x then (f32NegInf, true, false) else if x = f32PosInf then (f32Max, false, true) else (x, false, false)

/-- The value of a column to a row (R265). -/
def rowValue (score price cap : Nat) : Nat := if cap = 0 || price == f32PosInf then f32NegInf else f32Sub score price

/-! ### Rows and columns -/

/-- The column of the largest value, equal values going to the lower column; columns are numbered from `j`. -/
def bestFrom : Nat → List Nat → Option (Nat × Nat)
  | _, [] => none
  | j, v :: vs =>
    match bestFrom (j + 1) vs with
    | some (k, w) => if bidRank v < bidRank w then some (k, w) else some (j, v)
    | none => some (j, v)

/-- The best column of a row with its value, and the largest value of the others; none when no value is above −∞
(R265). -/
def bestTwo (vs : List Nat) : Option (Nat × Nat × Nat) :=
  match bestFrom 0 vs with
  | none => none
  | some (j, v) =>
    if v = f32NegInf then none
    else
      let rest := (List.range vs.length).filterMap (fun k => if k = j then none else some (vs.getD k f32NegInf))
      some (j, v, match bestFrom 0 rest with
        | some (_, w) => w
        | none => f32NegInf)

/-- A bid (R265). -/
def bidOf (price inc v v2 : Nat) : Nat :=
  if v2 = f32NegInf then f32PosInf else f32Add (f32Add price (f32Sub v v2)) inc

/-- A row and its bid put in their place: highest bid first, equal bids by row (R265). -/
def insertBid (x : Nat × Nat) : List (Nat × Nat) → List (Nat × Nat)
  | [] => [x]
  | y :: ys =>
    if bidRank y.2 < bidRank x.2 || (bidRank y.2 == bidRank x.2 && decide (x.1 < y.1)) then x :: y :: ys
    else y :: insertBid x ys

/-- Rows and bids of a column in order. -/
def sortBids (l : List (Nat × Nat)) : List (Nat × Nat) := l.foldl (fun t x => insertBid x t) []

/-- Rows that hold a column, with their kept bids. -/
def Auction.holders (a : Auction) (j : Nat) : List (Nat × Nat) :=
  (List.range a.held.length).filterMap (fun r => match a.held.getD r none with
    | some (c, b) => if c = j then some (r, b.toNat) else none
    | none => none)

/-- One column after the bids made for it (R265). -/
def Auction.column (a : Auction) (j : Nat) (bids : List (Nat × Nat)) : Auction :=
  let ks := sortBids (a.holders j ++ bids)
  let n := a.caps.getD j 0
  let kept := ks.take n
  let held := (ks.drop n).foldl (fun h x => h.set x.1 none) a.held
  let held := kept.foldl (fun h x => h.set x.1 (some (j, BitVec.ofNat 32 x.2))) held
  { a with held := held, prices := a.prices.set j (match kept.getLast? with
      | some x => BitVec.ofNat 32 x.2
      | none => a.prices.getD j 0) }

/-- The values of a row's columns from its scores. -/
def Auction.values (a : Auction) (scores : List Nat) : List Nat :=
  (List.range a.prices.length).map (fun j =>
    rowValue (readScore (scores.getD j 0)).1 (a.prices.getD j 0).toNat (a.caps.getD j 0))

/-- Unassigned rows that can bid, with column and bid; `score r` gives a row's scores (R265). -/
def Auction.bids (a : Auction) (inc : Nat) (score : Nat → List Nat) : List (Nat × Nat × Nat) :=
  (List.range a.held.length).filterMap (fun r =>
    if (a.held.getD r none).isSome then none
    else match bestTwo (a.values (score r)) with
      | some (j, v, v2) => some (r, j, bidOf (a.prices.getD j 0).toNat inc v v2)
      | none => none)

/-- NANSC and CLAMPSC after the scores of the unassigned rows have been read. -/
def Auction.noteScores (a : Auction) (score : Nat → List Nat) : Auction :=
  let rows := (List.range a.held.length).filter (fun r => !(a.held.getD r none).isSome)
  let seen := rows.flatMap score
  { a with nansc := a.nansc || seen.any (fun x => (readScore x).2.1),
           clampsc := a.clampsc || seen.any (fun x => (readScore x).2.2) }

/-- A round with the bids made against the prices at its start (R265). -/
def Auction.round (a : Auction) (bids : List (Nat × Nat × Nat)) : Auction :=
  let a' := (List.range a.prices.length).foldl (fun x j =>
    match bids.filterMap (fun b => if b.2.1 = j then some (b.1, b.2.2) else none) with
    | [] => x
    | l => x.column j l) a
  { a' with rounds := a.rounds + 1 }

/-- Rows left unassigned. -/
def Auction.unassigned (a : Auction) : Nat := (a.held.filter (fun h => h.isNone)).length

/-- The result entry of a row (R260). -/
def resultEntry (h : Option (Nat × BitVec 32)) : Nat :=
  match h with
  | some (j, b) => j + 2 ^ 32 * b.toNat
  | none => 0xFFFFFFFF

/-- A result column as an integer. -/
def columnOf (x : Nat) : Int := (BitVec.ofNat 32 x).toInt

/-- What is wrong with result columns (R268, R270 START): the index of the first row whose column is out of range, or of
the first column that holds more rows than it may. -/
def startError (cols : List Int) (caps : List Nat) (limit : Option Nat) : Option Nat :=
  match (List.range cols.length).find? (fun r => decide (cols.getD r 0 < -1) || decide ((caps.length : Int) ≤ cols.getD r 0)) with
  | some r => some r
  | none => (List.range caps.length).find? (fun j =>
      let n := (cols.filter (fun c => c = (j : Int))).length
      decide (caps.getD j 0 < n) || (match limit with
        | some l => decide (l < n)
        | none => false))

/-- The list of a column: its rows in order, then −1 (R268). -/
def columnList (cols : List Int) (j l : Nat) : List Nat :=
  let rows := (List.range cols.length).filter (fun r => cols.getD r 0 = (j : Int))
  (List.range l).map (fun t => rows.getD t 0xFFFFFFFF)

end Sys2Proof.Machine
end

