-- ==== Sys2Proof/Machine/Image.lean ====
section
/-!
DEFINITION. Where a group's context image and save record lie (R73, R74): the sizes of their regions, the line of the image
that holds each register, and what a read of a poisoned image line finds (R182).
-/

namespace Sys2Proof.Machine
open Sys2Proof

/-- A number of bytes rounded up to 4 KiB. -/
def pageUp (n : Nat) : Nat := (n + 4095) / 4096 * 4096

/-! ### Sizes (R73, R350) -/

/-- V registers in the V region. -/
def Launch.vCount (l : Launch) : Nat := 4 * min l.nvreg 30

/-- Bytes of a group's image: control, V, banked, LOCAL (R73). -/
def Launch.imageSize (l : Launch) : Nat := 2048 + 128 * l.vCount + 3072 + 32 * l.localSize

/-- Bytes of a group's image and save record (R73). -/
def Launch.imageBytes (l : Launch) : Nat := l.imageSize + 2176

/-- Bytes of the pool that an image and its save record take: the image is aligned to 4 KiB, and the record follows it (DESIGN
CHOICE, log entry 103). -/
def Launch.poolBytes (l : Launch) : Nat := pageUp l.imageBytes

/-- Bytes of a leaf's pool reserved for the save blocks of its engines (R350); they stand first, and images from the next
multiple of 4 KiB on (DESIGN CHOICE, log entry 103). -/
def Part.saveBytes (p : Part) : Nat := pageUp (p.clusterList.length * (4 * (532992 + 258048) + 131072))

/-- Bytes of a leaf's pool for images: what the save blocks leave; all of a pool too small to hold the blocks. -/
def Part.imagePool (p : Part) : Nat := if p.poolSize < p.saveBytes then p.poolSize else p.poolSize - p.saveBytes

/-- Where the images of a leaf's pool begin. -/
def Part.imageBase (p : Part) : Nat := if p.poolSize < p.saveBytes then p.poolBase else p.poolBase + p.saveBytes

/-! ### Images in the pool (R74) -/

/-- Images of a leaf in use, as address and size: those of its groups, and those that planned groups have been given. -/
def State.imagesHeld (s : State) (leaf : Nat) : List (Nat × Nat) :=
  s.groups.filterMap (fun p => if p.2.leaf = leaf && !p.2.freed then
    p.2.image.map (fun a => (a, ((s.launchOf p.2).map Launch.poolBytes).getD 0)) else none) ++
  s.launches.flatMap (fun p => if p.2.leaf = leaf then
    p.2.plans.filterMap (fun g => g.image.map (fun a => (a, p.2.poolBytes))) else [])

/-- The lowest place of a leaf's pool for `size` bytes beside what is in use. -/
def Part.placeImage (p : Part) (size : Nat) (used : List (Nat × Nat)) : Option Nat :=
  let fits (a : Nat) : Bool := decide (p.imageBase ≤ a) && decide (a + size ≤ p.imageBase + p.imagePool) &&
    used.all (fun u => decide (u.1 + u.2 ≤ a) || decide (a + size ≤ u.1))
  ((p.imageBase :: used.map (fun u => u.1 + u.2)).filter fits).foldl (fun x a => match x with
    | none => some a
    | some b => some (min a b)) none

/-- Images given to those of some plans that are marked and have none, in order; none where one finds no place. -/
def allocImages (p : Part) (size : Nat) : List (Nat × Nat) → List (Bool × GroupPlan) → Option (List GroupPlan)
  | _, [] => some []
  | used, (take, g) :: r =>
    if !take || g.image.isSome then (allocImages p size used r).map (g :: ·)
    else match p.placeImage size used with
    | none => none
    | some a => (allocImages p size ((a, size) :: used) r).map ({ g with image := some a } :: ·)

/-- The plans of a launch once its first `n` groups have their images, and with them every other group of the pieces that those
open: the images of one piece are allocated together (R74). -/
def State.withImages (s : State) (l : Launch) (n : Nat) : Option (List GroupPlan) :=
  let units := (l.plans.take n).map (·.unit)
  let marked := ((List.range l.plans.length).zip l.plans).map (fun p =>
    (decide (p.1 < n) || (p.2.unit != 0 && units.contains p.2.unit), p.2))
  allocImages (s.part l.leaf) l.poolBytes (s.imagesHeld l.leaf) marked

/-! ### Lines of an image (R73, R348) -/

/-- The line of the image that holds V[n] in a mode: the V region, or the bank of the mode. -/
def Launch.vLine (l : Launch) (m : Mode) (n : Nat) : Nat :=
  if n < 120 then 16 + n else 16 + l.vCount + 8 * m.num + (n - 120)
/-- The line that holds K[n]. -/
def kLine (n : Nat) : Nat := 2 + n / 16
/-- The line that holds the predicates. -/
def pLine : Nat := 7

/-- Bytes from the start of the image to a LOCAL byte of a lane. -/
def Launch.localAt (l : Launch) (lane off : Nat) : Nat := 2048 + 128 * l.vCount + 3072 + lane * l.localSize + off

/-- The 128-byte line of memory that holds a place; none for a tile, and for an image that lies nowhere. -/
def State.memLine (s : State) : Loc → Option Nat
  | .sys a => some (a / 128)
  | .tile _ _ => none
  | .loc gid lane off => match s.group gid with
    | none => none
    | some g => match g.image, s.launchOf g with
      | some a, some l => some ((a + l.localAt lane off) / 128)
      | _, _ => none

/-- A line is poisoned (R182): marked so, or the expander of a CXL port marks its data response so (R313), by what it holds at the time,
a free value (DESIGN CHOICE, log entry 105). -/
def State.linePoisoned (s : State) (n : Nat) : Bool :=
  s.poisoned.contains n || (decide (0x20000000000 ≤ 128 * n) && decide (128 * n < 0xA0000000000) && Config.cxlMarks s.time n)

/-- Lines of a group's image, counted from its start, that are poisoned or whose next read poisons them (R182). -/
def State.badLines (s : State) (g : Group) : List Nat :=
  match g.image, s.launchOf g with
  | some a, some l => (s.poisoned ++ s.hardNext).filterMap (fun n =>
      if a / 128 ≤ n && n < (a + l.imageSize) / 128 then some (n - a / 128) else none)
  | _, _ => []

/-- The line of the image that holds a word of the register file, by its place there. -/
def Launch.wordLine (l : Launch) (key : Nat) : Nat :=
  if key / 32 < 120 then 16 + key / 32 else 16 + l.vCount + (key / 32 - 120)

/-- The group with zero in the registers that lie in some lines of its image. -/
def Group.zeroLines (g : Group) (l : Launch) (bad : List Nat) : Group :=
  { g with
      v := g.v.filter (fun p => !bad.contains (l.wordLine p.1)), k := g.k.filter (fun p => !bad.contains (kLine p.1)),
      p := if bad.contains pLine then [] else g.p }

end Sys2Proof.Machine
end

