-- ==== Sys2Proof/Machine/Buffers.lean ====
section
/-!
DEFINITION. The ordering machine (R276 to R283): which buffer of which path a write lies in, what a read finds, how a
write climbs, what reaching memory, a tile or a context image does, the urn operations performed on the way, and the
monitors that any write entering a buffer touches (R301).
-/

namespace Sys2Proof.Machine
open Sys2Proof

/-- Who reads: a group on a core, or an agent of the hub (R277). -/
structure Agent where
  gid : Option Nat
  core : Option Nat
  /-- a load passes over what its group stored with a later operation (R187) -/
  before : Option Nat
  deriving DecidableEq, Repr

/-- The hub's agents: the front end, walkers, migration and fabric (R277). -/
def hub : Agent := ⟨none, none, none⟩
/-- The agent a group's lanes are. -/
def Group.agent (g : Group) (gid : Nat) : Agent := ⟨some gid, some g.core, none⟩

/-- A write that a load passes over, because its own group issued it with a later operation (R187). -/
def later (a : Agent) (w : Write) : Bool :=
  decide (a.gid = some w.gid) && w.core.isSome && (match a.before with
    | some n => decide (n < w.op)
    | none => false)

/-- The buffer a write lies in is on the agent's path (R277), and the agent does not pass over the write. -/
def onPath (a : Agent) (w : Write) : Bool :=
  !later a w && match w.level with
  | 0 => decide (a.gid = some w.gid) && w.core.isSome
  | 1 => a.core.isSome && decide (a.core = w.core)
  | 2 => a.core.isSome && decide (a.core.map clusterOf = w.core.map clusterOf)
  | 3 => a.core.isSome && decide (a.core.map dieOf = w.core.map dieOf)
  | _ => true

/-- Two writes lie in one buffer (R277). -/
def sameBuffer (x y : Write) : Bool :=
  decide (x.level = y.level) &&
    match x.level with
    | 0 => decide (x.gid = y.gid) && (x.core.isSome == y.core.isSome)
    | 1 => decide (x.core = y.core)
    | 2 => decide (x.core.map clusterOf = y.core.map clusterOf)
    | 3 => decide (x.core.map dieOf = y.core.map dieOf)
    | _ => true

/-- The byte a write puts at a place, if it writes it. -/
def Write.at? (w : Write) (l : Loc) : Option Byte := (w.bytes.find? (fun p => p.1 = l)).map (·.2)
/-- Two writes overlap in a byte. -/
def overlap (x y : Write) : Bool := x.bytes.any (fun p => (y.at? p.1).isSome)

/-- The byte at a place where no buffer holds a write: memory M, the tile, or the context image (R277, R282). -/
def State.baseByte (s : State) : Loc → Byte
  | .sys a => tblGet s.mem 0 a
  | .tile h off => match tblFind s.tiles h with
    | some t => tblGet t.bytes 0 off
    | none => 0
  | .loc gid lane off => match s.group gid with
    | some g => tblGet g.local_ 0 (lane * 65536 + off)
    | none => 0

/-- The youngest performed write to a place in the agent's buffer at a level, if any. -/
def State.youngest (s : State) (a : Agent) (l : Loc) (lvl : Nat) : Option (Nat × Byte) :=
  s.flight.foldl (fun r w =>
    if w.level = lvl && w.urn.isNone && onPath a w then
      match w.at? l with
      | some b => some (w.id, b)
      | none => r
    else r) none

/-- A read of one byte from level `lo` of the agent's path upward: the value of the youngest write in the first buffer
that holds one, with the write's number, or the value below every buffer (R280). -/
def State.readFrom (s : State) (a : Agent) (l : Loc) : Nat → List Nat → Byte × Option Nat
  | _, [] => (s.baseByte l, none)
  | lo, lvl :: ls =>
    if lvl < lo then s.readFrom a l lo ls
    else match s.youngest a l lvl with
      | some (w, b) => (b, some w)
      | none => s.readFrom a l lo ls

/-- A read of one byte (R280). -/
def State.readByte (s : State) (a : Agent) (l : Loc) : Byte × Option Nat := s.readFrom a l 0 [0, 1, 2, 3, 4, 5]

/-- The place `i` bytes on. -/
def Loc.add : Loc → Nat → Loc
  | .sys a, i => .sys (a + i)
  | .tile h off, i => .tile h (off + i)
  | .loc g l off, i => .loc g l (off + i)

/-- A read of `n` bytes at one step, and the writes it read (R280). -/
def State.readBytes (s : State) (a : Agent) (l : Loc) (n : Nat) : List Byte × List Nat :=
  let rs := (List.range n).map (fun i => s.readByte a (l.add i))
  (rs.map (·.1), rs.filterMap (·.2))

/-- The number `n` bytes hold, as the hub reads them. -/
def State.hubRead (s : State) (a n : Nat) : Nat := leNat (s.readBytes hub (.sys a) n).1

/-- A line of memory, or of a context image, is poisoned (R182). -/
def State.poison (s : State) (l : Loc) : Bool :=
  match s.memLine l with
  | some n => s.linePoisoned n
  | none => false

/-- A read meets the errors marked on a line (R182, R347 `einj`): a soft one is counted and corrected, a hard one poisons
the line. -/
def State.meet (s : State) (launch leaf : Nat) (l : Loc) : State :=
  match s.memLine l with
  | some n =>
    let s := if s.softNext.contains n then
        ({ s with softNext := s.softNext.filter (fun x => x ≠ n) }.countErr leaf 0).addFlags launch 8
      else s
    if s.hardNext.contains n then
      let s := { s with hardNext := s.hardNext.filter (fun x => x ≠ n), poisoned := n :: s.poisoned }
      ((s.countErr leaf 1).addFlags launch 16).askError leaf
    else s
  | none => s

/-- Bytes put directly where they belong: memory M, a tile, a context image (R282). -/
def State.putByte (s : State) (l : Loc) (b : Byte) : State :=
  match l with
  | .sys a => { s with mem := tblPut s.mem 0 a b }
  | .tile h off => { s with tiles := tblMod s.tiles h (fun t => { t with bytes := tblPut t.bytes 0 off b }) }
  | .loc gid lane off => s.modGroup gid (fun g => { g with local_ := tblPut g.local_ 0 (lane * 65536 + off) b })
def State.putBytes (s : State) (bs : List (Loc × Byte)) : State := bs.foldl (fun s p => s.putByte p.1 p.2) s

/-- Bytes entered the buffer at level `lvl` of a path, or M (6), or a tile: every armed monitor on their line whose
level is reached and whose group's path holds that buffer becomes TOUCHED (R301), unless its `mwait` has come to its deadline
before. -/
def State.touchMonitors (s : State) (w : Write) (lvl : Nat) : State :=
  { s with groups := s.groups.map (fun p =>
      let g := p.2
      if g.mon.state = .armed && !s.overdue g && decide (scopeLevel g.mon.level.toNat ≤ lvl) &&
          w.bytes.any (fun b => b.1.line = g.mon.place) &&
          (lvl == 6 || onPath (g.agent p.1) { w with level := lvl }) then (p.1, g.touch) else p) }

/-- A new write at the bottom of an agent's path; lane, launch and group say whose it is (R279). -/
def State.addWrite (s : State) (w : Write) : State :=
  ({ s with flight := s.flight ++ [w] }).touchMonitors w w.level

/-! ### Urn operations -/

/-- A number read as signed or unsigned of `bytes` bytes. -/
def asInt (signed : Bool) (bytes x : Nat) : Int :=
  if signed && decide (2 ^ (8 * bytes - 1) ≤ x) then (x : Int) - 2 ^ (8 * bytes) else x

/-- The new value of an integer atomic (R303). -/
def urnInt (op : UrnOp) (signed : Bool) (bytes old b : Nat) : Nat :=
  match op with
  | .add => (old + b) % 2 ^ (8 * bytes)
  | .min => if asInt signed bytes b < asInt signed bytes old then b else old
  | .max => if asInt signed bytes old < asInt signed bytes b then b else old
  | .and => Nat.land old b
  | .or => Nat.lor old b
  | .xor => Nat.xor old b
  | .swap => b

/-- Floating-point addition of urns and reductions: F32 or F64, RNE, subnormals honoured; any NaN operand gives the
canonical NaN and NV (R306). -/
def urnFadd (bytes old b : Nat) : Nat × Flags :=
  let f := if bytes = 8 then fmtF64 else fmtF32
  let x := f.value old
  let y := f.value b
  if x.isNan || y.isNan then (f.nan, flagNV) else f.add .rne false x y

/-- New value and flags of one lane's part on the old value (R303, R305, R306). -/
def urnNew (r : UrnReq) (old b c : Nat) : Nat × Flags :=
  match r.act with
  | .int op signed => (urnInt op signed r.bytes old b, 0)
  | .cmpx => (if old = c then b else old, 0)
  | .fadd => urnFadd r.bytes old b

/-- The parts of a request one after the other: final value, replies by lane, flags (R303). -/
def urnRun (r : UrnReq) : List (Nat × DWord × DWord) → Nat → Nat × List (Nat × Nat) × Flags
  | [], old => (old, [], 0)
  | (lane, b, c) :: ps, old =>
    let m := 2 ^ (8 * r.bytes)
    let (v, f) := urnNew r old (b.toNat % m) (c.toNat % m)
    let (fin, reps, fl) := urnRun r ps v
    (fin, (lane, old) :: reps, f ||| fl)

/-- The replies of a performed request recorded with the operation that sent it. -/
def setReplies (wid : Nat) (reps : List (Nat × Nat)) (k : OpKind) : OpKind :=
  match k with
  | .urn d wide lvl ls =>
    .urn d wide lvl (ls.map (fun l =>
      if l.wid = wid then
        match reps.find? (fun p => p.1 = l.lane) with
        | some p => { l with reply := some (BitVec.ofNat 64 p.2) }
        | none => { l with reply := some 0 }
      else l))
  | k => k

/-- The first byte's place of a write. -/
def Write.place (w : Write) : Loc := match w.bytes with
  | p :: _ => p.1
  | [] => .sys 0

/-- An urn operation is performed where it now lies, reading from level `lvl` upward (R283): it becomes a write of its
result, its replies are recorded, and its flags enter the group's remote-flags word (R307). A poisoned line performs
nothing and replies zero (R182): then the second part is none. -/
def State.performUrn (s : State) (w : Write) (r : UrnReq) (lvl : Nat) : State × Option Write :=
  let leaf := match s.group w.gid with
    | some g => g.leaf
    | none => 0
  let s := s.meet w.launch leaf w.place
  if s.poison w.place then
    let s := (s.countErr leaf 2).addFlags w.launch 32
    (s.modOp w.gid w.op (fun o =>
      { o with kind := setReplies w.id (r.parts.map (fun p => (p.1, 0))) o.kind }), none)
  else
    let a : Agent := ⟨if w.core.isSome then some w.gid else none, w.core, none⟩
    let old := leNat ((List.range r.bytes).map (fun i => (s.readFrom a (w.place.add i) lvl [0, 1, 2, 3, 4, 5]).1))
    let (v, reps, fl) := urnRun r r.parts old
    let s := s.modOp w.gid w.op (fun o => { o with kind := setReplies w.id reps o.kind })
    let s := s.modGroup w.gid (fun g => { g with remote := g.remote ||| fl })
    let bs := (List.range r.bytes).map (fun i => (w.place.add i, BitVec.ofNat 8 (v / 256 ^ i)))
    (s, some { w with bytes := bs, urn := none })

/-! ### Draining -/

/-- The write may leave its buffer (R279): the oldest of an SQ; in any other buffer, no older write overlaps it. -/
def mayDrain (w : Write) : List Write → Bool
  | [] => false
  | x :: xs =>
    if x.id = w.id then true
    else if sameBuffer x w && (w.level == 0 || overlap x w) then false
    else mayDrain w xs

/-- Lines of memory that one store or copy writes whole: all 128 bytes of the line are among its places (R182). -/
def wholeLines (ps : List Loc) : List Nat :=
  let as := ps.filterMap (fun l => match l with
    | .sys a => some a
    | _ => none)
  (as.filter (fun a => a % 128 = 0)).filter (fun a => (List.range 128).all (fun i => as.contains (a + i))) |>.map (· / 128)

/-- One store or copy writes these places with these writes: lines it writes whole lose their poison once all of its
writes have landed (R182). -/
def State.heal (s : State) (ps : List Loc) (ids : List Nat) : State :=
  { s with healing := s.healing ++ (wholeLines ps).map (fun n => (n, ids)) }

/-- Lines whose whole write has landed are no longer poisoned. -/
def State.settleLines (s : State) : State :=
  let gone (p : Nat × List Nat) : Bool := p.2.all (fun i => !s.flight.any (fun w => w.id = i))
  let clean := (s.healing.filter gone).map (·.1)
  { s with poisoned := s.poisoned.filter (fun n => !clean.contains n), healing := s.healing.filter (fun p => !gone p) }

/-- A page of memory is about to change (R358): a migration that has still to send it keeps what it holds, and records that it is
written. -/
def Migration.note (m : Migration) (s : State) (a : Nat) : Migration :=
  let pg := a / 4096 * 4096
  if !m.pages.any (fun p => p.2 == pg) then m
  else { m with
    dirty := if m.dirty.contains pg then m.dirty else m.dirty ++ [pg],
    kept := if m.send.any (fun p => p.2 == pg) && (tblFind m.kept pg).isNone then
        tblSet m.kept pg (s.readBytes hub (.sys pg) 4096).1 else m.kept }

/-- Every migration takes note of bytes that are about to change (R358). -/
def State.noteWritten (s : State) (bs : List (Loc × Byte)) : State :=
  { s with migrations := s.migrations.map (fun p => (p.1, bs.foldl (fun m b => match b.1 with
      | .sys a => m.note s a
      | _ => m) p.2)) }

/-- The write reaches the place of its bytes: a tile or context image from SQ (R282), or M. -/
def State.land (s : State) (w : Write) : State :=
  (((s.noteWritten w.bytes).putBytes w.bytes).touchMonitors w 6).settleLines

/-- The bytes lie in on-chip storage (R282). -/
def Write.onChip (w : Write) : Bool := match w.place with
  | .sys _ => false
  | _ => true

/-- A write moves one buffer up (R279); an urn operation that arrives at its level is performed there (R283). -/
def State.drain (s : State) (w : Write) : State :=
  let s := { s with flight := s.flight.filter (fun x => x.id ≠ w.id) }
  let next := if w.onChip then 6 else w.level + 1
  let w := { w with level := next }
  match w.urn with
  | some r =>
    if r.level ≤ next then
      match s.performUrn w r next with
      | (s, none) => s
      | (s, some w) => if next = 6 then s.land w else s.addWrite w
    else { s with flight := s.flight ++ [w] }
  | none => if next = 6 then s.land w else s.addWrite w

/-- The cluster whose urn serves a place for a leaf (R302). -/
def State.urnCluster (s : State) (leaf : Nat) (l : Loc) : Nat :=
  match l with
  | .sys a =>
    let cs := (s.part leaf).clusterList
    cs.getD (a / 128 % cs.length) 0
  | .tile h _ => if h / 2 ^ 31 = 1 then h / 2 ^ 22 % 512 else clusterOf (h / 2 ^ 22 % 512)
  | .loc _ _ _ => 0

/-- A die's clock that stands holds the write where it is (R326): the die of a buffer below PB, and the die of the urn
that would perform it. -/
def State.stalled (s : State) (w : Write) : Bool :=
  (match w.core with
    | some c => decide (w.level < 4) && s.asleep c
    | none => false) ||
  (match w.urn with
    | some r =>
      let leaf := match s.group w.gid with
        | some g => g.leaf
        | none => 0
      decide (r.level ≤ (if w.onChip then 6 else w.level + 1)) && s.asleep (s.urnCluster leaf w.place * 4)
    | none => false)

/-- Bytes of a load. -/
def Extend.size : Extend → Nat
  | .s8 => 1
  | .z8 => 1
  | .s16 => 2
  | .z16 => 2
  | .w32 => 4
  | .w64 => 8

/-- The places a load has not yet read, with the bytes of each. -/
def OpKind.unread (k : OpKind) : List (Loc × Nat) :=
  match k with
  | .load _ _ e ls => (ls.filter (fun l => !l.read)).map (fun l => (l.loc, e.size))
  | .ldk _ l => if l.read then [] else [(l.loc, 8)]
  | _ => []

/-- A load of the group that was issued before the store, reads one of its bytes, and has not been read: the store waits
where the load can still pass over it, in OB before it enters M, or in SQ before it enters a tile or the image (R187; DEDUCED,
log entry 20). -/
def State.awaited (s : State) (w : Write) : Bool :=
  (if w.onChip then w.level == 0 else w.level == 5) && match s.group w.gid with
    | none => false
    | some g => g.ops.any (fun o => decide (o.id < w.op) && o.kind.unread.any (fun p =>
        (List.range p.2).any (fun i => (w.at? (p.1.add i)).isSome)))

/-- Events of the die cache and of the banks of a core's tile store at an access (R181, R337). -/
def State.accessEvent (s : State) (core : Nat) (l : Loc) : State :=
  match l with
  | .sys _ => s.cacheEvent core 4
  | .tile h _ => if h / 2 ^ 31 = 0 then s.cacheEvent (h / 2 ^ 22 % 512) 5 else s
  | .loc _ _ _ => s

/-- Units of 64 bytes that an access at a place moves on a memory channel or CXL port (R62): how many depends on what the caches
hold (DESIGN CHOICE, log entry 24: a free value); none where no budget limits the leaf, and none elsewhere. -/
def State.channelUnits (s : State) (leaf : Nat) (l : Loc) : Nat :=
  match l with
  | .sys a => if s.limited leaf 1 && decide (a < 0x100000000000) then Config.channelUnits s.drawn else 0
  | _ => 0

/-- An access moves its units, which count against the memory budget (R62). -/
def State.moveUnits (s : State) (leaf : Nat) (l : Loc) : State :=
  let n := s.channelUnits leaf l
  if n = 0 then s else ({ s with drawn := s.drawn + 1 }).spend leaf 1 (64 * n)

/-- An access must wait for a new budget period, because it moves bytes and the memory budget is used up (R62). -/
def State.memoryStalls (s : State) (leaf : Nat) (l : Loc) : Bool := s.exhausted leaf 1 && s.channelUnits leaf l != 0

/-- The leaf whose work a write is; none for the hub's own and the host's. -/
def State.writeLeaf (s : State) (w : Write) : Option Nat :=
  match s.group w.gid with
  | some g => some g.leaf
  | none => (s.launch w.launch).map (·.leaf)

/-- The budget that a write spends by draining, if any (R62): an urn operation that arrives at its urn spends one request, a
write that enters memory its bytes. -/
def Write.spends (w : Write) : Option Nat :=
  let next := if w.onChip then 6 else w.level + 1
  match w.urn with
  | some r => if r.level ≤ next then some 4 else none
  | none => if next = 6 && !w.onChip then some 1 else none

/-- A write that a used up budget stalls, or that stands behind an older one of the same leaf that is stalled (R62). -/
def State.budgetStalls (s : State) (w : Write) : Bool :=
  match w.spends, s.writeLeaf w with
  | some k, some leaf =>
    (if k = 4 then s.exhausted leaf 4 else s.memoryStalls leaf w.place) ||
      (s.flight.takeWhile (fun x => x.id ≠ w.id)).any (fun x => x.held && x.spends = some k && s.writeLeaf x = some leaf)
  | _, _ => false

/-- The budget of a write that drains is spent (R62). -/
def State.spendWrite (s : State) (w : Write) : State :=
  match w.spends, s.writeLeaf w with
  | some k, some leaf => if k = 4 then s.spend leaf 4 1 else s.moveUnits leaf w.place
  | _, _ => s

/-- A lane's write to a tile has landed: it is kept while the same store issue has writes in SQ, for the engine's reads
(R252). -/
def State.noteLanded (s : State) (w : Write) : State :=
  let ids := match s.group w.gid with
    | some g => (g.ops.findSome? (fun (o : Op) => match o.kind with
      | .store ids _ => if ids.contains w.id then some ids else none
      | _ => none)).getD []
    | none => []
  { s with landed := (s.landed ++ [(w.bytes.map (fun b => b.1), ids)]).filter (fun p => s.flight.any (fun x => p.2.contains x.id)) }

/-- The write numbered `wid` drains, if it may; a used up budget holds it in its place (R62). -/
def State.drainId (s : State) (wid : Nat) : State :=
  match s.flight.find? (fun w => w.id = wid) with
  | some w =>
    if !mayDrain w s.flight || s.stalled w || s.awaited w then s
    else if s.budgetStalls w then
      { s with flight := s.flight.map (fun x => if x.id = w.id then { x with held := true } else x) }
    else
      let s := s.spendWrite w
      let w := { w with held := false }
      (match w.place with
        | .tile _ _ => ((s.drain w).noteLanded w).accessEvent 0 w.place
        | _ => s.drain w)
  | none => s

/-- Writes a load read are added to every cover of its group that waits for the load (R284 item 2, R293). -/
def Cover.learn (c : Cover) (op : Nat) (saw : List Nat) : Cover :=
  if c.loads.contains op then { writes := c.writes ++ saw, loads := c.loads.filter (fun n => n ≠ op) } else c

/-- A load's read is known to everything that covers it, and to the group (R284, R293). `done` when all its lanes have
been read. -/
def State.learn (s : State) (gid op : Nat) (saw : List Nat) (done : Bool) : State :=
  let grow (c : Cover) : Cover :=
    if done then c.learn op saw else if c.loads.contains op then { c with writes := c.writes ++ saw } else c
  let s := s.modGroup gid (fun g => { g with
    seen := (g.seen ++ saw).filter (fun w => s.flight.any (fun x => x.id = w)),
    f := g.f.map (fun p => (p.1, { p.2 with cover := grow p.2.cover })) })
  { s with changes := s.changes.map (fun p => if p.2.gid = gid then (p.1, { p.2 with cover := grow p.2.cover }) else p) }

end Sys2Proof.Machine
end

