-- ==== Sys2Proof/Machine/Translate.lean ====
section
/-!
DEFINITION. Addresses: the apertures of a generic address (R164), tile handles and the checks of R166, the two stages of
translation with their faults (R172 to R175), what a cluster's translation cache supplies (R176), and page requests:
parking a lane, placing a request in the leaf's share, and writing it to the interface's ring (R338 to R340).
-/

namespace Sys2Proof.Machine
open Sys2Proof

/-! ### Generic addresses -/

/-- What a well-formed generic address names (R164). -/
inductive Aperture where
  | global (va : Nat)
  | local_ (off : Nat)
  | tile (cluster : Bool) (handle off : Nat)
  deriving DecidableEq, Repr

/-- The aperture of a generic address; none when it is malformed (R164). -/
def aperture (a : DWord) : Option Aperture :=
  let x := a.toNat
  let top := x / 2 ^ 60
  if top = 0 then if x < 2 ^ 48 then some (.global x) else none
  else if top = 0xC then if x % 2 ^ 60 < 65536 then some (.local_ (x % 65536)) else none
  else if top = 0xD || top = 0xE then
    if x / 2 ^ 56 % 16 = 0 then some (.tile (top == 0xE) (x / 2 ^ 24 % 2 ^ 32) (x % 2 ^ 24)) else none
  else none

/-- The generic address of a byte of a tile (R191). -/
def tileAddr (handle off : Nat) : DWord :=
  BitVec.ofNat 64 ((0xD + handle / 2 ^ 31) * 2 ^ 60 + handle * 2 ^ 24 + off)

/-- Fields of a tile handle (R165). -/
def handleLvl (h : Nat) : Nat := h / 2 ^ 31
def handleUnit (h : Nat) : Nat := h / 2 ^ 22 % 512
def handleIndex (h : Nat) : Nat := h % 1024

/-- A storage owner is the group's piece or the group itself (R79, R32). -/
def Group.owns (g : Group) (gid : Nat) : Owner → Bool
  | .piece p => g.pieces.contains p
  | .task t => g.task && t == gid

/-- Order 3 of R166 for a tile: the entry a handle names for a lane of the group, if the lane may use it. -/
def State.tileFor (s : State) (gid : Nat) (g : Group) (cluster : Bool) (h : Nat) : Option Tile :=
  let lvl := handleLvl h == 1
  let unit := handleUnit h
  if lvl != cluster || h / 1024 % 4096 != 0 || (!lvl && 256 ≤ handleIndex h) ||
      unit != (if lvl then clusterOf g.core else g.core) then none
  else match tblFind s.tiles h with
    | some t => if g.owns gid t.owner then some t else none
    | none => none

/-! ### Translation -/

/-- Why a translation fails (R175): PAGE in a stage, ACCESS, or POISON of a table at a system address. -/
inductive XFault where
  | page (stage page : Nat)
  | access
  | poison (at_ : Nat)
  /-- the walker must wait for a new budget period (R62) -/
  | busy
  deriving DecidableEq, Repr

/-- What an access needs of a page (R174). -/
structure Need where
  r : Bool := false
  w : Bool := false
  x : Bool := false
  deriving DecidableEq, Repr

/-- Whose translation it is: leaf, interface, the cluster whose cache serves it (none for the hub), and the mode. -/
structure Xlate where
  leaf : Nat
  vi : Nat
  cluster : Option Nat
  mode : Mode
  deriving DecidableEq, Repr

/-- A CXL address that a port decodes: its link is up, and its expander has the capacity (R313). -/
def State.cxlReaches (s : State) (a : Nat) : Bool :=
  let x := a - 0x20000000000
  !s.cxlDown.contains (x / 0x20000000000) && decide (x % 0x20000000000 < Config.cxlCapacity (x / 0x20000000000))

/-- A system address is populated and, on the package, lies in a channel of the leaf's top-level partition (R170,
R175), one that was not left out at boot (R384). -/
def State.reaches (s : State) (leaf a : Nat) : Bool :=
  if a < 0x18000000000 then (s.part (topOf leaf)).channels.getLsbD (a / 0x180000000) && !s.channelsOut.contains (a / 0x180000000)
  else if a < 0x20000000000 then false
  else if a < 0xA0000000000 then s.cxlReaches a
  else if a < 0x100000000000 then false
  else decide (a < 2 ^ 48)

/-- Permission bits of a table entry (R174). -/
def pteV (e : Nat) : Bool := bitAt e 0
def pteR (e : Nat) : Bool := bitAt e 1
def pteW (e : Nat) : Bool := bitAt e 2
def pteX (e : Nat) : Bool := bitAt e 3
def pteU (e : Nat) : Bool := bitAt e 4
/-- The output page address of an entry. -/
def ptePPN (e : Nat) : Nat := e / 4096 % 2 ^ 36 * 4096
/-- The entry points to a table (R173). -/
def ptePointer (e : Nat) : Bool := !pteR e && !pteW e && !pteX e

/-- The entry has a reserved breach at its level (R174). -/
def pteBreach (stage level e : Nat) : Bool :=
  e / 2 ^ 48 != 0 || e / 1024 % 4 != 0 || e / 32 % 8 != 0 || (stage == 2 && pteU e) || (pteW e && !pteR e) ||
    (if ptePointer e then e / 256 % 4 != 0 || level == 0
     else 2 ≤ e / 256 % 4 || level == 3 || ptePPN e % 2 ^ (12 + 9 * level) != 0)

/-- What a leaf entry grants. -/
def pteGrants (n : Need) (e : Nat) : Bool := (!n.r || pteR e) && (!n.w || pteW e) && (!n.x || pteX e)

/-- The cached entry of a walk, if the cluster holds it (R176). -/
def State.cached (s : State) (x : Xlate) (stage level input : Nat) : Option Nat :=
  match x.cluster with
  | none => none
  | some c =>
    (s.tlb.find? (fun e => e.cluster = c && e.leaf = x.leaf && (stage == 2 || e.vi = x.vi) && e.stage = stage &&
      e.level = level && e.input = input / 2 ^ (12 + 9 * level))).map (fun e => e.value.toNat)

/-- A table entry as an entry of the cache. -/
def cacheEntry (x : Xlate) (stage level input a v : Nat) : TlbEntry :=
  { cluster := x.cluster.getD 0, leaf := x.leaf, vi := x.vi, stage := stage, level := level,
    input := input / 2 ^ (12 + 9 * level), at_ := a, value := BitVec.ofNat 64 v }

/-- A table entry read at a system address: poisoned tables and tables the leaf does not reach fault (R175). -/
def State.readEntry (s : State) (x : Xlate) (stage level input a : Nat) : Except XFault Nat :=
  match s.cached x stage level input with
  | some v => .ok v
  | none =>
    if x.cluster.isSome && s.exhausted x.leaf 5 then .error .busy
    else if !s.reaches x.leaf a then .error .access
    else if s.poison (.sys a) || s.hardNext.contains (a / 128) then .error (.poison a)
    else .ok (s.hubRead a 8)

/-- Stage 2 from the table at system address `tbl` (R173): the leaf entry, its level, and the entries read. -/
def State.walk2 (s : State) (x : Xlate) (gpa : Nat) : Nat → Nat → Except XFault (Nat × Nat × List TlbEntry)
  | 0, tbl => do
    let a := tbl + gpa / 2 ^ 12 % 512 * 8
    let e ← s.readEntry x 2 0 gpa a
    if !pteV e then .error (.page 2 (gpa / 4096))
    else if pteBreach 2 0 e then .error .access
    else .ok (e, 0, [cacheEntry x 2 0 gpa a e])
  | lvl + 1, tbl => do
    let a := tbl + gpa / 2 ^ (12 + 9 * (lvl + 1)) % 512 * 8
    let e ← s.readEntry x 2 (lvl + 1) gpa a
    if !pteV e then .error (.page 2 (gpa / 4096))
    else if pteBreach 2 (lvl + 1) e then .error .access
    else if ptePointer e then
      let (l, k, es) ← s.walk2 x gpa lvl (ptePPN e)
      .ok (l, k, cacheEntry x 2 (lvl + 1) gpa a e :: es)
    else .ok (e, lvl + 1, [cacheEntry x 2 (lvl + 1) gpa a e])

/-- Output of a leaf entry at a level. -/
def leafOut (e lvl a : Nat) : Nat := ptePPN e + a % 2 ^ (12 + 9 * lvl)

/-- Guest physical to system physical (R172, R173). -/
def State.stage2 (s : State) (x : Xlate) (n : Need) (gpa : Nat) : Except XFault (Nat × List TlbEntry) := do
  let (e, lvl, es) ← s.walk2 x gpa 3 (s.part x.leaf).s2root
  if !pteGrants n e then .error (.page 2 (gpa / 4096))
  else
    let a := leafOut e lvl gpa
    if s.reaches x.leaf a then .ok (a, es) else .error .access

/-- Stage 1 from the table at guest physical `tbl`: each table address goes through stage 2 with R (R173). -/
def State.walk1 (s : State) (x : Xlate) (va : Nat) : Nat → Nat → Except XFault (Nat × Nat × List TlbEntry)
  | 0, tbl => do
    let (a, es2) ← s.stage2 x { r := true } (tbl + va / 2 ^ 12 % 512 * 8)
    let e ← s.readEntry x 1 0 va a
    if pteV e && pteBreach 1 0 e then .error .access
    else if !pteV e then .error (.page 1 (va / 4096))
    else .ok (e, 0, es2 ++ [cacheEntry x 1 0 va a e])
  | lvl + 1, tbl => do
    let (a, es2) ← s.stage2 x { r := true } (tbl + va / 2 ^ (12 + 9 * (lvl + 1)) % 512 * 8)
    let e ← s.readEntry x 1 (lvl + 1) va a
    if pteV e && pteBreach 1 (lvl + 1) e then .error .access
    else if !pteV e then .error (.page 1 (va / 4096))
    else if ptePointer e then
      let (l, k, es) ← s.walk1 x va lvl (ptePPN e)
      .ok (l, k, es2 ++ cacheEntry x 1 (lvl + 1) va a e :: es)
    else .ok (e, lvl + 1, es2 ++ [cacheEntry x 1 (lvl + 1) va a e])

/-- Virtual to guest physical: off when SROOT.EN is 0, and not applied in hypervisor mode (R172, R338). -/
def State.stage1 (s : State) (x : Xlate) (n : Need) (va : Nat) : Except XFault (Nat × List TlbEntry) :=
  let root := (s.vi x.vi).sroot.toNat
  if x.mode = .hypervisor || !bitAt root 0 then .ok (va, [])
  else do
    let (e, lvl, es) ← s.walk1 x va 3 (root / 4096 % 2 ^ 36 * 4096)
    if !pteGrants n e || (x.mode = .user && !pteU e) then .error .access
    else .ok (leafOut e lvl va, es)

/-- A virtual address to its system address, with the table entries used (R172 to R175); one of more than 48 bits is no
GLOBAL address (R164). -/
def State.translate (s : State) (x : Xlate) (n : Need) (va : Nat) : Except XFault (Nat × List TlbEntry) :=
  if 2 ^ 48 ≤ va then .error .access
  else do
    let (gpa, es1) ← s.stage1 x n va
    let (a, es2) ← s.stage2 x n gpa
    .ok (a, es1 ++ es2)

/-- Entries of a walk that its cluster does not hold: those that its walker must read (R176). -/
def State.newEntries (s : State) (es : List TlbEntry) : List TlbEntry := es.filter (fun e => !s.tlb.contains e)

/-- The lines of table entries that a walker reads meet their errors (R182). -/
def State.meetEntries (s : State) (launch leaf : Nat) (es : List TlbEntry) : State :=
  es.foldl (fun s e => s.meet launch leaf (.sys e.at_)) s

/-- A walk of the hub, which keeps no entries: every entry read counts, and meets its errors (R62, R182). -/
def State.hubWalk (s : State) (launch leaf : Nat) (es : List TlbEntry) : State :=
  (s.meetEntries launch leaf es).spend leaf 5 es.length

/-- A walk that used entries the cluster does not hold is noted, to install them when it completes, with the page it led to
(R176, R178); its reads count, and meet their errors (R62, R182). -/
def State.noteWalk (s : State) (x : Xlate) (launch va : Nat) (es : List TlbEntry) (out : Option Nat) : State :=
  match x.cluster with
  | none => s
  | some c =>
    let new := s.newEntries es
    if new.isEmpty || s.walks.any (fun w => w.2.cluster = c && w.2.leaf = x.leaf && w.2.vi = x.vi &&
        w.2.addr / 4096 = va / 4096) then s
    else
      let w : Walk :=
        { cluster := c, leaf := x.leaf, vi := x.vi, mode := x.mode, addr := va, read := new, stale := false, out := out }
      let s := { s.bump with walks := tblSet s.walks s.nextId w }
      (s.meetEntries launch x.leaf new).spend x.leaf 5 new.length

/-- Translation as the lanes of a group make it in a mode (R172). -/
def Group.xlate (g : Group) (m : Mode) : Xlate := ⟨g.leaf, g.vi, some (clusterOf g.core), m⟩
/-- Translation as the front end makes it for an interface: both stages, with a supervisor's rules (R172). -/
def frontX (leaf vi : Nat) : Xlate := ⟨leaf, vi, none, .supervisor⟩

/-- The places of `n` bytes that the front end accesses, if all of them translate (R37, R172), with the table entries of the pages
they lie in. -/
def State.frontReach (s : State) (leaf vi a : Nat) (m : Need) : Nat → Except XFault (List Loc × List TlbEntry)
  | 0 => .ok ([], [])
  | n + 1 => do
    let (p, es) ← s.translate (frontX leaf vi) m a
    let (ls, r) ← s.frontReach leaf vi (a + 1) m n
    .ok (.sys p :: ls, if n = 0 || (a + 1) % 4096 = 0 then es ++ r else r)

/-- Bytes read by the front end: none where a byte fails either translation stage or meets an uncorrectable error
(R31, R44, R34). -/
def State.frontLoad (s : State) (leaf vi launch a n : Nat) : State × Option (List Byte) :=
  match s.frontReach leaf vi a { r := true } n with
  | .error (.poison p) => (s.meet launch leaf (.sys p), none)
  | .error _ => (s, none)
  | .ok (ls, es) =>
    let s := ls.foldl (fun s l => s.meet launch leaf l) (s.hubWalk launch leaf es)
    if ls.any s.poison then (s, none) else (s, some (ls.map (fun l => (s.readByte hub l).1)))

/-- A write by the front end enters PB as one write (R277, R287); the number of the write. -/
def State.frontWrite (s : State) (leaf vi launch a : Nat) (bs : List Byte) : Except XFault (State × Nat) := do
  let (ls, es) ← s.frontReach leaf vi a { w := true } bs.length
  let s := s.hubWalk launch leaf es
  let w : Write := { id := s.nextId, gid := 0, lane := 0, launch := launch, core := none, level := 4, bytes := ls.zip bs }
  .ok (s.bump.addWrite w, s.nextId)

/-! ### Checking an access -/

/-- The fate of one lane's address (R166): its place, a trap, a page fault in a stage; or a walk that waits (R62). -/
inductive Check where
  | ok (l : Loc)
  | trap (cause : BitVec 8)
  | page (stage page : Nat)
  | busy
  deriving DecidableEq, Repr

/-- Orders 1 to 5 of R166 for one lane: malformed, alignment, LOCAL and tile bounds, translation. The second part holds
the table entries used. -/
def State.checkAccess (s : State) (gid : Nat) (g : Group) (m : Mode) (lane : Nat) (addr : DWord) (size align : Nat)
    (n : Need) : Check × List TlbEntry :=
  match aperture addr with
  | none => (.trap causeAccess, [])
  | some ap =>
    if addr.toNat % align ≠ 0 then (.trap causeAlign, [])
    else match ap with
      | .local_ off =>
        let cap := match s.launchOf g with
          | some l => l.localSize
          | none => 0
        if cap < off + size then (.trap causeAccess, []) else (.ok (.loc gid lane off), [])
      | .tile cl h off =>
        match s.tileFor gid (g.asLane lane) cl h with
        | none => (.trap causeAccess, [])
        | some t => if t.size < off + size then (.trap causeExtent, []) else (.ok (.tile h off), [])
      | .global va =>
        match s.translate (g.xlate m) n va with
        | .ok (a, es) => (.ok (.sys a), es)
        | .error .access => (.trap causeAccess, [])
        | .error (.poison _) => (.trap causePoison, [])
        | .error (.page st p) => (.page st p, [])
        | .error .busy => (.busy, [])

/-! ### Page requests -/

/-- The access code of a page request: read, write, fetch (R340). -/
def Need.code (n : Need) : BitVec 8 := BitVec.ofNat 8 (n.r.toNat + 2 * n.w.toNat + 4 * n.x.toNat)

/-- The access code of the access that a page fault in a stage stops: R for a stage-1 table read that fails in stage 2
(R338). -/
def State.pageCode (s : State) (x : Xlate) (n : Need) (stage va : Nat) : BitVec 8 :=
  if stage = 2 then match s.stage1 x n va with
    | .error _ => 1
    | .ok _ => n.code
  else n.code

/-- The bytes of a page request record (R340). -/
def pageRecord (r : PageReq) : List Byte :=
  leBytes 4 r.tag.toNat ++ [r.acc, if r.again then 1 else 0] ++ leBytes 2 0 ++ leBytes 8 (r.page * 4096) ++
    leBytes 8 r.gid ++ leBytes 8 0

/-- A stage-1 request is written to its interface's ring when there is room (R339, R340). -/
def State.writeRequest (s : State) (rid : Nat) : State :=
  match tblFind s.pageReqs rid with
  | none => s
  | some r =>
    let v := s.vi r.vi
    if r.written || r.stage ≠ 1 || !ringOn v.prctl || (v.prtail - v.prhead).toNat ≥ ringSize v.prctl then s
    else
      let a := v.prbase.toNat / 32 * 32 + v.prtail.toNat % ringSize v.prctl * 32
      match s.frontWrite r.leaf r.vi 0 a (pageRecord r) with
      | .ok (s, _) =>
        let s := s.modVI r.vi (fun v => ({ v with prtail := v.prtail + 1 }).send (ringVec v.prctl))
        { s with pageReqs := tblSet s.pageReqs rid { r with written := true } }
      | .error _ => s

/-- Outstanding requests of a leaf, and of an interface (R339). -/
def State.leafReqs (s : State) (leaf : Nat) : Nat := (s.pageReqs.filter (fun p => p.2.leaf = leaf)).length
def State.viReqs (s : State) (vi : Nat) : Nat := (s.pageReqs.filter (fun p => p.2.vi = vi)).length

/-- Places a fault by R339: attached to an outstanding entry, given an entry, or left unposted. `fresh` faults of a
restored group are never attached (R354). The answer says whether it was placed. -/
def State.placeFault (s : State) (f : PageWait) (fresh : Bool) : State × Option (BitVec 32) :=
  let same (p : Nat × PageReq) : Bool :=
    p.2.leaf = f.leaf && p.2.stage = f.stage && p.2.page = f.page && (f.stage == 2 || p.2.vi = f.vi)
  match (if fresh then none else s.pageReqs.find? same) with
  | some (rid, r) =>
    let r := match f.op with
      | none => { r with lanes := r.lanes ++ [(f.gid, f.lane)], again := r.again || f.again }
      | some o => { r with ops := r.ops ++ [(f.gid, o)] }
    ({ s with pageReqs := tblSet s.pageReqs rid r }, some r.tag)
  | none =>
    if s.viReqs f.vi = 0 || s.leafReqs f.leaf < (s.part f.leaf).prshare then
      let rid := s.nextId
      let r : PageReq :=
        { leaf := f.leaf, vi := f.vi, stage := f.stage, page := f.page, acc := f.acc, user := f.user, tag := s.nextTag,
          gid := f.gid, again := f.again, written := false,
          lanes := match f.op with | none => [(f.gid, f.lane)] | some _ => [],
          ops := match f.op with | none => [] | some o => [(f.gid, o)] }
      let s := { s.bump with pageReqs := tblSet s.pageReqs rid r, nextTag := s.nextTag + 1 }
      let s := match s.group f.gid with
        | some g => s.countEvent g.core 7 1
        | none => s
      (s.writeRequest rid, some r.tag)
    else (s, none)

/-- The parked-fault record of a lane (R350). -/
def faultRecord (stage2 posted : Bool) (tag : BitVec 32) : BitVec 64 :=
  BitVec.ofNat 64 (tag.toNat + 2 ^ 32 + 2 ^ 33 * stage2.toNat + 2 ^ 34 * posted.toNat)

/-- A fault posted, or kept unposted and counted (R339). -/
def State.raiseFault (s : State) (f : PageWait) (fresh : Bool) : State × Option (BitVec 32) :=
  match s.placeFault f fresh with
  | (s, some t) => (s, some t)
  | (s, none) => ({ s.countErr f.leaf 4 with pageWaits := s.pageWaits ++ [f] }, none)

/-- A lane parks with reason PAGE at its sequence's address (R338): stage, page, need, the address as xval of a failed
service. On an interface whose ring is off, a stage-1 fault traps PAGE at once; the answer is then false. -/
def State.parkPage (s : State) (gid lane : Nat) (m : Mode) (stage page : Nat) (n : Need) (addr : DWord) : State × Bool :=
  match s.group gid with
  | none => (s, false)
  | some g =>
    if (stage == 1 && !ringOn (s.vi g.vi).prctl) || (g.lane lane).failing then (s, false)
    else
      let l := g.lane lane
      let again := l.restored || l.faulted.contains (stage, page)
      let fresh := l.restored
      let f : PageWait := { leaf := g.leaf, vi := g.vi, stage := stage, page := page, acc := s.pageCode (g.xlate m) n stage addr.toNat,
                            user := decide (m = .user), gid := gid, lane := lane, op := none, again := again,
                            fresh := fresh }
      let (s, tag) := s.raiseFault f fresh
      (s.modLane gid lane (fun l =>
        { l with park := .page, faultAddr := addr, restored := false,
                 faulted := if l.faulted.contains (stage, page) then l.faulted else l.faulted ++ [(stage, page)],
                 fault := faultRecord (stage == 2) tag.isSome (tag.getD 0) }), true)

end Sys2Proof.Machine
end

