-- ==== Sys2Proof/Machine/Operands.lean ====
section
/-!
DEFINITION. Operand forms: what an issue makes of the slots of its instruction (R88, R89, the steps of R96 and R101),
the tags its sources carry (R104, R106) and the check of R106, the values of V, pair, K, P and streamed slots in each
lane, the registers an instruction names that an outstanding operation has yet to write (R124), and the writing of a
result (R106).
-/

namespace Sys2Proof.Machine
open Sys2Proof

/-! ### Tags -/

/-- Tag code of R206. -/

def Tag.num : Tag → Nat
  | .raw => 0
  | .i32 => 1
  | .n32 => 2
  | .i64 => 3
  | .n64 => 4
  | .f32 => 5
  | .f64 => 6
  | .bf16x2 => 7
  | .f16x2 => 8
  | .tb8 => 9
  | .tb6 => 10
  | .tb4 => 11
  | .i8x4 => 12
  | .n8x4 => 13

/-- The tag with a code; codes 14 and 15 are never used (R206). -/

def Tag.ofCode : Nat → Tag
  | 1 => .i32
  | 2 => .n32
  | 3 => .i64
  | 4 => .n64
  | 5 => .f32
  | 6 => .f64
  | 7 => .bf16x2
  | 8 => .f16x2
  | 9 => .tb8
  | 10 => .tb6
  | 11 => .tb4
  | 12 => .i8x4
  | 13 => .n8x4
  | _ => .raw

/-- The tag recorded in a pattern (R202). -/

def Pattern.tag (w : Pattern) : Tag := Tag.ofCode (w.w2.toNat / 2 ^ 28 % 16)

end Sys2Proof.Machine

namespace Sys2Proof
open Sys2Proof.Machine

/-! ### Slots -/

/-- The V or T register a slot names in a pass that steps V fields by `n` and T fields by `t` registers (R96, R101). -/

def Opd.step (o : Opd) (n t : Nat) : Opd :=
  match o with
  | .v r => .v (r + n)
  | .pair r => .pair (r + 2 * n)
  | .t r => .t (r + t)
  | o => o

/-- A slot whose width its tag decides, at a width. -/

def Opd.atWidth (o : Opd) (wide : Bool) : Opd :=
  match o with
  | .byTag r => if wide then .pair r else .v r
  | o => o

/-- The first register of a slot. -/

def Opd.num : Opd → Nat
  | .v n => n
  | .pair n => n
  | .byTag n => n
  | .k n _ => n
  | .p n => n
  | .t n => n
  | .w n => n
  | .f n => n
  | .z n => n
  | .none => 0
  | .imm => 0

/-- A FORMAT prefix marks the slot (R104). -/

def Prefixes.formatted (p : Prefixes) (sl : SlotName) : Option Tag :=
  match p.format with
  | some (t, m) => if slotIn sl m then some (Tag.ofCode t.toNat) else none
  | none => none

/-- The stream pattern register bound to a slot (R103). -/

def Prefixes.streamed (p : Prefixes) (sl : SlotName) : Option Nat :=
  (p.streams.find? (fun x => x.2 = sl)).map (fun x => x.1.toNat)

/-- Slots whose width follows a tag or a slot's FMT: whether the slot is a pair under tag `t` (R228, R232 to R234), or for
`ored` under the format code of its slot (R310). -/

def Instr.wideByTag (i : Instr) (t : Tag) (fmt : Nat) : Bool :=
  match i with
  | .fclass _ _ _ => decide (t = .f64)
  | .cvtFI _ _ _ _ => decide (t = .i64 ∨ t = .n64)
  | .cvtIF _ _ _ _ => decide (t = .f64)
  | .cvtFF _ _ _ _ _ => decide (t = .f64)
  | .ored _ _ _ => fmt == 3 || fmt == 4 || fmt == 6
  | _ => false

/-- A 32-bit value of an operand in a lane; a K register supplies its low half (R89). -/

def Opd.read32 (o : Opd) (g : Group) (m : Mode) (lane : Nat) : Word :=
  match o with
  | .v n => g.vGet m n lane
  | .pair n => g.vGet m n lane
  | .k n _ => BitVec.ofNat 32 (g.kGet n).toNat
  | _ => 0

/-- A 64-bit value of an operand in a lane; a 32-bit register is zero-extended. -/

def Opd.read64 (o : Opd) (g : Group) (m : Mode) (lane : Nat) : DWord :=
  match o with
  | .v n => BitVec.ofNat 64 (g.vGet m n lane).toNat
  | .pair n => g.dGet m n lane
  | .k n _ => g.kGet n
  | _ => 0

/-- The group with the destination slot of a lane written (R106). -/

def Opd.write (o : Opd) (g : Group) (m : Mode) (lane : Nat) (x : DWord) : Group :=
  match o with
  | .v n => g.vPut m n lane (BitVec.ofNat 32 x.toNat)
  | .pair n => g.dPut m n lane x
  | .p n => g.pPut n lane (decide (x ≠ 0))
  | _ => g

/-- The group with the tag of the destination slot set (R106); a P, K or T register carries no tag. -/

def Opd.retag (o : Opd) (g : Group) (m : Mode) (t : Tag) : Group :=
  match o with
  | .v n => g.setTag m n t
  | .pair n => (g.setTag m n t).setTag m (n + 1) t
  | _ => g

/-- Code of a slot in the xval of FORMAT (R110). -/

def SlotName.num : SlotName → Nat
  | .a => 0
  | .b => 1
  | .c => 2
  | .d => 3

end Sys2Proof

namespace Sys2Proof.Machine
open Sys2Proof

/-- The tag a slot carries: that of FORMAT, of the stream, or of its register; RAW for a K register or an immediate. -/

def Group.slotTag (g : Group) (m : Mode) (p : Prefixes) (sl : SlotName) (o : Opd) : Tag :=
  match p.formatted sl with
  | some t => t
  | none =>
    match p.streamed sl with
    | some w => match tblFind g.w w with
      | some pat => pat.tag
      | none => .raw
    | none =>
      match o with
      | .v n => g.tag m n
      | .pair n => g.tag m n
      | .byTag n => g.tag m n
      | _ => .raw

/-- FMT of reduction slot `n` of a launch record (R27). -/

def Launch.slotFmt (l : Launch) (n : Nat) : Nat := fieldAt l.record (0x178 + 16 * n + 9) 1

/-- FMT of the slot an `ored` names. -/

def State.oredFmt (s : State) (g : Group) (i : Instr) : Nat :=
  match i with
  | .ored d _ _ => match s.launchOf g with
    | some l => l.slotFmt d.toNat
    | none => 0
  | _ => 0

/-- The slots of an instruction with the widths of this issue, and stepped as its pass says (R96, R101). A slot whose width
its tag decides steps as the register encoded does, and has the width that the tag of the register reached gives (R110,
R222; DEDUCED, log entry 87). -/

def State.slots (s : State) (g : Group) (iss : Issue) (i : Instr) : Opnds :=
  let o := i.opnds
  let fmt := s.oredFmt g i
  let wide (sl : SlotName) (r : Nat) : Bool := i.wideByTag (g.slotTag iss.mode iss.pfx sl (.byTag r)) fmt
  let one (sl : SlotName) (n : Nat) : Opd :=
    match o.slot sl with
    | .byTag r =>
      let r' := r + (if wide sl r then 2 * n else n)
      (Opd.byTag r').atWidth (wide sl r')
    | x => x.step n iss.stepT
  { d := one .d iss.stepD, a := one .a iss.stepA, b := one .b iss.stepB, c := one .c iss.stepC }

/-! ### What a meaning is given -/

/-- One issue as its meaning sees it: the slots of this pass, the tags of the sources, the guard-active lanes that no
stream fault has taken out, and the streams' elements. -/
structure Ctx where
  iss : Issue
  o : Opnds
  ta : Tag
  tb : Tag
  tc : Tag
  active : List Nat
  /-- values a streamed source slot supplies, by lane -/
  sa : Option (Tbl Word)
  sb : Option (Tbl Word)
  sc : Option (Tbl Word)
  /-- places a streamed D slot writes, by lane -/
  sd : Option (List (Nat × Loc))
  deriving DecidableEq, Repr

/-- The mode of the issue set. -/

def Ctx.m (c : Ctx) : Mode := c.iss.mode

/-- The group. -/

def Ctx.gid (c : Ctx) : Nat := c.iss.gid

/-- Slot A, B or C in a lane, 32 bits. -/

def Ctx.a32 (c : Ctx) (g : Group) (lane : Nat) : Word :=
  match c.sa with
  | some t => tblGet t 0 lane
  | none => c.o.a.read32 g c.m lane

def Ctx.b32 (c : Ctx) (g : Group) (lane : Nat) : Word :=
  match c.sb with
  | some t => tblGet t 0 lane
  | none => c.o.b.read32 g c.m lane

def Ctx.c32 (c : Ctx) (g : Group) (lane : Nat) : Word :=
  match c.sc with
  | some t => tblGet t 0 lane
  | none => c.o.c.read32 g c.m lane

/-- Slot A, B or C in a lane at the width it has in this issue. -/

def Ctx.a64 (c : Ctx) (g : Group) (lane : Nat) : DWord :=
  match c.sa with
  | some t => BitVec.ofNat 64 (tblGet t 0 lane).toNat
  | none => c.o.a.read64 g c.m lane

def Ctx.b64 (c : Ctx) (g : Group) (lane : Nat) : DWord :=
  match c.sb with
  | some t => BitVec.ofNat 64 (tblGet t 0 lane).toNat
  | none => c.o.b.read64 g c.m lane

def Ctx.c64 (c : Ctx) (g : Group) (lane : Nat) : DWord :=
  match c.sc with
  | some t => BitVec.ofNat 64 (tblGet t 0 lane).toNat
  | none => c.o.c.read64 g c.m lane

/-- The 64-bit K register `i` of a slot that names several. -/

def Ctx.kA (c : Ctx) (g : Group) (i : Nat) : DWord := g.kGet (c.o.a.num + i)

/-- The K register of slot B. -/

def Ctx.kB (c : Ctx) (g : Group) : DWord := g.kGet c.o.b.num

/-- The lowest guard-active lane. -/

def Ctx.lowest (c : Ctx) : Option Nat := c.active.head?

/-! ### The tag check -/

/-- The tags one V operand carries: both registers of a pair (R106), or the one that FORMAT or the stream gives. -/

def Group.tagsOf (g : Group) (m : Mode) (p : Prefixes) (sl : SlotName) (o : Opd) : List Tag :=
  match o with
  | .v _ => [g.slotTag m p sl o]
  | .pair n => if (p.formatted sl).isSome then [g.slotTag m p sl o] else [g.tag m n, g.tag m (n + 1)]
  | _ => []

/-- The xval of a failing tag check of one slot, whose accepted tags are `ok`, the first the required one (R106,
R110). Of a pair, the tag of the first register that fails is reported, the low one first; of a slot that FORMAT marks, the
tag that the slot is treated as carrying (DESIGN CHOICE, log entry 96). A stream without a pattern carries no tag. -/

def Group.slotFault (g : Group) (m : Mode) (p : Prefixes) (sl : SlotName) (o : Opd) (ok : List Tag) : Option DWord :=
  let unset := match p.streamed sl with
    | some w => (tblFind g.w w).isNone && (p.formatted sl).isNone
    | none => false
  if unset then none
  else match (g.tagsOf m p sl o).find? (fun t => !ok.contains t) with
    | some t => some (BitVec.ofNat 64 (t.num + 16 * (ok.headD .raw).num + 256 * sl.num))
    | none => none

/-! ### Registers an outstanding operation has yet to write -/

/-- Tag keys of the V registers an operation has yet to write (R124). -/

def OpKind.writesV : OpKind → List Nat
  | .load d wide _ (l :: _) => if wide then [tagKey l.mode d, tagKey l.mode (d + 1)] else [tagKey l.mode d]
  | .urn (some d) wide _ ls =>
    match ls.find? (fun l => !l.landed) with
    | some l => if wide then [tagKey l.mode d, tagKey l.mode (d + 1)] else [tagKey l.mode d]
    | none => []
  | _ => []

/-- Lanes in which an operation has yet to write V registers. -/

def OpKind.writesLanes : OpKind → List Nat
  | .load _ _ _ ls => ls.map (·.lane)
  | .urn _ _ _ ls => (ls.filter (fun l => !l.landed)).map (·.lane)
  | _ => []

/-- K registers an operation has yet to write. -/

def OpKind.writesK : OpKind → List Nat
  | .ldk kd _ => [kd]
  | .balloc kd _ _ _ => [kd]
  | .matrix m => match m.act with
    | .wbal _ => [m.kd]
    | .mstat => [m.kd]
    | _ => []
  | .asnStat kd => [kd]
  | .fabric f _ _ _ _ _ => match f with
    | .frdK kd => [kd]
    | .fatom kd _ _ => [kd]
    | .fstat kd => [kd]
    | .bopen kd _ => [kd]
    | .bstat kd _ => [kd]
    | _ => []
  | _ => []

/-- The slot names a register that an outstanding operation has yet to write, or a pending T register (R124, R189,
R194). -/

def Group.awaited (g : Group) (m : Mode) (o : Opd) : Bool :=
  match o with
  | .v n => g.ops.any (fun p => !p.ended && p.kind.writesV.contains (tagKey m n))
  | .pair n => g.ops.any (fun p => !p.ended &&
      (p.kind.writesV.contains (tagKey m n) || p.kind.writesV.contains (tagKey m (n + 1))))
  | .k n count => g.ops.any (fun p => !p.ended && p.kind.writesK.any (fun k => decide (n ≤ k ∧ k < n + count)))
  | .t n => decide ((g.tGet n).handle = 0xFFFFFFFE)
  | _ => false

/-- The group with only those operations outstanding that have yet to write a V register of one of these lanes. -/

def Group.toward (g : Group) (ls : List Nat) : Group :=
  { g with ops := g.ops.filter (fun p => ls.any (fun i => p.kind.writesLanes.contains i)) }

end Sys2Proof.Machine
end

