-- ==== Sys2Proof/Machine/Flags.lean ====
section
/-!
DEFINITION. Flag computations: which exception flags a launch traps (R16, R216), a lane's sticky flags (R215), the
remote-flags word of a group (R307), and the range a saturating integer result is held to (R100, R144).
-/

namespace Sys2Proof.Machine
open Sys2Proof

/-- The flags a launch record enables for the FP trap: bit 8 + i of FLAGS enables bit i (R16, R215). -/
def Launch.trapFlags (l : Launch) : Flags := BitVec.ofNat 5 (l.recFlags / 256)

/-- FTZ of a launch (R16). -/
def Launch.ftz (l : Launch) : Bool := bitAt l.recFlags 4

/-- The flags enabled for a group. -/
def State.trapFlags (s : State) (g : Group) : Flags :=
  match s.launchOf g with
  | some l => l.trapFlags
  | none => 0

/-- FTZ for a group. -/
def State.ftz (s : State) (g : Group) : Bool :=
  match s.launchOf g with
  | some l => l.ftz
  | none => false

/-- An instruction that would raise `fl` traps FP when some flag of it is enabled (R216). -/
def fpTraps (enabled fl : Flags) : Bool := decide (enabled &&& fl ≠ 0)

/-- The xval of an FP trap: every flag the instruction would have raised, enabled or not (R216). -/
def fpVal (fl : Flags) : DWord := BitVec.ofNat 64 fl.toNat

/-- A lane's sticky flags with those of an instruction it completes (R215). -/
def Lane.raise (l : Lane) (fl : Flags) : Lane := { l with flags := l.flags ||| fl }

/-- A lane's sticky flags with some cleared (R231). -/
def Lane.clearFlags (l : Lane) (fl : Flags) : Lane := { l with flags := l.flags &&& ~~~fl }

/-- An integer tag is signed (R144). -/
def Tag.signed : Tag → Bool
  | .i32 => true
  | .i64 => true
  | .i8x4 => true
  | _ => false

/-- The integer range of a width and signedness (R144). -/
def intLo (signed : Bool) (w : Nat) : Int := if signed then -(2 ^ (w - 1) : Nat) else 0
def intHi (signed : Bool) (w : Nat) : Int := if signed then (2 ^ (w - 1) : Nat) - 1 else (2 ^ w : Nat) - 1

/-- A result outside the range wraps, or takes the nearest end under SAT (R100, R144): its bits. -/
def narrow (sat signed : Bool) (w : Nat) (x : Int) : DWord :=
  let y := if sat then min (max x (intLo signed w)) (intHi signed w) else x
  BitVec.ofNat 64 (y % (2 ^ w : Nat)).toNat

/-- The signedness SAT clamps to: that of a FORMAT tag on D when it is an integer tag of width `w`, and that of the natural
result tag otherwise (R144). -/
def satSigned (w : Nat) (nat : Tag) (fmt : Option Tag) : Bool :=
  match fmt with
  | none => nat.signed
  | some t =>
    if w = 32 then (if t = .i32 ∨ t = .n32 then t.signed else nat.signed)
    else (if t = .i64 ∨ t = .n64 then t.signed else nat.signed)

end Sys2Proof.Machine
end

