-- ==== Sys2Proof/Machine/Serve.lean ====
section
/-!
DEFINITION. How an instruction is served once its issue is in hand: the faults PRIV and FORMAT (R109, R110), the roles
(R127), what blocks it (R124, R125), its streams (R204), its own effect, the tag of its destination (R106), and the end
of the issue: traps taken, REPEAT passes, the move past the sequence, ages, counters (R86, R101, R119, R337, R363). Each
meaning gives an `Entry`, and `serve` does everything that instructions share.
-/

namespace Sys2Proof.Machine
open Sys2Proof

/-! ### Reading memory for a lane -/

/-- A read would find the line poisoned. -/
def State.wouldPoison (s : State) (l : Loc) : Bool :=
  match s.memLine l with
  | some n => s.linePoisoned n || s.hardNext.contains n
  | none => false

/-- A read by a lane of a group: the errors met, then the bytes and the writes read; a poisoned line reads as zeros, is
counted, and sets POISON (R182). -/
def State.laneRead (s : State) (gid : Nat) (g : Group) (before : Option Nat) (l : Loc) (n : Nat) : State × List Byte × List Nat :=
  let s := ((s.meet g.launch g.leaf l).accessEvent g.core l).moveUnits g.leaf l
  if s.poison l then
    ((s.countErr g.leaf 2).addFlags g.launch 32, List.replicate n 0, [])
  else
    let (bs, ws) := s.readBytes { g.agent gid with before := before } l n
    (s, bs, ws)

/-- The poison trap is enabled for a group (R182). -/
def Group.poisonTrap (g : Group) : Bool := bitAt g.trapen.toNat 0

/-- Orders 1 to 6 of R166 for a read, 1 to 5 for a write; a lane restored after its page request was answered with FAIL traps
PAGE (R354). -/
def State.checkLane (s : State) (gid : Nat) (g : Group) (m : Mode) (lane : Nat) (addr : DWord) (size align : Nat)
    (n : Need) : Check × List TlbEntry :=
  if (g.lane lane).failing then (.trap causePage, [])
  else match s.checkAccess gid g m lane addr size align n with
  | (.ok l, es) => if n.r && !n.w && g.poisonTrap && s.wouldPoison l then (.trap causePoison, es) else (.ok l, es)
  | r => r

/-- After the check of a lane's access: a walk that used entries its cluster does not hold is noted, and a table line
that failed the walk meets its error (R176, R182). -/
def State.noteCheck (s : State) (g : Group) (m : Mode) (addr : DWord) (n : Need) (r : Check × List TlbEntry) : State :=
  match r.1 with
  | .ok l => s.noteWalk (g.xlate m) g.launch addr.toNat r.2 (match l with
    | .sys a => some (a / 4096)
    | _ => none)
  | .trap c =>
    if c ≠ causePoison then s
    else match aperture addr with
    | some (.global va) => match s.translate (g.xlate m) n va with
      | .error (.poison a) => s.meet g.launch g.leaf (.sys a)
      | .ok (a, _) => if n.r && !n.w then s.meet g.launch g.leaf (.sys a) else s
      | _ => s
    | _ => s
  | .page _ _ => s
  | .busy => s

/-- A tile that blocks an instruction other than a copy (R168). -/
def State.tileHeld (s : State) (h : Nat) : Bool :=
  match tblFind s.tiles h with
  | some t => decide (t.state ≠ .ready)
  | none => false

/-- The place lies in a tile that blocks an instruction other than a copy (R168). -/
def State.tileBusy (s : State) (l : Loc) : Bool :=
  match l with
  | .tile h _ => s.tileHeld h
  | _ => false

/-- A generic address of a lane lies in such a tile (R168). -/
def State.addrBusy (s : State) (gid : Nat) (g : Group) (lane : Nat) (a : DWord) : Bool :=
  match aperture a with
  | some (.tile cl h off) =>
    match s.tileFor gid (g.asLane lane) cl h with
    | some t => decide (off < t.size) && decide (t.state ≠ .ready)
    | none => false
  | _ => false

/-! ### Retirement -/

/-- Operations that have ended leave in issue order within their class (R125): what stays, and the errors of those that
left (R394). -/
def retire : List Op → List Cls → List Op × List (Cls × PendErr)
  | [], _ => ([], [])
  | o :: os, held =>
    if o.ended && !held.contains o.cls then
      let (keep, errs) := retire os held
      (keep, match o.err with
        | some e => (o.cls, e) :: errs
        | none => errs)
    else
      let (keep, errs) := retire os (o.cls :: held)
      (o :: keep, errs)

/-- An error becomes pending unless its class holds one (R394). -/
def Group.addErr (g : Group) (c : Cls) (e : PendErr) : Group :=
  match c with
  | .st => { g with pendST := some (g.pendST.getD e) }
  | .cp => { g with pendCP := some (g.pendCP.getD e) }
  | .tx => { g with pendTX := some (g.pendTX.getD e) }
  | _ => g

/-- Every lane has exited or is absent. -/
def Group.allExited (g : Group) : Bool := allLanes.all (fun i => (g.lane i).absent || (g.lane i).exited)

/-- Ended operations retire; the image of a group whose last lane has exited and whose counters are zero is freed
(R125, R134). -/
def Group.settle (g : Group) : Group :=
  let (keep, errs) := retire g.ops []
  let g := errs.foldl (fun g e => g.addErr e.1 e.2) { g with ops := keep }
  if g.allExited && g.ops.isEmpty then { g with freed := true } else g

/-- The same for group `gid`. -/
def State.settle (s : State) (gid : Nat) : State := s.modGroup gid Group.settle

/-- An operation has ended, with the error it met. -/
def State.endOp (s : State) (gid op : Nat) (err : Option PendErr := none) : State :=
  (s.modOp gid op (fun o => { o with ended := true, err := err })).settle gid

/-! ### The end of an issue -/

/-- How one lane of an issue set ends the issue. -/
inductive LaneEnd where
  /-- past the sequence, or to the next REPEAT pass -/
  | past
  /-- to a header -/
  | goto (a : BitVec 48)
  /-- to the header of its LOOP block for the next loop pass (R138) -/
  | back
  /-- where its meaning has put it: parked, exited, returned from a trap -/
  | stay
  /-- a trap that resumes at the sequence -/
  | trap (cause : BitVec 8) (xval : DWord)
  /-- a trap that resumes past the sequence (R333) -/
  | trapPast (cause : BitVec 8) (xval : DWord)
  deriving DecidableEq, Repr

/-- The lane moves past the sequence (R86); leaving the block makes its loop pass 0 (R129). -/
def Lane.moveOn (l : Lane) (iss : Issue) : Lane :=
  if iss.next = iss.following then
    { l.setPasses iss.mode 0 0 with addr := BitVec.ofNat 48 iss.next, came := .header }
  else
    { l.setPasses iss.mode (l.ms iss.mode).loop 0 with addr := BitVec.ofNat 48 iss.next, came := .within }

/-- The lane completes this pass of its sequence (R101). -/
def Lane.pass (l : Lane) (iss : Issue) : Lane :=
  match iss.pfx.rep with
  | some (n, _) =>
    if iss.repPass + 1 < n then l.setPasses iss.mode (l.ms iss.mode).loop (BitVec.ofNat 6 (iss.repPass + 1))
    else l.moveOn iss
  | none => l.moveOn iss

/-- One lane's end. -/
def State.endLane (s : State) (iss : Issue) (i : Nat) (e : LaneEnd) : State :=
  match e with
  | .past => s.modLane iss.gid i (fun l => l.pass iss)
  | .goto a => s.modLane iss.gid i (fun l => { l.setPasses iss.mode 0 0 with addr := a, came := .header })
  | .back => s.modLane iss.gid i (fun l =>
      { l.setPasses iss.mode (BitVec.ofNat 16 (iss.loopPass + 1)) 0 with
          addr := BitVec.ofNat 48 iss.header, came := .back })
  | .stay => s
  | .trap c v => s.takeTrap iss.gid i c v (BitVec.ofNat 48 iss.addr)
  | .trapPast c v => s.takeTrap iss.gid i c v (BitVec.ofNat 48 iss.next)

/-- The end of a lane; lanes that an answer does not name move past the sequence. -/
def endOf (ends : List (Nat × LaneEnd)) (i : Nat) : LaneEnd :=
  match ends.find? (fun p => p.1 = i) with
  | some p => p.2
  | none => .past

/-- The lane traps at its sequence. -/
def LaneEnd.isTrap : LaneEnd → Bool
  | .trap _ _ => true
  | _ => false

/-- Ages after an issue (R119). -/
def Group.ageAll (g : Group) (iss : Issue) : Group :=
  let g := iss.considered.foldl (fun g i => if iss.lanes.contains i then g else g.modLane i Lane.older) g
  iss.lanes.foldl (fun g i => g.modLane i (fun l => { l with age := 0, restored := false, failing := false })) g

/-- What the Grader measures of an issue in user mode (R363). -/
def Measure.add (x : Measure) (iss : Issue) (mem : Bool) (lines : Nat) : Measure :=
  if iss.mode = .user then
    { lanes := x.lanes + iss.lanes.length, issues := x.issues + 1,
      memIssues := x.memIssues + mem.toNat, lines := x.lines + lines }
  else x

/-- The end of an issue: every lane's end, ages, event counters, measurements, and the retirement of operations that have
ended. -/
def State.endIssue (s : State) (iss : Issue) (ends : List (Nat × LaneEnd)) (mem : Bool) (lines : Nat) : State :=
  match s.group iss.gid with
  | none => { s with stamp := s.stamp + 1, issue := none }
  | some g =>
    let s := s.spend g.leaf 0 1
    let s := iss.lanes.foldl (fun s i => s.endLane iss i (endOf ends i)) s
    let s := s.modGroup iss.gid (fun g =>
      { g.ageAll iss with meas := g.meas.add iss mem lines, lastIssue := s.stamp + 1 })
    let s := (s.countEvent g.core 2 1).countEvent g.core 3 iss.lanes.length
    { s with stamp := s.stamp + 1, issue := none }.settle iss.gid

/-- Every lane of the issue set traps (R110); `mem` where the issue counts as a memory issue (R363). -/
def State.trapAll (s : State) (iss : Issue) (cause : BitVec 8) (xval : DWord) (mem : Bool := false) : State :=
  s.endIssue iss (iss.lanes.map (fun i => (i, .trap cause xval))) mem 0

/-! ### Serving an instruction -/

/-- What a meaning answers: blocked (R118); or the state after its effect, how its lanes end, the natural result tag,
and the 128-byte generic address ranges its lanes touched (R363). -/
inductive Res where
  | blocked
  | done (s : State) (ends : List (Nat × LaneEnd)) (tag : Option Tag) (lines : List Nat)
  deriving DecidableEq, Repr

/-- What an instruction's description states: lowest mode, accepted tags of a slot given the tags of A, B and C (none
listed: RAW-accepting), counter class, and effect. -/
structure Entry where
  mode : Mode := .user
  ok : Tag → Tag → Tag → SlotName → List Tag := fun _ _ _ _ => []
  cls : Option Cls := none
  body : Ctx → State → Group → Res

/-- The guard of an issue (R92). -/
def guardOf (iss : Issue) (i : Instr) : GuardF :=
  match iss.pfx.guard with
  | some g => some g
  | none => i.guard

/-- A lane is guard-active (R92). -/
def Group.guarded (g : Group) (gd : GuardF) (lane : Nat) : Bool :=
  match gd with
  | some x => g.pGet x.p.toNat lane != x.neg
  | none => true

/-- The first failing tag check, in the order A, B, C, D (R106, R110; DESIGN CHOICE, log entry 96: the manual does not say
which of several failing slots is reported). -/
def State.formatFault (g : Group) (iss : Issue) (o : Opnds) (ok : SlotName → List Tag) : Option DWord :=
  [SlotName.a, .b, .c, .d].findSome? (fun sl =>
    if (ok sl).isEmpty then none else g.slotFault iss.mode iss.pfx sl (o.slot sl) (ok sl))

/-- The classes of R127. -/
inductive RoleClass where
  | general | copy | float | matrix | assign | fabric
  deriving DecidableEq, Repr

/-- The class of an instruction in R127; a STREAM prefix makes it one of stream binding. -/
def roleClass (i : Instr) (p : Prefixes) : RoleClass :=
  let op := i.opcode
  if i.longSpace then if op < 0x60 then .matrix else if op < 0x70 then .assign else .fabric
  else if 0x80 ≤ op ∧ op ≤ 0xA7 then .float
  else if op = 0xC1 ∨ (0xC3 ≤ op ∧ op ≤ 0xC6) then .copy
  else if p.streams.isEmpty then .general else .copy

/-- A role allows a class (R127). -/
def roleAllows (role : Nat) : RoleClass → Bool
  | .general => true
  | .copy => role != 2
  | .float => role == 0 || role == 3
  | .matrix => role == 0 || role == 2
  | .assign => role == 0 || role == 2
  | .fabric => role == 0 || role == 1

/-- The xval of ENGINE when the group's role does not allow the instruction (R127). -/
def roleFault (g : Group) (i : Instr) (p : Prefixes) : Option DWord :=
  let bad := !roleAllows g.role (roleClass i p) || (!p.streams.isEmpty && !roleAllows g.role .copy)
  if bad then
    let op := if i.isLong && !i.longSpace then i.opcode / 4 else i.opcode
    some (BitVec.ofNat 64 (op + 256 * i.isLong.toNat + 512 * g.role))
  else none

/-- An instruction of the cross-lane class (R156). -/
def crossLane (i : Instr) : Bool := !i.longSpace && 0x60 ≤ i.opcode && i.opcode ≤ 0x73

/-- A register of the instruction is awaited, or its counter is full (R124, R125). The destination of a cross-lane
instruction is awaited only in its executing lanes, since no other lane's state delays it there (R155). -/
def Group.busy (g : Group) (iss : Issue) (i : Instr) (o : Opnds) (cls : Option Cls) : Bool :=
  (if crossLane i then g.toward (iss.lanes.filter (g.guarded (guardOf iss i))) else g).awaited iss.mode o.d ||
    g.awaited iss.mode o.a || g.awaited iss.mode o.b || g.awaited iss.mode o.c ||
    (match cls with
      | some c => decide (63 ≤ g.count c)
      | none => false) ||
    ((iss.pfx.streamed .d).isSome && decide (63 ≤ g.count .st))

/-! ### Poisoned image lines (R182) -/

/-- Distinct entries of a list. -/
def distinct : List Nat → List Nat
  | [] => []
  | x :: xs => if xs.contains x then distinct xs else x :: distinct xs

/-- An instruction whose slot D is a source: a store (R185, R190). -/
def readsD (i : Instr) : Bool :=
  !i.longSpace && ((0xB6 ≤ i.opcode && i.opcode ≤ 0xB9) || i.opcode == 0xBB)

/-- Image lines that hold what an operand reads (R348). -/
def Launch.opdLines (l : Launch) (m : Mode) (o : Opd) : List Nat :=
  match o with
  | .v n => [l.vLine m n]
  | .pair n => [l.vLine m n, l.vLine m (n + 1)]
  | .k n count => (List.range count).map (fun i => kLine (n + i))
  | .p _ => [pLine]
  | _ => []

/-- Poisoned lines of its image that an issue of the group reads registers from: those of slots A, B and C, and of slot D of a
store. -/
def State.badReads (s : State) (g : Group) (m : Mode) (i : Instr) (o : Opnds) : List Nat :=
  match s.badLines g, s.launchOf g with
  | [], _ => []
  | bad, some l =>
    distinct ((([o.a, o.b, o.c] ++ if readsD i then [o.d] else []).flatMap (l.opdLines m)).filter bad.contains)
  | _, none => []

/-- Those lines read: each meets its error, is counted, and sets POISON (R182). -/
def State.readBad (s : State) (g : Group) (bad : List Nat) : State :=
  bad.foldl (fun s n =>
    ((s.meet g.launch g.leaf (.sys (g.image.getD 0 + 128 * n))).countErr g.leaf 2).addFlags g.launch 32) s

/-- The group as an instruction reads it that reads such lines: their registers are zero (R182). -/
def State.readAs (s : State) (g : Group) (bad : List Nat) : Group :=
  match bad, s.launchOf g with
  | [], _ => g
  | _, some l => g.zeroLines l bad
  | _, none => g

/-! ### Streams -/

/-- Element address of a pattern, none beyond its end (R203). -/
def Pattern.addr (w : Pattern) (e : Nat) : Option DWord :=
  let c0 := w.w1.toNat % 2 ^ 32
  let c1 := w.w1.toNat / 2 ^ 32
  let c2 := w.w2.toNat % 2 ^ 28
  if c0 * c1 * c2 ≤ e then none
  else
    let s0 := (BitVec.ofNat 32 (w.w2.toNat / 2 ^ 32)).toInt
    let s1 := (BitVec.ofNat 32 w.w3.toNat).toInt
    let s2 := (BitVec.ofNat 32 (w.w3.toNat / 2 ^ 32)).toInt
    some (BitVec.ofInt 64 (w.w0.toNat + (e % c0 : Nat) * s0 + (e / c0 % c1 : Nat) * s1 + (e / (c0 * c1) : Nat) * s2))

/-- The use count of W[w] in a lane (R202). -/
def Lane.useOf (l : Lane) (w : Nat) : Nat := (tblGet l.use 0 w).toNat
/-- The use count of W[w] raised by `n`, saturating (R204, R205). -/
def Lane.useMore (l : Lane) (w n : Nat) : Lane :=
  { l with use := tblPut l.use 0 w (BitVec.ofNat 32 (min (l.useOf w + n) 0xFFFFFFFF)) }

/-- One lane's element of one stream: its place and address, or how the lane faults (R204). -/
inductive Elem where
  | ok (l : Loc) (addr : DWord)
  | trap (cause : BitVec 8) (xval : DWord)
  | page (stage page : Nat) (addr : DWord)
  | busy
  deriving DecidableEq, Repr

/-- The element of a lane, checked with alignment 4 (R204). -/
def State.element (s : State) (iss : Issue) (g : Group) (w : Nat) (write : Bool) (lane : Nat) : State × Elem :=
  match tblFind g.w w with
  | none => (s, .trap causeAccess 0)
  | some pat =>
    let e := (g.lane lane).useOf w * 32 + lane
    match pat.addr e with
    | none => (s, .trap causeExtent (BitVec.ofNat 64 e))
    | some a =>
      let n : Need := if write then { w := true } else { r := true }
      let r := s.checkLane iss.gid g iss.mode lane a 4 4 n
      (s.noteCheck g iss.mode a n r, match r.1 with
        | .ok l => .ok l a
        | .trap c => .trap c a
        | .page st p => .page st p a
        | .busy => .busy)

/-- The streams of an issue, checked: what faulted, and each stream's elements. -/
structure Streams where
  s : State
  faults : List (Nat × LaneEnd) := []
  elems : List (SlotName × Nat × List (Nat × Loc × DWord)) := []
  busy : Bool := false
  deriving DecidableEq, Repr

/-- One lane's element added; a lane that has faulted is not checked again. -/
def Streams.lane (x : Streams) (iss : Issue) (g : Group) (w : Nat) (write : Bool) (i : Nat) :
    Streams × Option (Nat × Loc × DWord) :=
  if x.faults.any (fun p => p.1 = i) then (x, none)
  else
    match x.s.element iss g w write i with
    | (s, .ok l a) => ({ x with s := s, busy := x.busy || s.tileBusy l || (!write && s.memoryStalls g.leaf l) }, some (i, l, a))
    | (s, .busy) => ({ x with s := s, busy := true }, none)
    | (s, .trap c v) => ({ x with s := s, faults := x.faults ++ [(i, .trap c v)] }, none)
    | (s, .page st p a) =>
      let n : Need := if write then { w := true } else { r := true }
      match s.parkPage iss.gid i iss.mode st p n a with
      | (s, true) => ({ x with s := s, faults := x.faults ++ [(i, .stay)] }, none)
      | (_, false) => ({ x with faults := x.faults ++ [(i, .trap causePage a)] }, none)

/-- One stream over the guard-active lanes. -/
def Streams.bind (x : Streams) (iss : Issue) (g : Group) (active : List Nat) (b : WReg × SlotName) : Streams :=
  let (x, els) := active.foldl (fun (p : Streams × List (Nat × Loc × DWord)) i =>
    match p.1.lane iss g b.1.toNat (decide (b.2 = .d)) i with
    | (y, some e) => (y, p.2 ++ [e])
    | (y, none) => (y, p.2)) (x, [])
  { x with elems := x.elems ++ [(b.2, b.1.toNat, els)] }

/-- The values of a source stream's elements for the lanes that go on (R204). -/
def Streams.values (x : Streams) (gid : Nat) (g : Group) (sl : SlotName) : Streams × Option (Tbl Word) :=
  match x.elems.find? (fun e => e.1 = sl) with
  | none => (x, none)
  | some (_, _, els) =>
    let (s, t) := els.foldl (fun (p : State × Tbl Word) e =>
      if x.faults.any (fun f => f.1 = e.1) then p
      else
        let (s, bs, ws) := p.1.laneRead gid g none e.2.1 4
        (s.learn gid 0 ws false, tblSet p.2 e.1 (BitVec.ofNat 32 (leNat bs)))) (x.s, [])
    ({ x with s := s }, some t)

/-- A write of bytes by a lane of a group at the bottom of its path (R279, R281). -/
def State.laneWrite (s : State) (gid : Nat) (g : Group) (lane : Nat) (l : Loc) (bs : List Byte) : State × Nat :=
  let w : Write :=
    { id := s.nextId, gid := gid, lane := lane, launch := g.launch, core := some g.core, level := 0, op := g.nextOp,
      bytes := (List.range bs.length).map (fun i => (l.add i, bs.getD i 0)) }
  (s.bump.addWrite w, s.nextId)

/-- Writes of several lanes in ascending lane order, and their numbers (R187). -/
def State.laneWrites (s : State) (gid : Nat) (g : Group) : List (Nat × Loc × List Byte) → State × List Nat
  | [] => (s, [])
  | (lane, l, bs) :: r =>
    let (s, w) := s.laneWrite gid g lane l bs
    let (s, ws) := s.laneWrites gid g r
    (s, w :: ws)

/-- One store of several lanes: its writes, and the lines it writes whole (R187, R182). -/
def State.storeLanes (s : State) (gid : Nat) (g : Group) (ws : List (Nat × Loc × List Byte)) : State × List Nat :=
  let (s, ids) := s.laneWrites gid g ws
  (s.heal (ws.flatMap (fun w => (List.range w.2.2.length).map (fun i => w.2.1.add i))) ids, ids)

/-- The 128-byte lines an access of `n` bytes at a generic address touches (R363). -/
def linesOf (a : DWord) (n : Nat) : List Nat :=
  let x := a.toNat / 128
  let y := (a.toNat + n - 1) / 128
  if x = y then [x] else [x, y]

/-- Results of the lanes written to the destination slot, or to the elements of its stream as `st.g.32` does, counted in
ST (R106, R204). -/
def State.putResults (s : State) (c : Ctx) (vals : List (Nat × DWord)) : State :=
  match c.sd with
  | none => s.modGroup c.gid (fun g => vals.foldl (fun g p => c.o.d.write g c.m p.1 p.2) g)
  | some places =>
    match s.group c.gid with
    | none => s
    | some g =>
      let ws := vals.filterMap (fun p =>
        match places.find? (fun q => q.1 = p.1) with
        | some q => some (p.1, q.2, leBytes 4 p.2.toNat)
        | none => none)
      let (s, ids) := s.storeLanes c.gid g ws
      s.addOp c.gid .st (.store ids 1)

/-- An opcode whose issue is a memory issue (R363). -/
def memIssueOf (i : Instr) : Bool :=
  let op := i.opcode
  !i.longSpace && ((0xB0 ≤ op && op ≤ 0xC7 && !(0xC2 ≤ op && op ≤ 0xC6)) || (0xD8 ≤ op && op ≤ 0xDF))

/-- Use counts of the bound streams rise in every lane of the issue set that did not fault (R204). -/
def State.useStreams (s : State) (iss : Issue) (ends : List (Nat × LaneEnd)) : State :=
  if iss.pfx.streams.isEmpty then s
  else s.modGroup iss.gid (fun g => iss.lanes.foldl (fun g i =>
    if (endOf ends i).isTrap || endOf ends i = .stay then g
    else g.modLane i (fun l => iss.pfx.streams.foldl (fun l b =>
      if (tblFind g.w b.1.toNat).isSome then l.useMore b.1.toNat 1 else l) l)) g)

/-- The issue after its decoding faults of orders 1 to 3: orders 4 and 5, the role, what blocks it, the poisoned lines of the
image that its registers lie in, its streams, its effect, and its end. -/
def State.serveIssue (s : State) (iss : Issue) (g : Group) (i : Instr) (e : Entry) : State :=
  let o := s.slots g iss i
  let tag (sl : SlotName) : Tag := g.slotTag iss.mode iss.pfx sl (o.slot sl)
  let mem := memIssueOf i || !iss.pfx.streams.isEmpty
  if iss.mode.num < e.mode.num then s.trapAll iss causePriv (BitVec.ofNat 64 iss.iaddr) mem
  else match State.formatFault g iss o (e.ok (tag .a) (tag .b) (tag .c)) with
  | some v => s.trapAll iss causeFormat v mem
  | none => match roleFault g i iss.pfx with
  | some v => s.trapAll iss causeEngine v mem
  | none =>
    let held := { s with issue := none }
    if g.busy iss i o e.cls then held
    else
      let gd := guardOf iss i
      let bad := s.badReads g iss.mode i o
      let s := s.readBad g bad
      let active := iss.lanes.filter ((s.readAs g bad).guarded gd)
      if !bad.isEmpty && g.poisonTrap then
        { s with drawn := s.drawn + 1 }.endIssue iss
          (active.map (fun i => (i, .trap causePoison (BitVec.ofNat 64 (Config.imageXval s.drawn))))) mem 0
      else
      let st := iss.pfx.streams.foldl (fun (x : Streams) b => x.bind iss g active b) { s := s }
      if st.busy then held
      else
        let (st, sa) := st.values iss.gid g .a
        let (st, sb) := st.values iss.gid g .b
        let (st, sc) := st.values iss.gid g .c
        let sd := match st.elems.find? (fun x => x.1 = .d) with
          | some (_, _, els) => some (els.map (fun x => (x.1, x.2.1)))
          | none => none
        let c : Ctx := { iss := iss, o := o, ta := tag .a, tb := tag .b, tc := tag .c,
                         active := active.filter (fun l => !st.faults.any (fun f => f.1 = l)),
                         sa := sa, sb := sb, sc := sc, sd := sd }
        match e.body c st.s ((st.s.readAs ((st.s.group iss.gid).getD g) bad).asLane (c.lowest.getD 0)) with
        | .blocked => held
        | .done s ends t lines =>
          let ends := st.faults ++ ends
          let s := match t with
            | some t =>
              if sd.isSome || iss.lanes.all (fun l => (endOf ends l).isTrap) then s
              else s.modGroup iss.gid (fun g => o.d.retag g iss.mode ((iss.pfx.formatted .d).getD t))
            | none => s
          let s := s.useStreams iss ends
          let touched := lines ++ (st.elems.flatMap (fun x => x.2.2.flatMap (fun y =>
            if st.faults.any (fun f => f.1 = y.1) then [] else linesOf y.2.2 4)))
          s.endIssue iss ends mem (if mem then (distinct touched).length else 0)

/-- What a meaning answers to the step. -/
abbrev Out := Host.Outcome State Fault Refusal

/-- The meaning of an instruction with a description: with no issue in hand there is nothing to execute. -/
def serve (i : Instr) (s : State) (e : Entry) : Out :=
  match s.issue with
  | none => .fault .noIssue
  | some iss =>
    match s.group iss.gid with
    | none => .fault .noIssue
    | some g => .next (s.serveIssue iss g i e)

/-! ### Common shapes of effects -/

/-- What a lane-by-lane computation gives a lane: bits and flags. -/
abbrev Val := DWord × Flags

/-- An effect computed lane by lane from the registers before it, writing the destination slot; a lane that would raise
an enabled flag traps FP instead (R216, R223). -/
def lanewise (tag : Ctx → Option Tag) (f : Ctx → Group → Nat → Val) (c : Ctx) (s : State) (g : Group) : Res :=
  let en := s.trapFlags g
  let rs := c.active.map (fun i => (i, f c g i))
  let bad := rs.filter (fun r => fpTraps en r.2.2)
  let good := rs.filter (fun r => !fpTraps en r.2.2)
  let s := s.putResults c (good.map (fun r => (r.1, r.2.1)))
  let s := s.modGroup c.gid (fun g => good.foldl (fun g r => g.modLane r.1 (fun l => l.raise r.2.2)) g)
  .done s (bad.map (fun r => (r.1, .trap causeFP (fpVal r.2.2)))) (tag c) []

/-- The same where no flag is raised. -/
def pureLanes (tag : Ctx → Option Tag) (f : Ctx → Group → Nat → DWord) (c : Ctx) (s : State) (g : Group) : Res :=
  .done (s.putResults c (c.active.map (fun i => (i, f c g i)))) [] (tag c) []

/-- xval of ENGINE for an issue check's code (R242, R308, R310). -/
def engineCode (n : Nat) : DWord := BitVec.ofNat 64 (2 ^ 63 + n)

/-- A group effect: every guard-active lane takes the same trap; the result tag stands for the lanes that are not
guard-active (R106). -/
def trapActive (c : Ctx) (s : State) (cause : BitVec 8) (xval : DWord) (tag : Option Tag := none) : Res :=
  .done s (c.active.map (fun i => (i, .trap cause xval))) tag []

end Sys2Proof.Machine
end

