-- ==== Sys2Proof/Machine/Int.lean ====
section
/-!
DEFINITION. The integer class, opcodes 0x20 to 0x4F without `smov`: arithmetic, logic, shifts, division, bit fields,
comparisons, selection, addresses, widths and moves (R114, R144 to R152, R154).
-/

namespace Sys2Proof.Machine
open Sys2Proof

/-- The operand type of a width: the tag of slot A where it is an integer tag of that width, and the signed tag
otherwise (R144). -/
def intType (w : Nat) (ta : Tag) : Tag :=
  if w = 32 then (if ta = .i32 ∨ ta = .n32 then ta else .i32) else (if ta = .i64 ∨ ta = .n64 then ta else .i64)

/-- Slots A, B and C require the operand type (R144). -/
def intOk (w : Nat) (ta _tb _tc : Tag) (sl : SlotName) : List Tag :=
  match sl with
  | .a => [intType w ta]
  | .b => [intType w ta]
  | .c => [intType w ta]
  | .d => []

/-- Bits of a width as an integer (R144). -/
def intOf (signed : Bool) (w : Nat) (x : DWord) : Int :=
  if w = 32 then (if signed then (BitVec.ofNat 32 x.toNat).toInt else (x.toNat % 2 ^ 32 : Nat))
  else (if signed then x.toInt else x.toNat)

/-- What an integer operation gives: an exact result still to be narrowed, or bits that SAT does not change. -/
inductive IntAns where
  | exact (x : Int)
  | bits (x : DWord)
  deriving DecidableEq, Repr

/-- An operand of width `w` in a lane: slots A, B and C. -/
def Ctx.intA (c : Ctx) (w : Nat) (g : Group) (i : Nat) : Int := intOf (intType w c.ta).signed w (c.a64 g i)
def Ctx.intB (c : Ctx) (w : Nat) (g : Group) (i : Nat) : Int := intOf (intType w c.ta).signed w (c.b64 g i)
def Ctx.intC (c : Ctx) (w : Nat) (g : Group) (i : Nat) : Int := intOf (intType w c.ta).signed w (c.c64 g i)

/-- The narrowed result of an integer operation with result width `w` and natural result tag `t` (R144). -/
def Ctx.intResult (c : Ctx) (w : Nat) (t : Tag) (x : IntAns) : DWord :=
  match x with
  | .exact x => narrow c.iss.pfx.sat (satSigned w t (c.iss.pfx.formatted .d)) w x
  | .bits x => x

/-- An integer operation on operands of width `w`, with a result of width `wr` whose tag follows the operand type; the
operation is given the signedness, SAT, and the operands (R144). -/
def intOp (w wr : Nat) (res : Tag → Tag) (f : Bool → Bool → Int → Int → Int → IntAns) : Entry where
  ok := intOk w
  body := pureLanes (fun c => some (res (intType w c.ta))) (fun c g i =>
    let t := intType w c.ta
    c.intResult wr (res t) (f t.signed c.iss.pfx.sat (c.intA w g i) (c.intB w g i) (c.intC w g i)))

/-- An exact operation on A and B whose result has their width and type. -/
def arith (w : Nat) (f : Int → Int → Int) : Entry := intOp w w id (fun _ _ a b _ => .exact (f a b))

/-- An operation on the 32 bits of A and B, with the result tag that follows the operand type (R144). -/
def bitOp (res : Tag → Tag) (f : Bool → Word → Word → Word) : Entry where
  ok := intOk 32
  body := pureLanes (fun c => some (res (intType 32 c.ta))) (fun c g i =>
    BitVec.ofNat 64 (f (intType 32 c.ta).signed (c.a32 g i) (c.b32 g i)).toNat)

/-- A comparison of integers of width `w` into a predicate (R148). -/
def intCmp (w : Nat) (f : Int → Int → Bool) : Entry where
  ok := intOk w
  body := pureLanes (fun _ => none) (fun c g i => BitVec.ofNat 64 (f (c.intA w g i) (c.intB w g i)).toNat)

/-- Quotient rounded toward zero, with the cases of R146. -/
def divAns (signed sat : Bool) (a b : Int) : IntAns :=
  if b = 0 then .bits 0xFFFFFFFF
  else if signed && a == -(2 ^ 31) && b == -1 then .bits (if sat then 0x7FFFFFFF else 0x80000000)
  else .exact (a.tdiv b)

/-- Remainder with the sign of the dividend (R146). -/
def remAns (a b : Int) : IntAns := if b = 0 then .exact a else .exact (a.tmod b)

/-- The field of `bfx` (R147). -/
def bfxWord (signed : Bool) (a b : Word) : Word :=
  let p := b.toNat % 32
  let n := min (b.toNat / 256 % 64) 32
  let y := a.toNat / 2 ^ p % 2 ^ n
  if n = 0 then 0
  else if signed && n < 32 && bitAt y (n - 1) then BitVec.ofNat 32 (y + (2 ^ 32 - 2 ^ n)) else BitVec.ofNat 32 y

/-- Number of 1 bits, and of leading zero bits, of a word. -/
def popcount (x : Nat) : Nat := ((List.range 32).filter (fun i => bitAt x i)).length
def leadingZeros (x : Nat) : Nat := 32 - bitLength x
/-- The bits of a word in reverse order. -/
def bitReverse (x : Word) : Word :=
  BitVec.ofNat 32 ((List.range 32).foldl (fun n i => n + (if bitAt x.toNat i then 2 ^ (31 - i) else 0)) 0)

/-- The tags a slot that names a pair as an address accepts (R133, R150, R185). -/
def addressTags : List Tag := [.n64, .i64, .raw]
/-- Slot A holds an address. -/
def addressOk (_ _ _ : Tag) (sl : SlotName) : List Tag := if sl = .a then addressTags else []

/-- Slot B names a K register. -/
def Ctx.bIsK (c : Ctx) : Bool :=
  match c.o.b with
  | .k _ _ => true
  | _ => false

/-- `mov` (R114): the tag is RAW where the source is a K register, whatever FORMAT on B says. -/
def movEntry : Entry where
  body := pureLanes (fun c => some (if c.bIsK then .raw else c.tb)) (fun c g i => c.b64 g i)

/-- `mov.64` (R152): without FORMAT on D each register of the pair takes the tag of its own source register, and RAW from
a K register. -/
def mov64Entry : Entry where
  body c s g :=
    let tagHi : Tag := match c.iss.pfx.formatted .b with
      | some t => t
      | none => match c.o.b with
        | .pair n => g.tag c.m (n + 1)
        | _ => .raw
    let (lo, hi) := if c.bIsK then (.raw, .raw) else (c.tb, tagHi)
    let s := s.putResults c (c.active.map (fun i => (i, c.b64 g i)))
    match c.iss.pfx.formatted .d with
    | some t => .done s [] (some t) []
    | none =>
      .done (s.modGroup c.gid (fun g => (g.setTag c.m c.o.d.num lo).setTag c.m (c.o.d.num + 1) hi)) [] none []

/-- `sel` and `sel.64` (R149): B requires the tag of A. -/
def selEntry (p : PReg) : Entry where
  ok ta _ _ sl := if sl = .b then [ta] else []
  body := pureLanes (fun c => some c.ta) (fun c g i => if g.pGet p.toNat i then c.a64 g i else c.b64 g i)

/-- `lea` with scale s (R150). -/
def leaEntry (sc : Nat) : Entry where
  ok _ _ _ sl := match sl with
    | .a => addressTags
    | .b => [.i32, .n32]
    | _ => []
  body := pureLanes (fun _ => some .n64) (fun c g i =>
    let ix : Int := match c.o.b with
      | .k _ _ => (c.b64 g i).toNat
      | _ => if c.tb = .i32 then (c.b32 g i).toInt else (c.b32 g i).toNat
    BitVec.ofInt 64 ((c.a64 g i).toNat + ix * 2 ^ sc))

/-- `kset` (R154): the value of the lowest guard-active lane. -/
def ksetEntry : Entry where
  body c s g :=
    match c.lowest with
    | some i => .done (s.modGroup c.gid (fun h => h.kPut c.o.d.num (c.a64 g i))) [] none []
    | none => .done s [] none []

/-- The scale of `lea`. -/
def scaleOf : ExtLea → Nat
  | .short => 0
  | .long sc _ => sc.toNat

/-- An immediate as a signed number (R93). -/
def sext8 (b : Imm8) : Int := b.toInt

/-- The signed or unsigned integer tag of 64 and of 32 bits with the signedness of a tag (R151). -/
def widenTag (t : Tag) : Tag := if t.signed then .i64 else .n64
def shrinkTag (t : Tag) : Tag := if t.signed then .i32 else .n32

/-- `mov` (R114). -/
def execMov (d : VReg) (b : Src) (x : Ext) (s : State) : Out :=
  serve (.mov d b x) s (movEntry)

/-- `add.i32` (R145). -/
def execAddI32 (d a : VReg) (b : Src) (x : Ext) (s : State) : Out :=
  serve (.addI32 d a b x) s (arith 32 (· + ·))

/-- `sub.i32` (R145). -/
def execSubI32 (d a : VReg) (b : Src) (x : Ext) (s : State) : Out :=
  serve (.subI32 d a b x) s (arith 32 (· - ·))

/-- `mul.i32` (R145). -/
def execMulI32 (d a : VReg) (b : Src) (x : Ext) (s : State) : Out :=
  serve (.mulI32 d a b x) s (arith 32 (· * ·))

/-- `mulhi.i32` (R145). -/
def execMulhiI32 (d a : VReg) (b : Src) (x : Ext) (s : State) : Out :=
  serve (.mulhiI32 d a b x) s (arith 32 (fun a b => a * b / 2 ^ 32))

/-- `mad.i32` (R145). -/
def execMadI32 (d a : VReg) (b : Src) (c : VReg) (x : GuardF) (s : State) : Out :=
  serve (.madI32 d a b c x) s (intOp 32 32 id (fun _ _ a b c => .exact (a * b + c)))

/-- `div.i32` (R146). -/
def execDivI32 (d a : VReg) (b : Src) (x : Ext) (s : State) : Out :=
  serve (.divI32 d a b x) s (intOp 32 32 id (fun sg sat a b _ => divAns sg sat a b))

/-- `rem.i32` (R146). -/
def execRemI32 (d a : VReg) (b : Src) (x : Ext) (s : State) : Out :=
  serve (.remI32 d a b x) s (intOp 32 32 id (fun _ _ a b _ => remAns a b))

/-- `min.i32` (R145). -/
def execMinI32 (d a : VReg) (b : Src) (x : Ext) (s : State) : Out :=
  serve (.minI32 d a b x) s (arith 32 min)

/-- `max.i32` (R145). -/
def execMaxI32 (d a : VReg) (b : Src) (x : Ext) (s : State) : Out :=
  serve (.maxI32 d a b x) s (arith 32 max)

/-- `abs.i32` (R145). -/
def execAbsI32 (d a : VReg) (x : Ext) (s : State) : Out :=
  serve (.absI32 d a x) s (arith 32 (fun a _ => if a < 0 then -a else a))

/-- `neg.i32` (R145). -/
def execNegI32 (d a : VReg) (x : Ext) (s : State) : Out :=
  serve (.negI32 d a x) s (arith 32 (fun a _ => -a))

/-- `addi.i32` (R145). -/
def execAddiI32 (d a : VReg) (b : Imm8) (x : Ext) (s : State) : Out :=
  serve (.addiI32 d a b x) s (arith 32 (fun a _ => a + sext8 b))

/-- `and.i32` (R145). -/
def execAndI32 (d a : VReg) (b : Src) (x : Ext) (s : State) : Out :=
  serve (.andI32 d a b x) s (bitOp id (fun _ a b => a &&& b))

/-- `or.i32` (R145). -/
def execOrI32 (d a : VReg) (b : Src) (x : Ext) (s : State) : Out :=
  serve (.orI32 d a b x) s (bitOp id (fun _ a b => a ||| b))

/-- `xor.i32` (R145). -/
def execXorI32 (d a : VReg) (b : Src) (x : Ext) (s : State) : Out :=
  serve (.xorI32 d a b x) s (bitOp id (fun _ a b => a ^^^ b))

/-- `andn.i32` (R145). -/
def execAndnI32 (d a : VReg) (b : Src) (x : Ext) (s : State) : Out :=
  serve (.andnI32 d a b x) s (bitOp id (fun _ a b => a &&& ~~~b))

/-- `not.i32` (R145). -/
def execNotI32 (d a : VReg) (x : Ext) (s : State) : Out :=
  serve (.notI32 d a x) s (bitOp id (fun _ a _ => ~~~a))

/-- `shl.i32` (R145). -/
def execShlI32 (d a : VReg) (b : Src) (x : Ext) (s : State) : Out :=
  serve (.shlI32 d a b x) s (arith 32 (fun a b => a * 2 ^ (b % 32).toNat))

/-- `shr.i32` (R145). -/
def execShrI32 (d a : VReg) (b : Src) (x : Ext) (s : State) : Out :=
  serve (.shrI32 d a b x) s (arith 32 (fun a b => a / 2 ^ (b % 32).toNat))

/-- `shli.i32` (R145). -/
def execShliI32 (d a : VReg) (b : BitVec 5) (x : Ext) (s : State) : Out :=
  serve (.shliI32 d a b x) s (arith 32 (fun a _ => a * 2 ^ b.toNat))

/-- `shri.i32` (R145). -/
def execShriI32 (d a : VReg) (b : BitVec 5) (x : Ext) (s : State) : Out :=
  serve (.shriI32 d a b x) s (arith 32 (fun a _ => a / 2 ^ b.toNat))

/-- `rotl.i32` (R145). -/
def execRotlI32 (d a : VReg) (b : Src) (x : Ext) (s : State) : Out :=
  serve (.rotlI32 d a b x) s (bitOp id (fun _ a b => a.rotateLeft (b.toNat % 32)))

/-- `popc.i32` (R145). -/
def execPopcI32 (d a : VReg) (x : Ext) (s : State) : Out :=
  serve (.popcI32 d a x) s (bitOp (fun _ => .i32) (fun _ a _ => BitVec.ofNat 32 (popcount a.toNat)))

/-- `clz.i32` (R145). -/
def execClzI32 (d a : VReg) (x : Ext) (s : State) : Out :=
  serve (.clzI32 d a x) s (bitOp (fun _ => .i32) (fun _ a _ => BitVec.ofNat 32 (leadingZeros a.toNat)))

/-- `brev.i32` (R145). -/
def execBrevI32 (d a : VReg) (x : Ext) (s : State) : Out :=
  serve (.brevI32 d a x) s (bitOp id (fun _ a _ => bitReverse a))

/-- `bfx.i32` (R147). -/
def execBfxI32 (d a : VReg) (b : Src) (x : Ext) (s : State) : Out :=
  serve (.bfxI32 d a b x) s (bitOp id bfxWord)

/-- `cmp.eq.i32` (R148). -/
def execCmpEqI32 (d : PReg) (a : VReg) (b : Src) (x : Ext) (s : State) : Out :=
  serve (.cmpEqI32 d a b x) s (intCmp 32 (fun a b => a == b))

/-- `cmp.ne.i32` (R148). -/
def execCmpNeI32 (d : PReg) (a : VReg) (b : Src) (x : Ext) (s : State) : Out :=
  serve (.cmpNeI32 d a b x) s (intCmp 32 (fun a b => a != b))

/-- `cmp.lt.i32` (R148). -/
def execCmpLtI32 (d : PReg) (a : VReg) (b : Src) (x : Ext) (s : State) : Out :=
  serve (.cmpLtI32 d a b x) s (intCmp 32 (fun a b => decide (a < b)))

/-- `cmp.le.i32` (R148). -/
def execCmpLeI32 (d : PReg) (a : VReg) (b : Src) (x : Ext) (s : State) : Out :=
  serve (.cmpLeI32 d a b x) s (intCmp 32 (fun a b => decide (a ≤ b)))

/-- `cmp.gt.i32` (R148). -/
def execCmpGtI32 (d : PReg) (a : VReg) (b : Src) (x : Ext) (s : State) : Out :=
  serve (.cmpGtI32 d a b x) s (intCmp 32 (fun a b => decide (b < a)))

/-- `cmp.ge.i32` (R148). -/
def execCmpGeI32 (d : PReg) (a : VReg) (b : Src) (x : Ext) (s : State) : Out :=
  serve (.cmpGeI32 d a b x) s (intCmp 32 (fun a b => decide (b ≤ a)))

/-- `sel` and `sel.64` (R149). -/
def execSel (d a : VReg) (b : Src) (c : PReg) (wide : Bool) (x : GuardF) (s : State) : Out :=
  serve (.sel d a b c wide x) s (selEntry c)

/-- `add.i64` (R145). -/
def execAddI64 (d a : DReg) (b : SrcD) (x : Ext) (s : State) : Out :=
  serve (.addI64 d a b x) s (arith 64 (· + ·))

/-- `sub.i64` (R145). -/
def execSubI64 (d a : DReg) (b : SrcD) (x : Ext) (s : State) : Out :=
  serve (.subI64 d a b x) s (arith 64 (· - ·))

/-- `mul.i64` (R145). -/
def execMulI64 (d a : DReg) (b : SrcD) (x : Ext) (s : State) : Out :=
  serve (.mulI64 d a b x) s (arith 64 (· * ·))

/-- `mulw.i32` (R151). -/
def execMulwI32 (d : DReg) (a : VReg) (b : Src) (x : Ext) (s : State) : Out :=
  serve (.mulwI32 d a b x) s (intOp 32 64 widenTag (fun _ _ a b _ => .exact (a * b)))

/-- `shl.i64` (R145). -/
def execShlI64 (d a : DReg) (b : SrcD) (x : Ext) (s : State) : Out :=
  serve (.shlI64 d a b x) s (arith 64 (fun a b => a * 2 ^ (b % 64).toNat))

/-- `shr.i64` (R145). -/
def execShrI64 (d a : DReg) (b : SrcD) (x : Ext) (s : State) : Out :=
  serve (.shrI64 d a b x) s (arith 64 (fun a b => a / 2 ^ (b % 64).toNat))

/-- `lea` (R150). -/
def execLea (d a : DReg) (b : Src) (x : ExtLea) (s : State) : Out :=
  serve (.lea d a b x) s (leaEntry (scaleOf x))

/-- `addi.i64` (R145). -/
def execAddiI64 (d a : DReg) (b : Imm8) (x : Ext) (s : State) : Out :=
  serve (.addiI64 d a b x) s (arith 64 (fun a _ => a + sext8 b))

/-- The comparison a condition names (R148). -/
def condHolds (cc : Cond) (a b : Int) : Bool :=
  match cc with
  | .eq => a == b
  | .ne => a != b
  | .lt => decide (a < b)
  | .le => decide (a ≤ b)
  | .gt => decide (b < a)
  | .ge => decide (b ≤ a)

/-- `cmp.cc.i64` (R148). -/
def execCmpI64 (d : PReg) (a : DReg) (b : SrcD) (cc : Cond) (x : GuardF) (s : State) : Out :=
  serve (.cmpI64 d a b cc x) s (intCmp 64 (condHolds cc))

/-- `ext.i64` (R151). -/
def execExtI64 (d : DReg) (a : VReg) (x : Ext) (s : State) : Out :=
  serve (.extI64 d a x) s (intOp 32 64 widenTag (fun _ _ a _ _ => .exact a))

/-- `trn.i32` (R151). -/
def execTrnI32 (d : VReg) (a : DReg) (x : Ext) (s : State) : Out :=
  serve (.trnI32 d a x) s (intOp 64 32 shrinkTag (fun _ _ a _ _ => .exact a))

/-- `mov.64` (R152). -/
def execMov64 (d : DReg) (b : SrcD) (x : Ext) (s : State) : Out :=
  serve (.mov64 d b x) s (mov64Entry)

/-- `kset` (R154). -/
def execKset (d : KReg) (a : DReg) (x : Ext) (s : State) : Out :=
  serve (.kset d a x) s (ksetEntry)

end Sys2Proof.Machine
end

