-- ==== Sys2Proof/Machine/Mem.lean ====
section
/-!
DEFINITION. The memory class without copies, opcodes 0xB0 to 0xC7 (R183 to R195, R201 to R205): generic and
tile-relative loads and stores, apertures, tile allocation, prefetch, stream patterns, `ldk`; and the events that read
and retire loads, retire stores and triggers, and grant tiles (R187, R281, R286, R194).
-/

namespace Sys2Proof.Machine
open Sys2Proof

/-! ### Accesses of lanes -/

/-- One lane's access checked (R166): its place, or how the lane faults (R188). -/
def State.accessLane (s : State) (c : Ctx) (g : Group) (i : Nat) (a : DWord) (size align : Nat) (n : Need) :
    State × Except LaneEnd Loc :=
  let r := s.checkLane c.gid g c.m i a size align n
  let s := s.noteCheck g c.m a n r
  match r.1 with
  | .ok l => (s, .ok l)
  | .trap cause => (s, .error (.trap cause a))
  | .page st p =>
    match s.parkPage c.gid i c.m st p n a with
    | (s, true) => (s, .error .stay)
    | (_, false) => (s, .error (.trap causePage a))
  | .busy => (s, .error .stay)

/-- The accesses of several lanes, each checked separately: how the lanes that fault end, and the places of the rest. -/
def State.accessLanes (s : State) (c : Ctx) (g : Group) (size align : Nat) (n : Need) :
    List (Nat × DWord) → State × List (Nat × LaneEnd) × List (Nat × Loc × DWord)
  | [] => (s, [], [])
  | (i, a) :: r =>
    match s.accessLane c g i a size align n with
    | (s, .ok l) =>
      let (s, es, oks) := s.accessLanes c g size align n r
      (s, es, (i, l, a) :: oks)
    | (s, .error e) =>
      let (s, es, oks) := s.accessLanes c g size align n r
      (s, (i, e) :: es, oks)

/-- Lines touched by the accesses that were performed (R363). -/
def linesTouched (size : Nat) (oks : List (Nat × Loc × DWord)) : List Nat := oks.flatMap (fun p => linesOf p.2.2 size)

/-- Generic addresses of a memory operand with its scaled offset (R185). -/
def Ctx.addrs (c : Ctx) (g : Group) (b : Imm8) (size : Nat) : List (Nat × DWord) :=
  c.active.map (fun i => (i, BitVec.ofInt 64 ((c.a64 g i).toNat + sext8 b * size)))

/-- Tile addresses of `ld.t.32` and `st.t.32` (R190): lanes that fault before any check, and the rest. -/
def Ctx.tileAddrs (c : Ctx) (g : Group) : List (Nat × LaneEnd) × List (Nat × DWord) :=
  let h := (g.tGet c.o.a.num).handle
  if h = 0xFFFFFFFF then (c.active.map (fun i => (i, .trap causeAccess 0)), [])
  else
    let off (i : Nat) : Nat := (c.b32 g i).toNat
    ((c.active.filter (fun i => 2 ^ 24 ≤ off i)).map (fun i => (i, .trap causeExtent (BitVec.ofNat 64 (off i)))),
      (c.active.filter (fun i => off i < 2 ^ 24)).map (fun i => (i, tileAddr h.toNat (off i))))

/-- The tile a T register holds blocks an instruction that names it (R168). -/
def State.tBusy (s : State) (g : Group) (n : Nat) : Bool := s.tileHeld (g.tGet n).handle.toNat

/-! ### Loads -/

/-- The register value of loaded bytes (R186). -/
def Extend.value (e : Extend) (x : Nat) : DWord :=
  match e with
  | .s8 => BitVec.ofNat 64 (BitVec.ofInt 32 (BitVec.ofNat 8 x).toInt).toNat
  | .s16 => BitVec.ofNat 64 (BitVec.ofInt 32 (BitVec.ofNat 16 x).toInt).toNat
  | _ => BitVec.ofNat 64 x

/-- What a load would read of memory at its issue, where the poison trap is enabled (R166, R182): it stands where the line is
poisoned before the read (DEDUCED, log entry 22). -/
def State.earlyRead (s : State) (gid : Nat) (g : Group) (l : Loc) (n : Nat) : Option (DWord × List Nat) :=
  match l with
  | .sys _ =>
    if g.poisonTrap then
      let (bs, ws) := s.readBytes (g.agent gid) l n
      some (BitVec.ofNat 64 (leNat bs), ws)
    else none
  | _ => none

/-- A load of the lanes at some addresses: checked now, read and written later (R185, R187, R281). -/
def State.loadLanes (s : State) (c : Ctx) (g : Group) (e : Extend) (tag : Tag) (pre : List (Nat × LaneEnd))
    (addrs : List (Nat × DWord)) : Res :=
  if addrs.any (fun p => s.addrBusy c.gid g p.1 p.2) then .blocked
  else
    let (s, ends, oks) := s.accessLanes c g e.size e.size { r := true } addrs
    let lanes := oks.map (fun p =>
      { lane := p.1, mode := c.m, loc := p.2.1, read := false, val := 0, early := s.earlyRead c.gid g p.2.1 e.size })
    let s := if lanes.isEmpty then s.addEmpty c.gid .ld
      else s.addOp c.gid .ld (.load c.o.d.num (decide (e = .w64)) e lanes)
    .done s (pre ++ ends) (some tag) (linesTouched e.size oks)

/-- A generic load (R185, R186). -/
def loadEntry (b : Imm8) (e : Extend) (tag : Tag) : Entry where
  ok := addressOk
  cls := some .ld
  body c s g := s.loadLanes c g e tag [] (c.addrs g b e.size)

/-- The tag of a load whose FMOD may name one (R186). -/
def loadTag (natural : Tag) (x : ExtSF) : Tag :=
  match x with
  | .short => natural
  | .long _ f _ => if f = 0 then natural else Tag.ofCode f.toNat

/-- `ld.t.32` (R190). -/
def ldTEntry : Entry where
  ok _ _ _ sl := if sl = .b then [.n32, .i32] else []
  cls := some .ld
  body c s g :=
    if s.tBusy g c.o.a.num then .blocked
    else
      let t := (g.tGet c.o.a.num).tag
      let (pre, addrs) := c.tileAddrs g
      s.loadLanes c g .w32 (if loadTag32 (BitVec.ofNat 4 t.num) && decide (t ≠ .raw) then t else .i32) pre addrs

/-! ### Stores -/

/-- The level of a scope at which a store or copy retires: 0, 1 and 2 give CORE (R187, R198). -/
def retireLevel (sc : Nat) : Nat := scopeLevel (max sc 2)

/-- A store of the lanes at some addresses (R185, R187, R279). -/
def State.storeAt (s : State) (c : Ctx) (g : Group) (size sc : Nat) (pre : List (Nat × LaneEnd))
    (addrs : List (Nat × DWord)) : Res :=
  if addrs.any (fun p => s.addrBusy c.gid g p.1 p.2) then .blocked
  else
    let (s, ends, oks) := s.accessLanes c g size size { w := true } addrs
    let (s, ids) := s.storeLanes c.gid g (oks.map (fun p =>
      (p.1, p.2.1, leBytes size (c.o.d.read64 g c.m p.1).toNat)))
    let s := if ids.isEmpty then s.addEmpty c.gid .st else s.addOp c.gid .st (.store ids (retireLevel sc))
    .done s (pre ++ ends) none (linesTouched size oks)

/-- A generic store (R185). -/
def storeEntry (b : Imm8) (size sc : Nat) : Entry where
  ok := addressOk
  cls := some .st
  body c s g := s.storeAt c g size sc [] (c.addrs g b size)

/-- SCOPE of a long form; 0 for the short form (R184). -/
def scopeOf : ExtS → Nat
  | .short => 0
  | .long sc _ => sc.toNat

/-- `st.t.32` (R190). -/
def stTEntry : Entry where
  ok _ _ _ sl := if sl = .b then [.n32, .i32] else []
  cls := some .st
  body c s g :=
    if s.tBusy g c.o.a.num then .blocked
    else
      let (pre, addrs) := c.tileAddrs g
      s.storeAt c g 4 0 pre addrs

/-! ### Apertures -/

/-- The malformed address that a failed conversion gives (R191). -/
def badAddr : DWord := 0xF000000000000000

/-- `apconv.t` (R191): it names the tile that T[a] holds, and waits for it (R168). -/
def apconvTEntry : Entry where
  ok _ _ _ sl := if sl = .b then [.n32, .i32] else []
  body c s g :=
    if s.tBusy g c.o.a.num then .blocked
    else pureLanes (fun _ => some .n64) (fun c g i =>
      let o := (c.b32 g i).toNat
      let h := (g.tGet c.o.a.num).handle
      if h = 0xFFFFFFFF ∨ 2 ^ 24 ≤ o then badAddr else tileAddr h.toNat o) c s g

/-- `apconv.l` (R191). -/
def apconvLEntry : Entry where
  ok _ _ _ sl := if sl = .b then [.n32, .i32] else []
  body := pureLanes (fun _ => some .n64) (fun c g i =>
    let o := (c.b32 g i).toNat
    if 65536 ≤ o then badAddr else BitVec.ofNat 64 (0xC000000000000000 + o))

/-- Test k of `aptest` (R192). -/
def apTest (k : Nat) (a : DWord) : Bool :=
  match aperture a with
  | none => false
  | some (.global _) => k == 0 || k == 4
  | some (.local_ _) => k == 1 || k == 4
  | some (.tile false _ _) => k == 2 || k == 4
  | some (.tile true _ _) => k == 3 || k == 4

/-- `aptest` (R192). -/
def aptestEntry (k : Nat) : Entry where
  ok := addressOk
  body := pureLanes (fun _ => none) (fun c g i => BitVec.ofNat 64 (apTest k (c.a64 g i)).toNat)

/-! ### Tiles -/

/-- Fields of a shape word (R193). -/
def shapeTag (w : DWord) : Nat := w.toNat / 2 ^ 60
def shapeRows (w : DWord) : Nat := w.toNat / 2 ^ 40 % 65536
def shapeRowBytes (w : DWord) : Nat := w.toNat / 2 ^ 24 % 65536
def shapeSize (w : DWord) : Nat := shapeRows w * shapeRowBytes w

/-- Bytes for tiles, entries and allocation unit of a core or a cluster store (R167). -/
def storeBytes (lvl : Bool) : Nat := if lvl then 6258688 else 1040384
def storeEntries (lvl : Bool) : Nat := if lvl then 1024 else 256
def storeUnit (lvl : Bool) : Nat := if lvl then 2048 else 1024

/-- The owner under which a group allocates at a level: its piece of that level, or itself for a TASK group (R78, R32). -/
def Group.ownerAt (g : Group) (gid k : Nat) : Option Owner :=
  if g.task then some (.task gid) else (g.pieceAt k).map .piece

/-- The store that serves a level for a group: the core's, or the cluster's of a CLUSTER-bound level (R78, R32). -/
def storeOf (g : Group) (l : Launch) (k : Nat) : Bool := !g.task && l.domain k == 2

/-- The unit number of a store near a group's core. -/
def Group.unitOf (g : Group) (lvl : Bool) : Nat := if lvl then clusterOf g.core else g.core

/-- A shape word is malformed, or its level admits no tile (R193). -/
def tileBad (g : Group) (l : Launch) (k : Nat) (w : DWord) : Bool :=
  14 ≤ shapeTag w || w.toNat / 2 ^ 56 % 16 != 0 || w.toNat % 2 ^ 24 != 0 || shapeRows w == 0 || shapeRowBytes w == 0 ||
    k == 0 || decide (l.nlevel ≤ k) || !l.tile k || decide (2 < l.domain k) ||
    decide (storeBytes (storeOf g l k) < shapeSize w)

/-- The tile of a key, if it is allocated. -/
def State.tileOf (s : State) (o : Owner) (t : Nat) : Option (Nat × Tile) :=
  s.tiles.find? (fun p => p.2.owner = o && p.2.reg = t)

/-- The shape asked for under a key by a request that still waits. -/
def State.shapePending (s : State) (o : Owner) (t : Nat) : Option DWord :=
  s.groups.findSome? (fun p => p.2.ops.findSome? (fun x =>
    match x.kind with
    | .talloc u ow sh => if u = t && ow = o && !x.ended then some sh else none
    | _ => none))

/-- `talloc` (R193, R194). -/
def tallocEntry (k : Nat) : Entry where
  cls := some .tx
  body c s g :=
    let t := c.o.d.num
    let w := c.kA g 0
    if c.active.isEmpty then .done (s.addEmpty c.gid .tx) [] none []
    else if s.tBusy g t then .blocked
    else match s.launchOf g, g.ownerAt c.gid k with
    | some l, some o =>
      let other := match s.tileOf o t with
        | some (_, x) => decide (x.shape ≠ w)
        | none => match s.shapePending o t with
          | some sh => decide (sh ≠ w)
          | none => false
      if tileBad g l k w || other then trapActive c s causeTileState w
      else match s.tileOf o t with
      | some (h, _) =>
        .done ((s.modGroup c.gid (fun g =>
          g.tPut t { handle := BitVec.ofNat 32 h, tag := Tag.ofCode (shapeTag w) })).addEmpty c.gid .tx) [] none []
      | none =>
        let lvl := storeOf g l k
        let wait : StoreWait := { gid := c.gid, op := g.nextOp, lvl := lvl, unit := g.unitOf lvl }
        let s := s.modGroup c.gid (fun g => g.tPut t { handle := 0xFFFFFFFE, tag := (g.tGet t).tag })
        let s := s.addOp c.gid .tx (.talloc t o w)
        .done { s with waits := s.waits ++ [wait] } [] none []
    | _, _ => trapActive c s causeTileState w

/-- `trel` (R195). -/
def trelEntry : Entry where
  body c s g :=
    if c.active.isEmpty then .done s [] none []
    else if s.tBusy g c.o.d.num then .blocked
    else .done (s.modGroup c.gid (fun g => g.tPut c.o.d.num {})) [] none []

/-! ### Streams -/

/-- A malformed pattern (R202): the cause, if any. -/
def patternFault (w : Pattern) : Option (BitVec 8) :=
  let bad := match aperture w.w0 with
    | none => true
    | some (.local_ _) => true
    | some _ => false
  let c0 := w.w1.toNat % 2 ^ 32
  let c1 := w.w1.toNat / 2 ^ 32
  let c2 := w.w2.toNat % 2 ^ 28
  if bad || c0 == 0 || c1 == 0 || c2 == 0 || 14 ≤ w.w2.toNat / 2 ^ 28 % 16 then some causeAccess
  else if w.w0.toNat % 4 != 0 || w.w2.toNat / 2 ^ 32 % 4 != 0 || w.w3.toNat % 4 != 0 || w.w3.toNat / 2 ^ 32 % 4 != 0 then
    some causeAlign
  else none

/-- Every lane's use count of W[w] set to 0 (R202, R205). -/
def Group.clearUse (g : Group) (w : Nat) : Group :=
  { g with lanes := g.lanes.map (fun p => (p.1, { p.2 with use := tblErase p.2.use w })) }

/-- `wset` (R202). -/
def wsetEntry : Entry where
  body c s g :=
    let w := c.o.d.num
    let p : Pattern := ⟨c.kA g 0, c.kA g 1, c.kA g 2, c.kA g 3⟩
    match patternFault p with
    | some cause => trapActive c s cause (c.kA g 0)
    | none => .done (s.modGroup c.gid (fun g => { g.clearUse w with w := tblSet g.w w p })) [] none []

/-- `wpos` (R205). -/
def wposEntry : Entry where
  body c s g :=
    let w := c.o.a.num
    if (tblFind g.w w).isNone then trapActive c s causeAccess 0 (some .n32)
    else pureLanes (fun _ => some .n32) (fun _ g i => BitVec.ofNat 64 ((g.lane i).useOf w)) c s g

/-- `wskip` (R205). -/
def wskipEntry : Entry where
  body c s g :=
    let w := c.o.d.num
    if (tblFind g.w w).isNone then trapActive c s causeAccess 0
    else .done (s.modLanes c.gid c.active (fun _ l => l.useMore w ((c.kB g).toNat % 2 ^ 32))) [] none []

/-- `wclr` (R205). -/
def wclrEntry : Entry where
  body c s _ :=
    let w := c.o.d.num
    .done (s.modGroup c.gid (fun g => { g.clearUse w with w := tblErase g.w w })) [] none []

/-! ### ldk -/

/-- A group access at one address, whose check is made once for the lowest guard-active lane (R189): a fault traps every
guard-active lane, and a PAGE fault parks each of them. -/
def State.accessGroup (s : State) (c : Ctx) (g : Group) (a : DWord) (n : Need) (r : Check × List TlbEntry) :
    State × Except (List (Nat × LaneEnd)) Loc :=
  let s := s.noteCheck g c.m a n r
  match r.1 with
  | .ok l => (s, .ok l)
  | .trap cause => (s, .error (c.active.map (fun i => (i, .trap cause a))))
  | .page st p =>
    c.active.foldl (fun (x : State × Except (List (Nat × LaneEnd)) Loc) i =>
      let es := match x.2 with
        | .error es => es
        | .ok _ => []
      match x.1.parkPage c.gid i c.m st p n a with
      | (s, true) => (s, .error (es ++ [(i, .stay)]))
      | (_, false) => (x.1, .error (es ++ [(i, .trap causePage a)]))) (s, .error [])
  | .busy => (s, .error (c.active.map (fun i => (i, .stay))))

/-- `ldk` (R189). -/
def ldkEntry (b : Imm8) : Entry where
  cls := some .ld
  body c s g :=
    if c.active.isEmpty then .done (s.addEmpty c.gid .ld) [] none []
    else
      let a := BitVec.ofInt 64 ((c.kA g 0).toNat + sext8 b * 8)
      if s.addrBusy c.gid g (c.lowest.getD 0) a then .blocked
      else match s.accessGroup c g a { r := true } (s.checkLane c.gid g c.m (c.lowest.getD 0) a 8 8 { r := true }) with
      | (s, .error es) => .done (s.addEmpty c.gid .ld) es none []
      | (s, .ok l) =>
        let x : LoadLane :=
          { lane := c.lowest.getD 0, mode := c.m, loc := l, read := false, val := 0, early := s.earlyRead c.gid g l 8 }
        .done (s.addOp c.gid .ld (.ldk c.o.d.num x)) [] none (linesOf a 8)

/-! ### The instructions -/

/-- `ld.g.i8` (R186). -/
def execLdGI8 (d : VReg) (a : DReg) (b : Imm8) (x : ExtS) (s : State) : Out :=
  serve (.ldGI8 d a b x) s (loadEntry b .s8 .i32)

/-- `ld.g.n8` (R186). -/
def execLdGN8 (d : VReg) (a : DReg) (b : Imm8) (x : ExtS) (s : State) : Out :=
  serve (.ldGN8 d a b x) s (loadEntry b .z8 .n32)

/-- `ld.g.i16` (R186). -/
def execLdGI16 (d : VReg) (a : DReg) (b : Imm8) (x : ExtS) (s : State) : Out :=
  serve (.ldGI16 d a b x) s (loadEntry b .s16 .i32)

/-- `ld.g.n16` (R186). -/
def execLdGN16 (d : VReg) (a : DReg) (b : Imm8) (x : ExtS) (s : State) : Out :=
  serve (.ldGN16 d a b x) s (loadEntry b .z16 .n32)

/-- `ld.g.32` (R186). -/
def execLdG32 (d : VReg) (a : DReg) (b : Imm8) (x : ExtSF) (s : State) : Out :=
  serve (.ldG32 d a b x) s (loadEntry b .w32 (loadTag .i32 x))

/-- `ld.g.64` (R186). -/
def execLdG64 (d a : DReg) (b : Imm8) (x : ExtSF) (s : State) : Out :=
  serve (.ldG64 d a b x) s (loadEntry b .w64 (loadTag .i64 x))

/-- `st.g.8` (R185). -/
def execStG8 (d : VReg) (a : DReg) (b : Imm8) (x : ExtS) (s : State) : Out :=
  serve (.stG8 d a b x) s (storeEntry b 1 (scopeOf x))

/-- `st.g.16` (R185). -/
def execStG16 (d : VReg) (a : DReg) (b : Imm8) (x : ExtS) (s : State) : Out :=
  serve (.stG16 d a b x) s (storeEntry b 2 (scopeOf x))

/-- `st.g.32` (R185). -/
def execStG32 (d : VReg) (a : DReg) (b : Imm8) (x : ExtS) (s : State) : Out :=
  serve (.stG32 d a b x) s (storeEntry b 4 (scopeOf x))

/-- `st.g.64` (R185). -/
def execStG64 (d a : DReg) (b : Imm8) (x : ExtS) (s : State) : Out :=
  serve (.stG64 d a b x) s (storeEntry b 8 (scopeOf x))

/-- `ld.t.32` (R190). -/
def execLdT32 (d : VReg) (a : TReg) (b : Src) (x : Ext) (s : State) : Out := serve (.ldT32 d a b x) s ldTEntry

/-- `st.t.32` (R190). -/
def execStT32 (d : VReg) (a : TReg) (b : Src) (x : Ext) (s : State) : Out := serve (.stT32 d a b x) s stTEntry

/-- `apconv.t` (R191). -/
def execApconvT (d : DReg) (a : TReg) (b : Src) (x : Ext) (s : State) : Out := serve (.apconvT d a b x) s apconvTEntry

/-- `apconv.l` (R191). -/
def execApconvL (d : DReg) (b : Src) (x : Ext) (s : State) : Out := serve (.apconvL d b x) s apconvLEntry

/-- `aptest` (R192). -/
def execAptest (d : PReg) (a : DReg) (b : BitVec 3) (x : Ext) (s : State) : Out :=
  serve (.aptest d a b x) s (aptestEntry b.toNat)

/-- `talloc` (R193). -/
def execTalloc (d : TReg) (a : KReg) (b : BitVec 3) (x : Ext) (s : State) : Out :=
  serve (.talloc d a b x) s (tallocEntry b.toNat)

/-- `trel` (R195). -/
def execTrel (d : TReg) (x : Ext) (s : State) : Out := serve (.trel d x) s trelEntry

/-- `pf` (R201): timing only. -/
def execPf (a : DReg) (b : Imm8) (x : Ext) (s : State) : Out :=
  serve (.pf a b x) s { ok := addressOk, body := fun _ s _ => .done s [] none [] }

/-- `wset` (R202). -/
def execWset (d : WReg) (a : KReg) (x : Bool) (s : State) : Out := serve (.wset d a x) s wsetEntry

/-- `wpos` (R205). -/
def execWpos (d : VReg) (a : WReg) (x : Ext) (s : State) : Out := serve (.wpos d a x) s wposEntry

/-- `wskip` (R205). -/
def execWskip (d : WReg) (b : KReg) (x : Ext) (s : State) : Out := serve (.wskip d b x) s wskipEntry

/-- `wclr` (R205). -/
def execWclr (d : WReg) (x : Bool) (s : State) : Out := serve (.wclr d x) s wclrEntry

/-- `ldk` (R189). -/
def execLdk (d a : KReg) (b : Imm8) (x : Ext) (s : State) : Out := serve (.ldk d a b x) s (ldkEntry b)

/-! ### Events -/

/-- The first operation of a group for which a test holds. -/
def Group.firstOp (g : Group) (p : Op → Bool) : Option Op := g.ops.find? (fun o => !o.ended && p o)

/-- The operation is a load with lanes not yet read. -/
def Op.unreadLoad (o : Op) : Bool :=
  match o.kind with
  | .load _ _ _ ls => ls.any (fun l => !l.read)
  | .ldk _ l => !l.read
  | _ => false

/-- The operation is a load that has been read. -/
def Op.readLoad (o : Op) : Bool :=
  match o.kind with
  | .load _ _ _ ls => ls.all (fun l => l.read)
  | .ldk _ l => l.read
  | _ => false

/-- The first lane of a load that has not been read gets its value. -/
def fillLane (v : DWord) : List LoadLane → List LoadLane
  | [] => []
  | l :: ls => if l.read then l :: fillLane v ls else { l with read := true, val := v } :: ls

/-- The place and size that a load reads next. -/
def OpKind.nextRead (k : OpKind) : Option (Loc × Nat) :=
  match k with
  | .load _ _ e ls => (ls.find? (fun l => !l.read)).map (fun l => (l.loc, e.size))
  | .ldk _ l => if l.read then none else some (l.loc, 8)
  | _ => none

/-- The value at issue of the lane that a load reads next, where it was taken (R166). -/
def OpKind.nextEarly (k : OpKind) : Option (DWord × List Nat) :=
  match k with
  | .load _ _ _ ls => (ls.find? (fun l => !l.read)).bind (·.early)
  | .ldk _ l => l.early
  | _ => none

/-- A load of the leaf that a used up memory budget has stalled stands before one with this turn (R62). -/
def State.stalledBefore (s : State) (leaf : Nat) (turn : Option Nat) : Bool :=
  s.groups.any (fun p => p.2.leaf == leaf && p.2.resident && p.2.ops.any (fun o => match o.stall, turn with
    | some m, some k => decide (m < k)
    | some _, none => true
    | none, _ => false))

/-- The load with its next lane read. -/
def OpKind.fill (k : OpKind) (v : DWord) : OpKind :=
  match k with
  | .load d w e ls => .load d w e (fillLane v ls)
  | .ldk kd l => .ldk kd { l with read := true, val := v }
  | k => k

/-- The next lane of a load read (R281, R182): a line poisoned since its issue gives what the lane would have read then, where
that was taken. -/
def State.readNext (s : State) (gid : Nat) (g : Group) (o : Op) (l : Loc) (n : Nat) : State × DWord × List Nat :=
  match (if s.wouldPoison l then o.kind.nextEarly else none) with
  | some (v, ws) => (s, v, ws.filter (fun w => s.flight.any (fun x => x.id = w)))
  | none =>
    let (s, bs, ws) := s.laneRead gid g (some o.id) l n
    (s, BitVec.ofNat 64 (leNat bs), ws)

/-- LOAD_READ (R281): the next lane of the group's oldest unread load is read, in issue and lane order, unless the memory budget
stalls it (R62). -/
def State.loadRead (s : State) (gid : Nat) : State :=
  match s.awake gid with
  | none => s
  | some g =>
    match g.firstOp Op.unreadLoad with
    | none => s
    | some o =>
      match o.kind.nextRead with
      | none => s
      | some (l, n) =>
        if s.memoryStalls g.leaf l || s.stalledBefore g.leaf o.stall then
          if o.stall.isSome then s else s.bump.modOp gid o.id (fun o => { o with stall := some s.nextId })
        else
        let (s, v, ws) := s.readNext gid g o l n
        let k := o.kind.fill v
        let s := s.modOp gid o.id (fun o => { o with kind := k, stall := none })
        s.learn gid o.id ws k.nextRead.isNone

/-- LOAD_RETIRE (R187): the oldest load, once read, writes its destination and retires. -/
def State.loadRetire (s : State) (gid : Nat) : State :=
  match s.awake gid with
  | none => s
  | some g =>
    match g.firstOp (fun o => o.cls = .ld) with
    | none => s
    | some o =>
      if !o.readLoad then s
      else
        let s := s.modGroup gid (fun g =>
          match o.kind with
          | .load d wide e ls => ls.foldl (fun g l =>
              if wide then g.dPut l.mode d l.lane (e.value l.val.toNat)
              else g.vPut l.mode d l.lane (BitVec.ofNat 32 (e.value l.val.toNat).toNat)) g
          | .ldk kd l => g.kPut kd l.val
          | _ => g)
        s.endOp gid o.id

/-- STORE_RETIRE (R187): the oldest store whose bytes have performed at its scope retires. -/
def State.storeRetire (s : State) (gid : Nat) : State :=
  match s.awake gid with
  | none => s
  | some g =>
    match g.firstOp (fun o => match o.kind with
      | .store ws lvl => ws.all (fun w => s.performed w lvl)
      | _ => false) with
    | none => s
    | some o => s.endOp gid o.id

/-- TRIGGER_RETIRE (R286): the oldest trigger whose lanes' writes have performed at PACKAGE retires, and its lanes have
triggered (R49). -/
def State.triggerRetire (s : State) (gid : Nat) : State :=
  match s.awake gid with
  | none => s
  | some g =>
    match g.firstOp (fun o => match o.kind with
      | .trigger _ ws => ws.all (fun w => s.performed w 4)
      | _ => false) with
    | none => s
    | some o =>
      if !g.oldest o then s
      else
      let ls := match o.kind with
        | .trigger ls _ => ls
        | _ => []
      (s.modLanes gid ls (fun _ l => { l with triggered := true })).endOp gid o.id

/-- Bytes that a tile of a size takes in a store (R167). -/
def storeSpan (lvl : Bool) (size : Nat) : Nat := (size + storeUnit lvl - 1) / storeUnit lvl * storeUnit lvl

/-- The handle of an entry of a store (R165). -/
def handleAt (lvl : Bool) (unit index : Nat) : Nat := lvl.toNat * 2 ^ 31 + unit * 2 ^ 22 + index

/-- The place at `base` in a store is free for `span` bytes. -/
def State.storeFree (s : State) (lvl : Bool) (unit base span : Nat) : Bool :=
  decide (base + span ≤ storeBytes lvl) &&
    s.tiles.all (fun p => handleLvl p.1 != lvl.toNat || handleUnit p.1 != unit ||
      decide (p.2.base + storeSpan lvl p.2.size ≤ base) || decide (base + span ≤ p.2.base))

/-- A group that waits for a tile gets a handle. -/
def State.giveTile (s : State) (gid op t : Nat) (h : Nat) (shape : DWord) : State :=
  let s := s.modGroup gid (fun g => g.tPut t { handle := BitVec.ofNat 32 h, tag := Tag.ofCode (shapeTag shape) })
  { s with waits := s.waits.filter (fun w => !(w.gid == gid && w.op == op)) }.endOp gid op

/-- The request for a tile at the head of a store's queue: its group, operation, register, owner and shape (R194). -/
def State.tallocHead (s : State) (lvl : Bool) (unit : Nat) : Option (Nat × Nat × Nat × Owner × DWord) :=
  s.waits.findSome? (fun w =>
    if w.lvl != lvl || w.unit != unit then none
    else match s.group w.gid with
      | none => none
      | some g => match g.op w.op with
        | some o => match o.kind with
          | .talloc t ow sh => some (w.gid, w.op, t, ow, sh)
          | _ => none
        | none => none)

/-- TALLOC_GRANT (R193, R194): the head of a store's queue gets the entry `index` and the space at `base`, all bytes
zero (R167); or joins the tile of its key, where another group's request has been served meanwhile. -/
def State.tallocGrant (s : State) (lvl : Bool) (unit index base : Nat) : State :=
  match s.tallocHead lvl unit with
  | none => s
  | some (gid, op, t, ow, sh) =>
    match s.tileOf ow t with
    | some (h, x) => if x.shape = sh then s.giveTile gid op t h sh else s
    | none =>
      let h := handleAt lvl unit index
      if storeEntries lvl ≤ index || base % storeUnit lvl ≠ 0 || (tblFind s.tiles h).isSome ||
          !s.storeFree lvl unit base (storeSpan lvl (shapeSize sh)) then s
      else
        let leaf := match s.group gid with
          | some g => g.leaf
          | none => 0
        let x : Tile := { owner := ow, leaf := leaf, reg := t, shape := sh, size := shapeSize sh, base := base,
                          state := .ready, bytes := [] }
        { s with tiles := tblSet s.tiles h x }.giveTile gid op t h sh

/-- LOAD_READ (R281). -/
def execLoadRead (gid : Nat) (s : State) : Out := .next (s.loadRead gid)

/-- LOAD_RETIRE (R187). -/
def execLoadRetire (gid : Nat) (s : State) : Out := .next (s.loadRetire gid)

/-- STORE_RETIRE (R187). -/
def execStoreRetire (gid : Nat) (s : State) : Out := .next (s.storeRetire gid)

/-- TRIGGER_RETIRE (R286). -/
def execTriggerRetire (gid : Nat) (s : State) : Out := .next (s.triggerRetire gid)

/-- TALLOC_GRANT (R194). -/
def execTallocGrant (lvl : Bool) (unit index base : Nat) (s : State) : Out := .next (s.tallocGrant lvl unit index base)

end Sys2Proof.Machine
end

