-- ==== Sys2Proof/Machine/Objects.lean ====
section
/-!
DEFINITION. Barrier objects (R290 to R292): what an arrival, a drop, an expectation and a credit do to one, the phase that
a change may complete, and which objects a group may address through a handle or a barrier word (R291, R294).
-/

namespace Sys2Proof.Machine
open Sys2Proof

/-- `settle` of R292, where `old` is the object before the change: at most one phase completes. -/
def Barrier.settle (old b : Barrier) : Barrier :=
  if b.exparr ≤ b.arr ∧ b.expb ≤ b.landb ∧ (0 < b.exparr ∨ b.exparr < old.exparr) then
    { b with phase := b.phase + 1, arr := b.arr - min b.arr b.exparr, expb := 0, landb := 0 }
  else b

/-- `n` arrivals (R297). -/
def Barrier.arrive (b : Barrier) (n : Nat) : Barrier := b.settle { b with arr := b.arr + n }
/-- `n` lanes leave the expected arrivals (R297, R80). -/
def Barrier.drop (b : Barrier) (n : Nat) : Barrier := b.settle { b with exparr := b.exparr - min n b.exparr }
/-- `n` more bytes are expected; none where EXPB would overflow (R297). -/
def Barrier.expect (b : Barrier) (n : Nat) : Option Barrier :=
  if 0xFFFFFF < b.expb + n then none else some (b.settle { b with expb := b.expb + n })
/-- One landed byte is credited; LANDB saturates (R290, R199). -/
def Barrier.credit (b : Barrier) : Barrier := b.settle { b with landb := min (b.landb + 1) 0xFFFFFF }

/-- A phase packet leaves for another package, and is kept until it is acknowledged (R294). -/
def State.sendPhase (s : State) (p : PhaseOut) : State :=
  ({ s.bump with phases := tblSet s.phases s.nextId p }).putOut p.leaf (.phase p)

/-- Packages to which the phases of an object go: those with groups of its piece, besides this one (R294). -/
def Barrier.packages (b : Barrier) : List Nat :=
  match b.far, b.owner with
  | some home, .piece pid => (Config.piecePackages pid).filter (fun d => d != home)
  | _, _ => []

/-- An object replaced by what a change made of it; a phase that completes at an object of a POD-bound piece is sent to
the other packages of the piece (R294). -/
def State.setBarrier (s : State) (h : Nat) (old b : Barrier) : State :=
  let s := { s with barriers := tblSet s.barriers h b }
  if b.phase ≠ old.phase then
    b.packages.foldl (fun s d => s.sendPhase
      { leaf := b.leaf, dst := d, phase := { dpkg := s.dpkg, handle := BitVec.ofNat 32 h, phase := b.phase } }) s
  else s

/-- One change to an object, if it exists (R292). -/
def State.changeBarrier (s : State) (h : Nat) (f : Barrier → Barrier) : State :=
  match tblFind s.barriers h with
  | none => s
  | some b => s.setBarrier h b (f b)

/-- `n` landed bytes credited, one change each (R199, R292). -/
def State.credit (s : State) (h : Nat) : Nat → State
  | 0 => s
  | n + 1 => (s.changeBarrier h Barrier.credit).credit h n

/-- The die of an object's store does not run (R326). -/
def State.barAsleep (s : State) (h : Nat) : Bool :=
  s.asleep (if handleLvl h = 1 then handleUnit h * 4 else handleUnit h)

/-- An expectation applied to an object; the second part tells whether it was discarded (R297). -/
def State.applyExpect (s : State) (h n : Nat) : State × Bool :=
  match tblFind s.barriers h with
  | none => (s, false)
  | some b => match b.expect n with
    | some b' => (s.setBarrier h b b', false)
    | none => (s, true)

/-- The group may address the object of its own package that a handle names (R291). -/
def State.ownBarrier (s : State) (gid : Nat) (g : Group) (h : Nat) : Bool :=
  match tblFind s.barriers h with
  | some b => g.owns gid b.owner
  | none => false

/-- The group may address an object of another package: the armed barrier of one of its pieces, or one of a run that its
piece allocated there (R291, R294). -/
def State.farBarrier (s : State) (gid : Nat) (g : Group) (pkg h : Nat) : Bool :=
  g.pieces.any (fun pid => match s.piece pid with
    | some p => p.bar.toNat == h && p.barpkg.toNat == pkg && decide (p.bar ≠ 0xFFFFFFFF)
    | none => false) ||
  s.runs.any (fun p => decide (p.2.pkg = some pkg) && g.owns gid p.2.owner &&
    decide (p.2.first ≤ h) && decide (h < p.2.first + p.2.count))

/-- Fields of a barrier word (R291). -/
def wordHandle (w : DWord) : Nat := w.toNat % 2 ^ 32
def wordPhase (w : DWord) : Bool := bitAt w.toNat 32
def wordPkg (w : DWord) : Nat := w.toNat / 2 ^ 33 % 2 ^ 14
def wordFar (w : DWord) : Bool := bitAt w.toNat 47

/-- The object a barrier word names for a group: its handle, and the package that holds it when it is another one; none
where the word traps BARRIER (R291, R294, R296). -/
def State.barrierFor (s : State) (gid : Nat) (g : Group) (w : DWord) : Option (Nat × Option Nat) :=
  let h := wordHandle w
  let pkg := wordPkg w
  if w.toNat / 2 ^ 48 ≠ 0 then none
  else if !wordFar w then if pkg = 0 && s.ownBarrier gid g h then some (h, none) else none
  else if pkg = s.dpkg then if s.ownBarrier gid g h then some (h, none) else none
  else if s.farBarrier gid g pkg h then some (h, some pkg) else none

/-- PHASE as the group reads it: of the object, or of its mirror (R294, R298). -/
def State.phaseOf (s : State) (h : Nat) (pkg : Option Nat) : BitVec 24 :=
  match pkg with
  | none => match tblFind s.barriers h with
    | some b => b.phase
    | none => 0
  | some d => match s.mirrors.find? (fun m => m.dpkg = d && m.handle.toNat = h) with
    | some m => m.phase
    | none => 0

/-- The barrier scope of an object for a group (R293, R294). -/
def State.barrierScope (s : State) (h : Nat) (pkg : Option Nat) : BitVec 4 :=
  match pkg with
  | none => match tblFind s.barriers h with
    | some b => b.scope
    | none => 10
  | some d => if d / 256 = s.dpkg / 256 then 6 else 10

/-! ### What a waiting gang keeps (R82) -/

/-- The instance of a domain that holds a core (R2). -/
def instanceOf (domain core : Nat) : Nat :=
  if domain ≤ 1 then core else if domain = 2 then clusterOf core else if domain = 3 then dieOf core else 0

/-- Pieces a planned group lies in. -/
def GroupPlan.all (g : GroupPlan) : List Nat := distinct ((g.pieces ++ g.own.flatten).filter (fun p => p != 0))

/-- A launch's gang that waits for an instance of its domain with a core in it: the gang's piece (R82). -/
def State.gangWaits (s : State) (l : Launch) (core : Nat) : Option Nat :=
  match l.gangAt, l.plans with
  | some c, g :: _ => match g.gang with
    | none => none
    | some q => match s.piece q with
      | none => none
      | some p => if instanceOf (l.domain p.level) c == instanceOf (l.domain p.level) core then some q else none
  | _, _ => none

/-- Cores that a waiting gang of another launch keeps (R82). -/
def State.keptFor (s : State) (lid : Option Nat) (core : Nat) : Bool :=
  s.launches.any (fun p => lid != some p.1 && (s.gangWaits p.2 core).isSome)

/-- Barrier objects that the gangs which wait for a core's instance still need (R82). -/
def State.gangObjects (s : State) (core : Nat) : Nat :=
  (s.launches.map (fun p => match s.gangWaits p.2 core with
    | none => 0
    | some q => (distinct ((p.2.plans.filter (fun g => g.gang = some q)).flatMap GroupPlan.all)).countP (fun n =>
        match s.piece n with
        | some x => x.born.isNone && p.2.barrier x.level
        | none => false))).foldl (· + ·) 0

/-- An accumulator set of a core. -/
def Core.set (c : Core) (z : Nat) : AccSet := tblGet c.sets {} z

/-- The group that holds the claim of a set; a claim ends when its group's last lane has exited and its TX counter is zero
(R240). -/
def State.holder (s : State) (core z : Nat) : Option Nat :=
  match ((s.core core).set z).claim with
  | none => none
  | some gid => match s.group gid with
    | some g => if g.allExited && g.count .tx == 0 then none else some gid
    | none => none

end Sys2Proof.Machine
end

