-- ==== Sys2Proof/Machine/Copy.lean ====
section
/-!
DEFINITION. Asynchronous copies (R196 to R200): the descriptor of `cp` and its checks at issue, the moving of one byte, the
fault that ends a copy, and retirement with the credits and tile states of R168 and R199.
-/

namespace Sys2Proof.Machine
open Sys2Proof

/-- A word read as a signed 32-bit number. -/
def signed32 (x : Nat) : Int := (BitVec.ofNat 32 x).toInt

/-- The address of byte `b` of a copy's source or destination, rows one after the other (R196). -/
def rowAddr (base : DWord) (stride : Int) (rowBytes b : Nat) : DWord :=
  BitVec.ofInt 64 (base.toNat + (b / rowBytes : Nat) * stride + (b % rowBytes : Nat))
def CopyOp.srcAt (c : CopyOp) (b : Nat) : DWord := rowAddr c.src c.sstride c.rowBytes b
def CopyOp.dstAt (c : CopyOp) (b : Nat) : DWord := rowAddr c.dst c.dstride c.rowBytes b
/-- Bytes a copy moves. -/
def CopyOp.total (c : CopyOp) : Nat := c.rows * c.rowBytes

/-! ### Checks at issue -/

/-- Aperture of an end of a copy: GLOBAL or a tile (R197). -/
def copyAperture (a : DWord) : Option Aperture :=
  match aperture a with
  | some (.local_ _) => none
  | x => x

/-- No row leaves the offset field of its aperture (R197). -/
def rowsFit (a : DWord) (stride : Int) (rows rowBytes : Nat) : Bool :=
  let lim : Nat := match aperture a with
    | some (.global _) => 2 ^ 48
    | _ => 2 ^ 24
  let off : Int := (a.toNat % lim : Nat)
  let fits (o : Int) : Bool := decide (0 ≤ o) && decide (o + rowBytes ≤ lim)
  fits off && fits (off + stride * ((rows : Int) - 1))

/-- Order 3 of R197 for one end: the first row of a tile range whose check fails, with its cause and address. -/
def State.tileRange (s : State) (gid : Nat) (g : Group) (a : DWord) (stride : Int) (rows rowBytes : Nat) :
    Option (BitVec 8 × DWord) :=
  match aperture a with
  | some (.tile cl h off) =>
    match s.tileFor gid g cl h with
    | none => some (causeAccess, a)
    | some t =>
      let room : Int := t.size - (off + rowBytes)
      let i := room / stride + 1
      if room < 0 then some (causeExtent, a)
      else if 0 < stride ∧ i < rows then some (causeExtent, BitVec.ofInt 64 (a.toNat + stride * i))
      else none
  | _ => none

/-- The tile handle of a generic address, if it is one of a tile. -/
def tileHandle (a : DWord) : Option Nat :=
  match aperture a with
  | some (.tile _ h _) => some h
  | _ => none

/-- A copy into, or out of, the tile of an address is blocked (R168). -/
def State.copyBlocked (s : State) (a : DWord) (into : Bool) : Bool :=
  match tileHandle a with
  | none => false
  | some h => match tblFind s.tiles h with
    | none => false
    | some t => match t.state with
      | .ready => false
      | .filling _ => !into
      | .draining _ => into

/-- A tile with one more copy into it, or out of it (R168). -/
def TileState.more (t : TileState) (into : Bool) : TileState :=
  match t with
  | .ready => if into then .filling 1 else .draining 1
  | .filling n => .filling (n + 1)
  | .draining n => .draining (n + 1)
/-- A tile with one copy fewer. -/
def TileState.less (t : TileState) : TileState :=
  match t with
  | .ready => .ready
  | .filling n => if n ≤ 1 then .ready else .filling (n - 1)
  | .draining n => if n ≤ 1 then .ready else .draining (n - 1)

/-- The tile of an address takes or loses a copy. -/
def State.tileCopy (s : State) (a : DWord) (f : TileState → TileState) : State :=
  match tileHandle a with
  | some h => { s with tiles := tblMod s.tiles h (fun t => { t with state := f t.state }) }
  | none => s

/-- Order 5 of R197: CREDIT is 1 and BAR names no object the group may address; a reserved bit is taken at order 1. -/
def State.creditBad (s : State) (gid : Nat) (g : Group) (w : DWord) : Bool :=
  bitAt w.toNat 32 && !s.ownBarrier gid g (wordHandle w)
/-- The barrier a credit word names. -/
def creditOf (w : DWord) : Option (BitVec 32) := if bitAt w.toNat 32 then some (BitVec.ofNat 32 w.toNat) else none

/-- A copy's descriptor as R196 reads it. -/
def copyOf (c : Ctx) (g : Group) (sc : Nat) : CopyOp where
  src := c.kA g 0
  dst := c.kA g 1
  rows := (c.kA g 2).toNat / 2 ^ 32 % 65536
  rowBytes := (c.kA g 2).toNat % 2 ^ 32
  sstride := signed32 (c.kA g 3).toNat
  dstride := signed32 ((c.kA g 3).toNat / 2 ^ 32)
  credit := creditOf (c.kB g)
  scope := max sc 2
  mode := c.m
  lane := c.lowest.getD 0
  done := []
  writes := []
  ended := false
  suspended := false
  pageTag := none
  answered := false
  credited := 0

/-- The first of the checks of R197 that fails. -/
def State.copyFault (s : State) (c : Ctx) (g : Group) (x : CopyOp) : Option (BitVec 8 × DWord) :=
  let ka := c.kA g 0
  let kb := c.kB g
  if (c.kA g 2).toNat / 2 ^ 48 != 0 || kb.toNat / 2 ^ 33 != 0 || x.rows == 0 || decide (x.rowBytes < 16) ||
      decide (16777216 < x.rowBytes) || x.rowBytes % 16 != 0 || (copyAperture x.src).isNone || (copyAperture x.dst).isNone ||
      !rowsFit x.src x.sstride x.rows x.rowBytes || !rowsFit x.dst x.dstride x.rows x.rowBytes then some (causeAccess, ka)
  else if x.src.toNat % 16 != 0 || x.dst.toNat % 16 != 0 || x.sstride % 16 != 0 || x.dstride % 16 != 0 then
    some (causeAlign, ka)
  else match s.tileRange c.gid g x.src x.sstride x.rows x.rowBytes with
  | some f => some f
  | none => match s.tileRange c.gid g x.dst x.dstride x.rows x.rowBytes with
    | some f => some f
    | none =>
      if (tileHandle x.src).isSome && decide (tileHandle x.src = tileHandle x.dst) then some (causeTileState, ka)
      else if s.creditBad c.gid g kb then some (causeBarrier, kb)
      else none

/-- `cp` (R196, R197). -/
def cpEntry (sc : Nat) : Entry where
  cls := some .cp
  body c s g :=
    if c.active.isEmpty then .done (s.addEmpty c.gid .cp) [] none []
    else
      let x := copyOf c g sc
      match s.copyFault c g x with
      | some (cause, v) => trapActive c s cause v
      | none =>
        if s.copyBlocked x.src false || s.copyBlocked x.dst true then .blocked
        else
          let s := (s.tileCopy x.src (fun t => t.more false)).tileCopy x.dst (fun t => t.more true)
          .done (s.addOp c.gid .cp (.copy x)) [] none []

/-- `cp` (R196). -/
def execCp (a b : KReg) (x : ExtS) (s : State) : Out := serve (.cp a b x) s (cpEntry (scopeOf x))

/-! ### Moving bytes -/

/-- The place of one byte of a copy, translated as it is moved (R197), and the table entries used. -/
def State.copyPlace (s : State) (g : Group) (m : Mode) (a : DWord) (n : Need) : Except XFault (Loc × List TlbEntry) :=
  match aperture a with
  | some (.tile _ h off) => .ok (.tile h off, [])
  | some (.global va) => match s.translate (g.xlate m) n va with
    | .ok (p, es) => .ok (.sys p, es)
    | .error e => .error e
  | _ => .error .access

/-- What comes of one end of a byte that is to be moved. -/
inductive Reach where
  | place (l : Loc)
  | held
  | fault (cause : BitVec 8) (xval : DWord)
  deriving DecidableEq, Repr

/-- The operation waits for a page already. -/
def State.pageAwaited (s : State) (gid op stage page : Nat) : Bool :=
  s.pageReqs.any (fun p => p.2.stage = stage && p.2.page = page && p.2.ops.contains (gid, op)) ||
    s.pageWaits.any (fun w => w.gid = gid && w.op = some op && w.stage = stage && w.page = page)

/-- One end of a byte reached: its place, or held on a page request posted for the group, or a fault (R200). A stage-1
page that no ring can report is a fault (R338). -/
def State.reach (s : State) (gid : Nat) (g : Group) (op : Nat) (m : Mode) (a : DWord) (n : Need) : State × Reach :=
  match s.copyPlace g m a n with
  | .ok (l, es) => (s.noteWalk (g.xlate m) g.launch a.toNat es none, .place l)
  | .error .busy => (s, .held)
  | .error (.page st p) =>
    if st == 1 && !ringOn (s.vi g.vi).prctl then (s, .fault causeAccess a)
    else if s.pageAwaited gid op st p then (s, .held)
    else
      let f : PageWait := { leaf := g.leaf, vi := g.vi, stage := st, page := p,
                            acc := s.pageCode (g.xlate m) n st a.toNat, user := decide (m = .user),
                            gid := gid, lane := 32, op := some op, again := false }
      ((s.raiseFault f false).1, .held)
  | .error _ => (s, .fault causeAccess a)

/-- A source byte of a copy read at one step on the group's path; a poisoned line gives zero (R198, R182). -/
def State.copyRead (s : State) (gid : Nat) (g : Group) (l : Loc) : State × Byte :=
  let (s, bs, _) := s.laneRead gid g none l 1
  (s, bs.getD 0 0)

/-- A byte put by an engine of a core: into a tile directly, or as a one-byte write into the core's CB outside SQ (R282,
R285). The answer holds the number of the write, if it is one. -/
def State.engineWrite (s : State) (gid : Nat) (g : Group) (l : Loc) (b : Byte) : State × Option Nat :=
  let w : Write := { id := s.nextId, gid := 0, lane := 32, launch := g.launch, core := some g.core, level := 1,
                     bytes := [(l, b)], by_ := gid }
  match l with
  | .sys _ => (s.bump.addWrite w, some s.nextId)
  | _ => (s.land w, none)

/-- A copy with byte `b` written. -/
def CopyOp.moved (c : CopyOp) (b : Nat) (w : Option Nat) : CopyOp :=
  { c with done := c.done ++ [b], writes := c.writes ++ w.toList, data := tblErase c.data b }

/-- A copy's operation with its parameters changed. -/
def OpKind.setCopy (k : OpKind) (f : CopyOp → CopyOp) : OpKind :=
  match k with
  | .copy c => .copy (f c)
  | .wbld r o c => .wbld r o (f c)
  | .remoteCopy out d w o c => .remoteCopy out d w o (f c)
  | k => k
/-- The parameters of a copy's operation. -/
def OpKind.copy? (k : OpKind) : Option CopyOp :=
  match k with
  | .copy c => some c
  | .wbld _ _ c => some c
  | .remoteCopy _ _ _ _ c => some c
  | _ => none

/-- A fault met after issue ends a copy: it moves no further byte, and its error is kept for its retirement (R200). -/
def State.endCopy (s : State) (gid op : Nat) (cause : BitVec 8) (xval : DWord) : State :=
  s.modOp gid op (fun o =>
    { o with kind := o.kind.setCopy (fun c => { c with ended := true }),
             err := some (o.err.getD { cause := cause, xval := xval }) })

/-- The source byte `b` of a copy is read, and kept until it is written, unless the memory budget stalls it (R198, R285, R62). -/
def State.copyFetch (s : State) (gid : Nat) (g : Group) (op : Nat) (c : CopyOp) (b : Nat) : State :=
  match s.reach gid g op c.mode (c.srcAt b) { r := true } with
  | (s, .held) => s
  | (s, .fault cause v) => s.endCopy gid op cause v
  | (s, .place src) =>
    if s.memoryStalls g.leaf src then s
    else
      let (s, x) := s.copyRead gid g src
      s.modOp gid op (fun o => { o with kind := o.kind.setCopy (fun c => { c with data := tblSet c.data b x }) })

/-- A byte that has been read is written (R198, R285). -/
def State.copyPut (s : State) (gid : Nat) (g : Group) (op : Nat) (c : CopyOp) (b : Nat) (x : Byte) : State :=
  match s.reach gid g op c.mode (c.dstAt b) { w := true } with
  | (s, .held) => s
  | (s, .fault cause v) => s.endCopy gid op cause v
  | (s, .place dst) =>
    let (s, w) := s.engineWrite gid g dst x
    s.modOp gid op (fun o => { o with kind := o.kind.setCopy (fun c => c.moved b w) })

/-- The next step of a byte of a local copy (R198, R285): its source byte is read, and at a later step it is written. -/
def State.copyByte (s : State) (gid : Nat) (g : Group) (op : Nat) (c : CopyOp) (b : Nat) : State :=
  match tblFind c.data b with
  | none => s.copyFetch gid g op c b
  | some x => s.copyPut gid g op c b x

/-- A copy may move byte `b` now. -/
def CopyOp.mayMove (c : CopyOp) (b : Nat) : Bool :=
  !c.ended && !c.suspended && decide (b < c.total) && !c.done.contains b

/-- Every byte of a copy has been moved, or a fault has ended it. -/
def CopyOp.over (c : CopyOp) : Bool := !c.suspended && (c.ended || decide (c.done.length = c.total))

/-- The writes of a copy have performed at a level. -/
def State.copyPerformed (s : State) (c : CopyOp) (lvl : Nat) : Bool := c.writes.all (fun w => s.performed w lvl)

/-- The object that a copy credits lies on a die that does not run: no credit reaches it (R326). -/
def State.creditAsleep (s : State) (c : CopyOp) : Bool := match c.credit with
  | some b => s.barAsleep b.toNat
  | none => false

/-- A byte that the copy has moved and that has performed at the copy's scope is credited, if more have than were credited
(R199, R285). -/
def State.creditLanded (s : State) (gid op : Nat) (c : CopyOp) : State :=
  let landed := c.done.length - (c.writes.filter (fun w => !s.performed w (retireLevel c.scope))).length
  match c.credit with
  | some b =>
    if landed ≤ c.credited || s.creditAsleep c then s
    else (s.credit b.toNat 1).modOp gid op (fun o =>
      { o with kind := o.kind.setCopy (fun c => { c with credited := c.credited + 1 }) })
  | none => s

/-- The end of a copy: what is not yet credited is credited, its tiles lose it, poisoned lines that it wrote whole are
clean once its writes have landed, and it retires (R199, R200, R168, R182). -/
def State.finishCopy (s : State) (gid : Nat) (o : Op) (c : CopyOp) : State :=
  let s := match c.credit with
    | some b => s.credit b.toNat (c.total - c.credited)
    | none => s
  let s := (s.tileCopy c.src TileState.less).tileCopy c.dst TileState.less
  s.endOp gid o.id o.err

/-- Places of the bytes a copy has written in memory, for the lines it wrote whole. -/
def State.copyPlaces (s : State) (g : Group) (c : CopyOp) : List Loc :=
  c.done.filterMap (fun b => match s.copyPlace g c.mode (c.dstAt b) { w := true } with
    | .ok (l, _) => some l
    | .error _ => none)

/-- COPY_RETIRE (R199): the oldest copy whose bytes have all been written, have performed at its scope, and are
credited. -/
def State.copyRetire (s : State) (gid : Nat) : State :=
  match s.awake gid with
  | none => s
  | some g =>
    match g.firstOp (fun o => match o.kind with
      | .copy c => c.over && s.copyPerformed c (retireLevel c.scope) && !s.creditAsleep c
      | _ => false) with
    | none => s
    | some o => match o.kind with
      | .copy c => ((s.heal (s.copyPlaces g c) c.writes).settleLines).finishCopy gid o c
      | _ => s

/-- COPY_RETIRE (R199). -/
def execCopyRetire (gid : Nat) (s : State) : Out := .next (s.copyRetire gid)

end Sys2Proof.Machine
end

