-- ==== Sys2Proof/Machine/MatrixMath.lean ====
section
/-!
DEFINITION. The arithmetic of the matrix engine (R239, R243, R245, R247, R249, R253, R256): operand elements and their
scales, compressed panel rows, terms aligned to the common exponent of an accumulator set, the set's updates, its status
word and raw image, and the conversion of its elements. Pure functions of bytes and sets.
-/

namespace Sys2Proof.Machine
open Sys2Proof

/-! ### Operand formats -/

/-- An operand format of `mma` (R243): element width, exponent bytes per 96-byte row, and how an element is read. -/
structure MFmt where
  w : Nat
  exb : Nat
  ieee : Option Fmt
  block : BFmt
  deriving DecidableEq, Repr

/-- TB8, TB6, TB4, BF16, F16 and F32 by number 0 to 5, in the order of the opcodes (R241). -/
def mfmt (n : Nat) : MFmt :=
  match n with
  | 0 => ⟨8, 6, none, bfmtTB8⟩
  | 1 => ⟨6, 8, none, bfmtTB6⟩
  | 2 => ⟨4, 12, none, bfmtTB4⟩
  | 3 => ⟨16, 0, some fmtBF16, bfmtTB8⟩
  | 4 => ⟨16, 0, some fmtF16, bfmtTB8⟩
  | _ => ⟨32, 0, some fmtF32, bfmtTB8⟩

/-- Elements of a 96-byte row (R243). -/
def MFmt.count (f : MFmt) : Nat := 768 / f.w

/-- An element: q × 2^e, an infinity, or a NaN (R243). -/
inductive MElem where
  | fin (q e : Int)
  | inf (s : Bool)
  | nan
  deriving DecidableEq, Repr

/-- An IEEE element (R243). -/
def ieeeElem (f : Fmt) (x : Nat) : MElem :=
  let s := bitAt x (f.ebits + f.frac)
  let ex := bitsOf x f.frac f.ebits
  let fr := x % 2 ^ f.frac
  if ex = 2 ^ f.ebits - 1 then if fr = 0 then .inf s else .nan
  else
    let q : Int := if ex = 0 then fr else 2 ^ f.frac + fr
    .fin (if s then -q else q) ((max ex 1 : Nat) - f.bias - f.frac)

/-- Element `i` with code `x`, among the exponent bytes of its row (R243, R217). -/
def MFmt.elem (f : MFmt) (expo : List Byte) (i x : Nat) : MElem :=
  match f.ieee with
  | some g => ieeeElem g x
  | none =>
    let b := f.block
    let e := (expo.getD (2 * (i / 32) + (bitAt x (b.w - 1)).toNat) 0).toNat
    let q : Int := x % 2 ^ (b.m + 1)
    if e = 0xFF then .nan else .fin (if bitAt x (b.w - 2) then -q else q) ((e : Int) - 127 - b.m)

/-- Elements of a payload, read as one little-endian integer (R218). -/
def splitElems (w n : Nat) (bytes : List Byte) : List Nat :=
  let v := leNat bytes
  (List.range n).map (fun i => v / 2 ^ (w * i) % 2 ^ w)

/-- The higher of two scales, where both exist. -/
def maxScale (a b : Option Int) : Option Int :=
  match a, b with
  | some x, some y => some (max x y)
  | some x, none => some x
  | none, y => y

/-- The highest of some scales. -/
def topScale (l : List (Option Int)) : Option Int := l.foldl maxScale none

/-- The scale of a block: its higher exponent, ignoring 0xFF (R243). -/
def blockScale (b : BFmt) (ea eb : Byte) : Option Int :=
  let one (x : Byte) : Option Int := if x = 0xFF then none else some ((x.toNat : Int) - 127 - b.m)
  maxScale (one ea) (one eb)

/-- The highest scale of the blocks of an exponent plane. -/
def planeScale (b : BFmt) : List Byte → Option Int
  | ea :: eb :: r => maxScale (blockScale b ea eb) (planeScale b r)
  | _ => none

/-- The scale of a finite IEEE element. -/
def MElem.scale : MElem → Option Int
  | .fin _ e => some e
  | _ => none

/-- The highest scale of a row, whole or compressed: of its blocks, or of its present elements (R247). -/
def MFmt.rowScale (f : MFmt) (expo : List Byte) (elems : List MElem) : Option Int :=
  match f.ieee with
  | some _ => topScale (elems.map MElem.scale)
  | none => planeScale f.block expo

/-! ### Compressed rows -/

/-- A compressed row (R245): its elements by index, absent ones none, its exponent bytes, and the unit after it. -/
structure PanelRow where
  elems : List (Option MElem)
  expo : List Byte
  next : Nat
  deriving DecidableEq, Repr

/-- The present elements of a row put at their indexes. -/
def spread (f : MFmt) (expo : List Byte) (mask : Nat) : Nat → List Nat → List Nat → List (Option MElem)
  | _, [], _ => []
  | i, _ :: is, xs =>
    if bitAt mask i then
      match xs with
      | x :: r => some (f.elem expo i x) :: spread f expo mask (i + 1) is r
      | [] => none :: spread f expo mask (i + 1) is []
    else none :: spread f expo mask (i + 1) is xs

/-- The compressed row at a unit of a buffer, none when it extends past unit `limit` (R245, R251); its exponent bytes are `kept`
where the prepass has read them (R252). -/
def MFmt.panelRow (f : MFmt) (buf : Tbl Byte) (unit limit : Nat) (kept : Option (List Byte)) : Option PanelRow :=
  let rd (n len : Nat) : List Byte := (List.range len).map (fun j => tblGet buf 0 (16 * unit + n + j))
  let mb := f.count / 8
  if 16 * limit < 16 * unit + mb + f.exb then none
  else
    let mask := leNat (rd 0 mb)
    let c := ((List.range f.count).filter (fun i => bitAt mask i)).length
    let bytes := (c * f.w + 7) / 8
    let next := unit + (mb + f.exb + bytes + 15) / 16
    if limit < next then none
    else
      let expo := kept.getD (rd mb f.exb)
      let xs := splitElems f.w c (rd (mb + f.exb) bytes)
      some ⟨spread f expo mask 0 (List.range f.count) xs, expo, next⟩

/-- Up to `n` rows from a unit on, and the unit after them; the rows stop before one that does not fit. -/
def MFmt.panelRows (f : MFmt) (buf : Tbl Byte) (limit : Nat) : Nat → Nat → List (List Byte) → List PanelRow × Nat
  | 0, u, _ => ([], u)
  | n + 1, u, kept =>
    match f.panelRow buf u limit kept.head? with
    | none => ([], u)
    | some r =>
      let (rs, v) := f.panelRows buf limit n r.next kept.tail
      (r :: rs, v)

/-! ### Terms -/

/-- The join of two SPEC codes (R239). -/
def Spec.join (a b : Spec) : Spec :=
  match a, b with
  | .finite, y => y
  | x, .finite => x
  | .nan, _ => .nan
  | _, .nan => .nan
  | x, y => if x = y then x else .nan

/-- The code of an infinity. -/
def Spec.ofInf (s : Bool) : Spec := if s then .ninf else .pinf

/-- What a term, or a sum of terms, adds to an element: its integer, whether bits were lost, whether a scale was above X,
and the SPEC code it joins (R247). -/
structure Term where
  t : Int := 0
  trunc : Bool := false
  chg : Bool := false
  spec : Spec := .finite
  deriving DecidableEq, Repr

/-- Two terms added. -/
def Term.add (a b : Term) : Term := ⟨a.t + b.t, a.trunc || b.trunc, a.chg || b.chg, a.spec.join b.spec⟩

/-- floor(p × 2^k), and whether it differs. -/
def floorShift (p k : Int) : Int × Bool :=
  if 0 ≤ k then (p * 2 ^ k.toNat, false) else (p / 2 ^ (-k).toNat, p % 2 ^ (-k).toNat != 0)

/-- A finite value p × 2^e aligned to the common exponent (R247). -/
def alignTerm (x p e : Int) : Term :=
  let (t, lost) := floorShift p (min e x - x + 56)
  { t := t, trunc := lost, chg := decide (x < e) }

/-- The term of an element of A and one of B; an absent element is +0 and has no scale (R247, R245). -/
def elemTerm (x : Int) (a : MElem) (b : Option MElem) : Term :=
  match a, b with
  | .nan, _ => { spec := .nan }
  | _, some .nan => { spec := .nan }
  | .inf _, none => { spec := .nan }
  | .inf s, some (.inf t) => { spec := Spec.ofInf (s != t) }
  | .inf s, some (.fin q _) => if q = 0 then { spec := .nan } else { spec := Spec.ofInf (s != decide (q < 0)) }
  | .fin q _, some (.inf t) => if q = 0 then { spec := .nan } else { spec := Spec.ofInf (decide (q < 0) != t) }
  | .fin _ _, none => {}
  | .fin q e, some (.fin r d) => alignTerm x (q * r) (e + d)

/-- The terms of one row of A and one of B summed. -/
def dotRow (x : Int) : List MElem → List (Option MElem) → Term
  | a :: as, b :: bs => (elemTerm x a b).add (dotRow x as bs)
  | _, _ => {}

/-! ### Accumulator sets -/

/-- Element `n` of a set as a signed integer, and its SPEC code. -/
def AccSet.get (z : AccSet) (n : Nat) : Int := (tblGet z.acc 0 n).toInt
def AccSet.specOf (z : AccSet) (n : Nat) : Spec := tblGet z.spec .finite n

/-- A term added to element `n` (R247). -/
def AccSet.addTerm (z : AccSet) (n : Nat) (d : Term) : AccSet :=
  { z with
      acc := tblPut z.acc 0 n (tblGet z.acc 0 n + BitVec.ofInt 128 d.t),
      spec := tblPut z.spec .finite n ((z.specOf n).join d.spec),
      trunc := z.trunc || d.trunc, chg := z.chg || d.chg }

/-- `raise_x` (R247). -/
def AccSet.raiseX (z : AccSet) (x : Int) : AccSet :=
  if !z.xset then { z with x := x, xset := true }
  else if x ≤ z.x then z
  else
    let d := 2 ^ (x - z.x).toNat
    { z with
        x := x,
        trunc := z.trunc || z.acc.any (fun p => p.2.toInt % d != 0),
        acc := z.acc.foldl (fun t p => tblPut t 0 p.1 (BitVec.ofInt 128 (p.2.toInt / d))) [] }

/-- The set after `mzero`, whose claim stays (R250). -/
def AccSet.clear (z : AccSet) : AccSet := { claim := z.claim }

/-- One K-step: rows of A by rows of B (R247). -/
def AccSet.kstep (z : AccSet) (as : List (List MElem)) (bs : List (List (Option MElem))) : AccSet :=
  let x := z.x
  let cells := (List.range 64).flatMap (fun i => (List.range 64).map (fun j =>
    (64 * i + j, dotRow x (as.getD i []) (bs.getD j []))))
  { cells.foldl (fun z c => z.addTerm c.1 c.2) z with ksteps := z.ksteps + 1 }

/-- A tile of F32 elements added (R256 `mbias`). -/
def AccSet.bias (z : AccSet) (vals : List MElem) : AccSet :=
  let z := match topScale (vals.map MElem.scale) with
    | some x => z.raiseX x
    | none => z
  let one (v : MElem) : Term := match v with
    | .fin q e => alignTerm z.x q e
    | .inf s => { spec := Spec.ofInf s }
    | .nan => { spec := .nan }
  let z' := (List.range vals.length).foldl (fun y n => y.addTerm n (one (vals.getD n (.fin 0 0)))) z
  { z' with ksteps := z.ksteps + 1 }

/-- Code of a SPEC (R239). -/
def Spec.num : Spec → Nat
  | .finite => 0
  | .pinf => 1
  | .ninf => 2
  | .nan => 3
/-- The SPEC of a code. -/
def Spec.ofNum : Nat → Spec
  | 0 => .finite
  | 1 => .pinf
  | 2 => .ninf
  | _ => .nan

/-- The status word of a set (R249); `claimed` when the reader holds the claim. -/
def AccSet.status (z : AccSet) (claimed : Bool) : DWord :=
  BitVec.ofNat 64 ((if z.xset then (BitVec.ofInt 16 z.x).toNat else 0) + 2 ^ 16 * z.xset.toNat + 2 ^ 17 * claimed.toNat +
    2 ^ 18 * (z.ksteps % 8192) + 2 ^ 32 * z.epi.toNat + 2 ^ 37 * (!z.spec.isEmpty).toNat + 2 ^ 38 * z.chg.toNat +
    2 ^ 39 * z.trunc.toNat + 2 ^ 40 * z.err.toNat)

/-- Byte `k` of the raw image of a set (R256). -/
def AccSet.imageByte (z : AccSet) (k : Nat) : Byte :=
  if k < 65536 then BitVec.ofNat 8 ((tblGet z.acc 0 (k / 16)).toNat / 256 ^ (k % 16))
  else if k < 66560 then
    BitVec.ofNat 8 ((List.range 4).foldl (fun n j => n + 4 ^ j * (z.specOf ((k - 65536) * 4 + j)).num) 0)
  else if k < 66568 then BitVec.ofNat 8 ((z.status false).toNat / 256 ^ (k - 66560))
  else 0

/-- Bytes of the raw image (R256). -/
def setImageSize : Nat := 66576

/-- The set that a raw image describes, whose claim stays; none where a reserved header bit is set (R256, R251). -/
def AccSet.ofImage (z : AccSet) (rd : Nat → Byte) : Option AccSet :=
  let w := leNat ((List.range 8).map (fun j => rd (66560 + j)))
  let r := leNat ((List.range 8).map (fun j => rd (66568 + j)))
  if w / 2 ^ 48 != 0 || bitAt w 31 || r != 0 then none
  else
    let acc := (List.range 4096).foldl (fun t n =>
      tblPut t 0 n (BitVec.ofNat 128 (leNat ((List.range 16).map (fun j => rd (16 * n + j)))))) []
    let spec := (List.range 4096).foldl (fun t n =>
      tblPut t .finite n (Spec.ofNum ((rd (65536 + n / 4)).toNat / 4 ^ (n % 4) % 4))) []
    some { acc := acc, spec := spec, x := if bitAt w 16 then (BitVec.ofNat 16 w).toInt else 0, xset := bitAt w 16,
           ksteps := bitsOf w 18 13, err := BitVec.ofNat 8 (w / 2 ^ 40), trunc := bitAt w 39, chg := bitAt w 38,
           epi := BitVec.ofNat 5 (w / 2 ^ 32), claim := z.claim }

/-! ### The epilogue -/

/-- The value of element `n` (R253). -/
def AccSet.value (z : AccSet) (n : Nat) : FVal :=
  match z.specOf n with
  | .nan => .nan false
  | .pinf => .inf false
  | .ninf => .inf true
  | .finite => if z.xset then .fin (decide (z.get n < 0)) (z.get n).natAbs (z.x - 56) else .fin false 0 0

/-- Bytes of an output row, its plane bytes, and the flags raised (R253). -/
structure EpiRow where
  bytes : List Byte
  plane : List Byte
  flags : Flags
  deriving DecidableEq, Repr

/-- A row converted to an IEEE target, element by element. -/
def ieeeRow (f : Fmt) (vs : List FVal) : EpiRow :=
  let rs := vs.map (f.roundVal .rne false)
  ⟨rs.flatMap (fun r => leBytes (f.width / 8) r.1), [], rs.foldl (fun x r => x ||| r.2) 0⟩

/-- A row converted to blocks of 32 elements (R253, R218, R220). -/
def blockRow (b : BFmt) (vs : List FVal) : EpiRow :=
  let one (c : BlockCode) : List Byte :=
    leBytes b.payload (c.elems.foldr (fun x n => x + 2 ^ b.w * n) 0)
  let c0 := b.encode (vs.take 32)
  let c1 := b.encode (vs.drop 32)
  ⟨one c0 ++ one c1, [BitVec.ofNat 8 c0.ea, BitVec.ofNat 8 c0.eb, BitVec.ofNat 8 c1.ea, BitVec.ofNat 8 c1.eb],
    (c0.flags ++ c1.flags).foldl (fun x f => x ||| f) 0⟩

/-- Row `i` of a set converted to a target (R253). -/
def AccSet.epiRow (z : AccSet) (t : MTarget) (i : Nat) : EpiRow :=
  let vs := (List.range 64).map (fun j => z.value (64 * i + j))
  match t with
  | .f32 => ieeeRow fmtF32 vs
  | .bf16 => ieeeRow fmtBF16 vs
  | .f16 => ieeeRow fmtF16 vs
  | .tb8 => blockRow bfmtTB8 vs
  | .tb6 => blockRow bfmtTB6 vs
  | .tb4 => blockRow bfmtTB4 vs

end Sys2Proof.Machine

namespace Sys2Proof

/-- Bytes of an output row (R253). -/
def MTarget.rowBytes : MTarget → Nat
  | .f32 => 256
  | .bf16 => 128
  | .f16 => 128
  | .tb8 => 64
  | .tb6 => 48
  | .tb4 => 32

/-- The target is an IEEE format. -/
def MTarget.ieee : MTarget → Bool
  | .f32 => true
  | .bf16 => true
  | .f16 => true
  | _ => false

end Sys2Proof
end

