-- ==== Sys2Proof/Machine/Matrix.lean ====
section
/-!
DEFINITION. The matrix class, long opcodes 0x40 to 0x4F (R240 to R256): claims on sets, the checks at issue, and the events
by which the engine of a core carries out the operations of each group in issue order.
-/

namespace Sys2Proof.Machine
open Sys2Proof

/-! ### Sets, claims, regions -/

/-- A set of a core changed. -/
def State.modSet (s : State) (core z : Nat) (f : AccSet → AccSet) : State :=
  s.modCore core (fun c => { c with sets := tblPut c.sets {} z (f (c.set z)) })

/-- The weight region a handle names for a group: its entry, when it is a valid handle of the group's core and the group
owns it (R246, R254). -/
def State.regionFor (s : State) (gid : Nat) (g : Group) (h : Nat) : Option WRegion :=
  if h / 2 ^ 31 != 1 || h / 2 ^ 22 % 512 != g.core || h / 16 % 2 ^ 18 != 0 then none
  else match tblFind (s.core g.core).regions (h % 16) with
    | some r => if g.owns gid r.owner then some r else none
    | none => none

/-- The handle of a region table entry (R254). -/
def regionHandle (core index : Nat) : DWord := BitVec.ofNat 64 (2 ^ 31 + core * 2 ^ 22 + index)

/-- Units of a core's weight buffer (R239). -/
def bufferUnits : Nat := 16384

/-! ### Checks at issue -/

/-- A tile range of rows: the address of row 0, the distance of the rows, their number and bytes. -/
structure TileRows where
  base : DWord
  stride : Nat
  rows : Nat
  bytes : Nat
  deriving DecidableEq, Repr

/-- The generic address is a well-formed tile address. -/
def isTileAddr (a : DWord) : Bool := (tileHandle a).isSome

/-- Orders 3 and 4 of R166 for a whole range of rows. -/
def State.rowsFault (s : State) (gid : Nat) (g : Group) (r : TileRows) : Option (BitVec 8 × DWord) :=
  match aperture r.base with
  | some (.tile cl h off) =>
    match s.tileFor gid g cl h with
    | none => some (causeAccess, r.base)
    | some t =>
      match (List.range r.rows).find? (fun i => decide (t.size < off + i * r.stride + r.bytes)) with
      | some i => some (causeExtent, BitVec.ofNat 64 (r.base.toNat + i * r.stride))
      | none => none
  | _ => some (causeAccess, r.base)

/-- What the checks of an engine instruction look at, in the order of R246. -/
structure EngineCheck where
  /-- order 1: a reserved bit is set or a field is out of range -/
  bad : Bool := false
  /-- order 2: the set that must be claimed -/
  set : Option Nat := none
  /-- order 3: addresses that must be tile addresses, and other conditions with their values -/
  tiles : List DWord := []
  access : List (Bool × DWord) := []
  /-- order 4: misaligned, with the value reported -/
  align : List (Bool × DWord) := []
  /-- order 5 -/
  ranges : List TileRows := []
  extent : List (Bool × DWord) := []

/-- The value of the first condition that holds. -/
def firstHeld (l : List (Bool × DWord)) : Option DWord := (l.find? (fun p => p.1)).map (·.2)

/-- The first of the checks that fails (R246). -/
def State.engineFault (s : State) (c : Ctx) (g : Group) (k : EngineCheck) : Option (BitVec 8 × DWord) :=
  let unclaimed := match k.set with
    | some z => decide (s.holder g.core z ≠ some c.gid)
    | none => false
  if k.bad then some (causeEngine, engineCode 3)
  else if unclaimed then some (causeEngine, engineCode 1)
  else match k.tiles.find? (fun a => !isTileAddr a) with
  | some a => some (causeAccess, a)
  | none => match firstHeld k.access with
    | some v => some (causeAccess, v)
    | none => match firstHeld k.align with
      | some v => some (causeAlign, v)
      | none => match k.ranges.findSome? (s.rowsFault c.gid g) with
        | some f => some f
        | none => (firstHeld k.extent).map (fun v => (causeExtent, v))

/-- An engine instruction: its checks, the tiles that must be READY, and its effect (R242, R246). -/
def engineEntry (check : State → Ctx → Group → EngineCheck) (effect : State → Ctx → Group → Res) : Entry where
  cls := some .tx
  body c s g :=
    if c.active.isEmpty then .done (s.addEmpty c.gid .tx) [] none []
    else
      let k := check s c g
      match s.engineFault c g k with
      | some (cause, v) => trapActive c s cause v
      | none =>
        if (k.ranges.filterMap (fun r => tileHandle r.base)).any s.tileHeld then .blocked else effect s c g

/-- The operation joins the engine's queue (R242). -/
def queueOp (act : MatAct) (set kd : Nat) (words : Nat) (s : State) (c : Ctx) (g : Group) : Res :=
  let m : MatOp := { act := act, set := set, kd := kd, words := (List.range words).map (fun i => c.kA g i),
                     lane := c.lowest.getD 0 }
  .done (s.addOp c.gid .tx (.matrix m)) [] none []

/-! ### Parameter blocks -/

/-- Word `i` of an operation. -/
def MatOp.word (m : MatOp) (i : Nat) : DWord := m.words.getD i 0

/-- Low and high half of a word. -/
def lo32 (w : DWord) : Nat := w.toNat % 2 ^ 32
def hi32 (w : DWord) : Nat := w.toNat / 2 ^ 32

/-- The checks of `mma` (R244, R246). -/
def mmaCheck (n : Nat) (s : State) (c : Ctx) (g : Group) : EngineCheck :=
  let f := mfmt n
  let ieee := f.ieee.isSome
  let k := c.kA g
  let ctl := (k 4).toNat
  let nk := ctl % 8192 + 1
  let reg := s.regionFor c.gid g (lo32 (k 3))
  { bad := ctl / 2 ^ 20 != 0 || ctl / 2 ^ 13 % 16 != 0 || decide (4096 < nk) || k 5 != 0 || k 6 != 0 || k 7 != 0 ||
      (ieee && (k 1 != 0 || hi32 (k 2) != 0)),
    set := some (ctl / 2 ^ 18 % 4),
    tiles := if ieee then [k 0] else [k 0, k 1],
    access := [(reg.isNone, BitVec.ofNat 64 (lo32 (k 3)))],
    align := [((k 0).toNat % 16 != 0 || lo32 (k 2) % 16 != 0, k 0)] ++
      (if ieee then [] else [((k 1).toNat % 2 != 0 || hi32 (k 2) % 2 != 0, k 1)]),
    ranges := ⟨k 0, lo32 (k 2), 64, 96 * nk⟩ :: (if ieee then [] else [⟨k 1, hi32 (k 2), 64, f.exb * nk⟩]),
    extent := [((match reg with
      | some r => decide (r.len ≤ hi32 (k 3))
      | none => false), BitVec.ofNat 64 (hi32 (k 3)))] }

/-- `mma` (R241, R247). -/
def mmaEntry (n : Nat) : Entry :=
  engineEntry (mmaCheck n) (fun s c g => queueOp (.mma n) ((c.kA g 4).toNat / 2 ^ 18 % 4) 0 8 s c g)

/-- `mma.tb8` (R247). -/
def execMmaTb8 (a : KReg) (x : GuardF) (s : State) : Out := serve (.mmaTb8 a x) s (mmaEntry 0)

/-- `mma.tb6` (R247). -/
def execMmaTb6 (a : KReg) (x : GuardF) (s : State) : Out := serve (.mmaTb6 a x) s (mmaEntry 1)

/-- `mma.tb4` (R247). -/
def execMmaTb4 (a : KReg) (x : GuardF) (s : State) : Out := serve (.mmaTb4 a x) s (mmaEntry 2)

/-- `mma.bf16` (R247). -/
def execMmaBf16 (a : KReg) (x : GuardF) (s : State) : Out := serve (.mmaBf16 a x) s (mmaEntry 3)

/-- `mma.f16` (R247). -/
def execMmaF16 (a : KReg) (x : GuardF) (s : State) : Out := serve (.mmaF16 a x) s (mmaEntry 4)

/-- `mma.f32` (R247). -/
def execMmaF32 (a : KReg) (x : GuardF) (s : State) : Out := serve (.mmaF32 a x) s (mmaEntry 5)

/-- `mzero` (R240, R250): the claim is taken at issue; another group's claim blocks. -/
def mzeroEntry : Entry where
  cls := some .tx
  body c s g :=
    let z := c.o.d.num
    if c.active.isEmpty then .done (s.addEmpty c.gid .tx) [] none []
    else
      let other := match s.holder g.core z with
        | some h => h != c.gid
        | none => false
      if other then .blocked
      else queueOp .mzero z 0 0 (s.modSet g.core z (fun x => { x with claim := some c.gid })) c g

/-- `mzero` (R250). -/
def execMzero (d : ZReg) (x : GuardF) (s : State) : Out := serve (.mzero d x) s mzeroEntry

/-- The output ranges of `mepi` (R253). -/
def mepiRows (t : MTarget) (w : Nat → DWord) : List TileRows :=
  ⟨w 0, lo32 (w 1), 64, t.rowBytes⟩ :: (if t.ieee then [] else [⟨w 2, hi32 (w 1), 64, 4⟩])

/-- `mepi` (R253). -/
def mepiEntry (t : MTarget) : Entry :=
  engineEntry (fun _ c g =>
    let k := c.kA g
    { bad := t.ieee && k 2 != 0,
      set := some c.o.d.num,
      tiles := if t.ieee then [k 0] else [k 0, k 2],
      align := [((k 0).toNat % 16 != 0 || lo32 (k 1) % 16 != 0, k 0)] ++
        (if t.ieee then [] else [((k 2).toNat % 4 != 0 || hi32 (k 1) % 4 != 0, k 2)]),
      ranges := mepiRows t k })
    (fun s c g => queueOp (.mepi t) c.o.d.num 0 3 s c g)

/-- `mepi` (R253). -/
def execMepi (d : ZReg) (a : KReg) (tgt : MTarget) (sc : BitVec 4) (x : GuardF) (s : State) : Out :=
  serve (.mepi d a tgt sc x) s (mepiEntry tgt)

/-- `mrel` (R250). -/
def mrelEntry : Entry :=
  engineEntry (fun _ c _ => { set := some c.o.d.num }) (fun s c g => queueOp .mrel c.o.d.num 0 0 s c g)

/-- `mrel` (R250). -/
def execMrel (d : ZReg) (x : GuardF) (s : State) : Out := serve (.mrel d x) s mrelEntry

/-- `msave` and `mload` (R256). -/
def imageEntry (act : MatAct) : Entry :=
  engineEntry (fun _ c g =>
    let a := c.kA g 0
    { set := some c.o.d.num, tiles := [a], align := [(a.toNat % 16 != 0, a)], ranges := [⟨a, 0, 1, setImageSize⟩] })
    (fun s c g => queueOp act c.o.d.num 0 1 s c g)

/-- `msave` (R256). -/
def execMsave (d : ZReg) (a : KReg) (sc : BitVec 4) (x : GuardF) (s : State) : Out :=
  serve (.msave d a sc x) s (imageEntry .msave)

/-- `mload` (R256). -/
def execMload (d : ZReg) (a : KReg) (x : GuardF) (s : State) : Out := serve (.mload d a x) s (imageEntry .mload)

/-- `mbias` (R256). -/
def mbiasEntry : Entry :=
  engineEntry (fun _ c g =>
    let k := c.kA g
    { bad := hi32 (k 1) != 0,
      set := some c.o.d.num,
      tiles := [k 0],
      align := [((k 0).toNat % 16 != 0, k 0), (lo32 (k 1) % 16 != 0, k 1)],
      ranges := [⟨k 0, lo32 (k 1), 64, 256⟩] })
    (fun s c g => queueOp .mbias c.o.d.num 0 2 s c g)

/-- `mbias` (R256). -/
def execMbias (d : ZReg) (a : KReg) (x : GuardF) (s : State) : Out := serve (.mbias d a x) s mbiasEntry

/-- `mstat` (R249): no claim is needed (R240). -/
def mstatEntry : Entry :=
  engineEntry (fun _ _ _ => {}) (fun s c g => queueOp .mstat c.o.a.num c.o.d.num 0 s c g)

/-- `mstat` (R249). -/
def execMstat (d : KReg) (a : ZReg) (x : GuardF) (s : State) : Out := serve (.mstat d a x) s mstatEntry

/-- A word as a signed 16-bit number. -/
def signed16 (w : DWord) : Int := (BitVec.ofNat 16 w.toNat).toInt

/-- `mxset` (R256). -/
def mxsetEntry : Entry :=
  engineEntry (fun _ c g =>
    let w := c.kB g
    { bad := w.toNat / 65536 != 0 || decide (signed16 w < -512) || decide (511 < signed16 w), set := some c.o.d.num })
    (fun s c g =>
      .done (s.addOp c.gid .tx (.matrix { act := .mxset, set := c.o.d.num, kd := 0, words := [c.kB g],
                                           lane := c.lowest.getD 0 })) [] none [])

/-- `mxset` (R256). -/
def execMxset (d : ZReg) (b : KReg) (x : GuardF) (s : State) : Out := serve (.mxset d b x) s mxsetEntry

/-! ### Weight regions -/

/-- The region of a key on a core, if it is allocated. -/
def Core.regionOf (c : Core) (o : Owner) (kd : Nat) : Option (Nat × WRegion) :=
  c.regions.find? (fun p => p.2.owner = o && p.2.reg = kd)

/-- The length asked for under a key by a request that still waits. -/
def State.regionPending (s : State) (o : Owner) (kd : Nat) : Option Nat :=
  s.groups.findSome? (fun p => p.2.ops.findSome? (fun x =>
    match x.kind with
    | .matrix m => if m.act = .wbal o && m.kd = kd && !x.ended then some ((m.word 0).toNat % 65536) else none
    | _ => none))

/-- A length or level that `wbal` refuses (R254). -/
def regionBad (l : Launch) (k : Nat) (w : DWord) : Bool :=
  w.toNat / 65536 != 0 || w.toNat % 64 != 0 || w.toNat == 0 || decide (bufferUnits < w.toNat) ||
    k == 0 || decide (l.nlevel ≤ k) || !l.tile k || decide (1 < l.domain k)

/-- `wbal` (R254). -/
def wbalEntry (k : Nat) : Entry where
  cls := some .tx
  body c s g :=
    let kd := c.o.d.num
    let w := c.kA g 0
    if c.active.isEmpty then .done (s.addEmpty c.gid .tx) [] none []
    else match s.launchOf g, g.ownerAt c.gid k with
    | some l, some o =>
      let first := match (s.core g.core).regionOf o kd with
        | some (_, r) => some r.len
        | none => s.regionPending o kd
      let other := match first with
        | some n => decide (n ≠ w.toNat % 65536)
        | none => false
      if regionBad l k w || other then trapActive c s causeTileState w
      else
        let wait : StoreWait := { gid := c.gid, op := g.nextOp, lvl := false, unit := g.core }
        queueOp (.wbal o) 0 kd 1 { s with waits := s.waits ++ [wait] } c g
    | _, _ => trapActive c s causeTileState w

/-- `wbal` (R254). -/
def execWbal (d a : KReg) (b : BitVec 3) (x : GuardF) (s : State) : Out := serve (.wbal d a b x) s (wbalEntry b.toNat)

/-- The copy that `wbld` makes: one row into the weight buffer (R255). -/
def wbldCopy (c : Ctx) (g : Group) : CopyOp where
  src := c.kA g 0
  dst := 0
  rows := 1
  rowBytes := 16 * ((c.kA g 2).toNat % 32768)
  sstride := 0
  dstride := 0
  credit := none
  scope := 2
  mode := c.m
  lane := c.lowest.getD 0
  done := []
  writes := []
  ended := false
  suspended := false
  pageTag := none
  answered := false
  credited := 0

/-- `wbld` (R255). -/
def wbldEntry : Entry where
  cls := some .tx
  body c s g :=
    let src := c.kA g 0
    let w1 := c.kA g 1
    let w2 := (c.kA g 2).toNat
    let len := w2 % 32768
    let h := lo32 w1
    if c.active.isEmpty then .done (s.addEmpty c.gid .tx) [] none []
    else if w2 / 32768 != 0 || len == 0 || decide (bufferUnits < len) then trapActive c s causeEngine (engineCode 3)
    else if (copyAperture src).isNone then trapActive c s causeAccess src
    else match s.regionFor c.gid g h with
    | none => trapActive c s causeAccess (BitVec.ofNat 64 h)
    | some r =>
      if src.toNat % 16 != 0 then trapActive c s causeAlign src
      else if r.len < hi32 w1 + len then trapActive c s causeExtent w1
      else if s.addrBusy c.gid g (c.lowest.getD 0) src then .blocked
      else .done (s.addOp c.gid .tx (.wbld (h % 16) (hi32 w1) (wbldCopy c g))) [] none []

/-- `wbld` (R255). -/
def execWbld (a : KReg) (x : GuardF) (s : State) : Out := serve (.wbld a x) s wbldEntry

/-! ### The engine at work -/

/-- The operation is one of the matrix engine. -/
def OpKind.isMatrix (k : OpKind) : Bool :=
  match k with
  | .matrix _ => true
  | .wbld _ _ _ => true
  | _ => false

/-- The engine's current operation of a group (R242): the oldest that has not ended, on the group's core while its die
runs. -/
def State.currentMatrix (s : State) (core gid : Nat) : Option (Group × Op) :=
  match s.awake gid with
  | none => none
  | some g =>
    if g.core ≠ core || !g.resident then none
    else (g.firstOp (fun o => o.kind.isMatrix)).map (fun o => (g, o))

/-- The operation's record replaced. -/
def State.putMat (s : State) (gid op : Nat) (m : MatOp) : State := s.modOp gid op (fun o => { o with kind := .matrix m })

/-- xval of a pending ENGINE error (R251). -/
def matErrVal (code set kstep : Nat) : DWord := BitVec.ofNat 64 (3 * 2 ^ 62 + code + 2 ^ 8 * set + 2 ^ 10 * kstep)

/-- An operation ends with an error of its set (R251). -/
def State.matError (s : State) (core gid op : Nat) (m : MatOp) (code kstep : Nat) : State :=
  (s.modSet core m.set (fun z => { z with err := BitVec.ofNat 8 code })).endOp gid op
    (some { cause := causeEngine, xval := matErrVal code m.set kstep })

/-- `len` bytes of a tile from an address on (R252). -/
def State.tileBytes (s : State) (a : DWord) (off len : Nat) : List Byte :=
  match aperture a with
  | some (.tile _ h o) => (List.range len).map (fun j => s.baseByte (.tile h (o + off + j)))
  | _ => List.replicate len 0

/-- Bytes put into a tile by an engine as one write (R282). -/
def State.tileWrite (s : State) (g : Group) (parts : List (DWord × Nat × List Byte)) : State :=
  let cells := parts.flatMap (fun p => match aperture p.1 with
    | some (.tile _ h o) => (List.range p.2.2.length).map (fun j => (Loc.tile h (o + p.2.1 + j), p.2.2.getD j 0))
    | _ => [])
  s.land { id := 0, gid := 0, lane := 32, launch := g.launch, core := some g.core, level := 6, bytes := cells }

/-- Exponent bytes of row `i` of A in K-step `k` (R244). -/
def State.aExpo (s : State) (f : MFmt) (m : MatOp) (i k : Nat) : List Byte :=
  s.tileBytes (m.word 1) (i * hi32 (m.word 2) + f.exb * k) f.exb

/-- K-steps of an `mma` (R244). -/
def MatOp.nk (m : MatOp) : Nat := (m.word 4).toNat % 8192 + 1

/-- The payload chunk of row `i` of A in K-step `k` as it stands (R244). -/
def State.chunkNow (s : State) (m : MatOp) (i k : Nat) : List Byte :=
  s.tileBytes (m.word 0) (i * lo32 (m.word 2) + 96 * k) 96

/-- Elements of row `i` of A in K-step `k` (R244): what has been read of them before is kept (R252). -/
def State.aRow (s : State) (f : MFmt) (m : MatOp) (i k : Nat) : List MElem :=
  let expo := (m.aexpo[i * m.nk + k]?).getD (s.aExpo f m i k)
  let xs := splitElems f.w f.count ((tblFind m.chunks (i + 64 * k)).getD (s.chunkNow m i k))
  (List.range f.count).map (fun e => f.elem expo e (xs.getD e 0))

/-- A store issue is partly written in the chunk of row `i` and K-step `k` (R252): the chunk is not read now. -/
def State.torn (s : State) (m : MatOp) (i k : Nat) : Bool :=
  match aperture (m.word 0) with
  | some (.tile _ h o) =>
    let at_ := o + i * lo32 (m.word 2) + 96 * k
    let meets (l : Loc) : Bool := match l with
      | .tile t x => t == h && decide (at_ ≤ x) && decide (x < at_ + 96)
      | _ => false
    s.landed.any (fun p => p.1.any meets && s.flight.any (fun w => p.2.contains w.id && w.bytes.any (fun b => meets b.1)))
  | _ => false

/-- Chunks that an `mma` has still to read, by row and K-step. -/
def State.unreadChunks (s : State) (m : MatOp) : List (Nat × Nat) :=
  (List.range m.nk).flatMap (fun k => if k < m.kstep then [] else
    ((List.range 64).filter (fun i => (tblFind m.chunks (i + 64 * k)).isNone && !s.torn m i k)).map (fun i => (i, k)))

/-- One payload chunk of the group's current `mma` read before its K-step (R252). -/
def State.readAhead (s : State) (gid op : Nat) (m : MatOp) : State :=
  let l := s.unreadChunks m
  match l[Config.readPick s.drawn % l.length]? with
  | none => s
  | some (i, k) => { s with drawn := s.drawn + 1 }.putMat gid op { m with chunks := tblSet m.chunks (i + 64 * k) (s.chunkNow m i k) }

/-- First unit and end of the panel's region in the weight buffer. -/
def State.panelPlace (s : State) (core : Nat) (m : MatOp) : Nat × Nat :=
  match tblFind (s.core core).regions (lo32 (m.word 3) % 16) with
  | some r => (r.base + hi32 (m.word 3), r.base + r.len)
  | none => (0, 0)

/-- The prepass (R247): CAP, and the common exponent raised to the operands' highest scales. -/
def State.prepass (s : State) (core gid op : Nat) (m : MatOp) (n : Nat) : State :=
  let f := mfmt n
  let z := (s.core core).set m.set
  if 4096 < z.ksteps + m.nk then s.matError core gid op m 2 0
  else
    let (u, limit) := s.panelPlace core m
    let planes := (List.range 64).flatMap (fun i => (List.range m.nk).map (fun k => s.aExpo f m i k))
    let now := { m with chunks := [] }
    let xa := topScale ((List.range 64).flatMap (fun i => (List.range m.nk).map (fun k =>
      f.rowScale (planes.getD (i * m.nk + k) []) (if f.ieee.isSome then s.aRow f now i k else []))))
    let rows := (f.panelRows (s.core core).wbuf limit (64 * m.nk) u []).1
    let xb := topScale (rows.map (fun r => f.rowScale r.expo (r.elems.filterMap id)))
    let s := match xa, xb with
      | some a, some b => s.modSet core m.set (fun z => z.raiseX (a + b))
      | _, _ => s
    s.putMat gid op { m with prepassed := true, unit := u, aexpo := planes, bexpo := rows.map (·.expo) }

/-- One K-step (R247): a panel row that extends past the region ends the operation (R251). -/
def State.doKstep (s : State) (core gid op : Nat) (m : MatOp) (n : Nat) : State :=
  let f := mfmt n
  let (rows, next) := f.panelRows (s.core core).wbuf (s.panelPlace core m).2 64 m.unit (m.bexpo.drop (64 * m.kstep))
  if rows.length < 64 then s.matError core gid op m 1 m.kstep
  else if (List.range 64).any (fun i => (tblFind m.chunks (i + 64 * m.kstep)).isNone && s.torn m i m.kstep) then s
  else
    let as := (List.range 64).map (fun i => s.aRow f m i m.kstep)
    let s := (s.modSet core m.set (fun z => z.kstep as (rows.map (·.elems)))).countEvent core 9 1
    if m.kstep + 1 = m.nk then s.endOp gid op
    else s.putMat gid op { m with kstep := m.kstep + 1, unit := next, chunks := m.chunks.filter (fun p => 64 * (m.kstep + 1) ≤ p.1) }

/-- MMA_KSTEP (R247): the prepass of the group's current `mma`, or its next K-step. -/
def State.mmaKstep (s : State) (core gid : Nat) : State :=
  match s.currentMatrix core gid with
  | none => s
  | some (_, o) => match o.kind with
    | .matrix m => match m.act with
      | .mma n => if m.prepassed then s.doKstep core gid o.id m n else s.prepass core gid o.id m n
      | _ => s
    | _ => s

/-- One row of `mepi` written (R253). -/
def State.mepiRow (s : State) (core gid : Nat) (g : Group) (op : Nat) (m : MatOp) (t : MTarget) : State :=
  let r := ((s.core core).set m.set).epiRow t m.kstep
  let s := s.modSet core m.set (fun z => { z with epi := z.epi ||| r.flags })
  let s := s.tileWrite g ([(m.word 0, m.kstep * lo32 (m.word 1), r.bytes)] ++
    (if t.ieee then [] else [(m.word 2, m.kstep * hi32 (m.word 1), r.plane)]))
  if m.kstep = 63 then s.endOp gid op else s.putMat gid op { m with kstep := m.kstep + 1 }

/-- One write of `msave`, 128 bytes or the rest (R256). -/
def State.msaveChunk (s : State) (core gid : Nat) (g : Group) (op : Nat) (m : MatOp) : State :=
  let z := (s.core core).set m.set
  let n := min 128 (setImageSize - 128 * m.kstep)
  let s := s.tileWrite g [(m.word 0, 128 * m.kstep, (List.range n).map (fun j => z.imageByte (128 * m.kstep + j)))]
  if setImageSize ≤ 128 * (m.kstep + 1) then s.endOp gid op else s.putMat gid op { m with kstep := m.kstep + 1 }

/-- An engine operation other than `mma` carried out, or its next row or chunk (R242, R249 to R256); for an `mma`, a chunk is read
before its K-step (R252). -/
def State.matStep (s : State) (core gid : Nat) (g : Group) (op : Nat) (m : MatOp) : State :=
  match m.act with
  | .mma _ => s.readAhead gid op m
  | .wbal _ => s
  | .mzero => (s.modSet core m.set AccSet.clear).endOp gid op
  | .mrel => (s.modSet core m.set (fun z => if z.claim = some gid then { z with claim := none } else z)).endOp gid op
  | .mepi t => s.mepiRow core gid g op m t
  | .msave => s.msaveChunk core gid g op m
  | .mload =>
    let z := (s.core core).set m.set
    match z.ofImage (fun j => (s.tileBytes (m.word 0) j 1).getD 0 0) with
    | some z => (s.modSet core m.set (fun _ => z)).endOp gid op
    | none => s.matError core gid op m 3 0
  | .mbias =>
    let z := (s.core core).set m.set
    if 4096 < z.ksteps + 1 then s.matError core gid op m 2 0
    else
      let vals := (List.range 64).flatMap (fun i =>
        (splitElems 32 64 (s.tileBytes (m.word 0) (i * lo32 (m.word 1)) 256)).map (ieeeElem fmtF32))
      (s.modSet core m.set (fun z => z.bias vals)).endOp gid op
  | .mstat =>
    let v := ((s.core core).set m.set).status (decide (s.holder core m.set = some gid))
    (s.modGroup gid (fun g => g.kPut m.kd v)).endOp gid op
  | .mxset => (s.modSet core m.set (fun z => z.raiseX (signed16 (m.word 0)))).endOp gid op

/-- MATRIX_OP_EXECUTE (R242): the group's current engine operation; a `wbld` retires when all its units are written or a
fault has ended it (R255); `mstat` and `mrel` act when they retire (R242, R240). -/
def State.matrixExecute (s : State) (core gid : Nat) : State :=
  match s.currentMatrix core gid with
  | none => s
  | some (g, o) => match o.kind with
    | .matrix m => if (m.act = .mstat || m.act = .mrel) && !g.oldest o then s else s.matStep core gid g o.id m
    | .wbld _ _ c => if c.over then s.endOp gid o.id o.err else s
    | _ => s

/-- One byte of `wbld` moved, when it is the group's current operation (R255, R198). -/
def State.wbldByte (s : State) (gid op region woff : Nat) (c : CopyOp) (b : Nat) : State :=
  match s.group gid with
  | none => s
  | some g =>
    match s.currentMatrix g.core gid with
    | none => s
    | some (_, o) =>
      let a := c.srcAt b
      let gone := match aperture a with
        | some (.tile cl h off) => match s.tileFor gid (g.asLane c.lane) cl h with
          | some t => decide (t.size ≤ off)
          | none => true
        | _ => false
      if o.id ≠ op then s
      else if gone then s.endCopy gid op causeAccess a
      else match s.reach gid g op c.mode a { r := true } with
      | (s, .held) => s
      | (s, .fault cause v) => s.endCopy gid op cause v
      | (s, .place src) =>
        let (s, x) := s.copyRead gid g src
        let base := match tblFind (s.core g.core).regions region with
          | some r => r.base
          | none => 0
        let s := s.modCore g.core (fun k => { k with wbuf := tblPut k.wbuf 0 (16 * (base + woff) + b) x })
        s.modOp gid op (fun o => { o with kind := o.kind.setCopy (fun c => c.moved b none) })

/-- The requests for regions that have reached a core's engine, in the order of their queue (R194, R254). -/
def State.wbalReady (s : State) (core : Nat) : List (StoreWait × Op × MatOp × Owner) :=
  s.waits.filterMap (fun w =>
    if w.lvl || w.unit != core then none
    else match s.currentMatrix core w.gid with
      | none => none
      | some (g, o) => if o.id ≠ w.op || !g.oldest o then none else match o.kind with
        | .matrix m => match m.act with
          | .wbal ow => some (w, o, m, ow)
          | _ => none
        | _ => none)

/-- The request served next: one that joins an existing region needs no place and does not queue; of the others the first. -/
def State.wbalHead (s : State) (core : Nat) : Option (StoreWait × Op × MatOp × Owner) :=
  let l := s.wbalReady core
  match l.find? (fun x => ((s.core core).regionOf x.2.2.2 x.2.2.1.kd).isSome) with
  | some x => some x
  | none => l.head?

/-- A group that waits for a region gets its handle. -/
def State.giveRegion (s : State) (w : StoreWait) (kd core index : Nat) : State :=
  let s := s.modGroup w.gid (fun g => g.kPut kd (regionHandle core index))
  { s with waits := s.waits.filter (fun x => !(x.gid == w.gid && x.op == w.op)) }.endOp w.gid w.op

/-- The units from `base` on are free. -/
def Core.unitsFree (c : Core) (base len : Nat) : Bool :=
  decide (base + len ≤ bufferUnits) &&
    c.regions.all (fun p => decide (p.2.base + p.2.len ≤ base) || decide (base + len ≤ p.2.base))

/-- Bytes of a table from `lo` to below `hi` become zero. -/
def clearBytes (t : Tbl Byte) (lo hi : Nat) : Tbl Byte := t.filter (fun p => decide (p.1 < lo) || decide (hi ≤ p.1))

/-- WEIGHT_REGION_GRANT (R254): the head of a core's queue gets the table entry `index` and the units from `base` on, all
zero, or joins the region of its key. -/
def State.regionGrant (s : State) (core index base : Nat) : State :=
  match s.wbalHead core with
  | none => s
  | some (w, _, m, ow) =>
    let c := s.core core
    let len := (m.word 0).toNat % 65536
    match c.regionOf ow m.kd with
    | some (i, r) => if r.len = len then s.giveRegion w m.kd core i else s
    | none =>
      if 16 ≤ index || (tblFind c.regions index).isSome || !c.unitsFree base len then s
      else
        let leaf := match s.group w.gid with
          | some g => g.leaf
          | none => 0
        let r : WRegion := { owner := ow, leaf := leaf, reg := m.kd, base := base, len := len }
        let s := s.modCore core (fun k =>
          { k with regions := tblSet k.regions index r, wbuf := clearBytes k.wbuf (16 * base) (16 * (base + len)) })
        s.giveRegion w m.kd core index

/-- MMA_KSTEP (R247). -/
def execMmaKstep (core gid : Nat) (s : State) : Out := .next (s.mmaKstep core gid)

/-- MATRIX_OP_EXECUTE (R242). -/
def execMatrixOpExecute (core gid : Nat) (s : State) : Out := .next (s.matrixExecute core gid)

/-- WEIGHT_REGION_GRANT (R254). -/
def execWeightRegionGrant (core index base : Nat) (s : State) : Out := .next (s.regionGrant core index base)

end Sys2Proof.Machine
end

