-- ==== Sys2Proof/Machine/Assign.lean ====
section
/-!
DEFINITION. The assignment class, long opcodes 0x60 to 0x65 (R260 to R271): the descriptor and its checks at issue, and the
events by which a cluster's engine runs auctions round by round and carries out the other operations.
-/

namespace Sys2Proof.Machine
open Sys2Proof

/-! ### The descriptor -/

/-- The fields of a descriptor (R261), from its words. -/
def asnRstride (w : List DWord) : Nat := (w.getD 1 0).toNat / 2 ^ 48
def asnCols (w : List DWord) : Nat := (w.getD 1 0).toNat / 2 ^ 16 % 128
def asnRows (w : List DWord) : Nat := (w.getD 1 0).toNat % 2048
def asnLimit (w : List DWord) : Nat := (w.getD 5 0).toNat / 2 ^ 32 % 65536
def asnInc (w : List DWord) : Nat := (w.getD 5 0).toNat % 2 ^ 32

/-- What an operation uses of its descriptor (R262): scores, prices or the list tile, a limit, an increment. -/
structure AsnUse where
  scores : Bool
  prices : Bool
  list : Bool
  limit : Bool
  inc : Bool
  deriving DecidableEq, Repr

/-- The uses of an opcode (R262). -/
def asnUse (opc : Nat) : AsnUse :=
  match opc with
  | 0x60 => ⟨true, true, false, true, true⟩
  | 0x61 => ⟨true, true, false, true, true⟩
  | 0x62 => ⟨true, true, false, false, false⟩
  | 0x63 => ⟨false, false, true, true, false⟩
  | _ => ⟨false, false, false, false, false⟩

/-- Order 1 of R264. -/
def asnBad (opc : Nat) (w : List DWord) : Bool :=
  let u := asnUse opc
  let w1 := (w.getD 1 0).toNat
  let cols := asnCols w
  let lim := asnLimit w
  let inc := asnInc w
  w1 / 2 ^ 23 % 2 ^ 25 != 0 || w1 / 2 ^ 11 % 32 != 0 || (w.getD 5 0).toNat / 2 ^ 48 != 0 ||
    asnRows w == 0 || decide (1024 < asnRows w) || cols == 0 || decide (64 < cols) ||
    (if u.scores then decide (asnRstride w < 4 * cols) else w.getD 0 0 != 0 || asnRstride w != 0) ||
    (!u.prices && !u.list && w.getD 3 0 != 0) ||
    (if u.limit then lim == 0 || (u.list && decide (1024 < lim)) else lim != 0) ||
    (if u.inc then inc == 0 || decide (f32PosInf ≤ inc) else inc != 0)

/-- The checks of an assignment operation (R264). -/
def asnCheck (opc : Nat) (c : Ctx) (g : Group) : EngineCheck :=
  let w := (List.range 6).map (fun i => c.kA g i)
  let u := asnUse opc
  let rows := asnRows w
  let cols := asnCols w
  let chain := w.getD 0 0
  let cap := w.getD 2 0
  let price := w.getD 3 0
  let res := w.getD 4 0
  let usesPrice := u.prices || u.list
  { bad := asnBad opc w,
    tiles := (if u.scores then [chain] else []) ++ [cap] ++ (if usesPrice then [price] else []) ++ [res],
    align := (if u.scores then [(chain.toNat % 8 != 0, chain), (asnRstride w % 4 != 0, w.getD 1 0)] else []) ++
      [(cap.toNat % 4 != 0, cap)] ++ (if usesPrice then [(price.toNat % 4 != 0, price)] else []) ++
      [(res.toNat % 8 != 0, res)],
    ranges := (if u.scores then [⟨chain, 0, 1, 8 * ((rows + 63) / 64)⟩] else []) ++ [⟨cap, 0, 1, 4 * cols⟩] ++
      (if usesPrice then [⟨price, 0, 1, 4 * cols * (if u.list then asnLimit w else 1)⟩] else []) ++
      [⟨res, 0, 1, 8 * rows⟩] }

/-- An operation joins its cluster's queue (R263). -/
def State.queueAssign (s : State) (c : Ctx) (g : Group) (k : OpKind) : Res :=
  let cl := clusterOf g.core
  let q := tblGet s.assignQ {} cl
  let q := { q with ops := q.ops ++ [(s.nextId, c.gid, g.nextOp)] }
  .done ({ s.bump with assignQ := tblSet s.assignQ cl q }.addOp c.gid .tx k) [] none []

/-- An assignment operation other than `asn.stat` (R262 to R264). -/
def asnEntry (opc : Nat) : Entry :=
  engineEntry (fun _ c g => asnCheck opc c g) (fun s c g =>
    s.queueAssign c g (.assign opc ((List.range 6).map (fun i => c.kA g i)) (c.lowest.getD 0) none))

/-- `asn.run` (R265). -/
def execAsnRun (a : KReg) (x : GuardF) (s : State) : Out := serve (.asnRun a x) s (asnEntry 0x60)

/-- `asn.cont` (R265). -/
def execAsnCont (a : KReg) (x : GuardF) (s : State) : Out := serve (.asnCont a x) s (asnEntry 0x61)

/-- `asn.best` (R267). -/
def execAsnBest (a : KReg) (x : GuardF) (s : State) : Out := serve (.asnBest a x) s (asnEntry 0x62)

/-- `asn.inv` (R268). -/
def execAsnInv (a : KReg) (x : GuardF) (s : State) : Out := serve (.asnInv a x) s (asnEntry 0x63)

/-- `asn.chk` (R268). -/
def execAsnChk (a : KReg) (x : GuardF) (s : State) : Out := serve (.asnChk a x) s (asnEntry 0x65)

/-- `asn.stat` (R269). -/
def execAsnStat (d : KReg) (x : GuardF) (s : State) : Out :=
  serve (.asnStat d x) s (engineEntry (fun _ _ _ => {}) (fun s c g => s.queueAssign c g (.asnStat c.o.d.num)))

/-! ### The engine at work -/

/-- Operations that the engine may serve: the first of each group among the eight it holds (R263). -/
def servable : List Nat → List (Nat × Nat × Nat) → List (Nat × Nat × Nat)
  | _, [] => []
  | seen, x :: xs =>
    if seen.contains x.2.1 then servable seen xs else x :: servable (x.2.1 :: seen) xs

/-- The operation whose turn it is, round-robin in arrival order (R263). -/
def AssignQ.turn (q : AssignQ) : Option (Nat × Nat × Nat) :=
  let cs := servable [] (q.ops.take 8)
  match cs.find? (fun x => decide (q.last < x.1)) with
  | some x => some x
  | none => cs.head?

/-- The operation whose turn it is on a cluster whose die runs, with its group. -/
def State.assignTurn (s : State) (cl : Nat) : Option (Nat × Nat × Group × Op) :=
  match (tblGet s.assignQ {} cl).turn with
  | none => none
  | some (n, gid, op) => match s.awake gid with
    | none => none
    | some g => match g.op op with
      | some o => if g.resident then some (n, gid, g, o) else none
      | none => none

/-- The unretired assignment operations of a group leave its cluster's engine for the group's save area (R272). -/
def State.asnLeave (s : State) (gid core : Nat) : State :=
  { s with assignQ := tblMod s.assignQ (clusterOf core) (fun q => { q with ops := q.ops.filter (fun x => x.2.1 != gid) }) }

/-- They join the engine of the cluster on which the group resumes, in their order (R272, R355). -/
def State.asnReturn (s : State) (gid core : Nat) (g : Group) : State :=
  (g.ops.filter (fun o => !o.ended && (match o.kind with
    | .assign _ _ _ _ => true
    | .asnStat _ => true
    | _ => false))).foldl (fun s o =>
      let q := tblGet s.assignQ {} (clusterOf core)
      { s.bump with assignQ := tblSet s.assignQ (clusterOf core) { q with ops := q.ops ++ [(s.nextId, gid, o.id)] } }) s

/-- The engine has served an operation. -/
def State.served (s : State) (cl n : Nat) : State :=
  let q := tblGet s.assignQ {} cl
  { s with assignQ := tblSet s.assignQ cl { q with last := n } }

/-- The status word (R269). -/
def asnStatusWord (unasg rounds err opc outcome : Nat) (nansc clampsc : Bool) : DWord :=
  BitVec.ofNat 64 (unasg * 2 ^ 48 + rounds * 2 ^ 32 + err * 2 ^ 24 + clampsc.toNat * 2 ^ 18 + nansc.toNat * 2 ^ 17 +
    opc * 2 ^ 8 + outcome)

/-- An operation leaves the engine and ends, its status replacing the group's (R269). -/
def State.endAssign (s : State) (cl gid op : Nat) (status : DWord) (err : Option PendErr) : State :=
  let q := tblGet s.assignQ {} cl
  let s := { s with assignQ := tblSet s.assignQ cl { q with ops := q.ops.filter (fun x => !(x.2.1 == gid && x.2.2 == op)) } }
  (s.modGroup gid (fun g => { g with asnStatus := status })).endOp gid op err

/-- An operation fails (R270). -/
def State.failAssign (s : State) (cl gid op opc code idx : Nat) : State :=
  s.endAssign cl gid op (asnStatusWord 0 0 code opc 0 false false)
    (some { cause := causeEngine, xval := BitVec.ofNat 64 (7 * 2 ^ 61 + code + idx % 1024 * 2 ^ 10) })

/-- The word of four bytes at a tile address, as the operation reads it: what it has read ahead of its turn stands (R271). -/
def State.asnWord (s : State) (t : Tbl Nat) (a : DWord) (off : Nat) : Nat :=
  (tblFind t (a.toNat + off)).getD (leNat (s.tileBytes a off 4))

/-- Capacities and prices of a descriptor (R260). -/
def State.asnCaps (s : State) (t : Tbl Nat) (w : List DWord) : List Nat :=
  (List.range (asnCols w)).map (fun j => s.asnWord t (w.getD 2 0) (4 * j))
def State.asnPrices (s : State) (t : Tbl Nat) (w : List DWord) : List Nat :=
  (List.range (asnCols w)).map (fun j => s.asnWord t (w.getD 3 0) (4 * j))
/-- Columns and bids of the result entries (R260). -/
def State.asnColumns (s : State) (t : Tbl Nat) (w : List DWord) : List Nat :=
  (List.range (asnRows w)).map (fun r => s.asnWord t (w.getD 4 0) (8 * r))
def State.asnBids (s : State) (t : Tbl Nat) (w : List DWord) : List Nat :=
  (List.range (asnRows w)).map (fun r => s.asnWord t (w.getD 4 0) (8 * r + 4))

/-- The chain's entries (R260). -/
def State.asnChain (s : State) (w : List DWord) : List DWord :=
  (List.range ((asnRows w + 63) / 64)).map (fun c => BitVec.ofNat 64 (leNat (s.tileBytes (w.getD 0 0) (8 * c) 8)))

/-- The chunk of the first chain entry that is in error (R270 CHAIN). -/
def State.chainError (s : State) (gid : Nat) (g : Group) (w : List DWord) (chain : List DWord) : Option Nat :=
  (List.range chain.length).find? (fun c =>
    let a := chain.getD c 0
    let n := min 64 (asnRows w - 64 * c)
    a.toNat % 4 != 0 || (s.rowsFault gid g ⟨a, asnRstride w, n, 4 * asnCols w⟩).isSome)

/-- Scores of a row (R260). -/
def State.asnScores (s : State) (t : Tbl Nat) (w : List DWord) (chain : List DWord) (r : Nat) : List Nat :=
  (List.range (asnCols w)).map (fun j => s.asnWord t (chain.getD (r / 64) 0) (r % 64 * asnRstride w + 4 * j))

/-- The words that an operation has come to write, before the status that it leaves (R265, R271). -/
def State.asnEnd (s : State) (gid op : Nat) (words : List (DWord × Nat × Nat)) (status : DWord) : State :=
  s.modOp gid op (fun o => { o with out := some { words := words, status := status } })

/-- The words of the result tile: column and bid of every entry (R260). -/
def resultWords (w : List DWord) (held : List (Option (Nat × BitVec 32))) : List (DWord × Nat × Nat) :=
  (List.range held.length).flatMap (fun r =>
    let x := resultEntry (held.getD r none)
    [(w.getD 4 0, 8 * r, x % 2 ^ 32), (w.getD 4 0, 8 * r + 4, x / 2 ^ 32)])

/-- Words from the price or list address on. -/
def priceWords (w : List DWord) (xs : List Nat) : List (DWord × Nat × Nat) :=
  (List.range xs.length).map (fun n => (w.getD 3 0, 4 * n, xs.getD n 0))

/-- One word that an operation writes. -/
def State.asnWrite (s : State) (g : Group) (x : DWord × Nat × Nat) : State := s.tileWrite g [(x.1, x.2.1, leBytes 4 x.2.2)]

/-- The words that an operation may read now, with the bytes' tile addresses (R271): capacities, prices, result words, scores. -/
def State.asnReads (s : State) (o : Op) : List (DWord × Nat) :=
  match o.kind with
  | .assign opc w _ a =>
    if o.out.isSome then []
    else
      let u := asnUse opc
      let chain := match a with
        | some a => a.chain
        | none => s.asnChain w
      let cols := List.range (asnCols w)
      let rows := List.range (asnRows w)
      (if a.isSome then [] else
        cols.map (fun j => (w.getD 2 0, 4 * j)) ++ (if u.prices then cols.map (fun j => (w.getD 3 0, 4 * j)) else []) ++
          (if u.prices && opc ≠ 0x61 then [] else rows.flatMap (fun r => [(w.getD 4 0, 8 * r), (w.getD 4 0, 8 * r + 4)]))) ++
        (if u.scores then rows.flatMap (fun r => cols.map (fun j =>
          (chain.getD (r / 64) 0, r % 64 * asnRstride w + 4 * j))) else [])
  | _ => []

/-- A word that an operation in the engine reads before it needs it, or writes before the others (R271): the operation is one that
the engine may serve, and which word, is a free value. -/
def State.asnAhead (s : State) (cl : Nat) : State :=
  let xs := servable [] ((tblGet s.assignQ {} cl).ops.take 8)
  match xs[Config.readPick s.drawn % xs.length]? with
  | none => s
  | some (_, gid, op) => match s.awake gid with
    | none => s
    | some g => match g.op op with
      | none => s
      | some o =>
        let pick := Config.readPick (s.drawn + 1)
        let s := { s with drawn := s.drawn + 2 }
        match o.out with
        | some out => match out.words[pick % out.words.length]? with
          | none => s
          | some x => (s.asnWrite g x).asnEnd gid op (out.words.filter (fun y => y ≠ x)) out.status
        | none =>
          let rs := (s.asnReads o).filter (fun r => (tblFind o.ahead (r.1.toNat + r.2)).isNone)
          match rs[pick % rs.length]? with
          | none => s
          | some r => s.modOp gid op (fun o => { o with ahead := tblSet o.ahead (r.1.toNat + r.2) (leNat (s.tileBytes r.1 r.2 4)) })

/-- An operation that has come to its end writes what it has not written yet and ends (R271). -/
def State.asnFinish (s : State) (cl gid : Nat) (g : Group) (op : Nat) (out : AsnOut) : State :=
  (out.words.foldl (fun s x => s.asnWrite g x) s).endAssign cl gid op out.status none

/-- The start of an auction (R265, R270): capacities, prices, starting result and chain read and checked; an infeasible
one ends. -/
def State.startAuction (s : State) (cl gid : Nat) (g : Group) (o : Op) (opc : Nat) (w : List DWord) (lane : Nat) : State :=
  let op := o.id
  let caps := s.asnCaps o.ahead w
  let prices := s.asnPrices o.ahead w
  let chain := s.asnChain w
  let cols := (s.asnColumns o.ahead w).map columnOf
  let bids := s.asnBids o.ahead w
  match (List.range caps.length).find? (fun j => decide (1024 < caps.getD j 0)) with
  | some j => s.failAssign cl gid op opc 3 j
  | none => match (List.range prices.length).find? (fun j => f32IsNan (prices.getD j 0) || prices.getD j 0 == f32NegInf) with
    | some j => s.failAssign cl gid op opc 4 j
    | none =>
      if caps.foldl (· + ·) 0 < asnRows w then
        s.asnEnd gid op (resultWords w (List.replicate (asnRows w) none)) (asnStatusWord (asnRows w) 0 0 opc 3 false false)
      else match (if opc = 0x61 then startError cols caps none else none) with
      | some i => s.failAssign cl gid op opc 2 i
      | none => match s.chainError gid (g.asLane lane) w chain with
        | some c => s.failAssign cl gid op opc 1 (64 * c)
        | none =>
          let held (r : Nat) : Option (Nat × BitVec 32) :=
            if opc = 0x61 && decide (0 ≤ cols.getD r 0) then
              some ((cols.getD r 0).toNat, BitVec.ofNat 32 (bids.getD r 0))
            else none
          let a : Auction :=
            { chain := chain, held := (List.range (asnRows w)).map held, prices := prices.map (BitVec.ofNat 32),
              caps := caps, rounds := 0, nansc := false, clampsc := false }
          s.modOp gid op (fun o => { o with kind := .assign opc w lane (some a) })

/-- An auction comes to an outcome: the result and every price are to be written (R265). -/
def State.endAuction (s : State) (gid op opc : Nat) (w : List DWord) (a : Auction) (outcome : Nat) : State :=
  s.asnEnd gid op (resultWords w a.held ++ priceWords w (a.prices.map (·.toNat)))
    (asnStatusWord a.unassigned a.rounds 0 opc outcome a.nansc a.clampsc)

/-- AUCTION_ROUND (R265): the auction whose turn it is starts, runs a round, comes to its outcome, or writes and retires; where
another operation has the turn, one word is read or written ahead (R271). -/
def State.auctionRound (s : State) (cl : Nat) : State :=
  match s.assignTurn cl with
  | none => s
  | some (n, gid, g, o) => match o.kind with
    | .assign opc w lane a =>
      if opc ≠ 0x60 && opc ≠ 0x61 then s.asnAhead cl
      else
        let s := s.served cl n
        match o.out, a with
        | some out, _ => s.asnFinish cl gid g o.id out
        | none, none => s.startAuction cl gid g o opc w lane
        | none, some a =>
          let score := s.asnScores o.ahead w a.chain
          let a := a.noteScores score
          match a.bids (asnInc w) score with
          | [] => s.endAuction gid o.id opc w a 1
          | bids =>
            if a.rounds = asnLimit w then s.endAuction gid o.id opc w a 2
            else s.modOp gid o.id (fun o => { o with kind := .assign opc w lane (some (a.round bids)), ahead := [] })
    | _ => s.asnAhead cl

/-- `asn.best` carried out (R267). -/
def State.doBest (s : State) (cl gid : Nat) (g : Group) (o : Op) (w : List DWord) (lane : Nat) : State :=
  let op := o.id
  let caps := s.asnCaps o.ahead w
  let prices := s.asnPrices o.ahead w
  let chain := s.asnChain w
  match (List.range caps.length).find? (fun j => decide (1024 < caps.getD j 0)) with
  | some j => s.failAssign cl gid op 0x62 3 j
  | none => match (List.range prices.length).find? (fun j => f32IsNan (prices.getD j 0) || prices.getD j 0 == f32NegInf) with
    | some j => s.failAssign cl gid op 0x62 4 j
    | none => match s.chainError gid (g.asLane lane) w chain with
      | some c => s.failAssign cl gid op 0x62 1 (64 * c)
      | none =>
        let a : Auction :=
          { chain := chain, held := List.replicate (asnRows w) none, prices := prices.map (BitVec.ofNat 32), caps := caps,
            rounds := 0, nansc := false, clampsc := false }
        let score := s.asnScores o.ahead w chain
        let a := a.noteScores score
        let best (r : Nat) : Option (Nat × BitVec 32) :=
          let vs := a.values (score r)
          if vs.all (fun v => decide (f32PosInf ≤ v % 2 ^ 31)) then none
          else match bestTwo vs with
          | some (j, v, v2) => some (j, BitVec.ofNat 32 (if v2 = f32NegInf then f32PosInf else f32Sub v v2))
          | none => none
        let a := { a with held := (List.range (asnRows w)).map best }
        s.asnEnd gid op (resultWords w a.held) (asnStatusWord a.unassigned 0 0 0x62 1 a.nansc a.clampsc)

/-- `asn.inv` and `asn.chk` carried out (R268). -/
def State.doLists (s : State) (cl gid : Nat) (o : Op) (opc : Nat) (w : List DWord) : State :=
  let op := o.id
  let caps := s.asnCaps o.ahead w
  let cols := (s.asnColumns o.ahead w).map columnOf
  let l := asnLimit w
  match (List.range caps.length).find? (fun j => decide (1024 < caps.getD j 0)) with
  | some j => s.failAssign cl gid op opc 3 j
  | none => match startError cols caps (if opc = 0x63 then some l else none) with
    | some i => s.failAssign cl gid op opc 2 i
    | none =>
      s.asnEnd gid op
        (if opc = 0x63 then priceWords w ((List.range (asnCols w)).flatMap (fun j => columnList cols j l)) else [])
        (asnStatusWord (cols.filter (fun c => c = -1)).length 0 0 opc 1 false false)

/-- `asn.stat` carried out: K[d] is written as the operation retires (R269, R242). -/
def State.doAsnStat (s : State) (cl gid : Nat) (g : Group) (o : Op) (kd : Nat) : State :=
  if !g.oldest o then s
  else (s.modGroup gid (fun g => g.kPut kd g.asnStatus)).endAssign cl gid o.id g.asnStatus none

/-- ASSIGNMENT_OP_EXECUTE (R267 to R269): the operation whose turn it is, other than an auction, comes to its result, or writes it and
retires; where an auction has the turn, one word is read or written ahead (R271). -/
def State.assignExecute (s : State) (cl : Nat) : State :=
  match s.assignTurn cl with
  | none => s
  | some (n, gid, g, o) => match o.kind with
    | .asnStat kd => (s.served cl n).doAsnStat cl gid g o kd
    | .assign opc w lane _ =>
      if opc = 0x60 || opc = 0x61 then s.asnAhead cl
      else match o.out with
      | some out => (s.served cl n).asnFinish cl gid g o.id out
      | none =>
        if opc = 0x62 then (s.served cl n).doBest cl gid g o w lane else (s.served cl n).doLists cl gid o opc w
    | _ => s

/-- AUCTION_ROUND (R265). -/
def execAuctionRound (cluster : Nat) (s : State) : Out := .next (s.auctionRound cluster)

/-- ASSIGNMENT_OP_EXECUTE (R268). -/
def execAssignmentOpExecute (cluster : Nat) (s : State) : Out := .next (s.assignExecute cluster)

end Sys2Proof.Machine
end

