-- ==== Sys2Proof/Machine/Carry.lean ====
section
/-!
DEFINITION. What a migrating leaf is made of (R356, R358), how it takes its place on the target device, and the pages and packets
that carry it there.
-/

namespace Sys2Proof.Machine
open Sys2Proof

/-! ### The state of a leaf -/

/-- A waiting request for storage comes from a group of a leaf. -/
def State.waitOf (s : State) (leaf : Nat) (w : StoreWait) : Bool := match s.group w.gid with
  | some g => g.leaf == leaf
  | none => false

/-- What the stores of a leaf hold (R356). -/
def State.tenancy (s : State) (leaf : Nat) : Tenancy :=
  { tiles := s.tiles.filter (fun p => p.2.leaf = leaf), barriers := s.barriers.filter (fun p => p.2.leaf = leaf),
    runs := s.runs.filter (fun p => p.2.leaf = leaf), waits := s.waits.filter (s.waitOf leaf),
    cores := s.cores.filter (fun p => (s.part leaf).clusters.getLsbD (clusterOf p.1)) }

/-- What DELTA carries of a leaf beside pages (R358): launches, groups with images, save records and operations, pieces, stores,
save blocks, page requests, and the interfaces with their queues, whose watchdogs keep the time that is left to them. -/
structure LeafState where
  launches : Tbl Launch
  groups : Tbl Group
  pieces : Tbl Piece
  stores : Tenancy
  changes : Tbl Change
  pageReqs : Tbl PageReq
  pageWaits : List PageWait
  vis : List Nat
  pages : List VI
  poolBase : Nat
  part : Part
  deriving DecidableEq, Repr

/-- The watchdogs of a queue stand still with the time that is left to them (R358, R59). -/
def Queue.stopDog (q : Queue) (now : Nat) : Queue :=
  if q.wddead = 0 then q else { q with wdrem := BitVec.ofNat 64 (max 1 (q.wddead.toNat - now)), wddead := 0 }

/-- They run on. -/
def Queue.startDog (q : Queue) (now : Nat) : Queue :=
  if q.wdrem = 0 then q else { q with wddead := BitVec.ofNat 64 (now + q.wdrem.toNat), wdrem := 0 }

/-- The state of a leaf as DELTA takes it (R358). -/
def State.leafState (s : State) (leaf : Nat) : LeafState :=
  let p := s.part leaf
  let ls := s.launches.filter (fun x => x.2.leaf = leaf)
  { launches := ls, groups := s.groups.filter (fun x => x.2.leaf = leaf),
    pieces := s.pieces.filter (fun x => ls.any (fun l => l.1 == x.2.launch)), stores := s.tenancy leaf,
    changes := s.changes.filter (fun x => x.2.leaf = leaf), pageReqs := s.pageReqs.filter (fun x => x.2.leaf = leaf),
    pageWaits := s.pageWaits.filter (fun x => x.leaf = leaf), vis := p.vis,
    pages := p.vis.map (fun v => let x := s.vi v; { x with queues := x.queues.map (fun q => (q.1, q.2.stopDog s.time)) }),
    poolBase := p.poolBase, part := p }

end Sys2Proof.Machine

namespace Sys2Proof
open Sys2Proof.Machine

/-- How the state of a leaf is written down as bytes, read back from them, and written with its pages as a checkpoint and read back
(R358, R359): the manual does not state the layouts. DESIGN CHOICE, log entry 107: free values. -/
opaque Config.leafBytes : LeafState → List (BitVec 8)
opaque Config.leafRead : List (BitVec 8) → Option LeafState
opaque Config.checkpointBytes : LeafState → List (Nat × List (BitVec 8)) → List (BitVec 8)
opaque Config.checkpointRead : List (BitVec 8) → Option (LeafState × List (Nat × List (BitVec 8)))

end Sys2Proof

namespace Sys2Proof.Machine
open Sys2Proof

/-! ### The same state on another device -/

/-- How the numbers of a carried leaf change on its target: by how much the model's own numbers rise, its leaf number, the interfaces
that take the place of its own, and the distance of its image pool. -/
structure Relocation where
  by_ : Nat
  leaf : Nat
  vis : Tbl Nat
  from_ : Nat
  pool : Nat

/-- A number of the model's; one that may be 0 for none. -/
def Relocation.id (m : Relocation) (n : Nat) : Nat := n + m.by_
def Relocation.opt (m : Relocation) (n : Nat) : Nat := if n = 0 then 0 else n + m.by_
/-- An interface, and an address in the image pool. -/
def Relocation.vi (m : Relocation) (v : Nat) : Nat := tblGet m.vis v v
def Relocation.pool_ (m : Relocation) (a : Nat) : Nat := a + m.pool - m.from_
/-- An entry of a table numbered by the model. -/
def Relocation.tbl {α : Type} (m : Relocation) (f : α → α) (t : Tbl α) : Tbl α := t.map (fun p => (m.id p.1, f p.2))

/-- An owner of storage. -/
def Relocation.owner (m : Relocation) : Owner → Owner
  | .piece p => .piece (m.id p)
  | .task g => .task (m.id g)

/-- An operation of a group that is off its core: every write it made has performed. -/
def Relocation.kind (m : Relocation) : OpKind → OpKind
  | .talloc t o sh => .talloc t (m.owner o) sh
  | .balloc kd o r l => .balloc kd (m.owner o) r l
  | .matrix x => .matrix { x with act := match x.act with
    | .wbal o => .wbal (m.owner o)
    | a => a }
  | .fabric f t md _ x got => .fabric f t md [] x got
  | k => k.setCopy (fun c => { c with writes := [] })

/-- A group, off its core. An armed monitor counts as touched, for its line has another place (DESIGN CHOICE, log entry 107). -/
def Relocation.group (m : Relocation) (g : Group) : Group :=
  { g with
      launch := m.id g.launch, vi := m.vi g.vi, leaf := m.leaf, resident := false, pieces := g.pieces.map m.opt,
      lanes := g.lanes.map (fun p => (p.1, { p.2 with own := p.2.own.map m.opt, exitWrites := [] })),
      f := g.f.map (fun p => (p.1, { p.2 with met := true, cover := {} })), image := g.image.map m.pool_, seen := [], fwaited := [],
      ops := g.ops.map (fun o => { o with kind := m.kind o.kind }),
      mon := { g.mon with state := if g.mon.state = .armed then .touched else g.mon.state } }

/-- A group laid out and not yet placed. -/
def Relocation.plan (m : Relocation) (g : GroupPlan) : GroupPlan :=
  { g with pieces := g.pieces.map m.opt, own := g.own.map (fun l => l.map m.opt), unit := m.opt g.unit, gang := g.gang.map m.id,
           image := g.image.map m.pool_ }

/-- A launch: its START and END are carried across. -/
def Relocation.launch (m : Relocation) (l : Launch) : Launch :=
  { l with
      vi := m.vi l.vi, leaf := m.leaf, parent := l.parent.map m.id, taskGroups := l.taskGroups.map m.id,
      tasks := l.tasks.map (fun p => (p.1, match p.2 with
        | .reserved g i => .reserved (m.id g) i
        | .spawned => .spawned)),
      plans := l.plans.map m.plan, taskPlans := l.taskPlans.map m.plan, grader := { l.grader with logged := [] }, slotWrites := [],
      sigWrite := l.sigWrite.map (fun _ => 0) }

/-- A piece. -/
def Relocation.piece (m : Relocation) (p : Piece) : Piece :=
  { p with launch := m.id p.launch, parent := p.parent.map m.id, subs := p.subs.map m.id }

/-- A core's sets and regions. -/
def Relocation.core (m : Relocation) (c : Core) : Core :=
  { c with sets := c.sets.map (fun p => (p.1, { p.2 with claim := p.2.claim.map m.id })),
           regions := c.regions.map (fun p => (p.1, { p.2 with owner := m.owner p.2.owner, leaf := m.leaf })), regroup := [] }

/-- The stores of a leaf: handles stay (R356). -/
def Relocation.stores (m : Relocation) (t : Tenancy) : Tenancy :=
  { tiles := t.tiles.map (fun p => (p.1, { p.2 with owner := m.owner p.2.owner, leaf := m.leaf })),
    barriers := t.barriers.map (fun p => (p.1, { p.2 with owner := m.owner p.2.owner, leaf := m.leaf })),
    runs := m.tbl (fun r => { r with owner := m.owner r.owner, leaf := m.leaf }) t.runs,
    waits := t.waits.map (fun w => { w with gid := m.id w.gid }), cores := t.cores.map (fun p => (p.1, m.core p.2)) }

/-- A page request entry keeps its tag; group 0 stands for the agents of the hub. -/
def Relocation.req (m : Relocation) (r : PageReq) : PageReq :=
  { r with leaf := m.leaf, vi := m.vi r.vi, gid := m.opt r.gid, lanes := r.lanes.map (fun p => (m.opt p.1, p.2)),
           ops := r.ops.map (fun p => (m.opt p.1, p.2)) }

/-- An interface takes the registers of the one it stands for, with its queues' last entries. -/
def Relocation.page (m : Relocation) (now : Nat) (v : VI) : VI :=
  { v with queues := v.queues.map (fun q => (q.1, { q.2.startDog now with pred := match q.2.pred with
      | .launch l => .launch (m.id l)
      | p => p })) }

/-- Entries put back into a table. -/
def putBack {α : Type} (t u : Tbl α) : Tbl α := u.foldl (fun (x : Tbl α) (p : Nat × α) => tblSet x p.1 p.2) t

/-- What the stores of a leaf held comes back into the same entries, handles and sets (R356). -/
def State.bringStores (s : State) (t : Tenancy) : State :=
  { s with tiles := putBack s.tiles t.tiles, barriers := putBack s.barriers t.barriers, runs := putBack s.runs t.runs,
           waits := s.waits ++ t.waits, cores := putBack s.cores t.cores }

/-- COMMIT on the target (R358): the carried leaf takes its place, every group off its core, and is restored by R355. -/
def State.placeLeaf (s : State) (leaf : Nat) (x : LeafState) : State :=
  let m : Relocation := { by_ := s.nextId, leaf := leaf, vis := x.vis.zip (s.part leaf).vis, from_ := x.poolBase, pool := (s.part leaf).poolBase }
  let top := x.launches.foldl (fun n p => max n p.1) (x.groups.foldl (fun n p => max n p.1) (x.pieces.foldl (fun n p => max n p.1)
    ((x.pageReqs.foldl (fun n p => max n p.1) (x.changes.foldl (fun n p => max n p.1) (x.stores.runs.foldl (fun n p => max n p.1) 0))))))
  let s : State := { s with
    nextId := s.nextId + top + 1, launches := putBack s.launches (m.tbl m.launch x.launches),
    groups := putBack s.groups (m.tbl m.group x.groups), pieces := putBack s.pieces (m.tbl m.piece x.pieces),
    changes := putBack s.changes (m.tbl (fun c => { c with gid := m.opt c.gid, cover := {}, leaf := leaf }) x.changes),
    pageReqs := putBack s.pageReqs (m.tbl m.req x.pageReqs),
    pageWaits := s.pageWaits ++ x.pageWaits.map (fun w => { w with leaf := leaf, vi := m.vi w.vi, gid := m.opt w.gid }) }
  let s := (x.vis.zip x.pages).foldl (fun (s : State) p => s.modVI (m.vi p.1) (fun v => { m.page s.time p.2 with msix := v.msix })) (s.bringStores (m.stores x.stores))
  s.modPart leaf (fun p => { p with
    saves := x.part.saves.map (fun (q : Nat × AccSet) => (q.1, { q.2 with claim := q.2.claim.map m.id })), tenant := x.part.tenant.map m.vi,
    since := s.time, allow := none, leaving := x.part.leaving.map m.vi,
    away := x.part.away.map (fun (q : Nat × Tenancy) => (m.vi q.1, m.stores q.2)) })

/-! ### Pages -/

/-- The pages that the stage-2 table at `tbl` maps from guest physical address `base` on: guest and system address (R358, R173). -/
def State.pages2 (s : State) : Nat → Nat → Nat → List (Nat × Nat)
  | 0, tbl, base => (List.range 512).filterMap (fun i =>
      let e := s.hubRead (tbl + 8 * i) 8
      if pteV e then some (base + i * 4096, ptePPN e) else none)
  | l + 1, tbl, base => (List.range 512).flatMap (fun i =>
      let e := s.hubRead (tbl + 8 * i) 8
      let at_ := base + i * 2 ^ (12 + 9 * (l + 1))
      if !pteV e then []
      else if ptePointer e then s.pages2 l (ptePPN e) at_
      else (List.range (512 ^ (l + 1))).map (fun k => (at_ + 4096 * k, ptePPN e + 4096 * k)))

/-- The pages of a leaf that a migration carries: those on the package or in CXL memory (DESIGN CHOICE, log entry 107). -/
def State.leafPages (s : State) (leaf : Nat) : List (Nat × Nat) :=
  (s.pages2 3 (s.part leaf).s2root 0).filter (fun p => decide (p.2 < 0x100000000000))

/-- The bytes of a page. -/
def State.pageBytes (s : State) (a : Nat) : List Byte := (s.readBytes hub (.sys a) 4096).1

/-- What a packet of a migration brings to a leaf whose ticket has been taken (R358): 0 bytes of a guest page, 1 bytes of its state,
2 the end, at which the leaf takes its place. -/
def State.carryArrive (s : State) (p : FabPacket) (leaf part at_ : Nat) (data : List Byte) : State :=
  if tblFind s.mgmt.expected leaf ≠ some (p.src, p.srcLeaf) then s
  else
    let got := tblGet s.mgmt.incoming [] leaf
    let bytes (n : Nat) : List Byte := (List.range n).map (fun i => tblGet got 0 i)
    if part = 0 then match s.stage2 ⟨leaf, 0, none, .supervisor⟩ { w := true } at_ with
      | .ok (a, _) => s.putMem a data
      | .error _ => s
    else if part = 1 then
      let got := ((List.range data.length).zip data).foldl (fun t b => tblSet t (at_ + b.1) b.2) got
      { s with mgmt := { s.mgmt with incoming := tblSet s.mgmt.incoming leaf got } }
    else
      let s := { s with mgmt := { s.mgmt with incoming := tblErase s.mgmt.incoming leaf, expected := tblErase s.mgmt.expected leaf } }
      match Config.leafRead (bytes at_) with
      | some x => s.placeLeaf leaf x
      | none => s

end Sys2Proof.Machine
end

