-- ==== Sys2Proof/Machine/Stop.lean ====
section
/-!
DEFINITION. The end of a launch's count (R48, R31, R56, R59), and stopping launches: the launches of a spawn tree, the storage that a piece or a TASK group owns and its freeing
(R362, R32), and the removal of everything that stopped launches hold, as a function-level reset (R38), a spawn beyond the
counter (R48) and a leaf drain (R60) make it.
-/

namespace Sys2Proof.Machine
open Sys2Proof

/-- The object of this package that a change is on its way to is one that owners hold. -/
def State.changeOwned (s : State) (f : Owner → Bool) (c : Change) : Bool :=
  c.pkg.isNone && (match tblFind s.barriers c.handle with
    | some b => f b.owner
    | none => false)

/-- A phase mirror of an object that owners hold on another package (R294). -/
def State.mirrorOwned (s : State) (f : Owner → Bool) (m : Mirror) : Bool :=
  s.pieces.any (fun p => f (.piece p.1) && p.2.bar == m.handle && p.2.barpkg.toNat == m.dpkg) ||
    s.runs.any (fun p => f p.2.owner && p.2.pkg == some m.dpkg && decide (p.2.first ≤ m.handle.toNat) &&
      decide (m.handle.toNat < p.2.first + p.2.count))

/-- Everything an owner holds is freed in one step (R362, R32): tiles, barrier objects with the drops still on their way to
them (R80) and their mirrors, runs of objects, weight regions. -/
def State.freeOwned (s : State) (f : Owner → Bool) : State :=
  { s with
      tiles := s.tiles.filter (fun p => !f p.2.owner), barriers := s.barriers.filter (fun p => !f p.2.owner),
      changes := s.changes.filter (fun p => !s.changeOwned f p.2),
      mirrors := s.mirrors.filter (fun m => !s.mirrorOwned f m),
      runs := s.runs.filter (fun p => !f p.2.owner),
      cores := s.cores.map (fun p => (p.1, { p.2 with regions := p.2.regions.filter (fun r => !f r.2.owner) })) }

/-- Launches with the child launches of theirs (R31). -/
def State.withChildren (s : State) (ls : List Nat) : List Nat :=
  ls ++ (s.launches.filter (fun p => match p.2.parent with
    | some q => ls.contains q && !ls.contains p.1
    | none => false)).map (·.1)

/-- Launches with all of their descendants. -/
def State.family (s : State) (ls : List Nat) : List Nat :=
  (List.range s.launches.length).foldl (fun l _ => s.withChildren l) ls

/-- The owner belongs to one of the launches. -/
def State.ownerOf (s : State) (ls : List Nat) (o : Owner) : Bool :=
  match o with
  | .piece p => match s.piece p with
    | some x => ls.contains x.launch
    | none => false
  | .task g => match s.group g with
    | some x => ls.contains x.launch
    | none => false

/-- Groups of launches. -/
def State.groupsOf (s : State) (ls : List Nat) : List Nat := (s.groups.filter (fun p => ls.contains p.2.launch)).map (·.1)

/-- Page requests and waiting faults without those of some groups; an entry to which nothing is attached any more frees. -/
def State.dropFaults (s : State) (gs : List Nat) : State :=
  let strip (r : PageReq) : PageReq :=
    { r with lanes := r.lanes.filter (fun p => !gs.contains p.1), ops := r.ops.filter (fun p => !gs.contains p.1) }
  { s with
      pageReqs := (s.pageReqs.map (fun p => (p.1, strip p.2))).filter (fun p => !(p.2.lanes.isEmpty && p.2.ops.isEmpty)),
      pageWaits := s.pageWaits.filter (fun w => !gs.contains w.gid),
      pageFails := s.pageFails.filter (fun p => !gs.contains p.1) }

/-- A write of one of the groups that has not performed anywhere, or an urn operation of one that has not performed (R38, R60,
R283). -/
def Write.unperformed (w : Write) (gs : List Nat) : Bool :=
  gs.contains w.gid && w.core.isSome && (w.level == 0 || w.urn.isSome)

/-- Stopped launches lose everything they run (R38, R60): their groups with their operations, the stores that lie in their
store queues and the urn operations that have not performed, their pieces and storage, changes and requests on their way,
claims on sets. Writes that have left a store queue go on. -/
def State.wipe (s : State) (ls : List Nat) : State :=
  let gs := s.groupsOf ls
  let s := s.freeOwned (s.ownerOf ls)
  let s := s.dropFaults gs
  { s with
      groups := s.groups.filter (fun p => !gs.contains p.1),
      flight := s.flight.filter (fun w => !w.unperformed gs),
      pieces := s.pieces.filter (fun p => !ls.contains p.2.launch),
      changes := s.changes.filter (fun p => !gs.contains p.2.gid),
      waits := s.waits.filter (fun w => !gs.contains w.gid),
      assignQ := s.assignQ.map (fun p => (p.1, { p.2 with ops := p.2.ops.filter (fun o => !gs.contains o.2.1) })),
      cores := s.cores.map (fun p => (p.1, { p.2 with
        sets := p.2.sets.map (fun z => (z.1, { z.2 with claim := z.2.claim.bind (fun g =>
          if gs.contains g then none else some g) })),
        regroup := p.2.regroup.filter (fun e => !gs.contains e.gid) })) }

/-! ### Queues: launches in flight and watchdogs -/

/-- The leaf an interface is bound to (R37). -/
def State.leafOf (s : State) (vi : Nat) : Option Nat := (s.parts.find? (fun p => p.2.vis.contains vi)).map (·.1)

/-- The end of an update of a control block (R57): GEN is even again. -/
def Queue.finish (q : Queue) : Queue :=
  if q.block.gen.getLsbD 0 then { q with block := { q.block with gen := q.block.gen + 1 } } else q

/-- An update of a control block up to its last write (R57): one under way ends; the shadow is the block before the change, and
GEN is odd. A restart before GEN is odd, or between that and the change, leaves to the repair what one after it leaves. -/
def Queue.update (q : Queue) (f : QBlock → QBlock) : Queue :=
  let q := q.finish
  { q with shadow := q.block, block := { f q.block with gen := q.block.gen + 1 } }

/-- Released launches of a queue that are not complete (R56). -/
def State.inflightOf (s : State) (vi q : Nat) : Nat :=
  (s.launches.filter (fun p => p.2.vi == vi && p.2.queue == q && p.2.parent.isNone && p.2.phase ≠ .completing &&
    p.2.phase ≠ .completed)).length

/-- Launches of a queue that count for its watchdog (R59): dispatched, and their counter not yet zero. -/
def State.watched (s : State) (vi q : Nat) : Nat :=
  (s.launches.filter (fun p => p.2.vi == vi && p.2.queue == q && p.2.parent.isNone && p.2.start.isSome &&
    p.2.phase = .running)).length

/-- The tenant of an interface is resident on its leaf (R65): the leaf runs its work, or has no other tenant. -/
def State.residentVi (s : State) (vi : Nat) : Bool :=
  match s.leafOf vi with
  | none => false
  | some leaf => let p := s.part leaf; decide (p.vis = [vi]) || decide (p.tenant = some vi)

/-- The watchdog of a queue starts with its full period, or stops when nothing counts (R59); while its tenant is away, the
time is kept for its return. -/
def State.startWatchdog (s : State) (vi q : Nat) : State :=
  let ms := ((s.vi vi).queue q).qwdog.toNat
  let n := if ms = 0 ∨ s.watched vi q = 0 then 0 else ms * 1000000
  let home := s.residentVi vi
  s.modQueue vi q (fun x =>
    { x with wddead := if n = 0 ∨ !home then 0 else BitVec.ofNat 64 (s.time + n),
             wdrem := if home then 0 else BitVec.ofNat 64 n })

/-! ### The count of a launch -/

/-- A child launch passes its error and flags to its parent (R31). -/
def State.passUp (s : State) (l : Launch) : State :=
  match l.parent with
  | none => s
  | some p => s.modLaunch p (fun x => x.addError l.error.toNat (l.flags.toNat + if l.error ≠ 0 && !bitAt l.flags.toNat 0 then 1 else 0))

/-- A launch's spawn-tree counter has reached zero (R48): it completes now; its payload slot is free; its queue's watchdog
starts again where the launch counted for it (R59, R318; DEDUCED, log entry 98). -/
def State.zeroCounter (s : State) (lid : Nat) : State :=
  match s.launch lid with
  | none => s
  | some l =>
    let s := s.modLaunch lid (fun l => { l with phase := .completing, end_ := s.time, step := 0, payloadSlot := none })
    let s := match l.payloadSlot with
      | some n => s.modVI l.vi (fun v => { v with slots := v.slots.filter (fun x => x ≠ n) })
      | none => s
    if l.parent.isNone && l.start.isSome then s.startWatchdog l.vi l.queue else s

/-- The spawn-tree counter of a launch falls by one (R48); a child launch that completes so lowers its parent's. -/
def State.counterDown (s : State) : Nat → Nat → State
  | 0, _ => s
  | n + 1, lid =>
    match s.launch lid with
    | none => s
    | some l =>
      if l.phase = .completing || l.phase = .completed then s
      else if 1 < l.counter then s.modLaunch lid (fun l => { l with counter := l.counter - 1 })
      else
        let s := (s.modLaunch lid (fun l => { l with counter := 0 })).zeroCounter lid
        match l.parent with
        | some p => (s.passUp l).counterDown n p
        | none => s

/-- The counter of a launch falls by one, whatever the depth of its tree. -/
def State.count1 (s : State) (lid : Nat) : State := s.counterDown (s.launches.length + 1) lid

/-- A launch is stopped and completes with an error and PARTIAL (R48): its work and that of its descendants is gone, and the
descendants with it. -/
def State.stopLaunch (s : State) (lid code : Nat) : State :=
  let ls := s.family [lid]
  let s := s.wipe ls
  let s := { s with launches := s.launches.filter (fun p => p.1 = lid || !ls.contains p.1) }
  (s.modLaunch lid (fun l => { l.addError code 3 with
    counter := 1, stopped := true, plans := [], taskPlans := [], tasks := [], taskGroups := [], counted := true })).count1 lid

end Sys2Proof.Machine
end

