-- ==== Sys2Proof/Machine/Sync.lean ====
section
/-!
DEFINITION. Barriers, fences and monitors, opcodes 0xD0 to 0xD7, 0xE0 and 0xE1 (R284, R293 to R301), and the events that
apply barrier changes, carry barrier packets between packages (R294), grant runs of objects (R299) and end a wait on a
monitor (R301).
-/

namespace Sys2Proof.Machine
open Sys2Proof

/-! ### Barrier instructions -/

/-- A barrier change leaves the group (R293, R296): counted in ST until it has been applied. -/
def State.askBarrier (s : State) (c : Ctx) (g : Group) (h : Nat) (pkg : Option Nat) (ask : BarAsk) : State :=
  let x : Change := { gid := c.gid, op := some g.nextOp, handle := h, pkg := pkg, ask := ask, cover := s.coverNow c.gid g,
                      scope := s.barrierScope h pkg, leaf := g.leaf }
  let cid := s.nextId
  ({ s.bump with changes := tblSet s.changes cid x }).addOp c.gid .st (.barrier cid)

/-- `arrive` and `bdrop` (R297): the number of guard-active lanes. -/
def changeEntry (ask : Nat → BarAsk) : Entry where
  cls := some .st
  body c s g :=
    let w := c.kB g
    if c.active.isEmpty then .done (s.addEmpty c.gid .st) [] none []
    else match s.barrierFor c.gid g w with
    | none => trapActive c s causeBarrier w
    | some (h, pkg) => .done (s.askBarrier c g h pkg (ask c.active.length)) [] none []

/-- `expect` (R297): an overflow of the object as it stands traps at issue. -/
def expectEntry : Entry where
  cls := some .st
  body c s g :=
    let w := c.kB g
    let k := c.kA g 0
    let n := k.toNat % 2 ^ 24
    if c.active.isEmpty then .done (s.addEmpty c.gid .st) [] none []
    else match s.barrierFor c.gid g w with
    | none => trapActive c s causeBarrier w
    | some (h, pkg) =>
      let overExp := match pkg with
        | some _ => false
        | none => (s.applyExpect h n).2
      if k.toNat / 2 ^ 24 ≠ 0 || overExp then trapActive c s causeBarrier k
      else .done (s.askBarrier c g h pkg (.expect n k)) [] none []

/-- `bwait` (R298): blocked until PHASE[0] differs from the phase bit of the word. -/
def bwaitEntry : Entry where
  body c s g :=
    let w := c.kB g
    if c.active.isEmpty then .done s [] none []
    else match s.barrierFor c.gid g w with
    | none => trapActive c s causeBarrier w
    | some (h, pkg) =>
      if (s.phaseOf h pkg).getLsbD 0 == wordPhase w then .blocked else .done s [] none []

/-- `bphase` (R298). -/
def bphaseEntry : Entry where
  body c s g :=
    let w := c.kB g
    if c.active.isEmpty then .done s [] (some .n32) []
    else match s.barrierFor c.gid g w with
    | none => trapActive c s causeBarrier w (some .n32)
    | some (h, pkg) =>
      let v := BitVec.ofNat 64 (s.phaseOf h pkg).toNat
      .done (s.putResults c (c.active.map (fun i => (i, v)))) [] (some .n32) []

/-! ### Runs of objects -/

/-- Fields of the request word of `balloc` (R299). -/
def runCount (w : DWord) : Nat := w.toNat / 2 ^ 32 % 256
def runArrivals (w : DWord) : Nat := w.toNat % 2 ^ 28

/-- A request word or level that `balloc` refuses (R299). -/
def runBad (l : Launch) (k : Nat) (w : DWord) : Bool :=
  w.toNat / 2 ^ 40 != 0 || w.toNat / 2 ^ 28 % 16 != 0 || runCount w == 0 || decide (64 < runCount w) ||
    runArrivals w == 0 || k == 0 || decide (l.nlevel ≤ k) || !l.barrier k

/-- The run of a key, if it is allocated. -/
def State.runOf (s : State) (o : Owner) (kd : Nat) : Option BarRun :=
  (s.runs.find? (fun p => p.2.owner = o && p.2.reg = kd)).map (·.2)

/-- The request under a key that still waits. -/
def State.runPending (s : State) (o : Owner) (kd : Nat) : Option DWord :=
  s.groups.findSome? (fun p => p.2.ops.findSome? (fun x =>
    match x.kind with
    | .balloc u ow w _ => if u = kd && ow = o && !x.ended then some w else none
    | _ => none))

/-- The barrier word of the first object of a run (R299): FAR and DPKG for a POD-bound level. -/
def runWord (pod : Bool) (home : Nat) (first : Nat) : DWord :=
  BitVec.ofNat 64 (first + if pod then home * 2 ^ 33 + 2 ^ 47 else 0)

/-- The level is bound to POD for a group (R294, R32). -/
def podBound (g : Group) (l : Launch) (k : Nat) : Bool := !g.task && l.domain k == 5

/-- The package that holds the objects of a group's piece of a level (R294). -/
def State.homeOf (s : State) (g : Group) (k : Nat) : Nat :=
  match g.pieceAt k with
  | some pid => match s.piece pid with
    | some p => if p.barpkg = 0xFFFFFFFF then s.dpkg else p.barpkg.toNat
    | none => s.dpkg
  | none => s.dpkg

/-- Where the objects of a run go (R80, R299): the core's store, or the store of the home cluster. -/
def State.runUnit (s : State) (g : Group) (l : Launch) (k : Nat) : Bool × Nat :=
  if g.task || decide (l.domain k ≤ 1) then (false, g.core)
  else if l.domain k = 2 then (true, clusterOf g.core)
  else match g.pieceAt k with
    | some pid => match s.piece pid with
      | some p => (true, if p.bar = 0xFFFFFFFF then p.homeCluster.getD (clusterOf g.core) else handleUnit p.bar.toNat)
      | none => (true, clusterOf g.core)
    | none => (true, clusterOf g.core)

/-- `balloc` (R299). -/
def ballocEntry (k : Nat) : Entry where
  cls := some .tx
  body c s g :=
    let kd := c.o.d.num
    let w := c.kA g 0
    if c.active.isEmpty then .done (s.addEmpty c.gid .tx) [] none []
    else match s.launchOf g, g.ownerAt c.gid k with
    | some l, some o =>
      let other := match s.runOf o kd with
        | some r => decide (r.word ≠ w)
        | none => match s.runPending o kd with
          | some x => decide (x ≠ w)
          | none => false
      let pod := podBound g l k
      let home := s.homeOf g k
      if runBad l k w || other then trapActive c s causeBarrier w
      else match s.runOf o kd with
      | some r => .done ((s.modGroup c.gid (fun g => g.kPut kd (runWord pod home r.first))).addEmpty c.gid .tx) [] none []
      | none =>
        let (lvl, unit) := s.runUnit g l k
        let wait : StoreWait := { gid := c.gid, op := g.nextOp, lvl := lvl, unit := unit,
                                  pkg := if pod && home != s.dpkg then some home else none }
        let s := s.addOp c.gid .tx (.balloc kd o w k)
        .done { s with waits := s.waits ++ [wait] } [] none []
    | _, _ => trapActive c s causeBarrier w

/-! ### Fences -/

/-- `fence` (R284): a token over all that the group has issued, in place of any token the slot holds. -/
def fenceEntry (sc : BitVec 4) : Entry where
  body c s g :=
    let t : Token := { scope := sc, met := false, cover := s.coverNow c.gid g }
    .done (s.modGroup c.gid (fun g => { g with f := tblSet g.f c.o.d.num t })) [] none []

/-- `fwait` (R284): blocked until the token is met; what it covered is covered by later fences. -/
def fwaitEntry : Entry where
  body c s g :=
    let n := c.o.d.num
    match tblFind g.f n with
    | none => .done s [] none []
    | some t =>
      if !(t.met || s.covered t.cover t.scope.toNat) then .blocked
      else
        let live := (g.fwaited ++ t.cover.writes).filter (fun w => s.flight.any (fun x => x.id = w))
        .done (s.modGroup c.gid (fun g => { g with f := tblErase g.f n, fwaited := live })) [] none []

/-! ### Monitors -/

/-- Line of 128 bytes of a generic address. -/
def lineOf (a : DWord) : DWord := BitVec.ofNat 64 (a.toNat / 128 * 128)

/-- `mon` (R301): the address of the lowest guard-active lane is checked as one byte read, which meets no poison; LOCAL traps ACCESS. -/
def monEntry (sc : BitVec 4) : Entry where
  ok := addressOk
  body c s g :=
    match c.lowest with
    | none => .done s [] none []
    | some i =>
      let a := c.a64 g i
      let n : Need := { r := true }
      let r := if (g.lane i).failing then (Check.trap causePage, []) else s.checkAccess c.gid g c.m i a 1 1 n
      let r := match r.1 with
        | .ok (.loc _ _ _) => (Check.trap causeAccess, r.2)
        | _ => r
      if s.addrBusy c.gid g i a then .blocked
      else match s.accessGroup c g a n r with
      | (s, .error es) => .done s es none []
      | (s, .ok l) =>
        let m : Monitor := { state := .armed, level := sc, line := lineOf a, place := l.line }
        .done (s.modGroup c.gid (fun g => { g with mon := m })) [] none []

/-- `mwait` (R301): `%time` is read once, at issue, when there is a deadline. -/
def mwaitEntry : Entry where
  body c s g :=
    if c.active.isEmpty then .done s [] none []
    else if g.mon.state ≠ .armed then
      .done (s.modGroup c.gid (fun g => { g with mon := { g.mon with state := .disarmed } })) [] none []
    else
      let k := (c.kB g).toNat
      let (s, dl) := if k = 0 then (s, none)
        else
          let (s, t) := s.readTime c.gid g c.active
          (s, some (t.toNat + k))
      let s := s.modLanes c.gid c.active (fun _ l =>
        { l with park := .monitor, deadline := dl, resume := BitVec.ofNat 48 c.iss.next,
                 resumeAtHeader := decide (c.iss.next = c.iss.following) })
      .done s (c.active.map (fun i => (i, .stay))) none []

/-- SCOPE of `mon`: SYSTEM in the short form (R301). -/
def monScope : ExtS → BitVec 4
  | .short => 10
  | .long sc _ => sc

/-! ### The instructions -/

/-- `arrive` (R297). -/
def execArrive (b : KReg) (x : Ext) (s : State) : Out := serve (.arrive b x) s (changeEntry .arrive)

/-- `bdrop` (R297). -/
def execBdrop (b : KReg) (x : Ext) (s : State) : Out := serve (.bdrop b x) s (changeEntry .drop)

/-- `expect` (R297). -/
def execExpect (a b : KReg) (x : Ext) (s : State) : Out := serve (.expect a b x) s expectEntry

/-- `bwait` (R298). -/
def execBwait (b : KReg) (x : Ext) (s : State) : Out := serve (.bwait b x) s bwaitEntry

/-- `bphase` (R298). -/
def execBphase (d : VReg) (b : KReg) (x : Ext) (s : State) : Out := serve (.bphase d b x) s bphaseEntry

/-- `balloc` (R299). -/
def execBalloc (d a : KReg) (b : BitVec 3) (x : Ext) (s : State) : Out := serve (.balloc d a b x) s (ballocEntry b.toNat)

/-- `fence` (R284). -/
def execFence (d : FReg) (b : BitVec 4) (x : Bool) (s : State) : Out := serve (.fence d b x) s (fenceEntry b)

/-- `fwait` (R284). -/
def execFwait (d : FReg) (x : Bool) (s : State) : Out := serve (.fwait d x) s fwaitEntry

/-- `mon` (R301). -/
def execMon (a : DReg) (x : ExtS) (s : State) : Out := serve (.mon a x) s (monEntry (monScope x))

/-- `mwait` (R301). -/
def execMwait (b : KReg) (x : Ext) (s : State) : Out := serve (.mwait b x) s mwaitEntry

/-! ### Events -/

/-- A packet to the home package of an object (R294); its number there is the change's. -/
def State.barPacket (s : State) (cid : Nat) (c : Change) : BarPacket :=
  { src := s.dpkg, seq := cid, handle := BitVec.ofNat 32 c.handle,
    op := match c.ask with
      | .arrive n => .arrive n
      | .drop n => .drop n
      | .expect n _ => .expect n }

/-- A change has been applied, or lost its effect: it leaves, and its operation ends (R296, R297). -/
def State.endChange (s : State) (cid : Nat) (c : Change) (overExp : Bool) : State :=
  let s := { s with changes := tblErase s.changes cid }
  match c.op with
  | none => s
  | some op =>
    let err := match c.ask with
      | .expect _ v => if overExp then some { cause := causeBarrier, xval := v } else none
      | _ => none
    s.endOp c.gid op err

/-- What a change asks, applied to an object of this package; the second part tells whether it was discarded (R297). -/
def State.applyAsk (s : State) (h : Nat) (a : BarAsk) : State × Bool :=
  match a with
  | .arrive n => (s.changeBarrier h (fun b => b.arrive n), false)
  | .drop n => (s.changeBarrier h (fun b => b.drop n), false)
  | .expect n _ => s.applyExpect h n

/-- BARRIER_CHANGE_APPLY (R293, R294): a change whose cover has performed is applied to its object, or sent to the home
package. -/
def State.changeApply (s : State) (cid : Nat) : State :=
  match tblFind s.changes cid with
  | none => s
  | some c =>
    if !s.covered c.cover c.scope.toNat then s
    else match c.pkg with
    | none =>
      if s.barAsleep c.handle then s
      else
        let (s, overExp) := s.applyAsk c.handle c.ask
        s.endChange cid c overExp
    | some _ =>
      if c.sent then s
      else { s with changes := tblSet s.changes cid { c with sent := true } }.putOut c.leaf (.change (s.barPacket cid c))

/-- BARRIER_PACKET_RESEND (R294): a packet not yet acknowledged, of a change or of a phase, is sent again. -/
def State.packetResend (s : State) (cid : Nat) : State :=
  match tblFind s.changes cid with
  | some c => if c.sent then s.putOut c.leaf (.change (s.barPacket cid c)) else s
  | none => match tblFind s.phases cid with
    | some p => s.putOut p.leaf (.phase p)
    | none => s

/-- Outcome code of a barrier packet's acknowledgement: 0 applied, 1 discarded (R294). -/
def ackPacket (s : State) (p : BarPacket) (overExp : Bool) : FabPacket :=
  { src := s.dpkg, srcLeaf := 0, dst := p.src, gid := 0, op := p.seq, body := .reply overExp.toNat 0 [] }

/-- An acknowledgement leaves for the leaf of its object. -/
def State.sendAck (s : State) (h : Nat) (p : FabPacket) : State :=
  match tblFind s.barriers h with
  | some b => s.putOut b.leaf (.packet p)
  | none => s.emit (.packet p)

/-- BARRIER_PACKET_ARRIVAL (R294): applied once, however often it comes, and acknowledged. -/
def State.packetArrival (s : State) (p : BarPacket) : State :=
  let h := p.handle.toNat
  match s.applied.find? (fun a => a.1 == p.src && a.2.1 == p.seq) with
  | some (_, _, overExp) => s.sendAck h (ackPacket s p overExp)
  | none =>
  if s.barAsleep h then s
  else
    let ask : BarAsk := match p.op with
      | .arrive n => .arrive n
      | .drop n => .drop n
      | .expect n => .expect n 0
    let (s', overExp) := s.applyAsk h ask
    { s' with applied := s'.applied ++ [(p.src, p.seq, overExp)] }.sendAck h (ackPacket s' p overExp)

/-- The number by which an acknowledged phase is known. -/
def phaseKey (m : Mirror) : Nat := m.handle.toNat * 2 ^ 24 + m.phase.toNat

/-- A phase packet is acknowledged by a package, and is not sent again (R294). -/
def State.phaseAck (s : State) (src key : Nat) : State :=
  { s with phases := s.phases.filter (fun p => !(p.2.dst == src && phaseKey p.2.phase == key)) }

/-- PHASE_MIRROR_UPDATE (R294): a mirror takes the phases in the order in which they were sent, so one that repeats a phase it
has taken, or comes before one that it lacks, changes nothing; what has been taken is acknowledged. -/
def State.mirrorUpdate (s : State) (dpkg : Nat) (handle : BitVec 32) (phase : BitVec 24) : State :=
  let m : Mirror := { dpkg := dpkg, handle := handle, phase := phase }
  let old := s.phaseOf handle.toNat (some dpkg)
  let ack : FabPacket := { src := s.dpkg, srcLeaf := 0, dst := dpkg, gid := 0, op := 0, body := .reply 0 (phaseKey m) [] }
  if phase = old + 1 then
    { s with mirrors := m :: s.mirrors.filter (fun x => !(x.dpkg == dpkg && x.handle == handle)) }.emit (.packet ack)
  else if (old - phase).toNat < 2 ^ 23 then s.emit (.packet ack)
  else s

/-- The request for a run at the head of a store's queue (R194, R299). -/
def State.ballocHead (s : State) (lvl : Bool) (unit : Nat) : Option (StoreWait × Nat × Owner × DWord × Nat) :=
  s.waits.findSome? (fun w =>
    if w.lvl != lvl || w.unit != unit then none
    else match s.group w.gid with
      | none => none
      | some g => match g.op w.op with
        | some o => match o.kind with
          | .balloc kd ow r k => some (w, kd, ow, r, k)
          | _ => none
        | none => none)

/-- A group that waits for a run gets its word. -/
def State.giveRun (s : State) (w : StoreWait) (kd : Nat) (word : DWord) : State :=
  let s := s.modGroup w.gid (fun g => g.kPut kd word)
  { s with waits := s.waits.filter (fun x => !(x.gid == w.gid && x.op == w.op)) }.endOp w.gid w.op

/-- Objects of a store (R167). -/
def barCount (lvl : Bool) : Nat := if lvl then 2048 else 512

/-- BARRIER_RUN_GRANT (R299): the head of a store's queue gets the objects from `index` on, beside those kept
for a gang (R82), or joins the run of its key. -/
def State.runGrant (s : State) (lvl : Bool) (unit index : Nat) : State :=
  match s.ballocHead lvl unit with
  | none => s
  | some (w, kd, ow, req, k) =>
    match s.awake w.gid with
    | none => s
    | some g => match s.launchOf g with
      | none => s
      | some l =>
        let pod := podBound g l k
        let home := s.homeOf g k
        match s.runOf ow kd with
        | some r => if r.word = req then s.giveRun w kd (runWord pod home r.first) else s
        | none =>
          let n := runCount req
          let first := handleAt lvl unit index
          let here := (s.barriers.filter (fun p => handleLvl p.1 == lvl.toNat && handleUnit p.1 == unit)).length
          if s.barAsleep first || barCount lvl < index + n || barCount lvl < here + n + s.gangObjects (if lvl then 4 * unit else unit) ||
              (w.pkg.isNone && (List.range n).any (fun i => (tblFind s.barriers (first + i)).isSome)) then s
          else
            let b : Barrier := { owner := ow, leaf := g.leaf, scope := BitVec.ofNat 4 (l.scope k),
                                 far := if pod then some s.dpkg else none, exparr := runArrivals req }
            let s := if w.pkg.isSome then s
              else { s with barriers := (List.range n).foldl (fun t i => tblSet t (first + i) b) s.barriers }
            let r : BarRun := { owner := ow, pkg := w.pkg, leaf := g.leaf, reg := kd, word := req, first := first, count := n }
            { s.bump with runs := tblSet s.runs s.nextId r }.giveRun w kd (runWord pod home first)

/-- MWAIT_TIMEOUT (R301): the parked lanes whose deadline has come trap MONITOR_TIMEOUT, and the monitor is disarmed; a write in the
nanosecond of the deadline counts first, so it comes when that nanosecond has passed. -/
def State.mwaitTimeout (s : State) (gid : Nat) : State :=
  match s.awake gid with
  | none => s
  | some g =>
    let due := allLanes.filter (fun i =>
      let l := g.lane i
      decide (l.park = .monitor) && (match l.deadline with
        | some t => decide (t < s.time)
        | none => false))
    if due.isEmpty || !g.resident then s
    else
      let s := s.modGroup gid (fun g => { g with mon := { g.mon with state := .disarmed } })
      (due.foldl (fun s i =>
        let s := s.modLane gid i (fun l => { l with park := .none, deadline := none })
        s.takeTrap gid i causeMonitor g.mon.line (g.lane i).addr) s).settle gid

/-- BARRIER_CHANGE_APPLY (R293). -/
def execBarrierChangeApply (cid : Nat) (s : State) : Out := .next (s.changeApply cid)

/-- BARRIER_PACKET_RESEND (R294). -/
def execBarrierPacketResend (cid : Nat) (s : State) : Out := .next (s.packetResend cid)

/-- BARRIER_PACKET_ARRIVAL (R294). -/
def execBarrierPacketArrival (pkt : BarPacket) (s : State) : Out := .next (s.packetArrival pkt)

/-- PHASE_MIRROR_UPDATE (R294). -/
def execPhaseMirrorUpdate (dpkg : Nat) (handle : BitVec 32) (phase : BitVec 24) (s : State) : Out :=
  .next (s.mirrorUpdate dpkg handle phase)

/-- BARRIER_RUN_GRANT (R299). -/
def execBarrierRunGrant (lvl : Bool) (unit index : Nat) (s : State) : Out := .next (s.runGrant lvl unit index)

/-- MWAIT_TIMEOUT (R301). -/
def execMwaitTimeout (gid : Nat) (s : State) : Out := .next (s.mwaitTimeout gid)

end Sys2Proof.Machine
end

