-- ==== Sys2Proof/Machine/Fabric.lean ====
section
/-!
DEFINITION. The fabric (R314 to R319), long opcodes 0x70 to 0x76: packets and their sending, the remote copies, reads,
atomics, messages and events, what reaches this package from others, the fabric status word, and retirement with an
outcome.
-/

namespace Sys2Proof.Machine
open Sys2Proof

/-! ### Outcomes and packets -/

/-- The outcomes of R319. -/
def outOk : Nat := 0
def outDropped : Nat := 2
def outDenied : Nat := 3
def outNoRoute : Nat := 4
def outFault : Nat := 5
def outNoSlot : Nat := 6
def outNoSession : Nat := 7
def outRank : Nat := 8
def outBusy : Nat := 9

/-- An operation's outcome enters the fabric status word of its group (R319): FIRST [7:0], OP [15:8], NFAIL [31:16]. -/
def fabStatusAdd (w : DWord) (opc outcome : Nat) : DWord :=
  if outcome = 0 then w
  else
    let n := w.toNat / 2 ^ 16 % 65536
    let low := if n = 0 then outcome + 256 * opc else w.toNat % 65536
    BitVec.ofNat 64 (low + 65536 * min (n + 1) 65535)

/-- The outcome of an operation recorded. -/
def State.fabOutcome (s : State) (gid opc outcome : Nat) : State :=
  s.modGroup gid (fun g => { g with fabStatus := fabStatusAdd g.fabStatus opc outcome })

/-- Fields of a remote word (R316): fabric number, window, offset, virtual interface. -/
def farPkg (w : DWord) : Nat := w.toNat / 2 ^ 40 % 2 ^ 14
def farWin (w : DWord) : Nat := w.toNat / 2 ^ 36 % 16
def farOff (w : DWord) : Nat := w.toNat % 2 ^ 36
def farVi (w : DWord) : Nat := w.toNat / 2 ^ 24 % 2 ^ 11

/-- A window word has a reserved bit set (R316). -/
def winBad (w : DWord) : Bool := w.toNat / 2 ^ 54 != 0
/-- An interface word has a reserved bit set or names no interface (R316). -/
def ifaceBad (w : DWord) : Bool :=
  w.toNat / 2 ^ 54 != 0 || w.toNat / 2 ^ 35 % 32 != 0 || w.toNat % 2 ^ 24 != 0 || farVi w == 0 || decide (1024 < farVi w)

/-- Two packages lie in one pod (R314). -/
def State.samePod (s : State) (d : Nat) : Bool := d / 256 == s.dpkg / 256
/-- The level at which an access to another package performs: the pod's OB, or M across pods (R317). -/
def State.farLevel (s : State) (d : Nat) : Nat := if s.samePod d then 5 else 6
/-- The router has a way to a package: a route, or no way to go (R314). -/
def State.routed (s : State) (d : Nat) : Bool := d == s.dpkg || s.routes.contains d

/-- A packet sent: to this package itself it arrives at once; otherwise it leaves through a port when its leaf's budget lets it
(R314, R62). -/
def State.sendPacket (s : State) (leaf : Nat) (p : FabPacket) : State :=
  if p.dst = s.dpkg then { s.bump with inbox := tblSet s.inbox s.nextId p }
  else s.putOut leaf (.packet p)

/-- A packet of an operation of a group. -/
def State.packetFor (s : State) (g : Group) (gid op dst : Nat) (b : FabBody) : FabPacket :=
  { src := s.dpkg, srcLeaf := g.leaf, dst := dst, gid := gid, op := op, body := b }

/-! ### Instructions -/

/-- A fabric instruction other than a copy: its checks (R242), tiles that must be READY, and the operation that leaves. -/
def fabricEntry (cls : Cls) (opc : Nat) (check : Ctx → Group → EngineCheck) (act : Ctx → Group → FabAct)
    (target : Ctx → Group → DWord) : Entry where
  cls := some cls
  body c s g :=
    if c.active.isEmpty then .done (s.addEmpty c.gid cls) [] none []
    else
      let k := check c g
      match s.engineFault c g k with
      | some (cause, v) => trapActive c s cause v
      | none =>
        if (k.ranges.filterMap (fun r => tileHandle r.base)).any s.tileHeld then .blocked
        else
          let ws := s.ownWrites c.gid ++ g.fwaited
          .done (s.addOp c.gid cls (.fabric (act c g) (target c g) c.m ws false none) opc) [] none []

/-- The local end of a fabric copy, and its window word and length (R317). -/
def farCopy (c : Ctx) (g : Group) (out : Bool) (level : Nat) : CopyOp where
  src := if out then c.kA g 0 else 0
  dst := if out then 0 else c.kA g 0
  rows := 1
  rowBytes := lo32 (c.kA g 2)
  sstride := 0
  dstride := 0
  credit := creditOf (c.kB g)
  scope := if level = 5 then 6 else 10
  mode := c.m
  lane := c.lowest.getD 0
  done := []
  writes := []
  ended := false
  suspended := false
  pageTag := none
  answered := false
  credited := 0

/-- The first check of `fwr` or `frd` that fails: orders 1 to 5 of R197, with ENGINE 0x03 for reserved bits and fields
out of range (R317). -/
def State.farCopyFault (s : State) (c : Ctx) (g : Group) : Option (BitVec 8 × DWord) :=
  let a := c.kA g 0
  let w := c.kA g 1
  let k := c.kA g 2
  let len := lo32 k
  if winBad w || hi32 k != 0 || decide (len < 4) || decide (16777216 < len) || len % 4 != 0 ||
      (c.kB g).toNat / 2 ^ 33 != 0 then some (causeEngine, engineCode 3)
  else if (copyAperture a).isNone || !rowsFit a 0 1 len then some (causeAccess, a)
  else if a.toNat % 4 != 0 || farOff w % 4 != 0 then some (causeAlign, a)
  else match s.tileRange c.gid g a 0 1 len with
  | some f => some f
  | none => if s.creditBad c.gid g (c.kB g) then some (causeBarrier, c.kB g) else none

/-- `fwr` and `frd` (R317). -/
def farCopyEntry (out : Bool) (opc : Nat) : Entry where
  cls := some .cp
  body c s g :=
    if c.active.isEmpty then .done (s.addEmpty c.gid .cp) [] none []
    else match s.farCopyFault c g with
    | some (cause, v) => trapActive c s cause v
    | none =>
      let a := c.kA g 0
      let w := c.kA g 1
      if s.copyBlocked a (!out) then .blocked
      else
        let x := farCopy c g out (s.farLevel (farPkg w))
        let s := s.tileCopy a (fun t => t.more (!out))
        .done (s.addOp c.gid .cp (.remoteCopy out (farPkg w) (farWin w) (farOff w) x) opc) [] none []

/-- `fwr` (R317). -/
def execFwr (a b : KReg) (x : GuardF) (s : State) : Out := serve (.fwr a b x) s (farCopyEntry true 0x70)

/-- `frd` (R317). -/
def execFrd (a b : KReg) (x : GuardF) (s : State) : Out := serve (.frd a b x) s (farCopyEntry false 0x71)

/-- The check of the window word of `frd.k` and `fatom` (R317). -/
def wordCheck (c : Ctx) (g : Group) : EngineCheck :=
  { bad := winBad (c.kA g 0), align := [(farOff (c.kA g 0) % 8 != 0, c.kA g 0)] }

/-- `frd.k` (R317). -/
def execFrdK (d a : KReg) (x : GuardF) (s : State) : Out :=
  serve (.frdK d a x) s (fabricEntry .ld 0x72 wordCheck (fun c _ => .frdK c.o.d.num) (fun c g => c.kA g 0))

/-- `fatom.add` and `fatom.exch` (R317). -/
def execFatom (d a : KReg) (exch : Bool) (x : GuardF) (s : State) : Out :=
  serve (.fatom d a exch x) s
    (fabricEntry .ur 0x73 wordCheck (fun c g => .fatom c.o.d.num exch (c.kA g 1)) (fun c g => c.kA g 0))

/-- Length of the payload of `fsend` (R318). -/
def msgLen (w : DWord) : Nat := w.toNat / 2 ^ 32 % 256

/-- The checks of `fsend` (R318). -/
def fsendCheck (c : Ctx) (g : Group) : EngineCheck :=
  let a := c.kA g 0
  let k := c.kA g 2
  { bad := ifaceBad (c.kA g 1) || k.toNat / 2 ^ 40 != 0 || decide (240 < msgLen k),
    access := [((copyAperture a).isNone || !rowsFit a 0 1 (msgLen k), a)],
    align := [(a.toNat % 16 != 0, a)],
    ranges := if isTileAddr a then [{ base := a, stride := 0, rows := 1, bytes := msgLen k }] else [] }

/-- `fsend` (R318). -/
def execFsend (a : KReg) (x : GuardF) (s : State) : Out :=
  serve (.fsend a x) s (fabricEntry .st 0x74 fsendCheck
    (fun c g => .fsend (BitVec.ofNat 32 (c.kA g 2).toNat) (msgLen (c.kA g 2)) (c.kA g 0)) (fun c g => c.kA g 1))

/-- `fevent` (R318). -/
def execFevent (a : KReg) (x : GuardF) (s : State) : Out :=
  serve (.fevent a x) s (fabricEntry .st 0x75
    (fun c g => { bad := ifaceBad (c.kA g 0) || (c.kA g 1).toNat / 256 != 0 })
    (fun c g => .fevent (BitVec.ofNat 8 (c.kA g 1).toNat)) (fun c g => c.kA g 0))

/-- `fstat` (R319). -/
def execFstat (d : KReg) (x : GuardF) (s : State) : Out :=
  serve (.fstat d x) s (fabricEntry .tx 0x76 (fun _ _ => {}) (fun c _ => .fstat c.o.d.num) (fun _ _ => 0))

/-! ### Reaching memory on behalf of an operation -/

/-- A place reached for an operation of a group, or for a packet or session of the hub (group 0): a PAGE fault posts a
request and holds it; one whose request failed, and every other fault, fails it (R315, R317). -/
def State.reachFor (s : State) (x : Xlate) (gid key : Nat) (m : Mode) (va : Nat) (n : Need) : State × Reach :=
  if s.pageFails.contains (gid, key) then
    ({ s with pageFails := s.pageFails.erase (gid, key) }, .fault causeAccess (BitVec.ofNat 64 va))
  else match s.translate x n va with
  | .ok (p, _) => (s, .place (.sys p))
  | .error (.page st p) =>
    if st == 1 && !ringOn (s.vi x.vi).prctl then (s, .fault causeAccess (BitVec.ofNat 64 va))
    else if s.pageAwaited gid key st p then (s, .held)
    else
      let f : PageWait := { leaf := x.leaf, vi := x.vi, stage := st, page := p,
                            acc := s.pageCode x n st va, user := decide (m = .user), gid := gid, lane := 32, op := some key, again := false }
      ((s.raiseFault f false).1, .held)
  | .error _ => (s, .fault causeAccess (BitVec.ofNat 64 va))

/-- The table entries that a translation reads. -/
def State.entriesOf (s : State) (x : Xlate) (n : Need) (va : Nat) : List TlbEntry :=
  match s.translate x n va with
  | .ok (_, es) => es
  | .error _ => []

/-- The places of bytes in ascending order, or the first that is not to be had; the walk of each page counts (R62). -/
def State.reachEach (s : State) (x : Xlate) (gid key : Nat) (m : Mode) (n : Need) : List Nat → State × Except Reach (List Loc)
  | [] => (s, .ok [])
  | va :: r =>
    match s.reachFor x gid key m va n with
    | (s, .place l) =>
      let s := if r.isEmpty || va % 4096 = 4095 then s.hubWalk 0 x.leaf (s.entriesOf x n va) else s
      match s.reachEach x gid key m n r with
      | (s, .ok ls) => (s, .ok (l :: ls))
      | e => e
    | (s, e) => (s, .error e)

/-- The same, held while the translation budget of the leaf is used up (R62). -/
def State.reachAll (s : State) (x : Xlate) (gid key : Nat) (m : Mode) (n : Need) (as : List Nat) :
    State × Except Reach (List Loc) :=
  if s.exhausted x.leaf 5 then (s, .error .held) else s.reachEach x gid key m n as

/-- Bytes read by an agent of the hub; a poisoned line reads as zeros and is counted (R182, R277). -/
def State.hubBytes (s : State) (leaf launch : Nat) : List Loc → State × List Byte
  | [] => (s, [])
  | l :: r =>
    let s := s.meet launch leaf l
    let b := if s.poison l then 0 else (s.readByte hub l).1
    let (s, bs) := s.hubBytes leaf launch r
    (s, b :: bs)

/-- One poisoned read counted for bytes read together. -/
def State.hubRead1 (s : State) (leaf launch : Nat) (ls : List Loc) : State × List Byte :=
  let (s, bs) := s.hubBytes leaf launch ls
  (if ls.any s.poison then (s.countErr leaf 2).addFlags launch 32 else s, bs)

/-- A write of bytes by an agent of the hub that enters the path at a level, or M (R277, R317). -/
def State.hubWrite (s : State) (launch level : Nat) (bs : List (Loc × Byte)) : State × Nat :=
  let w : Write := { id := s.nextId, gid := 0, lane := 0, launch := launch, core := none, level := level, bytes := bs }
  if level = 6 then (s.bump.land w, w.id) else (s.bump.addWrite w, w.id)

/-! ### Answers -/

/-- Bytes of a fabric copy that travel in one packet: those of the 32-byte chunk of the window that holds byte `b`, from
the first to past the last (R317). -/
def farChunk (off total b : Nat) : Nat × Nat :=
  let lo := (off + b) / 32 * 32
  (lo - off, min total (lo + 32 - off))

/-- A fabric copy with an answer taken in (R317): bytes that landed are credited, bytes that came wait to be written,
lost ones keep their old values; any other outcome ends the copy. Credits wait while the object's die does not run (R326). -/
def State.copyAnswer (s : State) (gid op : Nat) (out : Bool) (off : Nat) (c : CopyOp) (outcome at_ : Nat) (data : List Byte) :
    State :=
  let (lo, hi) := farChunk off c.total at_
  let n := hi - lo
  let (s, k) := if outcome = outOk && out then
      match c.credit with
      | some b =>
        let k := if s.creditAsleep c then 0 else c.acked + n - c.credited
        (s.credit b.toNat k, k)
      | none => (s, 0)
    else (s, 0)
  let c' : CopyOp := { c with
    acked := c.acked + n, credited := c.credited + k,
    outcome := if c.outcome = 0 then outcome else c.outcome,
    ended := c.ended || (outcome != outOk && outcome != outDropped),
    done := if !out && outcome = outDropped then c.done ++ (List.range n).map (fun i => lo + i) else c.done,
    data := if !out && outcome = outOk then
        (List.range n).foldl (fun t i => tblSet t (lo + i) (data.getD i 0)) c.data
      else c.data }
  s.modOp gid op (fun o => { o with kind := o.kind.setCopy (fun _ => c') })

/-- An answer reaches the operation it belongs to: a fabric operation of a group, or a barrier change (R294, R317 to
R321). -/
def State.answerFabric (s : State) (gid op outcome at_ : Nat) (data : List Byte) : State :=
  if gid = 0 then
    match tblFind s.changes op with
    | some c => if outcome = outDropped then s else s.endChange op c (outcome != 0)
    | none => s
  else match s.group gid with
  | none => s
  | some g => match g.op op with
    | none => s
    | some o => match o.kind with
      | .remoteCopy out _ _ off c => s.copyAnswer gid op out off c outcome at_ data
      | .fabric (.bpush w pos sent acked oc) t m ws x got =>
        s.modOp gid op (fun o => { o with
          kind := .fabric (.bpush w pos sent (acked + 1) (if oc = 0 then outcome else oc)) t m ws x got })
      | .fabric f t m ws x none =>
        s.modOp gid op (fun o => { o with kind := .fabric f t m ws x (some (outcome, BitVec.ofNat 64 (leNat data))) })
      | _ => s

/-- The leaf whose window a packet from another leaf may use: the lowest leaf with that window enabled for it (R315). -/
def State.windowFor (s : State) (win src srcLeaf : Nat) : Option (Nat × Window) :=
  s.parts.findSome? (fun p => match tblFind p.2.windows win with
    | some w => if w.len ≠ 0 && w.users.contains (BitVec.ofNat 32 (2 ^ 31 + src * 2 ^ 16 + srcLeaf)) then some (p.1, w) else none
    | none => none)

/-- The leaf of this package that a packet which is dropped counts for (R347), and whose fabric budget the answer to it counts
against (R62): that of the operation it answers, or of the window, interface or session it is addressed to (DESIGN CHOICE, log
entry 101). -/
def State.packetLeaf (s : State) (p : FabPacket) : Option Nat :=
  match p.body with
  | .reply _ _ _ => (s.group p.gid).map (·.leaf)
  | .msg vi _ _ => s.leafOf vi
  | .event vi _ => s.leafOf vi
  | .push sid _ _ _ _ => (tblFind s.sessions sid).map (·.leaf)
  | .write win _ _ _ _ => (s.windowFor win p.src p.srcLeaf).map (·.1)
  | .read win _ _ _ _ => (s.windowFor win p.src p.srcLeaf).map (·.1)
  | .atom win _ _ _ => (s.windowFor win p.src p.srcLeaf).map (·.1)
  | .marker => none
  | .carry leaf _ _ _ => some leaf

/-- The packet that answers a request. -/
def State.replyPacket (s : State) (p : FabPacket) (outcome at_ : Nat) (data : List Byte) : FabPacket :=
  { src := s.dpkg, srcLeaf := p.srcLeaf, dst := p.src, gid := p.gid, op := p.op, body := .reply outcome at_ data }

/-- The answer to a request: to an operation of this package at once, otherwise as a packet; none to a package without a route
(R314). -/
def State.replyTo (s : State) (p : FabPacket) (outcome at_ : Nat) (data : List Byte) : State :=
  if p.src = s.dpkg then s.answerFabric p.gid p.op outcome at_ data
  else if !s.routed p.src then s
  else match s.packetLeaf p with
    | some leaf => s.putOut leaf (.packet (s.replyPacket p outcome at_ data))
    | none => s.emit (.packet (s.replyPacket p outcome at_ data))

/-- Offset within its operation that an answer to a request names. -/
def answerOffset (b : FabBody) : Nat := match b with
  | .write _ off _ base _ => off - base
  | .read _ off _ base _ => off - base
  | _ => 0

/-! ### Copies over the fabric -/

/-- A chunk of `fwr` sent, once all of its bytes have been read: they count as written from then on (R317, R352). -/
def State.sendChunk (s : State) (gid : Nat) (g : Group) (op d win off : Nat) (c : CopyOp) (b : Nat) : State :=
  let (lo, hi) := farChunk off c.total b
  let is := (List.range (hi - lo)).map (fun i => lo + i)
  if !is.all (fun i => (tblFind c.data i).isSome) then s
  else
    let body := FabBody.write win (off + lo) (is.map (fun i => tblGet c.data 0 i)) off c.total
    let s := s.modOp gid op (fun o => { o with kind := o.kind.setCopy (fun c =>
      { c with asked := c.asked ++ is, done := c.done ++ is, data := c.data.filter (fun p => !is.contains p.1) }) })
    s.sendPacket g.leaf (s.packetFor g gid op d body)

/-- One byte of `fwr`: read, unless it has been or the memory budget stalls it, and sent with the last of its chunk. -/
def State.fwrByte (s : State) (gid : Nat) (g : Group) (op d win off : Nat) (c : CopyOp) (b : Nat) : State :=
  if (tblFind c.data b).isSome then s
  else match s.reach gid g op c.mode (c.srcAt b) { r := true } with
  | (s, .held) => s
  | (s, .fault cause v) => s.endCopy gid op cause v
  | (s, .place src) =>
    if s.memoryStalls g.leaf src then s
    else
      let (s, x) := s.copyRead gid g src
      let c := { c with data := tblSet c.data b x }
      let s := s.modOp gid op (fun o => { o with kind := o.kind.setCopy (fun _ => c) })
      s.sendChunk gid g op d win off c b

/-- One byte of `frd`: asked for with its chunk, or, once it has come, written (R317, R285). -/
def State.frdByte (s : State) (gid : Nat) (g : Group) (op d win off : Nat) (c : CopyOp) (b : Nat) : State :=
  match tblFind c.data b with
  | some x =>
    match s.reach gid g op c.mode (c.dstAt b) { w := true } with
    | (s, .held) => s
    | (s, .fault cause v) => s.endCopy gid op cause v
    | (s, .place dst) =>
      let (s, w) := s.engineWrite gid g dst x
      s.modOp gid op (fun o => { o with kind := o.kind.setCopy (fun c => c.moved b w) })
  | none =>
    if c.asked.contains b then s
    else
      let (lo, hi) := farChunk off c.total b
      let is := (List.range (hi - lo)).map (fun i => lo + i)
      let s := s.modOp gid op (fun o => { o with kind := o.kind.setCopy (fun c => { c with asked := c.asked ++ is }) })
      s.sendPacket g.leaf (s.packetFor g gid op d (.read win (off + lo) (hi - lo) off c.total))

/-- One byte of a fabric copy moved (R317): an unrouted package ends it with NOROUTE. -/
def State.farByte (s : State) (gid : Nat) (g : Group) (op : Nat) (out : Bool) (d win off : Nat) (c : CopyOp) (b : Nat) : State :=
  if !s.routed d then
    s.modOp gid op (fun o => { o with kind := o.kind.setCopy (fun c => { c with ended := true, outcome := outNoRoute }) })
  else if out then s.fwrByte gid g op d win off c b
  else s.frdByte gid g op d win off c b

/-- Every byte of a fabric copy has been answered and written, or a fault has ended it and no packet is out. -/
def CopyOp.farOver (c : CopyOp) (out : Bool) : Bool :=
  !c.suspended && decide (c.asked.length = c.acked) &&
    (c.ended || decide ((if out then c.acked else c.done.length) = c.total))

/-! ### At the target -/

/-- The interface whose stage 1 serves remote accesses of a leaf: its lowest. -/
def State.windowVi (s : State) (leaf : Nat) : Nat := (s.part leaf).vis.headD 0

/-- A remote access checked against its window: leaf and guest address of its first byte (R315, R317). -/
def State.windowAt (s : State) (p : FabPacket) (win off base len : Nat) (r w : Bool) : Option (Nat × Nat) :=
  match s.windowFor win p.src p.srcLeaf with
  | none => none
  | some (leaf, x) => if (r && !x.read) || (w && !x.write) || x.len < base + len then none else some (leaf, x.base + off)

/-- The packet leaves the router's queue with its answer. -/
def State.doneWith (s : State) (pid : Nat) (p : FabPacket) (outcome at_ : Nat) (data : List Byte) : State :=
  { s with inbox := tblErase s.inbox pid }.replyTo p outcome at_ data

/-- The number under which a packet waits for a page. -/
def packetKey (pid : Nat) : Nat := 3 * pid + 1

/-- A remote access carried out, once all of its bytes are reached: `f` performs it and gives the data of the answer. -/
def State.remoteAt (s : State) (pid : Nat) (p : FabPacket) (place : Option (Nat × Nat)) (len : Nat) (n : Need) (at_ : Nat)
    (f : State → Nat → List Loc → State × List Byte) : State :=
  match place with
  | none => s.doneWith pid p outDenied at_ []
  | some (leaf, a) =>
    match s.reachAll (frontX leaf (s.windowVi leaf)) 0 (packetKey pid) .supervisor n ((List.range len).map (fun i => a + i)) with
    | (s, .ok ls) =>
      let (s, d) := f s leaf ls
      s.doneWith pid p outOk at_ d
    | (s, .error .held) => s
    | (s, .error _) => s.doneWith pid p outFault at_ []

/-- A remote 8-byte add or exchange performed in one step at the pod's OB, or at M across pods (R317, R283). -/
def State.remoteAtom (s : State) (level : Nat) (exch : Bool) (val : DWord) (leaf : Nat) (ls : List Loc) : State × List Byte :=
  let s := match ls with
    | l :: _ => s.meet 0 leaf l
    | [] => s
  if ls.any s.poison then (s.countErr leaf 2, List.replicate 8 0)
  else
    let old := ls.map (fun l => (s.readFrom hub l level [0, 1, 2, 3, 4, 5]).1)
    let new := if exch then val.toNat else (leNat old + val.toNat) % 2 ^ 64
    ((s.hubWrite 0 level (ls.zip (leBytes 8 new))).1, old)

/-- REMOTE_ACCESS_APPLY (R315, R317): a request that has reached this package is translated and performed; what a migration brings is
taken in (R358). -/
def State.remoteApply (s : State) (pid : Nat) : State :=
  match tblFind s.inbox pid with
  | none => s
  | some p =>
    let level := s.farLevel p.src
    match p.body with
    | .write win off bytes base len =>
      s.remoteAt pid p (s.windowAt p win off base len false true) bytes.length { w := true } (answerOffset p.body)
        (fun s _ ls => ((s.hubWrite 0 level (ls.zip bytes)).1, []))
    | .read win off n base len =>
      s.remoteAt pid p (s.windowAt p win off base len true false) n { r := true } (answerOffset p.body)
        (fun s leaf ls => s.hubRead1 leaf 0 ls)
    | .atom win off exch val =>
      s.remoteAt pid p (s.windowAt p win off off 8 true true) 8 { r := true, w := true } 0
        (fun s leaf ls => s.remoteAtom level exch val leaf ls)
    | .carry leaf part at_ data => { s with inbox := tblErase s.inbox pid }.carryArrive p leaf part at_ data
    | _ => s

/-! ### Messages and events -/

/-- Slots of an interface's payload buffer (R318). -/
def VI.slotCount (v : VI) : Nat := let n := v.mctl.toNat % 16; if 1 ≤ n && n ≤ 10 then 2 ^ n else 0

/-- Armed launches of an interface, the earliest first (R47). -/
def State.armedOf (s : State) (vi : Nat) : List (Nat × Launch) :=
  s.launches.filter (fun p => p.2.vi == vi && p.2.phase = .armed)

/-- The armed launch that a message starts: the earliest armed with its tag (R47). -/
def State.matchArmed (s : State) (vi : Nat) (mtag : BitVec 32) : Option Nat :=
  ((s.armedOf vi).filter (fun p => p.2.mtag = mtag)).foldl (fun (best : Option (Nat × Nat)) p =>
    match best with
    | none => some (p.1, p.2.armedAt)
    | some (_, t) => if p.2.armedAt < t then some (p.1, p.2.armedAt) else best) none |>.map (·.1)

/-- The queue core that serves an interface does not run (R53, R55). -/
def State.coreDown (s : State) (vi : Nat) : Bool := (tblGet s.mgmt.queueCores {} ((vi - 1) % 6)).down

/-- A message placed in a slot of an interface starts the launch that it matches, with the slot's address as its
payload; one that matches nothing is dropped and counted (R47, R318). -/
def State.deliver (s : State) (vi slot addr : Nat) (mtag : BitVec 32) : State :=
  match s.matchArmed vi mtag with
  | some lid =>
    let s := s.modVI vi (fun v => { v with slots := v.slots ++ [slot] })
    s.modLaunch lid (fun l => { l with phase := .running, payload := some (BitVec.ofNat 64 addr), payloadSlot := some slot })
  | none => s.modVI vi (fun v =>
      { v with msgdrop := if v.msgdrop.toNat + 1 < 2 ^ 32 then v.msgdrop + 1 else v.msgdrop })

/-- FABRIC_MESSAGE_ARRIVAL (R318): a message takes the lowest free slot of the interface's payload buffer, is written
there, and is then matched. -/
def State.messageArrive (s : State) (pid : Nat) : State :=
  match tblFind s.inbox pid with
  | none => s
  | some p => match p.body with
    | .msg vi mtag bytes =>
      let v := s.vi vi
      match s.leafOf vi with
      | none => s.doneWith pid p outFault 0 []
      | some leaf =>
        if s.coreDown vi then s
        else match (List.range v.slotCount).find? (fun i => !v.slots.contains i) with
        | none => s.doneWith pid p outNoSlot 0 []
        | some slot =>
          let addr := (v.mbase.toNat / 256 + slot) * 256
          let data := leBytes 4 mtag.toNat ++ leBytes 2 p.src ++ leBytes 2 bytes.length ++ leBytes 8 0 ++ bytes
          match s.reachAll (frontX leaf vi) 0 (packetKey pid) .supervisor { w := true }
              ((List.range data.length).map (fun i => addr + i)) with
          | (s, .ok ls) =>
            let s := (s.hubWrite 0 4 (ls.zip data)).1
            (s.deliver vi slot addr mtag).doneWith pid p outOk 0 []
          | (s, .error .held) => s
          | (s, .error _) => s.doneWith pid p outFault 0 []
    | _ => s

/-- Event bit `n` of an interface set (R40). -/
def VI.setEvent (v : VI) (n : BitVec 8) : VI := { v with ev := v.ev ||| BitVec.ofNat 256 (2 ^ n.toNat) }

/-- FABRIC_EVENT_ARRIVAL (R318): one vector operation of the target interface. -/
def State.eventArrive (s : State) (pid : Nat) : State :=
  match tblFind s.inbox pid with
  | none => s
  | some p => match p.body with
    | .event vi num =>
      match s.leafOf vi with
      | none => s.doneWith pid p outFault 0 []
      | some _ => (s.modVI vi (fun v => v.setEvent num)).doneWith pid p outOk 0 []
    | _ => s

/-! ### Retirement -/

/-- An operation of the fabric class. -/
def OpKind.isFabric (k : OpKind) : Bool := match k with
  | .remoteCopy _ _ _ _ _ => true
  | .fabric _ _ _ _ _ _ => true
  | _ => false

/-- Bytes of earlier `fwr` operations of a group that have not performed at their packages (R318). -/
def Group.farPending (g : Group) (op : Nat) : Bool :=
  g.ops.any (fun o => decide (o.id < op) && !o.ended && (match o.kind with
    | .remoteCopy true _ _ _ c => !(decide (c.asked.length = c.acked) && (c.ended || decide (c.acked = c.total)))
    | _ => false))

/-- The operation has come to an outcome. -/
def State.gotOutcome (s : State) (gid op outcome : Nat) : State :=
  s.modOp gid op (fun o => match o.kind with
    | .fabric f t m ws _ _ => { o with kind := .fabric f t m ws true (some (outcome, 0)) }
    | _ => o)

/-- A packet of the operation leaves, unless its package has no route (R314). -/
def State.sendFor (s : State) (gid : Nat) (g : Group) (op dst : Nat) (b : FabBody) : State :=
  if !s.routed dst then s.gotOutcome gid op outNoRoute
  else
    let s := s.modOp gid op (fun o => match o.kind with
      | .fabric f t m ws _ r => { o with kind := .fabric f t m ws true r }
      | _ => o)
    s.sendPacket g.leaf (s.packetFor g gid op dst b)

/-- An interface that the leaf names as a message target (R315, R391). -/
def State.mayMessage (s : State) (leaf : Nat) (w : DWord) : Bool :=
  (s.part leaf).msgTgt.contains (BitVec.ofNat 32 (2 ^ 31 + farPkg w * 2 ^ 16 + farVi w))

/-- Bytes of a message's payload, read on the group's path; the second part tells why not. -/
def State.payloadBytes (s : State) (gid : Nat) (g : Group) (op : Nat) (m : Mode) (a : DWord) :
    Nat → State × Except Reach (List Byte)
  | 0 => (s, .ok [])
  | n + 1 =>
    match s.reach gid g op m a { r := true } with
    | (s, .place l) =>
      let (s, b) := s.copyRead gid g l
      match s.payloadBytes gid g op m (a + 1) n with
      | (s, .ok bs) => (s, .ok (b :: bs))
      | e => e
    | (s, e) => (s, .error e)

/-- What a fabric operation whose packet has not been sent does: it sends it, when what it must follow has performed
(R317, R318). -/
def State.fabSend (s : State) (gid : Nat) (g : Group) (op : Nat) (f : FabAct) (t : DWord) (m : Mode) (ws : List Nat) : State :=
  let d := farPkg t
  let ready := ws.all (fun w => s.performed w (s.farLevel d)) && !g.farPending op
  match f with
  | .frdK _ => s.sendFor gid g op d (.read (farWin t) (farOff t) 8 (farOff t) 8)
  | .fatom _ exch val => s.sendFor gid g op d (.atom (farWin t) (farOff t) exch val)
  | .fsend mtag len a =>
    if !s.mayMessage g.leaf t then s.gotOutcome gid op outDenied
    else if !ready || s.asleep g.core then s
    else if s.pageFails.contains (gid, op) then
      { s with pageFails := s.pageFails.erase (gid, op) }.gotOutcome gid op outFault
    else match s.payloadBytes gid g op m a len with
    | (s, .ok bs) => s.sendFor gid g op d (.msg (farVi t) mtag bs)
    | (s, .error .held) => s
    | (s, .error _) => s.gotOutcome gid op outFault
  | .fevent num =>
    if !s.mayMessage g.leaf t then s.gotOutcome gid op outDenied
    else if !ready then s
    else s.sendFor gid g op d (.event (farVi t) num)
  | _ => s

/-! ### Arrival of packets -/

/-- REMOTE_ACCESS_APPLY (R317). -/
def execRemoteAccessApply (pid : Nat) (s : State) : Out := .next (s.remoteApply pid)

/-- FABRIC_MESSAGE_ARRIVAL (R318). -/
def execFabricMessageArrival (pid : Nat) (s : State) : Out := .next (s.messageArrive pid)

/-- FABRIC_EVENT_ARRIVAL (R318). -/
def execFabricEventArrival (pid : Nat) (s : State) : Out := .next (s.eventArrive pid)

end Sys2Proof.Machine
end

