-- ==== Sys2Proof/Machine/Reduce.lean ====
section
/-!
DEFINITION. The binary tree of R309, with leaves that may be empty, used by ordered reductions (R309, R311) and by the
Blend engine's sums (R322).
-/

namespace Sys2Proof.Machine
open Sys2Proof

/-- One level of the tree (R309): neighbours are combined, an odd one out is carried; `empty` leaves give the other. -/
def treeLevel {α : Type} (op : α → α → α) : List (Option α) → List (Option α)
  | some x :: some y :: r => some (op x y) :: treeLevel op r
  | some x :: none :: r => some x :: treeLevel op r
  | none :: y :: r => y :: treeLevel op r
  | [x] => [x]
  | [] => []

/-- Levels until one value is left; `fuel` levels at most. -/
def treeGo {α : Type} (op : α → α → α) : Nat → List (Option α) → Option α
  | _, [] => none
  | _, [x] => x
  | 0, x :: _ => x
  | n + 1, l => treeGo op n (treeLevel op l)

/-- `tree` of R309. -/
def tree {α : Type} (op : α → α → α) (l : List (Option α)) : Option α := treeGo op l.length l

end Sys2Proof.Machine
end

