-- ==== Sys2Proof/Machine/Blend.lean ====
section
/-!
DEFINITION. The Blend engine (R320 to R323), long opcodes 0x77 to 0x7B: merge sessions, the streams of their ranks, the
records of the merge and its end; and the retirement of fabric operations (R317 to R319) and the arrival of packets (R314),
which serve it too.
-/

namespace Sys2Proof.Machine
open Sys2Proof

/-! ### Streams -/

/-- A dense window's values, once its body is complete (R320). -/
def denseKeys (w : Nat) : List DWord → Nat → Tbl (BitVec 32) → Tbl (BitVec 32)
  | [], _, t => t
  | x :: xs, i, t =>
    denseKeys w xs (i + 1) (tblSet (tblSet t (1024 * w + 2 * i) (BitVec.ofNat 32 (lo32 x)))
      (1024 * w + 2 * i + 1) (BitVec.ofNat 32 (hi32 x)))

/-- A key exceeds every key of the rank's stream so far (R320). -/
def Rank.after (r : Rank) (k : Nat) : Bool := match r.last with
  | some l => decide (l < k)
  | none => true

/-- The next item of a rank's stream taken in (R320); false when the stream breaks the rule: it then ends before the
item, or before the header of a body that it cuts short. -/
def Rank.feed (r : Rank) (x : DWord) : Rank × Bool :=
  let k := lo32 x
  if r.cut then (r, true)
  else match r.items with
  | h :: body =>
    if body.length < 511 then ({ r with items := r.items ++ [x] }, true)
    else
      let w := lo32 h - 2 ^ 31
      ({ r with items := [], keys := denseKeys w (body ++ [x]) 0 r.keys, last := some (1024 * w + 1023) }, true)
  | [] =>
    if k < 2 ^ 31 then
      if r.after k then ({ r with keys := tblSet r.keys k (BitVec.ofNat 32 (hi32 x)), last := some k }, true)
      else ({ r with cut := true }, false)
    else if hi32 x = 0 && decide (k - 2 ^ 31 ≤ 0x1FFFFF) && r.after (1024 * (k - 2 ^ 31)) then
      ({ r with items := [x] }, true)
    else ({ r with cut := true }, false)

/-- The end of a segment: a dense window whose body is not complete breaks R320. -/
def Rank.segmentEnd (r : Rank) : Rank × Bool :=
  if r.cut || r.items.isEmpty then ({ r with busy := none }, true) else ({ r with items := [], cut := true, busy := none }, false)

/-- The rank reads a segment of another push (R321): packets and pushes wait, unless its stream has ended. -/
def Rank.locked (r : Rank) (key : Option (Nat × Nat × Nat)) : Bool := !r.cut && r.busy.isSome && decide (r.busy ≠ key)

/-! ### Sessions -/

/-- A rank of a session. -/
def Session.rank (x : Session) (r : Nat) : Rank := tblGet x.ranks {} r
/-- The session with a rank replaced. -/
def Session.setRank (x : Session) (n : Nat) (r : Rank) : Session := { x with ranks := tblSet x.ranks n r }
/-- The session has been ended by its TIMEOUT, by `bfree`, or by a stream that broke R320: every open rank ends at its last item read
(R323). -/
def Session.stopped (x : Session) : Bool := x.timedOut || x.aborted || x.broken
/-- A rank's stream has come to its end. -/
def Session.rankOver (x : Session) (n : Nat) : Bool := let r := x.rank n; x.stopped || r.closed || r.cut
/-- Every rank's stream has come to its end. -/
def Session.allOver (x : Session) : Bool := (List.range x.nrank).all x.rankOver
/-- The session takes items. -/
def Session.isOpen (x : Session) : Bool := !x.ended && !x.ending && !x.stopped

/-- The status word (R323). -/
def Session.status (x : Session) : DWord :=
  let closed := ((List.range x.nrank).filter (fun n => (x.rank n).closed)).length
  BitVec.ofNat 64 ((if x.ended then 2 else 1) * 2 ^ 62 + x.badRank * 2 ^ 50 + x.fpflags.toNat * 2 ^ 45 +
    x.badStream.toNat * 2 ^ 44 + x.aborted.toNat * 2 ^ 43 + x.timedOut.toNat * 2 ^ 42 + x.incomplete.toNat * 2 ^ 41 +
    x.ovf.toNat * 2 ^ 40 + closed * 2 ^ 24 + x.items)

/-- The state with a session changed. -/
def State.modSession (s : State) (sid : Nat) (f : Session → Session) : State :=
  { s with sessions := tblMod s.sessions sid f }

/-- A rank's stream has been cut short: INCOMPLETE, and COLLINC in the opening launch (R323). -/
def State.incomplete (s : State) (sid : Nat) (x : Session) : State :=
  (s.modSession sid (fun x => { x with incomplete := true })).addFlags x.launch 64

/-- A rank with what an item or a segment's end made of it; a breach is recorded (R323). -/
def State.putRank (s : State) (sid : Nat) (x : Session) (n : Nat) (p : Rank × Bool) : State :=
  let s := s.modSession sid (fun x => x.setRank n p.1)
  if p.2 then s
  else (s.modSession sid (fun x =>
    { x with badStream := true, badRank := if x.badStream then x.badRank else n })).incomplete sid x

/-- A leaf other than the opener's may reach a session only where the opener's leaf lets it use a window (R315). -/
def State.mayReach (s : State) (x : Session) (src leaf : Nat) : Bool :=
  (src == s.dpkg && leaf == x.leaf) || (s.part x.leaf).windows.any (fun p =>
    p.2.len ≠ 0 && p.2.users.contains (BitVec.ofNat 32 (2 ^ 31 + src * 2 ^ 16 + leaf)))

/-- Fields of a session handle and of the word that names a rank (R321). -/
def handlePkg (h : DWord) : Nat := h.toNat / 2 ^ 18 % 2 ^ 14
def handleSid (h : DWord) : Nat := h.toNat % 256
def handleShape (h : DWord) : Bool := h.toNat / 2 ^ 32 == 0 && h.toNat / 2 ^ 8 % 1024 == 0
def rankItems (w : DWord) : Nat := w.toNat / 2 ^ 24 % 2 ^ 24
def rankNum (w : DWord) : Nat := w.toNat % 4096

/-- What a push or a close comes to before it takes effect (R321). -/
def State.pushOutcome (s : State) (sid rank src leaf : Nat) : Nat :=
  match tblFind s.sessions sid with
  | none => outNoSession
  | some x =>
    if !x.isOpen then outNoSession
    else if x.nrank ≤ rank || (x.rank rank).closed then outRank
    else if !s.mayReach x src leaf then outDenied
    else outOk

/-! ### Instructions -/

/-- A GLOBAL address, or else ACCESS; a multiple of `n`, or else ALIGN. -/
def globalAt (a : DWord) (n : Nat) : (Bool × DWord) × (Bool × DWord) :=
  ((match aperture a with
    | some (.global _) => false
    | _ => true, a), (a.toNat % n != 0, a))

/-- Fields of the second word of `bopen` (R321). -/
def openCap (w : DWord) : Nat := w.toNat / 2 ^ 32 % 2 ^ 24
def openFmt (w : DWord) : Nat := w.toNat / 2 ^ 28 % 16
def openThresh (w : DWord) : Nat := w.toNat / 2 ^ 17 % 2 ^ 11
def openRanks (w : DWord) : Nat := w.toNat % 2 ^ 13

/-- The checks of `bopen` (R321). -/
def bopenCheck (c : Ctx) (g : Group) : EngineCheck :=
  let w := c.kA g 1
  let out := globalAt (c.kA g 0) 8
  let done := globalAt (c.kA g 2) 16
  { bad := w.toNat / 2 ^ 56 != 0 || w.toNat / 2 ^ 13 % 16 != 0 || decide (openCap w < 2) ||
      (openFmt w != 1 && openFmt w != 5) || openThresh w == 0 || decide (1024 < openThresh w) ||
      openRanks w == 0 || decide (4096 < openRanks w) || (c.kA g 3).toNat / 2 ^ 48 != 0,
    access := [out.1, done.1], align := [out.2, done.2] }

/-- The rank word has a reserved bit set. -/
def rankBad (w : DWord) : Bool := w.toNat / 2 ^ 48 != 0 || w.toNat / 2 ^ 12 % 2 ^ 12 != 0

/-- The checks of `bpush` (R321). -/
def bpushCheck (c : Ctx) (g : Group) : EngineCheck :=
  let a := globalAt (c.kA g 1) 8
  { bad := rankBad (c.kA g 2) || rankItems (c.kA g 2) == 0, access := [a.1], align := [a.2] }

/-- `bopen` (R321). -/
def execBopen (d a : KReg) (x : GuardF) (s : State) : Out :=
  serve (.bopen d a x) s (fabricEntry .tx 0x77 bopenCheck
    (fun c g => .bopen c.o.d.num ((List.range 4).map (fun i => c.kA g i))) (fun _ _ => 0))

/-- `bpush` (R321). -/
def execBpush (a : KReg) (x : GuardF) (s : State) : Out :=
  serve (.bpush a x) s (fabricEntry .tx 0x78 bpushCheck
    (fun c g => .bpush ((List.range 3).map (fun i => c.kA g i)) 0 0 0 0) (fun c g => c.kA g 0))

/-- `bclose` (R321). -/
def execBclose (a : KReg) (x : GuardF) (s : State) : Out :=
  serve (.bclose a x) s (fabricEntry .tx 0x79 (fun c g => { bad := rankBad (c.kA g 2) })
    (fun c g => .bclose ((List.range 3).map (fun i => c.kA g i))) (fun c g => c.kA g 0))

/-- `bstat` (R323). -/
def execBstat (d a : KReg) (x : GuardF) (s : State) : Out :=
  serve (.bstat d a x) s (fabricEntry .tx 0x7A (fun _ _ => {}) (fun c g => .bstat c.o.d.num (c.kA g 0)) (fun c g => c.kA g 0))

/-- `bfree` (R323). -/
def execBfree (a : KReg) (x : GuardF) (s : State) : Out :=
  serve (.bfree a x) s (fabricEntry .tx 0x7B (fun _ _ => {}) (fun c g => .bfree (c.kA g 0)) (fun c g => c.kA g 0))

/-! ### Carrying out the operations -/

/-- A fabric operation that has come to its outcome retires: its K register is written, its outcome recorded (R317 to
R323, R242). A lost or refused read or atomic gives 0; `bstat` without effect writes nothing. -/
def State.fabEnd (s : State) (gid : Nat) (o : Op) (f : FabAct) (outcome : Nat) (v : DWord) : State :=
  let put (kd : Nat) (x : DWord) : State := s.modGroup gid (fun g => g.kPut kd x)
  let s := match f with
    | .frdK kd => put kd (if outcome = outOk then v else 0)
    | .fatom kd _ _ => put kd (if outcome = outOk then v else 0)
    | .bopen kd _ => put kd v
    | .bstat kd _ => if outcome = outOk then put kd v else s
    | .bpush _ _ _ _ _ => match s.group gid with
      | some g => if outcome = outDropped then s.addFlags g.launch 64 else s
      | none => s
    | _ => s
  (s.fabOutcome gid o.opc outcome).endOp gid o.id

/-- The session that `bopen` opens (R321). -/
def openSession (s : State) (g : Group) (w : List DWord) : Session where
  leaf := g.leaf
  launch := g.launch
  vi := g.vi
  out := w.getD 0 0
  ocap := openCap (w.getD 1 0)
  f32 := openFmt (w.getD 1 0) == 5
  dthresh := openThresh (w.getD 1 0)
  nrank := openRanks (w.getD 1 0)
  done := w.getD 2 0
  timeout := (w.getD 3 0).toNat
  opened := s.time
  ranks := []
  nextKey := 0
  items := 0
  dropped := 0
  ended := false
  aborted := false
  timedOut := false
  incomplete := false
  ovf := false
  badStream := false
  badRank := 0
  fpflags := 0
  writes := []
  ending := false

/-- The session of this package that a handle names for a group, or the outcome (R321, R323). -/
def State.ownSession (s : State) (g : Group) (h : DWord) : Except Nat (Nat × Session) :=
  if !handleShape h then .error outNoSession
  else if handlePkg h ≠ s.dpkg then .error outDenied
  else match tblFind s.sessions (handleSid h) with
    | none => .error outNoSession
    | some x => if x.leaf = g.leaf then .ok (handleSid h, x) else .error outDenied

/-- A rank closed (R321), once no segment of it is being read. -/
def State.closeRank (s : State) (sid rank : Nat) : State :=
  match tblFind s.sessions sid with
  | none => s
  | some x =>
    let s := s.putRank sid x rank (x.rank rank).segmentEnd
    s.modSession sid (fun x => x.setRank rank { x.rank rank with closed := true })

/-- Items of a rank of another package, or its close, taken in (R321). -/
def State.pushTake (s : State) (p : FabPacket) (sid rank : Nat) (items : List DWord) (last close : Bool) : State :=
  let oc := s.pushOutcome sid rank p.src p.srcLeaf
  if oc ≠ outOk then s.replyTo p oc 0 []
  else
    let feed (s : State) (v : DWord) : State := match tblFind s.sessions sid with
      | some x =>
        let y := (x.rank rank).feed v
        s.putRank sid x rank ({ y.1 with busy := some (p.src, p.gid, p.op) }, y.2)
      | none => s
    let s := items.foldl feed s
    let s := if last then (match tblFind s.sessions sid with
        | some x => s.putRank sid x rank (x.rank rank).segmentEnd
        | none => s) else s
    (if close then s.closeRank sid rank else s).replyTo p outOk 0 []

/-- The first packet that waits at a rank and may be taken in now: its segment is the one being read, or none is; any, where the
session takes no items. -/
def Session.waiting (x : Session) (rank : Nat) : Option FabPacket :=
  (x.rank rank).queue.find? (fun p => !x.isOpen || !(x.rank rank).locked (some (p.src, p.gid, p.op)))

/-- Up to `n` packets that wait at a rank taken in (R321). -/
def State.takeQueue (s : State) (sid rank : Nat) : Nat → State
  | 0 => s
  | n + 1 => match tblFind s.sessions sid with
    | none => s
    | some x => match x.waiting rank with
      | none => s
      | some p =>
        let s := s.modSession sid (fun x => x.setRank rank { x.rank rank with queue := (x.rank rank).queue.erase p })
        (match p.body with
          | .push _ _ items last close => s.pushTake p sid rank items last close
          | _ => s).takeQueue sid rank n

/-- A rank's segment has ended, or its session: the packets that waited for that are taken in. -/
def State.unqueue (s : State) (sid rank : Nat) : State :=
  match tblFind s.sessions sid with
  | none => s
  | some x => s.takeQueue sid rank (x.rank rank).queue.length

/-- Every rank of a session that has been stopped answers what waits at it. -/
def State.unqueueAll (s : State) (sid : Nat) : State :=
  match tblFind s.sessions sid with
  | none => s
  | some x => x.ranks.foldl (fun s r => s.unqueue sid r.1) s

/-- A packet of a push or a close arrives (R321): it waits while the rank reads another segment. -/
def State.pushArrive (s : State) (p : FabPacket) (sid rank : Nat) (items : List DWord) (last close : Bool) : State :=
  match tblFind s.sessions sid with
  | some x =>
    if x.isOpen && decide (rank < x.nrank) && (x.rank rank).locked (if close then none else some (p.src, p.gid, p.op)) then
      s.modSession sid (fun x => x.setRank rank { x.rank rank with queue := (x.rank rank).queue ++ [p] })
    else (s.pushTake p sid rank items last close).unqueue sid rank
  | none => s.pushTake p sid rank items last close

/-- `bclose`, at a session of this package or by a packet to another one. -/
def State.doClose (s : State) (gid : Nat) (g : Group) (o : Op) (f : FabAct) (w : List DWord) : State :=
  let h := w.getD 0 0
  let rank := rankNum (w.getD 2 0)
  let sid := handleSid h
  if !handleShape h then s.fabEnd gid o f outNoSession 0
  else if handlePkg h ≠ s.dpkg then s.sendFor gid g o.id (handlePkg h) (.push sid rank [] false true)
  else
    let oc := s.pushOutcome sid rank s.dpkg g.leaf
    if oc ≠ outOk then s.fabEnd gid o f oc 0
    else match tblFind s.sessions sid with
    | none => s
    | some x => if (x.rank rank).locked none then s else (s.closeRank sid rank).fabEnd gid o f outOk 0

/-- A Blend operation that has not been sent carried out, when it is the oldest of its group in TX (R242, R321, R323). -/
def State.blendDo (s : State) (gid : Nat) (g : Group) (o : Op) (f : FabAct) : State :=
  match f with
  | .bopen _ w =>
    match (List.range 256).find? (fun n => (tblFind s.sessions n).isNone) with
    | none => s.fabEnd gid o f outBusy 0xFFFFFFFF
    | some n =>
      { s with sessions := tblSet s.sessions n (openSession s g w) }.fabEnd gid o f outOk
        (BitVec.ofNat 64 (s.dpkg * 2 ^ 18 + n))
  | .bclose w => s.doClose gid g o f w
  | .bstat _ h =>
    match s.ownSession g h with
    | .ok (_, x) => s.fabEnd gid o f outOk x.status
    | .error oc => s.fabEnd gid o f oc 0
  | .bfree h =>
    match s.ownSession g h with
    | .ok (sid, x) =>
      let s := if x.ended then { s with sessions := tblErase s.sessions sid }
        else if x.isOpen && !x.allOver then (s.modSession sid (fun x => { x with aborted := true })).unqueueAll sid
        else s
      s.fabEnd gid o f outOk 0
    | .error oc => s.fabEnd gid o f oc 0
  | _ => s

/-- A Blend operation. -/
def FabAct.isBlend (f : FabAct) : Bool := match f with
  | .bopen _ _ => true
  | .bclose _ => true
  | .bstat _ _ => true
  | .bfree _ => true
  | _ => false

/-- FABRIC_OP_RETIRE (R317 to R323): a fabric operation does what it has to do, and retires when it has been answered, its
bytes have performed, and no older operation of its class is outstanding. -/
def State.fabricRetire (s : State) (gid op : Nat) : State :=
  match s.awake gid with
  | none => s
  | some g => match g.op op with
    | none => s
    | some o =>
      if o.ended || !g.resident then s
      else match o.kind with
      | .remoteCopy out _ _ _ c =>
        if c.farOver out && s.copyPerformed c (retireLevel c.scope) && !s.creditAsleep c then
          let s := if !out && c.outcome = 0 then (s.heal (s.copyPlaces g c) c.writes).settleLines else s
          (s.fabOutcome gid o.opc c.outcome).finishCopy gid o c
        else s
      | .fabric (.fstat kd) _ _ _ _ _ =>
        if g.ops.any (fun p => decide (p.id < op) && p.kind.isFabric) || !g.oldest o then s
        else (s.modGroup gid (fun g => { g.kPut kd g.fabStatus with fabStatus := 0 })).endOp gid op
      | .fabric f t m ws sent got =>
        match got with
        | some (outcome, v) => if g.oldest o then s.fabEnd gid o f outcome v else s
        | none =>
          if sent then s
          else if f.isBlend then (if g.oldest o then s.blendDo gid g o f else s)
          else s.fabSend gid g op f t m ws
      | _ => s

/-! ### Pushing -/

/-- A push's state in its operation. -/
def State.setPush (s : State) (gid op : Nat) (w : List DWord) (pos sent acked oc : Nat) (got : Option Nat) : State :=
  s.modOp gid op (fun o => match o.kind with
    | .fabric _ t m ws x _ =>
      { o with kind := .fabric (.bpush w pos sent acked oc) t m ws x (got.map (fun n => (n, 0))) }
    | _ => o)

/-- The next item of a segment read as one 8-byte read (R321). -/
def State.pushItem (s : State) (gid : Nat) (g : Group) (op : Nat) (m : Mode) (w : List DWord) (pos : Nat) :
    State × Except Reach DWord :=
  let a := (w.getD 1 0).toNat + 8 * pos
  match s.reachAll ⟨g.leaf, g.vi, none, m⟩ gid op m { r := true } ((List.range 8).map (fun i => a + i)) with
  | (s, .ok ls) =>
    let (s, bs) := s.hubRead1 g.leaf g.launch ls
    (s, .ok (BitVec.ofNat 64 (leNat bs)))
  | (s, .error e) => (s, .error e)

/-- One item of a push into a session of this package. -/
def State.pushHere (s : State) (gid : Nat) (g : Group) (op : Nat) (m : Mode) (w : List DWord) (pos : Nat) : State :=
  let sid := handleSid (w.getD 0 0)
  let n := rankNum (w.getD 2 0)
  let key := (s.dpkg, gid, op)
  let stop (s : State) (oc : Nat) : State :=
    ((s.modSession sid (fun x => if (x.rank n).busy = some key then x.setRank n { x.rank n with busy := none } else x)).unqueue
      sid n).setPush gid op w pos 0 0 0 (some oc)
  let oc := s.pushOutcome sid n s.dpkg g.leaf
  if oc ≠ outOk then stop s oc
  else match tblFind s.sessions sid with
  | none => s
  | some x =>
    if (x.rank n).locked (some key) then s
    else match s.pushItem gid g op m w pos with
    | (s, .error .held) => s
    | (s, .error _) => stop s outFault
    | (s, .ok v) =>
      let p := (x.rank n).feed v
      let s := s.putRank sid x n ({ p.1 with busy := some key }, p.2)
      if pos + 1 < rankItems (w.getD 2 0) then s.setPush gid op w (pos + 1) 0 0 0 none
      else
        let s := match tblFind s.sessions sid with
          | some x => s.putRank sid x n (x.rank n).segmentEnd
          | none => s
        (s.unqueue sid n).setPush gid op w (pos + 1) 0 0 0 (some outOk)

/-- One item of a push into a session of another package: read here and sent (R321). -/
def State.pushFar (s : State) (gid : Nat) (g : Group) (op : Nat) (m : Mode) (w : List DWord) (pos sent acked oc : Nat) : State :=
  let h := w.getD 0 0
  let total := rankItems (w.getD 2 0)
  if oc ≠ outOk || total ≤ pos then
    if sent = acked then s.setPush gid op w pos sent acked oc (some oc) else s
  else if !s.routed (handlePkg h) then s.setPush gid op w pos sent acked outNoRoute none
  else match s.pushItem gid g op m w pos with
    | (s, .error .held) => s
    | (s, .error _) => s.setPush gid op w pos sent acked outFault none
    | (s, .ok v) =>
      let s := s.setPush gid op w (pos + 1) (sent + 1) acked oc none
      s.sendPacket g.leaf (s.packetFor g gid op (handlePkg h)
        (.push (handleSid h) (rankNum (w.getD 2 0)) [v] (decide (pos + 1 = total)) false))

/-- BLEND_PUSH_RETIRE (R321): the next item of a push is read, after every store that its group issued before it; the push
retires when every item has been read, or with the outcome that it has come to. -/
def State.blendPush (s : State) (gid op : Nat) : State :=
  match s.awake gid with
  | none => s
  | some g => match g.op op with
    | none => s
    | some o =>
      if o.ended || !g.resident || !g.oldest o then s
      else match o.kind with
      | .fabric (.bpush w pos sent acked oc) _ m ws _ got =>
        match got with
        | some (outcome, v) => s.fabEnd gid o (.bpush w pos sent acked oc) outcome v
        | none =>
          let h := w.getD 0 0
          if !ws.all (fun i => s.performed i 4) then s
          else if !handleShape h then s.setPush gid op w pos sent acked oc (some outNoSession)
          else if handlePkg h = s.dpkg then s.pushHere gid g op m w pos
          else s.pushFar gid g op m w pos sent acked oc
      | _ => s

/-! ### The merge -/

/-- The lowest key from `lo` on that a table holds. -/
def firstKey (lo : Nat) : Tbl (BitVec 32) → Option Nat
  | [] => none
  | (k, _) :: t => if lo ≤ k then some k else firstKey lo t

/-- The lower of two keys. -/
def minKey (a b : Option Nat) : Option Nat := match a, b with
  | some x, some y => some (min x y)
  | some x, none => some x
  | none, y => y

/-- The next present key that is neither written nor dropped. -/
def Session.next (x : Session) : Option Nat :=
  x.ranks.foldl (fun m p => minKey m (firstKey x.nextKey p.2.keys)) none

/-- Present keys, in ascending order, among `n` keys from `lo` on (R322). -/
def Session.present (x : Session) (lo n : Nat) : List Nat :=
  ((List.range n).map (fun i => lo + i)).filter (fun k => x.ranks.any (fun p => (tblFind p.2.keys k).isSome))

/-- The present keys at or above a key. -/
def Session.keysFrom (x : Session) (lo : Nat) : List Nat :=
  distinct (x.ranks.flatMap (fun p => (p.2.keys.filter (fun q => decide (lo ≤ q.1))).map (·.1)))

/-- Every rank has passed window `w`, or has ended (R322). -/
def Session.passed (x : Session) (w : Nat) : Bool :=
  (List.range x.nrank).all (fun n => x.rankOver n || (match (x.rank n).last with
    | some l => decide (1024 * w + 1023 ≤ l)
    | none => false))

/-- The sum of two values, with its flags (R322). -/
def blendAdd (f32 : Bool) (a b : Nat × Flags) : Nat × Flags :=
  if f32 then
    let (v, f) := urnFadd 4 a.1 b.1
    (v, f ||| a.2 ||| b.2)
  else ((a.1 + b.1) % 2 ^ 32, 0)

/-- The value of a key over all ranks (R322). -/
def Session.value (x : Session) (k : Nat) : Nat × Flags :=
  (tree (blendAdd x.f32) ((List.range x.nrank).map (fun n =>
    (tblFind (x.rank n).keys k).map (fun v => (v.toNat, (0 : Flags)))))).getD (0, 0)

/-- A record of the output: its items, the key after it, and the flags of its sums (R322, R323). -/
def Session.record (x : Session) (k : Nat) : List DWord × Nat × Flags :=
  let w := k / 1024
  if (x.present (1024 * w) 1024).length < x.dthresh then
    let (v, f) := x.value k
    ([BitVec.ofNat 64 (v * 2 ^ 32 + k)], k + 1, f)
  else
    let vs := (List.range 1024).map (fun i => x.value (1024 * w + i))
    let body := (List.range 512).map (fun i =>
      BitVec.ofNat 64 ((vs.getD (2 * i + 1) (0, 0)).1 * 2 ^ 32 + (vs.getD (2 * i) (0, 0)).1))
    (BitVec.ofNat 64 (2 ^ 31 + w) :: body, 1024 * (w + 1), vs.foldl (fun f p => f ||| p.2) 0)

/-- The number under which a session waits for a page. -/
def sessionKey (sid : Nat) : Nat := 3 * sid

/-- Items with the places of their bytes at ascending addresses, none where an item cannot be written; none at all while a
page holds one of them. -/
def State.itemPlaces (s : State) (sid : Nat) (x : Session) (a : Nat) :
    List DWord → State × Option (List (DWord × Option (List Loc)))
  | [] => (s, some [])
  | v :: vs =>
    match s.reachEach (frontX x.leaf x.vi) 0 (sessionKey sid) .supervisor { w := true } ((List.range 8).map (fun i => a + i)) with
    | (s, .error .held) => (s, none)
    | (s, r) =>
      match s.itemPlaces sid x (a + 8) vs with
      | (s, none) => (s, none)
      | (s, some ps) => (s, some ((v, match r with
          | .ok ls => some ls
          | .error _ => none) :: ps))

/-- Items written in order, each as one 8-byte write (R323, R277); an item without a place is lost. -/
def State.writeItems (s : State) (x : Session) : List (DWord × Option (List Loc)) → State × List Nat
  | [] => (s, [])
  | (_, none) :: r => s.writeItems x r
  | (v, some ls) :: r =>
    let (s, w) := s.hubWrite x.launch 4 (ls.zip (leBytes 8 v.toNat))
    let (s, ws) := s.writeItems x r
    (s, w :: ws)

/-- Items written to the output stream (R323): nothing while a page holds one of them, or while the translation budget of the leaf is
used up (R62). -/
def State.putItems (s : State) (sid : Nat) (x : Session) (a : Nat) (vs : List DWord) : State × Option (List Nat) :=
  if s.exhausted x.leaf 5 then (s, none)
  else match s.itemPlaces sid x a vs with
  | (s, none) => (s, none)
  | (s, some ps) => let (s, ws) := s.writeItems x ps; (s, some ws)

/-- Ranks keep only the keys of the window in which the merge stands. -/
def Session.forget (x : Session) : Session :=
  let lo := x.nextKey / 1024 * 1024
  { x with ranks := x.ranks.map (fun p => (p.1, { p.2 with keys := p.2.keys.filter (fun q => decide (lo ≤ q.1)) })) }

/-- BLEND_RECORD_WRITE (R322, R323): the record of the lowest key not yet written, once every rank has passed its window;
one that leaves no room for END ends the output. -/
def State.blendRecord (s : State) (sid : Nat) : State :=
  match tblFind s.sessions sid with
  | none => s
  | some x =>
    if x.ended || x.ending || x.ovf then s
    else match x.next with
    | none => s
    | some k =>
      if !x.passed (k / 1024) then s
      else
        let (items, next, fl) := x.record k
        if x.ocap < x.items + items.length + 1 then s.modSession sid (fun x => { x with ovf := true })
        else match s.putItems sid x (x.out.toNat + 8 * x.items) items with
          | (s, none) => s
          | (s, some ws) => s.modSession sid (fun x =>
              { x with items := x.items + items.length, nextKey := next, fpflags := x.fpflags ||| fl,
                       writes := x.writes ++ ws }.forget)

/-- The done record written (R323): the session has ended. -/
def State.blendDone (s : State) (sid : Nat) (x : Session) : State :=
  let y := { x with ended := true }
  let data := leBytes 8 y.status.toNat ++ leBytes 8 y.dropped
  match s.reachAll (frontX x.leaf x.vi) 0 (sessionKey sid) .supervisor { w := true }
      ((List.range 16).map (fun i => x.done.toNat + i)) with
  | (s, .error .held) => s
  | (s, .ok ls) => ((s.hubWrite x.launch 4 (ls.zip data)).1).modSession sid (fun _ => y)
  | (s, .error _) => s.modSession sid (fun _ => y)

/-- BLEND_SESSION_END (R323): when every rank has ended and no record is left, END is written, and the sums of the keys that are not
written add their flags (R322); when every item has performed at POD, the done record. A stream that has broken R320 ends the
session, at once or later (DEDUCED, log entry 106). -/
def State.blendEnd (s : State) (sid : Nat) : State :=
  match tblFind s.sessions sid with
  | none => s
  | some x =>
    if x.ended then s
    else if !x.allOver then
      if x.badStream && x.isOpen then (s.modSession sid (fun x => { x with broken := true })).unqueueAll sid else s
    else if x.ending then
      if x.writes.all (fun w => s.performed w 5) then s.blendDone sid x else s
    else if x.next.isSome && !x.ovf then s
    else
      let ks := x.keysFrom x.nextKey
      let n := ks.length
      let fl := ks.foldl (fun f k => f ||| (x.value k).2) x.fpflags
      let v := BitVec.ofNat 64 (min n 0xFFFFFFFF * 2 ^ 32 + 0xFFFFFFFF)
      match s.putItems sid x (x.out.toNat + 8 * x.items) [v] with
      | (s, none) => s
      | (s, some ws) => s.modSession sid (fun x =>
          { x with items := x.items + 1, dropped := x.dropped + n, ending := true, writes := x.writes ++ ws, fpflags := fl })

/-- BLEND_TIMEOUT (R323): every open rank ends at its last item read. -/
def State.blendTimeout (s : State) (sid : Nat) : State :=
  match tblFind s.sessions sid with
  | none => s
  | some x =>
    if x.timeout = 0 || s.time < x.opened + x.timeout || !x.isOpen || x.allOver then s
    else ((s.modSession sid (fun x => { x with timedOut := true })).incomplete sid x).unqueueAll sid

/-! ### Packets that arrive -/

/-- A packet lost at a port (R314): it is counted, its operation learns of it, and a rank whose items it carried ends before
them (R317, R323). -/
def State.packetDrop (s : State) (p : FabPacket) : State :=
  let s := { s with portDrops := s.portDrops + 1 }
  let s := match s.packetLeaf p with
    | some leaf => s.countErr leaf 3
    | none => s
  match p.body with
  | .reply _ at_ _ => s.answerFabric p.gid p.op outDropped at_ []
  | .push sid rank _ _ _ =>
    let s := match tblFind s.sessions sid with
      | some x =>
        if x.isOpen && decide (rank < x.nrank) then
          ((s.modSession sid (fun x => x.setRank rank { x.rank rank with cut := true, items := [] })).incomplete sid x).unqueue
            sid rank
        else s
      | none => s
    s.replyTo p outDropped 0 []
  | b => s.replyTo p outDropped (answerOffset b) []

/-- FABRIC_PACKET_RECEIVE (R314): a packet for this package is taken in; one whose CRC fails is dropped whole. -/
def State.packetReceive (s : State) (p : FabPacket) (crcOk : Bool) : State :=
  if p.dst ≠ s.dpkg then s
  else if !crcOk then s.packetDrop p
  else match p.body with
  | .reply outcome at_ data =>
    if p.gid = 0 && p.op = 0 then s.phaseAck p.src at_ else s.answerFabric p.gid p.op outcome at_ data
  | .push sid rank items last close => s.pushArrive p sid rank items last close
  | _ => { s.bump with inbox := tblSet s.inbox s.nextId p }

/-! ### Events -/

/-- FABRIC_PACKET_RECEIVE (R314). -/
def execFabricPacketReceive (pkt : FabPacket) (crcOk : Bool) (s : State) : Out := .next (s.packetReceive pkt crcOk)

/-- FABRIC_OP_RETIRE (R317). -/
def execFabricOpRetire (gid op : Nat) (s : State) : Out := .next (s.fabricRetire gid op)

/-- BLEND_PUSH_RETIRE (R321). -/
def execBlendPushRetire (gid op : Nat) (s : State) : Out := .next (s.blendPush gid op)

/-- BLEND_RECORD_WRITE (R322). -/
def execBlendRecordWrite (sid : Nat) (s : State) : Out := .next (s.blendRecord sid)

/-- BLEND_SESSION_END (R323). -/
def execBlendSessionEnd (sid : Nat) (s : State) : Out := .next (s.blendEnd sid)

/-- BLEND_TIMEOUT (R323). -/
def execBlendTimeout (sid : Nat) (s : State) : Out := .next (s.blendTimeout sid)

end Sys2Proof.Machine
end

