-- ==== Sys2Proof/Machine/Hash.lean ====
section
/-!
DEFINITION. SHA-256 (FIPS 180-4), by which the manual defines the digest of a cut record (R33), of an image (R385) and of
a partition configuration (R387).
-/

namespace Sys2Proof.Machine
open Sys2Proof

/-- Word `i` of eight that a number of 256 bits holds, the first the most significant. -/
def octetWord (n i : Nat) : Word := BitVec.ofNat 32 (n / 2 ^ (32 * (7 - i)))

/-- Round constants 8 × `row` to 8 × `row` + 7, as one number of 256 bits. -/
def shaRow (row : Nat) : Nat :=
  if row = 0 then 0x428a2f9871374491b5c0fbcfe9b5dba53956c25b59f111f1923f82a4ab1c5ed5
  else if row = 1 then 0xd807aa9812835b01243185be550c7dc372be5d7480deb1fe9bdc06a7c19bf174
  else if row = 2 then 0xe49b69c1efbe47860fc19dc6240ca1cc2de92c6f4a7484aa5cb0a9dc76f988da
  else if row = 3 then 0x983e5152a831c66db00327c8bf597fc7c6e00bf3d5a7914706ca635114292967
  else if row = 4 then 0x27b70a852e1b21384d2c6dfc53380d13650a7354766a0abb81c2c92e92722c85
  else if row = 5 then 0xa2bfe8a1a81a664bc24b8b70c76c51a3d192e819d6990624f40e3585106aa070
  else if row = 6 then 0x19a4c1161e376c082748774c34b0bcb5391c0cb34ed8aa4a5b9cca4f682e6ff3
  else 0x748f82ee78a5636f84c878148cc7020890befffaa4506cebbef9a3f7c67178f2

/-- The initial hash value, as one number of 256 bits. -/
def shaStart : Nat := 0x6a09e667bb67ae853c6ef372a54ff53a510e527f9b05688c1f83d9ab5be0cd19

/-- A word turned right by each of some distances, the results added without carries. -/
def turned (x : Word) (by_ : List Nat) : Word := by_.foldl (fun y n => y ^^^ x.rotateRight n) 0

/-- At each bit: what two of three hold at least; what the first chooses of the others. -/
def twoOf (x y z : Word) : Word := (x &&& y) ||| (z &&& (x ||| y))
def choice (x y z : Word) : Word := z ^^^ (x &&& (y ^^^ z))

/-- The number a list of bytes holds, the first byte the most significant. -/
def beNat (l : List Byte) : Nat := l.foldl (fun n b => n * 256 + b.toNat) 0
/-- The `n` big-endian bytes of a number. -/
def beBytes (n v : Nat) : List Byte := (leBytes n v).reverse

/-- The words that follow a window of sixteen in the message schedule, `n` of them. -/
def shaExtend : Nat → List Word → List Word
  | 0, _ => []
  | n + 1, w =>
    let near := w.getD 14 0
    let far := w.getD 1 0
    let x := w.headD 0 + w.getD 9 0 + (turned near [17, 19] ^^^ near >>> 10) + (turned far [7, 18] ^^^ far >>> 3)
    x :: shaExtend n (w.tail ++ [x])

/-- One round on eight working variables, with the sum of its constant and its schedule word. -/
def shaRound (v : List Word) (kw : Word) : List Word :=
  let at_ (i : Nat) : Word := v.getD i 0
  let t := at_ 7 + kw + choice (at_ 4) (at_ 5) (at_ 6) + turned (at_ 4) [6, 11, 25]
  let fresh := t + twoOf (at_ 0) (at_ 1) (at_ 2) + turned (at_ 0) [2, 13, 22]
  fresh :: (v.take 3 ++ (at_ 3 + t) :: (v.drop 4).take 3)

/-- One block of 64 bytes. -/
def shaBlock (h : List Word) (b : List Byte) : List Word :=
  let w := (List.range 16).map (fun i => BitVec.ofNat 32 (beNat ((b.drop (4 * i)).take 4)))
  let kw := (List.range 64).zip (w ++ shaExtend 48 w)
  let v := kw.foldl (fun v p => shaRound v (octetWord (shaRow (p.1 / 8)) (p.1 % 8) + p.2)) h
  (List.range 8).map (fun i => h.getD i 0 + v.getD i 0)

/-- Blocks of a padded message, one after the other. -/
def shaBlocks : Nat → List Word → List Byte → List Word
  | 0, h, _ => h
  | n + 1, h, m => shaBlocks n (shaBlock h (m.take 64)) (m.drop 64)

/-- SHA-256 of a message. -/
def sha256 (m : List Byte) : List Byte :=
  let n := m.length
  let blocks := (n + 8) / 64 + 1
  let padded := m ++ [(0x80 : Byte)] ++ List.replicate (blocks * 64 - 9 - n) 0 ++ beBytes 8 (8 * n)
  (shaBlocks blocks ((List.range 8).map (octetWord shaStart)) padded).flatMap (fun w => beBytes 4 w.toNat)

end Sys2Proof.Machine
end

