-- ==== Sys2Proof/Machine/Curve.lean ====
section
/-!
DEFINITION. The curve P-256 and the verification of an ECDSA signature over it (FIPS 186-4), by which an image is accepted
(R385).
-/

namespace Sys2Proof.Machine
open Sys2Proof

/-- The field prime, the group order, the coefficient b and the base point of P-256. -/
def curveP : Nat := 0xffffffff00000001000000000000000000000000ffffffffffffffffffffffff
def curveN : Nat := 0xffffffff00000000ffffffffffffffffbce6faada7179e84f3b9cac2fc632551
def curveB : Nat := 0x5ac635d8aa3a93e7b3ebbd55769886bc651d06b0cc53b0f63bce3c3e27d2604b
def curveGx : Nat := 0x6b17d1f2e12c4247f8bce6e563a440f277037d812deb33a0f4a13945d898c296
def curveGy : Nat := 0x4fe342e2fe1a7f9b8ee7eb4a7c0f9e162bce33576b315ececbb6406837bf51f5

/-- `b ^ e` modulo `m`, over the low `n` bits of `e`, the highest first. -/
def powMod (m b e : Nat) : Nat → Nat → Nat
  | 0, acc => acc
  | n + 1, acc =>
    let sq := acc * acc % m
    powMod m b e n (if bitAt e n then sq * b % m else sq)

/-- The inverse modulo a 256-bit prime (Fermat). -/
def invMod (m x : Nat) : Nat := powMod m (x % m) (m - 2) 256 1

/-- `a - b` modulo `m`, for numbers below `m`. -/
def subMod (m a b : Nat) : Nat := (a + m - b % m) % m

/-- A point in affine coordinates; none is the point at infinity. -/
abbrev CurvePoint := Option (Nat × Nat)

/-- The chord or tangent of slope `l` through a point. -/
def chord (l x1 y1 x2 : Nat) : CurvePoint :=
  let x3 := subMod curveP (subMod curveP (l * l % curveP) x1) x2
  some (x3, subMod curveP (l * subMod curveP x1 x3 % curveP) y1)

/-- The sum of two points. -/
def CurvePoint.sum (p q : CurvePoint) : CurvePoint :=
  match p, q with
  | none, q => q
  | p, none => p
  | some (x1, y1), some (x2, y2) =>
    if x1 = x2 then
      if (y1 + y2) % curveP = 0 then none
      else chord ((3 * x1 * x1 + curveP - 3) * invMod curveP (2 * y1) % curveP) x1 y1 x2
    else chord (subMod curveP y2 y1 * invMod curveP (subMod curveP x2 x1) % curveP) x1 y1 x2

/-- `k` times a point, over the low `n` bits of `k`, the highest first. -/
def scalarMul (k : Nat) (p : CurvePoint) : Nat → CurvePoint → CurvePoint
  | 0, acc => acc
  | n + 1, acc =>
    let d := CurvePoint.sum acc acc
    scalarMul k p n (if bitAt k n then CurvePoint.sum d p else d)

/-- A point of the curve other than infinity. -/
def onCurve (x y : Nat) : Bool :=
  decide (x < curveP) && decide (y < curveP) &&
    decide (y * y % curveP = (x * x * x + subMod curveP 0 (3 * x) + curveB) % curveP)

/-- The signature (r, s) over a digest verifies under the key (x, y). -/
def ecdsaVerify (x y r s : Nat) (digest : List Byte) : Bool :=
  if !onCurve x y || r = 0 || s = 0 || curveN ≤ r || curveN ≤ s then false
  else
    let w := invMod curveN s
    let u1 := beNat digest * w % curveN
    let u2 := r * w % curveN
    match CurvePoint.sum (scalarMul u1 (some (curveGx, curveGy)) 256 none) (scalarMul u2 (some (x, y)) 256 none) with
    | none => false
    | some (px, _) => decide (px % curveN = r)

/-- The signature (r, s) of a digest under a private key, with the number `k` taken for it. -/
def ecdsaSign (key k : Nat) (digest : List Byte) : Nat × Nat :=
  let r := match scalarMul k (some (curveGx, curveGy)) 256 none with
    | some (x, _) => x % curveN
    | none => 0
  (r, invMod curveN k * (beNat digest + r * key) % curveN)

end Sys2Proof.Machine
end

