-- ==== Sys2Proof/Machine/Issue.lean ====
section
/-!
DEFINITION. From an issue slot to an issue in hand: the choice of R118 with the held lanes of R121 and the yield reset,
taking a header (R86, R94, R395), fetching the units of a sequence (R112, R396), decoding it, and the decoding faults of
orders 1 to 3 of R110. `State.prepare` answers the instruction whose issue is in hand, or the state without one.
-/

namespace Sys2Proof.Machine
open Sys2Proof

/-! ### Fetching -/

/-- A unit could not be fetched: the failure and the unit's address (R396). -/
structure FetchErr where
  fault : XFault
  addr : Nat
  deriving DecidableEq, Repr

/-- Units read from the state, and the state after the reads. -/
abbrev Fetched (α : Type) := Except FetchErr (State × α)

/-- Key of a unit in a group's fetched units: units fetched in one mode are not those of another (R112, R172). -/
def codeKey (m : Mode) (a : Nat) : Nat := m.num * 2 ^ 48 + a

/-- The unit at an address as a group's lanes in a mode would fetch it, the table entries used and the unit's
place unless the group has it already (R396). -/
def State.unitAt (s : State) (g : Group) (m : Mode) (a : Nat) : Except FetchErr (Nat × List TlbEntry × Option Loc) :=
  match tblFind g.icache (codeKey m a) with
  | some u => .ok (u.toNat, [], none)
  | none =>
    if 2 ^ 48 ≤ a then .error ⟨.access, a⟩
    else match s.translate (g.xlate m) { x := true } a with
      | .error e => .error ⟨e, a⟩
      | .ok (p, es) =>
        if s.wouldPoison (.sys p) then .error ⟨.poison p, a⟩
        else .ok (leNat (s.readBytes hub (.sys p) 4).1, es, some (.sys p))

/-- The unit at an address fetched by group `gid`, which may use it for the rest of its life (R112). -/
def State.fetch (s : State) (gid : Nat) (m : Mode) (a : Nat) : Fetched Nat :=
  match s.group gid with
  | none => .error ⟨.access, a⟩
  | some g =>
    match s.unitAt g m a with
    | .error e => .error e
    | .ok (u, es, l) =>
      let s := s.noteWalk (g.xlate m) g.launch a es none
      let s := match l with
        | some l => s.meet g.launch g.leaf l
        | none => s
      .ok (s.modGroup gid (fun g => { g with icache := tblSet g.icache (codeKey m a) (BitVec.ofNat 32 u) }), u)

/-- Units from `a` on while they are prefixes, up to `e`; the prefixes and the address after them. -/
def State.fetchPfx (s : State) (gid : Nat) (m : Mode) (e : Nat) : Nat → Nat → Fetched (List Nat × Nat)
  | 0, a => .ok (s, [], a)
  | n + 1, a =>
    if e ≤ a then .ok (s, [], a)
    else match s.fetch gid m a with
      | .error x => .error x
      | .ok (s, u) =>
        if u % 4 = 1 then
          match s.fetchPfx gid m e n (a + 4) with
          | .error x => .error x
          | .ok (s, us, b) => .ok (s, u :: us, b)
        else .ok (s, [], a)

/-- The units of the sequence at `a` in a body that ends at `e`: prefixes, then those of its instruction (R87). -/
def State.fetchSeq (s : State) (gid : Nat) (m : Mode) (e a : Nat) : Fetched (List Nat × List Nat) :=
  match s.fetchPfx gid m e 256 a with
  | .error x => .error x
  | .ok (s, us, b) =>
    if e ≤ b then .ok (s, us, [])
    else match s.fetch gid m b with
      | .error x => .error x
      | .ok (s, lo) =>
        if lo % 4 = 2 && b + 4 < e then
          match s.fetch gid m (b + 4) with
          | .error x => .error x
          | .ok (s, hi) => .ok (s, us, [lo, hi])
        else .ok (s, us, [lo])

/-! ### Blocks -/

/-- A block as a lane in its body sees it. -/
structure Block where
  header : Nat
  hd : Header
  word : LoopWord
  deriving DecidableEq, Repr

/-- First unit of the body that is decoded (R87). -/
def Block.start (b : Block) : Nat := b.header + (if b.hd.loop then 12 else 8)
/-- End E of the body (R86). -/
def Block.stop (b : Block) : Nat := b.header + 8 + 4 * b.hd.len
/-- The next header's address (R86). -/
def Block.following (b : Block) : Nat := (b.stop + 7) / 8 * 8

/-- What stands at an address that should hold a header: a block, a unit that is no header, or a malformed header (R86,
R94, R96). -/
inductive HeaderAt where
  | block (b : Block)
  | notHeader
  | malformed
  deriving DecidableEq, Repr

/-- The header at an address. -/
def State.headerAt (s : State) (gid : Nat) (m : Mode) (h : Nat) : Fetched HeaderAt :=
  match s.fetch gid m h with
  | .error x => .error x
  | .ok (s, u) =>
    if u % 4 ≠ 3 || h % 8 ≠ 0 then .ok (s, .notHeader)
    else match parseHeader u with
      | none => .ok (s, .malformed)
      | some hd =>
        if hd.loop then
          match s.fetch gid m (h + 8) with
          | .error x => .error x
          | .ok (s, w) => match parseLoopWord w with
            | none => .ok (s, .malformed)
            | some lw => .ok (s, .block ⟨h, hd, lw⟩)
        else .ok (s, .block ⟨h, hd, ⟨0, 0, 0, 0, 0⟩⟩)

/-- Header of the block marked in a mode for an address: the highest multiple of 8 at or below it whose bits [12:3] are
the mark (R395); none where no address at or below it has them. -/
def markedHeader (mark : BitVec 10) (a : Nat) : Option Nat :=
  let back := (a / 8 + 1024 - mark.toNat) % 1024
  if back ≤ a / 8 then some ((a / 8 - back) * 8) else none

/-- The address of a sequence, found by decoding the body from `a` on (R395). -/
def State.findSeq (s : State) (gid : Nat) (m : Mode) (e target : Nat) : Nat → Nat → Fetched Bool
  | 0, a => .ok (s, a == target)
  | n + 1, a =>
    if target ≤ a then .ok (s, a == target)
    else match s.fetchSeq gid m e a with
      | .error x => .error x
      | .ok (s, us, is) =>
        match is with
        | [] => .ok (s, false)
        | lo :: _ =>
          if lo % 4 = 3 then .ok (s, false)
          else s.findSeq gid m e target n (a + 4 * us.length + (if lo % 4 = 2 then 8 else 4))

/-- Where a lane stands (R86, R395): at a header to be taken, in the body of a block, or nowhere that decodes. -/
inductive Stand where
  | atHeader
  | inside (b : Block)
  /-- `left` where the address lies outside the block that is marked -/
  | lost (left : Bool)
  deriving DecidableEq, Repr

/-- Where a lane of a group stands. -/
def State.standOf (s : State) (gid : Nat) (l : Lane) : Fetched Stand :=
  let a := l.addr.toNat
  let inBlock (s : State) (check : Bool) : Fetched Stand :=
    match markedHeader (l.ms l.mode).mark a with
    | none => .ok (s, .lost true)
    | some h =>
      match s.headerAt gid l.mode h with
      | .error x => .error x
      | .ok (s, .block b) =>
        if a < b.start || b.stop ≤ a then .ok (s, .lost true)
        else if check then
          match s.findSeq gid l.mode b.stop a 256 b.start with
          | .error x => .error x
          | .ok (s, ok) => .ok (s, if ok then .inside b else .lost false)
        else .ok (s, .inside b)
      | .ok (s, _) => .ok (s, .lost true)
  match l.came with
  | .header => .ok (s, .atHeader)
  | .back => .ok (s, .atHeader)
  | .within => inBlock s false
  | .ret =>
    if a % 8 = 0 then
      match s.fetch gid l.mode a with
      | .error x => .error x
      | .ok (s, u) => if u % 4 = 3 then .ok (s, .atHeader) else inBlock s true
    else inBlock s true

/-! ### The choice of lanes -/

/-- The lane stands at a header with RECONV set, as far as its unit can be read (R121). -/
def State.atReconv (s : State) (g : Group) (l : Lane) : Bool :=
  decide (l.came ≠ .within) &&
    match s.unitAt g l.mode l.addr.toNat with
    | .ok (u, _) => decide (u % 4 = 3) && decide (l.addr.toNat % 8 = 0) && bitAt u 12
    | .error _ => false

/-- A lane that came by a trap return stands at a header, as far as the unit there can be read (R86). -/
def State.returnedToHeader (s : State) (g : Group) (l : Lane) : Bool :=
  decide (l.came = .ret) && l.live && decide (l.addr.toNat % 8 = 0) &&
    match s.unitAt g l.mode l.addr.toNat with
    | .ok (u, _) => decide (u % 4 = 3)
    | .error _ => false

/-- The lane has left its block for a header by a trap return: its loop pass is 0 (R129). -/
def Lane.leftBlock (l : Lane) : Lane := l.setMs l.mode { l.ms l.mode with loop := 0 }

/-- Lanes of a group that a trap return has put at a header, framed before the choice of lanes compares their loop
passes. -/
def State.frameHeaders (s : State) (gid : Nat) : State :=
  match s.group gid with
  | none => s
  | some g =>
    match allLanes.filter (fun i => s.returnedToHeader g (g.lane i)) with
    | [] => s
    | ls => s.modLanes gid ls (fun _ l => { l.leftBlock with came := .header })

/-- A lane is held at a RECONV header while another live lane stands in a higher mode, or lower in its mode (R121). -/
def State.held (s : State) (g : Group) (i : Nat) : Bool :=
  let l := g.lane i
  let lower := allLanes.any (fun j =>
    let k := g.lane j
    j != i && k.live && (decide (l.mode.num < k.mode.num) || (decide (k.mode = l.mode) && decide (k.addr.toNat < l.addr.toNat))))
  lower && s.atReconv g l

/-- Lanes with the lowest value of a key. -/
def lowestBy (f : Nat → Nat) (ls : List Nat) : List Nat :=
  let least := ls.foldl (fun m i => min m (f i)) (f (ls.headD 0))
  ls.filter (fun i => f i == least)

/-- The lanes of C chosen to issue (R118). -/
def Group.choose (g : Group) (cs : List Nat) : List Nat :=
  let top := cs.foldl (fun m i => max m (g.lane i).mode.num) 0
  let ss := cs.filter (fun i => (g.lane i).mode.num == top)
  let old := ss.filter (fun i => (g.lane i).age.toNat == 1023)
  let ss := if old.isEmpty then ss else old
  let ss := lowestBy (fun i => (g.lane i).addr.toNat) ss
  let pass (i : Nat) : ModeState := (g.lane i).ms (g.lane i).mode
  let ss := lowestBy (fun i => (pass i).loop.toNat) ss
  lowestBy (fun i => (pass i).rep.toNat) ss

/-- Lanes of one address that stand in different blocks issue apart: those that stand as the lowest of them does. -/
def Group.sameBlock (g : Group) (ls : List Nat) : List Nat :=
  match ls with
  | [] => []
  | i :: _ =>
    let l := g.lane i
    ls.filter (fun j =>
      let k := g.lane j
      decide (k.came = l.came) && (decide (l.came = .header) || decide (l.came = .back) ||
        decide ((k.ms k.mode).mark = (l.ms l.mode).mark)))

/-- C and the group after a yield reset, if one is due (R118). -/
def State.considered (s : State) (gid : Nat) (g : Group) : State × List Nat :=
  let live := allLanes.filter (fun i => (g.lane i).live)
  let cs := live.filter (fun i => !(g.lane i).yielded && !s.held g i)
  if !cs.isEmpty then (s, cs)
  else
    let ys := live.filter (fun i => (g.lane i).yielded)
    if ys.isEmpty then (s, [])
    else (s.modLanes gid ys (fun _ l => { l with yielded := false }), ys.filter (fun i => !s.held g i))

/-! ### Faults of fetching and decoding -/

/-- One lane takes a fetch fault where it stands (R396). -/
def State.fetchFault1 (s : State) (gid : Nat) (e : FetchErr) (i : Nat) : State :=
  match s.group gid with
  | none => s
  | some g =>
    let l := g.lane i
    let v := BitVec.ofNat 64 e.addr
    match e.fault with
    | .page st p =>
      match s.parkPage gid i l.mode st p { x := true } v with
      | (s, true) => s
      | (_, false) => s.takeTrap gid i causePage v l.addr
    | .access => s.takeTrap gid i causeAccess v l.addr
    | .busy => s
    | .poison p => (s.meet g.launch g.leaf (.sys p)).takeTrap gid i causePoison v l.addr

/-- The lanes that need a unit take its fetch fault (R396). -/
def State.fetchFault (s : State) (gid : Nat) (ls : List Nat) (e : FetchErr) : State :=
  let s := ls.foldl (fun s i => s.fetchFault1 gid e i) s
  { s with issue := none }.settle gid

/-- Lanes trap at the address at which they stand, with no issue. -/
def State.trapHere (s : State) (gid : Nat) (ls : List Nat) (cause : BitVec 8) (v : Nat) : State :=
  let s := ls.foldl (fun s i =>
    match s.group gid with
    | none => s
    | some g => s.takeTrap gid i cause (BitVec.ofNat 64 v) (g.lane i).addr) s
  ({ s with issue := none }).settle gid

/-- A V register number is illegal (R24, R89). -/
def vIllegal (nvreg n : Nat) : Bool := decide (128 ≤ n) || (decide (4 * min nvreg 30 ≤ n) && decide (n < 120))

/-- A slot's registers are illegal (R24, R89, R96). -/
def opdIllegal (nvreg : Nat) (o : Opd) : Bool :=
  match o with
  | .v n => vIllegal nvreg n
  | .pair n => n % 2 == 1 || vIllegal nvreg n || vIllegal nvreg (n + 1)
  | .t n => decide (32 ≤ n)
  | _ => false

/-- NVREG of the launch of a group (R15). -/
def State.nvregOf (s : State) (g : Group) : Nat :=
  match s.launchOf g with
  | some l => l.nvreg
  | none => 0

/-- The registers of one pass of a sequence are legal: the low unit's slots, and slot C of the high unit. -/
def State.passIllegal (s : State) (g : Group) (iss : Issue) (i : Instr) : Option Bool :=
  let o := s.slots g iss i
  let bad (sl : SlotName) : Bool := (iss.pfx.streamed sl).isNone && opdIllegal (s.nvregOf g) (o.slot sl)
  if bad .d || bad .a || bad .b then some false
  else if bad .c then some true
  else none

/-- The issue of a given REPEAT pass: its steps (R96, R101). -/
def Issue.inPass (x : Issue) (w : LoopWord) (j : Nat) : Issue :=
  let r (f : SlotSet → Bool) : Nat := match x.pfx.rep with
    | some (_, m) => if f m then j else 0
    | none => 0
  { x with
      repPass := j,
      stepD := x.loopPass * w.d + r SlotSet.d, stepA := x.loopPass * w.a + r SlotSet.a,
      stepB := x.loopPass * w.b + r SlotSet.b, stepC := x.loopPass * w.c + r SlotSet.c,
      stepT := x.loopPass * w.t }

/-- The instruction must be the last sequence of its block (R133, R138). -/
def lastOnly (i : Instr) : Bool :=
  match i with
  | .call _ _ _ => true
  | .callx _ _ _ => true
  | .loop _ => true
  | .loopK _ _ => true
  | _ => false

/-- The instruction ends a LOOP block (R138). -/
def isLoop (i : Instr) : Bool :=
  match i with
  | .loop _ => true
  | .loopK _ _ => true
  | _ => false

/-- The prefix unit that binds a stream to a slot which the tag of the stream, or of FORMAT, makes 64 bits wide (R203,
R222). -/
def Group.streamWide (g : Group) (m : Mode) (p : Prefixes) (pfx : List Nat) (i : Instr) : Option Nat :=
  pfx.findIdx? (fun u => match parsePfx u with
    | some (.stream _ sl) => match i.opnds.slot sl with
      | .byTag r => i.wideByTag (g.slotTag m p sl (.byTag r)) 0
      | _ => false
    | _ => false)

/-- Element 1 of a source that is no pair format (R234). -/
def elemBad (i : Instr) (t : Tag) : Bool :=
  match i with
  | .cvtFF _ _ _ e1 _ => e1 && decide (t ≠ .bf16x2) && decide (t ≠ .f16x2)
  | _ => false

/-- A level register of a level the launch does not have (R153). -/
def levelBad (i : Instr) (nlevel : Nat) : Bool :=
  match i with
  | .smov _ b _ => decide (0x10 ≤ b.toNat) && decide (b.toNat < 0x80) && decide (nlevel ≤ b.toNat / 16)
  | _ => false

/-- Breaches of order 3 that the words alone do not show: a stream of a 64-bit slot, registers in every pass, placement in
the block; the number of the lowest offending unit (R110). -/
def State.lateIllegal (s : State) (g : Group) (iss : Issue) (b : Block) (pfx : List Nat) (q : Seq) : Option Nat :=
  let n := q.npfx
  let js := match q.pfx.rep with
    | some (c, _) => if iss.repPass = 0 then List.range c else [iss.repPass]
    | none => [0]
  let nlev := match s.launchOf g with
    | some l => l.nlevel
    | none => 0
  let regs := js.filterMap (fun j => s.passIllegal g (iss.inPass b.word j) q.instr)
  let a := (s.slots g (iss.inPass b.word iss.repPass) q.instr).a
  match g.streamWide iss.mode iss.pfx pfx q.instr with
  | some k => some k
  | none =>
    if regs.contains false || elemBad q.instr (g.slotTag iss.mode iss.pfx .a a) || levelBad q.instr nlev then some n
    else if lastOnly q.instr && (decide (iss.next ≠ iss.following) || (isLoop q.instr && !b.hd.loop)) then some n
    else if regs.contains true then some (n + 1)
    else none

/-- The lowest offending unit of a sequence of which the words alone show that unit `k` offends (R110): a breach that they
do not show may stand in a lower one. -/
def State.lowestIllegal (s : State) (g : Group) (iss : Issue) (b : Block) (pfx ins : List Nat) (k : Nat) : Nat :=
  match ins with
  | [] => k
  | lo :: rest =>
    match roughInstr lo (rest.headD 0) with
    | none => k
    | some i =>
      let p := (goodPfx (acceptsOf lo (rest.headD 0)) {} 0 pfx).1
      match s.lateIllegal g { iss with pfx := p } b pfx ⟨p, pfx.length, i, 1⟩ with
      | some m => min m k
      | none => k

/-! ### Preparing an issue -/

/-- What comes of an issue slot: the issue in hand with its instruction, or no issue. -/
inductive Prepared where
  | issue (s : State) (i : Instr)
  | none (s : State)
  deriving DecidableEq, Repr

/-! ### Gathering lanes (R122) -/

/-- The piece of a group at the lowest declared level that is bound to CORE or larger (R122). -/
def State.gatherPiece (s : State) (g : Group) : Option Nat :=
  match s.launchOf g with
  | none => none
  | some l => (((List.range l.nlevel).drop 1).find? (fun k => decide (1 ≤ l.domain k))).bind g.pieceAt

/-- The format tags of the V registers that a group's lanes use in user mode. -/
def Group.userTags (g : Group) : Tbl Tag := g.vtag.filter (fun p => decide (p.1 < 128))

/-- Lanes of a group at the header of a block that may be gathered with some that stand there (R122): they stand together
with them, in user mode, in no repeat pass, and in no other gathering. -/
def Group.gatherable (g : Group) (gid : Nat) (b : Block) (loop : BitVec 16) (t : List Gathered) : List Nat :=
  allLanes.filter (fun i =>
    let l := g.lane i
    l.live && decide (l.mode = .user) && decide (l.addr.toNat = b.header) && decide (l.came ≠ .within) &&
      decide (l.m0.loop = loop) && decide (l.m0.rep = 0) && !t.any (fun e => e.gid == gid && e.lane == i))

/-- The other lanes of the core that may be gathered with lanes of a group at a header (R122). -/
def State.gatherOthers (s : State) (gid : Nat) (g : Group) (b : Block) (loop : BitVec 16) (t : List Gathered) :
    List (Nat × Nat) :=
  match s.gatherPiece g with
  | none => []
  | some pid => s.groups.flatMap (fun p =>
      if p.1 == gid || !p.2.resident || p.2.freed || p.2.core != g.core || p.2.launch != g.launch ||
        s.gatherPiece p.2 != some pid || p.2.userTags != g.userTags then []
      else (p.2.gatherable p.1 b loop t).map (fun i => (p.1, i)))

/-- Lanes that take a REGROUP header (R122): each leaves the gathering it was in, unless that gathering was made at this
header before the lane took it; and the core may gather the others with lanes that stand there, which the device decides
freely (DESIGN CHOICE, log entry 24) and which counts as event 8 (R337). -/
def State.regroup (s : State) (gid : Nat) (g : Group) (ls : List Nat) (b : Block) : State :=
  let t := (s.core g.core).regroup
  let here (e : Gathered) : Bool := e.gid == gid && ls.contains e.lane
  let late := (t.filter (fun e => here e && !e.taken)).map (·.lane)
  let t := (t.filter (fun e => !(here e && e.taken))).map (fun e => if here e then { e with taken := true } else e)
  let s := { s with cores := tblMod s.cores g.core (fun c => { c with regroup := t }) }
  let ls := ls.filter (fun i => !late.contains i)
  let l := g.lane (ls.headD 0)
  if ls.isEmpty || decide (l.mode ≠ .user) || decide (l.m0.rep ≠ 0) || (s.gatherPiece g).isNone then s
  else
    let cs := ls.map (fun i => (gid, i)) ++ s.gatherOthers gid g b l.m0.loop t
    let picked := ((List.range cs.length).filter (Config.gathers s.drawn)).filterMap (fun k => cs[k]?)
    let free := (List.range 32).filter (fun n => !t.any (fun e => e.ctx == g.ctx && e.slot == n))
    let new := (free.zip picked).map (fun p =>
      { ctx := g.ctx, slot := p.1, gid := p.2.1, lane := p.2.2, taken := p.2.1 == gid })
    ({ s with drawn := s.drawn + 1 }.modCore g.core (fun c => { c with regroup := t ++ new })).countEvent g.core 8 new.length

/-- Where the regrouping table of a core has put a virtual lane: physical context and slot (R122). -/
def Core.physical (c : Core) (gid lane : Nat) : Option (Nat × Nat) :=
  (c.regroup.find? (fun e => e.gid == gid && e.lane == lane)).map (fun e => (e.ctx, e.slot))

/-- The lanes take a header: gathering, block mark, loop pass, and the first unit of the body (R86, R122, R129, R395). -/
def State.takeHeader (s : State) (gid : Nat) (ls : List Nat) (b : Block) : State :=
  let s := match s.group gid with
    | some g => if b.hd.regroup then s.regroup gid g ls b else s
    | none => s
  s.modLanes gid ls (fun _ l =>
    let x := l.ms l.mode
    let loop := if b.hd.loop && decide (l.came = .back) then x.loop else 0
    let l := l.setMs l.mode { loop := loop, rep := x.rep, mark := BitVec.ofNat 10 (b.header / 8) }
    { l with addr := BitVec.ofNat 48 b.start, came := .within })

/-- The sequence at `a` for lanes that stand in a block: fetched, decoded, and checked as far as order 3 (R110). -/
def State.prepareSeq (s : State) (gid : Nat) (ls cs : List Nat) (b : Block) : Prepared :=
  match s.group gid with
  | none => .none s
  | some g =>
    let l := g.lane (ls.headD 0)
    let m := l.mode
    let a := l.addr.toNat
    match s.fetchSeq gid m b.stop a with
    | .error e => .none (s.fetchFault gid ls e)
    | .ok (s, pfx, ins) =>
      let ia := a + 4 * pfx.length
      let size := match ins with
        | lo :: _ => if lo % 4 = 2 then 8 else 4
        | [] => 4
      let past := if b.stop ≤ ia + size then b.following else ia + size
      let base : Issue :=
        { gid := gid, lanes := ls, considered := cs, mode := m, addr := a, iaddr := ia, header := b.header, next := past,
          following := b.following, pfx := {}, loopPass := (l.ms m).loop.toNat, repPass := (l.ms m).rep.toNat,
          stepD := 0, stepA := 0, stepB := 0, stepC := 0, stepT := 0 }
      let illegal (s : State) (n : Nat) : Prepared :=
        .none (s.trapAll base causeIllegal (BitVec.ofNat 64 (a + 4 * n)))
      match decodeSeq pfx ins with
      | .error .orphan => .none (s.trapAll base causeOrphan (BitVec.ofNat 64 b.stop))
      | .error (.illegal n) => illegal s (s.lowestIllegal g base b pfx ins n)
      | .ok q =>
        let iss := { base with pfx := q.pfx }
        match s.lateIllegal g iss b pfx q with
        | some n => illegal s n
        | none => .issue { s with issue := some (iss.inPass b.word iss.repPass) } q.instr

/-- Lanes of the choice that came by a trap return are framed (R346, R395): at a header, or in the block marked for their
mode, or they trap BAD_TARGET or take a fetch fault; then the slot takes no issue. -/
def State.frameReturns (s : State) (gid : Nat) (ls : List Nat) : State × Bool :=
  ls.foldl (fun (r : State × Bool) i =>
    match r.1.group gid with
    | none => r
    | some g =>
      let l := g.lane i
      if l.came ≠ .ret then r
      else match r.1.standOf gid l with
        | .error e => (r.1.fetchFault gid [i] e, false)
        | .ok (s, .lost left) =>
          let s := if left then s.modLane gid i Lane.leftBlock else s
          (s.trapHere gid [i] causeTarget l.addr.toNat, false)
        | .ok (s, .inside _) => (s.modLane gid i (fun l => { l with came := .within }), r.2)
        | .ok (s, .atHeader) => (s.modLane gid i (fun l => { l with came := .header }), r.2)) (s, true)

/-- A piece of a GANG level that the group lies in has another group off its core: none of its sub-pieces issues (R82). -/
def State.gangApart (s : State) (g : Group) : Bool :=
  match s.launchOf g with
  | none => false
  | some l => (List.range g.pieces.length).any (fun i => l.gang (i + 1) &&
      s.groups.any (fun p => !p.2.freed && !p.2.resident && p.2.launch == g.launch &&
        decide (p.2.pieces[i]? = g.pieces[i]?)))

/-- One issue slot of a group (R118): the lanes chosen take their header if they stand at one, and their sequence is made
ready to execute. -/
def State.prepare (s : State) (gid : Nat) : Prepared :=
  match s.group gid with
  | none => .none s
  | some g =>
    if !g.resident || g.freed || g.hostcall.waiting || s.overdue g || s.asleep g.core || s.exhausted g.leaf 0 || s.leafStopped g.leaf || s.gangApart g then .none s
    else
      let s := s.frameHeaders gid
      let (s, cs) := s.considered gid ((s.group gid).getD g)
      match s.group gid with
      | none => .none s
      | some g =>
        let (s, ok) := s.frameReturns gid (g.choose cs)
        match s.group gid with
        | none => .none s
        | some g =>
        let ls := g.sameBlock (g.choose cs)
        match (if ok then ls else []) with
        | [] => .none { s with issue := none }
        | i :: _ =>
          let l := g.lane i
          match s.standOf gid l with
          | .error e => .none (s.fetchFault gid ls e)
          | .ok (s, .lost _) => .none (s.trapHere gid ls causeTarget l.addr.toNat)
          | .ok (s, .inside b) => s.prepareSeq gid ls cs b
          | .ok (s, .atHeader) =>
            match s.headerAt gid l.mode l.addr.toNat with
            | .error e => .none (s.fetchFault gid ls e)
            | .ok (s, .notHeader) => .none (s.trapHere gid ls causeTarget l.addr.toNat)
            | .ok (s, .malformed) => .none (s.trapHere gid ls causeIllegal l.addr.toNat)
            | .ok (s, .block b) => (s.takeHeader gid ls b).prepareSeq gid ls cs b

end Sys2Proof.Machine
end

