-- ==== Sys2Proof/Machine/Control.lean ====
section
/-!
DEFINITION. The control class, opcodes 0x00 to 0x0F and 0x10: `nop`, branches and calls with the check of their targets,
`exit`, `yield`, `wait` with the errors it delivers, `loop`, `trigger`, task slots, and ring words (R113, R128, R132 to
R141, R307, R394).
-/

namespace Sys2Proof.Machine
open Sys2Proof

/-! ### Branches -/

/-- One lane branches to a target (R93, R133, R396): a target that cannot be fetched gives the fetch fault, and one that is
no header traps BAD_TARGET, at the branch. -/
def State.branchLane (s : State) (c : Ctx) (i : Nat) (t : BitVec 48) : State × LaneEnd :=
  let v := BitVec.ofNat 64 t.toNat
  match s.fetch c.gid c.m (t.toNat / 4 * 4) with
  | .ok (s, u) => (s, if u % 4 = 3 && t.toNat % 8 = 0 then .goto t else .trap causeTarget v)
  | .error e =>
    match e.fault with
    | .access => (s, .trap causeAccess v)
    | .poison p =>
      let s := match s.group c.gid with
        | some g => s.meet g.launch g.leaf (.sys p)
        | none => s
      (s, .trap causePoison v)
    | .page st p =>
      match s.parkPage c.gid i c.m st p { x := true } v with
      | (s, true) => (s, .stay)
      | (_, false) => (s, .trap causePage v)
    | .busy => (s, .stay)

/-- Lanes branch to their targets; the ends of those lanes, in order. -/
def State.branchLanes (s : State) (c : Ctx) : List (Nat × BitVec 48) → State × List (Nat × LaneEnd)
  | [] => (s, [])
  | (i, t) :: r =>
    let (s, e) := s.branchLane c i t
    let (s, es) := s.branchLanes c r
    (s, (i, e) :: es)

/-- The target of a branch with an offset (R93). -/
def Ctx.target (c : Ctx) (b : Imm8) : BitVec 48 := BitVec.ofInt 48 (c.iss.header + sext8 b * 8)

/-- A branch of some guard-active lanes, with the return address in D when `link` (R132, R133). A lane that does not
reach its target writes nothing. -/
def branchEntry (ok : List Tag) (link : Bool) (lanes : Ctx → Group → List (Nat × BitVec 48)) : Entry where
  ok _ _ _ sl := if sl = .a then ok else []
  body c s g :=
    let (s, ends) := s.branchLanes c (lanes c g)
    let gone := ends.filter (fun p => match p.2 with
      | .goto _ => true
      | _ => false)
    let s := if link then s.putResults c (gone.map (fun p => (p.1, BitVec.ofNat 64 c.iss.following))) else s
    .done s ends (if link then some .n64 else none) []

/-- Every guard-active lane to the target of an offset. -/
def allTo (b : Imm8) (c : Ctx) (_ : Group) : List (Nat × BitVec 48) := c.active.map (fun i => (i, c.target b))
/-- Every guard-active lane to the address in its own D[a] (R133). -/
def allOwn (c : Ctx) (g : Group) : List (Nat × BitVec 48) :=
  c.active.map (fun i => (i, BitVec.ofNat 48 (c.a64 g i).toNat))

/-- Every guard-active lane when a condition over them holds (R132). -/
def allIf (cond : List Bool → Bool) (b : Imm8) (c : Ctx) (g : Group) : List (Nat × BitVec 48) :=
  if cond (c.active.map (fun i => g.pGet c.o.a.num i)) then allTo b c g else []

/-- `nop` (R113). -/
def execNop (x : Ext) (s : State) : Out := serve (.nop x) s { body := fun _ s _ => .done s [] none [] }

/-- `bra` (R132). -/
def execBra (b : Imm8) (x : Ext) (s : State) : Out := serve (.bra b x) s (branchEntry [] false (allTo b))

/-- `jmp` (R133). -/
def execJmp (a : DReg) (x : Ext) (s : State) : Out := serve (.jmp a x) s (branchEntry [.n64, .raw] false allOwn)

/-- `call` (R133). -/
def execCall (d : DReg) (b : Imm8) (x : Ext) (s : State) : Out :=
  serve (.call d b x) s (branchEntry [] true (allTo b))

/-- `callx` (R133). -/
def execCallx (d a : DReg) (x : Ext) (s : State) : Out :=
  serve (.callx d a x) s (branchEntry [.n64, .raw] true allOwn)

/-- `brany` (R132). -/
def execBrany (a : PReg) (b : Imm8) (x : Ext) (s : State) : Out :=
  serve (.brany a b x) s (branchEntry [] false (allIf (fun l => l.any id) b))

/-- `brall` (R132). -/
def execBrall (a : PReg) (b : Imm8) (x : Ext) (s : State) : Out :=
  serve (.brall a b x) s (branchEntry [] false (allIf (fun l => l.all id) b))

/-! ### Exit, yield, loop -/

/-- `exit` (R134). -/
def execExit (x : Ext) (s : State) : Out :=
  serve (.exit x) s
    { body := fun c s _ =>
        .done (c.active.foldl (fun s i => s.exitLane c.gid i) s) (c.active.map (fun i => (i, .stay))) none [] }

/-- `yield` (R135). -/
def execYield (x : Ext) (s : State) : Out :=
  serve (.yield x) s
    { body := fun c s _ => .done (s.modLanes c.gid c.active (fun _ l => { l with yielded := true })) [] none [] }

/-- The end of a loop pass (R138). -/
def loopEntry (count : Ctx → Group → Nat) : Entry where
  body c s g :=
    .done s (c.iss.lanes.map (fun i => (i, if c.iss.loopPass + 1 < count c g then .back else .past))) none []

/-- `loop` with an immediate count (R138). -/
def execLoop (n : LoopCount) (s : State) : Out :=
  serve (.loop n) s (loopEntry (fun _ _ => match n with
    | .short k => k.toNat
    | .long k => k.toNat + 1))

/-- `loop` with a K count: 0 means 65,536 (R138). -/
def execLoopK (b : KReg) (x : Bool) (s : State) : Out :=
  serve (.loopK b x) s (loopEntry (fun c g =>
    let n := (c.kB g).toNat % 65536
    if n = 0 then 65536 else n))

/-! ### wait -/

/-- A limit of `wait` holds (R137). -/
def limitMet (l n : Nat) : Bool := l == 15 || decide (n ≤ l)

/-- The pending error a `wait` with these limits delivers, and the group without it (R394). -/
def Group.deliver (g : Group) (st cp tx : Nat) : Option (PendErr × Group) :=
  match g.pendST, g.pendCP, g.pendTX with
  | some e, cpE, txE =>
    if st ≤ 14 then some (e, { g with pendST := none })
    else match cpE, txE with
      | some e, t => if cp ≤ 14 then some (e, { g with pendCP := none })
        else match t with
          | some e => if tx ≤ 14 then some (e, { g with pendTX := none }) else none
          | none => none
      | none, some e => if tx ≤ 14 then some (e, { g with pendTX := none }) else none
      | none, none => none
  | none, some e, t =>
    if cp ≤ 14 then some (e, { g with pendCP := none })
    else match t with
      | some e => if tx ≤ 14 then some (e, { g with pendTX := none }) else none
      | none => none
  | none, none, some e => if tx ≤ 14 then some (e, { g with pendTX := none }) else none
  | none, none, none => none

/-- `wait` (R137, R307, R394). -/
def waitEntry (ur tx cp st ld : Nat) : Entry where
  body c s g :=
    if !(limitMet ur (g.count .ur) && limitMet tx (g.count .tx) && limitMet cp (g.count .cp) &&
        limitMet st (g.count .st) && limitMet ld (g.count .ld)) then .blocked
    else match g.deliver st cp tx with
      | some (e, _) =>
        let s := s.modGroup c.gid (fun h => match h.deliver st cp tx with
          | some (_, h) => h
          | none => h)
        .done s (c.iss.lanes.map (fun i => (i, .trap e.cause e.xval))) none []
      | none =>
        if ur = 0 then
          let fl := g.remote
          let s := s.modGroup c.gid (fun h =>
            { c.iss.lanes.foldl (fun h i => h.modLane i (fun l => l.raise fl)) h with remote := 0 })
          if fpTraps (s.trapFlags g) fl then .done s (c.iss.lanes.map (fun i => (i, .trap causeFP (fpVal fl)))) none []
          else .done s [] none []
        else .done s [] none []

/-- `wait` (R137). -/
def execWait (ur tx cp st ld : BitVec 4) (x : Bool) (s : State) : Out :=
  serve (.wait ur tx cp st ld x) s (waitEntry ur.toNat tx.toNat cp.toNat st.toNat ld.toNat)

/-! ### trigger and task slots -/

/-- `trigger` (R136): one operation in ST for the issue, with the writes ordered before it (R286). -/
def execTrigger (x : Ext) (s : State) : Out :=
  serve (.trigger x) s
    { cls := some .st,
      body := fun c s g =>
        .done (s.addOp c.gid .st (.trigger c.active (c.active.flatMap (fun i => s.laneOwn c.gid i) ++ g.fwaited)))
          [] none [] }

/-- TASKRING and TASKCAP of a launch (R15). -/
def Launch.taskRing (l : Launch) : Nat := fieldAt l.record 0x50 8
def Launch.taskCap (l : Launch) : Nat := fieldAt l.record 0x58 4

/-- The lowest number from `n` on that a table does not list. -/
def firstFree {α : Type} : Tbl α → Nat → Nat
  | [], n => n
  | (j, _) :: t, n => if j = n then firstFree t (n + 1) else n

/-- Lanes take free task slots in order (R139): the launch, and each lane's slot address or 0. -/
def takeSlots (gid : Nat) (l : Launch) : List Nat → Launch × List (Nat × DWord)
  | [] => (l, [])
  | i :: is =>
    let n := firstFree l.tasks 0
    if l.taskRing = 0 || l.taskCap ≤ n then
      let (l, r) := takeSlots gid l is
      (l, (i, 0) :: r)
    else
      let (l, r) := takeSlots gid { l with tasks := tblSet l.tasks n (.reserved gid i) } is
      (l, (i, BitVec.ofNat 64 (l.taskRing + 64 * n)) :: r)

/-- `tres` (R139). -/
def execTres (d : DReg) (x : Ext) (s : State) : Out :=
  serve (.tres d x) s
    { body := fun c s g =>
        match s.launchOf g with
        | none => .done (s.putResults c (c.active.map (fun i => (i, 0)))) [] (some .n64) []
        | some l =>
          let (l, r) := takeSlots c.gid l c.active
          .done ((s.modLaunch g.launch (fun _ => l)).putResults c r) [] (some .n64) [] }

/-- The slot number at an address of the task ring, if the lane has reserved it (R140). -/
def Launch.ownSlot (l : Launch) (gid i : Nat) (a : Nat) : Option Nat :=
  let n := (a - l.taskRing) / 64
  if a < l.taskRing || (a - l.taskRing) % 64 ≠ 0 then none
  else match tblFind l.tasks n with
    | some (.reserved g j) => if g = gid ∧ j = i then some n else none
    | _ => none

/-- `spawn` (R140): the slots of the lanes that hold them are handed over and counted; the others trap ACCESS. A spawn that
would take the spawn-tree counter above its limit stops the launch (R48). -/
def spawnEntry : Entry where
  ok := addressOk
  cls := some .st
  body c s g :=
    match s.launchOf g with
    | none => .done s (c.active.map (fun i => (i, .trap causeAccess (BitVec.ofNat 64 ((c.a64 g i).toNat % 2 ^ 48))))) none []
    | some l =>
      let rs := c.active.map (fun i =>
        let a := (c.a64 g i).toNat % 2 ^ 48
        (i, a, l.ownSlot c.gid i a))
      let good := rs.filter (fun r => r.2.2.isSome)
      if 0xFFFFFFFF < l.counter + good.length then .done (s.stopLaunch g.launch 0x302) [] none []
      else
      let s := s.modLaunch g.launch (fun l =>
        { l with tasks := good.foldl (fun t r => tblSet t (r.2.2.getD 0) .spawned) l.tasks,
                 counter := l.counter + good.length })
      let writes := good.flatMap (fun r => s.laneOwn c.gid r.1)
      let s := if good.isEmpty then s.addEmpty c.gid .st
        else s.addOp c.gid .st (.spawn (good.map (fun r => BitVec.ofNat 64 r.2.1)) writes)
      .done s ((rs.filter (fun r => r.2.2.isNone)).map (fun r => (r.1, .trap causeAccess (BitVec.ofNat 64 r.2.1)))) none []

/-- `spawn` (R140). -/
def execSpawn (a : DReg) (x : Ext) (s : State) : Out := serve (.spawn a x) s spawnEntry

/-! ### Ring words -/

/-- Fields of a ring word (R128). -/
def ringBase (w : DWord) : Nat := w.toNat % 2 ^ 32
def ringDepth (w : DWord) : Nat := w.toNat / 2 ^ 32 % 256
def ringIndex (w : DWord) : Nat := w.toNat / 2 ^ 40 % 256
def ringPhase (w : DWord) : Nat := w.toNat / 2 ^ 48 % 2
/-- A ring word that traps BARRIER (R128). -/
def ringBad (w : DWord) : Bool :=
  w.toNat / 2 ^ 49 != 0 || ringDepth w == 0 || decide (64 < ringDepth w) || decide (ringDepth w ≤ ringIndex w)

/-- The next word of a ring (R141). -/
def ringNext (w : DWord) : DWord :=
  let wraps := ringIndex w + 1 == ringDepth w
  let i := if wraps then 0 else ringIndex w + 1
  let p := if wraps then 1 - ringPhase w else ringPhase w
  BitVec.ofNat 64 (ringBase w + ringDepth w * 2 ^ 32 + i * 2 ^ 40 + p * 2 ^ 48)

/-- The handle and phase of the current stage (R141). -/
def ringHandle (w : DWord) : DWord :=
  BitVec.ofNat 64 ((ringBase w + ringIndex w) % 2 ^ 32 + ringPhase w * 2 ^ 32)

/-- A ring instruction: the word of a K register checked, and a function of it written to K[d] (R141). -/
def ringEntry (f : DWord → DWord) (read : Ctx → Nat) : Entry where
  body c s g :=
    let w := g.kGet (read c)
    if ringBad w then trapActive c s causeBarrier w
    else .done (s.modGroup c.gid (fun h => h.kPut c.o.d.num (f w))) [] none []

/-- `ring.adv` (R141). -/
def execRingAdv (d : KReg) (x : Bool) (s : State) : Out := serve (.ringAdv d x) s (ringEntry ringNext (fun c => c.o.d.num))

/-- `ring.cur` (R141). -/
def execRingCur (d a : KReg) (x : Bool) (s : State) : Out :=
  serve (.ringCur d a x) s (ringEntry ringHandle (fun c => c.o.a.num))

end Sys2Proof.Machine
end

