-- ==== Sys2Proof/Machine/System.lean ====
section
/-!
DEFINITION. The system class, opcodes 0xE8 to 0xF5 (R336, R343 to R347): system calls, breakpoints, host calls, returns
from traps, control registers, state words, invalidations, probes, counters, halts and error injection; and the events of
host calls (R343), page requests (R339, R341), walks and invalidations (R177 to R179).
-/

namespace Sys2Proof.Machine
open Sys2Proof

/-! ### Calls and returns -/

/-- Every guard-active lane traps and resumes past the sequence (R345). -/
def callEntry (cause : BitVec 8) (v : Ctx → Nat) : Entry where
  body c s _ := .done s (c.active.map (fun i => (i, .trapPast cause (BitVec.ofNat 64 (v c))))) none []

/-- `sys` (R345). -/
def execSys (b : Imm8) (x : Ext) (s : State) : Out := serve (.sys b x) s (callEntry causeSyscall (fun _ => b.toNat))

/-- `brk` (R345, R333). -/
def execBrk (b : Imm8) (x : Ext) (s : State) : Out :=
  serve (.brk b x) s (callEntry causeBreak (fun c => c.iss.addr + b.toNat * 2 ^ 56))

/-- A mask of lanes. -/
def lanesMask (ls : List Nat) : LaneMask := BitVec.ofNat 32 (ls.foldl (fun n i => n + 2 ^ i) 0)

/-- A ring of an interface is full. -/
def ringFull (tail head ctl : BitVec 32) : Bool := decide (ringSize ctl ≤ (tail - head).toNat)

/-- `hcall` (R343). -/
def hcallEntry (imm : Imm8) : Entry where
  cls := some .st
  body c s g :=
    let v := s.vi g.vi
    if c.active.isEmpty then .done (s.addEmpty c.gid .st) [] none []
    else if !ringOn v.hctl then trapActive c s causeHostcall (BitVec.ofNat 64 imm.toNat)
    else if ringFull v.htail v.hhead v.hctl then .blocked
    else
      let kd := c.o.d.num
      let parked := allLanes.filter (fun i => (g.lane i).live)
      let args := (List.range 4).map (fun j => g.kGet (kd + j))
      let s := s.modLanes c.gid parked (fun _ l => { l with park := .hostcall })
      let s := s.modGroup c.gid (fun g =>
        { g with hostcall := { waiting := true, seq := 0, kd := BitVec.ofNat 6 kd, lanes := lanesMask parked } })
      .done (s.addOp c.gid .st (.hcall imm c.m (lanesMask c.active) args kd (s.ownWrites c.gid))) [] none []

/-- `hcall` (R343). -/
def execHcall (d : KReg) (b : Imm8) (x : Ext) (s : State) : Out := serve (.hcall d b x) s (hcallEntry b)

/-- `sret` and `hret` (R346): each guard-active lane returns to the word saved for mode `t`. -/
def retEntry (t : Mode) (word : Lane → DWord) : Entry where
  mode := t
  body c s g :=
    let bad := c.active.filter (fun i => decide (t.num < (word (g.lane i)).toNat / 2 ^ 48 % 4))
    let good := c.active.filter (fun i => !decide (t.num < (word (g.lane i)).toNat / 2 ^ 48 % 4))
    .done (s.modLanes c.gid good (fun _ l => l.leave (word l)))
      (bad.map (fun i => (i, .trap causePriv (word (g.lane i)))) ++ good.map (fun i => (i, .stay))) none []

/-- `sret` (R346). -/
def execSret (x : Ext) (s : State) : Out := serve (.sret x) s (retEntry .supervisor Lane.xpcS)

/-- `hret` (R346). -/
def execHret (x : Ext) (s : State) : Out := serve (.hret x) s (retEntry .hypervisor Lane.xpcH)

/-! ### Control registers -/

/-- The lowest mode that may name a control register (R336). -/
def ctlMode (n : Nat) : Mode := if (4 ≤ n ∧ n ≤ 6) ∨ n = 0x11 ∨ n = 0x14 then .hypervisor else .supervisor

/-- A control register is a per-lane one (R336). -/
def ctlPerLane (n : Nat) : Bool := decide (n ≤ 6)

/-- A control register as a lane of a group reads it (R336). -/
def State.ctlRead (s : State) (g : Group) (n i : Nat) : DWord :=
  let l := g.lane i
  if n = 0 then l.xpcS
  else if n = 1 then BitVec.ofNat 64 l.xcauseS.toNat
  else if n = 2 then l.xvalS
  else if n = 4 then l.xpcH
  else if n = 5 then BitVec.ofNat 64 l.xcauseH.toNat
  else if n = 6 then l.xvalH
  else if n = 0x10 then g.tvecS
  else if n = 0x11 then g.tvecH
  else if n = 0x12 then g.trapen
  else if n = 0x13 then (s.vi g.vi).sroot
  else if n = 0x14 then BitVec.ofNat 64 (s.part g.leaf).s2root
  else if n = 0x15 then BitVec.ofNat 64 (g.vi * 2 ^ 16 + g.leaf)
  else if n = 0x16 then BitVec.ofNat 64 (g.core * 2 ^ 7 + g.ctx)
  else tblGet (s.core g.core).evsel 0 (n % 8)

/-- A per-lane control register written (R336). -/
def Lane.ctlWrite (l : Lane) (n : Nat) (v : DWord) : Lane :=
  if n = 0 then { l with xpcS := v }
  else if n = 1 then { l with xcauseS := BitVec.ofNat 8 v.toNat }
  else if n = 2 then { l with xvalS := v }
  else if n = 4 then { l with xpcH := v }
  else if n = 5 then { l with xcauseH := BitVec.ofNat 8 v.toNat }
  else { l with xvalH := v }

/-- A handler address keeps bits [47:3] (R336). -/
def handlerBits (v : DWord) : DWord := BitVec.ofNat 64 (v.toNat % 2 ^ 48 / 8 * 8)

/-- An event selector keeps EN and EVENT; a code not listed is stored as 0 (R336, R337). -/
def selectorBits (v : DWord) : DWord :=
  BitVec.ofNat 64 (v.toNat / 256 % 2 * 256 + if v.toNat % 256 ≤ 0x0A then v.toNat % 256 else 0)

/-- A uniform or per-core control register written; a read-only one does not change (R336). -/
def State.ctlWrite (s : State) (gid : Nat) (g : Group) (n : Nat) (v : DWord) : State :=
  if n = 0x10 then s.modGroup gid (fun g => { g with tvecS := handlerBits v })
  else if n = 0x11 then s.modGroup gid (fun g => { g with tvecH := handlerBits v })
  else if n = 0x12 then s.modGroup gid (fun g => { g with trapen := v &&& 1 })
  else if 0x18 ≤ n then s.modCore g.core (fun c => { c with evsel := tblPut c.evsel 0 (n % 8) (selectorBits v) })
  else s

/-- `ctlrd` (R336, R347). -/
def ctlrdEntry (n : Nat) : Entry where
  mode := .supervisor
  body c s g :=
    if c.m.num < (ctlMode n).num then trapActive c s causePriv (BitVec.ofNat 64 n) (some .n64)
    else .done (s.putResults c (c.active.map (fun i => (i, s.ctlRead g n i)))) [] (some .n64) []

/-- `ctlrd` (R347). -/
def execCtlrd (d : DReg) (b : Imm8) (x : Ext) (s : State) : Out := serve (.ctlrd d b x) s (ctlrdEntry b.toNat)

/-- `ctlwr` (R336, R347). -/
def ctlwrEntry (n : Nat) : Entry where
  mode := .supervisor
  body c s g :=
    if c.m.num < (ctlMode n).num then trapActive c s causePriv (BitVec.ofNat 64 n)
    else if ctlPerLane n then .done (s.modLanes c.gid c.active (fun i l => l.ctlWrite n (c.a64 g i))) [] none []
    else match c.lowest with
      | none => .done s [] none []
      | some i => .done (s.ctlWrite c.gid g n (c.a64 g i)) [] none []

/-- `ctlwr` (R347). -/
def execCtlwr (a : DReg) (b : Imm8) (x : Ext) (s : State) : Out := serve (.ctlwr a b x) s (ctlwrEntry b.toNat)

/-- The state word of a lane as `lswrd` reads it (R347, R142). -/
def Ctx.laneWord (c : Ctx) (g : Group) (j : Nat) : DWord :=
  if c.iss.lanes.contains j then { g.lane j with addr := BitVec.ofNat 48 c.iss.addr }.word else (g.lane j).word

/-- `lswrd` (R347). -/
def lswrdEntry : Entry where
  mode := .supervisor
  ok _ _ _ sl := if sl = .a then [.i32, .n32] else []
  body := pureLanes (fun _ => some .n64) (fun c g i => c.laneWord g ((c.a32 g i).toNat % 32))

/-- `lswrd` (R347). -/
def execLswrd (d : DReg) (a : VReg) (x : Ext) (s : State) : Out := serve (.lswrd d a x) s lswrdEntry

/-! ### Translation, counters, halts, errors -/

/-- Bytes of the page size of `tinv`, 0 for all addresses (R347). -/
def invSize (w : DWord) : Nat := match w.toNat / 8 % 4 with
  | 0 => 2 ^ 12
  | 1 => 2 ^ 21
  | 2 => 2 ^ 30
  | _ => 0

/-- The page a `tinv` word names. -/
def invPage (w : DWord) : Nat := w.toNat / 4096 * 4096

/-- A breach of the `tinv` word besides its privilege (R347). -/
def invBad (w : DWord) : Bool :=
  w.toNat / 2 % 4 == 0 || w.toNat % 2 != 0 || w.toNat / 32 % 128 != 0 ||
    (invSize w != 0 && invPage w % invSize w != 0)

/-- `tinv` (R347, R177). -/
def tinvEntry : Entry where
  mode := .supervisor
  cls := some .st
  body c s g :=
    let w := c.kB g
    if c.active.isEmpty then .done (s.addEmpty c.gid .st) [] none []
    else if 2 ≤ w.toNat / 2 % 4 && c.m ≠ .hypervisor then trapActive c s causePriv w
    else if invBad w then trapActive c s causeAccess w
    else
      let x : Inval := { gid := some c.gid, op := g.nextOp, leaf := g.leaf, vi := g.vi, stage1 := bitAt w.toNat 1,
                         stage2 := bitAt w.toNat 2, size := invSize w, page := invPage w, reached := [], writes := [],
                         loads := [] }
      let iid := s.nextId
      .done (({ s.bump with invals := tblSet s.invals iid x }).addOp c.gid .st (.tinv iid)) [] none []

/-- `tinv` (R347). -/
def execTinv (b : KReg) (x : Ext) (s : State) : Out := serve (.tinv b x) s tinvEntry

/-- What `tprobe` answers for an address (R347). -/
def State.probe (s : State) (c : Ctx) (g : Group) (i : Nat) (a : DWord) : DWord :=
  let kind (k : Nat) : DWord := BitVec.ofNat 64 (k * 2 ^ 60 + a.toNat % 2 ^ 60)
  let fail (cause : BitVec 8) : DWord := BitVec.ofNat 64 (2 ^ 63 + cause.toNat)
  match (s.checkLane c.gid g c.m i a 1 1 { r := true }).1 with
  | .trap cause => fail cause
  | .page _ _ => fail causePage
  | .busy => 0
  | .ok l => match aperture a with
    | some (.local_ _) => kind 1
    | some (.tile false _ _) => kind 2
    | some (.tile true _ _) => kind 3
    | some (.global va) =>
      if c.m = .hypervisor then match l with
        | .sys p => BitVec.ofNat 64 p
        | _ => 0
      else match s.stage1 (g.xlate c.m) { r := true } va with
        | .ok (p, _) => BitVec.ofNat 64 p
        | .error _ => 0
    | none => 0

/-- `tprobe` (R347): it waits while the translation budget stalls a walk (R62). -/
def tprobeEntry : Entry where
  mode := .supervisor
  body c s g :=
    if c.active.any (fun i => (s.checkLane c.gid g c.m i (c.a64 g i) 1 1 { r := true }).1 = .busy) then .blocked
    else .done (s.putResults c (c.active.map (fun i => (i, s.probe c g i (c.a64 g i))))) [] (some .n64) []

/-- `tprobe` (R347). -/
def execTprobe (d a : DReg) (x : Ext) (s : State) : Out := serve (.tprobe d a x) s tprobeEntry

/-- `evclr` (R347): the event counters of the core that a word selects become zero. -/
def evclrEntry : Entry where
  mode := .supervisor
  body c s g :=
    let w := (c.kB g).toNat
    if c.active.isEmpty then .done s [] none []
    else .done (s.modCore g.core (fun k =>
      { k with evc := (List.range 8).foldl (fun t n => if bitAt w n then tblErase t n else t) k.evc })) [] none []

/-- `evclr` (R347). -/
def execEvclr (b : KReg) (x : Ext) (s : State) : Out := serve (.evclr b x) s evclrEntry

/-- `errrd` (R347): a count of the leaf. -/
def errrdEntry (k : Nat) : Entry where
  mode := .supervisor
  body c s g :=
    let v := tblGet (s.part g.leaf).errs 0 k
    .done (s.putResults c (c.active.map (fun i => (i, v)))) [] (some .n64) []

/-- `errrd` (R347). -/
def execErrrd (d : DReg) (b : BitVec 3) (x : Ext) (s : State) : Out := serve (.errrd d b x) s (errrdEntry b.toNat)

/-- `lhalt` (R347, R334). -/
def lhaltEntry : Entry where
  mode := .hypervisor
  body c s _ :=
    .done (c.active.foldl (fun s i => s.haltLane c.gid i 0 0 (BitVec.ofNat 48 c.iss.addr)) s)
      (c.active.map (fun i => (i, .stay))) none []

/-- `lhalt` (R347). -/
def execLhalt (x : Ext) (s : State) : Out := serve (.lhalt x) s lhaltEntry

/-- A line of the package's own memory is marked for its next read (R347); any other place is ignored. -/
def State.inject (s : State) (k : Nat) (l : Loc) : State :=
  match l with
  | .sys a =>
    if 0x18000000000 ≤ a then s
    else if k = 0 then { s with softNext := if s.softNext.contains (a / 128) then s.softNext else a / 128 :: s.softNext }
    else { s with hardNext := if s.hardNext.contains (a / 128) then s.hardNext else a / 128 :: s.hardNext }
  | _ => s

/-- `einj` (R347): faults are those of a store of one byte. -/
def einjEntry (k : Nat) : Entry where
  mode := .hypervisor
  body c s g :=
    let (s, ends, oks) := s.accessLanes c g 1 1 { w := true } (c.active.map (fun i => (i, c.a64 g i)))
    .done (oks.foldl (fun s p => s.inject k p.2.1) s) ends none []

/-- `einj` (R347). -/
def execEinj (a : DReg) (b : BitVec 1) (x : Ext) (s : State) : Out := serve (.einj a b x) s (einjEntry b.toNat)

/-! ### Host calls -/

/-- The record of a host call, bytes 0x00 to 0x37 (R342). -/
def hostcallRecord (seq : BitVec 32) (imm : BitVec 8) (mode : Mode) (gid : Nat) (lanes : LaneMask) (args : List DWord) :
    List Byte :=
  leBytes 4 seq.toNat ++ [imm, BitVec.ofNat 8 mode.num] ++ leBytes 2 0 ++ leBytes 8 gid ++ leBytes 4 lanes.toNat ++
    leBytes 4 0 ++ args.flatMap (fun a => leBytes 8 a.toNat)

/-- The address of record `n` of an interface's host-call ring (R340). -/
def VI.hostcallSlot (v : VI) (n : BitVec 32) : Nat := v.hbase.toNat / 64 * 64 + n.toNat % ringSize v.hctl * 64

/-- HOSTCALL_RECORD_WRITE (R343): the record of a group's host call is written once its earlier writes have performed at
HOST. -/
def State.hostcallWrite (s : State) (gid : Nat) : State :=
  match s.awake gid with
  | none => s
  | some g =>
    match g.firstOp (fun o => match o.kind with
      | .hcall _ _ _ _ _ ws => ws.all (fun w => s.performed w 6)
      | _ => false) with
    | none => s
    | some o => match o.kind with
      | .hcall imm mode lanes args _ _ =>
        let v := s.vi g.vi
        if ringFull v.htail v.hhead v.hctl || s.exhausted g.leaf 5 then s
        else match s.frontWrite g.leaf g.vi g.launch (v.hostcallSlot v.htail)
            (hostcallRecord v.htail imm mode gid lanes args) with
        | .error _ => s
        | .ok (s, _) =>
          let s := s.modVI g.vi (fun v => ({ v with htail := v.htail + 1 }).send (ringVec v.hctl))
          let s := s.modGroup gid (fun g => { g with hostcall := { g.hostcall with seq := v.htail } })
          s.endOp gid o.id
      | _ => s

/-- A group waits for the completion of the host call `seq` of an interface. -/
def Group.awaitsCall (g : Group) (vi : Nat) (seq : BitVec 32) : Bool :=
  g.hostcall.waiting && g.vi == vi && g.hostcall.seq == seq && !g.ops.any (fun o => match o.kind with
    | .hcall _ _ _ _ _ _ => !o.ended
    | _ => false)

/-- The host call that a group awaits is complete (R343): RESULT goes to K[d], and the lanes that the call parked go on. -/
def State.callDone (s : State) (gid : Nat) (g : Group) : State :=
  match s.frontLoad g.leaf g.vi g.launch ((s.vi g.vi).hostcallSlot g.hostcall.seq + 0x38) 8 with
  | (s, none) => s.modGroup gid (fun g => { g with hostcall := { g.hostcall with held := false } })
  | (s, some bs) =>
    let s := s.modGroup gid (fun g => { g.kPut g.hostcall.kd.toNat (BitVec.ofNat 64 (leNat bs)) with hostcall := {} })
    s.modLanes gid (allLanes.filter (fun i => g.hostcall.lanes.getLsbD i)) (fun _ l =>
      if l.park = .hostcall then { l with park := .none } else l)

/-- HDONE_WRITE (R343): the call that awaits it is complete; for a group that is not resident, it is held until restore. -/
def State.hostDone (s : State) (vi : Nat) (seq : BitVec 32) : State :=
  let s := s.modVI vi (fun v => { v with hdone := seq })
  match s.groups.find? (fun p => p.2.awaitsCall vi seq) with
  | none => s
  | some (gid, g) =>
    if g.resident then s.callDone gid g
    else s.modGroup gid (fun g => { g with hostcall := { g.hostcall with held := true } })

/-- HOSTCALL_RECORD_WRITE (R343). -/
def execHostcallRecordWrite (gid : Nat) (s : State) : Out := .next (s.hostcallWrite gid)

/-- HDONE_WRITE (R343). -/
def execHdoneWrite (vi : Nat) (seq : BitVec 32) (s : State) : Out := .next (s.hostDone vi seq)

/-! ### Page requests -/

/-- An answer reaches a lane (R341, R354): it goes on, or traps PAGE; in a group that is not resident the answer is kept in
its parked-fault record. -/
def State.answerLane (s : State) (fail : Bool) (gid lane : Nat) : State :=
  match s.group gid with
  | none => s
  | some g =>
    let l := g.lane lane
    if l.park ≠ .page then s
    else if g.resident then
      let s := s.modLane gid lane (fun l => { l with park := .none, fault := 0 })
      if fail then (s.takeTrap gid lane causePage l.faultAddr l.addr).settle gid else s
    else s.modLane gid lane (fun l => { l with fault := l.fault ||| BitVec.ofNat 64 (2 ^ 36 + 2 ^ 35 * fail.toNat) })

/-- The address of the first byte of an operation that a page of a stage holds (R200). -/
def State.heldAt (s : State) (g : Group) (c : CopyOp) (stage page : Nat) : DWord :=
  let held (a : DWord) (n : Need) : Bool := match aperture a with
    | some (.global va) => match s.translate (g.xlate c.mode) n va with
      | .error (.page st p) => st == stage && p == page
      | _ => false
    | _ => false
  let addr (b : Nat) : Option DWord :=
    if c.done.contains b then none
    else if held (c.srcAt b) { r := true } then some (c.srcAt b)
    else if held (c.dstAt b) { w := true } then some (c.dstAt b)
    else none
  ((List.range c.total).findSome? addr).getD 0

/-- An answer reaches an operation that a page held (R200, R352): it goes on, or a fault ends it. A fabric operation, packet
or session takes notice at its next event. -/
def State.answerOp (s : State) (fail : Bool) (stage page gid op : Nat) : State :=
  let s' := if fail then { s with pageFails := (gid, op) :: s.pageFails } else s
  match s.group gid with
  | none => s'
  | some g => match g.op op with
    | none => s
    | some o => match o.kind.copy? with
      | none => s'
      | some c =>
        let err : Option PendErr :=
          if fail then some (o.err.getD { cause := causeAccess, xval := s.heldAt g c stage page }) else o.err
        s.modOp gid op (fun o =>
          { o with kind := o.kind.setCopy (fun c => { c with answered := c.suspended, ended := c.ended || fail }),
                   err := err })

/-- A page request is answered: everything attached to it learns the answer, and its entry frees (R341). -/
def State.answerPage (s : State) (rid : Nat) (fail : Bool) : State :=
  match tblFind s.pageReqs rid with
  | none => s
  | some r =>
    let s := { s with pageReqs := tblErase s.pageReqs rid }
    let s := r.lanes.foldl (fun s p => s.answerLane fail p.1 p.2) s
    r.ops.foldl (fun s p => s.answerOp fail r.stage r.page p.1 p.2) s

/-- PRRESP_WRITE (R341). -/
def State.pageResponse (s : State) (vi : Nat) (fail : Bool) (tag : BitVec 32) : State :=
  let s := s.modVI vi (fun v => { v with prresp := BitVec.ofNat 64 (tag.toNat + 2 ^ 32 * fail.toNat) })
  match s.pageReqs.find? (fun p => p.2.vi = vi && p.2.stage = 1 && p.2.tag = tag) with
  | some (rid, _) => s.answerPage rid fail
  | none => s

/-- The oldest fault of a leaf that waits for an entry. -/
def State.oldestWait (s : State) (leaf : Nat) : Option PageWait := s.pageWaits.find? (fun w => w.leaf = leaf)

/-- PAGE_REQUEST_POST (R339): the oldest unposted fault of its leaf is posted, when an entry is free; otherwise a request
of the group that waits for room in its ring is written to it. -/
def State.pagePost (s : State) (gid lane : Nat) : State :=
  match s.pageWaits.find? (fun w => w.gid = gid && w.lane = lane) with
  | none =>
    s.pageReqs.foldl (fun s p => if p.2.lanes.contains (gid, lane) && !p.2.written then s.writeRequest p.1 else s) s
  | some w =>
    if s.oldestWait w.leaf ≠ some w then s
    else match s.placeFault w w.fresh with
      | (_, none) => s
      | (s, some tag) =>
        let s := { s with pageWaits := s.pageWaits.erase w }
        if w.op.isSome then s
        else s.modLane gid lane (fun l => { l with fault := faultRecord (w.stage == 2) true tag })

/-- PRRESP_WRITE (R341). -/
def execPrrespWrite (vi : Nat) (fail : Bool) (tag : BitVec 32) (s : State) : Out := .next (s.pageResponse vi fail tag)

/-- PAGE_REQUEST_POST (R339). -/
def execPageRequestPost (gid lane : Nat) (s : State) : Out := .next (s.pagePost gid lane)

/-! ### Walks and invalidations -/

/-- A cached entry belongs to what an invalidation names (R177). -/
def Inval.covers (x : Inval) (e : TlbEntry) : Bool :=
  let span := 2 ^ (12 + 9 * e.level)
  let lo := e.input * span
  e.leaf == x.leaf && ((e.stage == 1 && x.stage1 && (e.vi == x.vi || x.vi == 0)) || (e.stage == 2 && x.stage2)) &&
    (x.size == 0 || (decide (lo < x.page + x.size) && decide (x.page < lo + span)))

/-- Two cached entries stand for the same table entry of a cluster. -/
def TlbEntry.same (x y : TlbEntry) : Bool :=
  x.cluster == y.cluster && x.leaf == y.leaf && x.stage == y.stage && x.level == y.level && x.input == y.input &&
    (x.stage == 2 || x.vi == y.vi)

/-- WALK_COMPLETE (R176, R178): a walk installs what it has read; a stale one starts again. -/
def State.walkComplete (s : State) (wid : Nat) : State :=
  match tblFind s.walks wid with
  | none => s
  | some w =>
    if s.asleep (w.cluster * 4) || (w.stale && s.exhausted w.leaf 5) then s
    else
      let s := { s with walks := tblErase s.walks wid }
      let x : Xlate := ⟨w.leaf, w.vi, some w.cluster, w.mode⟩
      if w.stale then
        match s.translate x {} w.addr with
        | .ok (p, es) => s.noteWalk x 0 w.addr es (some (p / 4096))
        | .error _ => s
      else { s with tlb := w.read ++ s.tlb.filter (fun e => !w.read.any (fun r => r.same e)) }

/-- Numbers of the writes that groups of a leaf on a cluster have in flight. -/
def State.clusterWrites (s : State) (leaf cluster : Nat) : List Nat :=
  (s.flight.filter (fun w => match w.core with
    | some c => clusterOf c == cluster && (match s.group w.gid with
        | some g => g.leaf == leaf
        | none => true)
    | none => false)).map (·.id)

/-- Unread loads of groups of a leaf on a cluster. -/
def State.clusterLoads (s : State) (leaf cluster : Nat) : List (Nat × Nat) :=
  s.groups.flatMap (fun p =>
    if p.2.leaf == leaf && clusterOf p.2.core == cluster then p.2.unread.map (fun o => (p.1, o)) else [])

/-- An access that was translated by a walk has not been made: a load of its page that has not been read, or a store to it that
has not left its store queue. -/
def State.walkInUse (s : State) (w : Walk) : Bool :=
  let here (g : Group) : Bool := g.leaf == w.leaf && clusterOf g.core == w.cluster
  let hits (l : Loc) : Bool := match l with
    | .sys a => decide (w.out = some (a / 4096))
    | _ => false
  s.groups.any (fun p => here p.2 && p.2.ops.any (fun o => o.kind.unread.any (fun l => hits l.1))) ||
    s.flight.any (fun x => x.level == 0 && hits x.place && (match s.group x.gid with
      | some g => here g
      | none => false))

/-- INVALIDATION_ARRIVAL (R177, R178): a cluster of the leaf drops what the invalidation names, and its walks that have
read such entries become stale. It comes after the accesses that such a walk has translated, so that none of them is made with
what a stale walk has read (DEDUCED, log entry 28). -/
def State.invalArrive (s : State) (iid cluster : Nat) : State :=
  match tblFind s.invals iid with
  | none => s
  | some x =>
    if x.reached.contains cluster || !(s.part x.leaf).clusters.getLsbD cluster || s.asleep (cluster * 4) ||
        s.walks.any (fun p => p.2.cluster == cluster && p.2.read.any x.covers && s.walkInUse p.2) then s
    else
      { s with
          tlb := s.tlb.filter (fun e => !(e.cluster == cluster && x.covers e)),
          walks := s.walks.map (fun p =>
            if p.2.cluster == cluster && p.2.read.any x.covers then (p.1, { p.2 with stale := true }) else p),
          invals := tblSet s.invals iid { x with
            reached := cluster :: x.reached, writes := x.writes ++ s.clusterWrites x.leaf cluster,
            loads := x.loads ++ s.clusterLoads x.leaf cluster } }

/-- A load has been read, or is gone. -/
def State.loadDone (s : State) (p : Nat × Nat) : Bool :=
  match s.group p.1 with
  | some g => !g.unread.contains p.2
  | none => true

/-- INVALIDATION_ACK (R179). -/
def State.invalAck (s : State) (iid : Nat) : State :=
  match tblFind s.invals iid with
  | none => s
  | some x =>
    if !(s.part x.leaf).clusterList.all (fun c => x.reached.contains c) ||
        s.walks.any (fun p => p.2.stale && p.2.leaf == x.leaf) ||
        !x.writes.all (fun w => s.performed w 6) || !x.loads.all s.loadDone then s
    else
      let s := { s with invals := tblErase s.invals iid }
      match x.gid with
      | some gid => s.endOp gid x.op
      | none => s

/-- WALK_COMPLETE (R178). -/
def execWalkComplete (wid : Nat) (s : State) : Out := .next (s.walkComplete wid)

/-- INVALIDATION_ARRIVAL (R177). -/
def execInvalidationArrival (iid cluster : Nat) (s : State) : Out := .next (s.invalArrive iid cluster)

/-- INVALIDATION_ACK (R179). -/
def execInvalidationAck (iid : Nat) (s : State) : Out := .next (s.invalAck iid)

end Sys2Proof.Machine
end

