-- ==== Sys2Proof/Machine/Transfers.lean ====
section
/-!
DEFINITION. COPY_BYTE_TRANSFER: one byte of an outstanding copy moved, whatever the copy is: `cp` (R198), `wbld` (R255),
`fwr` or `frd` (R317).
-/

namespace Sys2Proof.Machine
open Sys2Proof

/-- Bytes that a copy has moved. -/
def State.movedBy (s : State) (gid op : Nat) : Nat :=
  match s.group gid with
  | none => 0
  | some g => match g.op op with
    | none => 0
    | some o => match o.kind.copy? with
      | none => 0
      | some c => c.done.length

/-- A byte of a copy moved, when the copy may move it, the die's clock runs, and the copy budget of the leaf is not used up;
a byte that has moved counts against the budget (R198, R326, R62). Of a byte that has been moved, the credit (R199). -/
def State.transferByte (s : State) (gid op b : Nat) : State :=
  match s.awake gid with
  | none => s
  | some g => match g.op op with
    | none => s
    | some o => match o.kind.copy? with
      | none => s
      | some c =>
        if o.ended || !g.resident then s
        else if c.done.contains b then
          match o.kind with
          | .copy _ => s.creditLanded gid op c
          | .remoteCopy false _ _ _ _ => s.creditLanded gid op c
          | _ => s
        else if s.exhausted g.leaf 3 || !c.mayMove b then s
        else
          let t := match o.kind with
            | .copy _ => s.copyByte gid g op c b
            | .wbld region woff _ => s.wbldByte gid op region woff c b
            | .remoteCopy out d win off _ => s.farByte gid g op out d win off c b
            | _ => s
          if c.done.length < t.movedBy gid op then t.spend g.leaf 3 1 else t

/-- COPY_BYTE_TRANSFER (R198). -/
def execCopyByteTransfer (gid op byte : Nat) (s : State) : Out := .next (s.transferByte gid op byte)

end Sys2Proof.Machine
end

