-- ==== Sys2Proof/Machine/Registers.lean ====
section
/-!
DEFINITION. The registers of the virtual interfaces and what a write to each does (R39 to R42, R58, R318, R340), the
function-level reset (R38), posted writes of the host (R288), and the events that name the common register writes.
-/

namespace Sys2Proof.Machine
open Sys2Proof

/-! ### Bound interfaces -/

/-- Virtual functions 1 to 1,024 are the virtual interfaces, each with queues 0 to 63 (R36). -/
def viNumber (vi : Nat) : Bool := decide (1 ≤ vi) && decide (vi ≤ 1024)

/-- The device takes doorbells: step 5 of R384 is done and it is not in recovery (R67, R384). -/
def State.takesDoorbells (s : State) : Bool := s.mgmt.ready && !s.mgmt.recovery

/-- Bits of a register that a write stores. -/
def keepBits (w : Nat) (mask : Nat) : Nat := Nat.land w mask

/-- A 64-bit register with one half replaced. -/
def putHalf (old : BitVec 64) (high : Bool) (v : BitVec 32) : BitVec 64 :=
  if high then BitVec.ofNat 64 (old.toNat % 2 ^ 32 + v.toNat * 2 ^ 32)
  else BitVec.ofNat 64 (old.toNat / 2 ^ 32 * 2 ^ 32 + v.toNat)

/-! ### Event registers -/

/-- A write of ones to EV0 to EV3 clears event bits in one vector operation (R39, R40). -/
def State.clearEvents (s : State) (vi n : Nat) (val : BitVec 64) : State :=
  s.modVI vi (fun v => { v with ev := v.ev &&& ~~~(BitVec.ofNat 256 (val.toNat * 2 ^ (64 * n))) })

/-- A write to EVSET stores NUM and sets its event bit (R39, R40). -/
def State.writeEvset (s : State) (vi : Nat) (num : BitVec 8) : State :=
  s.modVI vi (fun v => ({ v with evset := BitVec.ofNat 32 num.toNat }).setEvent num)

/-! ### Queue registers -/

/-- ENABLE of QCTL, and the ring size in entries (R41). -/
def Queue.on (q : Queue) : Bool := bitAt q.qctl.toNat 8
def Queue.size (q : Queue) : Nat := 2 ^ (q.qctl.toNat % 32)
/-- VEC and HALTERR of QCTL (R41). -/
def Queue.vec (q : Queue) : Nat := q.qctl.toNat / 4096 % 256
def Queue.haltErr (q : Queue) : Bool := bitAt q.qctl.toNat 9

/-- A write to QCTL (R41): LOG2SIZE stays while the queue is enabled; a size outside 1 to 16 leaves ENABLE at 0; enabling
zeroes QHEAD and QTAIL, clears QERR, and starts without a predecessor. -/
def Queue.writeCtl (q : Queue) (val : BitVec 32) : Queue :=
  let v := keepBits val.toNat 0xFF31F
  if q.on then { q with qctl := BitVec.ofNat 32 (v / 32 * 32 + q.qctl.toNat % 32) }
  else if bitAt v 8 then
    if 1 ≤ v % 32 ∧ v % 32 ≤ 16 then
      { q with qctl := BitVec.ofNat 32 v, qhead := 0, qtail := 0, qerr := 0, pred := .none, held := none }
    else { q with qctl := BitVec.ofNat 32 (v - 256) }
  else { q with qctl := BitVec.ofNat 32 v }

/-- The queue halts with a code; QERR keeps the code of the event that halted a queue already halted (R41; DEDUCED, log entry
98). -/
def Queue.stop (q : Queue) (code : BitVec 32) : Queue := if q.halt then q else { q with halt := true, qerr := code }

/-- QSTAT as it reads (R41): HALT, and WAITING, for the entry consumed and not released (R54). -/
def Queue.stat (q : Queue) : BitVec 32 := BitVec.ofNat 32 (q.halt.toNat + 2 * q.held.isSome.toNat)

/-- A write to QTAIL (R42). -/
def Queue.doorbell (q : Queue) (t : BitVec 32) : Queue :=
  if !q.on || q.halt then q
  else if (t - q.qhead).toNat ≤ q.size then { q with qtail := t }
  else q.stop 0x201

/-- The doorbell of a queue: discarded until the device is ready and in recovery (R42, R384). -/
def State.doorbell (s : State) (vi q : Nat) (t : BitVec 32) : State :=
  if s.takesDoorbells then s.modQueue vi q (fun x => x.doorbell t) else s

/-- A write to QWDOG (R58). -/
def Queue.writeWdog (q : Queue) (val : BitVec 32) : Queue :=
  if q.on then q else { q with qwdog := BitVec.ofNat 32 (min (val.toNat % 65536) 60000) }

/-- A 32-bit register of a queue page written, by offset; read-only and absent ones ignore it (R36, R41, R58). -/
def State.writeQueue32 (s : State) (vi q off : Nat) (val : BitVec 32) : State :=
  if off = 0x008 then s.modQueue vi q (fun x => x.writeCtl val)
  else if off = 0x010 then s.doorbell vi q val
  else if off = 0x018 then s.modQueue vi q (fun x => if bitAt val.toNat 0 then { x with halt := false } else x)
  else if off = 0x020 then s.modQueue vi q (fun x => x.writeWdog val)
  else s

/-- QBASE written (R41). -/
def Queue.writeBase (q : Queue) (v : BitVec 64) : Queue := if q.on then q else { q with qbase := v &&& ~~~0x3F }

/-! ### Rings and other registers of the interface page -/

/-- CTL, TAIL and HEAD of a ring after a write to CTL (R340): LOG2SIZE stays while the ring is enabled, and enabling zeroes
TAIL and HEAD; a size outside 1 to 12 does not enable. -/
def ringCtl (ctl tail head val : BitVec 32) : BitVec 32 × BitVec 32 × BitVec 32 :=
  let v := keepBits val.toNat 0xFF11F
  if ringOn ctl then (BitVec.ofNat 32 (v / 32 * 32 + ctl.toNat % 32), tail, head)
  else if bitAt v 8 then
    if 1 ≤ v % 32 ∧ v % 32 ≤ 12 then (BitVec.ofNat 32 v, 0, 0) else (BitVec.ofNat 32 (v - 256), tail, head)
  else (BitVec.ofNat 32 v, tail, head)

/-- HCTL and PRCTL written (R340). -/
def VI.writeHctl (v : VI) (val : BitVec 32) : VI :=
  let r := ringCtl v.hctl v.htail v.hhead val
  { v with hctl := r.1, htail := r.2.1, hhead := r.2.2 }
def VI.writePrctl (v : VI) (val : BitVec 32) : VI :=
  let r := ringCtl v.prctl v.prtail v.prhead val
  { v with prctl := r.1, prtail := r.2.1, prhead := r.2.2 }

/-- Requests of an interface that wait for room in its ring are written to it as far as there is room (R339). -/
def State.flushRequests (s : State) (vi : Nat) : State :=
  s.pageReqs.foldl (fun s p => if p.2.vi = vi && !p.2.written then s.writeRequest p.1 else s) s

/-- Some queue of the interface is enabled (R340). -/
def VI.anyOn (v : VI) : Bool := v.queues.any (fun p => p.2.on)

/-- A 32-bit register of the interface page written, by offset (R39, R318, R340). -/
def State.writeVi32 (s : State) (vi off : Nat) (val : BitVec 32) : State :=
  if off = 0x020 then s.writeEvset vi (BitVec.ofNat 8 val.toNat)
  else if off = 0x040 then s.modVI vi (fun v => if v.slots.isEmpty then { v with mctl := val &&& 0xF } else v)
  else if off = 0x050 then s.modVI vi (fun v => v.writeHctl val)
  else if off = 0x058 then s.modVI vi (fun v => { v with hhead := val })
  else if off = 0x05C then s.hostDone vi val
  else if off = 0x068 then (s.modVI vi (fun v => v.writePrctl val)).flushRequests vi
  else if off = 0x070 then (s.modVI vi (fun v => { v with prhead := val })).flushRequests vi
  else s

/-- A 64-bit register of the interface page written whole, by offset (R318, R340). -/
def VI.write64 (v : VI) (off : Nat) (x : BitVec 64) : VI :=
  if off = 0x038 then if v.slots.isEmpty then { v with mbase := x &&& ~~~0xFF } else v
  else if off = 0x048 then if ringOn v.hctl then v else { v with hbase := x &&& ~~~0x3F }
  else if off = 0x060 then if ringOn v.prctl then v else { v with prbase := x &&& ~~~0x1F }
  else if off = 0x080 then { v with stvec := x &&& 0xFFFFFFFFFFF8 }
  else if off = 0x088 then if v.anyOn then v else { v with sroot := x &&& 0xFFFFFFFFF001 }
  else v

/-- A 64-bit register of the interface page, by offset. -/
def VI.read64 (v : VI) (off : Nat) : BitVec 64 :=
  if off = 0x038 then v.mbase else if off = 0x048 then v.hbase else if off = 0x060 then v.prbase
  else if off = 0x080 then v.stvec else if off = 0x088 then v.sroot else 0

/-- Offsets of the 64-bit registers of the interface page. -/
def viWide (off : Nat) : Bool := [0x000, 0x008, 0x010, 0x018, 0x038, 0x048, 0x060, 0x078, 0x080, 0x088].contains off

/-- PRRESP written: one that writes TAG answers the request (R340, R341); one that writes the high half alone only stores
FAIL. -/
def State.writePrresp (s : State) (vi : Nat) (x : BitVec 64) (tag : Bool) : State :=
  if tag then s.pageResponse vi (bitAt x.toNat 32) (BitVec.ofNat 32 x.toNat)
  else s.modVI vi (fun v => { v with prresp := x &&& 0x1FFFFFFFF })

/-- A write to the interface page (R39). -/
def State.writeViPage (s : State) (vi off size : Nat) (val : BitVec 64) : State :=
  let wide := off / 8 * 8
  if viWide wide then
    let high := decide (size = 4) && decide (off % 8 = 4)
    let x (old : BitVec 64) : BitVec 64 := if size = 8 then val else putHalf old high (BitVec.ofNat 32 val.toNat)
    if wide < 0x020 then s.clearEvents vi (wide / 8) (x 0)
    else if wide = 0x078 then s.writePrresp vi (x (s.vi vi).prresp) (!high)
    else s.modVI vi (fun v => v.write64 wide (x (v.read64 wide)))
  else
    let s := s.writeVi32 vi off (BitVec.ofNat 32 val.toNat)
    if size = 8 then s.writeVi32 vi (off + 4) (BitVec.ofNat 32 (val.toNat / 2 ^ 32)) else s

/-- A write to a queue page (R39, R41). -/
def State.writeQueuePage (s : State) (vi q off size : Nat) (val : BitVec 64) : State :=
  if off / 8 = 0 then
    s.modQueue vi q (fun x => x.writeBase (if size = 8 then val else putHalf x.qbase (off % 8 == 4) (BitVec.ofNat 32 val.toNat)))
  else
    let s := s.writeQueue32 vi q off (BitVec.ofNat 32 val.toNat)
    if size = 8 then s.writeQueue32 vi q (off + 4) (BitVec.ofNat 32 (val.toNat / 2 ^ 32)) else s

/-- An access that the registers take: aligned, of 32 or 64 bits (R39). -/
def registerAccess (off size : Nat) : Bool := (size == 4 || size == 8) && off % size == 0

/-- A write within the BAR0 of a virtual interface (R36). -/
def State.writeInterface (s : State) (vi off size : Nat) (val : BitVec 64) : State :=
  if !viNumber vi || !registerAccess off size then s
  else if off < 0x1000 then s.writeViPage vi off size val
  else if 0x10000 ≤ off ∧ off < 0x50000 then s.writeQueuePage vi ((off - 0x10000) / 4096) (off % 4096) size val
  else s

/-! ### Reading -/

/-- A 32-bit register of a queue page as it reads (R41, R58). -/
def Queue.read32 (q : Queue) (off : Nat) : BitVec 32 :=
  if off = 0x008 then q.qctl else if off = 0x010 then q.qtail else if off = 0x014 then q.qhead
  else if off = 0x018 then q.stat else if off = 0x01C then q.qerr else if off = 0x020 then q.qwdog else 0

/-- ARMED as it reads: the launches of an interface that wait for a message (R39, R47). -/
def State.armedCount (s : State) (vi : Nat) : Nat :=
  (s.launches.filter (fun p => p.2.vi = vi && p.2.phase = .armed)).length

/-- A 32-bit register of the interface page as it reads (R39, R318, R340). -/
def State.readVi32 (s : State) (vi off : Nat) : BitVec 32 :=
  let v := s.vi vi
  if off = 0x020 then v.evset else if off = 0x028 then v.msgdrop else if off = 0x030 then BitVec.ofNat 32 (s.armedCount vi)
  else if off = 0x040 then v.mctl else if off = 0x050 then v.hctl else if off = 0x054 then v.htail
  else if off = 0x058 then v.hhead else if off = 0x05C then v.hdone else if off = 0x068 then v.prctl
  else if off = 0x06C then v.prtail else if off = 0x070 then v.prhead else 0

/-- A 64-bit register of the interface page as it reads. -/
def VI.readWide (v : VI) (off : Nat) : BitVec 64 :=
  if off < 0x020 then BitVec.ofNat 64 (v.ev.toNat / 2 ^ (8 * off)) else if off = 0x078 then v.prresp else v.read64 off

/-- The 4 bytes at an aligned offset of the BAR0 of an interface as they read (R36, R39, R41): other offsets read as zero. -/
def State.readWord (s : State) (vi off : Nat) : BitVec 32 :=
  let half (x : BitVec 64) : BitVec 32 := BitVec.ofNat 32 (x.toNat / 2 ^ (8 * (off % 8)))
  if off < 0x1000 then
    if viWide (off / 8 * 8) then half ((s.vi vi).readWide (off / 8 * 8)) else s.readVi32 vi off
  else if 0x10000 ≤ off ∧ off < 0x50000 then
    let q := (s.vi vi).queue ((off - 0x10000) / 4096)
    if off % 4096 < 8 then half q.qbase else q.read32 (off % 4096)
  else 0

/-- What a read of the BAR0 of a virtual interface returns (R36, R39): zero where it is not aligned, or not of 32 or 64 bits. -/
def State.readInterface (s : State) (vi off size : Nat) : BitVec 64 :=
  if !viNumber vi || !registerAccess off size then 0
  else if size = 4 then BitVec.ofNat 64 (s.readWord vi off).toNat
  else BitVec.ofNat 64 ((s.readWord vi off).toNat + 2 ^ 32 * (s.readWord vi (off + 4)).toNat)

/-! ### Function-level reset -/

/-- The front end's COMPLETE of a queue's launch has begun, and is not cut short (R54). -/
def Launch.completeBegun (l : Launch) : Bool :=
  l.parent.isNone && (l.phase == .completed || (l.phase == .completing && decide (5 ≤ l.step)))

/-- A function-level reset (R38): the launches of the interface and all that they run are gone, with its page requests and
waiting messages' slots; every register takes its reset value. A COMPLETE under way sets its bits before the event vector is
cleared, and its interrupt still goes out. -/
def State.resetFunction (s : State) (vi : Nat) : State :=
  let ls := s.family ((s.launches.filter (fun p => p.2.vi = vi && !p.2.completeBegun)).map (·.1))
  let v := s.vi vi
  let s := s.wipe ls
  { s with
      launches := (s.launches.filter (fun p => !ls.contains p.1)).map (fun p =>
        if p.2.vi = vi then (p.1, { p.2 with phase := .completed, vec := some (p.2.vec.getD (v.queue p.2.queue).vec) }) else p),
      pageReqs := s.pageReqs.filter (fun p => !(p.2.vi == vi && p.2.stage == 1)),
      pageWaits := s.pageWaits.filter (fun w => w.vi ≠ vi),
      vis := tblSet s.vis vi {} }

/-- A function-level reset of the management function (R36): its registers take their reset values, and commands that have
not completed are dropped (DESIGN CHOICE, log entry 98). -/
def State.resetManagement (s : State) : State :=
  { s with mgmt := { s.mgmt with
      mcmda := 0, mdoor := 0, mdone := 0, assist := {}, ardata := 0, artag := 0, halt := {}, commands := [] } }

/-! ### Posted writes -/

/-- A system address that the device decodes (R170). -/
def State.populated (s : State) (a : Nat) : Bool :=
  (decide (a < 0x18000000000) && !s.channelsOut.contains (a / 0x180000000)) || (decide (0x20000000000 ≤ a) && decide (a < 0xA0000000000) &&
    s.cxlReaches a) || (decide (0x100000000000 ≤ a) && decide (a < 2 ^ 48))

/-- A host or peer write reaches memory M in one step (R288); bytes at addresses that reach nothing are lost. -/
def State.postedWrite (s : State) (a : Nat) (bs : List Byte) : State :=
  let ps := ((List.range bs.length).zip bs).filterMap (fun p =>
    if s.populated (a + p.1) then some (Loc.sys (a + p.1), p.2) else none)
  if ps.isEmpty then s
  else
    let w : Write := { id := s.nextId, gid := 0, lane := 0, launch := 0, core := none, level := 6, bytes := ps }
    (s.bump.heal (ps.map (·.1)) [s.nextId]).land w

/-! ### Events -/

/-- EV_CLEAR_WRITE (R40). -/
def execEvClearWrite (vi n : Nat) (val : BitVec 64) (s : State) : Out :=
  .next (if viNumber vi && decide (n < 4) then s.clearEvents vi n val else s)

/-- EVSET_WRITE (R40). -/
def execEvsetWrite (vi : Nat) (num : BitVec 8) (s : State) : Out :=
  .next (if viNumber vi then s.writeEvset vi num else s)

/-- QUEUE_ENABLE (R41): a write to QCTL that takes ENABLE from 0 to 1. -/
def execQueueEnable (vi q : Nat) (val : BitVec 32) (s : State) : Out :=
  .next (if viNumber vi && decide (q < 64) && bitAt val.toNat 8 && !((s.vi vi).queue q).on then
    s.modQueue vi q (fun x => x.writeCtl val) else s)

/-- QUEUE_DISABLE (R41): a write to QCTL that takes ENABLE from 1 to 0. -/
def execQueueDisable (vi q : Nat) (val : BitVec 32) (s : State) : Out :=
  .next (if viNumber vi && decide (q < 64) && !bitAt val.toNat 8 && ((s.vi vi).queue q).on then
    s.modQueue vi q (fun x => x.writeCtl val) else s)

/-- QTAIL_DOORBELL (R42). -/
def execQtailDoorbell (vi q : Nat) (tail : BitVec 32) (s : State) : Out :=
  .next (if viNumber vi && decide (q < 64) then s.doorbell vi q tail else s)

/-- QUEUE_RESUME (R41): a write of 1 to QSTAT.HALT. -/
def execQueueResume (vi q : Nat) (s : State) : Out :=
  .next (if viNumber vi && decide (q < 64) then s.modQueue vi q (fun x => { x with halt := false }) else s)

/-- HOSTCALL_RING_ENABLE (R340): a write to HCTL that takes ENABLE from 0 to 1. -/
def execHostcallRingEnable (vi : Nat) (val : BitVec 32) (s : State) : Out :=
  .next (if viNumber vi && bitAt val.toNat 8 && !ringOn (s.vi vi).hctl then s.modVI vi (fun v => v.writeHctl val) else s)

/-- PAGE_RING_ENABLE (R340): a write to PRCTL that takes ENABLE from 0 to 1. -/
def execPageRingEnable (vi : Nat) (val : BitVec 32) (s : State) : Out :=
  .next (if viNumber vi && bitAt val.toNat 8 && !ringOn (s.vi vi).prctl then
    (s.modVI vi (fun v => v.writePrctl val)).flushRequests vi else s)

/-- FUNCTION_LEVEL_RESET (R36, R38), by the number of the function. -/
def execFunctionLevelReset (vi : Nat) (s : State) : Out :=
  .next (if vi = 0 then s.resetManagement else if viNumber vi then s.resetFunction vi else s)

/-- HOST_POSTED_WRITE (R288). -/
def execHostPostedWrite (addr : BitVec 48) (bytes : List (BitVec 8)) (s : State) : Out :=
  .next (s.postedWrite addr.toNat bytes)

end Sys2Proof.Machine
end

