-- ==== Sys2Proof/Machine/Queues.lean ====
section
/-!
DEFINITION. The queue cores (R43 to R45, R53 to R59): reading and checking a queue entry, its release, the control blocks
with their repair after a restart, and the watchdogs of the queues.
-/

namespace Sys2Proof.Machine
open Sys2Proof

/-! ### Queue entries -/

/-- Fields of a queue entry (R43). -/
def entryKind (e : List Byte) : Nat := fieldAt e 0 1
def entryConsume (e : List Byte) : Bool := bitAt (fieldAt e 1 1) 0
def entryEarly (e : List Byte) : Bool := bitAt (fieldAt e 1 1) 1
def entryConcur (e : List Byte) : Bool := bitAt (fieldAt e 1 1) 2
def entryIntr (e : List Byte) : Bool := bitAt (fieldAt e 1 1) 3
def entryWait (e : List Byte) : List Byte := (e.drop 0x20).take (fieldAt e 2 1)
def entrySet (e : List Byte) : List Byte := (e.drop 0x28).take (fieldAt e 3 1)

/-- The contents of an entry are invalid (R44). -/
def entryBad (e : List Byte) : Bool :=
  let kind := entryKind e
  if kind = 2 then false
  else if kind ≠ 1 ∧ kind ≠ 3 then true
  else fieldAt e 1 1 / 16 != 0 || fieldAt e 5 3 != 0 || fieldAt e 0x34 12 != 0 ||
    decide (8 < fieldAt e 2 1) || decide (8 < fieldAt e 3 1) ||
    (kind == 1 && !(decide (5 ≤ fieldAt e 4 1) && decide (fieldAt e 4 1 ≤ 10)))

/-! ### Control blocks -/

/-- The repair of a control block after a restart (R57), with the count of released, incomplete launches. -/
def Queue.repair (q : Queue) (inflight : Nat) : Queue :=
  let b := if q.block.gen.toNat % 2 = 1 then q.shadow else q.block
  { q with block := { b with
      head := q.qhead, released := q.relcnt, inflight := BitVec.ofNat 32 inflight, gen := b.gen + 2 } }

/-! ### Watchdogs -/

/-- The watchdog of a queue has run out (R59). A completion at the nanosecond of the expiry counts first: the expiry is
taken at a later one. -/
def State.watchdogDue (s : State) (vi q : Nat) : Bool :=
  let x := (s.vi vi).queue q
  decide (x.wddead ≠ 0) && decide (x.wddead.toNat < s.time)

/-! ### CONSUME -/

/-- The queue core works on a queue: the device is ready, the interface is bound, its tenant resident, its leaf not
stopped, the core up, the queue enabled and not halted (R41, R42, R55, R60, R65, R67). -/
def State.queueRuns (s : State) (vi q : Nat) : Option Nat :=
  match s.leafOf vi with
  | none => none
  | some leaf =>
    let x := (s.vi vi).queue q
    if s.takesDoorbells && s.residentVi vi && !s.leafStopped leaf && !s.coreDown vi && x.on && !x.halt then some leaf
    else none

/-- What a queue core that is up does on a control block between its other operations (R56, R57): it ends the update under way,
or begins one where INFLIGHT, WDDEAD or WDREM no longer say what is. -/
def State.tend (s : State) (vi q : Nat) : State :=
  let x := (s.vi vi).queue q
  let n := BitVec.ofNat 32 (s.inflightOf vi q)
  if s.coreDown vi then s
  else if x.block.gen.getLsbD 0 then s.modQueue vi q Queue.finish
  else if x.block.inflight = n && x.block.wddead = x.wddead && x.block.wdrem = x.wdrem then s
  else s.modQueue vi q (fun x => x.update (fun b => { b with inflight := n, wddead := x.wddead, wdrem := x.wdrem }))

/-- CONSUME (R44, R54); with nothing to consume the queue core tends the block. -/
def State.consume (s : State) (vi q : Nat) : State :=
  match s.queueRuns vi q with
  | none => s.tend vi q
  | some leaf =>
    let x := (s.vi vi).queue q
    if x.held.isSome || x.qhead = x.qtail then s.tend vi q
    else if s.exhausted leaf 5 then s
    else
      match s.frontLoad leaf vi 0 (x.qbase.toNat / 64 * 64 + x.qhead.toNat % x.size * 64) 64 with
      | (s, none) => s.modQueue vi q (fun x => x.stop 0x203)
      | (s, some e) =>
        if entryBad e then s.modQueue vi q (fun x => x.stop 0x202)
        else s.modQueue vi q (fun x =>
          ({ x with held := some e, qhead := x.qhead + 1 }).update (fun b => { b with head := x.qhead + 1 }))

/-! ### RELEASE -/

/-- A lane counts as triggered (R49): its `trigger` has retired, or it has exited and the writes ordered before its exit
have performed at PACKAGE (R286). -/
def State.laneTriggered (s : State) (l : Lane) : Bool :=
  l.absent || l.triggered || (l.exited && l.exitWrites.all (fun w => s.performed w 4))

/-- A launch has triggered (R49): all of its pieces are dispatched, and every lane of them counts as triggered. -/
def State.hasTriggered (s : State) (lid : Nat) : Bool :=
  match s.launch lid with
  | none => true
  | some l => l.start.isSome && (l.laidOut || l.stopped) && l.plans.isEmpty &&
    s.groups.all (fun p => p.2.launch ≠ lid || p.2.task || allLanes.all (fun i => s.laneTriggered (p.2.lane i)))

/-- A launch has completed for the release rule (R45): step 3 of R51 has been carried out. -/
def State.hasCompleted (s : State) (lid : Nat) : Bool :=
  match s.launch lid with
  | none => true
  | some l => decide (l.phase = .completed)

/-- The predecessor has reached the point that the entry's flags require (R45). -/
def State.predReached (s : State) (p : Pred) (e : List Byte) : Bool :=
  match p with
  | .none => true
  | .plain => true
  | .launch lid => entryConcur e || s.hasCompleted lid || (entryEarly e && s.hasTriggered lid)

/-- Event bits that a mask names. -/
def eventMask (ns : List Byte) : BitVec 256 := ns.foldl (fun m n => m ||| BitVec.ofNat 256 (2 ^ n.toNat)) 0

/-- The held entry of a queue passes the checks of R45. -/
def State.releasable (s : State) (vi : Nat) (x : Queue) (e : List Byte) : Bool :=
  let m := if entryKind e = 2 then 0 else eventMask (entryWait e)
  s.predReached x.pred e && decide ((s.vi vi).ev &&& m = m)

/-- The vector operation of a release (R43, R45): an EVENT entry clears its wait bits and then sets its set bits; a CONSUME
entry clears its wait bits. -/
def releaseEvents (e : List Byte) (ev : BitVec 256) : BitVec 256 :=
  if entryKind e = 3 then (ev &&& ~~~eventMask (entryWait e)) ||| eventMask (entrySet e)
  else if entryKind e = 1 && entryConsume e then ev &&& ~~~eventMask (entryWait e)
  else ev

/-- The launch that a released LAUNCH entry stands for. -/
def launchOfEntry (vi leaf q n : Nat) (e : List Byte) : Launch where
  vi := vi
  leaf := leaf
  queue := q
  entry := n
  lrec := BitVec.ofNat 64 (fieldAt e 8 8)
  csig := BitVec.ofNat 64 (fieldAt e 0x10 8)
  cval := BitVec.ofNat 64 (fieldAt e 0x18 8)
  cscope := fieldAt e 4 1
  setMask := entrySet e
  intr := entryIntr e
  mtag := BitVec.ofNat 32 (fieldAt e 0x30 4)
  parent := none
  record := []
  consts := []
  payload := none
  payloadSlot := none
  phase := .released
  counter := 0
  error := 0
  flags := 0
  start := none
  end_ := 0
  nextTop := 0
  dispatched := 0
  stopped := false
  laidOut := false
  counted := false
  tasks := []
  taskGroups := []
  ored := []
  grader := {}
  plans := []
  taskPlans := []
  gangAt := none
  step := 0
  slotsDone := 0
  slotWrites := []
  sigWrite := none
  armedAt := 0

/-- A held entry is released (R45, R54): the vector operation, the release count, the hand-over to the dispatcher. -/
def State.releaseEntry (s : State) (leaf vi q : Nat) (e : List Byte) : State :=
  let s := s.modVI vi (fun v => { v with ev := releaseEvents e v.ev })
  let s := s.modPart leaf (fun p => { p with allow := none })
  let launch := entryKind e == 1
  let lid := s.nextId
  let n := ((s.vi vi).queue q).qhead.toNat - 1
  let s := if launch then { s.bump with launches := tblSet s.launches lid (launchOfEntry vi leaf q n e) } else s
  s.modQueue vi q (fun x =>
    ({ x with held := none, relcnt := x.relcnt + 1, pred := if launch then .launch lid else .plain }).update
      (fun b => { b with head := x.qhead, released := x.relcnt + 1,
                         inflight := if launch then b.inflight + 1 else b.inflight,
                         lastid := if launch then BitVec.ofNat 64 lid else b.lastid }))

/-- The host, where it schedules the leaf's queues, has named another queue's entry to be admitted next (R66, bit 0). -/
def State.passedOver (s : State) (leaf vi q : Nat) : Bool :=
  s.assisted leaf 0 && match (s.part leaf).allow with
    | none => false
    | some n => n ≠ 0 && n ≠ vi * 64 + q + 1

/-- The queue core would release the held entry of a queue now (R45). -/
def State.wouldRelease (s : State) (vi q : Nat) : Bool :=
  match s.queueRuns vi q with
  | none => false
  | some leaf => match ((s.vi vi).queue q).held with
    | none => false
    | some e => s.releasable vi ((s.vi vi).queue q) e && !s.passedOver leaf vi q

/-- RELEASE (R45, R54): the held entry is released when its conditions hold, and no queue of a lower number of the interface has
one to release. Where the host schedules the leaf's queues, it is asked first, and what it names is released next (R66, bit
0). -/
def State.release (s : State) (vi q : Nat) : State :=
  match s.queueRuns vi q with
  | none => s
  | some leaf =>
    let x := (s.vi vi).queue q
    match x.held with
    | none => s
    | some e =>
      if !s.releasable vi x e || (List.range q).any (s.wouldRelease vi) then s
      else if s.assisted leaf 0 then
        match (s.part leaf).allow with
        | none => if s.asking leaf 0 then s else s.askAssist leaf 0 []
        | some n => if n = 0 || n = vi * 64 + q + 1 then s.releaseEntry leaf vi q e else s
      else s.releaseEntry leaf vi q e

/-! ### Restarts -/

/-- A queue core changed. -/
def State.modQueueCore (s : State) (qc : Nat) (f : QueueCore → QueueCore) : State :=
  { s with mgmt := { s.mgmt with queueCores := tblSet s.mgmt.queueCores qc (f (tblGet s.mgmt.queueCores {} qc)) } }

/-- HEARTBEAT_TIMEOUT (R55), in its two parts: the heartbeat word of a queue core stands still, and the core is down; and once
it has not changed for 20 µs, the policy core restarts it (DESIGN CHOICE, log entry 99). -/
def State.heartbeatTimeout (s : State) (qc : Nat) : State :=
  if 6 ≤ qc then s
  else
    let c := tblGet s.mgmt.queueCores {} qc
    if !c.down then s.modQueueCore qc (fun c => { c with down := true, stoppedAt := s.time, restartAt := none })
    else if c.restartAt.isNone && decide (c.stoppedAt + 20000 ≤ s.time) then
      s.modQueueCore qc (fun c => { c with restartAt := some s.time })
    else s

/-- Control blocks of the queues of an interface repaired. -/
def State.repairVi (s : State) (vi : Nat) : State :=
  (s.vi vi).queues.foldl (fun s p => s.modQueue vi p.1 (fun x => x.repair (s.inflightOf vi p.1))) s

/-- QUEUE_CORE_REPAIR (R57): a restarted queue core repairs each of its blocks and resumes service. -/
def State.queueCoreRepair (s : State) (qc : Nat) : State :=
  match tblFind s.mgmt.queueCores qc with
  | none => s
  | some c =>
    if !c.down || c.restartAt.isNone then s
    else ((tblKeys s.vis).foldl (fun s v => if (v - 1) % 6 = qc then s.repairVi v else s) s).modQueueCore qc
      (fun c => { c with down := false, restartAt := none, upAt := s.time })

/-- CONSUME (R54). -/
def execConsume (vi q : Nat) (s : State) : Out :=
  .next (if viNumber vi && decide (q < 64) then s.consume vi q else s)

/-- RELEASE (R54). -/
def execRelease (vi q : Nat) (s : State) : Out :=
  .next (if viNumber vi && decide (q < 64) then s.release vi q else s)

/-- HEARTBEAT_TIMEOUT (R55). -/
def execHeartbeatTimeout (qc : Nat) (s : State) : Out := .next (s.heartbeatTimeout qc)

/-- QUEUE_CORE_REPAIR (R57). -/
def execQueueCoreRepair (qc : Nat) (s : State) : Out := .next (s.queueCoreRepair qc)

end Sys2Proof.Machine
end

