-- ==== Sys2Proof/Machine/Urn.lean ====
section
/-!
DEFINITION. Atomics, reductions and ordered reductions, opcodes 0xD8 to 0xDF (R302 to R310); the draining of buffers,
which performs them (R279, R283), and the landing of their replies (R302).
-/

namespace Sys2Proof.Machine
open Sys2Proof

/-! ### Sending requests -/

/-- Requests an urn's queue holds (R302). -/
def urnQueue : Nat := 256

/-- Requests pending at the urn of a cluster. -/
def State.urnPending (s : State) (cluster : Nat) : Nat :=
  (s.flight.filter (fun w => w.urn.isSome && (match s.group w.gid with
    | some g => s.urnCluster g.leaf w.place == cluster
    | none => false))).length

/-- One lane added to the request on its address, or as a new request. -/
def joinRequest (i : Nat) (l : Loc) (a : DWord) : List (DWord × Loc × List Nat) → List (DWord × Loc × List Nat)
  | [] => [(a, l, [i])]
  | r :: rs => if r.1 = a then (r.1, r.2.1, r.2.2 ++ [i]) :: rs else r :: joinRequest i l a rs

/-- Lanes of an issue by the address they name, in the order of the first lane of each (R303, R304). -/
def byAddress (ps : List (Nat × Loc × DWord)) : List (DWord × Loc × List Nat) :=
  ps.foldl (fun rs p => joinRequest p.1 p.2.1 p.2.2 rs) []

/-- One request enters the group's SQ, pending (R283). -/
def State.sendUrn (s : State) (c : Ctx) (g : Group) (op : Nat) (l : Loc) (r : UrnReq) (lanes : List Nat) : State × Nat :=
  let w : Write :=
    { id := s.nextId, gid := c.gid, lane := lanes.headD 0, launch := g.launch, core := some g.core, level := 0,
      bytes := (List.range r.bytes).map (fun i => (l.add i, 0)), urn := some r, op := op, sharers := lanes.drop 1 }
  (({ s.bump with flight := s.flight ++ [w] }).countEvent g.core 0x0A 1, w.id)

/-- The combiner's fold of the lanes of one request (R304): the value carried and the flags raised. -/
def foldUrn (r : UrnReq) (val : Nat → DWord) : List Nat → Nat → Nat × Flags
  | [], v => (v, 0)
  | i :: is, v =>
    let (v, f) := urnNew r v ((val i).toNat % 2 ^ (8 * r.bytes)) 0
    let (v, fs) := foldUrn r val is v
    (v, f ||| fs)

/-- The requests of one issue sent, each with its parts; what the operation holds of its lanes. -/
def State.sendUrns (s : State) (c : Ctx) (g : Group) (op : Nat) (act : UrnAct) (bytes level : Nat) (reply : Bool) :
    List (DWord × Loc × List Nat) → State × List UrnLane
  | [] => (s, [])
  | (_, l, lanes) :: rest =>
    let r : UrnReq := { act := act, bytes := bytes, level := level, parts := [] }
    let first := lanes.headD 0
    let (parts, fl) :=
      if reply then (lanes.map (fun i => (i, c.b64 g i, c.c64 g i)), (0 : Flags))
      else
        let (v, fl) := foldUrn r (c.b64 g) (lanes.drop 1) ((c.b64 g first).toNat % 2 ^ (8 * bytes))
        ([(first, BitVec.ofNat 64 v, 0)], fl)
    let s := s.modGroup c.gid (fun g => { g with remote := g.remote ||| fl })
    let (s, wid) := s.sendUrn c g op l { r with parts := parts } lanes
    let (s, ls) := s.sendUrns c g op act bytes level reply rest
    (s, (if reply then lanes else [first]).map (fun i =>
      { lane := i, mode := c.m, wid := wid, reply := none, landed := !reply }) ++ ls)

/-! ### Entries -/

/-- DET of a launch (R16). -/
def State.det (s : State) (g : Group) : Bool :=
  match s.launchOf g with
  | some l => bitAt l.recFlags 0
  | none => false

/-- An access of an urn operation: LOCAL traps ACCESS (R302). -/
def noLocal (r : State × List (Nat × LaneEnd) × List (Nat × Loc × DWord)) :
    State × List (Nat × LaneEnd) × List (Nat × Loc × DWord) :=
  let isLocal (p : Nat × Loc × DWord) : Bool := match p.2.1 with
    | .loc _ _ _ => true
    | _ => false
  (r.1, r.2.1 ++ (r.2.2.filter isLocal).map (fun p => (p.1, .trap causeAccess p.2.2)), r.2.2.filter (fun p => !isLocal p))

/-- An atomic or reduction (R302 to R306, R308): the act for the tag of slot B, bytes, scope, whether it replies, the tags
that B and C require, and the result tag. -/
def urnEntry (act : Tag → UrnAct) (bytes sc : Nat) (reply : Bool) (req res : Tag → Tag) : Entry where
  ok _ tb _ sl := match sl with
    | .a => addressTags
    | .b => [req tb]
    | .c => [req tb]
    | .d => []
  cls := some .ur
  body c s g :=
    let a := act c.tb
    let tag := if reply then some (res c.tb) else none
    let addrs := c.active.map (fun i => (i, c.a64 g i))
    if a = .fadd && s.det g then trapActive c s causeEngine (engineCode 4) tag
    else if addrs.any (fun p => s.addrBusy c.gid g p.1 p.2) then .blocked
    else
      let (s', ends, oks) := noLocal (s.accessLanes c g bytes bytes { r := true, w := true } addrs)
      let reqs := byAddress oks
      let full (p : DWord × Loc × List Nat) : Bool :=
        let cl := s.urnCluster g.leaf p.2.1
        decide (urnQueue < s.urnPending cl + (reqs.filter (fun q => s.urnCluster g.leaf q.2.1 == cl)).length)
      if reqs.any full then .blocked
      else
        let level := scopeLevel (max sc 2)
        let (s, ls) := s'.sendUrns c g g.nextOp a bytes level reply reqs
        let s := if ls.isEmpty then s.addEmpty c.gid .ur
          else s.addOp c.gid .ur (.urn (if reply then some c.o.d.num else none) (decide (bytes = 8)) level ls)
        .done s ends tag (linesTouched bytes oks)

/-- An integer atomic of a width (R303, R304). -/
def intUrn (op : UrnOp) (w sc : Nat) (reply : Bool) : Entry :=
  urnEntry (fun tb => .int op (intType w tb).signed) (w / 8) sc reply (intType w) (intType w)

/-- A floating-point addition (R306). -/
def faddUrn (wide : Bool) (sc : Nat) (reply : Bool) : Entry :=
  let f : Tag := if wide then .f64 else .f32
  urnEntry (fun _ => .fadd) (if wide then 8 else 4) sc reply (fun _ => f) (fun _ => f)

/-- `uget.op` on 32 bits (R303). -/
def execUgetI32 (d : VReg) (a : DReg) (b : Src) (op : UrnOp) (sc : BitVec 4) (x : GuardF) (s : State) : Out :=
  serve (.ugetI32 d a b op sc x) s (intUrn op 32 sc.toNat true)

/-- `uget.op` on 64 bits (R303). -/
def execUgetI64 (d a : DReg) (b : SrcD) (op : UrnOp) (sc : BitVec 4) (x : GuardF) (s : State) : Out :=
  serve (.ugetI64 d a b op sc x) s (intUrn op 64 sc.toNat true)

/-- `uget.fadd` (R306). -/
def execUgetFadd (d : VReg) (a : DReg) (b : Src) (wide : Bool) (sc : BitVec 4) (x : GuardF) (s : State) : Out :=
  serve (.ugetFadd d a b wide sc x) s (faddUrn wide sc.toNat true)

/-- `uput.op` on 32 bits (R304). -/
def execUputI32 (a : DReg) (b : Src) (op : UrnOp) (sc : BitVec 4) (x : GuardF) (s : State) : Out :=
  serve (.uputI32 a b op sc x) s (intUrn op 32 sc.toNat false)

/-- `uput.op` on 64 bits (R304). -/
def execUputI64 (a : DReg) (b : SrcD) (op : UrnOp) (sc : BitVec 4) (x : GuardF) (s : State) : Out :=
  serve (.uputI64 a b op sc x) s (intUrn op 64 sc.toNat false)

/-- `uput.fadd` (R304, R306). -/
def execUputFadd (a : DReg) (b : Src) (wide : Bool) (sc : BitVec 4) (x : GuardF) (s : State) : Out :=
  serve (.uputFadd a b wide sc x) s (faddUrn wide sc.toNat false)

/-- `ucmpx` (R305). -/
def execUcmpx (d : VReg) (a : DReg) (b : Src) (c : VReg) (wide : Bool) (sc : BitVec 4) (x : GuardF) (s : State) : Out :=
  let w := if wide then 64 else 32
  serve (.ucmpx d a b c wide sc x) s (urnEntry (fun _ => .cmpx) (w / 8) sc.toNat true (intType w) (intType w))

/-! ### Ordered reductions -/

/-- OP of reduction slot `n` of a launch record (R27). -/
def Launch.slotOp (l : Launch) (n : Nat) : Nat := fieldAt l.record (0x178 + 16 * n + 8) 1

/-- SPACE of a launch: points in dimension `d` (R15). -/
def Launch.space (l : Launch) (d : Nat) : Nat := fieldAt l.record (0x10 + 4 * d) 4

/-- The number of a lane's point in the space, x fastest. -/
def Launch.pointNumber (l : Launch) (x : Lane) : Nat :=
  x.cx.toNat + l.space 0 * (x.cy.toNat + l.space 1 * (x.cz.toNat + l.space 2 * x.cw.toNat))

/-- `ored` (R310): every contribution is accepted at issue. -/
def oredEntry (n op fmt : Nat) : Entry where
  ok _ _ _ sl := if sl = .b && op != 0 then [Tag.ofCode fmt] else []
  cls := some .ur
  body c s g :=
    match s.launchOf g with
    | none => trapActive c s causeEngine (engineCode 6)
    | some l =>
      if op = 0 || g.task then trapActive c s causeEngine (engineCode 6)
      else
        let again := c.active.filter (fun i => (g.lane i).contributed.getLsbD n)
        let new := c.active.filter (fun i => !(g.lane i).contributed.getLsbD n)
        if !new.isEmpty && s.exhausted g.leaf 4 then .blocked
        else
        let s := (s.spend g.leaf 4 new.length).countEvent g.core 0x0A new.length
        let s := s.modLaunch g.launch (fun x =>
          { x with ored := x.ored ++ new.map (fun i => (n, l.pointNumber (g.lane i), c.b64 g i)) })
        let s := s.modLanes c.gid new (fun _ x => { x with contributed := x.contributed ||| BitVec.ofNat 8 (2 ^ n) })
        .done (s.addEmpty c.gid .ur) (again.map (fun i => (i, .trap causeEngine (engineCode 5)))) none []

/-- OP and FMT of the slot an issue in hand names. -/
def State.oredSlot (s : State) (n : Nat) : Nat × Nat :=
  match s.issue with
  | none => (0, 0)
  | some iss => match s.group iss.gid with
    | none => (0, 0)
    | some g => match s.launchOf g with
      | none => (0, 0)
      | some l => (l.slotOp n, l.slotFmt n)

/-- `ored` (R310). -/
def execOred (d : BitVec 3) (b : Src) (x : Ext) (s : State) : Out :=
  let p := s.oredSlot d.toNat
  serve (.ored d b x) s (oredEntry d.toNat p.1 p.2)

/-! ### Events -/

/-- An urn operation ends when every lane's part has performed at its scope and its replies have landed (R302). -/
def State.settleUrn (s : State) (gid op : Nat) : State :=
  match s.group gid with
  | none => s
  | some g => match g.op op with
    | none => s
    | some o => match o.kind with
      | .urn _ _ lvl ls =>
        if o.ended || (g.resident && s.asleep g.core) then s
        else if ls.all (fun l => l.landed && s.performed l.wid lvl) then s.endOp gid op
        else s
      | _ => s

/-- BUFFER_DRAIN (R279, R283). -/
def State.bufferDrain (s : State) (wid : Nat) : State :=
  match s.flight.find? (fun w => w.id = wid) with
  | none => s
  | some w =>
    let t := s.drainId wid
    if w.op = 0 && w.urn.isNone then t else t.settleUrn w.gid w.op

/-- The replies of a lane that have come and not landed. -/
def landReply (lane : Nat) (l : UrnLane) : UrnLane :=
  if l.lane = lane && l.reply.isSome then { l with landed := true } else l

/-- URN_REPLY_LAND (R302): the reply of one lane is written to its register's line. -/
def State.replyLand (s : State) (gid op lane : Nat) : State :=
  match s.group gid with
  | none => s
  | some g => match g.op op with
    | none => s
    | some o => match o.kind with
      | .urn d wide lvl ls =>
        if o.ended || (g.resident && s.asleep g.core) then s
        else match ls.find? (fun l => l.lane = lane && !l.landed) with
        | none => s.settleUrn gid op
        | some l => match l.reply, d with
          | some v, some d =>
            let s := s.modGroup gid (fun g => if wide then g.dPut l.mode d lane v
              else g.vPut l.mode d lane (BitVec.ofNat 32 v.toNat))
            let s := s.modOp gid op (fun o => { o with kind := .urn (some d) wide lvl (ls.map (landReply lane)) })
            s.settleUrn gid op
          | _, _ => s
      | _ => s

/-- BUFFER_DRAIN (R279). -/
def execBufferDrain (wid : Nat) (s : State) : Out := .next (s.bufferDrain wid)

/-- URN_REPLY_LAND (R302). -/
def execUrnReplyLand (gid op lane : Nat) (s : State) : Out := .next (s.replyLand gid op lane)

end Sys2Proof.Machine
end

