-- ==== Sys2Proof/Machine/LaunchRecord.lean ====
section
/-!
DEFINITION. The launch record read and checked (R14 to R29), the entries of the cut record (R33 to R35), the Grader as a
launch starts with it (R34, R68), and arming (R47).
-/

namespace Sys2Proof.Machine
open Sys2Proof

/-! ### Fields of a launch record -/

/-- Bytes of a launch's record. -/
def Launch.bytes (l : Launch) (off n : Nat) : List Byte := (l.record.drop off).take n
/-- Some byte is not zero. -/
def someSet (bs : List Byte) : Bool := bs.any (fun b => b != 0)
/-- Fields of the header (R15). -/
def Launch.version (l : Launch) : Nat := fieldAt l.record 0 2
def Launch.ndim (l : Launch) : Nat := fieldAt l.record 3 1
def Launch.body (l : Launch) : Nat := fieldAt l.record 8 8
def Launch.cutrec (l : Launch) : Nat := fieldAt l.record 0x20 8
def Launch.cutcap (l : Launch) : Nat := fieldAt l.record 0x28 4
def Launch.interval (l : Launch) : Nat := fieldAt l.record 0x2C 2
def Launch.nconst (l : Launch) : Nat := fieldAt l.record 0x2F 1
def Launch.constsAt (l : Launch) : Nat := fieldAt l.record 0x30 8
def Launch.restart (l : Launch) : Nat := fieldAt l.record 0x38 8
def Launch.roles (l : Launch) : Nat := fieldAt l.record 0x44 4
/-- Flags of R16 by bit. -/
def Launch.flag (l : Launch) (n : Nat) : Bool := bitAt l.recFlags n
/-- MIN, MAX, MULT, PREF (0 to 3) of dimension `d` of level `k` (R20). -/
def Launch.count (l : Launch) (k d j : Nat) : Nat := fieldAt l.record (0x60 + (k - 1) * 40 + 8 + 8 * d + 2 * j) 2
/-- ORDERS and ORDER of level `k` (R19). -/
def Launch.orders (l : Launch) (k : Nat) : Nat := l.control k / 2 ^ 18 % 16
def Launch.order (l : Launch) (k : Nat) : Nat := l.control k / 2 ^ 16 % 4
/-- Fields of ordered reduction slot `n` (R27). -/
def Launch.slotTarget (l : Launch) (n : Nat) : Nat := fieldAt l.record (0x178 + 16 * n) 8
def Launch.slotLevel (l : Launch) (n : Nat) : Nat := fieldAt l.record (0x178 + 16 * n + 10) 1
def Launch.slotScope (l : Launch) (n : Nat) : Nat := fieldAt l.record (0x178 + 16 * n + 11) 1
/-- Levels that have an entry, from 1 up. -/
def Launch.levels (l : Launch) : List Nat := (List.range (l.nlevel - 1)).map (· + 1)
/-- Dimensions of the space. -/
def dims : List Nat := [0, 1, 2, 3]
/-- Product of a list of numbers. -/
def product (ns : List Nat) : Nat := ns.foldl (· * ·) 1
/-- Points of the space (R17). -/
def Launch.npoints (l : Launch) : Nat := product (dims.map l.space)

/-! ### Checks -/

/-- LREC_RESERVED: a reserved field or encoding is not zero (R14 to R19, R27, R29). -/
def Launch.reservedBad (l : Launch) : Bool :=
  let f (o n : Nat) : Bool := someSet (l.bytes o n)
  let level (k : Nat) : Bool :=
    if k < l.nlevel then
      let c := l.control k
      c / 2 ^ 22 != 0 || c / 2 ^ 11 % 32 != 0 || bitAt c 3 || decide (6 ≤ c % 8)
    else f (0x60 + (k - 1) * 40) 40
  let slot (n : Nat) : Bool :=
    let o := 0x178 + 16 * n
    l.slotFmt n / 16 != 0 || f (o + 12) 4 || (l.slotOp n == 0 && (f o 8 || f (o + 9) 3))
  f 0x2E 1 || f 0x41 3 || f 0x4C 4 || f 0x5C 4 || f 0x1F8 8 || Nat.land l.recFlags 0xFFFFE0C0 != 0 ||
    (1 ≤ l.nlevel && l.nlevel ≤ 8 && ((List.range 7).map (· + 1)).any level) || (List.range 8).any slot

/-- LREC_SPACE: NDIM or SPACE out of range, or a SEED launch with more than one group (R15, R18). -/
def Launch.spaceBad (l : Launch) : Bool :=
  !(1 ≤ l.ndim && l.ndim ≤ 4) || dims.any (fun d => l.space d == 0 || (decide (l.ndim ≤ d) && l.space d != 1)) ||
    (l.flag 3 && (l.ndim != 1 || l.nlevel != 1 || decide (32 < l.space 0) || l.interval != 0 || l.flag 1 || l.flag 2))

/-- The maximum population of a k-piece (R22). -/
def Launch.maxPop (l : Launch) : Nat → Nat
  | 0 => 1
  | k + 1 => product (dims.map (fun d => l.count (k + 1) d 1)) * l.maxPop k

/-- Lane slots of a domain (R22). -/
def laneSlots (domain : Nat) : Nat := [32, 2048, 8192, 106496, 851968, 218103808].getD domain 0

/-- A dimension word breaks R20. -/
def Launch.dimBad (l : Launch) (k d : Nat) : Bool :=
  let mn := l.count k d 0
  let mx := l.count k d 1
  let mu := l.count k d 2
  let pf := l.count k d 3
  mu == 0 || mn == 0 || decide (pf < mn) || decide (mx < pf) || mn % mu != 0 || pf % mu != 0 || mx % mu != 0 ||
    (decide (l.ndim ≤ d) && !(mn == 1 && mx == 1 && mu == 1 && pf == 1))

/-- A level entry breaks R19 to R22. -/
def Launch.levelBad (l : Launch) (k : Nat) : Bool :=
  let dom := l.domain k
  !bitAt (l.orders k) (l.order k) || (decide (1 < k) && decide (dom < l.domain (k - 1))) ||
    decide (l.scope k < dom + 1) || decide (10 < l.scope k) || dims.any (l.dimBad k) ||
    (dom == 0 && (decide (32 < l.maxPop k) || l.gang k)) || (l.gang k && decide (laneSlots dom < l.maxPop k)) ||
    (l.barrier k && decide (2 ^ 28 ≤ l.maxPop k))

/-- Errors of R29 up to the constant table's address, in table order; 0 where there is none. -/
def Launch.errorBefore (l : Launch) : Nat :=
  if l.version ≠ 1 then 0x102
  else if l.reservedBad then 0x103
  else if l.spaceBad then 0x104
  else if !(1 ≤ l.nlevel && l.nlevel ≤ 8) || l.levels.any l.levelBad then 0x105
  else if l.body % 8 ≠ 0 ∨ l.restart % 8 ≠ 0 then 0x106
  else if 32 < l.nconst ∨ (l.nconst ≠ 0 ∧ l.constsAt % 8 ≠ 0) then 0x107
  else 0

/-- Bytes of an element of a reduction format, 0 where the tag is none of R27. -/
def slotBytes (fmt : Nat) : Nat := [0, 4, 4, 8, 8, 4, 8].getD fmt 0

/-- LREC_SLOT: a used reduction slot breaks R27. -/
def Launch.slotBad (l : Launch) (n : Nat) : Bool :=
  let b := slotBytes (l.slotFmt n)
  let fixed (k : Nat) : Bool := dims.all (fun d => l.count k d 0 == l.count k d 1 && l.count k d 0 == l.count k d 3)
  l.slotOp n != 0 && (decide (3 < l.slotOp n) || b == 0 || decide (l.nlevel ≤ l.slotLevel n) ||
    !(2 ≤ l.slotScope n && l.slotScope n ≤ 10) || l.slotTarget n % b != 0 ||
    l.levels.any (fun k => decide (k ≤ l.slotLevel n) && !fixed k))

/-- LREC_CUTREC as far as the launch record shows it (R15, R34). R29 names no code for a CUTREC that is no multiple of 32: this
one (DESIGN CHOICE, log entry 98). -/
def Launch.cutBad (l : Launch) : Bool :=
  if l.cutrec = 0 then l.flag 1 || l.flag 2
  else l.cutrec % 32 != 0 || decide (l.cutcap < max 2 l.nlevel)

/-- LREC_TASK: TASKRING or TASKCAP out of range (R15). -/
def Launch.taskBad (l : Launch) : Bool :=
  let c := l.taskCap
  if l.taskRing = 0 then c != 0
  else l.taskRing % 64 != 0 || !((List.range 17).any (fun i => decide (1 ≤ i) && c == 2 ^ i))

/-- Errors of R29 from the resources up to the cut record's address. -/
def Launch.errorAfter (l : Launch) : Nat :=
  if !(1 ≤ l.nvreg && l.nvreg ≤ 32) || decide (65536 < l.localSize) || l.localSize % 16 != 0 ||
      (l.roles != 0 && !l.levels.any (fun k => l.domain k == 1)) then 0x108
  else if (List.range 8).any l.slotBad then 0x109
  else if l.cutBad then 0x10A
  else 0

/-! ### The cut record -/

/-- DIGEST of a launch record (R33). -/
def Launch.digest (l : Launch) : List Byte := (sha256 (l.bytes 0x10 16 ++ l.bytes 0x60 280)).take 8

/-- The header entry (R33). -/
def Launch.headerEntry (l : Launch) (used retired : Nat) : List Byte :=
  [0, 1, 0, 0] ++ leBytes 4 used ++ l.digest ++ leBytes 8 retired ++ leBytes 8 0

/-- A decision entry (R33). -/
def cutEntry (kind level : Nat) (c : Cut) (source : Bool) (at_ anchor fill lines spread : Nat) : List Byte :=
  leBytes 1 kind ++ leBytes 1 level ++ leBytes 1 c.order ++ [if source then 1 else 0] ++ leBytes 4 at_ ++
    c.shape.flatMap (leBytes 2) ++ leBytes 8 anchor ++ leBytes 1 fill ++ leBytes 1 lines ++ leBytes 2 spread ++ leBytes 4 0

/-- The cut of a decision entry. -/
def entryCut (e : List Byte) : Cut :=
  { shape := dims.map (fun d => fieldAt e (8 + 2 * d) 2), order := fieldAt e 2 1 % 4 }

/-- A shape and order within the bounds of a level (R35). -/
def Launch.cutFits (l : Launch) (k : Nat) (c : Cut) : Bool :=
  bitAt (l.orders k) c.order && dims.all (fun d =>
    let n := c.shape.getD d 0
    decide (l.count k d 0 ≤ n) && decide (n ≤ l.count k d 1) && n % l.count k d 2 == 0)

/-- A decision entry is valid by its own bytes: KIND, LEVEL, reserved fields, SHAPE and ORDER (R33, R35). -/
def Launch.entryFits (l : Launch) (kind : Nat) (e : List Byte) : Bool :=
  let k := fieldAt e 1 1
  fieldAt e 0 1 == kind && 1 ≤ k && k < l.nlevel && fieldAt e 2 1 / 4 == 0 && fieldAt e 3 1 / 2 == 0 &&
    !someSet ((e.drop 28).take 4) && l.cutFits k (entryCut e)

/-- The header passes the first three checks of R34. -/
def Launch.headerFits (l : Launch) (h : List Byte) : Bool :=
  fieldAt h 0 1 == 0 && fieldAt h 1 1 == 1 && !someSet ((h.drop 2).take 2) && !someSet ((h.drop 24).take 8) &&
    (h.drop 8).take 8 == l.digest && decide (l.nlevel ≤ fieldAt h 4 4) && decide (fieldAt h 4 4 ≤ l.cutcap)

/-- The first-cut entries of levels `ks` from the record; none where an entry cannot be read or is not the first-cut entry of
its level (R34). -/
def State.firstEntries (s : State) (lid : Nat) (l : Launch) : List Nat → State × Option (List (List Byte))
  | [] => (s, some [])
  | k :: ks =>
    match s.frontLoad l.leaf l.vi lid (l.cutrec + 32 * k) 32 with
    | (s, none) => (s, none)
    | (s, some e) =>
      if fieldAt e 1 1 = k && l.entryFits 1 e then
        match s.firstEntries lid l ks with
        | (s, some es) => (s, some (e :: es))
        | r => r
      else (s, none)

/-- The extent of a k-piece in points along a dimension before clipping (R21). -/
def fullExtent (cuts : List Cut) (k d : Nat) : Nat := product ((cuts.take k).map (fun c => c.shape.getD d 1))

/-- Dimension d* of a launch (R364), and the points of one unit along it. -/
def Launch.slabDim (l : Launch) : Nat := l.ndim - 1
def Launch.slabStride (l : Launch) : Nat := product ((List.range l.slabDim).map l.space)

/-- How many k-pieces lie wholly below a slab boundary under a cut (R368). -/
def Launch.piecesBelow (l : Launch) (cuts : List Cut) (k anchor : Nat) : Nat :=
  product ((List.range (l.slabDim + 1)).map (fun d =>
    let e := fullExtent cuts k d
    ((if d = l.slabDim then anchor / l.slabStride else l.space d) + e - 1) / e))

/-- A first-cut entry obeys R368, as every valid entry does (R34, R35): its ANCHOR is a slab boundary or the number of points,
and its AT not above the pieces below it. The cut it is judged by is the first cut itself, for none stood before it (DEDUCED,
log entry 98). -/
def Launch.anchorFits (l : Launch) (cuts : List Cut) (e : List Byte) : Bool :=
  let anchor := fieldAt e 16 8
  (anchor == l.npoints ||
    (decide (anchor < l.npoints) && anchor % (fullExtent cuts (l.nlevel - 1) l.slabDim * l.slabStride) == 0)) &&
    decide (fieldAt e 4 4 ≤ l.piecesBelow cuts (fieldAt e 1 1) anchor)

/-- First-cut entries and header that a logging Grader begins the record with (R34). -/
def Launch.firstLog (l : Launch) (g : Grader) : List (Nat × List Byte) :=
  (0, l.headerEntry l.nlevel 0) :: l.levels.map (fun k =>
    (32 * k, cutEntry 1 k (g.cuts.getD (k - 1) ⟨[1, 1, 1, 1], 0⟩) (g.sources.getD (k - 1) false) 0 0 0 0 0))

/-- The Grader of a launch whose first cuts are known (R34, R364), with the AT of the entries they come from; `entries` of the
record are replayed. -/
def Launch.graderOf (l : Launch) (replay : Bool) (entries : Nat) (cuts : List Cut) (ats : List Nat) : Grader :=
  let n := l.nlevel - 1
  let many := decide (1 < l.nlevel)
  { replay := replay, logging := !replay && l.cutrec != 0,
    slabbed := many && (l.interval != 0 || (replay && decide (l.nlevel < entries))),
    windowed := many && !replay && l.interval != 0, used := l.nlevel, cuts := cuts,
    sources := List.replicate n false, stats := List.replicate n {}, winLeft := l.interval, nextEntry := l.nlevel,
    entries := entries, lastAt := ats, laid := List.replicate n 0 }

/-- The Grader with which a launch starts, or none where LREC_CUTREC applies (R34, R68): from the record in replay mode
and under FIRSTCUT; from the host, which is asked once for each level; else from PREF and ORDER. -/
def State.startGrader (s : State) (lid : Nat) (l : Launch) : State × Option Grader :=
  let pref := l.levels.map (fun k => ({ shape := dims.map (fun d => l.count k d 3), order := l.order k } : Cut))
  let log (g : Grader) : Grader := if g.logging then { g with log := l.firstLog g } else g
  let (s, head) := if l.cutrec ≠ 0 && (l.flag 0 || l.flag 1 || l.flag 2) then s.frontLoad l.leaf l.vi lid l.cutrec 32
    else (s, none)
  let replay := l.flag 1 || (l.flag 0 && decide (2 ≤ fieldAt (head.getD []) 4 4))
  if replay || l.flag 2 then
    match head with
    | none => (s, none)
    | some h =>
      if !l.headerFits h then (s, none)
      else match s.firstEntries lid l l.levels with
        | (s, none) => (s, none)
        | (s, some es) =>
          let cuts := es.map entryCut
          if es.all (l.anchorFits cuts) then
            (s, some (log (l.graderOf replay (if replay then fieldAt h 4 4 else 0) cuts (es.map (fun e => fieldAt e 4 4)))))
          else (s, none)
  else
    let g := l.graderOf false 0 pref (l.levels.map (fun _ => 0))
    if s.assisted l.leaf 2 && decide (1 < l.nlevel) then (s, some { g with awaited := l.levels }) else (s, some (log g))

/-- FILL, LINES and SPREAD of the pieces of a level (R363). -/
def LevelStat.measures (t : LevelStat) : Nat × Nat × Nat :=
  (if t.issues = 0 then 0 else 255 * t.lanes / (32 * t.issues),
   if t.memIssues = 0 then 0 else min 0xFF (16 * t.lines / t.memIssues),
   if t.sumDur = 0 then 0x100 else min 0xFFFF (256 * t.maxDur * t.retired / t.sumDur))

/-- What a request about the cut of level `k` carries beside the level (R367): SHAPE and ORDER as they are, and the three
measurements. -/
def Grader.cutData (g : Grader) (k : Nat) : List Nat :=
  let c := g.cuts.getD (k - 1) ⟨[], 0⟩
  let m := (g.stats.getD (k - 1) {}).measures
  c.shape ++ [c.order, m.1, m.2.1, m.2.2]

/-! ### Launches that do not start -/

/-- A launch that fails before it has started: a queue's launch completes at once with the error; the task that asked for a
child launch counts as completed, and the parent learns of it (R29, R31, R46). -/
def State.failLaunch (s : State) (lid code : Nat) : State :=
  match s.launch lid with
  | none => s
  | some l => match l.parent with
    | none => (s.modLaunch lid (fun l => { l.addError code 1 with counter := 0, counted := true, laidOut := true })).zeroCounter lid
    | some p =>
      let s := { s with launches := tblErase s.launches lid }
      (s.modLaunch p (fun x => x.addError code 5)).count1 p

/-! ### LAUNCH_RECORD_READ -/

/-- 64-bit words of a byte string. -/
def wordsOf (n : Nat) (bs : List Byte) : List DWord := (List.range n).map (fun i => BitVec.ofNat 64 (fieldAt bs (8 * i) 8))

/-- The record and the constant table of a launch read and checked (R28, R29): the launch, or the first error. Of the instants
from which R28 lets the bytes come, each is read at this step (DESIGN CHOICE, log entry 98). -/
def State.readLaunch (s : State) (lid : Nat) (l : Launch) : State × Except Nat Launch :=
  if l.lrec.toNat % 64 ≠ 0 then (s, .error 0x101)
  else match s.frontLoad l.leaf l.vi lid l.lrec.toNat 512 with
    | (s, none) => (s, .error 0x101)
    | (s, some bs) =>
      let l := { l with record := bs }
      if l.errorBefore ≠ 0 then (s, .error l.errorBefore)
      else
        let (s, cs) := if l.nconst = 0 then (s, some []) else s.frontLoad l.leaf l.vi lid l.constsAt (8 * l.nconst)
        match cs with
        | none => (s, .error 0x107)
        | some cs =>
          if l.errorAfter ≠ 0 then (s, .error l.errorAfter)
          else match s.startGrader lid l with
            | (s, none) => (s, .error 0x10A)
            | (s, some g) =>
              if l.taskBad then (s, .error 0x10B)
              else (s, .ok { l with consts := wordsOf l.nconst cs, grader := g, counter := 1 })

/-- Work of a leaf is admitted: it is not stopped, the interface's tenant is resident, the policy core runs, and its invalidations
are acknowledged (R60, R65, R67, R179). -/
def State.admits (s : State) (l : Launch) : Bool :=
  !s.leafStopped l.leaf && s.residentVi l.vi && !s.policyDown && !s.unacked l.leaf

/-- LAUNCH_RECORD_READ (R29, R46, R47): a released launch starts, is armed, or completes at once with its error. -/
def State.launchRead (s : State) (lid : Nat) : State :=
  match s.launch lid with
  | none => s
  | some l =>
    if l.phase ≠ .released || !s.admits l || s.exhausted l.leaf 5 then s
    else match s.readLaunch lid l with
      | (s, .error code) => s.failLaunch lid code
      | (s, .ok l) =>
        let s := l.grader.awaited.foldl (fun s k => s.askAssist l.leaf 2 (lid :: k :: l.grader.cutData k))
          { s with launches := tblSet s.launches lid l }
        if !l.flag 5 then s.modLaunch lid (fun l => { l with phase := .running })
        else if 64 ≤ (s.armedOf l.vi).length then s.failLaunch lid 0x303
        else { s.bump with launches := tblSet s.launches lid { l with phase := .armed, armedAt := s.nextId } }

/-- LAUNCH_RECORD_READ (R29). -/
def execLaunchRecordRead (lid : Nat) (s : State) : Out := .next (s.launchRead lid)

end Sys2Proof.Machine
end

