-- ==== Sys2Proof/Machine/Grader.lean ====
section
/-!
DEFINITION. The Grader (R21, R68 to R71, R364 to R368): grids and traversal orders, slabs, the pieces and groups of a
top-level piece as it is laid out, the entries of a replayed record, writes to the cut record, and re-cut decisions.
-/

namespace Sys2Proof.Machine
open Sys2Proof

/-! ### Grids (R69, R70) -/

/-- The n-th position of a plane in Morton order, positions outside it skipped: the quadrants of a square of side
`2 ^ (b + 1)` at (x, y), one after the other (R70). -/
def mortonAt (gx gy : Nat) : Nat → Nat → Nat → Nat → Nat × Nat
  | 0, x, y, _ => (x, y)
  | b + 1, x, y, n =>
    let h := 2 ^ b
    let size (dx dy : Nat) : Nat := min h (gx - (x + dx * h)) * min h (gy - (y + dy * h))
    let a := size 0 0
    let c := a + size 1 0
    let d := c + size 0 1
    if n < a then mortonAt gx gy b x y n
    else if n < c then mortonAt gx gy b (x + h) y (n - a)
    else if n < d then mortonAt gx gy b x (y + h) (n - c)
    else mortonAt gx gy b (x + h) (y + h) (n - d)

/-- The n-th position of a grid in a traversal order (R70). -/
def gridAt (order : Nat) (grid : List Nat) (n : Nat) : List Nat :=
  let gx := grid.getD 0 1
  let gy := grid.getD 1 1
  let gz := grid.getD 2 1
  let r := n % (gx * gy)
  let p := n / (gx * gy)
  let (ix, iy) :=
    if order = 1 then (r / gy, r % gy)
    else if order = 2 then mortonAt gx gy 33 0 0 r
    else if order = 3 && (r / gx + gy * p) % 2 == 1 then (gx - 1 - r % gx, r / gx)
    else (r % gx, r / gx)
  [ix, iy, p % gz, p / gz]

/-- The number of a position in its grid (R76). -/
def gridNumber (grid ix : List Nat) : Nat :=
  ix.getD 0 0 + grid.getD 0 1 * (ix.getD 1 0 + grid.getD 1 1 * (ix.getD 2 0 + grid.getD 2 1 * ix.getD 3 0))

/-- The point with a number in the point order of a piece (R71). -/
def pointOf (org ext : List Nat) (n : Nat) : List Nat :=
  let ex := ext.getD 0 1
  let ey := ext.getD 1 1
  let ez := ext.getD 2 1
  [org.getD 0 0 + n % ex, org.getD 1 0 + n / ex % ey, org.getD 2 0 + n / (ex * ey) % ez, org.getD 3 0 + n / (ex * ey * ez)]

/-- The number of a point in the point order of a piece (R71). -/
def pointIndex (org ext pt : List Nat) : Nat := gridNumber ext (dims.map (fun d => pt.getD d 0 - org.getD d 0))

/-- A piece contains a point. -/
def Piece.holds (p : Piece) (pt : List Nat) : Bool :=
  dims.all (fun d => decide (p.org.getD d 0 ≤ pt.getD d 0) && decide (pt.getD d 0 < p.org.getD d 0 + p.ext.getD d 1))

/-! ### Laying out a piece -/

/-- The highest level whose pieces are one group each, or 1 (R71). -/
def Launch.groupTop (l : Launch) : Nat := (l.levels.filter (fun k => l.domain k == 0)).foldl max 1
/-- The lowest level bound to CORE, 0 where there is none (R25). -/
def Launch.coreLevel (l : Launch) : Nat := (l.levels.find? (fun k => l.domain k == 1)).getD 0

/-- Lists of at most 32 entries. -/
def chunks32 {α : Type} : Nat → List α → List (List α)
  | 0, _ => []
  | n + 1, xs => if xs.isEmpty then [] else xs.take 32 :: chunks32 n (xs.drop 32)

/-- Pieces of the levels below `gtop` that hold a point, by level from 1 (R71). -/
def State.ownPieces (s : State) (lid gtop : Nat) (pt : List Nat) : List Nat :=
  (List.range (gtop - 1)).map (fun j =>
    ((s.pieces.find? (fun p => p.2.launch == lid && p.2.level == j + 1 && p.2.holds pt)).map (·.1)).getD 0)

/-- The groups of a piece of level `gtop`: itself, where it is bound to GROUP, else 32 points each (R71). -/
def State.groupPlans (s : State) (lid : Nat) (l : Launch) (pid : Nat) (ups : List Nat) (p : Piece) : List GroupPlan :=
  let gtop := l.groupTop
  let pts := (List.range p.pop).map (pointOf p.org p.ext)
  (chunks32 (p.pop / 32 + 1) pts).map (fun c =>
    { pieces := List.replicate (gtop - 1) 0 ++ pid :: ups, own := c.map (s.ownPieces lid gtop), points := c, unit := pid })

/-- Roles of the groups of a piece of the lowest level bound to CORE (R25). -/
def giveRoles (roles : Nat) (p : Piece) (ps : List GroupPlan) : List GroupPlan :=
  let first (g : GroupPlan) : Nat := pointIndex p.org p.ext (g.points.headD [])
  ps.map (fun g => { g with role := roles / 2 ^ (2 * ((ps.filter (fun h => decide (first h < first g))).length % 16)) % 4 })

/-- A piece of level `k` laid out with everything in it (R69 to R71): its number, and its groups in dispatch order. `ups`
are the pieces that hold it, the lowest first. -/
def State.layPiece (lid : Nat) (l : Launch) (cuts : List Cut) :
    Nat → List Nat → List Nat → Nat → State → State × Nat × List GroupPlan
  | 0, _, _, _, s => (s, 0, [])
  | k + 1, ups, org, pos, s =>
    let pid := s.nextId
    let ext := dims.map (fun d => min (fullExtent cuts (k + 1) d) (l.space d - org.getD d 0))
    let p : Piece :=
      { launch := lid, level := k + 1, parent := ups.head?, org := org, ext := ext, pos := pos, pop := product ext,
        bar := 0xFFFFFFFF, barpkg := 0xFFFFFFFF, subs := [] }
    let s := { s.bump with pieces := tblSet s.pieces pid p }
    let shape := (cuts.getD k ⟨[], 0⟩).shape
    let order := (cuts.getD (k - 1) ⟨[], 0⟩).order
    let origin (ix : List Nat) : List Nat := dims.map (fun d => org.getD d 0 + ix.getD d 0 * fullExtent cuts k d)
    let grid := if k = 0 then [] else
      ((List.range (product shape)).map (gridAt order shape)).filter (fun ix =>
        dims.all (fun d => decide ((origin ix).getD d 0 < l.space d)))
    let r := grid.foldl (fun (r : State × List Nat × List GroupPlan) ix =>
      let q := layPiece lid l cuts k (pid :: ups) (origin ix) (gridNumber shape ix) r.1
      (q.1, r.2.1 ++ [q.2.1], r.2.2 ++ q.2.2)) (s, [], [])
    let s := r.1
    let s := { s with pieces := tblSet s.pieces pid { p with subs := r.2.1 } }
    let s := s.modLaunch lid (fun l => { l with grader := { l.grader with
      laid := l.grader.laid.set k (l.grader.laid.getD k 0 + 1) } })
    let plans := if k + 1 = l.groupTop then s.groupPlans lid l pid ups p else r.2.2
    let plans := if k + 1 = l.coreLevel then giveRoles l.roles p plans else plans
    (s, pid, if l.gang (k + 1) then plans.map (fun g => { g with gang := some pid }) else plans)

/-! ### The cut record in use -/

/-- Who asks for a page on behalf of a launch's records and results. -/
def launchKey (lid : Nat) : Nat := 3 * lid + 2

/-- Bytes written by the front end for a launch, which enter PB; held on a page, or failed (R311, R366). -/
def State.launchWrite (s : State) (lid : Nat) (l : Launch) (a : Nat) (bs : List Byte) : State × Except Reach Nat :=
  match s.reachAll (frontX l.leaf l.vi) 0 (launchKey lid) .supervisor { w := true } ((List.range bs.length).map (fun i => a + i)) with
  | (s, .ok ls) => let (s, w) := s.hubWrite lid 4 (ls.zip bs); (s, .ok w)
  | (s, .error e) => (s, .error e)

/-- The state of a launch's Grader changed. -/
def State.modGrader (s : State) (lid : Nat) (f : Grader → Grader) : State :=
  s.modLaunch lid (fun l => { l with grader := f l.grader })

/-- The first of some bytes that the front end cannot reach for an interface meets a PAGE fault, whether or not a request for
the page can be posted (R366). -/
def State.pageFirst (s : State) (l : Launch) (a : Nat) : Nat → Bool
  | 0 => false
  | n + 1 => match s.translate (frontX l.leaf l.vi) { w := true } a with
    | .ok _ => s.pageFirst l (a + 1) n
    | .error (.page _ _) => true
    | .error _ => false

/-- Writes to the cut record are made in order as far as no page holds them; any other failure ends logging, and the levels
keep their cuts (R366). -/
def State.flushFrom (s : State) (lid : Nat) (l : Launch) : List (Nat × List Byte) → State
  | [] => s.modGrader lid (fun g => { g with log := [] })
  | (off, bs) :: r =>
    match s.launchWrite lid l (l.cutrec + off) bs with
    | (s, .ok w) => (s.modGrader lid (fun g => { g with logged := g.logged ++ [w] })).flushFrom lid l r
    | (s, .error .held) => s.modGrader lid (fun g => { g with log := (off, bs) :: r })
    | (s, .error _) =>
      if s.pageFirst l (l.cutrec + off) bs.length then s.modGrader lid (fun g => { g with log := (off, bs) :: r })
      else (s.modGrader lid (fun g => { g with log := [], logging := false, lost := true, pending := none })).addFlags lid 256

/-- The writes to the cut record that wait (R366). -/
def State.flushLog (s : State) (lid : Nat) : State :=
  match s.launch lid with
  | none => s
  | some l => s.flushFrom lid l l.grader.log

/-- Every write to the cut record has been made and has performed at a level. -/
def State.logDone (s : State) (g : Grader) (lvl : Nat) : Bool := g.log.isEmpty && g.logged.all (fun w => s.performed w lvl)

/-! ### Slabs -/

/-- The top-level grid of a slab, or of the whole space where there are no slabs (R69, R364). -/
def Launch.slabGrid (l : Launch) (slabbed : Bool) (cuts : List Cut) : List Nat :=
  dims.map (fun d =>
    let e := fullExtent cuts (l.nlevel - 1) d
    if slabbed && d == l.slabDim then 1 else (l.space d + e - 1) / e)

/-- The launch dispatches nothing further (R35, R74): what is laid out and not dispatched never runs. -/
def State.haltLaying (s : State) (lid code flags : Nat) : State :=
  let s := { s with pieces := s.pieces.map (fun (p : Nat × Piece) =>
    if p.2.launch = lid && p.2.born.isNone then (p.1, { p.2 with retired := true }) else p) }
  s.modLaunch lid (fun l => { l.addError code flags with stopped := true, plans := [], gangAt := none })

/-- Entries of a replayed record that begin at linear index `at_`, applied in order (R368): false where one is invalid
(R35). An entry there that is no re-cut is invalid too (DEDUCED, log entry 98). -/
def State.replayAt (s : State) (lid at_ : Nat) : Nat → State × Bool
  | 0 => (s, true)
  | n + 1 =>
    match s.launch lid with
    | none => (s, true)
    | some l =>
      let g := l.grader
      if !g.replay || g.entries ≤ g.nextEntry then (s, true)
      else match s.frontLoad l.leaf l.vi lid (l.cutrec + 32 * g.nextEntry) 32 with
        | (s, none) => (s, false)
        | (s, some e) =>
          let k := fieldAt e 1 1
          let anchor := fieldAt e 16 8
          let t := fieldAt e 4 4
          if at_ < anchor then (s, decide (anchor ≤ l.npoints))
          else if anchor ≠ at_ || !l.entryFits 2 e || g.laid.getD (k - 1) 0 < t || t < g.lastAt.getD (k - 1) 0 then (s, false)
          else (s.modGrader lid (fun g => { g with
              nextEntry := g.nextEntry + 1, lastAt := g.lastAt.set (k - 1) t,
              cuts := g.cuts.set (k - 1) (entryCut e) })).replayAt lid at_ n

/-- The next slab begins (R364, R366, R368), unless the record's writes have not performed; an invalid entry stops the
launch. -/
def State.openSlab (s : State) (lid : Nat) : State :=
  match s.launch lid with
  | none => s
  | some l =>
    let g := l.grader
    if g.slab.isSome || !s.logDone g 6 then s
    else match (if g.slabbed && g.replay then s.replayAt lid (g.origin * l.slabStride) (g.entries + 1) else (s, true)) with
      | (s, false) => s.haltLaying lid 0x10A 3
      | (s, true) => s.modGrader lid (fun g =>
          let cuts := match g.pending with
            | some (k, c) => g.cuts.set (k - 1) c
            | none => g.cuts
          { g with cuts := cuts, pending := none, slab := some { origin := g.origin, cuts := cuts, next := 0 },
                   origin := if g.slabbed then g.origin + fullExtent cuts (l.nlevel - 1) l.slabDim else l.space l.slabDim })

/-- The next top-level piece laid out in the open slab (R364, R70). -/
def State.layTop (s : State) (lid : Nat) (l : Launch) (sl : Slab) : State :=
  let g := l.grader
  let n := l.nlevel - 1
  let grid := l.slabGrid g.slabbed sl.cuts
  let ix := gridAt (sl.cuts.getD (n - 1) ⟨[], 0⟩).order grid sl.next
  let org := dims.map (fun d =>
    ix.getD d 0 * fullExtent sl.cuts n d + if g.slabbed && d == l.slabDim then sl.origin else 0)
  let (s, _, plans) := State.layPiece lid l sl.cuts n [] org l.dispatched s
  let last := decide (product grid ≤ sl.next + 1)
  s.modLaunch lid (fun l => { l with
    plans := plans, dispatched := l.dispatched + 1, laidOut := last && decide (l.space l.slabDim ≤ g.origin),
    grader := { l.grader with slab := if last then none else some { sl with next := sl.next + 1 },
                              winLeft := l.grader.winLeft - 1, winLive := l.grader.winLive + 1 } })

/-- The next group of a launch without levels (R71). -/
def Launch.layGroup (l : Launch) : Launch :=
  let hi := min (l.nextTop + 32) l.npoints
  let pts := (List.range (hi - l.nextTop)).map (fun i => pointOf [0, 0, 0, 0] (dims.map l.space) (l.nextTop + i))
  { l with plans := [{ points := pts }], nextTop := hi, dispatched := l.dispatched + 1, laidOut := decide (hi = l.npoints) }

/-- The next piece is laid out when everything laid out before it has been dispatched, and its window is open (R364). -/
def State.layOut (s : State) (lid : Nat) : State :=
  match s.launch lid with
  | none => s
  | some l =>
    if l.stopped || l.laidOut || !l.plans.isEmpty then s
    else if l.nlevel = 1 then
      if s.logDone l.grader 6 then s.modLaunch lid Launch.layGroup else s
    else if l.grader.windowed && l.grader.winLeft = 0 then s
    else
      let s := s.openSlab lid
      match s.launch lid with
      | none => s
      | some l => match l.grader.slab with
        | none => s
        | some sl => s.layTop lid l sl

/-! ### Decisions -/

/-- The dimension below `n` with the largest count, the lowest of equals. -/
def largestDim (shape : List Nat) (n : Nat) : Nat :=
  (List.range n).foldl (fun b d => if shape.getD b 0 < shape.getD d 0 then d else b) 0

/-- The first permitted action of R365, none for "no change". -/
def Launch.hardCut (l : Launch) (k : Nat) (c : Cut) (t : LevelStat) : Option Cut :=
  let (fill, lines, spread) := t.measures
  let big := largestDim c.shape l.ndim
  let n := c.shape.getD big 0
  let mu := l.count k big 2
  if 0x200 ≤ spread ∧ l.count k big 0 + mu ≤ n then some { c with shape := c.shape.set big (n - mu) }
  else match (if fill < 0xC0 then
      (List.range l.ndim).find? (fun d => decide (c.shape.getD d 0 + l.count k d 2 ≤ l.count k d 1)) else none) with
    | some d => some { c with shape := c.shape.set d (c.shape.getD d 0 + l.count k d 2) }
    | none =>
      if 0x40 < lines then
        ([1, 2, 3].map (fun j => (c.order + j) % 4)).find? (fun o => bitAt (l.orders k) o) |>.map (fun o => { c with order := o })
      else none

/-- A decision of level `k` taken (R364, R366): it is pending until its slab begins, and a logging Grader appends its entry
and rewrites the header. The level's count starts again. -/
def State.takeDecision (s : State) (lid k : Nat) (c : Option Cut) (source : Bool) : State :=
  match s.launch lid with
  | none => s
  | some l =>
    let g := l.grader
    let t := g.stats.getD (k - 1) {}
    let stats := g.stats.set (k - 1) { total := t.total }
    match c with
    | none => s.modGrader lid (fun g => { g with stats := stats })
    | some c =>
      let (fill, lines, spread) := t.measures
      let anchor := if l.space l.slabDim ≤ g.origin then l.npoints else g.origin * l.slabStride
      let entry := cutEntry 2 k c source t.total anchor fill lines spread
      let s := s.modGrader lid (fun g => { g with
        stats := stats, pending := some (k, c),
        used := if g.logging then g.used + 1 else g.used,
        log := if g.logging then g.log ++ [(32 * g.used, entry), (0, l.headerEntry (g.used + 1) g.retired)] else g.log })
      s.flushLog lid

/-- A level is due at a decision point (R364), or would be were the record not full or lost. -/
def Launch.due (l : Launch) (k : Nat) : Bool :=
  !l.laidOut && l.grader.pending.isNone && decide (l.interval ≤ (l.grader.stats.getD (k - 1) {}).retired)

/-- Levels `k` down to 1 at a decision point (R364 to R367); then the next window opens. A level whose decision is the
host's waits for its reply. -/
def State.decideFrom (lid : Nat) : Nat → State → State
  | 0, s => s.modLaunch lid (fun l => { l with grader := { l.grader with winLeft := l.interval, asked := none } })
  | k + 1, s =>
    match s.launch lid with
    | none => s
    | some l =>
      let g := l.grader
      if !l.due (k + 1) || g.lost then decideFrom lid k s
      else if g.logging && l.cutcap ≤ g.used then decideFrom lid k (s.addFlags lid 128)
      else if s.assisted l.leaf 2 then
        (s.modGrader lid (fun g => { g with asked := some (k + 1) })).askAssist l.leaf 2 (lid :: (k + 1) :: g.cutData (k + 1))
      else
        let c := l.hardCut (k + 1) (g.cuts.getD k ⟨[], 0⟩) (g.stats.getD k {})
        decideFrom lid k (s.takeDecision lid (k + 1) c false)

/-- The host's answer about a cut of level `k` (R68, R367): a cut within the bounds, no change, or nothing of use, which
leaves it to the device. -/
inductive CutReply where
  | cut (c : Cut)
  | same
  | none
  deriving DecidableEq, Repr

/-- The decision of an open decision point is answered (R367). -/
def State.replyDecision (s : State) (lid k : Nat) (r : CutReply) : State :=
  match s.launch lid with
  | none => s
  | some l =>
    if l.grader.asked ≠ some k then s
    else
      let hard := l.hardCut k (l.grader.cuts.getD (k - 1) ⟨[], 0⟩) (l.grader.stats.getD (k - 1) {})
      let (c, source) := match r with
        | .cut c => if l.cutFits k c then (some c, true) else (hard, false)
        | .same => (none, true)
        | .none => (hard, false)
      State.decideFrom lid (k - 1) ((s.modGrader lid (fun g => { g with asked := none })).takeDecision lid k c source)

/-- The first cut of a level is answered (R68); with the last answer the record is begun (R34). A cut outside the level's
bounds is treated as a timeout, and counted as one (R66). The answer "no change" leaves PREF and ORDER, as no answer does
(DESIGN CHOICE, log entry 98). -/
def State.replyFirst (s : State) (lid k : Nat) (r : CutReply) : State :=
  match s.launch lid with
  | none => s
  | some l =>
    let late := match r with
      | .cut c => !l.cutFits k c
      | _ => false
    if !l.grader.awaited.contains k then s
    else (if late then s.countErr l.leaf 5 else s).modLaunch lid (fun l =>
      let g := l.grader
      let g := match r with
        | .cut c => if l.cutFits k c then { g with cuts := g.cuts.set (k - 1) c, sources := g.sources.set (k - 1) true } else g
        | _ => g
      let g := { g with awaited := g.awaited.filter (fun j => j ≠ k) }
      { l with grader := if g.awaited.isEmpty && g.logging then { g with log := l.firstLog g } else g })

/-- A reply about cuts (R392): the first cut awaited for the level, or the decision asked. -/
def State.replyCut (s : State) (lid k : Nat) (r : CutReply) : State :=
  match s.launch lid with
  | none => s
  | some l => if l.grader.awaited.contains k then s.replyFirst lid k r else s.replyDecision lid k r

end Sys2Proof.Machine
end

