-- ==== Sys2Proof/Machine/Dispatcher.lean ====
section
/-!
DEFINITION. The dispatcher (R72 to R74, R80 to R83, R31): which places groups may take, the barriers armed
at a dispatch, new groups; the reading of task records; and the retirement of pieces and TASK groups (R362, R48).
-/

namespace Sys2Proof.Machine
open Sys2Proof

/-! ### Places -/

/-- A group lies in a piece: with all of its lanes, or with some (R71). -/
def Group.inPiece (g : Group) (pid : Nat) : Bool := g.pieces.contains pid || g.lanes.any (fun l => l.2.own.contains pid)

/-- A context of a core holds no group. -/
def State.contextFree (s : State) (core ctx : Nat) : Bool :=
  s.groups.all (fun p => p.2.freed || !p.2.resident || p.2.core != core || p.2.ctx != ctx)

/-- A core and context of a leaf that can take a group. -/
def State.placeFree (s : State) (leaf : Nat) (p : Nat × Nat) : Bool :=
  decide (p.1 < 416) && decide (p.2 < 64) && (s.part leaf).clusters.getLsbD (clusterOf p.1) && !s.asleep p.1 &&
    s.contextFree p.1 p.2

/-- No entry occurs twice. -/
def allDistinct : List (Nat × Nat) → Bool
  | [] => true
  | p :: ps => !ps.contains p && allDistinct ps

/-- Every piece keeps to one instance of its level's domain (R81): the placed groups with one another and with all
placed before. -/
def State.domainsKept (s : State) (l : Launch) (ps : List (GroupPlan × Nat × Nat)) : Bool :=
  ps.all (fun p => p.1.pieces.all (fun pid => match s.piece pid with
    | none => true
    | some q =>
      let at_ := instanceOf (l.domain q.level) p.2.1
      ps.all (fun o => !o.1.pieces.contains pid || instanceOf (l.domain q.level) o.2.1 == at_) &&
        s.groups.all (fun g => !g.2.pieces.contains pid || instanceOf (l.domain q.level) g.2.core == at_)))

/-- A gang is placed whole (R82). -/
def gangsWhole (plans : List GroupPlan) (n : Nat) : Bool :=
  (plans.take n).all (fun g => match g.gang with
    | none => true
    | some q => (plans.drop n).all (fun h => decide (h.gang ≠ some q)))

/-- Groups whose images the head of the plans needs at once: of its gang, or of its piece (R74, R82). -/
def Launch.headGroups (l : Launch) : Nat :=
  match l.plans with
  | [] => 0
  | g :: r => 1 + (r.filter (fun h => if g.gang.isSome then h.gang = g.gang else g.unit ≠ 0 && h.unit = g.unit)).length

/-- The first groups of a launch may take these places now. -/
def State.placesFit (s : State) (lid : Nat) (l : Launch) (places : List (Nat × Nat)) : Bool :=
  let n := places.length
  decide (0 < n) && decide (n ≤ l.plans.length) && places.all (s.placeFree l.leaf) && allDistinct places &&
    places.all (fun p => !s.keptFor (some lid) p.1) && gangsWhole l.plans n && s.domainsKept l ((l.plans.take n).zip places) &&
    (s.withImages l n).isSome

/-! ### Armed barriers (R80) -/

/-- The lowest free object of a store. -/
def State.freeBarrier (s : State) (lvl : Bool) (unit : Nat) : Option Nat :=
  (List.range (barCount lvl)).find? (fun i => (tblFind s.barriers (handleAt lvl unit i)).isNone) |>.map (handleAt lvl unit)

/-- A piece is dispatched with its first groups: the time, its home cluster, its armed barrier; none while its store has no
free object (R80, R294). -/
def State.birth (s : State) (l : Launch) (ps : List (GroupPlan × Nat × Nat)) (pid : Nat) : Option State :=
  match s.piece pid with
  | none => some s
  | some p =>
    if p.born.isSome then some s
    else
      let cores := (ps.filter (fun x => x.1.all.contains pid)).map (fun x => x.2.1)
      let core := cores.foldl min (cores.headD 0)
      let p := { p with born := some s.time, homeCluster := some (clusterOf core) }
      if !l.barrier p.level then some { s with pieces := tblSet s.pieces pid p }
      else
        let lvl := decide (2 ≤ l.domain p.level)
        match s.freeBarrier lvl (if lvl then clusterOf core else core) with
        | none => none
        | some h =>
          let b : Barrier := { owner := .piece pid, leaf := l.leaf, scope := BitVec.ofNat 4 (l.scope p.level),
                               far := if l.domain p.level = 5 then some s.dpkg else none, exparr := p.pop }
          some { s with pieces := tblSet s.pieces pid { p with bar := BitVec.ofNat 32 h, barpkg := BitVec.ofNat 32 s.dpkg },
                        barriers := tblSet s.barriers h b }

/-- Every piece that the groups open is dispatched, or none. -/
def State.births (s : State) (l : Launch) (ps : List (GroupPlan × Nat × Nat)) : List Nat → Option State
  | [] => some s
  | pid :: r => (s.birth l ps pid).bind (fun s => s.births l ps r)

/-! ### New groups (R72) -/

/-- A lane at its first issue (R72). -/
def firstLane (addr : Nat) (pt own : List Nat) : Lane :=
  { addr := BitVec.ofNat 48 addr, cx := BitVec.ofNat 32 (pt.getD 0 0), cy := BitVec.ofNat 32 (pt.getD 1 0),
    cz := BitVec.ofNat 32 (pt.getD 2 0), cw := BitVec.ofNat 32 (pt.getD 3 0), own := own }

/-- K registers of a new group: the constants, the payload address of a pre-armed launch, the arguments of a task (R23,
R31). -/
def firstK (l : Launch) (args : List DWord) : Tbl DWord :=
  let put (t : Tbl DWord) (p : Nat × DWord) : Tbl DWord := tblPut t 0 p.1 p.2
  let t := ((List.range 32).zip l.consts).foldl put []
  let t := match l.payload with
    | some a => put t (0, a)
    | none => t
  ((List.range 6).zip args).foldl put t

/-- A group of a plan at a place (R72, R336). -/
def State.newGroup (s : State) (lid : Nat) (l : Launch) (x : GroupPlan × Nat × Nat) : Group where
  launch := lid
  vi := l.vi
  leaf := l.leaf
  core := x.2.1
  ctx := x.2.2
  task := x.1.task.isSome
  role := x.1.role
  pieces := x.1.pieces
  lanes := (List.range x.1.points.length).map (fun i =>
    (i, firstLane ((x.1.task.map (fun t => t.1.toNat)).getD l.body) (x.1.points.getD i []) (x.1.own.getD i [])))
  k := firstK l ((x.1.task.map (·.2)).getD [])
  image := x.1.image
  tvecS := (s.vi l.vi).stvec
  tvecH := (s.part l.leaf).hvec

/-- A group put on its place. -/
def State.addGroup (s : State) (lid : Nat) (l : Launch) (x : GroupPlan × Nat × Nat) : State :=
  let gid := s.nextId
  let s := { s.bump with groups := tblSet s.groups gid (s.newGroup lid l x) }
  if x.1.task.isSome then s.modLaunch lid (fun l => { l with taskGroups := l.taskGroups ++ [gid] }) else s

/-- Accumulator sets that no group has claimed are zero at the start of a launch, on the cores of its leaf (R239). -/
def State.zeroSets (s : State) (leaf : Nat) : State :=
  { s with cores := s.cores.map (fun p => if (s.part leaf).clusters.getLsbD (clusterOf p.1) then
      (p.1, { p.2 with sets := p.2.sets.filter (fun z => (s.holder p.1 z.1).isSome) }) else p) }

/-- The first dispatch of a launch sets START, and starts its queue's watchdog where no launch counted before (R50, R59). -/
def State.firstDispatch (s : State) (lid : Nat) (l : Launch) : State :=
  if l.start.isSome then s
  else
    let idle := decide (s.watched l.vi l.queue = 0)
    let s := (s.zeroSets l.leaf).modLaunch lid (fun l => { l with start := some s.time })
    if l.parent.isNone && idle then s.startWatchdog l.vi l.queue else s

/-! ### PIECE_DISPATCH -/

/-- TASK groups placed, in order (R31). -/
def State.placeTasks (s : State) (lid : Nat) (l : Launch) (places : List (Nat × Nat)) : State :=
  let n := places.length
  if n ≤ l.taskPlans.length && places.all (s.placeFree l.leaf) && allDistinct places && places.all (fun p => !s.keptFor none p.1) then
    match allocImages (s.part l.leaf) l.poolBytes (s.imagesHeld l.leaf) ((l.taskPlans.take n).map (fun g => (true, g))) with
    | none => s
    | some gs =>
      let s := (gs.zip places).foldl (fun s x => s.addGroup lid l x) s
      s.modLaunch lid (fun l => { l with taskPlans := l.taskPlans.drop n })
  else s

/-- Groups of pieces placed, in order (R72, R74, R80, R82); a gang that finds no room keeps its domain instance. -/
def State.placeGroups (s : State) (lid : Nat) (l : Launch) (places : List (Nat × Nat)) : State :=
  let plans := (s.withImages l places.length).getD l.plans
  let ps := plans.zip places
  let wait (s : State) : State :=
    match l.plans, places with
    | g :: _, p :: _ =>
      if g.gang.isSome && l.gangAt.isNone && (s.part l.leaf).clusters.getLsbD (clusterOf p.1) then
        s.modLaunch lid (fun l => { l with gangAt := some p.1 })
      else s
    | _, _ => s
  if l.plans.isEmpty then s
  else if (s.part l.leaf).imagePool < l.headGroups * l.poolBytes then s.haltLaying lid 0x108 3
  else if !s.placesFit lid l places then wait s
  else match s.births l ps (distinct (ps.flatMap (fun x => x.1.all))) with
    | none => wait s
    | some s =>
      let s := s.firstDispatch lid l
      let s := ps.foldl (fun s x => s.addGroup lid l x) s
      s.modLaunch lid (fun l => { l with plans := plans.drop places.length, gangAt := none })

/-- A launch has come to the end of its own pieces: everything laid out or stopped, dispatched, and retired. -/
def State.piecesOver (s : State) (lid : Nat) (l : Launch) : Bool :=
  (l.laidOut || l.stopped) && l.plans.isEmpty && s.pieces.all (fun p => p.2.launch != lid || p.2.retired) &&
    s.groups.all (fun p => p.2.launch != lid || p.2.task || p.2.freed)

/-- A launch whose last piece has retired subtracts its own count (R48); entries of a replayed record that are left over
must stand at the end of the space (R368). -/
def State.finishLaunch (s : State) (lid : Nat) : State :=
  match s.launch lid with
  | none => s
  | some l =>
    if l.phase ≠ .running || l.counted || !s.piecesOver lid l then s
    else
      let (s, ok) := if l.stopped then (s, true) else s.replayAt lid l.npoints (l.grader.entries + 1)
      let s := if ok then s else s.modLaunch lid (fun l => l.addError 0x10A 1)
      (s.modLaunch lid (fun l => { l with counted := true })).count1 lid

/-- PIECE_DISPATCH (R82): the tasks of a launch, or its next groups, take the places given, one by one in dispatch order. -/
def State.pieceDispatch (s : State) (lid : Nat) (places : List (Nat × Nat)) : State :=
  match s.launch lid with
  | none => s
  | some l =>
    if l.phase ≠ .running || !s.admits l then s
    else if !l.taskPlans.isEmpty then s.placeTasks lid l places
    else if !l.grader.awaited.isEmpty then s
    else
      let s := (s.flushLog lid).layOut lid
      match s.launch lid with
      | none => s
      | some l => (s.placeGroups lid l places).finishLaunch lid

/-! ### TASK_RECORD_READ -/

/-- A task record that breaks R30, or is neither kind. -/
def taskRecordBad (r : List Byte) : Bool :=
  let kind := fieldAt r 0 1
  !(kind == 1 || kind == 2) || fieldAt r 1 7 != 0 || (kind == 1 && fieldAt r 8 8 % 8 != 0)

/-- The launch that a SPACE record starts (R31). -/
def Launch.child (l : Launch) (lid lrec : Nat) : Launch :=
  { l with lrec := BitVec.ofNat 64 lrec, csig := 0, cval := 0, setMask := [], intr := false, parent := some lid,
           record := [], consts := [], payload := none, payloadSlot := none, phase := .released, counter := 0, error := 0,
           flags := 0, start := none, end_ := 0, nextTop := 0, dispatched := 0, stopped := false, laidOut := false,
           counted := false, tasks := [], taskGroups := [], ored := [], grader := {}, plans := [], taskPlans := [],
           gangAt := none, step := 0, slotsDone := 0, slotWrites := [], sigWrite := none }

/-- A task record read starts a TASK group or a child launch, or nothing (R30, R31). -/
def State.startTask (s : State) (lid : Nat) (l : Launch) (r : Option (List Byte)) : State :=
  match r with
  | none => (s.modLaunch lid (fun l => l.addError 0x10B 5)).count1 lid
  | some r =>
    let target := fieldAt r 8 8
    if taskRecordBad r then (s.modLaunch lid (fun l => l.addError 0x10B 5)).count1 lid
    else if fieldAt r 0 1 = 1 then
      let g : GroupPlan := { points := allLanes.map (fun i => [i, 0, 0, 0]),
                             task := some (BitVec.ofNat 64 target, wordsOf 6 (r.drop 16)) }
      s.modLaunch lid (fun l => { l with taskPlans := l.taskPlans ++ [g] })
    else { s.bump with launches := tblSet s.launches s.nextId (l.child lid target) }

/-- TASK_RECORD_READ (R31, R140): the front end reads the oldest unread record of a `spawn` whose lanes' writes have
performed at PACKAGE; its slot is free again, and with its last record the operation ends. -/
def State.taskRead (s : State) (gid op : Nat) : State :=
  match s.group gid with
  | none => s
  | some g => match g.op op, s.launchOf g with
    | some o, some l => match o.kind with
      | .spawn (a :: r) ws =>
        if o.ended || !ws.all (fun w => s.performed w 4) || !s.admits l || s.exhausted g.leaf 5 then s
        else
          let (s, bs) := s.frontLoad g.leaf g.vi g.launch a.toNat 64
          let n := (a.toNat - l.taskRing) / 64
          let s := s.modLaunch g.launch (fun l => { l with tasks := tblErase l.tasks n })
          let s := s.modOp gid op (fun o => { o with kind := .spawn r ws })
          let s := if r.isEmpty then s.endOp gid op else s
          s.startTask g.launch l bs
      | _ => s
    | _, _ => s

/-! ### PIECE_RETIRE -/

/-- A piece may retire (R362): its groups are placed and have ended, or its sub-pieces have retired. -/
def State.mayRetire (s : State) (l : Launch) (pid : Nat) (p : Piece) : Bool :=
  p.born.isSome && !p.retired &&
    (if p.level = 1 then
      !l.plans.any (fun g => g.all.contains pid) && s.groups.all (fun g => g.2.freed || !g.2.inPiece pid)
     else p.subs.all (fun q => match s.piece q with
       | some x => x.retired
       | none => true))

/-- The measurements of a piece added to those of its level (R363). -/
def LevelStat.add (t : LevelStat) (ms : List Measure) (dur : Nat) : LevelStat :=
  let sum (f : Measure → Nat) : Nat := (ms.map f).foldl (· + ·) 0
  { retired := t.retired + 1, total := t.total + 1, lanes := t.lanes + sum Measure.lanes,
    issues := t.issues + sum Measure.issues, memIssues := t.memIssues + sum Measure.memIssues,
    lines := t.lines + sum Measure.lines, sumDur := t.sumDur + dur, maxDur := max t.maxDur dur }

/-- The decision point that closes a window, once its last piece has retired (R364). -/
def State.closeWindow (s : State) (lid : Nat) : State :=
  match s.launch lid with
  | none => s
  | some l =>
    let g := l.grader
    if g.windowed && g.winLive = 0 && (g.winLeft = 0 || l.laidOut) && l.plans.isEmpty && !l.stopped && g.asked.isNone then
      State.decideFrom lid (l.nlevel - 1) s
    else s

/-- A piece retires (R362): what it held is freed in one step, and it is measured (R363). -/
def State.retirePiece (s : State) (pid : Nat) (p : Piece) : State :=
  match s.launch p.launch with
  | none => s
  | some l =>
    if l.phase ≠ .running || !s.residentVi l.vi || !s.mayRetire l pid p then s
    else
      let ms := (s.groups.filter (fun g => g.2.inPiece pid)).map (fun g => g.2.meas)
      let dur := s.time - p.born.getD s.time
      let s := s.freeOwned (fun o => o == .piece pid)
      let s := { s with pieces := tblSet s.pieces pid { p with retired := true } }
      let s := s.modGrader p.launch (fun g => { g with
        retired := g.retired + 1,
        stats := g.stats.set (p.level - 1) ((g.stats.getD (p.level - 1) {}).add ms dur),
        winLive := if p.parent.isNone then g.winLive - 1 else g.winLive })
      (if p.parent.isNone then s.closeWindow p.launch else s).finishLaunch p.launch

/-- A TASK group completes when all of its lanes have exited (R48), which its launch then counts; what it owns is freed once
the operations that its lanes issued earlier have completed as well (R32, R134; DEDUCED, log entry 98). -/
def State.retireTask (s : State) (gid : Nat) (g : Group) : State :=
  match s.launchOf g with
  | none => s
  | some l =>
    if !l.taskGroups.contains gid || !s.residentVi l.vi || !g.allExited then s
    else
      let s := if g.freed then
          (s.freeOwned (fun o => o == .task gid)).modLaunch g.launch (fun l =>
            { l with taskGroups := l.taskGroups.filter (fun x => x ≠ gid) })
        else s
      if g.done then s else (s.modGroup gid (fun g => { g with done := true })).count1 g.launch

/-- PIECE_RETIRE (R362): a piece by its number, or a group of a launch without levels, or a TASK group. -/
def State.pieceRetire (s : State) (n : Nat) : State :=
  match s.piece n with
  | some p => s.retirePiece n p
  | none => match s.group n with
    | none => s
    | some g => if g.task then s.retireTask n g else s.finishLaunch g.launch

/-- A piece, or a group that retires as one, is ready to retire (R362, R48). -/
def State.retires (s : State) (n : Nat) : Bool :=
  match s.piece n with
  | some p => match s.launch p.launch with
    | some l => l.phase == .running && s.residentVi l.vi && s.mayRetire l n p
    | none => false
  | none => match s.group n with
    | none => false
    | some g => match s.launchOf g with
      | none => false
      | some l => g.task && l.taskGroups.contains n && s.residentVi l.vi && g.allExited && (g.freed || !g.done)

/-- Where the lowest group of a piece, or a group, lies: its core, then its context (R362). -/
def State.lowestPlace (s : State) (n : Nat) : Nat :=
  let ps := (s.groups.filter (fun g => g.1 == n || g.2.inPiece n)).map (fun g => g.2.core * 64 + g.2.ctx)
  ps.foldl min (ps.headD 0)

/-- Pieces and TASK groups that are ready retire one at a time, in ascending order of the place of their lowest group (R362),
and those that this makes ready after them. -/
def State.retireReady : Nat → State → State
  | 0, s => s
  | n + 1, s =>
    let ready := (tblKeys s.pieces ++ tblKeys s.groups).filter s.retires
    match ready with
    | [] => s
    | r :: rs => retireReady n (s.pieceRetire (rs.foldl (fun x y => if s.lowestPlace y < s.lowestPlace x then y else x) r))

/-- Launches whose pieces are over subtract their own count (R48). -/
def State.finishReady (s : State) : State := (tblKeys s.launches).foldl (fun s lid => s.finishLaunch lid) s

/-- PIECE_DISPATCH (R82). -/
def execPieceDispatch (lid : Nat) (places : List (Nat × Nat)) (s : State) : Out := .next (s.pieceDispatch lid places)

/-- TASK_RECORD_READ (R31). -/
def execTaskRecordRead (gid op : Nat) (s : State) : Out := .next (s.taskRead gid op)

/-- PIECE_RETIRE (R362). -/
def execPieceRetire (pid : Nat) (s : State) : Out := .next (s.pieceRetire pid)

end Sys2Proof.Machine
end

