-- ==== Sys2Proof/Machine/Complete.lean ====
section
/-!
DEFINITION. Completing a launch (R50, R51, R369): the final header of the cut record, the results of the ordered reduction
slots (R309, R311), the completion signal, the set-mask bits and the interrupt, one step at a time.
-/

namespace Sys2Proof.Machine
open Sys2Proof

/-! ### Ordered reductions (R309) -/

/-- The combination of two contributions of a slot (R309). -/
def slotCombine (op fmt x y : Nat) : Nat :=
  let w := slotBytes fmt
  let m := 2 ^ (8 * w)
  if fmt = 5 ∨ fmt = 6 then
    let f := if fmt = 6 then fmtF64 else fmtF32
    if op = 1 then (urnFadd w (x % m) (y % m)).1
    else (f.minMax (decide (op = 3)) false false (x % m) (y % m)).1
  else
    let signed := fmt = 1 ∨ fmt = 3
    if op = 1 then (x + y) % m
    else urnInt (if op = 2 then .min else .max) (decide signed) w (x % m) (y % m)

/-- Extents of the pieces of a slot's level, whose shape is fixed (R27). -/
def Launch.slotExtent (l : Launch) (n d : Nat) : Nat :=
  product ((List.range (l.slotLevel n)).map (fun j => l.count (j + 1) d 3))

/-- The contributions to slot `n`, by the number of the contributing point. -/
def Launch.slotValues (l : Launch) (n : Nat) : List (Nat × Nat) :=
  (l.ored.filter (fun x => x.1 = n)).map (fun x => (x.2.1, x.2.2.toNat))

/-- `tree` over the pieces of the reducing level, each the `tree` of its points in point order (R309). -/
def Launch.slotResult (l : Launch) (n : Nat) : Option Nat :=
  let vals := l.slotValues n
  let ext := dims.map (l.slotExtent n)
  let grid := dims.map (fun d => (l.space d + ext.getD d 1 - 1) / ext.getD d 1)
  let op := slotCombine (l.slotOp n) (l.slotFmt n)
  let piece (q : Nat) : Option Nat :=
    let org := dims.map (fun d => (pointOf [0, 0, 0, 0] grid q).getD d 0 * ext.getD d 1)
    let clip := dims.map (fun d => min (ext.getD d 1) (l.space d - org.getD d 0))
    tree op ((List.range (product clip)).map (fun i =>
      let p := gridNumber (dims.map l.space) (pointOf org clip i)
      (vals.find? (fun v => v.1 = p)).map (·.2)))
  if vals.isEmpty then none else tree op ((List.range (product grid)).map piece)

/-! ### The steps -/

/-- A launch goes to the next step of its completion. -/
def State.nextStep (s : State) (lid : Nat) : State := s.modLaunch lid (fun l => { l with step := l.step + 1 })

/-- R369 step 1: a logging Grader's final header. -/
def State.finalHeader (s : State) (lid : Nat) (l : Launch) : State :=
  let s := if l.grader.logging then
      s.modGrader lid (fun g => { g with log := g.log ++ [(0, l.headerEntry g.used g.retired)] })
    else s
  s.nextStep lid

/-- The record's writes are made and have performed at the launch's CSCOPE (R369). -/
def State.headerDone (s : State) (lid : Nat) : State :=
  let s := s.flushLog lid
  match s.launch lid with
  | none => s
  | some l => if s.logDone l.grader (scopeLevel l.cscope) then s.nextStep lid else s

/-- R311: the results of the used slots, one at a time; a PAGE fault holds it, any other fault writes nothing. -/
def State.writeSlots (s : State) (lid : Nat) (l : Launch) : State :=
  let n := l.slotsDone
  if n < 8 then
    let next (s : State) : State := s.modLaunch lid (fun l => { l with slotsDone := n + 1 })
    if l.slotOp n = 0 then next s
    else match l.slotResult n with
      | none => next s
      | some v =>
        match s.launchWrite lid l (l.slotTarget n) (leBytes (slotBytes (l.slotFmt n)) v) with
        | (s, .ok w) => (next s).modLaunch lid (fun l => { l with slotWrites := l.slotWrites ++ [w] })
        | (s, .error .held) => s
        | (s, .error _) => (next s).modLaunch lid (fun l => l.addError 0x306 1)
  else
    let lvl := (List.range 8).foldl (fun m i => if l.slotOp i = 0 then m else max m (scopeLevel (l.slotScope i))) (scopeLevel l.cscope)
    if l.slotWrites.all (fun w => s.performed w lvl) then s.nextStep lid else s

/-- Every write of the launch and of its descendants has performed at CSCOPE, and nothing of them runs (R51 step 1). -/
def State.writesDone (s : State) (lid : Nat) (l : Launch) : Bool :=
  let ls := s.family [lid]
  s.groups.all (fun g => !ls.contains g.2.launch || g.2.freed) &&
    s.launches.all (fun p => !ls.contains p.1 || (p.2.taskGroups.isEmpty && (p.1 == lid || p.2.phase == .completed))) &&
    s.flight.all (fun w => !ls.contains w.launch || s.performed w.id (scopeLevel l.cscope))

/-- Every child launch of a launch has completed, and passed on what it met (R31). -/
def State.childrenDone (s : State) (lid : Nat) : Bool :=
  s.launches.all (fun p => p.2.parent ≠ some lid || p.2.phase == .completed)

/-- A child launch ends here, after its own children: what they and it met goes to its parent (R31, R48); a queue's launch waits
for its writes. -/
def State.settleWrites (s : State) (lid : Nat) (l : Launch) : State :=
  if l.parent.isSome then
    if s.childrenDone lid then (s.passUp l).modLaunch lid (fun l => { l with phase := .completed }) else s
  else if s.writesDone lid l then s.nextStep lid
  else s

/-- The 32 bytes of a completion signal (R50). -/
def Launch.signal (l : Launch) : List Byte :=
  leBytes 8 l.cval.toNat ++ leBytes 8 (l.start.getD l.end_) ++ leBytes 8 l.end_ ++ leBytes 4 l.error.toNat ++
    leBytes 4 (l.flags.toNat / 2 * 2 + if l.error = 0 then 0 else 1)

/-- Of the completions that its queue core found pending when it last resumed, no earlier one still waits for its signal
(R55). -/
def State.signalTurn (s : State) (lid : Nat) (l : Launch) : Bool :=
  let up := (tblGet s.mgmt.queueCores {} ((l.vi - 1) % 6)).upAt
  decide (up < l.end_) || s.launches.all (fun p => p.1 == lid || p.2.phase ≠ .completing || decide (4 < p.2.step) ||
    p.2.parent.isSome || (p.2.vi - 1) % 6 ≠ (l.vi - 1) % 6 || decide (l.end_ < p.2.end_) ||
    (decide (l.end_ = p.2.end_) && decide (lid < p.1)))

/-- The halt of HALTERR (R46), at the point at which the completion signal is written or would be. -/
def State.haltOnError (s : State) (l : Launch) : State :=
  if l.error ≠ 0 && ((s.vi l.vi).queue l.queue).haltErr then s.modQueue l.vi l.queue (fun x => x.stop 0x204) else s

/-- R51 step 2: COMPLETE begins (R54); the completion signal is written as one write; where it cannot be, the error vector is
sent. A CSIG that is no multiple of 32 cannot be written (DESIGN CHOICE, log entry 98). -/
def State.writeSignal (s : State) (lid : Nat) (l : Launch) : State :=
  if !s.signalTurn lid l || s.coreDown l.vi || s.exhausted l.leaf 5 then s
  else if l.csig = 0 then (s.haltOnError l).nextStep lid
  else
    let r := if l.csig.toNat % 32 = 0 then s.frontWrite l.leaf l.vi lid l.csig.toNat l.signal else .error .access
    match r with
    | .ok (s, w) => ((s.haltOnError l).modLaunch lid (fun l => { l with sigWrite := some w })).nextStep lid
    | .error _ => ((s.haltOnError l).modVI l.vi (fun v => v.send 64)).nextStep lid

/-- The signal, where one was written, has performed at a level. -/
def State.signalAt (s : State) (l : Launch) (lvl : Nat) : Bool :=
  match l.sigWrite with
  | some w => s.performed w lvl
  | none => true

/-- The end of R51 step 2, and step 3: the set-mask bits, in one vector operation. COMPLETE has begun, and no restart of its
queue core comes between (R54). -/
def State.setBits (s : State) (lid : Nat) (l : Launch) : State :=
  if !s.signalAt l (scopeLevel l.cscope) then s
  else
    let s := s.modVI l.vi (fun v => { v with ev := v.ev ||| eventMask l.setMask })
    (s.modLaunch lid (fun l => { l with phase := .completed })).nextStep lid

/-- R51 step 4, and what is left of the launch goes. -/
def State.sendInterrupt (s : State) (lid : Nat) (l : Launch) : State :=
  if l.intr && !s.signalAt l 6 then s
  else
    let s := if l.intr then s.modVI l.vi (fun v => v.send (l.vec.getD (v.queue l.queue).vec)) else s
    let ls := s.family [lid]
    { s with
        launches := s.launches.filter (fun p => !ls.contains p.1),
        groups := s.groups.filter (fun p => !ls.contains p.2.launch),
        pieces := s.pieces.filter (fun p => !ls.contains p.2.launch) }

/-- One step of the completion of a launch (R51, R369). -/
def State.completeStep (s : State) (lid : Nat) : State :=
  match s.launch lid with
  | none => s
  | some l =>
    if l.phase = .completed then (if l.parent.isNone then s.sendInterrupt lid l else s)
    else if l.phase ≠ .completing then s
    else match l.step with
      | 0 => s.finalHeader lid l
      | 1 => s.headerDone lid
      | 2 => s.writeSlots lid l
      | 3 => s.settleWrites lid l
      | 4 => s.writeSignal lid l
      | _ => s.setBits lid l

/-- COMPLETE (R51): the next step of a launch's completion, when what it waits for has come about. -/
def execComplete (lid : Nat) (s : State) : Out := .next (s.completeStep lid)

end Sys2Proof.Machine
end

