-- ==== Sys2Proof/Machine/Context.lean ====
section
/-!
DEFINITION. The bytes of a context image, of a save record, and of the save blocks of the engines (R73, R256, R348 to R350): what
each line of a leaf's image pool holds. The machine keeps the contents themselves; no lane reads these bytes (R74).
-/

namespace Sys2Proof.Machine
open Sys2Proof

/-- Codes packed two to a byte, the lower one first. -/
def nibbles : List Nat → List Byte
  | a :: b :: r => BitVec.ofNat 8 (a + 16 * b) :: nibbles r
  | [a] => [BitVec.ofNat 8 a]
  | [] => []

/-- Code of a monitor's state (R348). -/
def MonState.code : MonState → Nat
  | .disarmed => 0
  | .armed => 1
  | .touched => 2
/-- Code of a park reason (R348). -/
def Park.code : Park → Nat
  | .none => 0
  | .page => 1
  | .monitor => 2
  | .hostcall => 3

/-- A number per lane, in so many bytes each. -/
def perLane (size : Nat) (f : Nat → Nat) : List Byte := allLanes.flatMap (fun i => leBytes size (f i))

/-! ### The control region (R348) -/

/-- Lines 0 to 6: state words, K registers, tile handles. -/
def Group.controlHead (g : Group) : List Byte :=
  perLane 8 (fun i => (g.lane i).word.toNat) ++ (List.range 64).flatMap (fun n => leBytes 8 (g.kGet n).toNat) ++
    (List.range 32).flatMap (fun n => leBytes 4 (g.tGet n).handle.toNat)

/-- A fence token (R348). -/
def Group.tokenByte (g : Group) (n : Nat) : Byte :=
  match tblFind g.f n with
  | some t => BitVec.ofNat 8 (t.scope.toNat + 16 + 32 * t.met.toNat)
  | none => 0

/-- Line 7: tags, predicates, tokens, counters, remote flags, monitor. -/
def Group.controlTags (g : Group) : List Byte :=
  nibbles ((List.range 128).map (fun n => (tblGet g.vtag .raw (tagKey .user n)).num)) ++
    nibbles ((List.range 32).map (fun n => (g.tGet n).tag.num)) ++
    (List.range 8).flatMap (fun n => leBytes 4 (g.pMask n).toNat) ++ (List.range 4).map g.tokenByte ++
    leBytes 4 (g.count .ld + 2 ^ 6 * g.count .st + 2 ^ 12 * g.count .cp + 2 ^ 18 * g.count .tx + 2 ^ 24 * g.count .ur) ++
    [BitVec.ofNat 8 g.remote.toNat, BitVec.ofNat 8 (g.mon.state.code + 4 * g.mon.level.toNat)] ++ List.replicate 6 0

/-- A stream pattern register; TAG 0xF marks an empty one. -/
def Group.patternBytes (g : Group) (n : Nat) : List Byte :=
  match tblFind g.w n with
  | some w => [w.w0, w.w1, w.w2, w.w3].flatMap (fun x => leBytes 8 x.toNat)
  | none => leBytes 8 0 ++ leBytes 8 0 ++ leBytes 8 (15 * 2 ^ 28) ++ leBytes 8 0

/-- Some lane awaits an urn reply into V[n]. -/
def Group.replyMark (g : Group) (n : Nat) : Bool :=
  g.ops.any (fun o => !o.ended && o.cls == .ur && [Mode.user, .supervisor, .hypervisor].any (fun m => o.kind.writesV.contains (tagKey m n)))

/-- Lines 8 to 10: patterns, status words, monitor line, flags and park reasons, reply marks, host call. -/
def Group.controlMid (g : Group) : List Byte :=
  (List.range 8).flatMap g.patternBytes ++ leBytes 8 g.asnStatus.toNat ++ leBytes 8 g.fabStatus.toNat ++
    leBytes 8 g.mon.line.toNat ++ perLane 1 (fun i => (g.lane i).flags.toNat + 32 * (g.lane i).park.code) ++
    leBytes 16 ((List.range 128).foldl (fun x n => if g.replyMark n then x + 2 ^ n else x) 0) ++
    leBytes 8 (g.hostcall.seq.toNat + 2 ^ 32 * g.hostcall.kd.toNat + 2 ^ 63 * g.hostcall.waiting.toNat) ++ List.replicate 48 0

/-- Passes and block mark of a mode. -/
def ModeState.word (x : ModeState) : Nat := x.loop.toNat + 2 ^ 16 * x.rep.toNat + 2 ^ 22 * x.mark.toNat

/-- Lines 11 to 15: passes and block marks of each mode, parked-fault records. -/
def Group.controlTail (g : Group) : List Byte :=
  [Mode.user, .supervisor, .hypervisor].flatMap (fun m => perLane 4 (fun i => ((g.lane i).ms m).word)) ++
    perLane 8 (fun i => (g.lane i).fault.toNat)

/-- The control region. -/
def Group.controlBytes (g : Group) : List Byte := g.controlHead ++ g.controlTags ++ g.controlMid ++ g.controlTail

/-! ### The image and the save record (R73, R349) -/

/-- One line: a V register for all lanes. -/
def Group.vLineBytes (g : Group) (m : Mode) (n : Nat) : List Byte := perLane 4 (fun i => (g.vGet m n i).toNat)

/-- A group's image. -/
def Group.imageContents (g : Group) (l : Launch) : List Byte :=
  g.controlBytes ++ (List.range l.vCount).flatMap (g.vLineBytes .user) ++
    [Mode.user, .supervisor, .hypervisor].flatMap (fun m => (List.range 8).flatMap (fun k => g.vLineBytes m (120 + k))) ++
    allLanes.flatMap (fun i => (List.range l.localSize).map (fun b => tblGet g.local_ 0 (i * 65536 + b)))

/-- A group's save record. -/
def Group.recordBytes (g : Group) : List Byte :=
  let bank (m : Mode) : List Byte := nibbles ((List.range 8).map (fun k => (tblGet g.vtag .raw (tagKey m (120 + k))).num))
  perLane 8 (fun i => (g.lane i).xpcS.toNat) ++ perLane 8 (fun i => (g.lane i).xvalS.toNat) ++
    perLane 8 (fun i => (g.lane i).xpcH.toNat) ++ perLane 8 (fun i => (g.lane i).xvalH.toNat) ++
    perLane 1 (fun i => (g.lane i).xcauseS.toNat) ++ perLane 1 (fun i => (g.lane i).xcauseH.toNat) ++
    bank .supervisor ++ bank .hypervisor ++ List.replicate 56 0 ++
    (List.range 8).flatMap (fun w => perLane 4 (fun i => (g.lane i).useOf w))

/-! ### Save blocks (R350) -/

/-- Address of the matrix save block of the `k`-th core of a leaf: the blocks stand core by core, matrix before copy, and the
assignment blocks of the clusters after them (DESIGN CHOICE, log entry 103). -/
def Part.matrixBlock (p : Part) (k : Nat) : Nat := p.poolBase + k * (532992 + 258048)
/-- Address of the copy save block of the `k`-th core. -/
def Part.copyBlock (p : Part) (k : Nat) : Nat := p.matrixBlock k + 532992
/-- Address of the assignment save block of the `k`-th cluster. -/
def Part.assignBlock (p : Part) (k : Nat) : Nat := p.poolBase + 4 * p.clusterList.length * (532992 + 258048) + k * 131072

/-- Byte `b` of a core's matrix save block as far as R350 lays it out: the saved sets, then the weight buffer. -/
def State.matrixBlockByte (s : State) (leaf core b : Nat) : Option Byte :=
  if b < 266304 then
    some (match tblFind (s.part leaf).saves (4 * core + b / 66576) with
      | some z => z.imageByte (b % 66576)
      | none => 0)
  else if b < 528448 then some (tblGet (s.core core).wbuf 0 (b - 266304))
  else none

/-- The 64 bytes that a suspended copy has in the copy save block of its core: its descriptor words, its credit word, the
bytes it has written, the request's tag, and whether that was answered. The order is the model's (DESIGN CHOICE, log entry 103). -/
def CopyOp.saved (c : CopyOp) : List Byte :=
  leBytes 8 c.src.toNat ++ leBytes 8 c.dst.toNat ++ leBytes 8 (c.rowBytes + 2 ^ 32 * c.rows) ++
    leBytes 4 (BitVec.ofInt 32 c.sstride).toNat ++ leBytes 4 (BitVec.ofInt 32 c.dstride).toNat ++
    leBytes 8 (match c.credit with
      | some h => h.toNat + 2 ^ 32
      | none => 0) ++
    leBytes 8 c.credited ++ leBytes 4 ((c.pageTag.map (·.toNat)).getD 0) ++ leBytes 1 c.answered.toNat ++ List.replicate 11 0

end Sys2Proof.Machine
end

