-- ==== Sys2Proof/Machine/Preempt.lean ====
section
/-!
DEFINITION. Pre-emption (R351, R352, R257, R258, R272): taking a group off its core, with what its engines and copies keep;
restore (R355, R289, R354); and the second run of a suspended copy (R352).
-/

namespace Sys2Proof.Machine
open Sys2Proof

/-! ### Taking a group off its core -/

/-- An operation of a group waits for a page whose request has not been answered. -/
def State.pageHeld (s : State) (gid op : Nat) : Bool :=
  s.pageReqs.any (fun p => p.2.ops.contains (gid, op)) ||
    s.pageWaits.any (fun w => w.gid == gid && decide (w.op = some op))

/-- A copy may be suspended (R352): a page holds it, the bytes it has written have performed, and every packet it has sent
has been answered. -/
def State.maySuspend (s : State) (gid op : Nat) (c : CopyOp) : Bool :=
  !c.ended && s.pageHeld gid op && !s.creditAsleep c && s.copyPerformed c (retireLevel c.scope) && decide (c.asked.length = c.acked)

/-- An operation does not keep its group from being pre-empted (R351): an urn operation; one that has ended; one whose
engine stops between its steps, or that still waits for storage; a copy that is suspended, or is to be. -/
def State.mayLeave (s : State) (gid : Nat) (o : Op) : Bool :=
  o.cls == .ur || (o.cls != .ld && o.cls != .st && (o.ended || match o.kind with
    | .matrix _ => true
    | .assign _ _ _ _ => true
    | .asnStat _ => true
    | .talloc _ _ _ => true
    | .balloc _ _ _ _ => true
    | k => match k.copy? with
      | some c => c.suspended || s.maySuspend gid o.id c
      | none => false))

/-- A set may be discarded and recomputed (R258). -/
def Group.recomputes (g : Group) (l : Launch) : Bool :=
  l.restart != 0 &&
    g.ops.any (fun o => match o.kind with
      | .matrix m => (match m.act with
        | .mma _ => bitAt (m.word 4).toNat 17 && !o.ended
        | _ => false)
      | _ => false) &&
    allLanes.all (fun i => !(g.lane i).live || decide ((g.lane i).mode = .user))

/-- The group may be taken off its core now: every operation allows it, every token's accesses have been performed, and its urn
operations have left the core (R351); where its sets are to be recomputed, no other TX operation is outstanding (R258). -/
def State.mayPreempt (s : State) (gid : Nat) (g : Group) (recomp : Bool) : Bool :=
  g.resident && !g.freed && !s.overdue g && g.ops.all (s.mayLeave gid) &&
    g.f.all (fun p => p.2.met || s.covered p.2.cover p.2.scope.toNat) &&
    s.flight.all (fun w => w.gid != gid || w.urn.isNone || decide (2 ≤ w.level)) &&
    (!recomp || g.ops.all (fun o => o.cls != .tx || o.ended || o.kind.isMatrix))

/-- A copy suspended (R352): the bytes written are credited, and their number is kept, with the request's tag; bytes that have
been read and not written are forgotten. -/
def State.suspendCopy (s : State) (gid : Nat) (o : Op) (c : CopyOp) : State :=
  let n := max c.credited c.done.length
  let s := match c.credit with
    | some b => s.credit b.toNat (n - c.credited)
    | none => s
  let tag := (s.pageReqs.find? (fun p => p.2.ops.contains (gid, o.id))).map (fun p => p.2.tag)
  s.modOp gid o.id (fun o => { o with kind := o.kind.setCopy (fun c =>
    { c with suspended := true, answered := false, credited := n, pageTag := tag, data := [] }) })

/-- Every copy of the group that a page holds is suspended. -/
def State.suspendAll (s : State) (gid : Nat) (g : Group) : State :=
  g.ops.foldl (fun s o => match o.kind.copy? with
    | some c => if o.ended || c.suspended || c.ended then s else s.suspendCopy gid o c
    | none => s) s

/-- The requests of an operation forgotten; an entry to which nothing is attached any more frees. -/
def State.dropOpFaults (s : State) (gid op : Nat) : State :=
  let strip (r : PageReq) : PageReq := { r with ops := r.ops.filter (fun p => p ≠ (gid, op)) }
  { s with
      pageReqs := (s.pageReqs.map (fun p => (p.1, strip p.2))).filter (fun p => !(p.2.lanes.isEmpty && p.2.ops.isEmpty)),
      pageWaits := s.pageWaits.filter (fun w => !(w.gid == gid && decide (w.op = some op))) }

/-- A lane's parked fault forgotten: it leaves its request, which frees when nothing else is attached to it (R354). -/
def State.detach (s : State) (gid i : Nat) : State :=
  let strip (r : PageReq) : PageReq := { r with lanes := r.lanes.filter (fun p => p ≠ (gid, i)) }
  { s with
      pageReqs := (s.pageReqs.map (fun p => (p.1, strip p.2))).filter (fun p => !(p.2.lanes.isEmpty && p.2.ops.isEmpty)),
      pageWaits := s.pageWaits.filter (fun w => !(w.gid == gid && w.lane == i && w.op.isNone)) }

/-- The restart of a lane at RESTART (R258). -/
def Lane.restartAt (l : Lane) (a : Nat) : Lane :=
  let zero (m : ModeState) : ModeState := { m with loop := 0, rep := 0 }
  { l with addr := BitVec.ofNat 48 a, came := .header, m0 := zero l.m0, m1 := zero l.m1, m2 := zero l.m2, age := 0,
           yielded := false, park := .none, fault := 0, deadline := none }

/-- R258: the matrix operations of the group are discarded, its claimed sets are as `mzero` leaves them and stay claimed,
and its lanes start again at RESTART. -/
def State.recompute (s : State) (gid : Nat) (g : Group) (l : Launch) : State :=
  let os := g.ops.filter (fun o => o.kind.isMatrix)
  let s := os.foldl (fun s o =>
    let s := s.dropOpFaults gid o.id
    match o.kind with
    | .wbld _ _ c => if o.ended then s else s.tileCopy c.src TileState.less
    | _ => s) s
  let s := { s with waits := s.waits.filter (fun w => !(w.gid == gid && os.any (fun o => o.id == w.op))) }
  let s := s.modGroup gid (fun g => { g with ops := g.ops.filter (fun o => !o.kind.isMatrix) })
  let s := s.modCore g.core (fun c => { c with sets := c.sets.map (fun z =>
    (z.1, if z.2.claim = some gid then { ({} : AccSet) with claim := some gid } else z.2)) })
  let back := allLanes.filter (fun i => !(g.lane i).absent && !(g.lane i).exited)
  let s := back.foldl (fun s i => s.detach gid i) s
  (s.modLanes gid back (fun _ x => x.restartAt l.restart)).settle gid

/-- The claimed sets of a group drained to the save blocks of its leaf (R257). -/
def State.saveSets (s : State) (gid : Nat) (g : Group) : State :=
  (s.core g.core).sets.foldl (fun s z => if z.2.claim = some gid then
    s.modPart g.leaf (fun p => { p with saves := tblSet p.saves (4 * g.core + z.1) z.2 }) else s) s

/-- They are reloaded (R355). -/
def State.loadSets (s : State) (gid : Nat) (g : Group) : State :=
  (s.core g.core).sets.foldl (fun s z => if z.2.claim = some gid then
    match tblFind (s.part g.leaf).saves (4 * g.core + z.1) with
    | some x => (s.modCore g.core (fun c => { c with sets := tblSet c.sets z.1 x })).modPart g.leaf (fun p =>
        { p with saves := tblErase p.saves (4 * g.core + z.1) })
    | none => s else s) s

/-- Groups pre-empted and restored together with one: those of the widest GANG piece that it lies in (R82). -/
def State.gangOf (s : State) (gid : Nat) (g : Group) : List Nat :=
  match s.launchOf g with
  | none => [gid]
  | some l =>
    match ((List.range g.pieces.length).reverse.find? (fun i => l.gang (i + 1) && g.pieces.getD i 0 != 0)) with
    | none => [gid]
    | some i => (s.groups.filter (fun p => !p.2.freed && p.2.launch == g.launch &&
        decide (p.2.pieces[i]? = g.pieces[i]?))).map (·.1)

/-- One group taken off its core (R351). -/
def State.takeOff (s : State) (gid : Nat) : State :=
  match s.group gid with
  | none => s
  | some g => match s.launchOf g with
    | none => s
    | some l =>
      let s := if g.recomputes l then s.recompute gid g l else s
      let s := match s.group gid with
        | some g => s.suspendAll gid g
        | none => s
      (((s.saveSets gid g).asnLeave gid g.core).ungather g.core gid allLanes).modGroup gid (fun g =>
        { g with resident := false, f := g.f.map (fun p => (p.1, { p.2 with met := true })),
                 ops := g.ops.map (fun o => match o.kind with
                   | .matrix m => { o with kind := .matrix { m with chunks := [] } }
                   | _ => o) })

/-- The group may be taken off its core now, as R258 disposes of its sets. -/
def State.ready (s : State) (gid : Nat) : Bool :=
  match s.awake gid with
  | none => false
  | some g => match s.launchOf g with
    | none => false
    | some l => s.mayPreempt gid g (g.recomputes l)

/-- A group's next issue is a `bwait` on a piece's barrier, of all of its live lanes, that is blocked (R83, R298). -/
def State.stuckOn (s : State) (gid : Nat) (g : Group) (p : Piece) : Bool :=
  match s.prepare gid with
  | .issue t i => match i, t.issue with
    | .bwait b _, some iss =>
      let w := g.kGet b.toNat
      let active := iss.lanes.filter (g.guarded (guardOf iss i))
      !active.isEmpty && allLanes.all (fun k => (g.lane k).absent || (g.lane k).exited || iss.lanes.contains k) &&
        (match s.barrierFor gid (g.asLane (active.headD 0)) w with
        | some (h, pkg) => h == p.bar.toNat && p.barpkg.toNat == pkg.getD s.dpkg &&
            (s.phaseOf h pkg).getLsbD 0 == wordPhase w
        | none => false)
    | _, _ => false
  | .none _ => false

/-- Groups eligible for pre-emption by R83: those of a dispatched sub-piece, all blocked in `bwait` on the barrier of its piece of
a BARRIER level without GANG, while another sub-piece of that piece is not dispatched. -/
def State.stuck (s : State) : List Nat :=
  s.launches.flatMap (fun l => if l.2.plans.isEmpty then [] else
    s.pieces.flatMap (fun p =>
      if p.2.launch != l.1 || p.2.retired || p.2.born.isNone || p.2.bar == 0xFFFFFFFF || l.2.gang p.2.level ||
          !l.2.plans.any (fun g => g.all.contains p.1) then []
      else
        let mine (q : Nat) : List (Nat × Group) := s.groups.filter (fun g => !g.2.freed && g.2.inPiece q)
        let parts : List (List (Nat × Group)) := if p.2.level = 1 then (mine p.1).map (fun g => [g]) else p.2.subs.map mine
        (parts.filter (fun gs => gs.all (fun g => g.2.resident && s.stuckOn g.1 g.2 p.2))).flatMap (fun gs => gs.map (·.1))))

/-- A pre-emption that R83 calls for comes before any of another leaf's work. -/
def State.waitsBehind (s : State) (leaf : Nat) : Bool :=
  s.stuck.any (fun n => s.ready n && (match s.group n with
    | some g => g.leaf != leaf
    | none => false))

/-- PREEMPT (R351, R82, R83): a group, with its gang, is taken off its core. -/
def State.preempt (s : State) (gid : Nat) : State :=
  match s.group gid with
  | none => s
  | some g =>
    let gs := (s.gangOf gid g).filter (fun n => match s.group n with
      | some x => x.resident
      | none => false)
    if !s.ready gid || !gs.all s.ready || (s.waitsBehind g.leaf && !s.stuck.contains gid) then s
    else gs.foldl State.takeOff s

/-! ### Restore -/

/-- Pieces a group lies in, those of single lanes included. -/
def Group.allPieces (g : Group) : List Nat := distinct ((g.pieces ++ g.lanes.flatMap (fun p => p.2.own)).filter (fun n => n != 0))

/-- An owner is one of the group's. -/
def Group.holds (g : Group) (gid : Nat) (o : Owner) : Bool :=
  match o with
  | .piece p => g.allPieces.contains p
  | .task t => g.task && t == gid

/-- The level of an owner's storage is bound to a core or a cluster. -/
def State.nearOwner (s : State) (l : Launch) (o : Owner) : Bool :=
  match o with
  | .task _ => true
  | .piece p => match s.piece p with
    | some x => decide (l.domain x.level ≤ 2)
    | none => false

/-- A core is the one, or in the cluster, that a handle names (R165, R291). -/
def handleAtCore (h core : Nat) : Bool :=
  if handleLvl h = 1 then handleUnit h == clusterOf core else handleUnit h == core

/-- Everything that the group's pieces hold stays reachable from a core (R355): tiles and barrier objects by their handles;
weight regions, claimed sets, matrix operations, and requests for storage, by the core. -/
def State.holdingsKept (s : State) (gid : Nat) (g : Group) (l : Launch) (core : Nat) : Bool :=
  let own (o : Owner) : Bool := g.holds gid o && s.nearOwner l o
  s.tiles.all (fun p => !own p.2.owner || handleAtCore p.1 core) &&
    s.barriers.all (fun p => !own p.2.owner || handleAtCore p.1 core) &&
    (core == g.core ||
      ((s.core g.core).regions.all (fun r => !g.holds gid r.2.owner) &&
        (s.core g.core).sets.all (fun z => decide (z.2.claim ≠ some gid)) &&
        s.waits.all (fun w => w.gid != gid) && g.ops.all (fun o => !o.kind.isMatrix)))

/-- Every piece of a group keeps to one instance of its domain (R81): the one where its other groups lie, have been pre-empted
or have ended, but for those that move with it, which `dest` places. -/
def State.withPieces (s : State) (g : Group) (l : Launch) (core : Nat) (dest : Nat → Option Nat) : Bool :=
  g.allPieces.all (fun p => match s.piece p with
    | none => true
    | some x => s.groups.all (fun o => !o.2.allPieces.contains p ||
        instanceOf (l.domain x.level) ((dest o.1).getD o.2.core) == instanceOf (l.domain x.level) core))

/-- The level of the narrowest scope whose instance contains two cores of the package (R289). -/
def commonLevel (a b : Nat) : Nat :=
  if a = b then 0 else if clusterOf a = clusterOf b then 2 else if dieOf a = dieOf b then 3 else 4

/-- Writes that a group has issued, its copies and engines included, have performed at a level (R289); urn operations on their way
are not writes, and their replies find the group (R353). -/
def State.writesAt (s : State) (gid lvl : Nat) : Bool :=
  s.flight.all (fun w => !((w.gid == gid && w.core.isSome) || w.by_ == gid) || w.urn.isSome || decide (lvl ≤ w.level))

/-- A pre-empted group may resume at a place (R355, R289, R65, R82): a place that no waiting gang keeps. -/
def State.mayResume (s : State) (gid : Nat) (g : Group) (l : Launch) (core ctx : Nat) (dest : Nat → Option Nat) : Bool :=
  !g.resident && !g.freed && s.residentVi g.vi && !s.leafStopped g.leaf && s.placeFree g.leaf (core, ctx) &&
    !s.keptFor none core && s.holdingsKept gid g l core && s.withPieces g l core dest &&
    s.writesAt gid (commonLevel g.core core)

/-- Where the groups of a gang resume when one of them does at a place (R82, R355): as many cores on from where each was, in the
context it had (DESIGN CHOICE, log entry 104: the manual does not say which places they take). -/
def State.moveTo (s : State) (gid : Nat) (g : Group) (core ctx : Nat) : List (Nat × Nat × Nat) :=
  (s.gangOf gid g).filterMap (fun n => if n = gid then some (n, core, ctx)
    else (s.group n).map (fun x => (n, x.core + core - g.core, x.ctx)))

/-- A pre-empted group, with its gang, may resume at a place. -/
def State.mayRestore (s : State) (gid : Nat) (g : Group) (core ctx : Nat) : Bool :=
  let ps := s.moveTo gid g core ctx
  allDistinct (ps.map (·.2)) && ps.all (fun p => match s.group p.1 with
    | none => false
    | some x => match s.launchOf x with
      | none => false
      | some l => s.mayResume p.1 x l p.2.1 p.2.2 (fun n => (ps.find? (fun q => q.1 == n)).map (fun q => q.2.1)))

/-- A lane parked on a page at restore (R354): its sequence is issued again, and where the answer was FAIL, traps PAGE then with the
address that it computes. -/
def State.wakeLane (s : State) (gid i : Nat) : State :=
  match s.group gid with
  | none => s
  | some g =>
    let l := g.lane i
    if l.park ≠ .page then s
    else
      let f := l.fault.toNat
      let fail := bitAt f 36 && bitAt f 35
      (s.detach gid i).modLane gid i (fun l => { l with park := .none, fault := 0, restored := !fail, failing := fail })

/-- The home cluster of the group's near pieces follows it. -/
def State.rehome (s : State) (g : Group) (l : Launch) (core : Nat) : State :=
  { s with pieces := s.pieces.map (fun p =>
      if g.allPieces.contains p.1 && decide (l.domain p.2.level ≤ 2) then
        (p.1, { p.2 with homeCluster := some (clusterOf core) }) else p) }

/-- The lines of a group's image and its save record written back to the pool (R351 step 6). -/
def State.writeBack (s : State) (g : Group) (l : Launch) : State :=
  match g.image with
  | none => s
  | some a => s.putMem a (g.imageContents l ++ g.recordBytes)

/-- One group takes its place (R355): its lines are written back where the core is another one, its engines' blocks are reloaded,
its parked lanes go on as R354 says, a monitor under a parked `mwait` reads TOUCHED (R301), and a completed host call takes effect
(R343). -/
def State.putOn (s : State) (gid core ctx : Nat) : State :=
  match s.group gid with
  | none => s
  | some g => match s.launchOf g with
    | none => s
    | some l =>
      let s := if core = g.core then s else s.writeBack g l
      let s := (s.rehome g l core).modGroup gid (fun g => { g with core := core, ctx := ctx, resident := true })
      let s := (s.loadSets gid g).asnReturn gid core g
      let s := allLanes.foldl (fun s i => s.wakeLane gid i) s
      let s := if allLanes.any (fun i => decide ((g.lane i).park = .monitor)) then s.modGroup gid Group.touch else s
      let s := match s.group gid with
        | some g => if g.hostcall.held then s.callDone gid g else s
        | none => s
      s.settle gid

/-- RESTORE (R355, R82): a pre-empted group, with its gang, takes its place. -/
def State.restore (s : State) (gid core ctx : Nat) : State :=
  match s.group gid with
  | none => s
  | some g =>
    if !s.mayRestore gid g core ctx then s
    else (s.moveTo gid g core ctx).foldl (fun s p => s.putOn p.1 p.2.1 p.2.2) s

/-! ### Suspended copies -/

/-- A suspended copy starts again from its descriptor (R352). -/
def CopyOp.again (c : CopyOp) : CopyOp :=
  { c with suspended := false, answered := false, pageTag := none, done := [], writes := [], data := [], asked := [],
           acked := 0 }

/-- SUSPENDED_COPY_RESUME (R352): once its group is resident and its request answered, a suspended copy starts again; one
answered with FAIL has ended. -/
def State.resumeCopy (s : State) (gid op : Nat) : State :=
  match s.awake gid with
  | none => s
  | some g => match g.op op with
    | none => s
    | some o => match o.kind.copy? with
      | none => s
      | some c =>
        if o.ended || !g.resident || !c.suspended || s.pageHeld gid op then s
        else s.modOp gid op (fun o => { o with kind := o.kind.setCopy (fun c =>
          if c.ended then { c with suspended := false, answered := false } else c.again) })

/-- PREEMPT (R351). -/
def execPreempt (gid : Nat) (s : State) : Out := .next (s.preempt gid)

/-- RESTORE (R355). -/
def execRestore (gid core ctx : Nat) (s : State) : Out := .next (s.restore gid core ctx)

/-- SUSPENDED_COPY_RESUME (R352). -/
def execSuspendedCopyResume (gid op : Nat) (s : State) : Out := .next (s.resumeCopy gid op)

end Sys2Proof.Machine
end

