-- ==== Sys2Proof/Machine/Leaf.lean ====
section
/-!
DEFINITION. The policy core's work on a leaf: the expiry of a queue's watchdog and the drain of a leaf (R59, R60), the
budget periods (R62), tenants that take turns (R65, R356), host-assisted decisions (R66, R392), the service of stage-2
pages (R338), and its own restarts (R67).
-/

namespace Sys2Proof.Machine
open Sys2Proof

/-- Cores of a leaf. -/
def State.coreOf (s : State) (leaf core : Nat) : Bool := (s.part leaf).clusters.getLsbD (clusterOf core)

/-! ### Watchdogs and drains -/

/-- A leaf is to be drained, on account of what happened at a reference time: its launches end within 1 ms of it (R60, R66); a
drain under way goes on. -/
def State.beginDrain (s : State) (leaf t : Nat) : State :=
  s.modPart leaf (fun p => if 2 ≤ p.drain then p else { p with drain := 2, drainBy := t + 1000000 })

/-- QUEUE_WATCHDOG_EXPIRY (R59, R60): a drain begins, or, where the host decides about it, its first step, and the host is
asked (R66, bit 3); an expiry while a drain is under way only joins it. -/
def State.watchdogExpiry (s : State) (vi q : Nat) : State :=
  match s.leafOf vi with
  | none => s
  | some leaf =>
    if !s.watchdogDue vi q || !s.residentVi vi || s.policyDown then s
    else
      let end_ := ((s.vi vi).queue q).wddead.toNat
      let s := s.modQueue vi q (fun x => { x with wddead := 0 })
      let p := s.part leaf
      let s := s.modPart leaf (fun p => { p with expired := p.expired ++ [vi * 64 + q] })
      if p.drain ≠ 0 then s
      else if s.assisted leaf 3 then (s.modPart leaf (fun p => { p with drain := 1 })).askAssist leaf 3 [vi, q]
      else s.beginDrain leaf (max end_ s.mgmt.policyBack)

/-- A launch stopped by a drain: it goes to its completion signal with an error, and with nothing left of its work (R60
step 4). -/
def State.abort (s : State) (lid code flags : Nat) : State :=
  match s.launch lid with
  | none => s
  | some _ =>
    let s := s.modLaunch lid (fun l => { l.addError code flags with
      counter := 0, stopped := true, plans := [], taskPlans := [], tasks := [], taskGroups := [], counted := true })
    (s.zeroCounter lid).modLaunch lid (fun l => { l with step := 4 })

/-- Root launches of a leaf that are not complete. -/
def State.rootsOf (s : State) (leaf : Nat) : List Nat :=
  (s.launches.filter (fun p => p.2.leaf = leaf && p.2.parent.isNone && p.2.phase ≠ .completing &&
    p.2.phase ≠ .completed)).map (·.1)

/-- The leaf's work, tables and engines are freed (R60 steps 1 to 3, R259, R272): everything that root launches and their
descendants run, the leaf's translation entries, page requests, sets, weight regions and weight buffers. -/
def State.freeLeaf (s : State) (leaf : Nat) (roots : List Nat) : State :=
  let ls := s.family roots
  let s := s.wipe ls
  let s := s.modPart leaf (fun p => { p with away := [] })
  { s with
      launches := s.launches.filter (fun p => roots.contains p.1 || !ls.contains p.1),
      tlb := s.tlb.filter (fun e => e.leaf ≠ leaf),
      walks := s.walks.filter (fun p => p.2.leaf ≠ leaf),
      invals := s.invals.filter (fun p => p.2.leaf ≠ leaf),
      pageReqs := s.pageReqs.filter (fun p => p.2.leaf ≠ leaf),
      pageWaits := s.pageWaits.filter (fun w => w.leaf ≠ leaf),
      cores := s.cores.map (fun p =>
        if s.coreOf leaf p.1 then (p.1, { p.2 with sets := [], regions := [], wbuf := [] }) else p) }

/-- Every queue of an interface is halted, and its QERR receives a code (R60 step 5). -/
def State.haltQueues (s : State) (vi : Nat) (code : BitVec 32) : State :=
  (List.range 64).foldl (fun s q => s.modQueue vi q (fun x => { x with halt := true, qerr := code })) s

/-- LEAF_DRAIN (R60), in its two parts: steps 1 to 4, with the stopped launches on their way to their completions; and, when
those have completed, step 5. -/
def State.leafDrain (s : State) (leaf : Nat) : State :=
  let p := s.part leaf
  if p.drain = 2 then
    let roots := s.rootsOf leaf
    let s := s.freeLeaf leaf roots
    let s := roots.foldl (fun s lid => match s.launch lid with
      | some l => s.abort lid (if p.expired.contains (l.vi * 64 + l.queue) then 0x301 else 0x305) 3
      | none => s) s
    s.modPart leaf (fun p => { p with drain := 3, aborted := roots })
  else if p.drain = 3 && p.aborted.all (fun lid => (s.launch lid).isNone) then
    let s := p.vis.foldl (fun s v => s.haltQueues v 0x205) s
    s.modPart leaf (fun p => { p with drain := 0, aborted := [], expired := [], allow := none })
  else s

/-! ### Budgets -/

/-- BUDGET_PERIOD_START (R62): at the first instant of a new period, every count starts again, and the packets that waited leave. -/
def State.periodStart (s : State) : State :=
  if s.time / 100000 = s.mgmt.period || s.policyDown then s
  else
    ({ s with parts := s.parts.map (fun p => (p.1, { p.2 with used := [] })),
              mgmt := { s.mgmt with period := s.time / 100000 } } : State).flushOut

/-! ### Tenants -/

/-- An interface has released work that is not complete, or an entry that can be released, or that must be consumed to show
whether it can (R65). -/
def State.hasWork (s : State) (vi : Nat) : Bool :=
  s.launches.any (fun p => p.2.vi == vi && p.2.phase ≠ .completed) ||
    (s.vi vi).queues.any (fun p => p.2.on && !p.2.halt && (match p.2.held with
      | some e => s.releasable vi p.2 e
      | none => decide (p.2.qhead ≠ p.2.qtail)))

/-- The next interface with work after one, in ascending order and round to the first (R65). -/
def State.nextTenant (s : State) (vis : List Nat) (after : Nat) : Option Nat :=
  let ok := vis.filter s.hasWork
  let least (ns : List Nat) : Option Nat := if ns.isEmpty then none else some (ns.foldl min (ns.headD 0))
  match least (ok.filter (fun v => decide (after < v))) with
  | some v => some v
  | none => least ok

/-- The watchdogs of an interface stand still, or run on from where they stood (R59). -/
def State.freezeDogs (s : State) (vi : Nat) : State :=
  (s.vi vi).queues.foldl (fun s p => s.modQueue vi p.1 (fun x => x.stopDog s.time)) s
def State.thawDogs (s : State) (vi : Nat) : State :=
  (s.vi vi).queues.foldl (fun s p => s.modQueue vi p.1 (fun x => x.startDog s.time)) s

/-- What the stores of a leaf hold goes to the save area of a tenant, and the stores are left empty (R356, R259, R337). -/
def State.stowTenant (s : State) (leaf vi : Nat) : State :=
  let t := s.tenancy leaf
  let s := { s with
    tiles := s.tiles.filter (fun p => p.2.leaf ≠ leaf), barriers := s.barriers.filter (fun p => p.2.leaf ≠ leaf),
    runs := s.runs.filter (fun p => p.2.leaf ≠ leaf), waits := s.waits.filter (fun w => !s.waitOf leaf w),
    cores := s.cores.filter (fun p => !s.coreOf leaf p.1) }
  s.modPart leaf (fun p => { p with away := tblSet p.away vi t })

/-- What a tenant left comes back into the same entries, handles and sets (R356). -/
def State.bringTenant (s : State) (leaf vi : Nat) : State :=
  match tblFind (s.part leaf).away vi with
  | none => s
  | some t =>
    (s.bringStores t).modPart leaf (fun p => { p with away := tblErase p.away vi })

/-- A tenant's slice begins (R65). -/
def State.beginSlice (s : State) (leaf vi : Nat) : State :=
  ((s.bringTenant leaf vi).modPart leaf (fun p => { p with tenant := some vi, since := s.time, leaving := none })).thawDogs vi

/-- Every group of a leaf is off its core, and no change to a barrier object and no write to a tile of it is on its way. -/
def State.leafQuiet (s : State) (leaf : Nat) : Bool :=
  s.groups.all (fun p => p.2.leaf != leaf || p.2.freed || !p.2.resident) &&
    s.changes.all (fun p => match s.group p.2.gid with
      | some g => g.leaf != leaf
      | none => true) &&
    s.flight.all (fun w => w.bytes.all (fun b => match b.1 with
      | .tile h _ => (match tblFind s.tiles h with
        | some t => t.leaf != leaf
        | none => true)
      | _ => true))

/-- TENANT_SWITCH (R65, R356): where no tenant is chosen, the next with work begins; a tenant whose slice has ended begins to
leave when another has work; and when its groups are all off their cores, what it holds is saved and the next begins. -/
def State.tenantSwitch (s : State) (leaf : Nat) : State :=
  let p := s.part leaf
  if p.vis.length ≤ 1 || s.leafStopped leaf then s
  else match p.tenant, p.leaving with
    | some v, _ =>
      if s.time < p.since + p.slice * 100000 || !(p.vis.any (fun w => w != v && s.hasWork w)) then s
      else (s.freezeDogs v).modPart leaf (fun p => { p with tenant := none, leaving := some v })
    | none, some v =>
      if !s.leafQuiet leaf then s
      else match s.nextTenant p.vis v with
        | none => s.beginSlice leaf v
        | some w => if w = v then s.beginSlice leaf v else (s.stowTenant leaf v).beginSlice leaf w
    | none, none => match s.nextTenant p.vis 0 with
      | none => s
      | some w => s.beginSlice leaf w

/-! ### The policy core's restarts -/

/-- The device enters recovery: nothing is taken from doorbells any more (R67). -/
def State.enterRecovery (s : State) : State := { s with mgmt := { s.mgmt with recovery := true, ready := false } }

/-- POLICY_CORE_RESTART (R67): it stops no lane; the policy core is away for a time that the manual does not state (DESIGN
CHOICE, log entry 70: a free value); the third within 10 s takes the device into recovery. -/
def State.policyRestart (s : State) : State :=
  let rs := s.mgmt.restarts.filter (fun t => decide (s.time < t + 10000000000)) ++ [s.time]
  let s := { s with mgmt := { s.mgmt with restarts := rs, policyBack := s.time + Config.policyAway s.drawn }, drawn := s.drawn + 1 }
  if 3 ≤ rs.length then s.enterRecovery else s

/-! ### Stage-2 pages -/

/-- What an access code asks of a page. -/
def needOf (acc : BitVec 8) : Need := { r := bitAt acc.toNat 0, w := bitAt acc.toNat 1, x := bitAt acc.toNat 2 }

/-- STAGE2_PAGE_SERVICE (R338): in hardware mode a request is answered once the leaf's tables would let its access succeed; in
host-assisted mode the host is asked. -/
def State.servePage (s : State) (rid : Nat) : State :=
  match tblFind s.pageReqs rid with
  | none => s
  | some r =>
    if r.stage ≠ 2 then s
    else if s.assisted r.leaf 1 then
      if s.mgmt.asks.any (fun a => a.leaf == r.leaf && a.fn == 1 && a.data.getD 0 0 == rid) then s
      else s.askAssist r.leaf 1 [rid, r.page * 4096, r.acc.toNat, r.vi]
    else match s.stage2 (frontX r.leaf r.vi) (needOf r.acc) (r.page * 4096) with
      | .ok _ => s.answerPage rid false
      | .error _ => s

/-! ### Host-assisted decisions (R66, R392) -/

/-- A migration of a leaf, changed. -/
def State.modMigration (s : State) (leaf : Nat) (f : Migration → Migration) : State :=
  { s with migrations := tblMod s.migrations leaf f }

/-- What ACT and ARDATA say of a cut (R392): SHAPE as in R33, ORDER in ACT[3:2]. -/
def replyOf (act : Nat) (data : BitVec 64) : CutReply :=
  if act % 2 = 1 then .same
  else .cut { shape := dims.map (fun d => data.toNat / 2 ^ (16 * d) % 65536), order := act / 4 }

/-- The host lets a leaf whose watchdog expired go on (R66, bit 3): the watchdogs that expired start again. -/
def State.resumeLeaf (s : State) (leaf : Nat) : State :=
  let es := (s.part leaf).expired
  let s := s.modPart leaf (fun p => { p with drain := 0, expired := [] })
  es.foldl (fun s e => s.startWatchdog (e / 64) (e % 64)) s

/-- The queue that a scheduling reply names, as `allow` holds it: 0 where no queue of the leaf holds that entry. -/
def State.admitted (s : State) (leaf : Nat) (data : BitVec 64) : Nat :=
  let vi := data.toNat / 65536 % 2048
  let q := data.toNat % 64
  if (s.part leaf).vis.contains vi && (((s.vi vi).queue q).held).isSome then vi * 64 + q + 1 else 0

/-- A request is answered (R392): ACT and ARDATA applied to what was asked. -/
def State.applyReply (s : State) (a : Assist) (act : Nat) (data : BitVec 64) : State :=
  if a.fn = 0 then s.modPart a.leaf (fun p => { p with allow := some (s.admitted a.leaf data) })
  else if a.fn = 1 then s.answerPage (a.data.getD 0 0) (act == 1)
  else if a.fn = 2 then s.replyCut (a.data.getD 0 0) (a.data.getD 1 0) (replyOf act data)
  else if a.fn = 3 then if act = 0 then s.beginDrain a.leaf s.time else s.resumeLeaf a.leaf
  else if a.fn = 4 then
    if act = 0 then s.modMigration a.leaf (fun m => { m with approved := true })
    else { s with migrations := tblErase s.migrations a.leaf }
  else if act = 1 then s.beginDrain a.leaf s.time
  else s

/-- ACT is one that R392 lists for a function. -/
def actListed (fn act : Nat) : Bool :=
  if fn = 0 then act == 0 else if fn = 2 then act / 2 % 2 == 0 else decide (act ≤ 1)

/-- ASSIST_REPLY (R392): a write to ARTAG; a TAG that is not outstanding is ignored. -/
def State.assistReply (s : State) (val : BitVec 64) : State :=
  let s := { s with mgmt := { s.mgmt with artag := val &&& 0xFFFFFFFFF } }
  let act := val.toNat / 2 ^ 32 % 16
  match s.mgmt.asks.find? (fun a => a.tag = BitVec.ofNat 32 val.toNat) with
  | none => s
  | some a =>
    if !actListed a.fn act then s
    else { s with mgmt := { s.mgmt with asks := s.mgmt.asks.erase a } }.applyReply a act s.mgmt.ardata

/-- The hardware-mode action for one request (R66); a page request that times out posts again. -/
def State.replyNone (s : State) (a : Assist) : State :=
  if a.fn = 0 then s.modPart a.leaf (fun p => { p with allow := some 0 })
  else if a.fn = 1 then
    if (tblFind s.pageReqs (a.data.getD 0 0)).isSome then s.askAssist a.leaf 1 a.data else s
  else if a.fn = 2 then s.replyCut (a.data.getD 0 0) (a.data.getD 1 0) .none
  else if a.fn = 3 then s.beginDrain a.leaf s.time
  else if a.fn = 4 then s.modMigration a.leaf (fun m => { m with approved := true })
  else s

/-- ASSIST_TIMEOUT (R66): a request has had no reply within its leaf's timeout; the timeout is counted. -/
def State.assistTimeout (s : State) (tag : Nat) : State :=
  match s.mgmt.asks.find? (fun a => a.tag.toNat = tag) with
  | none => s
  | some a =>
    if s.time < a.posted + (s.part a.leaf).assistMs * 1000000 then s
    else ({ s with mgmt := { s.mgmt with asks := s.mgmt.asks.erase a } }.countErr a.leaf 5).replyNone a

/-! ### Events -/

/-- QUEUE_WATCHDOG_EXPIRY (R59). -/
def execQueueWatchdogExpiry (vi q : Nat) (s : State) : Out :=
  .next (if viNumber vi && decide (q < 64) then s.watchdogExpiry vi q else s)

/-- LEAF_DRAIN (R60). -/
def execLeafDrain (leaf : Nat) (s : State) : Out := .next (s.leafDrain leaf)

/-- POLICY_CORE_RESTART (R67). -/
def execPolicyCoreRestart (s : State) : Out := .next s.policyRestart

/-- BUDGET_PERIOD_START (R62). -/
def execBudgetPeriodStart (s : State) : Out := .next s.periodStart

/-- TENANT_SWITCH (R65). -/
def execTenantSwitch (leaf : Nat) (s : State) : Out := .next (s.tenantSwitch leaf)

/-- ASSIST_TIMEOUT (R66). -/
def execAssistTimeout (tag : Nat) (s : State) : Out := .next (s.assistTimeout tag)

/-- ASSIST_REPLY (R392). -/
def execAssistReply (val : BitVec 64) (s : State) : Out := .next (s.assistReply val)

/-- STAGE2_PAGE_SERVICE (R338). -/
def execStage2PageService (eid : Nat) (s : State) : Out := .next (s.servePage eid)

end Sys2Proof.Machine
end

