-- ==== Sys2Proof/Machine/Board.lean ====
section
/-!
DEFINITION. Power, clocks and links (R313, R326, R382, R383), and reset and boot (R384, R67).
-/

namespace Sys2Proof.Machine
open Sys2Proof

/-! ### Frequency steps -/

/-- The compute dies. -/
def allDies : List Nat := [0, 1, 2, 3, 4, 5, 6, 7]

/-- The clock that a die is to run at once the steps ordered for it are done. -/
def Die.due (d : Die) : Nat := (d.stepWaits.foldl (fun m x => m + x.1) (d.mhz : Int)).toNat

/-- A step of 100 MHz ordered for a die, within the range of 0.6 to 2.0 GHz; `hot` where it begins regardless of spacing (R383). -/
def State.orderStep (s : State) (die : Nat) (up hot : Bool) : State :=
  let d := s.die die
  if (if up then decide (2000 < d.due + 100) else decide (d.due < 700)) then s
  else s.modDie die (fun d => { d with stepWaits := d.stepWaits ++ [(if up then 100 else -100, hot)] })

/-- The step that a die takes next, and those that stay: one ordered at once first; any other only 100 µs after the last step of
the package (R383). -/
def Die.nextStep (d : Die) (now last : Nat) : Option ((Int × Bool) × List (Int × Bool)) :=
  match d.stepWaits.find? (fun x => x.2) with
  | some x => some (x, d.stepWaits.erase x)
  | none => match d.stepWaits with
    | x :: xs => if now < last + 100000 then none else some (x, xs)
    | [] => none

/-- The next step ordered for a die begins: its clock stops for the 8 µs of the relock (R326). One ordered during a relock waits
for the restart. -/
def State.beginStep (s : State) (die : Nat) : State :=
  let d := s.die die
  if d.relocking then s
  else match d.nextStep s.time s.mgmt.lastStep with
  | none => s
  | some (x, rest) =>
    { s with mgmt := { s.mgmt with lastStep := s.time } }.modDie die (fun d =>
      { d.stop s.time with mhz := (d.mhz + x.1).toNat, relockEnd := s.time + 8000, stepWaits := rest })

/-- RELOCK_END (R325, R326): the die restarts at its new clock; a step ordered meanwhile takes effect. -/
def State.relockEnd (s : State) (die : Nat) : State :=
  let d := s.die die
  if !d.relocking || d.tripped || s.time < d.relockEnd then s
  else (s.modDie die (fun d => d.restart s.time d.mhz)).beginStep die

/-- The die that a value singles out: the lowest-numbered of those with the greatest. -/
def State.dieBy (s : State) (f : Die → Nat) (ds : List Nat) : Option Nat :=
  let best := ds.foldl (fun m n => max m (f (s.die n))) 0
  ds.find? (fun n => f (s.die n) == best)

/-- Above PLIMIT: the die with the highest clock goes down by 100 MHz (R383). -/
def State.stepDown (s : State) : State :=
  match s.dieBy Die.due allDies with
  | some n => s.orderStep n false false
  | none => s

/-- Below the limit: of the dies below their targets, the one with the lowest clock goes up by 100 MHz (R383). -/
def State.stepUp (s : State) : State :=
  match s.dieBy (fun d => 10000 - d.due) (allDies.filter (fun n => decide ((s.die n).due < (s.die n).target))) with
  | some n => s.orderStep n true false
  | none => s

/-- The mean of the samples held exceeds a number of watts; it lies below one. -/
def Mgmt.meanAbove (m : Mgmt) (w : Nat) : Bool := decide (w * m.watts.length < m.watts.foldl (· + ·) 0)
def Mgmt.meanBelow (m : Mgmt) (w : Nat) : Bool := decide (m.watts.foldl (· + ·) 0 < w * m.watts.length)

/-- POWER_SAMPLE (R383): a sample of the package's input power, 100 µs after the last, and the step it calls for. -/
def State.powerSample (s : State) (watts : Nat) : State :=
  let ws := s.mgmt.watts ++ [watts]
  let m : Mgmt := { s.mgmt with watts := ws.drop (ws.length - 10), sampled := some s.time }
  let full := decide (10 ≤ m.watts.length)
  let low := if full && m.meanBelow (m.plimit - 50) then some (m.lowSince.getD s.time) else none
  let t := { s with mgmt := { m with lowSince := low } }
  if (match s.mgmt.sampled with
    | some t => decide (s.time < t + 100000)
    | none => false) then s
  else if full && m.meanAbove m.plimit then t.stepDown
  else match low with
    | some since =>
      if s.time < since + 10000000 then t
      else { t with mgmt := { t.mgmt with lowSince := some s.time } }.stepUp
    | none => t

/-- JUNCTION_HOT (R383): a die whose junction reaches 105 °C steps down at once. -/
def State.junctionHot (s : State) (die : Nat) : State :=
  if 8 ≤ die then s else (s.orderStep die false true).beginStep die

/-! ### The thermal trip -/

/-- Everything that the compute dies run is gone, and every launch that is not complete ends with ABORTED (R383). -/
def State.abortAll (s : State) : State :=
  (distinct (tblKeys s.parts ++ s.launches.map (fun (p : Nat × Launch) => p.2.leaf))).foldl (fun s leaf =>
    let roots := s.rootsOf leaf
    roots.foldl (fun s lid => s.abort lid 0x305 3) (s.freeLeaf leaf roots)) s

/-- THERMAL_TRIP (R383): every die stops, every launch completes with ABORTED, and the device enters recovery. -/
def State.thermalTrip (s : State) (die : Nat) : State :=
  if 8 ≤ die then s
  else
    let s := allDies.foldl (fun s n => s.modDie n (fun d =>
      { (if d.relocking then d else d.stop s.time) with tripped := true, stepWaits := [] })) s
    s.abortAll.enterRecovery

/-- CXL_LINK_DOWN (R313): a port's range is unpopulated while its link is down. -/
def State.linkDown (s : State) (port : Nat) : State :=
  if port < 4 && !s.cxlDown.contains port then { s with cxlDown := port :: s.cxlDown } else s

/-! ### Reset and boot -/

/-- The device from its dies' reset on (R384 step 3): everything at its reset value but the memories, the fabric's routes,
the fuses and the flash, and what the model itself counts. -/
def State.restarted (s : State) (m : Mgmt) : State :=
  { State.reset with
      time := s.time, agenda := s.agenda, stamp := s.stamp, nextId := s.nextId, drawn := s.drawn, mem := s.mem,
      poisoned := s.poisoned, softNext := s.softNext, hardNext := s.hardNext, dpkg := s.dpkg, routes := s.routes,
      dies := allDies.map (fun n => (n, { since := s.time })), mgmt := m }

/-- RESET (R384): a power-on or management reset; the reference timer starts at 0. -/
def State.hubReset (s : State) : State :=
  { s with time := 0 }.restarted { rollback := s.mgmt.rollback, keyHash := s.mgmt.keyHash, flash := s.mgmt.flash }

/-- Bytes `lo` to `hi` of a block are zero. -/
def blockZero (b : List Byte) (lo hi : Nat) : Bool := ((b.drop lo).take (hi - lo)).all (fun x => x == 0)

/-- An image verifies (R385). -/
def Mgmt.verifies (m : Mgmt) (img : List Byte) : Bool :=
  let f := fieldAt img
  let part (off n : Nat) : List Byte := (img.drop off).take n
  let len := f 8 4
  let body := part 0x100 len
  f 0 4 == 0x44534C50 && decide (4096 ≤ len) && decide (len ≤ 16777216) && img.length == 256 + len && f 0x0C 4 == 0 &&
    blockZero img 0xB0 0x100 && sha256 (part 0x30 64) == m.keyHash.getD Config.fusedKeyHash && part 0x10 32 == sha256 body &&
    decide (m.rollback.toNat ≤ f 4 4) &&
    ecdsaVerify (beNat (part 0x30 32)) (beNat (part 0x50 32)) (beNat (part 0x70 32)) (beNat (part 0x90 32)) (sha256 (part 0 0x70))

/-- Channels and links are trained, and those that fail are left out and counted; the routes are loaded; the device is ready (R384
steps 4 and 5, R314). -/
def State.trained (s : State) : State :=
  let cs := Config.failedChannels s.drawn
  let ps := Config.failedPorts s.drawn
  { s with
      drawn := s.drawn + 1, channelsOut := cs, cxlDown := ps, routes := Config.routeTable, portInter := Config.interPodPorts,
      mgmt := { s.mgmt with ready := true, trainFails := cs.length + ps.length + Config.failedLinks s.drawn } }

/-- BOOT_READY (R384, R385): the image in hub flash is verified and runs, and the device becomes ready; an image that fails a check
is not run, and the device enters recovery. An image that IMAGE_LOAD has loaded runs already. -/
def State.bootReady (s : State) : State :=
  if s.mgmt.ready || s.mgmt.recovery then s
  else if !s.mgmt.digest.isEmpty then s.trained
  else
    let img := s.mgmt.flash.getD Config.flashImage
    if s.mgmt.verifies img then
      { s with mgmt := { s.mgmt with version := BitVec.ofNat 32 (fieldAt img 4 4), digest := (img.drop 0x10).take 32 } }.trained
    else s.enterRecovery

/-! ### Events -/

/-- FREQUENCY_STEP (R326). -/
def execFrequencyStep (die : Nat) (s : State) : Out := .next (if die < 8 then s.beginStep die else s)

/-- RELOCK_END (R326). -/
def execRelockEnd (die : Nat) (s : State) : Out := .next (if die < 8 then s.relockEnd die else s)

/-- POWER_SAMPLE (R383). -/
def execPowerSample (watts : Nat) (s : State) : Out := .next (s.powerSample watts)

/-- JUNCTION_HOT (R383). -/
def execJunctionHot (die : Nat) (s : State) : Out := .next (s.junctionHot die)

/-- THERMAL_TRIP (R383). -/
def execThermalTrip (die : Nat) (s : State) : Out := .next (s.thermalTrip die)

/-- CXL_LINK_DOWN (R313). -/
def execCxlLinkDown (port : Nat) (s : State) : Out := .next (s.linkDown port)

/-- RESET (R384). -/
def execReset (s : State) : Out := .next s.hubReset

/-- BOOT_READY (R384). -/
def execBootReady (s : State) : Out := .next s.bootReady

end Sys2Proof.Machine
end

