-- ==== Sys2Proof/Machine/Cross.lean ====
section
/-!
DEFINITION. Cross-lane instructions and random streams, opcodes 0x60 to 0x73 (R155 to R160), and the predicate and lane
state operations of the control class that only compute (R142, R143).
-/

namespace Sys2Proof.Machine
open Sys2Proof

/-- V[a] of virtual lane `j`, as the table of R155 gives it: 0 for an absent lane. -/
def Ctx.laneA (c : Ctx) (g : Group) (j : Nat) : Word := if (g.lane j).absent then 0 else c.a32 g j

/-- P of slot A in virtual lane `j`. -/
def Ctx.predA (c : Ctx) (g : Group) (j : Nat) : Bool := g.pGet c.o.a.num j
/-- P of slot B in virtual lane `j`. -/
def Ctx.predB (c : Ctx) (g : Group) (j : Nat) : Bool := g.pGet c.o.b.num j

/-- A lane read: the value of the source lane that a function of the lane and of b picks (R156). -/
def laneRead (src : Nat → Nat → Nat) : Entry where
  body := pureLanes (fun c => some c.ta) (fun c g i =>
    BitVec.ofNat 64 (c.laneA g (src i (c.b32 g i).toNat)).toNat)

/-- Source lane of `xstep` (R156). -/
def stepLane (i b : Nat) : Nat :=
  let d : Int := if b % 64 < 32 then (b % 64 : Nat) else (b % 64 : Nat) - 64
  let j : Int := i + d
  if 0 ≤ j ∧ j < 32 then j.toNat else i

/-- A mask with a bit for each lane of a list. -/
def maskOf (ls : List Nat) : Nat := ls.foldl (fun n i => n + 2 ^ i) 0

/-- An exact sum over lanes as a word: modulo 2^32, or with SAT clamped to the range of the operand type `t`, whatever tag
FORMAT gives D (R157). -/
def Ctx.laneSum (c : Ctx) (t : Tag) (x : Int) : DWord := narrow c.iss.pfx.sat t.signed 32 x

/-- A fold of V[a] over the executing lanes, under the operand type (R157). -/
def foldEntry (f : Tag → List Int → Int) : Entry where
  ok := intOk 32
  body := pureLanes (fun c => some (intType 32 c.ta)) (fun c g _ =>
    let t := intType 32 c.ta
    c.laneSum t (f t (c.active.map (fun j => c.intA 32 g j))))

/-- A bitwise fold over the executing lanes. -/
def bitFold (f : Word → Word → Word) (unit : Word) : Entry where
  ok := intOk 32
  body := pureLanes (fun c => some (intType 32 c.ta)) (fun c g _ =>
    BitVec.ofNat 64 ((c.active.map (fun j => c.a32 g j)).foldl f unit).toNat)

/-- A prefix sum over the executing lanes that `keep` admits for a lane (R157). -/
def scanEntry (keep : Nat → Nat → Bool) : Entry where
  ok := intOk 32
  body := pureLanes (fun c => some (intType 32 c.ta)) (fun c g i =>
    let t := intType 32 c.ta
    c.laneSum t (((c.active.filter (fun j => keep j i)).map (fun j => c.intA 32 g j)).sum))

/-- The least, or greatest, of some integers. -/
def leastOf (ls : List Int) : Int := ls.foldl min (ls.headD 0)
def greatestOf (ls : List Int) : Int := ls.foldl max (ls.headD 0)

/-- A result written as a predicate or as a mask or count with a fixed tag. -/
def laneValue (tag : Option Tag) (f : Ctx → Group → Nat → Nat) : Entry where
  body := pureLanes (fun _ => tag) (fun c g i => BitVec.ofNat 64 (f c g i))

/-- `xpack` (R158). -/
def packLane (c : Ctx) (g : Group) (i : Nat) : Nat :=
  let sel := c.active.filter (fun j => c.predB g j)
  match sel[c.active.idxOf i]? with
  | some j => (c.laneA g j).toNat
  | none => 0

/-- Round constants and rotations of the stream function (R159). -/
def rngRounds : List (Nat × Nat) :=
  [(0x7A31C5E9, 7), (0x2F8496B3, 12), (0xD16E0A57, 17), (0x48C93F1D, 22), (0xB5F26C8B, 5), (0x0E97D423, 11),
   (0x93AD71F5, 19), (0x6C40BE19, 27), (0xF21B5836, 9), (0x35E6A2C7, 14)]

/-- One round of the stream function on (hi, lo) with a key word (R159). -/
def rngRound (k c : Word) (sh : Nat) (x : Word × Word) : Word × Word :=
  let f := (x.2 + k + c).rotateLeft sh ^^^ x.2
  (x.2, x.1 ^^^ f)

/-- The stream function (R159). -/
def rngStream (key : List Word) (ctr : DWord) : DWord :=
  let x := (List.range 10).foldl (fun x i =>
    let r := rngRounds.getD i (0, 0)
    rngRound (key.getD (i % 4) 0) (BitVec.ofNat 32 r.1) r.2 x)
    (BitVec.ofNat 32 (ctr.toNat / 2 ^ 32), BitVec.ofNat 32 ctr.toNat)
  BitVec.ofNat 64 (x.1.toNat * 2 ^ 32 + x.2.toNat)

/-- `rng` (R160). -/
def rngEntry : Entry where
  ok := addressOk
  body := pureLanes (fun _ => some .n64) (fun c g i =>
    let k0 := (c.kB g).toNat
    let k1 := (g.kGet (c.o.b.num + 1)).toNat
    rngStream [BitVec.ofNat 32 k0, BitVec.ofNat 32 (k0 / 2 ^ 32), BitVec.ofNat 32 k1, BitVec.ofNat 32 (k1 / 2 ^ 32)]
      (c.a64 g i))

/-- `xfrom` (R156). -/
def execXfrom (d a : VReg) (b : Src) (x : Ext) (s : State) : Out :=
  serve (.xfrom d a b x) s (laneRead (fun _ b => b % 32))

/-- `xrot` (R156). -/
def execXrot (d a : VReg) (b : Src) (x : Ext) (s : State) : Out :=
  serve (.xrot d a b x) s (laneRead (fun i b => (i + b % 32) % 32))

/-- `xstep` (R156). -/
def execXstep (d a : VReg) (b : Src) (x : Ext) (s : State) : Out :=
  serve (.xstep d a b x) s (laneRead stepLane)

/-- `xflip` (R156). -/
def execXflip (d a : VReg) (b : Src) (x : Ext) (s : State) : Out :=
  serve (.xflip d a b x) s (laneRead (fun i b => Nat.xor i (b % 32)))

/-- `pany` (R156). -/
def execPany (d a : PReg) (x : Ext) (s : State) : Out :=
  serve (.pany d a x) s (laneValue none (fun c g _ => (c.active.any (fun j => c.predA g j)).toNat))

/-- `pevery` (R156). -/
def execPevery (d a : PReg) (x : Ext) (s : State) : Out :=
  serve (.pevery d a x) s (laneValue none (fun c g _ => (c.active.all (fun j => c.predA g j)).toNat))

/-- `xsame` (R156). -/
def execXsame (d : PReg) (a : VReg) (x : Ext) (s : State) : Out :=
  serve (.xsame d a x) s (laneValue none (fun c g i => (c.active.all (fun j => c.a32 g j == c.a32 g i)).toNat))

/-- `pcollect` (R156). -/
def execPcollect (d : VReg) (a : PReg) (x : Ext) (s : State) : Out :=
  serve (.pcollect d a x) s (laneValue (some .n32) (fun c g _ => maskOf (c.active.filter (fun j => c.predA g j))))

/-- `xpeers` (R156). -/
def execXpeers (d a : VReg) (x : Ext) (s : State) : Out :=
  serve (.xpeers d a x) s (laneValue (some .n32) (fun c g i => maskOf (c.active.filter (fun j => c.a32 g j == c.a32 g i))))

/-- `xlow` (R156). -/
def lowEntry : Entry where
  body := pureLanes (fun c => some c.ta) (fun c g i => BitVec.ofNat 64 (c.a32 g (c.active.headD i)).toNat)

/-- `xlow` (R156). -/
def execXlow (d a : VReg) (x : Ext) (s : State) : Out :=
  serve (.xlow d a x) s (lowEntry)

/-- `fold.add.i32` (R157). -/
def execFoldAddI32 (d a : VReg) (x : Ext) (s : State) : Out :=
  serve (.foldAddI32 d a x) s (foldEntry (fun _ ls => ls.sum))

/-- `fold.min.i32` (R157). -/
def execFoldMinI32 (d a : VReg) (x : Ext) (s : State) : Out :=
  serve (.foldMinI32 d a x) s (foldEntry (fun _ ls => leastOf ls))

/-- `fold.max.i32` (R157). -/
def execFoldMaxI32 (d a : VReg) (x : Ext) (s : State) : Out :=
  serve (.foldMaxI32 d a x) s (foldEntry (fun _ ls => greatestOf ls))

/-- `fold.and.i32` (R156). -/
def execFoldAndI32 (d a : VReg) (x : Ext) (s : State) : Out :=
  serve (.foldAndI32 d a x) s (bitFold (· &&& ·) 0xFFFFFFFF)

/-- `fold.or.i32` (R156). -/
def execFoldOrI32 (d a : VReg) (x : Ext) (s : State) : Out :=
  serve (.foldOrI32 d a x) s (bitFold (· ||| ·) 0)

/-- `scan.inc.i32` (R157). -/
def execScanIncI32 (d a : VReg) (x : Ext) (s : State) : Out :=
  serve (.scanIncI32 d a x) s (scanEntry (fun j i => decide (j ≤ i)))

/-- `scan.exc.i32` (R157). -/
def execScanExcI32 (d a : VReg) (x : Ext) (s : State) : Out :=
  serve (.scanExcI32 d a x) s (scanEntry (fun j i => decide (j < i)))

/-- `prank` (R156). -/
def execPrank (d : VReg) (a : PReg) (x : Ext) (s : State) : Out :=
  serve (.prank d a x) s (laneValue (some .i32) (fun c g i => (c.active.filter (fun j => decide (j < i) && c.predA g j)).length))

/-- `xpack` (R158). -/
def packEntry : Entry where
  body := pureLanes (fun c => some c.ta) (fun c g i => BitVec.ofNat 64 (packLane c g i))

/-- `xpack` (R158). -/
def execXpack (d a : VReg) (b : PReg) (x : Ext) (s : State) : Out :=
  serve (.xpack d a b x) s (packEntry)

/-- `rng` (R160). -/
def execRng (d a : DReg) (b : KReg) (x : Ext) (s : State) : Out :=
  serve (.rng d a b x) s (rngEntry)

/-- `pand` (R143). -/
def execPand (d a b : PReg) (x : Ext) (s : State) : Out :=
  serve (.pand d a b x) s (laneValue none (fun c g i => (c.predA g i && c.predB g i).toNat))

/-- `por` (R143). -/
def execPor (d a b : PReg) (x : Ext) (s : State) : Out :=
  serve (.por d a b x) s (laneValue none (fun c g i => (c.predA g i || c.predB g i).toNat))

/-- `pxor` (R143). -/
def execPxor (d a b : PReg) (x : Ext) (s : State) : Out :=
  serve (.pxor d a b x) s (laneValue none (fun c g i => (c.predA g i != c.predB g i).toNat))

/-- `pandn` (R143). -/
def execPandn (d a b : PReg) (x : Ext) (s : State) : Out :=
  serve (.pandn d a b x) s (laneValue none (fun c g i => (c.predA g i && !c.predB g i).toNat))

/-- `ptest` (R143). -/
def execPtest (d : PReg) (a : VReg) (x : Ext) (s : State) : Out :=
  serve (.ptest d a x) s (laneValue none (fun c g i => (c.a32 g i != 0).toNat))

/-- `pget` (R143). -/
def execPget (d : VReg) (a : PReg) (x : Ext) (s : State) : Out :=
  serve (.pget d a x) s (laneValue (some .i32) (fun c g i => (c.predA g i).toNat))

/-- `pmask` (R143). -/
def execPmask (d : PReg) (b : KReg) (x : Ext) (s : State) : Out :=
  serve (.pmask d b x) s (laneValue none (fun c g i => (bitAt (c.kB g).toNat i).toNat))

/-- `getlsw` (R142): the state word as it stood before this issue. -/
def execGetlsw (d : DReg) (x : Ext) (s : State) : Out :=
  serve (.getlsw d x) s (laneValue (some .n64) (fun c g i => { g.lane i with addr := BitVec.ofNat 48 c.iss.addr }.word.toNat))

end Sys2Proof.Machine
end

