-- ==== Sys2Proof/Machine/FloatOps.lean ====
section
/-!
DEFINITION. The vector floating-point and conversion class, opcodes 0x80 to 0xA7 (R221 to R238): arithmetic, minimum and
maximum, sign, comparison, classification, rounding, functions, flags, conversions among the formats of a V register, and
the block conversions that act across lanes.
-/

namespace Sys2Proof.Machine
open Sys2Proof

/-- T of R222: the tag of slot A when it is a format of the 32-bit opcodes, F32 otherwise; F64 for the F64 opcodes. -/
def floatType (wide : Bool) (ta : Tag) : Tag :=
  if wide then .f64 else if ta = .bf16x2 ∨ ta = .f16x2 then ta else .f32

/-- The format of the elements under a tag. -/
def Tag.fmt (t : Tag) : Fmt :=
  match t with
  | .f64 => fmtF64
  | .bf16x2 => fmtBF16
  | .f16x2 => fmtF16
  | _ => fmtF32

/-- A value under a tag holds two elements (R209). -/
def Tag.isPair (t : Tag) : Bool := decide (t = .bf16x2) || decide (t = .f16x2)

/-- The elements of a value under a tag, lowest first (R209). -/
def Tag.elems (t : Tag) (x : DWord) : List Nat :=
  if t.isPair then [x.toNat % 65536, x.toNat / 65536 % 65536]
  else if t = .f64 then [x.toNat]
  else [x.toNat % 2 ^ 32]

/-- Elements put together under a tag, with the union of their flags (R209, R223). -/
def joinElems : List (Nat × Flags) → Val
  | [] => (0, 0)
  | (r, fl) :: rs => let (x, f) := joinElems rs; (BitVec.ofNat 64 (r + 65536 * x.toNat), fl ||| f)

/-- The rounding mode of an issue (R211): that of ROUND, else the instruction's own. -/
def Ctx.rmode (c : Ctx) (own : RMode) : RMode := c.iss.pfx.round.getD own

/-- An operation on each element of A, B and C under T (R223). -/
def floatOp (wide : Bool) (f : Fmt → RMode → Bool → Nat → Nat → Nat → Nat × Flags) : Entry where
  ok ta _ _ sl := if sl = .d then [] else [floatType wide ta]
  body c s g :=
    let t := floatType wide c.ta
    let ftz := s.ftz g
    lanewise (fun _ => some t) (fun c g i =>
      let bs := t.elems (c.b64 g i)
      let cs := t.elems (c.c64 g i)
      joinElems ((t.elems (c.a64 g i)).mapIdx (fun n x =>
        f t.fmt (c.rmode .rne) ftz x (bs.getD n 0) (cs.getD n 0)))) c s g

/-- An operation on exact values of A and B (R224). -/
def float2 (wide : Bool) (f : Fmt → RMode → Bool → FVal → FVal → Nat × Flags) : Entry :=
  floatOp wide (fun t m z a b _ => f t m z (t.operand z a) (t.operand z b))

/-- `ffma` (R224). -/
def fmaEntry (wide : Bool) : Entry :=
  floatOp wide (fun t m z a b c => t.fma m z (t.operand z a) (t.operand z b) (t.operand z c))

/-- `fmin`, `fmax`, `fmin.nan`, `fmax.nan` (R225). -/
def minMaxEntry (wide isMax nanWins : Bool) : Entry :=
  floatOp wide (fun t _ z a b _ => t.minMax isMax nanWins z a b)

/-- `fabs` and `fneg` (R226): only the sign bit changes. -/
def signEntry (wide : Bool) (f : Bool → Bool) : Entry :=
  floatOp wide (fun t _ _ a _ _ =>
    (t.signBit (f (bitAt a (t.ebits + t.frac))) + a % 2 ^ (t.ebits + t.frac), 0))

/-- `fcmp` (R227): F32 or F64 in A and B, a predicate without a tag. -/
def fcmpEntry (wide : Bool) (cc : FCond) : Entry where
  ok _ _ _ sl := if sl = .a ∨ sl = .b then [if wide then .f64 else .f32] else []
  body c s g :=
    let t : Tag := if wide then .f64 else .f32
    let ftz := s.ftz g
    let val (x : DWord) : FVal := t.fmt.operand ftz ((t.elems x).headD 0)
    lanewise (fun _ => none) (fun c g i =>
      let (r, fl) := floatCompare cc (val (c.a64 g i)) (val (c.b64 g i))
      (BitVec.ofNat 64 r.toNat, fl)) c s g

/-- The function opcodes (R230); which of the bits that the bound allows is a value of this device. -/
def funcEntry (wide : Bool) (fn : FloatFn) : Entry where
  ok _ _ _ sl := if sl = .a then [if wide then .f64 else .f32] else []
  body c s g :=
    let t : Tag := if wide then .f64 else .f32
    let ftz := s.ftz g
    lanewise (fun _ => some t) (fun c g i =>
      let x := (t.elems (c.a64 g i)).headD 0
      let (r, fl) := t.fmt.func ftz fn x (Config.fnValue wide fn x)
      (BitVec.ofNat 64 r, fl)) c s g

/-- `fclass` (R228). -/
def fclassEntry : Entry where
  ok ta _ _ sl := if sl = .a then [if ta = .f64 then .f64 else .f32] else []
  body := pureLanes (fun _ => some .n32) (fun c g i =>
    let t : Tag := if c.ta = .f64 then .f64 else .f32
    BitVec.ofNat 64 (t.fmt.classMask ((t.elems (c.a64 g i)).headD 0)))

/-- `fflag` (R231): the flags are read, then those named are cleared. -/
def fflagEntry : Entry where
  body c s g :=
    let old := c.active.map (fun i => (i, BitVec.ofNat 64 (g.lane i).flags.toNat))
    let clear := c.active.map (fun i => (i, BitVec.ofNat 5 (c.b32 g i).toNat))
    let s := s.putResults c old
    .done (s.modGroup c.gid (fun h => clear.foldl (fun h p => h.modLane p.1 (fun l => l.clearFlags p.2)) h)) []
      (some .n32) []

/-! ### Conversions -/

/-- Tags of targets. -/
def floatTag : FTarget → Tag
  | .f32 => .f32
  | .f64 => .f64
def intTag : ITarget → Tag
  | .i32 => .i32
  | .n32 => .n32
  | .i64 => .i64
  | .n64 => .n64
def blockTag : BTarget → Tag
  | .tb8 => .tb8
  | .tb6 => .tb6
  | .tb4 => .tb4

/-- The block format under a tag, where it is one (R217). -/
def Tag.block (t : Tag) : Option BFmt :=
  match t with
  | .tb8 => some bfmtTB8
  | .tb6 => some bfmtTB6
  | .tb4 => some bfmtTB4
  | _ => none

/-- The integer tag of slot A of `cvt.f.i`: its own, or I32 (R232). -/
def intSource (ta : Tag) : Tag :=
  match ta with
  | .n32 => .n32
  | .i64 => .i64
  | .n64 => .n64
  | _ => .i32

/-- A 64-bit integer tag. -/
def Tag.wideInt (t : Tag) : Bool := decide (t = .i64) || decide (t = .n64)

/-- `cvt.f.i` (R232). -/
def cvtFIEntry (b : FTarget) : Entry where
  ok ta _ _ sl := if sl = .a then [intSource ta] else []
  body c s g :=
    let t := intSource c.ta
    let ftz := s.ftz g
    lanewise (fun _ => some (floatTag b)) (fun c g i =>
      let v := FVal.ofInt (intOf t.signed (if t.wideInt then 64 else 32) (c.a64 g i))
      let (r, fl) := (floatTag b).fmt.roundVal (c.rmode .rne) ftz v
      (BitVec.ofNat 64 r, fl)) c s g

/-- `cvt.i.f` (R233). -/
def cvtIFEntry (b : ITarget) : Entry where
  ok ta _ _ sl := if sl = .a then [if ta = .f64 then .f64 else .f32] else []
  body c s g :=
    let t : Tag := if c.ta = .f64 then .f64 else .f32
    let ftz := s.ftz g
    let w := if (intTag b).wideInt then 64 else 32
    lanewise (fun _ => some (intTag b)) (fun c g i =>
      let v := t.fmt.operand ftz ((t.elems (c.a64 g i)).headD 0)
      let (r, fl) := toInteger (intLo (intTag b).signed w) (intHi (intTag b).signed w) (c.rmode .rz) v
      (BitVec.ofInt 64 r, fl)) c s g

/-- The source tag of `cvt.f.f`: its own when it is a float or block format, F32 otherwise (R234). -/
def floatSource (ta : Tag) : Tag :=
  match ta with
  | .f64 => .f64
  | .bf16x2 => .bf16x2
  | .f16x2 => .f16x2
  | .tb8 => .tb8
  | .tb6 => .tb6
  | .tb4 => .tb4
  | _ => .f32

/-- The exact value of a lane-form word of a block (R219). -/
def BFmt.laneValue (b : BFmt) (x : Nat) : FVal := b.value (bitsOf x 24 8) (bitsOf x 16 8) (x % 2 ^ b.w)

/-- `cvt.f.f` (R234). -/
def cvtFFEntry (b : FTarget) (e1 : Bool) : Entry where
  ok ta _ _ sl := if sl = .a then [floatSource ta] else []
  body c s g :=
    let t := floatSource c.ta
    let ftz := s.ftz g
    lanewise (fun _ => some (floatTag b)) (fun c g i =>
      let v := match t.block with
        | some k => k.laneValue (c.a64 g i).toNat
        | none => t.fmt.operand ftz ((t.elems (c.a64 g i)).getD e1.toNat 0)
      let (r, fl) := (floatTag b).fmt.convert (c.rmode .rne) ftz v
      (BitVec.ofNat 64 r, fl)) c s g

/-- `cvt.bf16x2.f32` and `cvt.f16x2.f32` (R235). -/
def cvtPairEntry (t : Tag) : Entry where
  ok _ _ _ sl := if sl = .a ∨ sl = .b then [.f32] else []
  body c s g :=
    let ftz := s.ftz g
    lanewise (fun _ => some t) (fun c g i =>
      joinElems ([c.a32 g i, c.b32 g i].map (fun x =>
        t.fmt.convert (c.rmode .rne) ftz (fmtF32.operand ftz x.toNat)))) c s g

/-! ### Block conversions -/

/-- The format of a block target. -/
def blockFmt : BTarget → BFmt
  | .tb8 => bfmtTB8
  | .tb6 => bfmtTB6
  | .tb4 => bfmtTB4

/-- A lane-form word (R219). -/
def laneForm (ea eb elem : Nat) : DWord := BitVec.ofNat 64 (ea * 2 ^ 24 + eb * 2 ^ 16 + elem)

/-- `cvt.tb` (R236): EA and EB depend on the values of all 32 lanes. -/
def cvtTbEntry (b : BTarget) : Entry where
  ok _ _ _ sl := if sl = .a then [.f32] else []
  body c s g :=
    let ftz := s.ftz g
    let code := (blockFmt b).encode (allLanes.map (fun j => fmtF32.operand ftz (c.laneA g j).toNat))
    lanewise (fun _ => some (blockTag b)) (fun _ _ i =>
      (laneForm code.ea code.eb (code.elems.getD i 0), code.flags.getD i 0)) c s g

/-- The tag that slot A of `tbpk` requires, and the format it stands for (R237). -/
def packTag (ta : Tag) : Tag := if ta.block.isSome then ta else .tb8

/-- A number made of parts of `w` bits, the first the lowest. -/
def packBits (w : Nat) (ls : List Nat) : Nat := ls.foldr (fun x n => x % 2 ^ w + 2 ^ w * n) 0

/-- `tbpk` (R237). -/
def tbpkEntry : Entry where
  ok ta _ _ sl := if sl = .a then [packTag ta] else []
  body c s g :=
    let b := ((packTag c.ta).block).getD bfmtTB8
    let payload := packBits b.w (allLanes.map (fun j => (c.laneA g j).toNat))
    let low := (c.a32 g (c.lowest.getD 0)).toNat
    pureLanes (fun _ => some .raw) (fun _ _ i =>
      if i < b.payload / 4 then BitVec.ofNat 64 (bitsOf payload (32 * i) 32)
      else BitVec.ofNat 64 (bitsOf low 24 8 + 256 * bitsOf low 16 8)) c s g

/-- `tbunpk` (R238). -/
def tbunpkEntry (b : BTarget) : Entry where
  body c s g :=
    let n := (blockFmt b).payload / 4
    let payload := packBits 32 ((List.range n).map (fun j => (c.laneA g j).toNat))
    let planes := (c.laneA g n).toNat
    pureLanes (fun _ => some (blockTag b)) (fun _ _ i =>
      laneForm (planes % 256) (bitsOf planes 8 8) (bitsOf payload ((blockFmt b).w * i) (blockFmt b).w)) c s g

/-- `fadd.f32` (R224). -/
def execFaddF32 (d a : VReg) (b : Src) (x : Ext) (s : State) : Out :=
  serve (.faddF32 d a b x) s (float2 false Fmt.add)

/-- `fsub.f32` (R224). -/
def execFsubF32 (d a : VReg) (b : Src) (x : Ext) (s : State) : Out :=
  serve (.fsubF32 d a b x) s (float2 false Fmt.sub)

/-- `fmul.f32` (R224). -/
def execFmulF32 (d a : VReg) (b : Src) (x : Ext) (s : State) : Out :=
  serve (.fmulF32 d a b x) s (float2 false Fmt.mul)

/-- `fdiv.f32` (R224). -/
def execFdivF32 (d a : VReg) (b : Src) (x : Ext) (s : State) : Out :=
  serve (.fdivF32 d a b x) s (float2 false Fmt.div)

/-- `ffma.f32` (R224). -/
def execFfmaF32 (d a : VReg) (b : Src) (c : VReg) (x : GuardF) (s : State) : Out :=
  serve (.ffmaF32 d a b c x) s (fmaEntry false)

/-- `fsqrt.f32` (R224). -/
def execFsqrtF32 (d a : VReg) (x : Ext) (s : State) : Out :=
  serve (.fsqrtF32 d a x) s (float2 false (fun t m z a _ => t.sqrt m z a))

/-- `fmin.f32` (R225). -/
def execFminF32 (d a : VReg) (b : Src) (x : Ext) (s : State) : Out :=
  serve (.fminF32 d a b x) s (minMaxEntry false false false)

/-- `fmax.f32` (R225). -/
def execFmaxF32 (d a : VReg) (b : Src) (x : Ext) (s : State) : Out :=
  serve (.fmaxF32 d a b x) s (minMaxEntry false true false)

/-- `fmin.nan.f32` (R225). -/
def execFminNanF32 (d a : VReg) (b : Src) (x : Ext) (s : State) : Out :=
  serve (.fminNanF32 d a b x) s (minMaxEntry false false true)

/-- `fmax.nan.f32` (R225). -/
def execFmaxNanF32 (d a : VReg) (b : Src) (x : Ext) (s : State) : Out :=
  serve (.fmaxNanF32 d a b x) s (minMaxEntry false true true)

/-- `fabs.f32` (R226). -/
def execFabsF32 (d a : VReg) (x : Ext) (s : State) : Out :=
  serve (.fabsF32 d a x) s (signEntry false (fun _ => false))

/-- `fneg.f32` (R226). -/
def execFnegF32 (d a : VReg) (x : Ext) (s : State) : Out :=
  serve (.fnegF32 d a x) s (signEntry false (fun b => !b))

/-- `fcmp.cc.f32` (R227). -/
def execFcmpF32 (d : PReg) (cc : FCond) (a : VReg) (b : Src) (x : Ext) (s : State) : Out :=
  serve (.fcmpF32 d cc a b x) s (fcmpEntry false cc)

/-- `frnd.f32` (R229). -/
def execFrndF32 (d a : VReg) (x : Ext) (s : State) : Out :=
  serve (.frndF32 d a x) s (float2 false (fun t m z a _ => t.integral m z a))

/-- The functions of R230 in F32. -/
def execFfuncF32 (d a : VReg) (b : FloatFn) (x : Ext) (s : State) : Out :=
  serve (.ffuncF32 d a b x) s (funcEntry false b)

/-- `fadd.f64` (R224). -/
def execFaddF64 (d a : DReg) (b : SrcD) (x : Ext) (s : State) : Out :=
  serve (.faddF64 d a b x) s (float2 true Fmt.add)

/-- `fsub.f64` (R224). -/
def execFsubF64 (d a : DReg) (b : SrcD) (x : Ext) (s : State) : Out :=
  serve (.fsubF64 d a b x) s (float2 true Fmt.sub)

/-- `fmul.f64` (R224). -/
def execFmulF64 (d a : DReg) (b : SrcD) (x : Ext) (s : State) : Out :=
  serve (.fmulF64 d a b x) s (float2 true Fmt.mul)

/-- `fdiv.f64` (R224). -/
def execFdivF64 (d a : DReg) (b : SrcD) (x : Ext) (s : State) : Out :=
  serve (.fdivF64 d a b x) s (float2 true Fmt.div)

/-- `ffma.f64` (R224). -/
def execFfmaF64 (d a : DReg) (b : SrcD) (c : DReg) (x : GuardF) (s : State) : Out :=
  serve (.ffmaF64 d a b c x) s (fmaEntry true)

/-- `fsqrt.f64` (R224). -/
def execFsqrtF64 (d a : DReg) (x : Ext) (s : State) : Out :=
  serve (.fsqrtF64 d a x) s (float2 true (fun t m z a _ => t.sqrt m z a))

/-- `fmin.f64` (R225). -/
def execFminF64 (d a : DReg) (b : SrcD) (x : Ext) (s : State) : Out :=
  serve (.fminF64 d a b x) s (minMaxEntry true false false)

/-- `fmax.f64` (R225). -/
def execFmaxF64 (d a : DReg) (b : SrcD) (x : Ext) (s : State) : Out :=
  serve (.fmaxF64 d a b x) s (minMaxEntry true true false)

/-- `fmin.nan.f64` (R225). -/
def execFminNanF64 (d a : DReg) (b : SrcD) (x : Ext) (s : State) : Out :=
  serve (.fminNanF64 d a b x) s (minMaxEntry true false true)

/-- `fmax.nan.f64` (R225). -/
def execFmaxNanF64 (d a : DReg) (b : SrcD) (x : Ext) (s : State) : Out :=
  serve (.fmaxNanF64 d a b x) s (minMaxEntry true true true)

/-- `fabs.f64` (R226). -/
def execFabsF64 (d a : DReg) (x : Ext) (s : State) : Out :=
  serve (.fabsF64 d a x) s (signEntry true (fun _ => false))

/-- `fneg.f64` (R226). -/
def execFnegF64 (d a : DReg) (x : Ext) (s : State) : Out :=
  serve (.fnegF64 d a x) s (signEntry true (fun b => !b))

/-- `fcmp.cc.f64` (R227). -/
def execFcmpF64 (d : PReg) (cc : FCond) (a : DReg) (b : SrcD) (x : Ext) (s : State) : Out :=
  serve (.fcmpF64 d cc a b x) s (fcmpEntry true cc)

/-- `frnd.f64` (R229). -/
def execFrndF64 (d a : DReg) (x : Ext) (s : State) : Out :=
  serve (.frndF64 d a x) s (float2 true (fun t m z a _ => t.integral m z a))

/-- The functions of R230 in F64. -/
def execFfuncF64 (d a : DReg) (b : FloatFn) (x : Ext) (s : State) : Out :=
  serve (.ffuncF64 d a b x) s (funcEntry true b)

/-- `fclass` (R228). -/
def execFclass (d a : VReg) (x : Ext) (s : State) : Out :=
  serve (.fclass d a x) s (fclassEntry)

/-- `fflag` (R231). -/
def execFflag (d : VReg) (b : Src) (x : Ext) (s : State) : Out :=
  serve (.fflag d b x) s (fflagEntry)

/-- `cvt.f.i` (R232). -/
def execCvtFI (d a : VReg) (b : FTarget) (x : Ext) (s : State) : Out :=
  serve (.cvtFI d a b x) s (cvtFIEntry b)

/-- `cvt.i.f` (R233). -/
def execCvtIF (d a : VReg) (b : ITarget) (x : Ext) (s : State) : Out :=
  serve (.cvtIF d a b x) s (cvtIFEntry b)

/-- `cvt.f.f` (R234). -/
def execCvtFF (d a : VReg) (b : FTarget) (e1 : Bool) (x : Ext) (s : State) : Out :=
  serve (.cvtFF d a b e1 x) s (cvtFFEntry b e1)

/-- `cvt.bf16x2.f32` (R235). -/
def execCvtBf16x2F32 (d a : VReg) (b : Src) (x : Ext) (s : State) : Out :=
  serve (.cvtBf16x2F32 d a b x) s (cvtPairEntry .bf16x2)

/-- `cvt.f16x2.f32` (R235). -/
def execCvtF16x2F32 (d a : VReg) (b : Src) (x : Ext) (s : State) : Out :=
  serve (.cvtF16x2F32 d a b x) s (cvtPairEntry .f16x2)

/-- `cvt.tb` (R236). -/
def execCvtTbF32 (d a : VReg) (b : BTarget) (x : Ext) (s : State) : Out :=
  serve (.cvtTbF32 d a b x) s (cvtTbEntry b)

/-- `tbpk` (R237). -/
def execTbpk (d a : VReg) (x : Ext) (s : State) : Out :=
  serve (.tbpk d a x) s (tbpkEntry)

/-- `tbunpk` (R238). -/
def execTbunpk (d a : VReg) (b : BTarget) (x : Ext) (s : State) : Out :=
  serve (.tbunpk d a b x) s (tbunpkEntry b)

end Sys2Proof.Machine
end

