-- ==== Sys2Proof/Machine/Manage.lean ====
section
/-!
DEFINITION. The management function (R388 to R392): its registers, its commands in the order of their doorbells, the
configuration of partitions (R61, R62, R339, R391), windows, limits, tickets (R357), attestation (R387) and firmware images
(R385, R386); and the write to a register of any function (R36, R388).
-/

namespace Sys2Proof.Machine
open Sys2Proof

/-! ### Host memory as the management function reaches it -/

/-- `n` bytes at a PCIe address of the host; none beyond the addresses that the host has (R170). -/
def State.hostBytes (s : State) (a n : Nat) : Option (List Byte) :=
  if hostBase + a + n ≤ 2 ^ 48 then some ((List.range n).map (fun i => tblGet s.mem 0 (hostBase + a + i))) else none

/-- Bytes written at a PCIe address of the host; beyond its addresses they are lost. -/
def State.hostPut (s : State) (a : Nat) (bs : List Byte) : State :=
  if hostBase + a + bs.length ≤ 2 ^ 48 then s.putMem (hostBase + a) bs else s

/-- A change to the management function's own state. -/
def State.modMgmt (s : State) (f : Mgmt → Mgmt) : State := { s with mgmt := f s.mgmt }

/-! ### Commands -/

/-- CODE of a command (R389). -/
def Command.code (c : Command) : Nat := fieldAt c.block 0 4
/-- An argument of a command (R390). -/
def Command.arg (c : Command) (off n : Nat) : Nat := fieldAt c.block off n
/-- The bytes of a command from one offset up to another are zero. -/
def Command.zero (c : Command) (lo hi : Nat) : Bool := ((c.block.drop lo).take (hi - lo)).all (fun b => b == 0)

/-- STATUS is written to the command block, then MDONE (R389). -/
def State.complete1 (s : State) (c : Command) (status : Nat) : State :=
  (s.hostPut (c.addr + 8) (leBytes 4 status)).modMgmt (fun m => { m with mdone := c.seq })

/-- Commands with a code that R389 does not list complete with STATUS 2 when their turn comes. -/
def State.skipUnknown (s : State) : List Command → State
  | [] => s.modMgmt (fun m => { m with commands := [] })
  | c :: r => if 1 ≤ c.code ∧ c.code ≤ 9 then s.modMgmt (fun m => { m with commands := c :: r })
    else (s.complete1 c 2).skipUnknown r

/-- The command whose turn it is completes with a status. -/
def State.finish (s : State) (status : Nat) : State :=
  match s.mgmt.commands with
  | [] => s
  | c :: r => (s.complete1 c status).skipUnknown r

/-- A write to MDOOR (R388, R389): the command at MCMDA is started, after those before it. -/
def State.startCommand (s : State) (seq : BitVec 32) : State :=
  let a := s.mgmt.mcmda.toNat
  let c : Command := { block := (s.hostBytes a 64).getD [], addr := a, seq := seq }
  let s := s.modMgmt (fun m => { m with mdoor := seq })
  s.skipUnknown (s.mgmt.commands ++ [c])

/-- The command with a code, when it is its turn, by its effect and status. -/
def State.command (s : State) (code : Nat) (f : State → Command → State × Nat) : State :=
  match s.mgmt.commands with
  | [] => s
  | c :: _ =>
    if c.code ≠ code then s
    else
      let (s, status) := f s c
      s.finish status

/-! ### Partitions -/

/-- The partition that a top-level number and a child byte name (R390); none where they are out of range. -/
def partKey (top child : Nat) : Option Nat :=
  if 16 ≤ top then none
  else if child = 0xFF then some (top * 16)
  else if child < 8 then some (top * 16 + 8 + child)
  else none

/-- Keys of the children of a top-level partition. -/
def childKeys (top : Nat) : List Nat := (List.range 8).map (fun c => top * 16 + 8 + c)

/-- A partition has been configured and has children (R61). -/
def State.hasChildren (s : State) (key : Nat) : Bool :=
  key % 16 = 0 && (childKeys (key / 16)).any (fun k => (s.part k).configured)

/-- A configured partition without children (R61). -/
def State.isLeaf (s : State) (key : Nat) : Bool := (s.part key).configured && !s.hasChildren key

/-- A partition holds a launch that is not complete, itself or in a child of its own. -/
def State.holdsLaunch (s : State) (key : Nat) : Bool :=
  s.launches.any (fun p => p.2.phase ≠ .completed &&
    (p.2.leaf == key || (key % 16 == 0 && topOf p.2.leaf == key)))

/-- A field of a partition block as a set of numbers (R391). -/
def blockSet (b : List Byte) (off n : Nat) : Nat := fieldAt b off n

/-- Two sets given as numbers have no bit in common; one lies within another. -/
def apart (x y : Nat) : Bool := Nat.land x y == 0
def within (x y : Nat) : Bool := Nat.land x y == x

/-- The six budgets of a block (R391). -/
def blockBudgets (b : List Byte) : List (BitVec 32) := (List.range 6).map (fun i => BitVec.ofNat 32 (fieldAt b (0x40 + 4 * i) 4))

/-- Every budget is at most another's. -/
def budgetsFit (xs ys : List (BitVec 32)) : Bool :=
  (List.range 6).all (fun i => decide ((xs.getD i 0).toNat ≤ (ys.getD i 0xFFFFFFFF).toNat))

/-- Message targets of a block, and one that breaks R391. -/
def blockTargets (b : List Byte) : List (BitVec 32) := (List.range 16).map (fun i => BitVec.ofNat 32 (fieldAt b (0x110 + 4 * i) 4))
def targetBad (w : BitVec 32) : Bool :=
  bitAt w.toNat 30 || w.toNat / 2 ^ 11 % 32 != 0 ||
    (bitAt w.toNat 31 && !(decide (1 ≤ w.toNat % 2048) && decide (w.toNat % 2048 ≤ 1024)))

/-- Interfaces that a block binds (R391). -/
def blockVis (b : List Byte) : List Nat :=
  ((List.range 1024).filter (fun i => bitAt ((b.getD (0x90 + i / 8) 0)).toNat (i % 8))).map (· + 1)

/-- The image pool lies within the ranges of a set of channels (R170, R391). -/
def poolFits (channels base size : Nat) : Bool :=
  size == 0 || (decide (base + size ≤ 0x18000000000) &&
    (List.range 256).all (fun g => decide (base + size ≤ g * 0x180000000) || decide ((g + 1) * 0x180000000 ≤ base) ||
      bitAt channels g))

/-- A reserved byte of a block is not zero (R391). -/
def reservedSet (b : List Byte) : Bool :=
  !blockZero b 0x59 0x5A || !blockZero b 0x72 0x78 || !blockZero b 0x88 0x90 || !blockZero b 0x150 0x200

/-- The fields from MODES to MSGTGT of a leaf break R391, R61 or R339; a parent whose first child the leaf is becomes no leaf. -/
def State.leafBad (s : State) (key : Nat) (channels : Nat) (b : List Byte) : Bool :=
  let f := fieldAt b
  let vis := blockVis b
  let shares := (s.parts.filter (fun p => p.1 ≠ key && !(key % 16 != 0 && p.1 == topOf key) && s.isLeaf p.1)).foldl (fun n p => n + p.2.prshare) (f 0x70 2)
  decide (64 ≤ f 0x58 1) || !(decide (1 ≤ f 0x5A 2) && decide (f 0x5A 2 ≤ 1000)) || decide (10000 < f 0x5C 4) ||
    f 0x60 8 % 4096 != 0 || f 0x68 8 % 4096 != 0 || !poolFits channels (f 0x60 8) (f 0x68 8) ||
    decide (f 0x70 2 < vis.length) || decide (4096 < shares) || f 0x78 8 % 8 != 0 || decide (2 ^ 48 ≤ f 0x78 8) ||
    f 0x80 8 % 4096 != 0 || decide (2 ^ 48 ≤ f 0x80 8) || (blockTargets b).any targetBad ||
    vis.any (fun v => s.parts.any (fun p => p.1 != key && p.2.vis.contains v && s.holdsLaunch p.1))

/-- The resources of a top-level partition break R61 or R62: they are shared with another, or do not hold a child's. -/
def State.topBad (s : State) (key : Nat) (b : List Byte) : Bool :=
  s.parts.any (fun p => p.1 % 16 == 0 && p.1 != key && p.2.configured &&
      !(apart (blockSet b 0 16) p.2.clusters.toNat && apart (blockSet b 0x10 32) p.2.channels.toNat &&
        apart (blockSet b 0x30 16) p.2.slices.toNat)) ||
    (childKeys (key / 16)).any (fun k => (s.part k).configured &&
      !(within (s.part k).clusters.toNat (blockSet b 0 16) && budgetsFit (s.part k).budgets (blockBudgets b)))

/-- The resources of a child break R61 or R62. -/
def State.childBad (s : State) (key : Nat) (b : List Byte) : Bool :=
  let top := s.part (topOf key)
  !blockZero b 0x10 0x40 || !top.configured || !top.vis.isEmpty || !within (blockSet b 0 16) top.clusters.toNat ||
    !budgetsFit (blockBudgets b) top.budgets ||
    (childKeys (key / 16)).any (fun k => k != key && (s.part k).configured && !apart (blockSet b 0 16) (s.part k).clusters.toNat)

/-- A partition block is invalid for a partition (R61, R62, R339, R391). -/
def State.blockBad (s : State) (key : Nat) (b : List Byte) : Bool :=
  let top := key % 16 == 0
  let channels := if top then blockSet b 0x10 32 else (s.part (topOf key)).channels.toNat
  decide (2 ^ 104 ≤ blockSet b 0 16) || reservedSet b || (if top then s.topBad key b else s.childBad key b) ||
    (if s.hasChildren key then !blockZero b 0x58 0x150 else s.leafBad key channels b)

/-- The partition that a block describes; its windows and error counts stay. -/
def Part.configure (p : Part) (b : List Byte) : Part :=
  { windows := p.windows, errs := p.errs, configured := true, clusters := BitVec.ofNat 128 (blockSet b 0 16),
    channels := BitVec.ofNat 256 (blockSet b 0x10 32), slices := BitVec.ofNat 128 (blockSet b 0x30 16),
    budgets := blockBudgets b, modes := BitVec.ofNat 6 (fieldAt b 0x58 1), slice := fieldAt b 0x5A 2,
    assistMs := if fieldAt b 0x5C 4 = 0 then 100 else fieldAt b 0x5C 4, poolBase := fieldAt b 0x60 8,
    poolSize := fieldAt b 0x68 8, prshare := fieldAt b 0x70 2, hvec := BitVec.ofNat 64 (fieldAt b 0x78 8),
    s2root := fieldAt b 0x80 8, vis := blockVis b, msgTgt := blockTargets b }

/-- A partition configured (R61, R337): its interfaces leave the partitions they were bound to, the counters and selectors of
its cores are zero, and the policy core invalidates what clusters hold of its old tables (R177). -/
def State.configure (s : State) (key : Nat) (b : List Byte) : State :=
  let vis := blockVis b
  let s := { s with
    parts := s.parts.map (fun (p : Nat × Part) => (p.1, { p.2 with vis := p.2.vis.filter (fun v => !vis.contains v) })) }
  let s := (s.modPart key (fun p => p.configure b)).issueInval key true true
  { s with cores := s.cores.map (fun (p : Nat × Core) =>
      if s.coreOf key p.1 then (p.1, { p.2 with evsel := [], evc := [] }) else p) }.modMgmt
    (fun m => { m with configs := tblSet m.configs key b })

/-- PART_CONFIG (R390, R391). -/
def State.partConfig (s : State) (c : Command) : State × Nat :=
  match partKey (c.arg 12 1) (c.arg 13 1), s.hostBytes (c.arg 16 8) 512 with
  | some key, some b =>
    let child := key % 16 ≠ 0
    if !c.zero 14 16 || !c.zero 24 64 || c.arg 16 8 % 64 ≠ 0 then (s, 2)
    else if s.holdsLaunch key || (child && s.holdsLaunch (topOf key)) then (s, 3)
    else if child && blockSet b 0 16 = 0 then
      if (s.part (topOf key)).configured && blockZero b 0x10 0x40 && !reservedSet b then
        ({ s with parts := tblErase s.parts key }.modMgmt (fun m => { m with configs := tblErase m.configs key }), 0)
      else (s, 2)
    else if s.blockBad key b then (s, 2)
    else (s.configure key b, 0)
  | _, _ => (s, 2)

/-! ### Windows, limits and clocks -/

/-- A user entry of WINDOW_SET breaks R390. -/
def userBad (w : Nat) : Bool := bitAt w 30 || w / 256 % 256 != 0

/-- WINDOW_SET (R390, R315). -/
def State.windowSet (s : State) (c : Command) : State × Nat :=
  let users := (List.range 8).map (fun i => c.arg (32 + 4 * i) 4)
  let base := c.arg 16 8
  let len := c.arg 24 8
  match partKey (c.arg 12 1) (c.arg 13 1) with
  | none => (s, 2)
  | some key =>
    if !s.isLeaf key || 16 ≤ c.arg 14 1 || 4 ≤ c.arg 15 1 || base % 4096 ≠ 0 || len % 4096 ≠ 0 || users.any userBad then (s, 2)
    else
      let w : Window := { read := bitAt (c.arg 15 1) 0, write := bitAt (c.arg 15 1) 1, base := base, len := len,
                          users := (users.filter (fun u => bitAt u 31)).map (BitVec.ofNat 32) }
      (s.modPart key (fun p => { p with windows := tblSet p.windows (c.arg 14 1) w }), 0)

/-- PLIMIT_SET (R390, R383). -/
def State.plimitSet (s : State) (c : Command) : State × Nat :=
  let w := c.arg 12 2
  if !c.zero 14 64 || w < 800 || 2000 < w then (s, 2) else (s.modMgmt (fun m => { m with plimit := w }), 0)

/-- FREQ_TARGET (R390, R383). -/
def State.freqTarget (s : State) (c : Command) : State × Nat :=
  let f := c.arg 14 2
  if 8 ≤ c.arg 12 1 || !c.zero 13 14 || !c.zero 16 64 || f < 600 || 2000 < f || f % 100 ≠ 0 then (s, 2)
  else (s.modDie (c.arg 12 1) (fun d => { d with target := f }), 0)

/-! ### Tickets (R357) -/

/-- The memory sizes of a leaf (R357): on-package memory of its top-level partition, and image pool. -/
def State.leafSizes (s : State) (key : Nat) : List Nat :=
  [((List.range 256).filter (fun i => (s.part (topOf key)).channels.getLsbD i)).length * 0x180000000, (s.part key).poolSize]

/-- TICKET_MAKE (R390): a ticket of 128 bytes for a leaf; refused while the leaf is already being carried away. -/
def State.ticketMake (s : State) (c : Command) : State × Nat :=
  match partKey (c.arg 12 1) (c.arg 13 1), partKey (c.arg 26 1) (c.arg 27 1) with
  | some key, some target =>
    if !s.isLeaf key || !c.zero 14 16 || !c.zero 28 64 || c.arg 16 8 % 64 ≠ 0 || 16384 ≤ c.arg 24 2 then (s, 2)
    else if (tblFind s.migrations key).isSome then (s, 1)
    else
      let n := s.nextId
      let t : Ticket := { leaf := key, dpkg := c.arg 24 2, target := target, made := s.time, used := false }
      let x : TicketFacts := { srcPkg := s.dpkg, srcLeaf := key, dstPkg := t.dpkg, dstLeaf := target, clusters := (s.part key).clusters.toNat,
                               sizes := s.leafSizes key, made := s.time }
      let s := s.bump.modMgmt (fun m => { m with tickets := tblSet m.tickets n t })
      (s.hostPut (c.arg 16 8) ((List.range 128).map (Config.ticketBytes x n)), 0)
  | _, _ => (s, 2)

/-- A ticket is for a leaf of this device, which has the same clusters and memory sizes, and it has not expired (R357). -/
def State.ticketGood (s : State) (key : Nat) (x : TicketFacts) : Bool :=
  x.dstPkg == s.dpkg && x.dstLeaf == key && x.clusters == (s.part key).clusters.toNat && x.sizes == s.leafSizes key &&
    decide (s.time < x.made + 10000000000)

/-- TICKET_TAKE (R390): refused where R357 refuses it; the leaf then expects what its source sends (R358). -/
def State.ticketTake (s : State) (c : Command) : State × Nat :=
  match partKey (c.arg 12 1) (c.arg 13 1), s.hostBytes (c.arg 16 8) 128 with
  | some key, some b =>
    if !s.isLeaf key || !c.zero 14 16 || !c.zero 24 64 || c.arg 16 8 % 64 ≠ 0 then (s, 2)
    else
      let x := Config.ticketRead b
      if s.holdsLaunch key || s.mgmt.taken.contains (leNat b) || !s.ticketGood key x then (s, 1)
      else (s.modMgmt (fun m => { m with taken := m.taken ++ [leNat b], incoming := tblErase m.incoming key,
                                         expected := tblSet m.expected key (x.srcPkg, x.srcLeaf) }), 0)
  | _, _ => (s, 2)

/-- TICKET_EXPIRY (R357): a ticket expires 10 s after it was made. -/
def State.ticketExpiry (s : State) (tid : Nat) : State :=
  match tblFind s.mgmt.tickets tid with
  | none => s
  | some t =>
    if s.time < t.made + 10000000000 then s else s.modMgmt (fun m => { m with tickets := tblErase m.tickets tid })

/-! ### Attestation and images -/

/-- The first 128 bytes of an attestation report (R387). -/
def Mgmt.report (m : Mgmt) (nonce : List Byte) : List Byte :=
  nonce ++ (if m.digest.isEmpty then (List.range 32).map Config.romDigest else m.digest) ++ leBytes 4 m.version.toNat ++ leBytes 4 m.rollback.toNat ++ sha256 (Config.configBytes m.configs) ++
    List.replicate 24 0

/-- The signature of a report by the identity key: r, then s, big-endian (R387). -/
def reportSignature (r : List Byte) : List Byte :=
  let h := sha256 r
  let x := ecdsaSign Config.identityKey (Config.signNonce h) h
  beBytes 32 x.1 ++ beBytes 32 x.2

/-- ATTEST (R387, R390). -/
def State.attest (s : State) (c : Command) : State × Nat :=
  let a := c.arg 44 8
  if !c.zero 52 64 || a % 64 ≠ 0 then (s, 2)
  else
    let r := s.mgmt.report ((c.block.drop 12).take 32)
    let cert := Config.deviceCertificate.take 4096
    let s := s.hostPut a (r ++ reportSignature r)
    ((s.hostPut (a + 192) (leBytes 4 cert.length)).hostPut (a + 256) cert, 0)

/-- The management function after an image has been loaded: its registers, commands, tickets and fuses stay, and the image's
VERSION and DIGEST are those of the image that runs (R386). -/
def Mgmt.loaded (m : Mgmt) (img : List Byte) : Mgmt :=
  { mcmda := m.mcmda, mdoor := m.mdoor, mdone := m.mdone, assist := m.assist, ardata := m.ardata, artag := m.artag,
    halt := m.halt, commands := m.commands, msix := m.msix, rollback := m.rollback, keyHash := m.keyHash, flash := m.flash,
    version := BitVec.ofNat 32 (fieldAt img 4 4), digest := (img.drop 0x10).take 32 }

/-- IMAGE_LOAD (R386): outside recovery it changes nothing; in recovery an image that verifies restarts the device from step 3
of R384. -/
def State.imageLoad (s : State) (c : Command) : State × Nat :=
  if !c.zero 12 16 || !c.zero 28 64 || c.arg 16 8 % 64 ≠ 0 then (s, 2)
  else if !s.mgmt.recovery then (s, 3)
  else match s.hostBytes (c.arg 16 8) (c.arg 24 4) with
    | none => (s, 2)
    | some img => if s.mgmt.verifies img then (s.restarted (s.mgmt.loaded img), 0) else (s, 1)

/-- ROLLBACK_ADVANCE (R386): the fused counter never falls. -/
def State.rollbackAdvance (s : State) (c : Command) : State × Nat :=
  if !c.zero 12 64 then (s, 2)
  else (s.modMgmt (fun m => { m with rollback := if m.rollback.toNat ≤ m.version.toNat then m.version else m.rollback }), 0)

/-! ### Registers (R388) -/

/-- A ring of the management function after a write to its CTL, as HCTL (R340, R388). -/
def Ring.writeCtl (r : Ring) (val : BitVec 32) : Ring :=
  let x := ringCtl r.ctl r.tail r.head val
  { r with ctl := x.1, tail := x.2.1, head := x.2.2 }

/-- The base of a ring written, at any time (R388). -/
def Ring.writeBase (r : Ring) (x : BitVec 64) : Ring := { r with base := x &&& ~~~0x3F }

/-- A 32-bit register of the management function written. -/
def State.writeMgmt32 (s : State) (off : Nat) (val : BitVec 32) : State :=
  if off = 0x008 then s.startCommand val
  else if off = 0x018 then s.modMgmt (fun m => { m with assist := m.assist.writeCtl val })
  else if off = 0x020 then s.modMgmt (fun m => { m with assist := { m.assist with head := val } })
  else if off = 0x040 then s.modMgmt (fun m => { m with halt := m.halt.writeCtl val })
  else if off = 0x048 then s.modMgmt (fun m => { m with halt := { m.halt with head := val } })
  else s

/-- A 64-bit register of the management function, by offset. -/
def Mgmt.read64 (m : Mgmt) (off : Nat) : BitVec 64 :=
  if off = 0 then m.mcmda else if off = 0x010 then m.assist.base else if off = 0x028 then m.ardata
  else if off = 0x030 then m.artag else if off = 0x038 then m.halt.base else 0

/-- Offsets of the 64-bit registers of the management function. -/
def mgmtWide (off : Nat) : Bool := [0x000, 0x010, 0x028, 0x030, 0x038].contains off

/-- A 64-bit register of the management function written; `tag` tells whether the write reaches TAG, which applies the reply. -/
def State.writeMgmt64 (s : State) (off : Nat) (x : BitVec 64) (tag : Bool) : State :=
  if off = 0 then s.modMgmt (fun m => { m with mcmda := x &&& ~~~0x3F })
  else if off = 0x010 then s.modMgmt (fun m => { m with assist := m.assist.writeBase x })
  else if off = 0x028 then s.modMgmt (fun m => { m with ardata := x })
  else if off = 0x030 then if tag then s.assistReply x else s.modMgmt (fun m => { m with artag := x &&& 0xFFFFFFFFF })
  else s.modMgmt (fun m => { m with halt := m.halt.writeBase x })

/-- A write to the management function's registers (R388, by the rules of R39). -/
def State.writeMgmt (s : State) (off size : Nat) (val : BitVec 64) : State :=
  let wide := off / 8 * 8
  if !registerAccess off size then s
  else if mgmtWide wide then
    let high := decide (size = 4) && decide (off % 8 = 4)
    s.writeMgmt64 wide (if size = 8 then val else putHalf (s.mgmt.read64 wide) high (BitVec.ofNat 32 val.toNat)) (!high)
  else
    let s := s.writeMgmt32 off (BitVec.ofNat 32 val.toNat)
    if size = 8 then s.writeMgmt32 (off + 4) (BitVec.ofNat 32 (val.toNat / 2 ^ 32)) else s

/-! ### Events -/

/-- REGISTER_WRITE (R36, R388): a write of 32 or 64 bits to BAR0 of a function: 0 the management function, 1 to 1,024 the
virtual interfaces. -/
def execRegisterWrite (fn off size : Nat) (val : BitVec 64) (s : State) : Out :=
  .next (if fn = 0 then s.writeMgmt off size val else s.writeInterface fn off size val)

/-- PART_CONFIG (R390). -/
def execPartConfig (s : State) : Out := .next (s.command 1 State.partConfig)

/-- WINDOW_SET (R390). -/
def execWindowSet (s : State) : Out := .next (s.command 2 State.windowSet)

/-- PLIMIT_SET (R390). -/
def execPlimitSet (s : State) : Out := .next (s.command 3 State.plimitSet)

/-- FREQ_TARGET (R390). -/
def execFreqTarget (s : State) : Out := .next (s.command 4 State.freqTarget)

/-- TICKET_MAKE (R390). -/
def execTicketMake (s : State) : Out := .next (s.command 5 State.ticketMake)

/-- TICKET_TAKE (R390). -/
def execTicketTake (s : State) : Out := .next (s.command 6 State.ticketTake)

/-- ATTEST (R390). -/
def execAttest (s : State) : Out := .next (s.command 7 State.attest)

/-- IMAGE_LOAD (R386). -/
def execImageLoad (s : State) : Out := .next (s.command 8 State.imageLoad)

/-- ROLLBACK_ADVANCE (R386). -/
def execRollbackAdvance (s : State) : Out := .next (s.command 9 State.rollbackAdvance)

/-- TICKET_EXPIRY (R357). -/
def execTicketExpiry (tid : Nat) (s : State) : Out := .next (s.ticketExpiry tid)

end Sys2Proof.Machine
end

