-- ==== Sys2Proof/Machine/Migrate.lean ====
section
/-!
DEFINITION. The migration of a leaf as its source runs it (R357 to R359): the phases of the migration engine, the failure of
the main path, and the fallback cut with its markers and its checkpoint.
-/

namespace Sys2Proof.Machine
open Sys2Proof

/-- The ticket by which a leaf is to migrate (R357): made, not used, and not expired. -/
def State.ticketFor (s : State) (leaf : Nat) : Option (Nat × Ticket) :=
  s.mgmt.tickets.find? (fun p => p.2.leaf = leaf && !p.2.used && decide (s.time < p.2.made + 10000000000))

/-- A phase is entered: in host-assisted mode the host is asked to approve it (R66, bit 4). -/
def State.enterPhase (s : State) (leaf : Nat) (m : Migration) (ph : MigPhase) : State :=
  let ask := s.assisted leaf 4
  let s := { s with migrations := tblSet s.migrations leaf { m with phase := ph, approved := !ask } }
  if ask then s.askAssist leaf 4 [] else s

/-- Every Blend session that the leaf opened has ended (R358). -/
def State.sessionsOver (s : State) (leaf : Nat) : Bool := s.sessions.all (fun p => p.2.leaf != leaf || p.2.ended)

/-- The leaf has stopped (R358): its groups are off their cores, their urn operations are done, their fabric operations have
retired or are suspended, every write it made has performed at SYSTEM (R289), and its sessions have ended. -/
def State.leafStill (s : State) (leaf : Nat) : Bool :=
  s.groups.all (fun p => p.2.leaf != leaf || p.2.freed || (!p.2.resident && p.2.ops.all (fun o => o.cls != .ur))) &&
    s.flight.all (fun w => s.writeLeaf w != some leaf) && s.sessionsOver leaf

/-- A migrated leaf is freed at its source, completing no launch and setting no event bit (R358). -/
def State.giveUpLeaf (s : State) (leaf : Nat) : State :=
  let roots := (s.launches.filter (fun p => p.2.leaf = leaf && p.2.parent.isNone)).map (·.1)
  let s := s.freeLeaf leaf roots
  let s := (s.part leaf).vis.foldl (fun s v => s.modVI v (fun v => { v with slots := [] })) s
  { s with launches := s.launches.filter (fun p => !roots.contains p.1), migrations := tblErase s.migrations leaf }

/-- The marker of a cut sent on the route to every other involved package, behind all that the leaf has sent (R359). -/
def State.sendMarkers (s : State) (leaf : Nat) (ds : List Nat) : State :=
  ds.foldl (fun s d => s.sendPacket leaf { src := s.dpkg, srcLeaf := leaf, dst := d, gid := 0, op := 0, body := .marker }) s

/-- A part of the leaf sent to the target, in packets of 256 bytes that count against the leaf's fabric budget (R358, R62). -/
def State.carry (s : State) (leaf : Nat) (m : Migration) (part_ at_ : Nat) (data : List Byte) : State :=
  (List.range ((data.length + 255) / 256)).foldl (fun s i => s.sendPacket leaf
    { src := s.dpkg, srcLeaf := leaf, dst := m.dst, gid := 0, op := 0,
      body := .carry m.target part_ (at_ + 256 * i) ((data.drop (256 * i)).take 256) }) s

/-- The state of a leaf sent: its bytes, and the end. -/
def State.carryState (s : State) (leaf : Nat) (m : Migration) (x : LeafState) : State :=
  let bs := Config.leafBytes x
  (s.carry leaf m 1 0 bs).sendPacket leaf
    { src := s.dpkg, srcLeaf := leaf, dst := m.dst, gid := 0, op := 0, body := .carry m.target 2 bs.length [] }

/-- A migration begins with its ticket, which is used (R357): every stage-2 page is copy-on-write for the engine from now on, and the
engine invalidates what clusters hold (R358, R177); or a checkpoint of the leaf is restored by a fresh ticket (R359). -/
def State.beginMigration (s : State) (leaf : Nat) : State :=
  match s.ticketFor leaf with
  | none => s
  | some (n, t) =>
    let s := s.modMgmt (fun m => { m with tickets := tblSet m.tickets n { t with used := true } })
    let m : Migration := { phase := .snapshot, approved := true, dst := t.dpkg, target := t.target }
    match tblFind s.mgmt.checkpoints leaf with
    | some at_ => s.enterPhase leaf { m with stopped := s.time, from_ := some at_ } .delta
    | none =>
      let ps := s.leafPages leaf
      (s.issueInval leaf false true).enterPhase leaf { m with pages := ps, send := ps } .snapshot

/-- STREAM: the next snapshot page is sent, as it was at SNAPSHOT (R358). -/
def State.streamPage (s : State) (leaf : Nat) (m : Migration) (p : Nat × Nat) : State :=
  (s.carry leaf m 0 p.1 ((tblFind m.kept p.2).getD (s.pageBytes p.2))).modMigration leaf (fun m =>
    { m with send := m.send.erase p, kept := tblErase m.kept p.2 })

/-- DELTA: the pages written since SNAPSHOT are sent, with the rest of the leaf (R358); of a checkpoint, all that it holds. -/
def State.sendDelta (s : State) (leaf : Nat) (m : Migration) : State :=
  let s := s.modMigration leaf (fun m => { m with sent := true })
  match m.from_ with
  | none =>
    let s := (m.pages.filter (fun p => m.dirty.contains p.2)).foldl (fun s p => s.carry leaf m 0 p.1 (s.pageBytes p.2)) s
    s.carryState leaf m (s.leafState leaf)
  | some (a, n) => match Config.checkpointRead ((s.hostBytes a n).getD []) with
    | some (x, ps) => (ps.foldl (fun s p => s.carry leaf m 0 p.1 p.2) s).carryState leaf m x
    | none => s

/-- The leaf spans several packages: it has pieces bound to POD (R359). -/
def State.spans (s : State) (leaf : Nat) : Bool :=
  s.pieces.any (fun p => match s.launch p.2.launch with
    | some l => l.leaf == leaf && l.domain p.2.level == 5
    | none => false)

/-- A fallback cut begins, or begins again (R359): the packages involved are those that hold a slice of the partition. -/
def State.beginCut (s : State) (leaf : Nat) (drops : Nat) (markers : List Nat) : State :=
  let m : Migration :=
    { phase := .cutStop, approved := true, involved := (Config.partPackages (topOf leaf)).filter (fun d => d != s.dpkg), markers := markers,
      drops := drops }
  { s with migrations := tblSet s.migrations leaf m }

/-- MIGRATION_FAILURE (R359): before COMMIT the leaf goes on where it stopped, and a leaf that spans several packages takes the
fallback cut. In a cut it is a dropped packet: the cut is repeated once, and a second drop ends the leaf's launches. -/
def State.migrationFailure (s : State) (leaf : Nat) : State :=
  match tblFind s.migrations leaf with
  | none => s
  | some m =>
    let on := { s with migrations := tblErase s.migrations leaf }
    match m.phase with
    | .commit => s
    | .cutStop | .cutDrain | .checkpoint =>
      if m.drops = 0 then s.beginCut leaf 1 []
      else
        let roots := on.rootsOf leaf
        roots.foldl (fun s lid => s.abort lid 0x305 67) (on.freeLeaf leaf roots)
    | _ => if s.spans leaf then on.beginCut leaf 0 [] else on

/-- MIGRATION_PHASE (R358, R359): a migration of the leaf begins, or goes on: in STREAM by one page, or to its next phase when the
present one, approved, has done what it is to do. DELTA must end within 200 ms of STOP. -/
def State.migrationPhase (s : State) (leaf : Nat) : State :=
  match tblFind s.migrations leaf with
  | none => if s.isLeaf leaf && (s.part leaf).drain = 0 then s.beginMigration leaf else s
  | some m =>
    if !m.approved then s
    else match m.phase with
      | .snapshot => s.enterPhase leaf m .stream
      | .stream => match m.send with
        | p :: _ => s.streamPage leaf m p
        | [] => s.enterPhase leaf { m with stopped := s.time } .stop
      | .stop => if s.leafStill leaf then s.enterPhase leaf m .delta else s
      | .delta =>
        if m.stopped + 200000000 < s.time then s.migrationFailure leaf
        else if !m.sent then s.sendDelta leaf m
        else if s.outwait.any (fun x => x.1 == leaf) then s
        else s.enterPhase leaf m .commit
      | .commit =>
        (s.giveUpLeaf leaf).modMgmt (fun x => { x with checkpoints := tblErase x.checkpoints leaf })
      | .cutStop =>
        if s.groups.all (fun p => p.2.leaf != leaf || p.2.freed || !p.2.resident) then
          (s.sendMarkers leaf m.involved).modMigration leaf (fun m => { m with phase := .cutDrain, sent := true })
        else s
      | .cutDrain =>
        if m.involved.all (fun d => m.markers.contains d) && s.leafStill leaf then
          s.modMigration leaf (fun m => { m with phase := .checkpoint })
        else s
      | .checkpoint => s

/-- CUT_MARKER_ARRIVAL (R359): a marker of another package; one that comes before this package has begun the cut begins it. -/
def State.markerArrival (s : State) (leaf d : Nat) : State :=
  match tblFind s.migrations leaf with
  | none => if s.isLeaf leaf then s.beginCut leaf 0 [d] else s
  | some m => match m.phase with
    | .cutStop | .cutDrain => s.modMigration leaf (fun m => { m with markers := m.markers ++ [d] })
    | .checkpoint => s
    | _ => s.beginCut leaf 0 [d]

/-- CHECKPOINT_WRITE (R359): the state of a leaf whose collectives are drained, with its pages, is written to host memory, from where a
fresh ticket restores it; the source leaf is free. -/
def State.checkpoint (s : State) (leaf addr : Nat) : State :=
  match tblFind s.migrations leaf with
  | none => s
  | some m =>
    if m.phase ≠ .checkpoint then s
    else
      let bs := Config.checkpointBytes (s.leafState leaf) ((s.leafPages leaf).map (fun p => (p.1, s.pageBytes p.2)))
      ((s.hostPut addr bs).giveUpLeaf leaf).modMgmt (fun x => { x with checkpoints := tblSet x.checkpoints leaf (addr, bs.length) })

/-- MIGRATION_PHASE (R358). -/
def execMigrationPhase (leaf : Nat) (s : State) : Out := .next (s.migrationPhase leaf)

/-- MIGRATION_FAILURE (R359). -/
def execMigrationFailure (leaf : Nat) (s : State) : Out := .next (s.migrationFailure leaf)

/-- CUT_MARKER_ARRIVAL (R359). -/
def execCutMarkerArrival (leaf dpkg : Nat) (s : State) : Out := .next (s.markerArrival leaf dpkg)

/-- CHECKPOINT_WRITE (R359). -/
def execCheckpointWrite (leaf : Nat) (addr : BitVec 48) (s : State) : Out := .next (s.checkpoint leaf addr.toNat)

end Sys2Proof.Machine
end

