-- ==== Sys2Proof/Machine/Special.lean ====
section
/-!
DEFINITION. `smov` and the special registers it reads (R76, R32, R153): coordinates, lane numbers, the registers of the
pieces that contain a group, the clocks and the event counters.
-/

namespace Sys2Proof.Machine
open Sys2Proof

/-- The mask of absent lanes of a group (R76). -/
def Group.absentMask (g : Group) : Nat := (allLanes.filter (fun i => (g.lane i).absent)).foldl (fun n i => n + 2 ^ i) 0

/-- A level register of a piece by its offset (R76). -/
def Piece.register (p : Piece) (j : Nat) : Word :=
  if j < 4 then BitVec.ofNat 32 (p.ext.getD j 1)
  else if j < 8 then BitVec.ofNat 32 (p.org.getD (j - 4) 0)
  else if j = 8 then BitVec.ofNat 32 p.pos
  else if j = 9 then p.bar
  else if j = 10 then BitVec.ofNat 32 p.pop
  else p.barpkg

/-- A level register of a TASK group, which is a piece of its own at every level (R32). -/
def taskRegister (j : Nat) : Word :=
  if j = 0 then 32
  else if j < 4 then 1
  else if j < 9 then 0
  else if j = 10 then 32
  else 0xFFFFFFFF

/-- A level register read by a group (R76, R32). -/
def State.levelRegister (s : State) (g : Group) (k j : Nat) : Word :=
  if g.task then taskRegister j
  else match g.pieceAt k with
    | none => 0
    | some pid => match s.piece pid with
      | some p => p.register j
      | none => 0

/-- A 32-bit special register in a lane (R76). -/
def State.special32 (s : State) (g : Group) (n lane : Nat) : Word :=
  let l := g.lane lane
  if n = 0 then l.cx
  else if n = 1 then l.cy
  else if n = 2 then l.cz
  else if n = 3 then l.cw
  else if n = 4 then BitVec.ofNat 32 lane
  else if n = 5 then BitVec.ofNat 32 g.absentMask
  else s.levelRegister (g.asLane lane) (n / 16) (n % 16)

/-- A 64-bit special register read once for the lanes of an issue (R153, R324, R325, R337). -/
def State.special64 (s : State) (gid : Nat) (g : Group) (n : Nat) (lanes : List Nat) : State × DWord :=
  if n = 0x80 then s.readTime gid g lanes
  else if n = 0x81 then (s, (s.die (dieOf g.core)).cyc s.time)
  else if n = 0x82 then (s, (s.die (dieOf g.core)).cycs s.time)
  else (s, tblGet (s.core g.core).evc 0 (n % 16))

/-- `smov` (R153). -/
def smovEntry (n : Nat) : Entry where
  body c s g :=
    if n < 0x80 then
      pureLanes (fun _ => some .n32) (fun _ g i => BitVec.ofNat 64 (s.special32 g n i).toNat) c s g
    else if c.active.isEmpty then .done s [] (some .n64) []
    else
      let (s, v) := s.special64 c.gid g n c.active
      .done (s.putResults c (c.active.map (fun i => (i, v)))) [] (some .n64) []

/-- `smov` (R153). -/
def execSmov (d : VReg) (b : Imm8) (x : Ext) (s : State) : Out := serve (.smov d b x) s (smovEntry b.toNat)

end Sys2Proof.Machine
end

