-- ==== Sys2Proof/Machine/Dispatch.lean ====
section
/-!
DEFINITION. The dispatch of instructions and events to their meanings: one arm per constructor of `Instr`.
-/

namespace Sys2Proof.Machine
open Sys2Proof

/-- The meaning of an instruction, for the issue in hand, or of an event. -/
def exec (i : Instr) (s : State) : Host.Outcome State Fault Refusal :=
  match i with
  | .nop x => Sys2Proof.Machine.execNop x s
  | .mov d b x => Sys2Proof.Machine.execMov d b x s
  | .bra b x => Sys2Proof.Machine.execBra b x s
  | .jmp a x => Sys2Proof.Machine.execJmp a x s
  | .call d b x => Sys2Proof.Machine.execCall d b x s
  | .callx d a x => Sys2Proof.Machine.execCallx d a x s
  | .exit x => Sys2Proof.Machine.execExit x s
  | .yield x => Sys2Proof.Machine.execYield x s
  | .wait ur tx cp st ld x => Sys2Proof.Machine.execWait ur tx cp st ld x s
  | .loop n => Sys2Proof.Machine.execLoop n s
  | .loopK b x => Sys2Proof.Machine.execLoopK b x s
  | .trigger x => Sys2Proof.Machine.execTrigger x s
  | .tres d x => Sys2Proof.Machine.execTres d x s
  | .spawn a x => Sys2Proof.Machine.execSpawn a x s
  | .ringAdv d x => Sys2Proof.Machine.execRingAdv d x s
  | .ringCur d a x => Sys2Proof.Machine.execRingCur d a x s
  | .getlsw d x => Sys2Proof.Machine.execGetlsw d x s
  | .brany a b x => Sys2Proof.Machine.execBrany a b x s
  | .brall a b x => Sys2Proof.Machine.execBrall a b x s
  | .pand d a b x => Sys2Proof.Machine.execPand d a b x s
  | .por d a b x => Sys2Proof.Machine.execPor d a b x s
  | .pxor d a b x => Sys2Proof.Machine.execPxor d a b x s
  | .pandn d a b x => Sys2Proof.Machine.execPandn d a b x s
  | .ptest d a x => Sys2Proof.Machine.execPtest d a x s
  | .pget d a x => Sys2Proof.Machine.execPget d a x s
  | .pmask d b x => Sys2Proof.Machine.execPmask d b x s
  | .addI32 d a b x => Sys2Proof.Machine.execAddI32 d a b x s
  | .subI32 d a b x => Sys2Proof.Machine.execSubI32 d a b x s
  | .mulI32 d a b x => Sys2Proof.Machine.execMulI32 d a b x s
  | .mulhiI32 d a b x => Sys2Proof.Machine.execMulhiI32 d a b x s
  | .madI32 d a b c x => Sys2Proof.Machine.execMadI32 d a b c x s
  | .divI32 d a b x => Sys2Proof.Machine.execDivI32 d a b x s
  | .remI32 d a b x => Sys2Proof.Machine.execRemI32 d a b x s
  | .minI32 d a b x => Sys2Proof.Machine.execMinI32 d a b x s
  | .maxI32 d a b x => Sys2Proof.Machine.execMaxI32 d a b x s
  | .absI32 d a x => Sys2Proof.Machine.execAbsI32 d a x s
  | .negI32 d a x => Sys2Proof.Machine.execNegI32 d a x s
  | .addiI32 d a b x => Sys2Proof.Machine.execAddiI32 d a b x s
  | .andI32 d a b x => Sys2Proof.Machine.execAndI32 d a b x s
  | .orI32 d a b x => Sys2Proof.Machine.execOrI32 d a b x s
  | .xorI32 d a b x => Sys2Proof.Machine.execXorI32 d a b x s
  | .andnI32 d a b x => Sys2Proof.Machine.execAndnI32 d a b x s
  | .notI32 d a x => Sys2Proof.Machine.execNotI32 d a x s
  | .shlI32 d a b x => Sys2Proof.Machine.execShlI32 d a b x s
  | .shrI32 d a b x => Sys2Proof.Machine.execShrI32 d a b x s
  | .shliI32 d a b x => Sys2Proof.Machine.execShliI32 d a b x s
  | .shriI32 d a b x => Sys2Proof.Machine.execShriI32 d a b x s
  | .rotlI32 d a b x => Sys2Proof.Machine.execRotlI32 d a b x s
  | .popcI32 d a x => Sys2Proof.Machine.execPopcI32 d a x s
  | .clzI32 d a x => Sys2Proof.Machine.execClzI32 d a x s
  | .brevI32 d a x => Sys2Proof.Machine.execBrevI32 d a x s
  | .bfxI32 d a b x => Sys2Proof.Machine.execBfxI32 d a b x s
  | .cmpEqI32 d a b x => Sys2Proof.Machine.execCmpEqI32 d a b x s
  | .cmpNeI32 d a b x => Sys2Proof.Machine.execCmpNeI32 d a b x s
  | .cmpLtI32 d a b x => Sys2Proof.Machine.execCmpLtI32 d a b x s
  | .cmpLeI32 d a b x => Sys2Proof.Machine.execCmpLeI32 d a b x s
  | .cmpGtI32 d a b x => Sys2Proof.Machine.execCmpGtI32 d a b x s
  | .cmpGeI32 d a b x => Sys2Proof.Machine.execCmpGeI32 d a b x s
  | .sel d a b c wide x => Sys2Proof.Machine.execSel d a b c wide x s
  | .addI64 d a b x => Sys2Proof.Machine.execAddI64 d a b x s
  | .subI64 d a b x => Sys2Proof.Machine.execSubI64 d a b x s
  | .mulI64 d a b x => Sys2Proof.Machine.execMulI64 d a b x s
  | .mulwI32 d a b x => Sys2Proof.Machine.execMulwI32 d a b x s
  | .shlI64 d a b x => Sys2Proof.Machine.execShlI64 d a b x s
  | .shrI64 d a b x => Sys2Proof.Machine.execShrI64 d a b x s
  | .lea d a b x => Sys2Proof.Machine.execLea d a b x s
  | .addiI64 d a b x => Sys2Proof.Machine.execAddiI64 d a b x s
  | .cmpI64 d a b cc x => Sys2Proof.Machine.execCmpI64 d a b cc x s
  | .extI64 d a x => Sys2Proof.Machine.execExtI64 d a x s
  | .trnI32 d a x => Sys2Proof.Machine.execTrnI32 d a x s
  | .mov64 d b x => Sys2Proof.Machine.execMov64 d b x s
  | .smov d b x => Sys2Proof.Machine.execSmov d b x s
  | .kset d a x => Sys2Proof.Machine.execKset d a x s
  | .xfrom d a b x => Sys2Proof.Machine.execXfrom d a b x s
  | .xrot d a b x => Sys2Proof.Machine.execXrot d a b x s
  | .xstep d a b x => Sys2Proof.Machine.execXstep d a b x s
  | .xflip d a b x => Sys2Proof.Machine.execXflip d a b x s
  | .pany d a x => Sys2Proof.Machine.execPany d a x s
  | .pevery d a x => Sys2Proof.Machine.execPevery d a x s
  | .xsame d a x => Sys2Proof.Machine.execXsame d a x s
  | .pcollect d a x => Sys2Proof.Machine.execPcollect d a x s
  | .xpeers d a x => Sys2Proof.Machine.execXpeers d a x s
  | .xlow d a x => Sys2Proof.Machine.execXlow d a x s
  | .foldAddI32 d a x => Sys2Proof.Machine.execFoldAddI32 d a x s
  | .foldMinI32 d a x => Sys2Proof.Machine.execFoldMinI32 d a x s
  | .foldMaxI32 d a x => Sys2Proof.Machine.execFoldMaxI32 d a x s
  | .foldAndI32 d a x => Sys2Proof.Machine.execFoldAndI32 d a x s
  | .foldOrI32 d a x => Sys2Proof.Machine.execFoldOrI32 d a x s
  | .scanIncI32 d a x => Sys2Proof.Machine.execScanIncI32 d a x s
  | .scanExcI32 d a x => Sys2Proof.Machine.execScanExcI32 d a x s
  | .prank d a x => Sys2Proof.Machine.execPrank d a x s
  | .xpack d a b x => Sys2Proof.Machine.execXpack d a b x s
  | .rng d a b x => Sys2Proof.Machine.execRng d a b x s
  | .faddF32 d a b x => Sys2Proof.Machine.execFaddF32 d a b x s
  | .fsubF32 d a b x => Sys2Proof.Machine.execFsubF32 d a b x s
  | .fmulF32 d a b x => Sys2Proof.Machine.execFmulF32 d a b x s
  | .ffmaF32 d a b c x => Sys2Proof.Machine.execFfmaF32 d a b c x s
  | .fdivF32 d a b x => Sys2Proof.Machine.execFdivF32 d a b x s
  | .fsqrtF32 d a x => Sys2Proof.Machine.execFsqrtF32 d a x s
  | .fminF32 d a b x => Sys2Proof.Machine.execFminF32 d a b x s
  | .fmaxF32 d a b x => Sys2Proof.Machine.execFmaxF32 d a b x s
  | .fminNanF32 d a b x => Sys2Proof.Machine.execFminNanF32 d a b x s
  | .fmaxNanF32 d a b x => Sys2Proof.Machine.execFmaxNanF32 d a b x s
  | .fabsF32 d a x => Sys2Proof.Machine.execFabsF32 d a x s
  | .fnegF32 d a x => Sys2Proof.Machine.execFnegF32 d a x s
  | .fcmpF32 d cc a b x => Sys2Proof.Machine.execFcmpF32 d cc a b x s
  | .frndF32 d a x => Sys2Proof.Machine.execFrndF32 d a x s
  | .ffuncF32 d a b x => Sys2Proof.Machine.execFfuncF32 d a b x s
  | .fclass d a x => Sys2Proof.Machine.execFclass d a x s
  | .faddF64 d a b x => Sys2Proof.Machine.execFaddF64 d a b x s
  | .fsubF64 d a b x => Sys2Proof.Machine.execFsubF64 d a b x s
  | .fmulF64 d a b x => Sys2Proof.Machine.execFmulF64 d a b x s
  | .ffmaF64 d a b c x => Sys2Proof.Machine.execFfmaF64 d a b c x s
  | .fdivF64 d a b x => Sys2Proof.Machine.execFdivF64 d a b x s
  | .fsqrtF64 d a x => Sys2Proof.Machine.execFsqrtF64 d a x s
  | .fminF64 d a b x => Sys2Proof.Machine.execFminF64 d a b x s
  | .fmaxF64 d a b x => Sys2Proof.Machine.execFmaxF64 d a b x s
  | .fminNanF64 d a b x => Sys2Proof.Machine.execFminNanF64 d a b x s
  | .fmaxNanF64 d a b x => Sys2Proof.Machine.execFmaxNanF64 d a b x s
  | .fabsF64 d a x => Sys2Proof.Machine.execFabsF64 d a x s
  | .fnegF64 d a x => Sys2Proof.Machine.execFnegF64 d a x s
  | .fcmpF64 d cc a b x => Sys2Proof.Machine.execFcmpF64 d cc a b x s
  | .frndF64 d a x => Sys2Proof.Machine.execFrndF64 d a x s
  | .ffuncF64 d a b x => Sys2Proof.Machine.execFfuncF64 d a b x s
  | .fflag d b x => Sys2Proof.Machine.execFflag d b x s
  | .cvtFI d a b x => Sys2Proof.Machine.execCvtFI d a b x s
  | .cvtIF d a b x => Sys2Proof.Machine.execCvtIF d a b x s
  | .cvtFF d a b e1 x => Sys2Proof.Machine.execCvtFF d a b e1 x s
  | .cvtBf16x2F32 d a b x => Sys2Proof.Machine.execCvtBf16x2F32 d a b x s
  | .cvtF16x2F32 d a b x => Sys2Proof.Machine.execCvtF16x2F32 d a b x s
  | .cvtTbF32 d a b x => Sys2Proof.Machine.execCvtTbF32 d a b x s
  | .tbpk d a x => Sys2Proof.Machine.execTbpk d a x s
  | .tbunpk d a b x => Sys2Proof.Machine.execTbunpk d a b x s
  | .ldGI8 d a b x => Sys2Proof.Machine.execLdGI8 d a b x s
  | .ldGN8 d a b x => Sys2Proof.Machine.execLdGN8 d a b x s
  | .ldGI16 d a b x => Sys2Proof.Machine.execLdGI16 d a b x s
  | .ldGN16 d a b x => Sys2Proof.Machine.execLdGN16 d a b x s
  | .ldG32 d a b x => Sys2Proof.Machine.execLdG32 d a b x s
  | .ldG64 d a b x => Sys2Proof.Machine.execLdG64 d a b x s
  | .stG8 d a b x => Sys2Proof.Machine.execStG8 d a b x s
  | .stG16 d a b x => Sys2Proof.Machine.execStG16 d a b x s
  | .stG32 d a b x => Sys2Proof.Machine.execStG32 d a b x s
  | .stG64 d a b x => Sys2Proof.Machine.execStG64 d a b x s
  | .ldT32 d a b x => Sys2Proof.Machine.execLdT32 d a b x s
  | .stT32 d a b x => Sys2Proof.Machine.execStT32 d a b x s
  | .apconvT d a b x => Sys2Proof.Machine.execApconvT d a b x s
  | .apconvL d b x => Sys2Proof.Machine.execApconvL d b x s
  | .aptest d a b x => Sys2Proof.Machine.execAptest d a b x s
  | .talloc d a b x => Sys2Proof.Machine.execTalloc d a b x s
  | .trel d x => Sys2Proof.Machine.execTrel d x s
  | .cp a b x => Sys2Proof.Machine.execCp a b x s
  | .pf a b x => Sys2Proof.Machine.execPf a b x s
  | .wset d a x => Sys2Proof.Machine.execWset d a x s
  | .wpos d a x => Sys2Proof.Machine.execWpos d a x s
  | .wskip d b x => Sys2Proof.Machine.execWskip d b x s
  | .wclr d x => Sys2Proof.Machine.execWclr d x s
  | .ldk d a b x => Sys2Proof.Machine.execLdk d a b x s
  | .arrive b x => Sys2Proof.Machine.execArrive b x s
  | .expect a b x => Sys2Proof.Machine.execExpect a b x s
  | .bwait b x => Sys2Proof.Machine.execBwait b x s
  | .bphase d b x => Sys2Proof.Machine.execBphase d b x s
  | .fence d b x => Sys2Proof.Machine.execFence d b x s
  | .fwait d x => Sys2Proof.Machine.execFwait d x s
  | .mon a x => Sys2Proof.Machine.execMon a x s
  | .mwait b x => Sys2Proof.Machine.execMwait b x s
  | .ugetI32 d a b op sc x => Sys2Proof.Machine.execUgetI32 d a b op sc x s
  | .ugetI64 d a b op sc x => Sys2Proof.Machine.execUgetI64 d a b op sc x s
  | .ugetFadd d a b wide sc x => Sys2Proof.Machine.execUgetFadd d a b wide sc x s
  | .uputI32 a b op sc x => Sys2Proof.Machine.execUputI32 a b op sc x s
  | .uputI64 a b op sc x => Sys2Proof.Machine.execUputI64 a b op sc x s
  | .uputFadd a b wide sc x => Sys2Proof.Machine.execUputFadd a b wide sc x s
  | .ucmpx d a b c wide sc x => Sys2Proof.Machine.execUcmpx d a b c wide sc x s
  | .ored d b x => Sys2Proof.Machine.execOred d b x s
  | .balloc d a b x => Sys2Proof.Machine.execBalloc d a b x s
  | .bdrop b x => Sys2Proof.Machine.execBdrop b x s
  | .sys b x => Sys2Proof.Machine.execSys b x s
  | .brk b x => Sys2Proof.Machine.execBrk b x s
  | .hcall d b x => Sys2Proof.Machine.execHcall d b x s
  | .sret x => Sys2Proof.Machine.execSret x s
  | .hret x => Sys2Proof.Machine.execHret x s
  | .ctlrd d b x => Sys2Proof.Machine.execCtlrd d b x s
  | .ctlwr a b x => Sys2Proof.Machine.execCtlwr a b x s
  | .lswrd d a x => Sys2Proof.Machine.execLswrd d a x s
  | .tinv b x => Sys2Proof.Machine.execTinv b x s
  | .tprobe d a x => Sys2Proof.Machine.execTprobe d a x s
  | .evclr b x => Sys2Proof.Machine.execEvclr b x s
  | .errrd d b x => Sys2Proof.Machine.execErrrd d b x s
  | .lhalt x => Sys2Proof.Machine.execLhalt x s
  | .einj a b x => Sys2Proof.Machine.execEinj a b x s
  | .mmaTb8 a x => Sys2Proof.Machine.execMmaTb8 a x s
  | .mmaTb6 a x => Sys2Proof.Machine.execMmaTb6 a x s
  | .mmaTb4 a x => Sys2Proof.Machine.execMmaTb4 a x s
  | .mmaBf16 a x => Sys2Proof.Machine.execMmaBf16 a x s
  | .mmaF16 a x => Sys2Proof.Machine.execMmaF16 a x s
  | .mmaF32 a x => Sys2Proof.Machine.execMmaF32 a x s
  | .mzero d x => Sys2Proof.Machine.execMzero d x s
  | .mepi d a tgt sc x => Sys2Proof.Machine.execMepi d a tgt sc x s
  | .mrel d x => Sys2Proof.Machine.execMrel d x s
  | .msave d a sc x => Sys2Proof.Machine.execMsave d a sc x s
  | .mload d a x => Sys2Proof.Machine.execMload d a x s
  | .wbal d a b x => Sys2Proof.Machine.execWbal d a b x s
  | .wbld a x => Sys2Proof.Machine.execWbld a x s
  | .mbias d a x => Sys2Proof.Machine.execMbias d a x s
  | .mstat d a x => Sys2Proof.Machine.execMstat d a x s
  | .mxset d b x => Sys2Proof.Machine.execMxset d b x s
  | .asnRun a x => Sys2Proof.Machine.execAsnRun a x s
  | .asnCont a x => Sys2Proof.Machine.execAsnCont a x s
  | .asnBest a x => Sys2Proof.Machine.execAsnBest a x s
  | .asnInv a x => Sys2Proof.Machine.execAsnInv a x s
  | .asnStat d x => Sys2Proof.Machine.execAsnStat d x s
  | .asnChk a x => Sys2Proof.Machine.execAsnChk a x s
  | .fwr a b x => Sys2Proof.Machine.execFwr a b x s
  | .frd a b x => Sys2Proof.Machine.execFrd a b x s
  | .frdK d a x => Sys2Proof.Machine.execFrdK d a x s
  | .fatom d a exch x => Sys2Proof.Machine.execFatom d a exch x s
  | .fsend a x => Sys2Proof.Machine.execFsend a x s
  | .fevent a x => Sys2Proof.Machine.execFevent a x s
  | .fstat d x => Sys2Proof.Machine.execFstat d x s
  | .bopen d a x => Sys2Proof.Machine.execBopen d a x s
  | .bpush a x => Sys2Proof.Machine.execBpush a x s
  | .bclose a x => Sys2Proof.Machine.execBclose a x s
  | .bstat d a x => Sys2Proof.Machine.execBstat d a x s
  | .bfree a x => Sys2Proof.Machine.execBfree a x s
  | .triggerRetire gid => Sys2Proof.Machine.execTriggerRetire gid s
  | .tallocGrant lvl unit index base => Sys2Proof.Machine.execTallocGrant lvl unit index base s
  | .copyByteTransfer gid op byte => Sys2Proof.Machine.execCopyByteTransfer gid op byte s
  | .copyRetire gid => Sys2Proof.Machine.execCopyRetire gid s
  | .loadRead gid => Sys2Proof.Machine.execLoadRead gid s
  | .loadRetire gid => Sys2Proof.Machine.execLoadRetire gid s
  | .storeRetire gid => Sys2Proof.Machine.execStoreRetire gid s
  | .bufferDrain wid => Sys2Proof.Machine.execBufferDrain wid s
  | .urnReplyLand gid op lane => Sys2Proof.Machine.execUrnReplyLand gid op lane s
  | .mwaitTimeout gid => Sys2Proof.Machine.execMwaitTimeout gid s
  | .barrierRunGrant lvl unit index => Sys2Proof.Machine.execBarrierRunGrant lvl unit index s
  | .barrierChangeApply cid => Sys2Proof.Machine.execBarrierChangeApply cid s
  | .barrierPacketArrival pkt => Sys2Proof.Machine.execBarrierPacketArrival pkt s
  | .phaseMirrorUpdate dpkg handle phase => Sys2Proof.Machine.execPhaseMirrorUpdate dpkg handle phase s
  | .hostcallRecordWrite gid => Sys2Proof.Machine.execHostcallRecordWrite gid s
  | .mmaKstep core gid => Sys2Proof.Machine.execMmaKstep core gid s
  | .matrixOpExecute core gid => Sys2Proof.Machine.execMatrixOpExecute core gid s
  | .weightRegionGrant core index base => Sys2Proof.Machine.execWeightRegionGrant core index base s
  | .auctionRound cluster => Sys2Proof.Machine.execAuctionRound cluster s
  | .fabricPacketReceive pkt crcOk => Sys2Proof.Machine.execFabricPacketReceive pkt crcOk s
  | .remoteAccessApply pid => Sys2Proof.Machine.execRemoteAccessApply pid s
  | .fabricOpRetire gid op => Sys2Proof.Machine.execFabricOpRetire gid op s
  | .fabricMessageArrival pid => Sys2Proof.Machine.execFabricMessageArrival pid s
  | .fabricEventArrival pid => Sys2Proof.Machine.execFabricEventArrival pid s
  | .blendPushRetire gid op => Sys2Proof.Machine.execBlendPushRetire gid op s
  | .blendRecordWrite sid => Sys2Proof.Machine.execBlendRecordWrite sid s
  | .blendSessionEnd sid => Sys2Proof.Machine.execBlendSessionEnd sid s
  | .blendTimeout sid => Sys2Proof.Machine.execBlendTimeout sid s
  | .evClearWrite vi n val => Sys2Proof.Machine.execEvClearWrite vi n val s
  | .evsetWrite vi num => Sys2Proof.Machine.execEvsetWrite vi num s
  | .queueEnable vi q val => Sys2Proof.Machine.execQueueEnable vi q val s
  | .queueDisable vi q val => Sys2Proof.Machine.execQueueDisable vi q val s
  | .qtailDoorbell vi q tail => Sys2Proof.Machine.execQtailDoorbell vi q tail s
  | .queueResume vi q => Sys2Proof.Machine.execQueueResume vi q s
  | .hostcallRingEnable vi val => Sys2Proof.Machine.execHostcallRingEnable vi val s
  | .pageRingEnable vi val => Sys2Proof.Machine.execPageRingEnable vi val s
  | .hdoneWrite vi seq => Sys2Proof.Machine.execHdoneWrite vi seq s
  | .prrespWrite vi fail tag => Sys2Proof.Machine.execPrrespWrite vi fail tag s
  | .registerWrite fn off size val => Sys2Proof.Machine.execRegisterWrite fn off size val s
  | .functionLevelReset vi => Sys2Proof.Machine.execFunctionLevelReset vi s
  | .hostPostedWrite addr bytes => Sys2Proof.Machine.execHostPostedWrite addr bytes s
  | .consume vi q => Sys2Proof.Machine.execConsume vi q s
  | .release vi q => Sys2Proof.Machine.execRelease vi q s
  | .launchRecordRead lid => Sys2Proof.Machine.execLaunchRecordRead lid s
  | .taskRecordRead gid op => Sys2Proof.Machine.execTaskRecordRead gid op s
  | .pieceDispatch lid places => Sys2Proof.Machine.execPieceDispatch lid places s
  | .pieceRetire pid => Sys2Proof.Machine.execPieceRetire pid s
  | .complete lid => Sys2Proof.Machine.execComplete lid s
  | .heartbeatTimeout qc => Sys2Proof.Machine.execHeartbeatTimeout qc s
  | .queueCoreRepair qc => Sys2Proof.Machine.execQueueCoreRepair qc s
  | .queueWatchdogExpiry vi q => Sys2Proof.Machine.execQueueWatchdogExpiry vi q s
  | .leafDrain leaf => Sys2Proof.Machine.execLeafDrain leaf s
  | .policyCoreRestart => Sys2Proof.Machine.execPolicyCoreRestart s
  | .budgetPeriodStart => Sys2Proof.Machine.execBudgetPeriodStart s
  | .tenantSwitch leaf => Sys2Proof.Machine.execTenantSwitch leaf s
  | .assistTimeout tag => Sys2Proof.Machine.execAssistTimeout tag s
  | .assistReply val => Sys2Proof.Machine.execAssistReply val s
  | .pageRequestPost gid lane => Sys2Proof.Machine.execPageRequestPost gid lane s
  | .stage2PageService eid => Sys2Proof.Machine.execStage2PageService eid s
  | .walkComplete wid => Sys2Proof.Machine.execWalkComplete wid s
  | .invalidationArrival iid cluster => Sys2Proof.Machine.execInvalidationArrival iid cluster s
  | .invalidationAck iid => Sys2Proof.Machine.execInvalidationAck iid s
  | .preempt gid => Sys2Proof.Machine.execPreempt gid s
  | .restore gid core ctx => Sys2Proof.Machine.execRestore gid core ctx s
  | .suspendedCopyResume gid op => Sys2Proof.Machine.execSuspendedCopyResume gid op s
  | .frequencyStep die => Sys2Proof.Machine.execFrequencyStep die s
  | .relockEnd die => Sys2Proof.Machine.execRelockEnd die s
  | .powerSample watts => Sys2Proof.Machine.execPowerSample watts s
  | .junctionHot die => Sys2Proof.Machine.execJunctionHot die s
  | .thermalTrip die => Sys2Proof.Machine.execThermalTrip die s
  | .cxlLinkDown port => Sys2Proof.Machine.execCxlLinkDown port s
  | .reset => Sys2Proof.Machine.execReset s
  | .bootReady => Sys2Proof.Machine.execBootReady s
  | .partConfig => Sys2Proof.Machine.execPartConfig s
  | .windowSet => Sys2Proof.Machine.execWindowSet s
  | .plimitSet => Sys2Proof.Machine.execPlimitSet s
  | .freqTarget => Sys2Proof.Machine.execFreqTarget s
  | .ticketMake => Sys2Proof.Machine.execTicketMake s
  | .ticketTake => Sys2Proof.Machine.execTicketTake s
  | .attest => Sys2Proof.Machine.execAttest s
  | .imageLoad => Sys2Proof.Machine.execImageLoad s
  | .rollbackAdvance => Sys2Proof.Machine.execRollbackAdvance s
  | .ticketExpiry tid => Sys2Proof.Machine.execTicketExpiry tid s
  | .migrationPhase leaf => Sys2Proof.Machine.execMigrationPhase leaf s
  | .migrationFailure leaf => Sys2Proof.Machine.execMigrationFailure leaf s
  | .cutMarkerArrival leaf dpkg => Sys2Proof.Machine.execCutMarkerArrival leaf dpkg s
  | .checkpointWrite leaf addr => Sys2Proof.Machine.execCheckpointWrite leaf addr s
  | .assignmentOpExecute cluster => Sys2Proof.Machine.execAssignmentOpExecute cluster s
  | .barrierPacketResend cid => Sys2Proof.Machine.execBarrierPacketResend cid s

end Sys2Proof.Machine
end

