-- ==== Sys2Proof/Machine/Policy.lean ====
section
/-!
DEFINITION. An act carried out, and what happens next when the agenda is empty: one deterministic schedule among those the
manual allows (R124; DESIGN CHOICE, log entry 2). The device takes, from a place in the list of its own acts that moves on with time, the first that
changes anything; acts of the host, of other packages and of the board come from the agenda alone.
-/

namespace Sys2Proof.Machine
open Sys2Proof

/-- An act: an issue slot of a group, whose instruction, once its issue is in hand, is executed; or an event. -/
def perform (a : Act) (s : State) : Host.Outcome State Fault Refusal :=
  match a with
  | .issue gid =>
    match s.prepare gid with
    | .none s => .next s
    | .issue s i => exec i s
  | .event i => exec i { s with issue := none }

/-! ### What falls due -/

/-- What falls due, with the reference time at which it does: expiries of watchdogs, unless the policy core is away (R59, R67),
drains whose launches must end (R60), and queue cores that must resume (R55). -/
def State.deadlines (s : State) : List (Nat × (State → State)) :=
  s.vis.flatMap (fun (v : Nat × VI) => v.2.queues.filterMap (fun (q : Nat × Queue) =>
    if q.2.wddead ≠ 0 && (s.leafOf v.1).isSome && s.residentVi v.1 then
      some (max (q.2.wddead.toNat + 1) s.mgmt.policyBack, fun s => s.watchdogExpiry v.1 q.1) else none)) ++
  s.parts.filterMap (fun (p : Nat × Part) =>
    if p.2.drain = 2 then some (p.2.drainBy, fun s => s.leafDrain p.1) else none) ++
  s.mgmt.queueCores.filterMap (fun (c : Nat × QueueCore) =>
    if c.2.down then c.2.restartAt.map (fun t => (t + 30000, fun s => s.queueCoreRepair c.1)) else none)

/-- The first of some deadlines. -/
def firstDue (ds : List (Nat × (State → State))) : Option (Nat × (State → State)) :=
  ds.foldl (fun x d => match x with
    | none => some d
    | some y => if d.1 < y.1 then some d else x) none

/-- Reference time comes to `t`, and what falls due before it happens when it does; at most so many things. -/
def State.passTo (t : Nat) : Nat → State → State
  | 0, s => s.advance (t - s.time)
  | n + 1, s => match firstDue s.deadlines with
    | none => s.advance (t - s.time)
    | some (d, f) => if t < d then s.advance (t - s.time) else passTo t n (f (s.advance (d - s.time)))

/-- Time that passes before an act: what has come about retires first (R362), and what falls due meanwhile happens. -/
def State.passTime (s : State) (dt : Nat) : State :=
  let s := (s.retireReady (s.pieces.length + s.groups.length)).finishReady
  s.passTo (s.time + dt) (2 * s.deadlines.length + s.parts.length)

/-! ### The device's own moves -/

/-- Something the device may do of itself. -/
abbrev Move := State → Out

/-- A move leads to another state. -/
def State.moves (s : State) (m : Move) : Bool :=
  match m s with
  | .next t => decide (t ≠ s)
  | .fault _ => false
  | .refused _ => false

/-- The group to which scheduler `k` of a core gives its slot (R124): among its groups whose slot leads anywhere, the one
that has gone longest since its last issue, and among those the one of the lowest context. -/
def State.scheduled (s : State) (core k : Nat) : Option Nat :=
  let ready := s.groups.filter (fun p => p.2.resident && !p.2.freed && p.2.core == core && p.2.ctx % 4 == k &&
    s.moves (perform (.issue p.1)))
  (ready.foldl (fun (x : Option (Nat × Group)) p => match x with
    | none => some p
    | some q => if p.2.lastIssue < q.2.lastIssue || (p.2.lastIssue == q.2.lastIssue && p.2.ctx < q.2.ctx) then some p
        else x) none).map (·.1)

/-- Issue slots: one for each of the four schedulers of every core with a group (R124). -/
def State.slotMoves (s : State) : List Move :=
  (distinct (s.groups.map (fun p => p.2.core))).flatMap (fun c => (List.range 4).map (fun k => fun s =>
    match s.scheduled c k with
    | some gid => perform (.issue gid) s
    | none => .next s))

/-- Moves of a group: its events. -/
def groupMoves (gid : Nat) (g : Group) : List Move :=
  [execLoadRead gid, execLoadRetire gid, execStoreRetire gid, execTriggerRetire gid,
    execCopyRetire gid, execHostcallRecordWrite gid, execMwaitTimeout gid, execMmaKstep g.core gid,
    execMatrixOpExecute g.core gid, execRestore gid g.core g.ctx, execPieceRetire gid]

/-- Moves of an operation of a group. -/
def opMoves (gid : Nat) (o : Op) : List Move :=
  let urn : List Move := match o.kind with
    | .urn _ _ _ ls => ls.map (fun l => execUrnReplyLand gid o.id l.lane)
    | _ => []
  let copy : List Move := match o.kind.copy? with
    | some c => (c.done.take 1 ++ (List.range c.total).filter (fun b => !c.done.contains b)).map
        (fun b => execCopyByteTransfer gid o.id b)
    | none => []
  [execFabricOpRetire gid o.id, execBlendPushRetire gid o.id, execTaskRecordRead gid o.id,
    execSuspendedCopyResume gid o.id] ++ urn ++ copy

/-- Grants to a request for storage: free entries and the places behind what the store holds. -/
def State.waitMoves (s : State) (w : StoreWait) : List Move :=
  let here (h : Nat) : Bool := handleLvl h == w.lvl.toNat && handleUnit h == w.unit
  let tile := ((List.range 1024).find? (fun i => (tblFind s.tiles (handleAt w.lvl w.unit i)).isNone)).getD 0
  let bases := 0 :: (s.tiles.filter (fun p => here p.1)).map (fun (p : Nat × Tile) => p.2.base + storeSpan w.lvl p.2.size)
  let runs := 0 :: (s.barriers.filter (fun p => here p.1)).map (fun (p : Nat × Barrier) => handleIndex p.1 + 1)
  let c := s.core w.unit
  let region := ((List.range 16).find? (fun i => (tblFind c.regions i).isNone)).getD 0
  let units := 0 :: c.regions.map (fun (p : Nat × WRegion) => p.2.base + p.2.len)
  bases.map (fun b => execTallocGrant w.lvl w.unit tile b) ++ runs.map (fun i => execBarrierRunGrant w.lvl w.unit i) ++
    units.map (fun u => execWeightRegionGrant w.unit region u)

/-- Free places of a leaf on cores that a test allows, at most `n`. -/
def State.freePlaces (s : State) (leaf n : Nat) (f : Nat → Bool) : List (Nat × Nat) :=
  let cores := (List.range 416).filter (fun c => f c && (s.part leaf).clusters.getLsbD (clusterOf c) && !s.asleep c)
  (cores.flatMap (fun c => ((List.range 64).filter (fun x => s.contextFree c x)).map (fun x => (c, x)))).take n

/-- Groups that the head of a launch's plans must be placed with: its gang. -/
def Launch.gangSize (l : Launch) : Nat :=
  match l.plans with
  | [] => 1
  | g :: r => 1 + (if g.gang.isSome then (r.takeWhile (fun h => decide (h.gang = g.gang))).length else 0)

/-- Dispatches of a launch: laying out alone; and places anywhere, within one die, one cluster, or one core. -/
def State.dispatchMoves (s : State) (lid : Nat) (l : Launch) : List Move :=
  let at_ (f : Nat → Bool) : List (Nat × Nat) := s.freePlaces l.leaf l.gangSize f
  let lists := [] :: at_ (fun _ => true) :: (List.range 8).map (fun d => at_ (fun c => dieOf c == d)) ++
    (s.part l.leaf).clusterList.flatMap (fun k => at_ (fun c => clusterOf c == k) ::
      (List.range 4).map (fun j => at_ (fun c => c == 4 * k + j)))
  lists.map (fun ps => execPieceDispatch lid ps)

/-- Pre-emptions that R83, a stopped leaf or a tenant that leaves calls for (R83, R65, R358). -/
def State.preemptMoves (s : State) : List Move :=
  s.stuck.map execPreempt ++
  (s.groups.filter (fun p => p.2.resident && !p.2.freed && (s.part p.2.leaf).drain == 0 &&
    (s.leafStopped p.2.leaf || ((s.part p.2.leaf).vis.length != 1 && !s.residentVi p.2.vi)))).map
    (fun (p : Nat × Group) => execPreempt p.1)

/-- Moves of the front end. -/
def State.frontMoves (s : State) : List Move :=
  s.vis.flatMap (fun (v : Nat × VI) => v.2.queues.flatMap (fun (q : Nat × Queue) =>
    [execConsume v.1 q.1, execRelease v.1 q.1, execQueueWatchdogExpiry v.1 q.1])) ++
  s.launches.flatMap (fun (l : Nat × Launch) => [execLaunchRecordRead l.1, execComplete l.1]) ++
  s.pieces.map (fun (p : Nat × Piece) => execPieceRetire p.1) ++
  s.mgmt.queueCores.flatMap (fun (c : Nat × QueueCore) =>
    if c.2.down then [execHeartbeatTimeout c.1, execQueueCoreRepair c.1] else []) ++
  s.launches.flatMap (fun (l : Nat × Launch) => s.dispatchMoves l.1 l.2)

/-- Moves of memory, barriers, the fabric and translation. -/
def State.pathMoves (s : State) : List Move :=
  s.flight.map (fun (w : Write) => execBufferDrain w.id) ++
  s.changes.map (fun (c : Nat × Change) => execBarrierChangeApply c.1) ++
  s.assignQ.flatMap (fun (q : Nat × AssignQ) => [execAuctionRound q.1, execAssignmentOpExecute q.1]) ++
  s.inbox.flatMap (fun (p : Nat × FabPacket) =>
    [execRemoteAccessApply p.1, execFabricMessageArrival p.1, execFabricEventArrival p.1]) ++
  s.sessions.flatMap (fun (x : Nat × Session) => [execBlendRecordWrite x.1, execBlendSessionEnd x.1, execBlendTimeout x.1]) ++
  s.pageWaits.map (fun (w : PageWait) => execPageRequestPost w.gid w.lane) ++
  s.pageReqs.map (fun (r : Nat × PageReq) => execStage2PageService r.1) ++
  s.walks.map (fun (w : Nat × Walk) => execWalkComplete w.1) ++
  s.invals.flatMap (fun (x : Nat × Inval) =>
    (s.part x.2.leaf).clusterList.map (fun c => execInvalidationArrival x.1 c) ++ [execInvalidationAck x.1])

/-- Moves of the policy core, of the clocks and of the management function. -/
def State.boardMoves (s : State) : List Move :=
  [execBootReady, execBudgetPeriodStart, execPartConfig, execWindowSet, execPlimitSet, execFreqTarget, execTicketMake,
    execTicketTake, execAttest, execImageLoad, execRollbackAdvance] ++
  s.dies.flatMap (fun (d : Nat × Die) => [execFrequencyStep d.1, execRelockEnd d.1]) ++
  s.parts.flatMap (fun (p : Nat × Part) => [execLeafDrain p.1, execTenantSwitch p.1, execMigrationPhase p.1]) ++
  s.mgmt.asks.map (fun (a : Assist) => execAssistTimeout a.tag.toNat) ++
  s.mgmt.tickets.map (fun (t : Nat × Ticket) => execTicketExpiry t.1)

/-- The device's own moves in a state. -/
def State.ownMoves (s : State) : List Move :=
  s.boardMoves ++ s.frontMoves ++ s.slotMoves ++ s.groups.flatMap (fun (g : Nat × Group) => groupMoves g.1 g.2) ++
    s.groups.flatMap (fun (g : Nat × Group) => g.2.ops.flatMap (opMoves g.1)) ++ s.waits.flatMap s.waitMoves ++
    s.pathMoves ++ s.preemptMoves

/-- What happens when the agenda is empty: the first move that changes anything, from a place that moves on with time; where
there is none, time alone passes. -/
def State.policy (s : State) : Out :=
  let ms := s.ownMoves
  let k := s.time % (ms.length + 1)
  match (ms.drop k ++ ms.take k).find? s.moves with
  | some m => m s
  | none => .next s

end Sys2Proof.Machine
end

