-- ==== Sys2Proof/Machine/Step.lean ====
section
/-!
DEFINITION. One step of the device: the next turn of the agenda, or what its policy does when the agenda is empty;
and the placing of a program for the very next step.
-/

namespace Sys2Proof.Machine
open Sys2Proof

/-- One step. -/
def step (s : State) : Host.Outcome State Fault Refusal :=
  match s.agenda with
  | t :: r => perform t.act ({ s with agenda := r }.passTime t.dt)
  | [] => (s.passTime 1).policy

/-- The state with an instruction placed where the next step fetches it. -/
def State.withFetchWord (s : State) (nbits w : Nat) : State :=
  let w := w % 2 ^ nbits
  s.place (placedMode w) w

end Sys2Proof.Machine
end

