-- ==== Sys2Proof/Safety.lean ====
section
/-!
DEFINITION. What a safe run is, in the terms that claims use: a step that answers a next state; an issue that nothing
holds up or turns away; and what an instruction leaves as it was, in its group and outside it.
-/

namespace Sys2Proof.Machine
open Sys2Proof

/-- A step goes on: neither a fault nor a refusal. -/
def GoesOn (o : Out) : Prop := ∃ t, o = .next t

/-- The guard-active lanes of an issue (R92). -/
def Group.activeLanes (g : Group) (iss : Issue) (i : Instr) : List Nat := iss.lanes.filter (g.guarded (guardOf iss i))

/-- The tag that a slot carries (R106). -/
def State.tagOf (s : State) (g : Group) (iss : Issue) (i : Instr) (sl : SlotName) : Tag :=
  g.slotTag iss.mode iss.pfx sl ((s.slots g iss i).slot sl)

/-- An issue in hand, of instruction `i`, that nothing holds up or turns away: its lanes live, its registers legal (R110
order 3), its mode high enough (R109), its tags those that `ok` accepts (R106), its class allowed (R127), its registers not
awaited and its counter not full (R124, R125), and no poisoned line of its image read (R182). `cls` is the counter that counts the instruction. -/
structure Ready (s : State) (iss : Issue) (g : Group) (i : Instr) (low : Mode) (ok : Tag → Tag → Tag → SlotName → List Tag)
    (cls : Option Cls) : Prop where
  issue : s.issue = some iss
  group : s.group iss.gid = some g
  lanes : iss.lanes ≠ []
  sorted : iss.lanes.Pairwise (· < ·)
  order : iss.considered.Nodup
  live : ∀ j ∈ iss.lanes, j < 32 ∧ (g.lane j).live = true ∧ (g.lane j).mode = iss.mode
  legal : s.passIllegal g iss i = none
  mode : low.num ≤ iss.mode.num
  tags : State.formatFault g iss (s.slots g iss i) (ok (s.tagOf g iss i .a) (s.tagOf g iss i .b) (s.tagOf g iss i .c)) = none
  role : roleFault g i iss.pfx = none
  ready : g.busy iss i (s.slots g iss i) cls = false
  clean : s.badReads g iss.mode i (s.slots g iss i) = []
  settled : retire g.ops [] = (g.ops, [])

/-- Such an issue with no stream bound to a slot (R103). -/
structure Free (s : State) (iss : Issue) (g : Group) (i : Instr) (low : Mode) (ok : Tag → Tag → Tag → SlotName → List Tag)
    (cls : Option Cls) : Prop extends Ready s iss g i low ok cls where
  plain : iss.pfx.streams = []

/-- What a meaning is given in an issue without streams. -/
def State.plainCtx (s : State) (iss : Issue) (g : Group) (i : Instr) : Ctx :=
  { iss := iss, o := s.slots g iss i, ta := s.tagOf g iss i .a, tb := s.tagOf g iss i .b, tc := s.tagOf g iss i .c,
    active := g.activeLanes iss i, sa := none, sb := none, sc := none, sd := none }

/-- What stands outside a group is as before, but for the budget counts of its partition (R62), the event counters of its
core (R337), and the model's own stamp and issue; and every byte reads as before, for every agent (R280). -/
structure SameOutside (s t : State) (gid : Nat) : Prop where
  rest : { t with groups := s.groups, parts := s.parts, cores := s.cores, stamp := s.stamp, issue := s.issue } = s
  groups : ∀ h, h ≠ gid → t.group h = s.group h
  cores : ∀ n, { t.core n with evc := (s.core n).evc } = s.core n
  parts : ∀ n, { t.part n with used := (s.part n).used } = s.part n
  bytes : ∀ a l, t.readByte a l = s.readByte a l

/-- V[r] of mode `m` is a register that a slot names in an issue of mode `im` (R24, R89). -/
def namesV (o : Opd) (im m : Mode) (r : Nat) : Prop :=
  match o with
  | .v n => r = n ∧ (r < 120 ∨ m = im)
  | .pair n => (r = n ∨ r = n + 1) ∧ (r < 120 ∨ m = im)
  | _ => False

/-- A lane at the end of an issue (R119): aged where it was considered and did not issue, its age 0 where it issued and ended
as `l`. -/
def Group.endsAs (g : Group) (iss : Issue) (j : Nat) (l : Lane) : Lane :=
  if j ∈ iss.lanes then { l with age := 0, restored := false, failing := false }
  else if j ∈ iss.considered then (g.lane j).older else g.lane j

/-- Where an end leaves a lane of a group that has a handler for it: past its sequence (R86, R101), at a header, in the
handler of a trap (R334), or where its meaning has put it. -/
def LaneEnd.move (e : LaneEnd) (g : Group) (iss : Issue) (l : Lane) : Lane :=
  match e with
  | .past => l.pass iss
  | .goto a => { l.setPasses iss.mode 0 0 with addr := a, came := .header }
  | .back => { l.setPasses iss.mode (BitVec.ofNat 16 (iss.loopPass + 1)) 0 with
      addr := BitVec.ofNat 48 iss.header, came := .back }
  | .stay => l
  | .trap c v => match trapMode g l.mode with
    | some (t, vec) => l.enter t vec (BitVec.ofNat 48 iss.addr) c v
    | none => l
  | .trapPast c v => match trapMode g l.mode with
    | some (t, vec) => l.enter t vec (BitVec.ofNat 48 iss.next) c v
    | none => l

/-- The end takes no trap for which the group has no handler. -/
def LaneEnd.handled (e : LaneEnd) (g : Group) (l : Lane) : Bool :=
  match e with
  | .trap _ _ => (trapMode g l.mode).isSome
  | .trapPast _ _ => (trapMode g l.mode).isSome
  | _ => true

/-- A group is as before, but for its lanes, its measurements (R363) and the stamp of its last issue. -/
def SameGroup (g g' : Group) : Prop := { g' with lanes := g.lanes, meas := g.meas, lastIssue := g.lastIssue } = g

/-- A group is as before, but for slot D in lanes `ls`, the tag of slot D, its lanes' own fields, its measurements and the
stamp of its last issue. -/
structure SameButD (s : State) (g g' : Group) (iss : Issue) (i : Instr) (ls : List Nat) : Prop where
  rest : { g' with v := g.v, vtag := g.vtag, p := g.p, lanes := g.lanes, meas := g.meas, lastIssue := g.lastIssue } = g
  vregs : ∀ m r j, r < 128 → j < 32 → ¬ (namesV (s.slots g iss i).d iss.mode m r ∧ j ∈ ls) →
    g'.vGet m r j = g.vGet m r j
  tags : ∀ m r, r < 128 → ¬ namesV (s.slots g iss i).d iss.mode m r → g'.tag m r = g.tag m r
  preds : ∀ n j, j < 32 → ¬ ((s.slots g iss i).d = .p n ∧ j ∈ ls) → g'.pGet n j = g.pGet n j

/-- Slot D holds `x j` in every lane `j` of `ls`. -/
def DestIs (s : State) (g g' : Group) (iss : Issue) (i : Instr) (ls : List Nat) (x : Nat → DWord) : Prop :=
  ∀ j ∈ ls, match (s.slots g iss i).d with
    | .v n => g'.vGet iss.mode n j = BitVec.ofNat 32 (x j).toNat
    | .pair n => g'.dGet iss.mode n j = x j
    | .p n => g'.pGet n j = decide (x j ≠ 0)
    | _ => False

/-- The V registers of slot D carry a tag: the one FORMAT names, else `t` (R104, R106); other slots carry none. -/
def DestTag (s : State) (g g' : Group) (iss : Issue) (i : Instr) (t : Tag) : Prop :=
  match (s.slots g iss i).d with
    | .v n => g'.tag iss.mode n = (iss.pfx.formatted .d).getD t
    | .pair n => g'.tag iss.mode n = (iss.pfx.formatted .d).getD t ∧ g'.tag iss.mode (n + 1) = (iss.pfx.formatted .d).getD t
    | _ => True

/-- Every lane that issued moved past its sequence, or made its REPEAT pass (R86, R101). -/
def LanesPass (g g' : Group) (iss : Issue) : Prop := ∀ j, g'.lane j = g.endsAs iss j ((g.lane j).pass iss)

/-- The instruction completes: `exec` answers a next state in which slot D holds the computed value in every guard-active
lane and the result tag, the lanes have moved on, and everything else is as before. -/
def Computes (s : State) (iss : Issue) (g : Group) (i : Instr) (x : Nat → DWord) (t : Option Tag) : Prop :=
  ∃ s' g', exec i s = .next s' ∧ s'.group iss.gid = some g' ∧ DestIs s g g' iss i (g.activeLanes iss i) x ∧
    (∀ u, t = some u → DestTag s g g' iss i u) ∧ LanesPass g g' iss ∧ SameButD s g g' iss i (g.activeLanes iss i) ∧ SameOutside s s' iss.gid

/-- The instruction completes with group `g1`, whose lanes then end as `e` says, and with what stands outside the group as in
`s1`: the effect of the instruction, to which the end of the issue adds nothing else. -/
def EndsIn (s : State) (iss : Issue) (i : Instr) (s1 : State) (g1 : Group) (e : Nat → Lane) : Prop :=
  ∃ s' g', exec i s = .next s' ∧ s'.group iss.gid = some g' ∧ SameGroup g1 g' ∧
    (∀ j, g'.lane j = g1.endsAs iss j (e j)) ∧ SameOutside s1 s' iss.gid

/-- The same for an instruction that also writes `x` to slot D in lanes `ls`, with result tag `t`. -/
def EndsWith (s : State) (iss : Issue) (i : Instr) (s1 : State) (g1 : Group) (e : Nat → Lane) (ls : List Nat)
    (x : Nat → DWord) (t : Tag) : Prop :=
  ∃ s' g', exec i s = .next s' ∧ s'.group iss.gid = some g' ∧ DestIs s g1 g' iss i ls x ∧ DestTag s g1 g' iss i t ∧
    SameButD s g1 g' iss i ls ∧ (∀ j, g'.lane j = g1.endsAs iss j (e j)) ∧ SameOutside s1 s' iss.gid

/-- Where a lane stands after a floating-point result with flags `fl`: in its FP handler when a flag it would raise is
enabled, else past its sequence with the flags added (R215, R216). -/
def Lane.floatEnd (l : Lane) (g : Group) (iss : Issue) (enabled fl : Flags) : Lane :=
  if fpTraps enabled fl then (LaneEnd.trap causeFP (fpVal fl)).move g iss l else (l.raise fl).pass iss

/-- The instruction completes lane by lane: a guard-active lane whose result would raise an enabled flag traps FP and keeps its
slot D, every other one holds its result there and its sticky flags take the flags raised; the result tag is set unless every
lane trapped; everything else is as before. -/
def ComputesF (s : State) (iss : Issue) (g : Group) (i : Instr) (x : Nat → Val) (t : Option Tag) : Prop :=
  let good := (g.activeLanes iss i).filter (fun j => !fpTraps (s.trapFlags g) (x j).2)
  ∃ s' g', exec i s = .next s' ∧ s'.group iss.gid = some g' ∧ DestIs s g g' iss i good (fun j => (x j).1) ∧
    ((∃ j ∈ iss.lanes, j ∉ g.activeLanes iss i ∨ j ∈ good) → ∀ u, t = some u → DestTag s g g' iss i u) ∧
    (∀ j, g'.lane j = g.endsAs iss j (if j ∈ g.activeLanes iss i then
      (g.lane j).floatEnd g iss (s.trapFlags g) (x j).2 else (g.lane j).pass iss)) ∧
    SameButD s g g' iss i good ∧ SameOutside s s' iss.gid

end Sys2Proof.Machine
end

