-- ==== Sys2Proof/Certificates/Slice0/Obligations.lean ====
section
/-!
DEFINITION. The statements for the provers, and what they say of the spec in words of their own: the results of the
instructions as the tables of the manual give them.
-/

namespace Sys2Proof.Spec
open Sys2Proof Sys2Proof.Machine

/-! ### Integer results (R144 to R151) -/

/-- Bits of a register as an integer (R144). -/
def val32 (sg : Bool) (x : Word) : Int := if sg then x.toInt else x.toNat
def val64 (sg : Bool) (x : DWord) : Int := if sg then x.toInt else x.toNat

/-- The operand type of a width: the tag of slot A where it is an integer tag of the width, else the signed one (R144). -/
def type32 (ta : Tag) : Tag := if ta = .n32 then .n32 else .i32
def type64 (ta : Tag) : Tag := if ta = .n64 then .n64 else .i64

/-- Slots A, B and C require the operand type (R144). -/
def ok32 (ta _tb _tc : Tag) (sl : SlotName) : List Tag := if sl = .d then [] else [type32 ta]
def ok64 (ta _tb _tc : Tag) (sl : SlotName) : List Tag := if sl = .d then [] else [type64 ta]

/-- The exact result held to the range of the result tag where SAT stands (R100, R144). -/
def clamp32 (sat sg : Bool) (x : Int) : Int :=
  if sat then (if sg then min (max x (-2147483648)) 2147483647 else min (max x 0) 4294967295) else x
def clamp64 (sat sg : Bool) (x : Int) : Int :=
  if sat then (if sg then min (max x (-9223372036854775808)) 9223372036854775807 else min (max x 0) 18446744073709551615) else x

/-- The range of SAT is signed: by the FORMAT tag of D where it is an integer tag of the width, else by the result tag. -/
def signed32 (t : Tag) (fmt : Option Tag) : Bool :=
  match fmt with
  | some .i32 => true
  | some .n32 => false
  | _ => decide (t = .i32)
def signed64 (t : Tag) (fmt : Option Tag) : Bool :=
  match fmt with
  | some .i64 => true
  | some .n64 => false
  | _ => decide (t = .i64)

/-- The exact results of R145 at width 32, of slots A, B and C. -/
def exact32 (i : Instr) (sg : Bool) (a b c : Word) : Option Int :=
  match i with
  | .addI32 _ _ _ _ => some (val32 sg a + val32 sg b)
  | .subI32 _ _ _ _ => some (val32 sg a - val32 sg b)
  | .mulI32 _ _ _ _ => some (val32 sg a * val32 sg b)
  | .mulhiI32 _ _ _ _ => some (val32 sg a * val32 sg b / 4294967296)
  | .madI32 _ _ _ _ _ => some (val32 sg a * val32 sg b + val32 sg c)
  | .minI32 _ _ _ _ => some (if val32 sg a ≤ val32 sg b then val32 sg a else val32 sg b)
  | .maxI32 _ _ _ _ => some (if val32 sg a ≤ val32 sg b then val32 sg b else val32 sg a)
  | .absI32 _ _ _ => some |val32 sg a|
  | .negI32 _ _ _ => some (-val32 sg a)
  | .addiI32 _ _ n _ => some (val32 sg a + n.toInt)
  | .shlI32 _ _ _ _ => some (val32 sg a * 2 ^ (b.toNat % 32))
  | .shrI32 _ _ _ _ => some (val32 sg a / 2 ^ (b.toNat % 32))
  | .shliI32 _ _ n _ => some (val32 sg a * 2 ^ n.toNat)
  | .shriI32 _ _ n _ => some (val32 sg a / 2 ^ n.toNat)
  | _ => none

/-- The bits of an exact result of width 32 or 64 whose natural result tag is `t` (R144). -/
def bits32 (iss : Issue) (t : Tag) (x : Int) : DWord :=
  (BitVec.ofInt 32 (clamp32 iss.pfx.sat (signed32 t (iss.pfx.formatted .d)) x)).setWidth 64
def bits64 (iss : Issue) (t : Tag) (x : Int) : DWord :=
  BitVec.ofInt 64 (clamp64 iss.pfx.sat (signed64 t (iss.pfx.formatted .d)) x)

/-- What the entry of an instruction that computes lane by lane states: the tags its slots accept, the result of each lane,
and the result tag. -/
structure Row where
  ok : Tag → Tag → Tag → SlotName → List Tag := fun _ _ _ _ => []
  val : Nat → DWord
  tag : Option Tag := none

/-- What an instruction reads in a slot of a lane, at the width that the slot has. -/
abbrev Reads := SlotName → Nat → DWord
/-- 32 bits of it. -/
def Reads.word (rd : Reads) (sl : SlotName) (j : Nat) : Word := (rd sl j).setWidth 32
/-- A slot without a stream is read from its register. -/
def registers (s : State) (iss : Issue) (g : Group) (i : Instr) : Reads :=
  fun sl j => ((s.slots g iss i).slot sl).read64 g iss.mode j

/-- An instruction completes as its row states. -/
def Completes (row : Reads → State → Issue → Group → Instr → Option Row) : Prop :=
  ∀ (s : State) (iss : Issue) (g : Group) (i : Instr) (r : Row), row (registers s iss g i) s iss g i = some r → Free s iss g i .user r.ok none →
    Computes s iss g i r.val r.tag

/-- The bit field of `bfx` (R147). -/
def field (sg : Bool) (a b : Word) : Word :=
  let n := min (b.toNat / 256 % 64) 32
  let y := a.toNat / 2 ^ (b.toNat % 32) % 2 ^ n
  if n = 0 then 0
  else if sg ∧ n < 32 ∧ y / 2 ^ (n - 1) % 2 = 1 then BitVec.ofInt 32 ((y : Int) - 2 ^ n) else BitVec.ofNat 32 y

/-- The results of R145 and R147 that are bits of A and B, and their tags. -/
def word32 (i : Instr) (t : Tag) (a b : Word) : Option (Word × Tag) :=
  match i with
  | .andI32 _ _ _ _ => some (a &&& b, t)
  | .orI32 _ _ _ _ => some (a ||| b, t)
  | .xorI32 _ _ _ _ => some (a ^^^ b, t)
  | .andnI32 _ _ _ _ => some (a &&& ~~~b, t)
  | .notI32 _ _ _ => some (~~~a, t)
  | .rotlI32 _ _ _ _ => some (a.rotateLeft (b.toNat % 32), t)
  | .popcI32 _ _ _ => some (BitVec.ofNat 32 ((List.range 32).countP a.getLsbD), .i32)
  | .clzI32 _ _ _ => some (if a = 0 then 32 else BitVec.ofNat 32 (31 - a.toNat.log2), .i32)
  | .brevI32 _ _ _ => some (a.reverse, t)
  | .bfxI32 _ _ _ _ => some (field (decide (t = .i32)) a b, t)
  | _ => none

/-- The rows of R145 that work on bits of 32-bit registers. -/
def bitRow (rd : Reads) (s : State) (iss : Issue) (g : Group) (i : Instr) : Option Row :=
  let t := type32 (s.tagOf g iss i .a)
  match word32 i t 0 0 with
  | none => none
  | some _ => some
      { ok := ok32
        val := fun j => ((word32 i t (rd.word .a j) (rd.word .b j)).getD (0, t)).1.setWidth 64
        tag := (word32 i t 0 0).map (·.2) }

/-- The quotient and the remainder of R146. -/
def divRow (rd : Reads) (s : State) (iss : Issue) (g : Group) (i : Instr) : Option Row :=
  let t := type32 (s.tagOf g iss i .a)
  let a (j : Nat) : Int := val32 (decide (t = .i32)) (rd.word .a j)
  let b (j : Nat) : Int := val32 (decide (t = .i32)) (rd.word .b j)
  match i with
  | .divI32 _ _ _ _ => some
      { ok := ok32, tag := some t
        val := fun j =>
          if b j = 0 then 0xFFFFFFFF
          else if a j = -2147483648 ∧ b j = -1 then (if iss.pfx.sat then 0x7FFFFFFF else 0x80000000)
          else bits32 iss t (Int.tdiv (a j) (b j)) }
  | .remI32 _ _ _ _ => some
      { ok := ok32, tag := some t
        val := fun j => bits32 iss t (if b j = 0 then a j else a j - Int.tdiv (a j) (b j) * b j) }
  | _ => none

/-- The exact results of R145 at width 64, of slots A and B. -/
def exact64 (i : Instr) (sg : Bool) (a b : DWord) : Option Int :=
  match i with
  | .addI64 _ _ _ _ => some (val64 sg a + val64 sg b)
  | .subI64 _ _ _ _ => some (val64 sg a - val64 sg b)
  | .mulI64 _ _ _ _ => some (val64 sg a * val64 sg b)
  | .addiI64 _ _ n _ => some (val64 sg a + n.toInt)
  | .shlI64 _ _ _ _ => some (val64 sg a * 2 ^ (b.toNat % 64))
  | .shrI64 _ _ _ _ => some (val64 sg a / 2 ^ (b.toNat % 64))
  | _ => none

/-- The rows of R145 of width 64 whose result has the type of slot A. -/
def row64 (rd : Reads) (s : State) (iss : Issue) (g : Group) (i : Instr) : Option Row :=
  let t := type64 (s.tagOf g iss i .a)
  match exact64 i true 0 0 with
  | none => none
  | some _ => some
      { ok := ok64, tag := some t
        val := fun j => bits64 iss t ((exact64 i (decide (t = .i64)) (rd .a j)
          (rd .b j)).getD 0) }

/-- Slot A of `lea` and of `rng` accepts N64, I64 and RAW (R150, R160). -/
def okAddress (sl : SlotName) : List Tag := if sl = .a then [.n64, .i64, .raw] else []

/-- `ext.i64`, `trn.i32`, `mulw.i32` (R151) and `lea` (R150). -/
def widthRow (rd : Reads) (s : State) (iss : Issue) (g : Group) (i : Instr) : Option Row :=
  let o := s.slots g iss i
  let t := type32 (s.tagOf g iss i .a)
  let t' := type64 (s.tagOf g iss i .a)
  let sg := decide (t = .i32)
  match i with
  | .extI64 _ _ _ => some
      { ok := ok32, tag := some (if t = .i32 then .i64 else .n64)
        val := fun j => bits64 iss (if t = .i32 then .i64 else .n64) (val32 sg (rd.word .a j)) }
  | .mulwI32 _ _ _ _ => some
      { ok := ok32, tag := some (if t = .i32 then .i64 else .n64)
        val := fun j => bits64 iss (if t = .i32 then .i64 else .n64)
          (val32 sg (rd.word .a j) * val32 sg (rd.word .b j)) }
  | .trnI32 _ _ _ => some
      { ok := ok64, tag := some (if t' = .i64 then .i32 else .n32)
        val := fun j => bits32 iss (if t' = .i64 then .i32 else .n32)
          (val64 (decide (t' = .i64)) (rd .a j)) }
  | .lea _ _ _ x =>
      let sc := match x with
        | .short => 0
        | .long n _ => n.toNat
      some
      { ok := fun _ _ _ sl => if sl = .b then [.i32, .n32] else okAddress sl
        tag := some .n64
        val := fun j =>
          let ix : DWord := match o.b with
            | .k _ _ => rd .b j
            | _ => if s.tagOf g iss i .b = .i32 then (rd.word .b j).signExtend 64
              else (rd.word .b j).setWidth 64
          rd .a j + ix * BitVec.ofNat 64 (2 ^ sc) }
  | _ => none

/-- The relation of a comparison of R148. -/
def holds (c : Cond) (x y : Int) : Bool :=
  match c with
  | .eq => decide (x = y)
  | .ne => decide (x ≠ y)
  | .lt => decide (x < y)
  | .le => decide (x ≤ y)
  | .gt => decide (x > y)
  | .ge => decide (x ≥ y)

/-- The condition of a 32-bit comparison, which its opcode names (R145). -/
def cond32 (i : Instr) : Option Cond :=
  match i with
  | .cmpEqI32 _ _ _ _ => some .eq
  | .cmpNeI32 _ _ _ _ => some .ne
  | .cmpLtI32 _ _ _ _ => some .lt
  | .cmpLeI32 _ _ _ _ => some .le
  | .cmpGtI32 _ _ _ _ => some .gt
  | .cmpGeI32 _ _ _ _ => some .ge
  | _ => none

/-- A predicate as the value of slot D. -/
def pred (x : Bool) : DWord := if x then 1 else 0

/-- The comparisons of R148. -/
def compareRow (rd : Reads) (s : State) (iss : Issue) (g : Group) (i : Instr) : Option Row :=
  let ta := s.tagOf g iss i .a
  match i with
  | .cmpI64 _ _ _ c _ => some
      { ok := ok64
        val := fun j => pred (holds c (val64 (decide (type64 ta = .i64)) (rd .a j))
          (val64 (decide (type64 ta = .i64)) (rd .b j))) }
  | i => match cond32 i with
    | none => none
    | some c => some
      { ok := ok32
        val := fun j => pred (holds c (val32 (decide (type32 ta = .i32)) (rd.word .a j))
          (val32 (decide (type32 ta = .i32)) (rd.word .b j))) }

/-- `mov` (R114) and `sel` (R149). -/
def moveRow (rd : Reads) (s : State) (iss : Issue) (g : Group) (i : Instr) : Option Row :=
  match i with
  | .mov _ _ _ => some { val := fun j => (rd.word .b j).setWidth 64, tag := some (match (s.slots g iss i).b with
      | .k _ _ => .raw
      | _ => s.tagOf g iss i .b) }
  | .sel _ _ _ c _ _ => some
      { ok := fun ta _ _ sl => if sl = .b then [ta] else []
        val := fun j => if g.pGet c.toNat j then rd .a j else rd .b j
        tag := some (s.tagOf g iss i .a) }
  | _ => none

/-- The predicate operations and `getlsw` (R142, R143). -/
def predicateRow (rd : Reads) (_s : State) (iss : Issue) (g : Group) (i : Instr) : Option Row :=
  match i with
  | .pand _ a b _ => some { val := fun j => pred (g.pGet a.toNat j && g.pGet b.toNat j) }
  | .por _ a b _ => some { val := fun j => pred (g.pGet a.toNat j || g.pGet b.toNat j) }
  | .pxor _ a b _ => some { val := fun j => pred (xor (g.pGet a.toNat j) (g.pGet b.toNat j)) }
  | .pandn _ a b _ => some { val := fun j => pred (g.pGet a.toNat j && !g.pGet b.toNat j) }
  | .ptest _ _ _ => some { val := fun j => pred (decide (rd.word .a j ≠ 0)) }
  | .pmask _ b _ => some { val := fun j => pred ((g.kGet b.toNat).getLsbD j) }
  | .pget _ a _ => some { val := fun j => pred (g.pGet a.toNat j), tag := some .i32 }
  | .getlsw _ _ => some
      { val := fun j => { g.lane j with addr := BitVec.ofNat 48 iss.addr }.word, tag := some .n64 }
  | _ => none

/-- V[a] of virtual lane `n` as a cross-lane instruction finds it: 0 for an absent lane (R155). -/
def laneV (rd : Reads) (g : Group) (n : Nat) : Word := if (g.lane n).absent then 0 else rd.word .a n

/-- The source lane of a lane read (R156). -/
def sourceLane (i : Instr) (lane b : Nat) : Option Nat :=
  match i with
  | .xfrom _ _ _ _ => some (b % 32)
  | .xrot _ _ _ _ => some ((lane + b % 32) % 32)
  | .xstep _ _ _ _ =>
    let n : Int := lane + (BitVec.ofNat 6 b).toInt
    some (if 0 ≤ n ∧ n ≤ 31 then n.toNat else lane)
  | .xflip _ _ _ _ => some (lane ^^^ (b % 32))
  | _ => none

/-- The lane reads of R156. -/
def laneReadRow (rd : Reads) (s : State) (iss : Issue) (g : Group) (i : Instr) : Option Row :=
  match sourceLane i 0 0 with
  | none => none
  | some _ => some
      { tag := some (s.tagOf g iss i .a)
        val := fun j => (laneV rd g ((sourceLane i j (rd.word .b j).toNat).getD 0)).setWidth 64 }

/-- A mask with a bit for each lane of a list. -/
def lanesMask (ls : List Nat) : DWord := BitVec.ofNat 64 (ls.map (2 ^ ·)).sum

/-- The votes, comparisons and masks of R156, `xlow` and `xpack` (R158); `e` are the executing lanes, in ascending order. -/
def voteRow (rd : Reads) (s : State) (iss : Issue) (g : Group) (i : Instr) : Option Row :=
  let e := g.activeLanes iss i
  let va (j : Nat) : Word := rd.word .a j
  match i with
  | .pany _ a _ => some { val := fun _ => pred (e.any (g.pGet a.toNat)) }
  | .pevery _ a _ => some { val := fun _ => pred (e.all (g.pGet a.toNat)) }
  | .xsame _ _ _ => some { val := fun j => pred (e.all (fun n => decide (va n = va j))) }
  | .pcollect _ a _ => some { val := fun _ => lanesMask (e.filter (g.pGet a.toNat)), tag := some .n32 }
  | .xpeers _ _ _ => some { val := fun j => lanesMask (e.filter (fun n => decide (va n = va j))), tag := some .n32 }
  | .prank _ a _ => some
      { val := fun j => BitVec.ofNat 64 (e.countP (fun n => decide (n < j) && g.pGet a.toNat n)), tag := some .i32 }
  | .xlow _ _ _ => some { val := fun j => (va (e.headD j)).setWidth 64, tag := some (s.tagOf g iss i .a) }
  | .xpack _ _ b _ => some
      { tag := some (s.tagOf g iss i .a)
        val := fun j => match (e.filter (g.pGet b.toNat))[e.idxOf j]? with
          | some n => (laneV rd g n).setWidth 64
          | none => 0 }
  | _ => none

/-- The folds and scans of R156 and R157: the result is held to the range of T under SAT. -/
def foldRow (rd : Reads) (s : State) (iss : Issue) (g : Group) (i : Instr) : Option Row :=
  let e := g.activeLanes iss i
  let t := type32 (s.tagOf g iss i .a)
  let va (j : Nat) : Word := rd.word .a j
  let x (j : Nat) : Int := val32 (decide (t = .i32)) (va j)
  let held (n : Int) : DWord := (BitVec.ofInt 32 (clamp32 iss.pfx.sat (decide (t = .i32)) n)).setWidth 64
  match i with
  | .foldAddI32 _ _ _ => some { ok := ok32, tag := some t, val := fun _ => held (e.map x).sum }
  | .foldMinI32 _ _ _ => some
      { ok := ok32, tag := some t, val := fun _ => held ((e.map x).foldl min ((e.map x).headD 0)) }
  | .foldMaxI32 _ _ _ => some
      { ok := ok32, tag := some t, val := fun _ => held ((e.map x).foldl max ((e.map x).headD 0)) }
  | .foldAndI32 _ _ _ => some { ok := ok32, tag := some t, val := fun _ => ((e.map va).foldl (· &&& ·) (~~~0)).setWidth 64 }
  | .foldOrI32 _ _ _ => some { ok := ok32, tag := some t, val := fun _ => ((e.map va).foldl (· ||| ·) 0).setWidth 64 }
  | .scanIncI32 _ _ _ => some
      { ok := ok32, tag := some t, val := fun j => held ((e.filter (fun n => decide (n ≤ j))).map x).sum }
  | .scanExcI32 _ _ _ => some
      { ok := ok32, tag := some t, val := fun j => held ((e.filter (fun n => decide (n < j))).map x).sum }
  | _ => none

/-- The stream function of R159: round `n` takes (hi, lo) to (lo, hi XOR f). -/
def streamRound (k : Nat → Word) (n : Nat) (x : Word × Word) : Word × Word :=
  let c : Word := [0x7A31C5E9, 0x2F8496B3, 0xD16E0A57, 0x48C93F1D, 0xB5F26C8B, 0x0E97D423, 0x93AD71F5, 0x6C40BE19,
    0xF21B5836, 0x35E6A2C7].getD n 0
  let sh : Nat := [7, 12, 17, 22, 5, 11, 19, 27, 9, 14].getD n 0
  (x.2, x.1 ^^^ ((x.2 + k (n % 4) + c).rotateLeft sh ^^^ x.2))
def streamRounds (k : Nat → Word) : Nat → Word × Word → Word × Word
  | 0, x => x
  | n + 1, x => streamRound k n (streamRounds k n x)
def stream (k : Nat → Word) (ctr : DWord) : DWord :=
  let x := streamRounds k 10 (ctr.extractLsb' 32 32, ctr.extractLsb' 0 32)
  x.1 ++ x.2

/-- `rng` (R160). -/
def rngRow (rd : Reads) (_s : State) (_iss : Issue) (g : Group) (i : Instr) : Option Row :=
  match i with
  | .rng _ _ b _ => some
      { ok := fun _ _ _ sl => okAddress sl
        tag := some .n64
        val := fun j => stream (fun n => (g.kGet (b.toNat + n / 2)).extractLsb' (32 * (n % 2)) 32)
          (rd .a j) }
  | _ => none

/-! ### Floating-point results (R224 to R238) -/

/-- What the entry of an instruction that raises flags states: a lane's result comes with the flags it raises. -/
structure RowF where
  ok : Tag → Tag → Tag → SlotName → List Tag
  val : Nat → Val
  tag : Option Tag := none

/-- An instruction completes as its row states: where a lane would raise an enabled flag, the group has a handler for its
trap (R216; lanes without a handler halt, by R334). -/
def CompletesF (row : Reads → State → Issue → Group → Instr → Option RowF) : Prop :=
  ∀ (s : State) (iss : Issue) (g : Group) (i : Instr) (r : RowF), row (registers s iss g i) s iss g i = some r → Free s iss g i .user r.ok none →
    ((trapMode g iss.mode).isSome = true ∨
      ∀ j ∈ g.activeLanes iss i, fpTraps (s.trapFlags g) (r.val j).2 = false) →
    ComputesF s iss g i r.val r.tag

/-- The rounding mode of an issue: that of ROUND, else the instruction's own (R211). -/
def mode (iss : Issue) (own : RMode) : RMode := (iss.pfx.round).getD own

/-- `fmin` and `fmax` as R225 writes them; `great` for `fmax`, `hard` for the `.nan` forms. -/
def minMax (f : Fmt) (great hard ftz : Bool) (x y : Nat) : Nat × Flags :=
  let a := f.operand ftz x
  let b := f.operand ftz y
  if a = .nan true ∨ b = .nan true then (f.nan, flagNV)
  else if a.isNan ∧ b.isNan then (f.nan, 0)
  else if a.isNan then (if hard then f.nan else f.flushIn ftz y, 0)
  else if b.isNan then (if hard then f.nan else f.flushIn ftz x, 0)
  else
    let below := a.cmp b < 0 ∨ a.cmp b = 0 ∧ a.sign ∧ ¬ b.sign
    (if below then (if great then f.flushIn ftz y else f.flushIn ftz x)
      else (if great then f.flushIn ftz x else f.flushIn ftz y), 0)

/-- The result of one element of A, B and C (R224 to R226, R229), and whether the operands are F64. -/
def floatFn (i : Instr) : Option (Bool × (Fmt → RMode → Bool → Nat → Nat → Nat → Nat × Flags)) :=
  let two (f : Fmt → RMode → Bool → FVal → FVal → Nat × Flags) (t : Fmt) (m : RMode) (z : Bool) (a b _c : Nat) :=
    f t m z (t.operand z a) (t.operand z b)
  let fma (t : Fmt) (m : RMode) (z : Bool) (a b c : Nat) := t.fma m z (t.operand z a) (t.operand z b) (t.operand z c)
  let root (t : Fmt) (m : RMode) (z : Bool) (a _b _c : Nat) := t.sqrt m z (t.operand z a)
  let whole (t : Fmt) (m : RMode) (z : Bool) (a _b _c : Nat) := t.integral m z (t.operand z a)
  let least (great hard : Bool) (t : Fmt) (_m : RMode) (z : Bool) (a b _c : Nat) := minMax t great hard z a b
  let absolute (t : Fmt) (_m : RMode) (_z : Bool) (a _b _c : Nat) : Nat × Flags := (a % 2 ^ (t.width - 1), 0)
  let negated (t : Fmt) (_m : RMode) (_z : Bool) (a _b _c : Nat) : Nat × Flags := ((a + 2 ^ (t.width - 1)) % 2 ^ t.width, 0)
  match i with
  | .faddF32 _ _ _ _ => some (false, two Fmt.add)
  | .fsubF32 _ _ _ _ => some (false, two (fun t m z a b => t.add m z a b.neg))
  | .fmulF32 _ _ _ _ => some (false, two Fmt.mul)
  | .ffmaF32 _ _ _ _ _ => some (false, fma)
  | .fdivF32 _ _ _ _ => some (false, two Fmt.div)
  | .fsqrtF32 _ _ _ => some (false, root)
  | .fminF32 _ _ _ _ => some (false, least false false)
  | .fmaxF32 _ _ _ _ => some (false, least true false)
  | .fminNanF32 _ _ _ _ => some (false, least false true)
  | .fmaxNanF32 _ _ _ _ => some (false, least true true)
  | .fabsF32 _ _ _ => some (false, absolute)
  | .fnegF32 _ _ _ => some (false, negated)
  | .frndF32 _ _ _ => some (false, whole)
  | .faddF64 _ _ _ _ => some (true, two Fmt.add)
  | .fsubF64 _ _ _ _ => some (true, two (fun t m z a b => t.add m z a b.neg))
  | .fmulF64 _ _ _ _ => some (true, two Fmt.mul)
  | .ffmaF64 _ _ _ _ _ => some (true, fma)
  | .fdivF64 _ _ _ _ => some (true, two Fmt.div)
  | .fsqrtF64 _ _ _ => some (true, root)
  | .fminF64 _ _ _ _ => some (true, least false false)
  | .fmaxF64 _ _ _ _ => some (true, least true false)
  | .fminNanF64 _ _ _ _ => some (true, least false true)
  | .fmaxNanF64 _ _ _ _ => some (true, least true true)
  | .fabsF64 _ _ _ => some (true, absolute)
  | .fnegF64 _ _ _ => some (true, negated)
  | .frndF64 _ _ _ => some (true, whole)
  | _ => none

/-- T of R222. -/
def floatTy (wide : Bool) (ta : Tag) : Tag :=
  if wide then .f64 else if ta = .bf16x2 then .bf16x2 else if ta = .f16x2 then .f16x2 else .f32

/-- The format of the elements under T (R208). -/
def fmtOf (t : Tag) : Fmt :=
  if t = .f64 then fmtF64 else if t = .bf16x2 then fmtBF16 else if t = .f16x2 then fmtF16 else fmtF32

/-- An operation on the elements of a value under T: a pair format has two, the second in bits [31:16], and raises the union
of their flags (R209, R223). -/
def elementwise (t : Tag) (f : Nat → Nat → Nat → Nat × Flags) (a b c : DWord) : Val :=
  if t = .bf16x2 ∨ t = .f16x2 then
    let lo := f (a.toNat % 65536) (b.toNat % 65536) (c.toNat % 65536)
    let hi := f (a.toNat / 65536 % 65536) (b.toNat / 65536 % 65536) (c.toNat / 65536 % 65536)
    (BitVec.ofNat 64 (lo.1 + 65536 * hi.1), lo.2 ||| hi.2)
  else
    let w := if t = .f64 then 2 ^ 64 else 2 ^ 32
    let r := f (a.toNat % w) (b.toNat % w) (c.toNat % w)
    (BitVec.ofNat 64 r.1, r.2)

/-- The elementwise instructions of R223. -/
def floatRow (rd : Reads) (s : State) (iss : Issue) (g : Group) (i : Instr) : Option RowF :=
  match floatFn i with
  | none => none
  | some (wide, f) =>
    let t := floatTy wide (s.tagOf g iss i .a)
    some
      { ok := fun _ _ _ sl => if sl = .d then [] else [t]
        val := fun j => elementwise t (f (fmtOf t) (mode iss .rne) (s.ftz g))
          (rd .a j) (rd .b j) (rd .c j)
        tag := some t }

/-- Tags of F32 or F64 operands (R227, R228, R230, R233). -/
def floatTag (wide : Bool) : Tag := if wide then .f64 else .f32

/-- An operand of F32 or F64 under FTZ. -/
def floatVal (ftz : Bool) (t : Tag) (x : DWord) : FVal :=
  (fmtOf t).operand ftz (if t = .f64 then x.toNat else x.toNat % 2 ^ 32)

/-- The table of R227: a comparison of two values, and the NV that it raises. -/
def fcompare (cc : FCond) (a b : FVal) : Bool × Flags :=
  let nan := a.isNan || b.isNan
  let quiet : Flags := if a = .nan true ∨ b = .nan true then flagNV else 0
  let loud : Flags := if nan then flagNV else 0
  match cc with
  | .eq => (!nan && decide (a.cmp b = 0), quiet)
  | .ne => (nan || decide (a.cmp b ≠ 0), quiet)
  | .lt => (!nan && decide (a.cmp b < 0), loud)
  | .le => (!nan && decide (a.cmp b ≤ 0), loud)
  | .gt => (!nan && decide (a.cmp b > 0), loud)
  | .ge => (!nan && decide (a.cmp b ≥ 0), loud)
  | .un => (nan, quiet)
  | .or => (!nan, quiet)

/-- `fcmp` (R227) and the functions of R230. -/
def fcmpRow (rd : Reads) (s : State) (iss : Issue) (g : Group) (i : Instr) : Option RowF :=
  let cmp (wide : Bool) (cc : FCond) : RowF :=
    { ok := fun _ _ _ sl => if sl = .a ∨ sl = .b then [floatTag wide] else []
      val := fun j =>
        let r := fcompare cc (floatVal (s.ftz g) (floatTag wide) (rd .a j))
          (floatVal (s.ftz g) (floatTag wide) (rd .b j))
        (pred r.1, r.2) }
  let fn (wide : Bool) (f : FloatFn) : RowF :=
    { ok := fun _ _ _ sl => if sl = .a then [floatTag wide] else []
      val := fun j =>
        let x := (rd .a j).toNat % (if wide then 2 ^ 64 else 2 ^ 32)
        let r := (fmtOf (floatTag wide)).func (s.ftz g) f x (Config.fnValue wide f x)
        (BitVec.ofNat 64 r.1, r.2)
      tag := some (floatTag wide) }
  match i with
  | .fcmpF32 _ cc _ _ _ => some (cmp false cc)
  | .fcmpF64 _ cc _ _ _ => some (cmp true cc)
  | .ffuncF32 _ _ f _ => some (fn false f)
  | .ffuncF64 _ _ f _ => some (fn true f)
  | _ => none

/-- The value of a source of `cvt.f.f`: an IEEE element, or a block element in lane form (R217, R219, R234). -/
def convertSource (ftz : Bool) (t : Tag) (el : Bool) (x : DWord) : FVal :=
  let blk (b : BFmt) : FVal := b.value (x.toNat / 2 ^ 24 % 256) (x.toNat / 2 ^ 16 % 256) (x.toNat % 2 ^ b.w)
  match t with
  | .tb8 => blk bfmtTB8
  | .tb6 => blk bfmtTB6
  | .tb4 => blk bfmtTB4
  | .bf16x2 => fmtBF16.operand ftz (if el then x.toNat / 65536 % 65536 else x.toNat % 65536)
  | .f16x2 => fmtF16.operand ftz (if el then x.toNat / 65536 % 65536 else x.toNat % 65536)
  | t => floatVal ftz t x

/-- The conversions of R232 to R235; element 1 of a source that is no pair is illegal (R234). -/
def convertRow (rd : Reads) (s : State) (iss : Issue) (g : Group) (i : Instr) : Option RowF :=
  let ta := s.tagOf g iss i .a
  let target (b : FTarget) : Tag := floatTag (decide (b = .f64))
  let pair (t : Tag) : RowF :=
    { ok := fun _ _ _ sl => if sl = .a ∨ sl = .b then [.f32] else []
      val := fun j =>
        let lo := (fmtOf t).convert (mode iss .rne) (s.ftz g) (fmtF32.operand (s.ftz g) (rd.word .a j).toNat)
        let hi := (fmtOf t).convert (mode iss .rne) (s.ftz g) (fmtF32.operand (s.ftz g) (rd.word .b j).toNat)
        (BitVec.ofNat 64 (lo.1 + 65536 * hi.1), lo.2 ||| hi.2)
      tag := some t }
  match i with
  | .cvtFI _ _ b _ =>
    let t : Tag := if ta = .n32 ∨ ta = .i64 ∨ ta = .n64 then ta else .i32
    some
      { ok := fun _ _ _ sl => if sl = .a then [t] else []
        val := fun j =>
          let x : Int := if t = .i32 ∨ t = .n32 then val32 (decide (t = .i32)) (rd.word .a j)
            else val64 (decide (t = .i64)) (rd .a j)
          let r := (fmtOf (target b)).roundVal (mode iss .rne) (s.ftz g) (.fin (decide (x < 0)) x.natAbs 0)
          (BitVec.ofNat 64 r.1, r.2)
        tag := some (target b) }
  | .cvtIF _ _ b _ =>
    let t := floatTag (decide (ta = .f64))
    let lo : Int := match b with | .i32 => -2147483648 | .i64 => -9223372036854775808 | _ => 0
    let hi : Int := match b with
      | .i32 => 2147483647 | .n32 => 4294967295 | .i64 => 9223372036854775807 | .n64 => 18446744073709551615
    some
      { ok := fun _ _ _ sl => if sl = .a then [t] else []
        val := fun j =>
          let r := toInteger lo hi (mode iss .rz) (floatVal (s.ftz g) t (rd .a j))
          (BitVec.ofInt 64 r.1, r.2)
        tag := some (match b with | .i32 => .i32 | .n32 => .n32 | .i64 => .i64 | .n64 => .n64) }
  | .cvtFF _ _ b el _ =>
    let t : Tag := if ta ∈ [Tag.f64, .bf16x2, .f16x2, .tb8, .tb6, .tb4] then ta else .f32
    if el ∧ t ≠ .bf16x2 ∧ t ≠ .f16x2 then none
    else some
      { ok := fun _ _ _ sl => if sl = .a then [t] else []
        val := fun j =>
          let v := convertSource (s.ftz g) t el (rd .a j)
          let r := (fmtOf (target b)).roundVal (mode iss .rne) (s.ftz g) v
          (BitVec.ofNat 64 r.1, r.2 ||| (if v = .nan true then flagNV else 0))
        tag := some (target b) }
  | .cvtBf16x2F32 _ _ _ _ => some (pair .bf16x2)
  | .cvtF16x2F32 _ _ _ _ => some (pair .f16x2)
  | _ => none

/-- The block format and the tag that a target names (R217). -/
def blockOf (b : BTarget) : BFmt × Tag :=
  match b with
  | .tb8 => (⟨8, 5⟩, .tb8)
  | .tb6 => (⟨6, 3⟩, .tb6)
  | .tb4 => (⟨4, 1⟩, .tb4)

/-- A word in lane form (R219). -/
def laneWord (ea eb el : Nat) : DWord := BitVec.ofNat 64 (ea * 2 ^ 24 + eb * 2 ^ 16 + el)

/-- `cvt.tb` (R236). -/
def blockRow (rd : Reads) (s : State) (iss : Issue) (g : Group) (i : Instr) : Option RowF :=
  match i with
  | .cvtTbF32 _ _ b _ =>
    let code := (blockOf b).1.encode ((List.range 32).map (fun n => fmtF32.operand (s.ftz g) (laneV rd g n).toNat))
    some
      { ok := fun _ _ _ sl => if sl = .a then [.f32] else []
        val := fun j => (laneWord code.ea code.eb (code.elems.getD j 0), code.flags.getD j 0)
        tag := some (blockOf b).2 }
  | _ => none

/-- A little-endian number whose element `n` of `w` bits is `x n` (R218). -/
def packed (w : Nat) (n : Nat) (x : Nat → Nat) : Nat := ((List.range n).map (fun j => x j % 2 ^ w * 2 ^ (w * j))).sum

/-- `fclass` (R228), `tbpk` (R237) and `tbunpk` (R238). -/
def blockFormRow (rd : Reads) (s : State) (iss : Issue) (g : Group) (i : Instr) : Option Row :=
  let ta := s.tagOf g iss i .a
  match i with
  | .fclass _ _ _ =>
    let t := floatTag (decide (ta = .f64))
    let f := fmtOf t
    some
      { ok := fun _ _ _ sl => if sl = .a then [t] else []
        tag := some .n32
        val := fun j =>
          let x := (rd .a j).toNat % (if t = .f64 then 2 ^ 64 else 2 ^ 32)
          let ex := x / 2 ^ f.frac % 2 ^ f.ebits
          BitVec.ofNat 64 (2 ^ (match f.value x with
            | .inf true => 0
            | .inf false => 7
            | .nan true => 8
            | .nan false => 9
            | .fin true m _ => if m = 0 then 3 else if ex = 0 then 2 else 1
            | .fin false m _ => if m = 0 then 4 else if ex = 0 then 5 else 6)) }
  | .tbpk _ _ _ =>
    let b : BTarget := if ta = .tb6 then .tb6 else if ta = .tb4 then .tb4 else .tb8
    let w := (blockOf b).1.w
    let payload := packed w 32 (fun n => (laneV rd g n).toNat)
    let low := (rd.word .a ((g.activeLanes iss i).headD 0)).toNat
    some
      { ok := fun _ _ _ sl => if sl = .a then [(blockOf b).2] else []
        tag := some .raw
        val := fun j => BitVec.ofNat 64 (if j < w then payload / 2 ^ (32 * j) % 2 ^ 32
          else low / 2 ^ 24 % 256 + 256 * (low / 2 ^ 16 % 256)) }
  | .tbunpk _ _ b _ =>
    let w := (blockOf b).1.w
    let payload := packed 32 w (fun n => (laneV rd g n).toNat)
    let planes := (laneV rd g w).toNat
    some
      { tag := some (blockOf b).2
        val := fun j => laneWord (planes % 256) (planes / 256 % 256) (payload / 2 ^ (w * j) % 2 ^ w) }
  | _ => none

/-! ### Rounding (R208, R211 to R214), arithmetic (R224, R229) and the bounds of R230, over the reals -/

/-- The finite number that bits of a format stand for (R208). -/
noncomputable def number (f : Fmt) (z : Nat) : Option ℝ :=
  let ex := z / 2 ^ f.frac % 2 ^ f.ebits
  let fr := z % 2 ^ f.frac
  let s : ℝ := if z / 2 ^ (f.ebits + f.frac) % 2 = 1 then -1 else 1
  if ex = 2 ^ f.ebits - 1 then none
  else if ex = 0 then some (s * fr * (2 : ℝ) ^ (1 - (f.bias : ℤ) - f.frac))
  else some (s * (2 ^ f.frac + fr : ℕ) * (2 : ℝ) ^ ((ex : ℤ) - f.bias - f.frac))

/-- The bits have a sign and stand for a number. -/
def Is (f : Fmt) (s : Bool) (y : ℝ) (z : Nat) : Prop :=
  z < 2 ^ f.width ∧ number f z = some y ∧ decide (z / 2 ^ (f.ebits + f.frac) = 1) = s

/-- The exact value of a finite operand. -/
noncomputable def real (s : Bool) (m : Nat) (e : ℤ) : ℝ := (if s then -1 else 1) * (m : ℝ) * (2 : ℝ) ^ e

/-- The numbers of the precision of a format with any exponent, and those whose last digit is even. -/
def precise (f : Fmt) (y : ℝ) : Prop := ∃ n k : ℤ, |n| ≤ 2 ^ (f.frac + 1) ∧ y = n * (2 : ℝ) ^ k
def preciseEven (f : Fmt) (y : ℝ) : Prop :=
  ∃ n k : ℤ, 2 ^ f.frac ≤ |n| ∧ |n| ≤ 2 ^ (f.frac + 1) ∧ n % 2 = 0 ∧ y = n * (2 : ℝ) ^ k
/-- The multiples of a unit, and the even ones. -/
def multiple (u : ℝ) (y : ℝ) : Prop := ∃ n : ℤ, y = n * u
def multipleEven (u : ℝ) (y : ℝ) : Prop := ∃ n : ℤ, y = 2 * n * u

/-- `y` is `x` rounded under a mode to the numbers of `among`, with ties to those of `even` (R211). -/
def Rounded (mode : RMode) (among even : ℝ → Prop) (x y : ℝ) : Prop :=
  among y ∧ match mode with
  | .rne => ∀ z, among z → |x - y| ≤ |x - z| ∧ (|x - y| = |x - z| → z = y ∨ even y)
  | .rz => |y| ≤ |x| ∧ 0 ≤ x * y ∧ ∀ z, among z → |z| ≤ |x| → 0 ≤ x * z → |z| ≤ |y|
  | .rup => x ≤ y ∧ ∀ z, among z → x ≤ z → y ≤ z
  | .rdn => y ≤ x ∧ ∀ z, among z → z ≤ x → z ≤ y

/-- The bits that overflow gives (R212). -/
def overflowBits (f : Fmt) (mode : RMode) (s : Bool) : Nat :=
  let inf := (2 ^ f.ebits - 1) * 2 ^ f.frac
  let sign := if s then 2 ^ (f.ebits + f.frac) else 0
  sign + (if mode = .rne ∨ (mode = .rup ∧ s = false) ∨ (mode = .rdn ∧ s = true) then inf else inf - 1)

/-- `round_to` of R212 with the tiny case of R214: what a number `x` of sign `s` gives, bits and flags. -/
def RoundTo (f : Fmt) (mode : RMode) (ftz s : Bool) (x : ℝ) (out : Nat × Flags) : Prop :=
  ∃ y, Rounded mode (precise f) (preciseEven f) x y ∧
    (if (2 - (2 : ℝ) ^ (-(f.frac : ℤ))) * 2 ^ f.bias < |y| then out = (overflowBits f mode s, flagOF ||| flagNX)
    else if y ≠ 0 ∧ |y| < (2 : ℝ) ^ (1 - (f.bias : ℤ)) then
      if ftz then out = (if s then 2 ^ (f.ebits + f.frac) else 0, flagUF ||| flagNX)
      else
        let u := (2 : ℝ) ^ (1 - (f.bias : ℤ) - f.frac)
        ∃ w, Rounded mode (multiple u) (multipleEven u) x w ∧ Is f s w out.1 ∧
          (w ≠ x → out.2 = flagUF ||| flagNX) ∧ (w = x → out.2 = 0)
    else Is f s y out.1 ∧ (y ≠ x → out.2 = flagNX) ∧ (y = x → out.2 = 0))

/-- The formats of R208. -/
def formats : List Fmt := [fmtF64, fmtF32, fmtF16, fmtBF16]

/-- The sign of a sum of numbers of signs `s` and `t` (R212). -/
noncomputable def sumSign (mode : RMode) (s t : Bool) (x : ℝ) : Bool :=
  if x = 0 then (if s = t then s else decide (mode = .rdn)) else decide (x < 0)

/-- R212, R213, R224, R229: the arithmetic of operands that stand for numbers is the exact result, rounded once. -/
def ExactlyRounded : Prop :=
  ∀ f ∈ formats, ∀ (mode : RMode) (ftz s t v : Bool) (m n p : Nat) (d e h : ℤ),
    m < 2 ^ (f.frac + 1) → n < 2 ^ (f.frac + 1) → p < 2 ^ (f.frac + 1) →
    let x := real s m d
    let y := real t n e
    let z := real v p h
    let a : FVal := .fin s m d
    let b : FVal := .fin t n e
    let c : FVal := .fin v p h
    RoundTo f mode ftz s x (f.round mode ftz s m false d) ∧
    RoundTo f mode ftz (sumSign mode s t (x + y)) (x + y) (f.add mode ftz a b) ∧
    RoundTo f mode ftz (s != t) (x * y) (f.mul mode ftz a b) ∧
    RoundTo f mode ftz (sumSign mode (s != t) v (x * y + z)) (x * y + z) (f.fma mode ftz a b c) ∧
    (n ≠ 0 → RoundTo f mode ftz (s != t) (x / y) (f.div mode ftz a b)) ∧
    (n = 0 → f.div mode ftz a b = if m = 0 then (f.nan, flagNV) else (f.inf (s != t), flagDZ)) ∧
    (m = 0 ∨ s = false → RoundTo f mode ftz s (Real.sqrt x) (f.sqrt mode ftz a)) ∧
    (m ≠ 0 → s = true → f.sqrt mode ftz a = (f.nan, flagNV)) ∧
    (∀ bits, f.value bits = a → ∃ w, Rounded mode (multiple 1) (multipleEven 1) x w ∧ Is f s w (f.integral mode ftz a).1 ∧
      (w ≠ x → (f.integral mode ftz a).2 = flagNX) ∧ (w = x → (f.integral mode ftz a).2 = 0)) ∧
    (∀ lo hi : ℤ, lo ≤ hi → ∃ w : ℤ, Rounded mode (multiple 1) (multipleEven 1) x w ∧
      toInteger lo hi mode a = (if w < lo then (lo, flagNV) else if hi < w then (hi, flagNV)
        else (w, if (w : ℝ) = x then 0 else flagNX)))

/-- The values of operands that are numbers (R208), as the arithmetic above takes them. -/
def OperandsAreNumbers : Prop :=
  ∀ f ∈ formats, ∀ (bits : Nat) (y : ℝ), bits < 2 ^ f.width → number f bits = some y →
    ∃ s m e, f.value bits = .fin s m e ∧ m < 2 ^ (f.frac + 1) ∧ y = real s m e ∧ Is f s y bits

/-- R217, R220: rne(m × 2^e / 2^k), and the value of an element of a block. -/
def BlockRounding : Prop :=
  (∀ (m : Nat) (e k : ℤ), Rounded .rne (multiple 1) (multipleEven 1) ((m : ℝ) * (2 : ℝ) ^ (e - k)) (rneScale m e k)) ∧
  (∀ b ∈ [bfmtTB8, bfmtTB6, bfmtTB4], ∀ ea eb q : Nat, ∀ sel s : Bool, ea < 256 → eb < 256 → q < 2 ^ (b.m + 1) →
    let ex := if sel then eb else ea
    b.value ea eb ((if sel then 2 ^ (b.m + 2) else 0) + (if s then 2 ^ (b.m + 1) else 0) + q) =
      if ex = 255 then .nan false else .fin s q ((ex : ℤ) - 127 - b.m))

/-- The exact value of a function of R230 for the operands it does not list. -/
def exactValue (fn : FloatFn) (a x : ℝ) : Prop :=
  match fn with
  | .frcp => a ≠ 0 ∧ x = 1 / a
  | .frsqrt => 0 < a ∧ x = 1 / Real.sqrt a
  | .fexp2 => a ≠ 0 ∧ x = (2 : ℝ) ^ a
  | .flog2 => 0 < a ∧ a ≠ 1 ∧ x = Real.logb 2 a
  | .fsinpi => (∀ n : ℤ, a ≠ n) ∧ x = Real.sin (Real.pi * a)
  | .fcospi => (∀ n : ℤ, a ≠ n) ∧ (∀ n : ℤ, a ≠ n + 1 / 2) ∧ x = Real.cos (Real.pi * a)

/-- One unit in the last place of `x` in a format. -/
def Ulp (f : Fmt) (x u : ℝ) : Prop :=
  ∃ k : ℤ, (2 : ℝ) ^ k ≤ |x| ∧ |x| < 2 ^ (k + 1) ∧ u = (2 : ℝ) ^ (max k (1 - (f.bias : ℤ)) - f.frac)

/-- The bound of R230 on the error of a function, given one unit in the last place of the exact value. -/
noncomputable def bound (wide : Bool) (fn : FloatFn) (a u : ℝ) : ℝ :=
  let absolute : ℝ := if wide then 2 ^ (-51 : ℤ) else 2 ^ (-22 : ℤ)
  match fn with
  | .frcp => u
  | .frsqrt => 2 * u
  | .fexp2 => 2 * u
  | .flog2 => if 1 / 2 ≤ a ∧ a ≤ 2 then absolute else 2 * u
  | .fsinpi => absolute
  | .fcospi => absolute

/-- A result under FTZ: a subnormal is a zero of its sign, with UF and NX (R214). -/
def flushed (f : Fmt) (out : Nat × Flags) : Nat × Flags :=
  if out.1 / 2 ^ f.frac % 2 ^ f.ebits = 0 ∧ out.1 % 2 ^ f.frac ≠ 0 then
    (if out.1 / 2 ^ (f.ebits + f.frac) = 1 then 2 ^ (f.ebits + f.frac) else 0, flagUF ||| flagNX)
  else out

/-- R230: whatever the device's own choice, a function of an operand that R230 does not list is within its bound of the exact
value, and its flags compare the two; beyond the largest finite value it overflows. For `frcp` and `frsqrt` the bound is that of
R230; the other four are computed to 2^-40 of it (DESIGN CHOICE, log entry 9). -/
def FunctionsWithinBound : Prop :=
  ∀ (wide : Bool) (fn : FloatFn) (z free : Nat) (a x u : ℝ),
    let f := if wide then fmtF64 else fmtF32
    let out := f.func false fn z free
    z < 2 ^ f.width → f.func true fn z free = flushed f (f.func false fn (f.flushIn true z) free) ∧
    (number f z = some a → exactValue fn a x → Ulp f x u →
      (if (2 - (2 : ℝ) ^ (-(f.frac : ℤ))) * 2 ^ f.bias < |x| then
        out = (f.inf (decide (x < 0)), flagOF ||| flagNX)
      else ∃ v s, Is f s v out.1 ∧
        |v - x| ≤ bound wide fn a u * (if fn = .frcp ∨ fn = .frsqrt then 1 else 1 + 2 ^ (-40 : ℤ)) ∧
        out.2 = if v = x then 0 else if out.1 / 2 ^ f.frac % 2 ^ f.ebits = 0 then flagUF ||| flagNX else flagNX))

/-! ### Control (R113, R132 to R141) -/

/-- A lane at the header at `a` (R132). -/
def atHeader (l : Lane) (m : Mode) (a : BitVec 48) : Lane := { l.setPasses m 0 0 with addr := a, came := .header }

/-- The units at some targets fetched in turn: the state after, where every one of them is a header (R132, R133). -/
def reach (s : State) (gid : Nat) (m : Mode) : List (BitVec 48) → Option State
  | [] => some s
  | t :: ts =>
    if t.toNat % 8 ≠ 0 then none
    else match s.fetch gid m t.toNat with
      | .ok (s, u) => if u % 4 = 3 then reach s gid m ts else none
      | .error _ => none

/-- The units at some targets, whatever they are, fetched in turn: the state after, and the units (R93, R396). -/
def fetched (s : State) (gid : Nat) (m : Mode) : List (BitVec 48) → Option (State × List Nat)
  | [] => some (s, [])
  | t :: ts => match s.fetch gid m (t.toNat / 4 * 4) with
    | .ok (s, u) => (fetched s gid m ts).map (fun r => (r.1, u :: r.2))
    | .error _ => none

/-- The header 8 × sext(B8) bytes from the block's own (R93, R132). -/
def target (iss : Issue) (b : Imm8) : BitVec 48 := BitVec.ofInt 48 (iss.header + b.toInt * 8)

/-- Where a guard-active lane branches, where it does; and whether D takes the return address (R132, R133). -/
def branch (s : State) (iss : Issue) (g : Group) (i : Instr) : Option (Bool × (Nat → Option (BitVec 48))) :=
  let e := g.activeLanes iss i
  let own (j : Nat) : BitVec 48 := BitVec.ofNat 48 ((s.slots g iss i).a.read64 g iss.mode j).toNat
  match i with
  | .bra b _ => some (false, fun _ => some (target iss b))
  | .brany a b _ => some (false, fun _ => if e.any (g.pGet a.toNat) then some (target iss b) else none)
  | .brall a b _ => some (false, fun _ => if e.all (g.pGet a.toNat) then some (target iss b) else none)
  | .jmp _ _ => some (false, fun j => some (own j))
  | .call _ b _ => some (true, fun _ => some (target iss b))
  | .callx _ _ _ => some (true, fun j => some (own j))
  | _ => none

/-- Slot A of `jmp` and `callx` accepts N64 and RAW (R133). -/
def okBranch (i : Instr) (sl : SlotName) : List Tag :=
  match i with
  | .jmp _ _ => if sl = .a then [.n64, .raw] else []
  | .callx _ _ _ => if sl = .a then [.n64, .raw] else []
  | _ => []

/-- A lane of the next loop pass, at its block's header (R138). -/
def nextPass (l : Lane) (iss : Issue) : Lane :=
  { l.setPasses iss.mode (BitVec.ofNat 16 (iss.loopPass + 1)) 0 with addr := BitVec.ofNat 48 iss.header, came := .back }

/-- Where a lane of the issue set stands after an instruction that only moves lanes: `nop` (R113), `yield` (R135), `loop`
(R138). -/
def moved (iss : Issue) (g : Group) (i : Instr) (j : Nat) : Option Lane :=
  let l := g.lane j
  let loop (n : Nat) : Lane := if iss.loopPass + 1 < n then nextPass l iss else l.pass iss
  match i with
  | .nop _ => some (l.pass iss)
  | .yield _ => some (if j ∈ g.activeLanes iss i then { l.pass iss with yielded := true } else l.pass iss)
  | .loop (.short n) => some (loop n.toNat)
  | .loop (.long n) => some (loop (n.toNat + 1))
  | .loopK b _ => some (loop (if (g.kGet b.toNat).toNat % 65536 = 0 then 65536 else (g.kGet b.toNat).toNat % 65536))
  | _ => none

/-- A ring word that R128 allows: DEPTH from 1 to 64 in [39:32], INDEX below it in [47:40], PHASE in [48], zeros above. -/
def ringOk (w : DWord) : Prop :=
  w.toNat < 2 ^ 49 ∧ 1 ≤ w.toNat / 2 ^ 32 % 256 ∧ w.toNat / 2 ^ 32 % 256 ≤ 64 ∧
    w.toNat / 2 ^ 40 % 256 < w.toNat / 2 ^ 32 % 256

/-- The ring word one stage on (R141). -/
def ringStep (w : DWord) : DWord :=
  let n := w.toNat / 2 ^ 40 % 256
  if n + 1 = w.toNat / 2 ^ 32 % 256 then (w - BitVec.ofNat 64 (n * 2 ^ 40)) ^^^ BitVec.ofNat 64 (2 ^ 48)
  else w + BitVec.ofNat 64 (2 ^ 40)

/-- The K register that an instruction writes from K and V registers alone, and its value (R141, R154); `kset` writes nothing
when no lane is guard-active. -/
def kWrite (s : State) (iss : Issue) (g : Group) (i : Instr) : Option (Nat × DWord) :=
  match i with
  | .kset d _ _ => (g.activeLanes iss i).head?.map (fun j => (d.toNat, (s.slots g iss i).a.read64 g iss.mode j))
  | .ringAdv d _ => some (d.toNat, ringStep (g.kGet d.toNat))
  | .ringCur d a _ =>
    let w := (g.kGet a.toNat).toNat
    some (d.toNat, BitVec.ofNat 64 ((w + w / 2 ^ 40 % 256) % 2 ^ 32 + 2 ^ 32 * (w / 2 ^ 48 % 2)))
  | _ => none

/-- The instruction writes a K register from K and V registers alone. -/
def writesK (i : Instr) : Prop :=
  match i with
  | .kset _ _ _ => True
  | .ringAdv _ _ => True
  | .ringCur _ _ _ => True
  | _ => False

/-- The ring word that an instruction reads (R141). -/
def ringWord (g : Group) (i : Instr) : Option DWord :=
  match i with
  | .ringAdv d _ => some (g.kGet d.toNat)
  | .ringCur _ a _ => some (g.kGet a.toNat)
  | _ => none

/-- A limit of `wait` holds: 15 places no condition (R137). -/
def within (l : BitVec 4) (n : Nat) : Prop := l = 15 ∨ n ≤ l.toNat

/-- The conditions of a `wait` (R137). -/
def waitMet (g : Group) (ur tx cp st ld : BitVec 4) : Prop :=
  within ur (g.count .ur) ∧ within tx (g.count .tx) ∧ within cp (g.count .cp) ∧ within st (g.count .st) ∧
    within ld (g.count .ld)

/-- The error that a `wait` delivers: of the first class in the order ST, CP, TX whose limit is 14 or below (R394). -/
def delivered (g : Group) (tx cp st : BitVec 4) : Option PendErr :=
  if st ≠ 15 ∧ g.pendST.isSome then g.pendST
  else if cp ≠ 15 ∧ g.pendCP.isSome then g.pendCP
  else if tx ≠ 15 then g.pendTX
  else none

/-- The free slots of the task ring of a launch, lowest first (R139): of TASKCAP slots, none where TASKRING is 0. -/
def freeSlots (l : Launch) : List Nat :=
  if fieldAt l.record 0x50 8 = 0 then []
  else (List.range (fieldAt l.record 0x58 4)).filter (fun n => (tblFind l.tasks n).isNone)

/-- The group with one more operation outstanding, of the next number (R125). -/
def withOp (g : Group) (c : Cls) (k : OpKind) (opc : Nat := 0) : Group :=
  { g with ops := g.ops ++ [{ id := g.nextOp, cls := c, kind := k, opc := opc }], nextOp := g.nextOp + 1 }

/-! ### Memory (R164 to R205) -/

/-- A load or store of a lane: bytes, whether it stores, tags of its slots, whether the tile of its T register blocks it, and
the generic address of each lane, none where the lane faults before any check (R185, R190). -/
structure Access where
  size : Nat
  store : Bool
  ok : SlotName → List Tag
  held : Bool
  addr : Nat → Option DWord

/-- The address of a byte of a tile (R165, R191). -/
def tileByte (h off : Nat) : DWord := BitVec.ofNat 64 ((0xD + h / 2 ^ 31) * 2 ^ 60 + h * 2 ^ 24 + off)

/-- A V register in slot B that holds an offset is N32 or I32 (R190, R191). -/
def okOffset (sl : SlotName) : List Tag := if sl = .b then [.n32, .i32] else []

/-- The loads and stores of R185 and R190. -/
def access (s : State) (iss : Issue) (g : Group) (i : Instr) : Option Access :=
  let o := s.slots g iss i
  let generic (size : Nat) (store : Bool) (b : Imm8) : Access :=
    { size := size, store := store, ok := okAddress, held := false
      addr := fun j => some (o.a.read64 g iss.mode j + b.signExtend 64 * BitVec.ofNat 64 size) }
  let tile (store : Bool) : Access :=
    let h := (g.tGet o.a.num).handle
    { size := 4, store := store, ok := okOffset
      held := match tblFind s.tiles h.toNat with
        | some t => decide (t.state ≠ .ready)
        | none => false
      addr := fun j =>
        let off := (o.b.read32 g iss.mode j).toNat
        if h = 0xFFFFFFFF ∨ 2 ^ 24 ≤ off then none else some (tileByte h.toNat off) }
  match i with
  | .ldGI8 _ _ b _ => some (generic 1 false b)
  | .ldGN8 _ _ b _ => some (generic 1 false b)
  | .ldGI16 _ _ b _ => some (generic 2 false b)
  | .ldGN16 _ _ b _ => some (generic 2 false b)
  | .ldG32 _ _ b _ => some (generic 4 false b)
  | .ldG64 _ _ b _ => some (generic 8 false b)
  | .stG8 _ _ b _ => some (generic 1 true b)
  | .stG16 _ _ b _ => some (generic 2 true b)
  | .stG32 _ _ b _ => some (generic 4 true b)
  | .stG64 _ _ b _ => some (generic 8 true b)
  | .ldT32 _ _ _ _ => some (tile false)
  | .stT32 _ _ _ _ => some (tile true)
  | _ => none

/-- How a load extends what it loads, and its natural tag (R186, R190). -/
def loaded (s : State) (iss : Issue) (g : Group) (i : Instr) : Extend × Tag :=
  let named (natural : Tag) (x : ExtSF) : Tag :=
    match x with
    | .short => natural
    | .long _ f _ => if f = 0 then natural else Tag.ofCode f.toNat
  match i with
  | .ldGI8 _ _ _ _ => (.s8, .i32)
  | .ldGN8 _ _ _ _ => (.z8, .n32)
  | .ldGI16 _ _ _ _ => (.s16, .i32)
  | .ldGN16 _ _ _ _ => (.z16, .n32)
  | .ldG32 _ _ _ x => (.w32, named .i32 x)
  | .ldG64 _ _ _ x => (.w64, named .i64 x)
  | _ =>
    let t := (g.tGet (s.slots g iss i).a.num).tag
    (.w32, if t ∈ [Tag.i32, .n32, .f32, .bf16x2, .f16x2, .tb8, .tb6, .tb4, .i8x4, .n8x4] then t else .i32)

/-- The scope at which a store retires: its SCOPE, CORE where that is 0, 1 or 2, and where it has none (R187). -/
def storeScope (i : Instr) : Nat :=
  let of (x : ExtS) : Nat :=
    match x with
    | .short => 2
    | .long sc _ => max sc.toNat 2
  match i with
  | .stG8 _ _ _ x => of x
  | .stG16 _ _ _ x => of x
  | .stG32 _ _ _ x => of x
  | .stG64 _ _ _ x => of x
  | _ => 2

/-- The group as the lowest guard-active lane of an issue finds it (R71, R76). -/
def seenBy (iss : Issue) (g : Group) (i : Instr) : Group := g.asLane ((g.activeLanes iss i).headD 0)

/-- An access of every guard-active lane passes its checks (R166): no tile blocks it, and the checks leave `s1` and give the
places in `oks`. -/
structure Passes (s s1 : State) (iss : Issue) (g : Group) (i : Instr) (acc : Access) (oks : List (Nat × Loc × DWord)) : Prop where
  lanes : g.activeLanes iss i ≠ []
  addrs : ∀ j ∈ g.activeLanes iss i, (acc.addr j).isSome = true
  held : acc.held = false
  tiles : ∀ j ∈ g.activeLanes iss i, s.addrBusy iss.gid (seenBy iss g i) j ((acc.addr j).getD 0) = false
  checks : s.accessLanes (s.plainCtx iss g i) (seenBy iss g i) acc.size acc.size
    (if acc.store then { w := true } else { r := true })
    ((g.activeLanes iss i).map (fun j => (j, (acc.addr j).getD 0))) = (s1, [], oks)

/-- What memory held at the issue of a load, where the poison trap is enabled (R166; DEDUCED, log entry 22). -/
def atIssue (s : State) (gid : Nat) (g : Group) (l : Loc) (n : Nat) : Option (DWord × List Nat) :=
  match l with
  | .sys _ => if g.trapen.getLsbD 0 then some (BitVec.ofNat 64 (leNat (s.readBytes (g.agent gid) l n).1), (s.readBytes (g.agent gid) l n).2)
    else none
  | _ => none

/-- The group with an operation of a class that does nothing and has ended: it is counted until older ones of the class have retired
(R125). -/
def withEmpty (g : Group) (c : Cls) : Group :=
  { g with
      ops := if ∀ o ∈ g.ops, o.cls ≠ c then g.ops
        else g.ops ++ [{ id := g.nextOp, cls := c, kind := .empty, ended := true }]
      nextOp := g.nextOp + 1 }

/-- The bytes that lane `j` stores (R185). -/
def stored (s : State) (iss : Issue) (g : Group) (i : Instr) (j k : Nat) : Byte :=
  BitVec.ofNat 8 (((s.slots g iss i).d.read64 g iss.mode j).toNat / 256 ^ k)

/-- The value that a load gives a register from what it has read (R186). -/
def extended (e : Extend) (x : DWord) : DWord :=
  match e with
  | .s8 => ((x.setWidth 8).signExtend 32).setWidth 64
  | .s16 => ((x.setWidth 16).signExtend 32).setWidth 64
  | _ => x

/-- The apertures of R164 by test number of `aptest` (R192). -/
def wellFormed (k : Nat) (a : DWord) : Bool :=
  let n := a.toNat
  let global := decide (n < 2 ^ 48)
  let lcl := decide (n / 2 ^ 16 = 0xC * 2 ^ 44)
  let tile := decide (n / 2 ^ 56 = 0xD0)
  let ctile := decide (n / 2 ^ 56 = 0xE0)
  match k with
  | 0 => global
  | 1 => lcl
  | 2 => tile
  | 3 => ctile
  | 4 => global || lcl || tile || ctile
  | _ => false

/-- `apconv.t`, `apconv.l` (R191), `aptest` (R192) and `wpos` on a pattern that is set (R205). -/
def apertureRow (rd : Reads) (s : State) (iss : Issue) (g : Group) (i : Instr) : Option Row :=
  let o := s.slots g iss i
  let off (j : Nat) : Nat := (rd.word .b j).toNat
  match i with
  | .apconvT _ _ _ _ =>
    let h := (g.tGet o.a.num).handle
    some
      { ok := fun _ _ _ => okOffset, tag := some .n64
        val := fun j => if h = 0xFFFFFFFF ∨ 2 ^ 24 ≤ off j then 0xF000000000000000 else tileByte h.toNat (off j) }
  | .apconvL _ _ _ => some
      { ok := fun _ _ _ => okOffset, tag := some .n64
        val := fun j => if 2 ^ 16 ≤ off j then 0xF000000000000000 else 0xC000000000000000 + BitVec.ofNat 64 (off j) }
  | .aptest _ _ k _ => some
      { ok := fun _ _ _ => okAddress, val := fun j => pred (wellFormed k.toNat (rd .a j)) }
  | .wpos _ a _ =>
    if (tblFind g.w a.toNat).isNone then none
    else some { tag := some .n32, val := fun j => (tblGet (g.lane j).use 0 a.toNat).setWidth 64 }
  | _ => none

/-- A pattern whose fields `wset` accepts (R202): a well-formed base outside LOCAL, positive counts, and a tag. -/
def patternOk (w0 w1 w2 : DWord) : Prop :=
  (wellFormed 0 w0 ∨ wellFormed 2 w0 ∨ wellFormed 3 w0) ∧
  w1.extractLsb' 0 32 ≠ 0 ∧ w1.extractLsb' 32 32 ≠ 0 ∧ w2.extractLsb' 0 28 ≠ 0 ∧ (w2.extractLsb' 28 4).toNat < 14

/-- Its base and its strides are multiples of 4 (R202). -/
def patternAligned (w0 w2 w3 : DWord) : Prop :=
  w0.toNat % 4 = 0 ∧ (w2.extractLsb' 32 32).toNat % 4 = 0 ∧ (w3.extractLsb' 0 32).toNat % 4 = 0 ∧
  (w3.extractLsb' 32 32).toNat % 4 = 0

/-- The group with W[n] set to a pattern, or cleared, and its use count of every lane back at 0 (R202, R205). -/
def withPattern (g : Group) (n : Nat) (p : Option Pattern) : Group :=
  { g with
      w := match p with
        | some p => tblSet g.w n p
        | none => tblErase g.w n
      lanes := g.lanes.map (fun q => (q.1, { q.2 with use := tblErase q.2.use n })) }

/-- A shape word that `talloc` accepts at a level of a launch (R193). -/
def shapeOk (g : Group) (l : Launch) (k : Nat) (w : DWord) : Prop :=
  let rows := (w.extractLsb' 40 16).toNat
  let row := (w.extractLsb' 24 16).toNat
  (w.extractLsb' 60 4).toNat < 14 ∧ w.extractLsb' 56 4 = 0 ∧ w.extractLsb' 0 24 = 0 ∧ rows ≠ 0 ∧ row ≠ 0 ∧
    k ≠ 0 ∧ k < l.nlevel ∧ l.tile k = true ∧ l.domain k ≤ 2 ∧ rows * row ≤ storeBytes (storeOf g l k)

/-! ### Streams (R202 to R204) -/

/-- The rows of R145 that compute exactly at width 32. -/
def exactRow (rd : Reads) (s : State) (iss : Issue) (g : Group) (i : Instr) : Option Row :=
  let t := type32 (s.tagOf g iss i .a)
  match exact32 i true 0 0 0 with
  | none => none
  | some _ => some
      { ok := ok32, tag := some t
        val := fun j => bits32 iss t ((exact32 i (decide (t = .i32)) (rd.word .a j) (rd.word .b j) (rd.word .c j)).getD 0) }

/-- `fclass`, the one form of its class that a stream may feed. -/
def classRow (rd : Reads) (s : State) (iss : Issue) (g : Group) (i : Instr) : Option Row :=
  match i with
  | .fclass _ _ _ => blockFormRow rd s iss g i
  | _ => none

/-- A row that raises no flag. -/
def Row.quiet (r : Row) : RowF := { ok := r.ok, val := fun j => (r.val j, 0), tag := r.tag }

/-- The rows of the instructions that accept STREAM: of integers (R145 to R151), moves and selections (R114, R149), and of
floating point (R223 to R235). -/
def streamRow (rd : Reads) (s : State) (iss : Issue) (g : Group) (i : Instr) : Option RowF :=
  let quiet (row : Reads → State → Issue → Group → Instr → Option Row) : Option RowF := (row rd s iss g i).map Row.quiet
  (quiet exactRow).or <| (quiet bitRow).or <| (quiet divRow).or <| (quiet widthRow).or <| (quiet compareRow).or <|
    (quiet moveRow).or <| (quiet classRow).or <| (floatRow rd s iss g i).or <| (fcmpRow rd s iss g i).or <|
    convertRow rd s iss g i

/-- The element address of R203. -/
def elementAddr (w : Pattern) (e : Nat) : Option DWord :=
  let c0 := (w.w1.extractLsb' 0 32).toNat
  let c1 := (w.w1.extractLsb' 32 32).toNat
  let c2 := (w.w2.extractLsb' 0 28).toNat
  if c0 * c1 * c2 ≤ e then none
  else some (w.w0 + BitVec.ofNat 64 (e % c0) * (w.w2.extractLsb' 32 32).signExtend 64 +
    BitVec.ofNat 64 (e / c0 % c1) * (w.w3.extractLsb' 0 32).signExtend 64 +
    BitVec.ofNat 64 (e / (c0 * c1)) * (w.w3.extractLsb' 32 32).signExtend 64)

/-- The streams of an issue, checked for its guard-active lanes in turn (R204). -/
def boundStreams (s : State) (iss : Issue) (g : Group) (i : Instr) : Streams :=
  iss.pfx.streams.foldl (fun x b => x.bind iss g (g.activeLanes iss i) b) { s := s }

/-- The place of a lane's element of the stream bound to a slot. -/
def elementOf (st : Streams) (sl : SlotName) (j : Nat) : Option Loc :=
  (st.elems.find? (fun x => decide (x.1 = sl))).bind (fun x => (x.2.2.find? (fun y => decide (y.1 = j))).map (·.2.1))

/-- What an instruction reads whose source slots may have streams: a lane's element, as its group sees it, or the register. -/
def streamed (s : State) (iss : Issue) (g : Group) (i : Instr) (st : Streams) : Reads :=
  fun sl j => match (if sl = .d then none else elementOf st sl j) with
    | some l => BitVec.ofNat 64 (leNat (s.readBytes (g.agent iss.gid) l 4).1)
    | none => registers s iss g i sl j

/-- A lane's use count of W[w] higher by the number of slots bound to it, saturating (R204). -/
def usedMore (l : Lane) (ss : List (WReg × SlotName)) (w : Nat) : BitVec 32 :=
  BitVec.ofNat 32 (min ((tblGet l.use 0 w).toNat + ss.countP (fun p => decide (p.1.toNat = w))) 0xFFFFFFFF)

/-- No error is marked on the line of memory that holds a place (R182). -/
def clean (s : State) (l : Loc) : Prop :=
  ∀ n, s.memLine l = some n → n ∉ s.softNext ∧ n ∉ s.hardNext ∧ s.linePoisoned n = false

end Sys2Proof.Spec

open Sys2Proof Sys2Proof.Machine

/-- R144, R145: the arithmetic rows of width 32 write their exact result, clamped under SAT, modulo 2^32. -/
def Obligations.IntegerArithmetic32 : Prop :=
  ∀ (s : State) (iss : Issue) (g : Group) (i : Instr), (∃ x, Spec.exact32 i true 0 0 0 = some x) →
    Free s iss g i .user Spec.ok32 none →
    let o := s.slots g iss i
    let t := Spec.type32 (s.tagOf g iss i .a)
    Computes s iss g i (fun j => ((BitVec.ofInt 32 (Spec.clamp32 iss.pfx.sat (Spec.signed32 t (iss.pfx.formatted .d))
      ((Spec.exact32 i (decide (t = .i32)) (o.a.read32 g iss.mode j) (o.b.read32 g iss.mode j)
        (o.c.read32 g iss.mode j)).getD 0))).setWidth 64)) (some t)

/-- R145, R147: the rows of width 32 that work on bits. -/
def Obligations.IntegerBits32 : Prop := Spec.Completes Spec.bitRow

/-- R146: division. -/
def Obligations.IntegerDivision : Prop := Spec.Completes Spec.divRow

/-- R144, R145: the arithmetic rows of width 64. -/
def Obligations.IntegerArithmetic64 : Prop := Spec.Completes Spec.row64

/-- R148, R150, R151: addresses and widths, and comparisons. -/
def Obligations.AddressesWidthsAndComparisons : Prop := Spec.Completes Spec.widthRow ∧ Spec.Completes Spec.compareRow

/-- R114, R149: moves and selection. -/
def Sys2Proof.Spec.MovesAndSelection : Prop := Spec.Completes Spec.moveRow

/-- R142, R143: predicate operations and the state word. -/
def Sys2Proof.Spec.PredicateOperations : Prop := Spec.Completes Spec.predicateRow

/-- R155, R156: the lane reads. -/
def Sys2Proof.Spec.LaneReads : Prop := Spec.Completes Spec.laneReadRow

/-- R155, R156, R158: votes, masks and compaction. -/
def Sys2Proof.Spec.VotesAndCompaction : Prop := Spec.Completes Spec.voteRow

/-- R156, R157: folds and scans. -/
def Sys2Proof.Spec.FoldsAndScans : Prop := Spec.Completes Spec.foldRow

/-- R159, R160: random streams. -/
def Obligations.RandomStreams : Prop := Spec.Completes Spec.rngRow

/-- R222 to R226, R229: the elementwise arithmetic of every float format; and, of the functions that it is stated with, R208, R211 to
R214: each is the exact result over the reals, rounded once, with the flags that follow. -/
def Obligations.FloatArithmetic : Prop := Spec.CompletesF Spec.floatRow ∧ Spec.OperandsAreNumbers ∧ Spec.ExactlyRounded

/-- R230: the functions over the reals. -/
def Obligations.FunctionBounds : Prop := Spec.FunctionsWithinBound

/-- R227, R230: comparisons and functions; which of the values within the bound of R230 a function returns is the device's own
(DESIGN CHOICE, log entry 9: a free value), and FunctionBounds states the bound. -/
def Obligations.FloatCompareAndFunctions : Prop := Spec.CompletesF Spec.fcmpRow

/-- R232 to R235: conversions. -/
def Sys2Proof.Spec.FloatConversions : Prop := Spec.CompletesF Spec.convertRow

/-- R220, R236: encoding of a block. -/
def Sys2Proof.Spec.BlockEncoding : Prop := Spec.CompletesF Spec.blockRow

/-- R228, R237, R238: classification, packing and unpacking. -/
def Obligations.ClassesAndBlockForms : Prop := Spec.Completes Spec.blockFormRow

/-- R113, R135, R138: `nop`, `yield` and `loop` move the lanes of their issue set and change nothing else. -/
def Obligations.LaneMoves : Prop :=
  ∀ (s : State) (iss : Issue) (g : Group) (i : Instr), (∀ j, (Spec.moved iss g i j).isSome = true) →
    Free s iss g i .user (fun _ _ _ _ => []) none →
    EndsIn s iss i s g (fun j => (Spec.moved iss g i j).getD (g.lane j))

/-- R132, R133: branches to headers; the units at the targets are fetched, and the return address of a call goes to D. -/
def Sys2Proof.Spec.Branches : Prop :=
  ∀ (s s1 : State) (iss : Issue) (g g1 : Group) (i : Instr) (link : Bool) (dest : Nat → Option (BitVec 48)),
    Spec.branch s iss g i = some (link, dest) →
    Free s iss g i .user (fun _ _ _ => Spec.okBranch i) none →
    Spec.reach s iss.gid iss.mode ((g.activeLanes iss i).filterMap dest) = some s1 → s1.group iss.gid = some g1 →
    let e (j : Nat) : Lane := if j ∈ g.activeLanes iss i then
      match dest j with
        | some t => Spec.atHeader (g.lane j) iss.mode t
        | none => (g.lane j).pass iss
      else (g.lane j).pass iss
    if link then EndsWith s iss i s1 g1 e (g.activeLanes iss i) (fun _ => BitVec.ofNat 64 iss.following) .n64
    else EndsIn s iss i s1 g1 e

/-- R132, R133, R396: a branch whose target can be fetched and is no header (its address no multiple of 8, or its unit no header)
traps BAD_TARGET in every lane that would take it, with the target in xval, and links nothing. -/
def Sys2Proof.Spec.BadTargets : Prop :=
  ∀ (s s1 : State) (iss : Issue) (g g1 : Group) (i : Instr) (link : Bool) (dest : Nat → Option (BitVec 48)) (us : List Nat),
    Spec.branch s iss g i = some (link, dest) →
    Free s iss g i .user (fun _ _ _ => Spec.okBranch i) none → (trapMode g iss.mode).isSome = true →
    let ts := (g.activeLanes iss i).filterMap dest
    Spec.fetched s iss.gid iss.mode ts = some (s1, us) → s1.group iss.gid = some g1 →
    (∀ (n : Nat) (t : BitVec 48) (u : Nat), ts[n]? = some t → us[n]? = some u → t.toNat % 8 ≠ 0 ∨ u % 4 ≠ 3) →
    ∃ s' g', exec i s = .next s' ∧ s'.group iss.gid = some g' ∧ SameButD s g1 g' iss i [] ∧ SameOutside s1 s' iss.gid ∧
      ∀ j, g'.lane j = g1.endsAs iss j (match (if j ∈ g.activeLanes iss i then dest j else none) with
        | some t => (LaneEnd.trap 0x03 (t.setWidth 64)).move g1 iss (g1.lane j)
        | none => (g1.lane j).pass iss)

/-- R141, R154: `kset`, `ring.adv` and `ring.cur` write one K register. -/
def Sys2Proof.Spec.GroupRegisters : Prop :=
  ∀ (s : State) (iss : Issue) (g : Group) (i : Instr), Spec.writesK i →
    Free s iss g i .user (fun _ _ _ _ => []) none → (∀ w, Spec.ringWord g i = some w → Spec.ringOk w) →
    EndsIn s iss i s (match Spec.kWrite s iss g i with
      | some (n, x) => g.kPut n x
      | none => g) (fun j => (g.lane j).pass iss)

/-- R128, R141: a ring word that R128 forbids traps BARRIER in every guard-active lane, with the word in xval. -/
def Sys2Proof.Spec.RingWordTraps : Prop :=
  ∀ (s : State) (iss : Issue) (g : Group) (i : Instr) (w : DWord), Spec.ringWord g i = some w → ¬ Spec.ringOk w →
    Free s iss g i .user (fun _ _ _ _ => []) none → (trapMode g iss.mode).isSome = true →
    EndsIn s iss i s g (fun j => if j ∈ g.activeLanes iss i then (LaneEnd.trap 0x11 w).move g iss (g.lane j)
      else (g.lane j).pass iss)

/-- R137, R307, R394: a `wait` is blocked while a condition fails; it delivers a pending error to every lane of its issue set;
and else it completes, merging the remote-flags word where its UR limit is 0. -/
def Obligations.Wait : Prop :=
  ∀ (s : State) (iss : Issue) (g : Group) (ur tx cp st ld : BitVec 4) (x : Bool),
    Free s iss g (.wait ur tx cp st ld x) .user (fun _ _ _ _ => []) none →
    (¬ Spec.waitMet g ur tx cp st ld → exec (.wait ur tx cp st ld x) s = .next { s with issue := none }) ∧
    (Spec.waitMet g ur tx cp st ld → Spec.delivered g tx cp st = none →
      (ur = 0 → fpTraps (s.trapFlags g) g.remote = false) →
      EndsIn s iss (.wait ur tx cp st ld x) s (if ur = 0 then { g with remote := 0 } else g)
        (fun j => ((if ur = 0 then (g.lane j).raise g.remote else g.lane j).pass iss))) ∧
    (Spec.waitMet g ur tx cp st ld → (trapMode g iss.mode).isSome = true → ∀ e, Spec.delivered g tx cp st = some e →
      ∃ s' g', exec (.wait ur tx cp st ld x) s = .next s' ∧ s'.group iss.gid = some g' ∧ g'.remote = g.remote ∧
        ∀ j ∈ iss.lanes, g'.lane j = g.endsAs iss j ((LaneEnd.trap e.cause e.xval).move g iss (g.lane j)))

/-- R136, R286: `trigger` is counted in ST, with the writes that it waits for. -/
def Sys2Proof.Spec.Trigger : Prop :=
  ∀ (s : State) (iss : Issue) (g : Group) (x : Ext), Free s iss g (.trigger x) .user (fun _ _ _ _ => []) (some .st) →
    EndsIn s iss (.trigger x) s (Spec.withOp g .st (.trigger (g.activeLanes iss (.trigger x))
      ((g.activeLanes iss (.trigger x)).flatMap (fun j => s.laneOwn iss.gid j) ++ g.fwaited)))
      (fun j => (g.lane j).pass iss)

/-- R139, R140: `tres` reserves the lowest free task slot of its launch for each lane, lowest lane first, and gives its address; a
lane that finds none, as in a full ring or a launch without one, gets 0; every other slot of the ring stays as it is. `spawn` hands over slots that
its lanes hold, and the spawn-tree counter rises by their number. -/
def Sys2Proof.Spec.TaskSlots : Prop :=
  ∀ (s : State) (iss : Issue) (g : Group) (l : Launch), s.launch g.launch = some l →
    (∀ (d : DReg) (x : Ext), Free s iss g (.tres d x) .user (fun _ _ _ _ => []) none →
      l.tasks.Pairwise (fun p q => p.1 < q.1) →
      let e := g.activeLanes iss (.tres d x)
      let taken := e.zip (Spec.freeSlots l)
      EndsWith s iss (.tres d x) (s.modLaunch g.launch (fun l =>
          { l with tasks := taken.foldl (fun t p => tblSet t p.2 (.reserved iss.gid p.1)) l.tasks })) g (fun j => (g.lane j).pass iss) e
        (fun j => match taken.find? (fun p => decide (p.1 = j)) with
          | some p => BitVec.ofNat 64 (fieldAt l.record 0x50 8 + 64 * p.2)
          | none => 0) .n64) ∧
    (∀ (a : DReg) (x : Ext) (slot : Nat → Nat), Free s iss g (.spawn a x) .user (fun _ _ _ => Spec.okAddress) (some .st) →
      let e := g.activeLanes iss (.spawn a x)
      let addr (j : Nat) : Nat := (g.dGet iss.mode ((s.slots g iss (.spawn a x)).a.num) j).toNat % 2 ^ 48
      e ≠ [] → (∀ j ∈ e, l.ownSlot iss.gid j (addr j) = some (slot j)) → l.counter + e.length ≤ 0xFFFFFFFF →
      EndsIn s iss (.spawn a x) (s.modLaunch g.launch (fun l => { l with
          tasks := e.foldl (fun t j => tblSet t (slot j) .spawned) l.tasks, counter := l.counter + e.length }))
        (Spec.withOp g .st (.spawn (e.map (fun j => BitVec.ofNat 64 (addr j))) (e.flatMap (fun j => s.laneOwn iss.gid j))))
        (fun j => (g.lane j).pass iss))

/-- R125, R185 to R187, R190: a load whose lanes pass their checks is counted in LD with the place of each lane, and D takes its tag
at issue; so does one with no guard-active lane, which reads nothing. -/
def Obligations.Loads : Prop :=
  (∀ (s : State) (iss : Issue) (g : Group) (i : Instr) (acc : Spec.Access),
    Spec.access s iss g i = some acc → acc.store = false → Free s iss g i .user (fun _ _ _ => acc.ok) (some .ld) →
    g.activeLanes iss i = [] → acc.held = false →
    EndsIn s iss i s ((s.slots g iss i).d.retag (Spec.withEmpty g .ld) iss.mode
      ((iss.pfx.formatted .d).getD (Spec.loaded s iss g i).2)) (fun j => (g.lane j).pass iss)) ∧
  ∀ (s s1 : State) (iss : Issue) (g g1 : Group) (i : Instr) (acc : Spec.Access) (oks : List (Nat × Loc × DWord)),
    Spec.access s iss g i = some acc → acc.store = false → Free s iss g i .user (fun _ _ _ => acc.ok) (some .ld) →
    Spec.Passes s s1 iss g i acc oks → s1.group iss.gid = some g1 →
    let o := s.slots g iss i
    let r := Spec.loaded s iss g i
    EndsIn s iss i s1 (Spec.withOp (o.d.retag g1 iss.mode ((iss.pfx.formatted .d).getD r.2)) .ld
      (.load o.d.num (decide (r.1 = .w64)) r.1 (oks.map (fun p =>
        { lane := p.1, mode := iss.mode, loc := p.2.1, read := false, val := 0,
          early := Spec.atIssue s1 iss.gid g p.2.1 r.1.size })))) (fun j => (g1.lane j).pass iss)

/-- R125, R185, R187, R190: a store with no guard-active lane is counted in ST and writes nothing; one whose lanes pass their checks enters the store queue of its group and is counted in ST; the group
then reads the stored bytes, the byte of the highest lane where several store to one place, and every other byte as before;
every other agent reads every byte as before. -/
def Obligations.Stores : Prop :=
  (∀ (s : State) (iss : Issue) (g : Group) (i : Instr) (acc : Spec.Access),
    Spec.access s iss g i = some acc → acc.store = true → Free s iss g i .user (fun _ _ _ => acc.ok) (some .st) →
    g.activeLanes iss i = [] → acc.held = false →
    EndsIn s iss i s (Spec.withEmpty g .st) (fun j => (g.lane j).pass iss)) ∧
  ∀ (s s1 s2 : State) (iss : Issue) (g g2 : Group) (i : Instr) (acc : Spec.Access) (oks : List (Nat × Loc × DWord))
    (ids : List Nat),
    Spec.access s iss g i = some acc → acc.store = true → Free s iss g i .user (fun _ _ _ => acc.ok) (some .st) →
    Spec.Passes s s1 iss g i acc oks →
    s1.storeLanes iss.gid (Spec.seenBy iss g i)
      (oks.map (fun p => (p.1, p.2.1, (List.range acc.size).map (Spec.stored s iss g i p.1)))) = (s2, ids) →
    s2.group iss.gid = some g2 →
    EndsIn s iss i s2 (Spec.withOp g2 .st (.store ids (scopeLevel (Spec.storeScope i)))) (fun j => (g2.lane j).pass iss) ∧
    ∃ s', exec i s = .next s' ∧
      (∀ (a : Agent) (l : Loc), a.gid ≠ some iss.gid ∨ (∀ p ∈ oks, ∀ k < acc.size, p.2.1.add k ≠ l) →
        (s'.readByte a l).1 = (s.readByte a l).1) ∧
      (∀ (n k : Nat) (p : Nat × Loc × DWord), oks[n]? = some p → k < acc.size →
        (∀ (m k' : Nat) (q : Nat × Loc × DWord), n < m → oks[m]? = some q → k' < acc.size → q.2.1.add k' ≠ p.2.1.add k) →
        (s'.readByte (g.agent iss.gid) (p.2.1.add k)).1 = Spec.stored s iss g i p.1 k)

/-- R191, R192, R205: apertures, and the use count of a set pattern. -/
def Obligations.Apertures : Prop := Spec.Completes Spec.apertureRow

/-- R62, R187, R281: LOAD_READ reads the next lane of the oldest unread load of a group, past what the group stored with later
operations, unless the memory budget of its leaf stalls it; no register changes. -/
def Sys2Proof.Spec.LoadRead : Prop :=
  ∀ (s : State) (gid : Nat) (g : Group) (o : Op) (l : Loc) (n : Nat), s.awake gid = some g →
    g.firstOp Op.unreadLoad = some o → o.kind.nextRead = some (l, n) →
    Spec.clean s l → s.memoryStalls g.leaf l = false → s.stalledBefore g.leaf o.stall = false →
    ∃ s' g', exec (.loadRead gid) s = .next s' ∧ s'.group gid = some g' ∧
      g'.ops = g.ops.map (fun p => if p.id = o.id then
        { p with
            kind := o.kind.fill (BitVec.ofNat 64 (leNat (s.readBytes ⟨some gid, some g.core, some o.id⟩ l n).1))
            stall := none } else p) ∧
      g'.v = g.v ∧ g'.vtag = g.vtag ∧ g'.k = g.k ∧ g'.p = g.p ∧ g'.lanes = g.lanes ∧
      (∀ a x, s'.readByte a x = s.readByte a x)

/-- R186, R187, R189: LOAD_RETIRE writes the destination of the oldest load of a group, once read, in the lanes that loaded,
and every other register and byte of memory stays. -/
def Sys2Proof.Spec.LoadRetire : Prop :=
  ∀ (s : State) (gid : Nat) (g : Group) (o : Op), s.awake gid = some g →
    g.firstOp (fun p => decide (p.cls = .ld)) = some o → o.readLoad = true →
    ∃ s' g', exec (.loadRetire gid) s = .next s' ∧ s'.group gid = some g' ∧ (∀ p ∈ g'.ops, p.id = o.id → p.ended = true) ∧
      g'.vtag = g.vtag ∧ g'.p = g.p ∧ g'.lanes = g.lanes ∧ (∀ a x, s'.readByte a x = s.readByte a x) ∧
      (∀ kd l, o.kind = .ldk kd l → g'.v = g.v ∧ ∀ n, g'.kGet n = if n = kd then l.val else g.kGet n) ∧
      (∀ d e ls, o.kind = .load d false e ls → d < 128 → (ls.map (·.lane)).Nodup → (∀ l ∈ ls, l.lane < 32) →
        g'.k = g.k ∧ (∀ l ∈ ls, g'.vGet l.mode d l.lane = BitVec.ofNat 32 (Spec.extended e l.val).toNat) ∧
        (∀ m r j, r < 128 → j < 32 → (r ≠ d ∨ j ∉ ls.map (·.lane)) → g'.vGet m r j = g.vGet m r j)) ∧
      (∀ d e ls, o.kind = .load d true e ls → d + 1 < 128 → (ls.map (·.lane)).Nodup → (∀ l ∈ ls, l.lane < 32) →
        g'.k = g.k ∧ (∀ l ∈ ls, g'.dGet l.mode d l.lane = Spec.extended e l.val) ∧
        (∀ m r j, r < 128 → j < 32 → (r ≠ d ∧ r ≠ d + 1 ∨ j ∉ ls.map (·.lane)) → g'.vGet m r j = g.vGet m r j))

/-- R187, R286: STORE_RETIRE and TRIGGER_RETIRE retire the oldest store, or trigger, of a group whose writes have performed at
its scope (PACKAGE for a trigger, whose lanes have then triggered once it is the oldest of its class, R125); with none, nothing
changes. -/
def Sys2Proof.Spec.StoreAndTriggerRetire : Prop :=
  ∀ (s : State) (gid : Nat) (g : Group), s.awake gid = some g →
    let store (o : Op) : Bool := match o.kind with
      | .store ws lvl => ws.all (fun w => s.performed w lvl)
      | _ => false
    let trig (o : Op) : Bool := match o.kind with
      | .trigger _ ws => ws.all (fun w => s.performed w 4)
      | _ => false
    (g.firstOp store = none → exec (.storeRetire gid) s = .next s) ∧
    (g.firstOp trig = none → exec (.triggerRetire gid) s = .next s) ∧
    (∀ o, g.firstOp store = some o → ∃ s' g', exec (.storeRetire gid) s = .next s' ∧ s'.group gid = some g' ∧
      (∀ p ∈ g'.ops, p.id = o.id → p.ended = true) ∧ g'.v = g.v ∧ g'.k = g.k ∧ g'.p = g.p ∧ g'.lanes = g.lanes ∧
      (∀ a x, s'.readByte a x = s.readByte a x)) ∧
    (∀ o, g.firstOp trig = some o → (∃ p ∈ g.ops, p.cls = o.cls ∧ p.id < o.id) → exec (.triggerRetire gid) s = .next s) ∧
    (∀ o ls ws, g.firstOp trig = some o → (∀ p ∈ g.ops, p.cls = o.cls → o.id ≤ p.id) → o.kind = .trigger ls ws → ls.Nodup →
      ∃ s' g', exec (.triggerRetire gid) s = .next s' ∧ s'.group gid = some g' ∧
      (∀ p ∈ g'.ops, p.id = o.id → p.ended = true) ∧ g'.v = g.v ∧ g'.k = g.k ∧ g'.p = g.p ∧
      (∀ j, g'.lane j = if j ∈ ls then { g.lane j with triggered := true } else g.lane j) ∧
      (∀ a x, s'.readByte a x = s.readByte a x))

/-- R193 to R195: `talloc` of a key that has a tile gives its handle; of a new key it waits in its store's queue, with T[d]
pending; a shape word that R193 forbids traps TILE_STATE. `trel` gives up the register and nothing else. -/
def Sys2Proof.Spec.TileRegisters : Prop :=
  ∀ (s : State) (iss : Issue) (g : Group) (d : TReg),
    (∀ (x : Ext), Free s iss g (.trel d x) .user (fun _ _ _ _ => []) none →
      s.tBusy g (s.slots g iss (.trel d x)).d.num = false →
      EndsIn s iss (.trel d x) s (if g.activeLanes iss (.trel d x) = [] then g
        else g.tPut (s.slots g iss (.trel d x)).d.num {}) (fun j => (g.lane j).pass iss)) ∧
    (∀ (a : KReg) (k : BitVec 3) (x : Ext) (l : Launch) (ow : Owner),
      let i : Instr := .talloc d a k x
      let t := (s.slots g iss i).d.num
      let w := g.kGet a.toNat
      Free s iss g i .user (fun _ _ _ _ => []) (some .tx) → g.activeLanes iss i ≠ [] → s.tBusy (Spec.seenBy iss g i) t = false →
      s.launch g.launch = some l → (Spec.seenBy iss g i).ownerAt iss.gid k.toNat = some ow →
      (Spec.shapeOk (Spec.seenBy iss g i) l k.toNat w → s.tileOf ow t = none → (∀ sh, s.shapePending ow t = some sh → sh = w) →
        let lvl := storeOf g l k.toNat
        EndsIn s iss i { s with waits := s.waits ++ [{ gid := iss.gid, op := g.nextOp, lvl := lvl, unit := g.unitOf lvl }] }
          (Spec.withOp (g.tPut t { handle := 0xFFFFFFFE, tag := (g.tGet t).tag }) .tx (.talloc t ow w))
          (fun j => (g.lane j).pass iss)) ∧
      (∀ h tl, Spec.shapeOk (Spec.seenBy iss g i) l k.toNat w → s.tileOf ow t = some (h, tl) → tl.shape = w →
        ∃ s' g', exec i s = .next s' ∧ s'.group iss.gid = some g' ∧
          g'.tGet t = { handle := BitVec.ofNat 32 h, tag := Tag.ofCode (w.extractLsb' 60 4).toNat } ∧
          (∀ n, n ≠ t → g'.tGet n = g.tGet n) ∧ g'.v = g.v ∧ g'.k = g.k ∧ g'.p = g.p ∧
          (∀ j, g'.lane j = g.endsAs iss j ((g.lane j).pass iss)) ∧ SameOutside s s' iss.gid) ∧
      (¬ Spec.shapeOk (Spec.seenBy iss g i) l k.toNat w ∨ (∃ h tl, s.tileOf ow t = some (h, tl) ∧ tl.shape ≠ w) →
        (trapMode g iss.mode).isSome = true →
        EndsIn s iss i s g (fun j => if j ∈ g.activeLanes iss i then (LaneEnd.trap 0x10 w).move g iss (g.lane j)
          else (g.lane j).pass iss)))

/-- R167, R193, R194: TALLOC_GRANT gives the request at the head of a store's queue a free entry and free space, with every
byte zero, and its register the new handle. -/
def Sys2Proof.Spec.TallocGrant : Prop :=
  ∀ (s : State) (lvl : Bool) (unit index base gid op t : Nat) (ow : Owner) (sh : DWord) (g : Group),
    s.tallocHead lvl unit = some (gid, op, t, ow, sh) → s.group gid = some g → s.tileOf ow t = none →
    index < storeEntries lvl → base % storeUnit lvl = 0 → tblFind s.tiles (handleAt lvl unit index) = none →
    s.storeFree lvl unit base (storeSpan lvl (shapeSize sh)) = true →
    ∃ s' g' tl, exec (.tallocGrant lvl unit index base) s = .next s' ∧ s'.group gid = some g' ∧
      tblFind s'.tiles (handleAt lvl unit index) = some tl ∧ tl.owner = ow ∧ tl.shape = sh ∧ tl.state = .ready ∧
      tl.base = base ∧ tl.bytes = [] ∧
      g'.tGet t = { handle := BitVec.ofNat 32 (handleAt lvl unit index), tag := Tag.ofCode (sh.extractLsb' 60 4).toNat } ∧
      (∀ p ∈ g'.ops, p.id = op → p.ended = true) ∧ g'.v = g.v ∧ g'.k = g.k ∧ g'.p = g.p ∧ g'.lanes = g.lanes ∧
      s'.mem = s.mem ∧ s'.flight = s.flight

/-- R201, R202, R205: `wset` sets a pattern with every use count 0, `wclr` clears one, `wskip` raises the use counts of a set
one, and `pf` changes nothing. -/
def Sys2Proof.Spec.StreamRegisters : Prop :=
  ∀ (s : State) (iss : Issue) (g : Group),
    (∀ a b x, Free s iss g (.pf a b x) .user (fun _ _ _ => Spec.okAddress) none →
      EndsIn s iss (.pf a b x) s g (fun j => (g.lane j).pass iss)) ∧
    (∀ (d : WReg) (a : KReg) (x : Bool), Free s iss g (.wset d a x) .user (fun _ _ _ _ => []) none →
      let k (n : Nat) : DWord := g.kGet (a.toNat + n)
      let g1 := Spec.withPattern g d.toNat (some ⟨k 0, k 1, k 2, k 3⟩)
      let traps (c : BitVec 8) : Prop := EndsIn s iss (.wset d a x) s g (fun j =>
        if j ∈ g.activeLanes iss (.wset d a x) then (LaneEnd.trap c (k 0)).move g iss (g.lane j) else (g.lane j).pass iss)
      (Spec.patternOk (k 0) (k 1) (k 2) → Spec.patternAligned (k 0) (k 2) (k 3) →
        EndsIn s iss (.wset d a x) s g1 (fun j => (g1.lane j).pass iss)) ∧
      ((trapMode g iss.mode).isSome = true → ¬ Spec.patternOk (k 0) (k 1) (k 2) → traps 0x09) ∧
      ((trapMode g iss.mode).isSome = true → Spec.patternOk (k 0) (k 1) (k 2) → ¬ Spec.patternAligned (k 0) (k 2) (k 3) →
        traps 0x07)) ∧
    (∀ (d : WReg) (x : Bool), Free s iss g (.wclr d x) .user (fun _ _ _ _ => []) none →
      let g1 := Spec.withPattern g d.toNat none
      EndsIn s iss (.wclr d x) s g1 (fun j => (g1.lane j).pass iss)) ∧
    (∀ (d : WReg) (b : KReg) (x : Ext), Free s iss g (.wskip d b x) .user (fun _ _ _ _ => []) none →
      (tblFind g.w d.toNat).isSome = true →
      EndsIn s iss (.wskip d b x) s g (fun j => if j ∈ g.activeLanes iss (.wskip d b x) then
        { (g.lane j).pass iss with use := tblPut (g.lane j).use 0 d.toNat (BitVec.ofNat 32
          (min ((tblGet (g.lane j).use 0 d.toNat).toNat + (g.kGet b.toNat).toNat % 2 ^ 32) 0xFFFFFFFF)) }
        else (g.lane j).pass iss))

/-- R189: `ldk` is counted in LD, its access checked once for the lowest guard-active lane; with no guard-active lane it is counted
all the same and does nothing (R125). What memory held at the issue is kept where the poison trap is enabled (DEDUCED, log
entry 22). -/
def Obligations.LoadK : Prop :=
  ∀ (s : State) (iss : Issue) (g : Group) (d a : KReg) (b : Imm8) (x : Ext),
    let i : Instr := .ldk d a b x
    Free s iss g i .user (fun _ _ _ _ => []) (some .ld) →
    (g.activeLanes iss i = [] → EndsIn s iss i s (Spec.withEmpty g .ld) (fun j => (g.lane j).pass iss)) ∧
    (∀ j l es, (g.activeLanes iss i).head? = some j →
      let addr := g.kGet a.toNat + b.signExtend 64 * 8
      s.addrBusy iss.gid (Spec.seenBy iss g i) j addr = false →
      s.checkLane iss.gid (Spec.seenBy iss g i) iss.mode j addr 8 8 { r := true } = (.ok l, es) →
      let s1 := s.noteCheck (Spec.seenBy iss g i) iss.mode addr { r := true } (.ok l, es)
      let x : LoadLane :=
        { lane := j, mode := iss.mode, loc := l, read := false, val := 0, early := Spec.atIssue s1 iss.gid g l 8 }
      EndsIn s iss i s1 (Spec.withOp g .ld (.ldk d.toNat x))
        (fun j => (g.lane j).pass iss))

/-- R203, R204: the element of a lane's stream: its number is 32 times the lane's use count plus the lane; beyond the pattern's end
the lane faults EXTENT with that number, and else its address is checked for 4 bytes. -/
def Sys2Proof.Spec.StreamElements : Prop :=
  ∀ (s : State) (iss : Issue) (g : Group) (w j : Nat) (wr : Bool) (p : Pattern), tblFind g.w w = some p →
    let e := (tblGet (g.lane j).use 0 w).toNat * 32 + j
    (s.element iss g w wr j).2 = match Spec.elementAddr p e with
      | none => .trap 0x06 (BitVec.ofNat 64 e)
      | some a => match (s.checkLane iss.gid g iss.mode j a 4 4 (if wr then { w := true } else { r := true })).1 with
        | .ok l => .ok l a
        | .trap c => .trap c a
        | .page st q => .page st q a
        | .busy => .busy

/-- R203, R204: an instruction that accepts STREAM, with streams bound to its slots whose elements pass their checks. A source slot
with a stream takes each guard-active lane's element; a stream bound to slot D takes each result, as `st.g.32` stores it, and no
register is written; every lane of the issue set that did not trap counts one use of each stream. -/
def Sys2Proof.Spec.StreamOperands : Prop :=
  ∀ (s : State) (iss : Issue) (g : Group) (i : Instr) (r : Spec.RowF) (st : Streams),
    Spec.boundStreams s iss g i = st → Spec.streamRow (Spec.streamed s iss g i st) s iss g i = some r →
    Ready s iss g i .user r.ok none → iss.pfx.streams ≠ [] →
    (∀ p ∈ iss.pfx.streams, (tblFind g.w p.1.toNat).isSome = true) →
    st.faults = [] → st.busy = false →
    (∀ (sl : SlotName) (j : Nat) (l : Loc), sl ≠ .d → Spec.elementOf st sl j = some l → Spec.clean s l) →
    ((trapMode g iss.mode).isSome = true ∨ ∀ j ∈ g.activeLanes iss i, fpTraps (s.trapFlags g) (r.val j).2 = false) →
    let e := g.activeLanes iss i
    let good := e.filter (fun j => !fpTraps (s.trapFlags g) (r.val j).2)
    ∃ s' g', exec i s = .next s' ∧ s'.group iss.gid = some g' ∧ g'.w = g.w ∧
      (∀ j, { g'.lane j with use := (g.lane j).use } = g.endsAs iss j (if j ∈ e then
        (g.lane j).floatEnd g iss (s.trapFlags g) (r.val j).2 else (g.lane j).pass iss)) ∧
      (∀ j ∈ iss.lanes, ∀ w, tblGet (g'.lane j).use 0 w = if j ∈ e ∧ j ∉ good then tblGet (g.lane j).use 0 w
        else Spec.usedMore (g.lane j) iss.pfx.streams w) ∧
      ((∀ p ∈ iss.pfx.streams, p.2 ≠ .d) →
        DestIs s g g' iss i good (fun j => (r.val j).1) ∧
        ((∃ j ∈ iss.lanes, j ∉ e ∨ j ∈ good) → ∀ u, r.tag = some u → DestTag s g g' iss i u) ∧
        SameButD s g { g' with seen := g.seen, f := g.f } iss i good ∧
        (∀ a l, s'.readByte a l = s.readByte a l)) ∧
      ((∃ p ∈ iss.pfx.streams, p.2 = .d) →
        g'.v = g.v ∧ g'.vtag = g.vtag ∧ g'.k = g.k ∧ g'.p = g.p ∧ g'.t = g.t ∧ g'.nextOp = g.nextOp + 1 ∧
        (∀ (a : Agent) (l : Loc), a.gid ≠ some iss.gid ∨
            (∀ j ∈ good, ∀ q, Spec.elementOf st .d j = some q → ∀ k < 4, q.add k ≠ l) →
          (s'.readByte a l).1 = (s.readByte a l).1) ∧
        (∀ j ∈ good, ∀ q, Spec.elementOf st .d j = some q → ∀ k < 4,
          (∀ j' ∈ good, j < j' → ∀ q', Spec.elementOf st .d j' = some q' → ∀ k' < 4, q'.add k' ≠ q.add k) →
          (s'.readByte (g.agent iss.gid) (q.add k)).1 = BitVec.ofNat 8 ((r.val j).1.toNat / 256 ^ k)))

/-- R204: a stream of a W register that holds no pattern traps ACCESS, with xval 0, in every guard-active lane; the lanes that are
not guard-active go on. -/
def Sys2Proof.Spec.UnsetStreams : Prop :=
  ∀ (s : State) (iss : Issue) (g : Group) (i : Instr) (r : Spec.RowF) (w : WReg) (sl : SlotName),
    Spec.streamRow (Spec.registers s iss g i) s iss g i = some r → Ready s iss g i .user r.ok none →
    iss.pfx.streams = [(w, sl)] → sl ≠ .d → tblFind g.w w.toNat = none → (trapMode g iss.mode).isSome = true →
    ∃ s' g', exec i s = .next s' ∧ s'.group iss.gid = some g' ∧ SameButD s g g' iss i [] ∧ SameOutside s s' iss.gid ∧
      ∀ j, g'.lane j = g.endsAs iss j (if j ∈ g.activeLanes iss i then (LaneEnd.trap 0x09 0).move g iss (g.lane j)
        else (g.lane j).pass iss)

/-- R155 to R158: the lane reads, the votes, masks and compaction, and the folds and scans. -/
def Obligations.CrossLane : Prop := Spec.LaneReads ∧ Spec.VotesAndCompaction ∧ Spec.FoldsAndScans

/-- R114, R142, R143, R149: moves, selection, predicate operations and the state word. -/
def Obligations.MovesAndPredicates : Prop := Spec.MovesAndSelection ∧ Spec.PredicateOperations

/-- R220, R232 to R236: the conversions between formats, of numbers and of blocks; the rounding of a block's elements is to the
nearest, ties to even, and their values are those of R217. -/
def Obligations.Conversions : Prop := Spec.FloatConversions ∧ Spec.BlockEncoding ∧ Spec.BlockRounding

/-- R132, R133: branches, and branches to what is no header address. -/
def Obligations.BranchesAndTargets : Prop := Spec.Branches ∧ Spec.BadTargets

/-- R128, R141, R154: the group registers, and ring words that trap. -/
def Obligations.GroupRegistersAndRings : Prop := Spec.GroupRegisters ∧ Spec.RingWordTraps

/-- R48, R186, R187, R189, R281, R282: what is read for a load, what its retirement writes, and how stores and triggers retire.
That a group's loads are read, and operations of a class retire, in the order of issue, and that a line poisoned since the issue
gives what memory held then, are the model's reading (DEDUCED, log entries 21 and 22). -/
def Obligations.LoadsAndStoresRetire : Prop := Spec.LoadRead ∧ Spec.LoadRetire ∧ Spec.StoreAndTriggerRetire

/-- R201 to R205: pattern registers and stream operands. When a use count rises and when an element is read, and whose tag gives
a stepped slot its width, are the model's reading (DEDUCED, log entries 19 and 87). -/
def Obligations.Streams : Prop :=
  Spec.StreamRegisters ∧ Spec.StreamElements ∧ Spec.StreamOperands ∧ Spec.UnsetStreams

/-- R167, R193 to R195: the tile registers, and the grant of a tile. -/
def Obligations.Tiles : Prop := Spec.TileRegisters ∧ Spec.TallocGrant

/-- R136, R139, R140, R286: triggers, task slots and spawns. -/
def Obligations.TriggersAndSpawns : Prop := Spec.Trigger ∧ Spec.TaskSlots

/-! ### The machine as a whole -/

/-- R384: after hub reset time is 0, nothing runs or is in flight, no partition is configured, the management function is not
ready; memory lists nothing, in its canonical form. -/
def Obligations.ResetState : Prop :=
  let s := State.reset
  s.time = 0 ∧ s.groups = [] ∧ s.flight = [] ∧ s.launches = [] ∧ s.pieces = [] ∧ s.tlb = [] ∧ s.parts = [] ∧ s.vis = [] ∧
    s.mgmt.ready = false ∧ s.mgmt.recovery = false ∧ (∀ n, (s.die n).mhz = 1800 ∧ (s.die n).relocking = false) ∧
    (∀ n q, ((s.vi n).queue q).on = false ∧ ((s.vi n).queue q).halt = false) ∧ (∀ n k, tblGet (s.core n).evc 0 k = 0) ∧
    (∀ n, (s.part n).s2root = 0) ∧ (∀ a l, (s.readByte a l).1 = 0) ∧ Memory.wf s.mem = true

/-- Memory keeps its canonical form through every step: addresses rise, and no byte listed is 0, as which an unlisted one
reads. -/
def Obligations.MemoryKept : Prop :=
  ∀ (s t : State), Memory.wf s.mem = true → step s = .next t → Memory.wf t.mem = true

/-- R118, R86, R87, R112: in an issue slot of a group whose chosen lanes stand in the body of a block, or take the header at
which they stand, the units fetched at their address are decoded, and the step executes the instruction read, with its issue in
hand and nothing else changed since the fetch; lanes that came by a trap return are framed first (R395). Lanes of one address that
stand in blocks with different marks issue apart (DEDUCED, log entry 86). -/
def Obligations.StepRunsDecoded : Prop :=
  ∀ (s s1 sh sc sf sa sb s2 s3 : State) (gid dt : Nat) (r : List Turn) (g gh gc gf g3 : Group) (ls cs pfx ins : List Nat) (b : Block)
      (q : Seq) (iss : Issue),
    s.agenda = ⟨dt, .issue gid⟩ :: r → ({ s with agenda := r }).passTime dt = s1 → s1.group gid = some g →
    g.resident = true → g.freed = false → g.hostcall.waiting = false → s1.overdue g = false → s1.asleep g.core = false →
    s1.exhausted g.leaf 0 = false → s1.leafStopped g.leaf = false → s1.gangApart g = false →
    s1.frameHeaders gid = sh → sh.group gid = some gh → sh.considered gid gh = (sc, cs) → sc.group gid = some gc →
    sc.frameReturns gid (gc.choose cs) = (sf, true) → sf.group gid = some gf → gf.sameBlock (gf.choose cs) = ls → ls ≠ [] →
    let l0 := gf.lane (ls.headD 0)
    sf.standOf gid l0 = .ok (s2, .inside b) ∨
      (sf.standOf gid l0 = .ok (sa, .atHeader) ∧ sa.headerAt gid l0.mode l0.addr.toNat = .ok (sb, .block b) ∧
        sb.takeHeader gid ls b = s2) →
    s2.group gid = some g3 →
    let l := g3.lane (ls.headD 0)
    s2.fetchSeq gid l.mode b.stop l.addr.toNat = .ok (s3, pfx, ins) → decodeSeq pfx ins = .ok q →
    let size := if ins.headD 0 % 4 = 2 then 8 else 4
    let a := l.addr.toNat + 4 * pfx.length
    let rep (f : SlotSet → Bool) : Nat := match q.pfx.rep with
      | some (_, m) => if f m then (l.ms l.mode).rep.toNat else 0
      | none => 0
    let loop := (l.ms l.mode).loop.toNat
    iss = { gid := gid, lanes := ls, considered := cs, mode := l.mode, addr := l.addr.toNat, iaddr := a, header := b.header,
            next := if b.stop ≤ a + size then b.following else a + size, following := b.following, pfx := q.pfx,
            loopPass := loop, repPass := (l.ms l.mode).rep.toNat,
            stepD := loop * b.word.d + rep SlotSet.d, stepA := loop * b.word.a + rep SlotSet.a,
            stepB := loop * b.word.b + rep SlotSet.b, stepC := loop * b.word.c + rep SlotSet.c, stepT := loop * b.word.t } →
    s3.lateIllegal g3 { iss with stepD := 0, stepA := 0, stepB := 0, stepC := 0, stepT := 0 } b pfx q = none →
    step s = exec q.instr { s3 with issue := some iss }

/-- R85 to R93: instruction words as the manual writes them out, and the sequence of a word without prefixes. -/
def Obligations.WordsDecode : Prop :=
  decodeWord 0x060A1084 0 = .ok (.addI32 4 5 (.v 6) .short) ∧
  decodeWord 0xFD0A10B0 0 = .ok (.addiI32 4 5 (-3) .short) ∧
  decodeWord 0x830404F4 0 = .ok (.cmpLtI32 1 2 (.k 3) .short) ∧
  decodeWord 0x060A1026 0x100000E0 = .ok (.madI32 4 5 (.v 6) 7 none) ∧
  decodeWord 0x80001138 0 = .ok (.smov 4 0x80 .short) ∧
  decodeWord 0x04000004 0 = .ok (.bra 4 .short) ∧
  decodeWord 0x030812D0 0 = .ok (.ldG32 4 2 3 .short) ∧
  decodeWord 0xFF0812E0 0 = .ok (.stG32 4 2 (-1) .short) ∧
  decodeWord 0x060A1200 0 = .ok (.faddF32 4 5 (.v 6) .short) ∧
  decodeWord 0x030000EA 0x00000011 = .ok (.sys 3 (.long (some ⟨false, 1⟩))) ∧
  decodeWord 0x000003AC 0 = .ok (.sret .short) ∧
  (∀ (lo : Nat) (i : Instr), lo % 4 = 0 → decodeWord lo 0 = .ok i → decodeSeq [] [lo] = .ok ⟨{}, 0, i, 1⟩) ∧
  (∀ (lo hi : Nat) (i : Instr), lo % 4 = 2 → decodeWord lo hi = .ok i → decodeSeq [] [lo, hi] = .ok ⟨{}, 0, i, 2⟩)

/-- R88 to R91: decoding reads back every field of every instruction that has a word: the word of a well-formed instruction
decodes to it, whatever follows, and is one unit or two. -/
def Obligations.DecodeEncode : Prop :=
  ∀ (i : Instr) (rest : List Byte), encode i ≠ [] → i.wellFormed = true →
    decodeBytes (encode i ++ rest) = some (i, rest) ∧ ((encode i).length = 4 ∨ (encode i).length = 8)

namespace Sys2Proof.Spec

/-! ### Traps and the system class (R106, R109, R127, R332 to R347) -/

/-- An issue in hand whose lanes are live, in a group with a handler for its mode. -/
structure InHand (s : State) (iss : Issue) (g : Group) : Prop where
  issue : s.issue = some iss
  group : s.group iss.gid = some g
  lanes : iss.lanes ≠ []
  sorted : iss.lanes.Pairwise (· < ·)
  order : iss.considered.Nodup
  live : ∀ j ∈ iss.lanes, j < 32 ∧ (g.lane j).live = true ∧ (g.lane j).mode = iss.mode
  handler : (trapMode g iss.mode).isSome = true
  settled : retire g.ops [] = (g.ops, [])

/-- Every lane of the issue set traps with cause `c` and value `v`, at its sequence, and nothing else happens (R111). -/
def AllTrap (s : State) (iss : Issue) (g : Group) (i : Instr) (c : BitVec 8) (v : DWord) : Prop :=
  EndsIn s iss i s g (fun j => (LaneEnd.trap c v).move g iss (g.lane j))

/-- The lowest mode of a system instruction (R344). -/
def lowest (i : Instr) : Mode :=
  match i with
  | .sret _ => .supervisor
  | .hret _ => .hypervisor
  | .ctlrd _ _ _ => .supervisor
  | .ctlwr _ _ _ => .supervisor
  | .lswrd _ _ _ => .supervisor
  | .tinv _ _ => .supervisor
  | .tprobe _ _ _ => .supervisor
  | .evclr _ _ => .supervisor
  | .errrd _ _ _ => .supervisor
  | .lhalt _ => .hypervisor
  | .einj _ _ _ => .hypervisor
  | _ => .user

/-- The roles of R127 that allow an instruction of the engines: the matrix and assignment engines 0 and 2, the fabric and the
blend unit 0 and 1. -/
def engineRole (i : Instr) (role : Nat) : Prop :=
  if i.opcode < 0x70 then role = 0 ∨ role = 2 else role = 0 ∨ role = 1

/-- A lane in the handler of mode `t` (R332, R334). -/
def inHandler (l : Lane) (t : Mode) (vec resume : BitVec 48) (cause : BitVec 8) (xval : DWord) : Lane :=
  let w := { l with addr := resume }.word
  let l := if t = .hypervisor then { l with xpcH := w, xcauseH := cause, xvalH := xval }
    else { l with xpcS := w, xcauseS := cause, xvalS := xval }
  { l.setPasses t 0 0 with mode := t, addr := vec, came := .header, age := 0, yielded := false, failing := false }

/-- What else `exit` does of a lane (R134): its writes are those that its trigger waits for (R49), its task slots are free, and
every armed barrier of its pieces is to lose one expected arrival, once what the lane did before is covered (R80); the last lane of
a piece takes none from it (DEDUCED, log entry 102). -/
structure Leaves (s s' : State) (gid : Nat) (g : Group) (j : Nat) : Prop where
  trigger : ∀ g', s'.group gid = some g' → (g'.lane j).exited = true ∧ (g'.lane j).exitWrites = s.laneOwn gid j ++ g.fwaited
  slots : ∀ l', s'.launch g.launch = some l' → ∀ n, tblFind l'.tasks n ≠ some (.reserved gid j)
  drops : ∀ pid ∈ (g.asLane j).pieces, ∀ p, s.piece pid = some p → p.bar ≠ 0xFFFFFFFF → s'.exitedOf pid < p.pop →
    ∃ n c, tblFind s'.changes n = some c ∧ c.gid = gid ∧ c.op = none ∧ c.handle = p.bar.toNat ∧ c.ask = .drop 1 ∧
      c.cover = s.coverNow gid g

/-- The 64 bytes of a lane halt's record (R393). -/
def haltBytes (time : Nat) (word xval : DWord) (cause : BitVec 8) (lane vi gid : Nat) : List Byte :=
  leBytes 8 time ++ leBytes 8 word.toNat ++ leBytes 8 xval.toNat ++ [cause, BitVec.ofNat 8 lane] ++ leBytes 2 vi ++ leBytes 8 gid ++
    List.replicate 28 0

/-- A group whose monitor is touched (R301): where lanes are parked in `mwait` they go on and the monitor is disarmed, else it reads
TOUCHED. -/
def touched (g : Group) : Group :=
  if g.lanes.any (fun p => decide (p.2.park = .monitor)) then
    { g with mon := { g.mon with state := .disarmed }, lanes := g.lanes.map (fun p => (p.1, p.2.unparkMonitor)) }
  else { g with mon := { g.mon with state := .touched } }

/-- The groups once something has been written to the lines of some monitors: an armed one whose `mwait` has not come to its deadline
is touched (R301). -/
def watched (s : State) (hit : Group → Bool) : Tbl Group :=
  s.groups.map (fun p => if p.2.mon.state = .armed && !s.overdue p.2 && hit p.2 then (p.1, touched p.2) else p)

/-- A monitor's line shares bytes with `n` bytes of memory from `a` on. -/
def watches (a n : Nat) (g : Group) : Bool :=
  match g.mon.place with
  | .sys x => decide (a < x + 128) && decide (x < a + n)
  | _ => false

/-- Where the next record of a ring of the management function goes, and whether there is room (R388). -/
def ringAt (r : Ring) : Nat := 0x100000000000 + r.base.toNat / 64 * 64 + r.tail.toNat % 2 ^ (r.ctl.toNat % 32) * 64
def ringTakes (r : Ring) : Bool := r.ctl.getLsbD 8 && decide ((r.tail - r.head).toNat < 2 ^ (r.ctl.toNat % 32))

/-- The halt ring of the management function takes a record, with its vector, or, off or full, only counts it (R393). -/
def Reported (s s' : State) (bytes : List Byte) : Prop :=
  let r := s.mgmt.halt
  if ringTakes r = true then
    s'.mem = memPut s.mem (ringAt r) bytes ∧
      s'.mgmt.halt = { r with tail := r.tail + 1 } ∧ s'.mgmt.msix = s.mgmt.msix ++ [r.ctl.toNat / 4096 % 256]
  else s'.mem = s.mem ∧ s'.mgmt.halt = r ∧ s'.mgmt.halts = s.mgmt.halts + 1

/-- The mode that takes a trap of mode `m`, and its handler (R334): the next higher mode whose vector is not 0. -/
def handler (g : Group) (m : Mode) : Option (Mode × DWord) :=
  if m = .user ∧ g.tvecS ≠ 0 then some (.supervisor, g.tvecS)
  else if m ≠ .hypervisor ∧ g.tvecH ≠ 0 then some (.hypervisor, g.tvecH)
  else none

/-- The word that `sret` and `hret` return to (R346). -/
def savedWord (i : Instr) (l : Lane) : Option DWord :=
  match i with
  | .sret _ => some l.xpcS
  | .hret _ => some l.xpcH
  | _ => none

/-- A lane returned to the mode and address of a word (R346). -/
def returned (l : Lane) (w : DWord) : Lane :=
  let m : Mode := if w.toNat / 2 ^ 48 % 4 = 0 then .user else if w.toNat / 2 ^ 48 % 4 = 1 then .supervisor else .hypervisor
  { l.setPasses l.mode 0 0 with mode := m, addr := BitVec.ofNat 48 (w.toNat - w.toNat % 4), came := .ret, age := 0, yielded := false }

/-- A level register of R76, with the values of R32 for a TASK group. -/
def levelReg (s : State) (g : Group) (k j : Nat) : Word :=
  if g.task then (if j = 0 ∨ j = 10 then 32 else if j < 4 then 1 else if j < 9 then 0 else 0xFFFFFFFF)
  else match (g.pieceAt k).bind s.piece with
    | none => 0
    | some p => match j with
      | 0 => BitVec.ofNat 32 (p.ext.getD 0 1)
      | 1 => BitVec.ofNat 32 (p.ext.getD 1 1)
      | 2 => BitVec.ofNat 32 (p.ext.getD 2 1)
      | 3 => BitVec.ofNat 32 (p.ext.getD 3 1)
      | 4 => BitVec.ofNat 32 (p.org.getD 0 0)
      | 5 => BitVec.ofNat 32 (p.org.getD 1 0)
      | 6 => BitVec.ofNat 32 (p.org.getD 2 0)
      | 7 => BitVec.ofNat 32 (p.org.getD 3 0)
      | 8 => BitVec.ofNat 32 p.pos
      | 9 => p.bar
      | 10 => BitVec.ofNat 32 p.pop
      | _ => p.barpkg

/-- A special register of R76 in a lane of the group. -/
def special (s : State) (g : Group) (n lane : Nat) : Word :=
  match n with
  | 0 => (g.lane lane).cx
  | 1 => (g.lane lane).cy
  | 2 => (g.lane lane).cz
  | 3 => (g.lane lane).cw
  | 4 => BitVec.ofNat 32 lane
  | 5 => BitVec.ofNat 32 (((List.range 32).filter (fun i => (g.lane i).absent)).map (2 ^ ·)).sum
  | n => levelReg s (g.asLane lane) (n / 16) (n % 16)

/-- A 64-bit special register other than `%time` (R153, R325, R337). -/
def clock (s : State) (g : Group) (n : Nat) : DWord :=
  let d := s.die (dieOf g.core)
  if n = 0x81 then d.cyc s.time else if n = 0x82 then d.cycs s.time else tblGet (s.core g.core).evc 0 (n - 0x90)

/-- `smov` of every register but `%time` (R153). -/
def specialRow (_rd : Reads) (s : State) (iss : Issue) (g : Group) (i : Instr) : Option Row :=
  match i with
  | .smov _ b _ =>
    if b = 0x80 ∨ specialListed b = false then none
    else if b.toNat < 0x80 then some { tag := some .n32, val := fun j => (special s (seenBy iss g i) b.toNat j).setWidth 64 }
    else some { tag := some .n64, val := fun _ => clock s g b.toNat }
  | _ => none

/-- A control register as R336 lists it. -/
def control (s : State) (g : Group) (n lane : Nat) : DWord :=
  let l := g.lane lane
  match n with
  | 0x00 => l.xpcS
  | 0x01 => l.xcauseS.setWidth 64
  | 0x02 => l.xvalS
  | 0x04 => l.xpcH
  | 0x05 => l.xcauseH.setWidth 64
  | 0x06 => l.xvalH
  | 0x10 => g.tvecS
  | 0x11 => g.tvecH
  | 0x12 => g.trapen
  | 0x13 => (s.vi g.vi).sroot
  | 0x14 => BitVec.ofNat 64 (s.part g.leaf).s2root
  | 0x15 => BitVec.ofNat 64 (g.leaf + 2 ^ 16 * g.vi)
  | 0x16 => BitVec.ofNat 64 (g.ctx + 2 ^ 7 * g.core)
  | n => tblGet (s.core g.core).evsel 0 (n - 0x18)

/-- The control registers of hypervisor mode (R336). -/
def hyperReg (n : Nat) : Prop := n = 4 ∨ n = 5 ∨ n = 6 ∨ n = 0x11 ∨ n = 0x14

/-- What `tprobe` answers a lane (R347). -/
def probed (s : State) (iss : Issue) (g : Group) (i : Instr) (j : Nat) (a : DWord) : DWord :=
  let g := seenBy iss g i
  match (s.checkLane iss.gid g iss.mode j a 1 1 { r := true }).1 with
  | .trap c => 2 ^ 63 + c.setWidth 64
  | .page _ _ => 2 ^ 63 + 8
  | .busy => 0
  | .ok l =>
    if wellFormed 1 a then 2 ^ 60 + BitVec.ofNat 64 (a.toNat % 2 ^ 60)
    else if wellFormed 2 a then 2 * 2 ^ 60 + BitVec.ofNat 64 (a.toNat % 2 ^ 60)
    else if wellFormed 3 a then 3 * 2 ^ 60 + BitVec.ofNat 64 (a.toNat % 2 ^ 60)
    else if iss.mode = .hypervisor then (match l with
      | .sys p => BitVec.ofNat 64 p
      | _ => 0)
    else match s.stage1 (g.xlate iss.mode) { r := true } a.toNat with
      | .ok (p, _) => BitVec.ofNat 64 p
      | .error _ => 0

/-- The translation budget stalls the walk that a lane's `tprobe` needs (R62). -/
def stalls (s : State) (iss : Issue) (g : Group) (i : Instr) (j : Nat) (a : DWord) : Bool :=
  decide ((s.checkLane iss.gid (seenBy iss g i) iss.mode j a 1 1 { r := true }).1 = .busy)

/-- `ctlrd`, `lswrd`, `errrd` and `tprobe` (R347). -/
def systemRow (s : State) (iss : Issue) (g : Group) (i : Instr) : Option Row :=
  let o := s.slots g iss i
  match i with
  | .ctlrd _ b _ => if ctlListed b = false then none else some { tag := some .n64, val := fun j => control s (seenBy iss g i) b.toNat j }
  | .lswrd _ _ _ => some
      { ok := fun _ _ _ sl => if sl = .a then [.i32, .n32] else [], tag := some .n64
        val := fun j =>
          let n := (o.a.read32 g iss.mode j).toNat % 32
          if n ∈ iss.lanes then { g.lane n with addr := BitVec.ofNat 48 iss.addr }.word else (g.lane n).word }
  | .errrd _ b _ => some { tag := some .n64, val := fun _ => tblGet (s.part g.leaf).errs 0 b.toNat }
  | .tprobe _ _ _ => if (g.activeLanes iss i).any (fun j => stalls s iss g i j (o.a.read64 g iss.mode j)) then none
    else some { tag := some .n64, val := fun j => probed s iss g i j (o.a.read64 g iss.mode j) }
  | _ => none

/-- The instruction's own registers are within reach of the mode (R336). -/
def withinReach (i : Instr) (m : Mode) : Prop :=
  match i with
  | .ctlrd _ b _ => hyperReg b.toNat → m = .hypervisor
  | .ctlwr _ b _ => hyperReg b.toNat → m = .hypervisor
  | _ => True

/-- A per-lane control register of a lane written (R336). -/
def laneReg (l : Lane) (n : Nat) (v : DWord) : Lane :=
  match n with
  | 0 => { l with xpcS := v }
  | 1 => { l with xcauseS := v.setWidth 8 }
  | 2 => { l with xvalS := v }
  | 4 => { l with xpcH := v }
  | 5 => { l with xcauseH := v.setWidth 8 }
  | _ => { l with xvalH := v }

/-- A uniform control register of a group written: a handler's address keeps bits [47:3]; read-only ones stay (R336). -/
def groupReg (g : Group) (n : Nat) (v : DWord) : Group :=
  if n = 0x10 then { g with tvecS := v &&& 0xFFFFFFFFFFF8 }
  else if n = 0x11 then { g with tvecH := v &&& 0xFFFFFFFFFFF8 }
  else if n = 0x12 then { g with trapen := v &&& 1 }
  else g

/-- An event selector of a core written (R336, R337). -/
def coreReg (s : State) (g : Group) (n : Nat) (v : DWord) : State :=
  let ev : DWord := if v.toNat % 256 ≤ 10 then v &&& 0xFF else 0
  if 0x18 ≤ n ∧ n ≤ 0x1F then s.modCore g.core (fun c => { c with evsel := tblPut c.evsel 0 (n - 0x18) ((v &&& 0x100) ||| ev) })
  else s

/-- The invalidation that a word of `tinv` names (R347): none where the word breaks a rule. -/
def invalidation (iss : Issue) (g : Group) (w : DWord) : Option Inval :=
  let size := (w.extractLsb' 3 2).toNat
  let bytes : Nat := if size = 3 then 0 else 4096 * 512 ^ size
  let page := w.toNat - w.toNat % 4096
  if w.extractLsb' 1 2 = 0 ∨ w.extractLsb' 0 1 ≠ 0 ∨ w.extractLsb' 5 7 ≠ 0 ∨ (size ≠ 3 ∧ page % bytes ≠ 0) then none
  else some { gid := some iss.gid, op := g.nextOp, leaf := g.leaf, vi := g.vi, stage1 := w.getLsbD 1, stage2 := w.getLsbD 2,
              size := bytes, page := page, reached := [], writes := [], loads := [] }

/-- The state with a line of the package marked for its next read (R347, R182). -/
def marked (s : State) (k : Nat) (l : Loc) : State :=
  match l with
  | .sys a =>
    if 384 * 2 ^ 32 ≤ a then s
    else if k = 0 then (if a / 128 ∈ s.softNext then s else { s with softNext := a / 128 :: s.softNext })
    else if a / 128 ∈ s.hardNext then s else { s with hardNext := a / 128 :: s.hardNext }
  | _ => s

/-- The rows of the instructions that compute lane by lane, with the tags that their slots accept. -/
def anyRow (rd : Reads) (s : State) (iss : Issue) (g : Group) (i : Instr) : Option RowF :=
  let quiet (row : Reads → State → Issue → Group → Instr → Option Row) : Option RowF := (row rd s iss g i).map Row.quiet
  (streamRow rd s iss g i).or <| (quiet row64).or <| (quiet predicateRow).or <| (quiet laneReadRow).or <| (quiet voteRow).or <|
    (quiet foldRow).or <| (quiet rngRow).or <| (blockRow rd s iss g i).or <| (quiet blockFormRow).or <| quiet apertureRow

/-- The tags that a slot is found with (R106): of both registers of a pair, the low one first, unless FORMAT names one; of a stream
the pattern's, where there is one; none of a slot that is no V register. -/
def found (s : State) (iss : Issue) (g : Group) (i : Instr) (sl : SlotName) : List Tag :=
  let unset := match iss.pfx.streamed sl with
    | some w => (tblFind g.w w).isNone && (iss.pfx.formatted sl).isNone
    | none => false
  if unset then [] else match (s.slots g iss i).slot sl with
  | .v _ => [s.tagOf g iss i sl]
  | .pair n => match iss.pfx.formatted sl with
    | some t => [t]
    | none => [g.tag iss.mode n, g.tag iss.mode (n + 1)]
  | _ => []

/-- A slot whose tag is not among those it accepts: the first tag that is not, and the first that it accepts (R110). -/
def mismatch (ok : SlotName → List Tag) (found : SlotName → List Tag) (sl : SlotName) : Option (Tag × Tag) :=
  match ok sl with
  | [] => none
  | t :: ts => ((found sl).find? (fun u => !(t :: ts).contains u)).map (fun u => (u, t))

end Sys2Proof.Spec

/-- R109, R106, R110, R127: an instruction below its mode traps PRIV with its own address; an instruction that computes lane by lane
and finds a slot with a tag that the slot does not accept traps FORMAT, its value holding the tag found in [3:0], the tag required
in [7:4] and the slot in [9:8]; an engine's instruction that the group's role does not allow traps ENGINE with its opcode and the
role. Nothing else of the instruction happens. Of several slots that fail, the first of A, B, C and D is reported, of a pair its low
register first, and of a slot that FORMAT marks the tag that FORMAT names (DESIGN CHOICE, log entry 96). -/
def Obligations.IssueFaults : Prop :=
  ∀ (s : State) (iss : Issue) (g : Group) (i : Instr), Spec.InHand s iss g →
    (iss.mode.num < (Spec.lowest i).num → Spec.AllTrap s iss g i 0x04 (BitVec.ofNat 64 iss.iaddr)) ∧
    (∀ (r : Spec.RowF) (n : Nat) (sl : SlotName) (u t : Tag),
      Spec.anyRow (Spec.registers s iss g i) s iss g i = some r →
      let fails := Spec.mismatch (r.ok (s.tagOf g iss i .a) (s.tagOf g iss i .b) (s.tagOf g iss i .c)) (Spec.found s iss g i)
      [SlotName.a, .b, .c, .d][n]? = some sl → fails sl = some (u, t) →
      (∀ m sl', m < n → [SlotName.a, .b, .c, .d][m]? = some sl' → fails sl' = none) →
      Spec.AllTrap s iss g i 0x05 (BitVec.ofNat 64 (u.num + 2 ^ 4 * t.num + 2 ^ 8 * n))) ∧
    (i.longSpace = true → iss.pfx.streams = [] → ¬ Spec.engineRole i g.role →
      Spec.AllTrap s iss g i 0x12 (BitVec.ofNat 64 (i.opcode + 2 ^ 8 + 2 ^ 9 * g.role)))

/-- R334, R332: a lane that takes a trap enters the handler of the lowest higher mode that has one: that mode's registers take
the state word with the resume address, the cause and the value; the mode, the address, the age, the yield and that mode's
passes change, and nothing else of the lane, the group's registers or memory does. Without a handler the lane has every effect
of `exit` at the resume address, its launch carries LANE_HALT unless an earlier error stands, and the management function receives
the record of R393, which may touch the group's monitor (R301). -/
def Obligations.TakingTraps : Prop :=
  ∀ (s : State) (gid j : Nat) (g : Group) (c : BitVec 8) (v : DWord) (resume : BitVec 48), s.group gid = some g →
    (∀ t vec, Spec.handler g (g.lane j).mode = some (t, vec) →
      ∃ g', (s.takeTrap gid j c v resume).group gid = some g' ∧ { g' with lanes := g.lanes } = g ∧
        (∀ k, g'.lane k = if k = j then Spec.inHandler (g.lane j) t (vec.setWidth 48) resume c v else g.lane k) ∧
        SameOutside s (s.takeTrap gid j c v resume) gid) ∧
    (Spec.handler g (g.lane j).mode = none →
      ∃ g' g'', g'' = (if Spec.ringTakes s.mgmt.halt = true ∧ g'.mon.state = .armed ∧ s.overdue g' = false ∧
          Spec.watches (Spec.ringAt s.mgmt.halt) 64 g' = true then Spec.touched g' else g') ∧
        (s.takeTrap gid j c v resume).group gid = some g'' ∧ { g' with lanes := g.lanes } = g ∧
        (g'.lane j).exited = true ∧ (g'.lane j).addr = resume ∧ (g'.lane j).mode = (g.lane j).mode ∧
        (∀ k, k ≠ j → g'.lane k = g.lane k) ∧
        (∀ l, s.launch g.launch = some l → ∃ l', (s.takeTrap gid j c v resume).launch g.launch = some l' ∧
          l'.error = (if l.error = 0 then 0x304 else l.error) ∧ l'.flags = l.flags ||| 3) ∧
        Spec.Leaves s (s.takeTrap gid j c v resume) gid g j ∧
        Spec.Reported s (s.takeTrap gid j c v resume)
          (Spec.haltBytes s.time { g.lane j with addr := resume, exited := false }.word v c j g.vi gid))

/-- R134: `exit` marks each guard-active lane as exited, at its own address, and returns the task slots that those lanes hold
reserved; its writes are those that its trigger waits for, and the armed barriers of its pieces are to lose it; no register and no
byte of memory changes. The last lane of a piece takes nothing from the piece's barrier (DEDUCED, log entry 102). -/
def Obligations.Exit : Prop :=
  ∀ (s : State) (iss : Issue) (g : Group) (x : Ext), Free s iss g (.exit x) .user (fun _ _ _ _ => []) none →
    ∃ s' g', exec (.exit x) s = .next s' ∧ s'.group iss.gid = some g' ∧
      { g' with lanes := g.lanes, meas := g.meas, lastIssue := g.lastIssue, freed := g.freed } = g ∧
      (g'.freed = true ↔ g.freed = true ∨ (g'.allExited = true ∧ g.ops = [])) ∧
      (∀ j ∈ g.activeLanes iss (.exit x), (g'.lane j).exited = true ∧ (g'.lane j).addr = (g.lane j).addr ∧
        (g'.lane j).mode = (g.lane j).mode ∧ (g'.lane j).flags = (g.lane j).flags) ∧
      (∀ j, j ∉ g.activeLanes iss (.exit x) → g'.lane j = g.endsAs iss j ((g.lane j).pass iss)) ∧
      (∀ l', s'.launch g.launch = some l' → ∃ l, s.launch g.launch = some l ∧ l' = { l with
        tasks := l.tasks.filter (fun t => decide (∀ j ∈ g.activeLanes iss (.exit x), t.2 ≠ .reserved iss.gid j)) }) ∧
      (∀ j ∈ g.activeLanes iss (.exit x), Spec.Leaves s s' iss.gid g j) ∧
      (∀ a l, s'.readByte a l = s.readByte a l)

/-- R345, R333: `sys` and `brk` trap every guard-active lane past its sequence. -/
def Sys2Proof.Spec.SystemCalls : Prop :=
  ∀ (s : State) (iss : Issue) (g : Group) (b : Imm8) (x : Ext), (trapMode g iss.mode).isSome = true →
    (Free s iss g (.sys b x) .user (fun _ _ _ _ => []) none →
      EndsIn s iss (.sys b x) s g (fun j => if j ∈ g.activeLanes iss (.sys b x) then
        (LaneEnd.trapPast 0x0C (b.setWidth 64)).move g iss (g.lane j) else (g.lane j).pass iss)) ∧
    (Free s iss g (.brk b x) .user (fun _ _ _ _ => []) none → iss.addr < 2 ^ 48 →
      EndsIn s iss (.brk b x) s g (fun j => if j ∈ g.activeLanes iss (.brk b x) then
        (LaneEnd.trapPast 0x0E (BitVec.ofNat 64 (iss.addr + 2 ^ 56 * b.toNat))).move g iss (g.lane j)
        else (g.lane j).pass iss))

/-- R346: `sret` and `hret` return each guard-active lane to the mode and address of its saved word, unless the word names a
mode above theirs, which traps PRIV. -/
def Sys2Proof.Spec.TrapReturns : Prop :=
  ∀ (s : State) (iss : Issue) (g : Group) (i : Instr), (∀ l, (Spec.savedWord i l).isSome = true) →
    Free s iss g i (Spec.lowest i) (fun _ _ _ _ => []) none →
    let w (j : Nat) : DWord := (Spec.savedWord i (g.lane j)).getD 0
    let above (j : Nat) : Prop := (Spec.lowest i).num < (w j).toNat / 2 ^ 48 % 4
    ((∀ j ∈ g.activeLanes iss i, ¬ above j) ∨ (trapMode g iss.mode).isSome = true) →
    ∃ s' g', exec i s = .next s' ∧ s'.group iss.gid = some g' ∧ SameGroup g g' ∧ SameOutside s s' iss.gid ∧
      (∀ j ∈ g.activeLanes iss i, ¬ above j → g'.lane j = g.endsAs iss j (Spec.returned (g.lane j) (w j))) ∧
      (∀ j ∈ g.activeLanes iss i, above j → g'.lane j = g.endsAs iss j ((LaneEnd.trap 0x04 (w j)).move g iss (g.lane j))) ∧
      (∀ j, j ∉ g.activeLanes iss i → g'.lane j = g.endsAs iss j ((g.lane j).pass iss))

/-- R76, R153: `smov`; `%time` lies within 2 ns of reference time and below no earlier reading of its lanes (R324). -/
def Sys2Proof.Spec.SpecialRegisters : Prop :=
  Spec.Completes Spec.specialRow ∧
  ∀ (s : State) (iss : Issue) (g : Group) (d : VReg) (x : Ext),
    let i : Instr := .smov d 0x80 x
    Free s iss g i .user (fun _ _ _ _ => []) none → g.activeLanes iss i ≠ [] →
    ∃ s' g' near t, exec i s = .next s' ∧ s'.group iss.gid = some g' ∧ s.time ≤ near + 2 ∧ near ≤ s.time + 2 ∧
      t = (g.activeLanes iss i).foldl (fun m j => max m (g.lane j).lastTime.toNat) near ∧
      DestIs s g g' iss i (g.activeLanes iss i) (fun _ => BitVec.ofNat 64 t) ∧ DestTag s g g' iss i .n64 ∧
      SameButD s g g' iss i (g.activeLanes iss i) ∧
      (∀ j ∈ g.activeLanes iss i, (g'.lane j).lastTime = BitVec.ofNat 64 t ∧ (g'.lane j).addr = ((g.lane j).pass iss).addr) ∧
      (∀ a l, s'.readByte a l = s.readByte a l)

/-- R152, R231: `mov.64` copies a pair, each register with the tag of its own source; `fflag` reads the sticky flags of each
guard-active lane and then clears those that slot B names. -/
def Sys2Proof.Spec.PairMoveAndFlags : Prop :=
  ∀ (s : State) (iss : Issue) (g : Group),
    (∀ (d : DReg) (b : SrcD) (x : Ext),
      let i : Instr := .mov64 d b x
      Free s iss g i .user (fun _ _ _ _ => []) none →
      ∃ s' g', exec i s = .next s' ∧ s'.group iss.gid = some g' ∧
        DestIs s g g' iss i (g.activeLanes iss i) (fun j => (s.slots g iss i).b.read64 g iss.mode j) ∧
        LanesPass g g' iss ∧ SameButD s g g' iss i (g.activeLanes iss i) ∧ SameOutside s s' iss.gid ∧
        (∀ n, (s.slots g iss i).d = .pair n → match iss.pfx.formatted .d, iss.pfx.formatted .b, (s.slots g iss i).b with
          | some t, _, _ => g'.tag iss.mode n = t ∧ g'.tag iss.mode (n + 1) = t
          | none, _, .k _ _ => g'.tag iss.mode n = .raw ∧ g'.tag iss.mode (n + 1) = .raw
          | none, some t, _ => g'.tag iss.mode n = t ∧ g'.tag iss.mode (n + 1) = t
          | none, none, .pair m => g'.tag iss.mode n = g.tag iss.mode m ∧ g'.tag iss.mode (n + 1) = g.tag iss.mode (m + 1)
          | none, none, _ => g'.tag iss.mode n = .raw ∧ g'.tag iss.mode (n + 1) = .raw)) ∧
    (∀ (d : VReg) (b : Src) (x : Ext),
      let i : Instr := .fflag d b x
      Free s iss g i .user (fun _ _ _ _ => []) none →
      EndsWith s iss i s g (fun j => ((if j ∈ g.activeLanes iss i then { g.lane j with
          flags := (g.lane j).flags &&& ~~~(BitVec.ofNat 5 ((s.slots g iss i).b.read32 g iss.mode j).toNat) }
        else g.lane j).pass iss)) (g.activeLanes iss i) (fun j => (g.lane j).flags.setWidth 64) .n32)

/-- R336, R347: the reads of the system class; a control register of hypervisor mode traps PRIV below it, with its number. -/
def Sys2Proof.Spec.SystemReads : Prop :=
  (∀ (s : State) (iss : Issue) (g : Group) (i : Instr) (r : Spec.Row), Spec.systemRow s iss g i = some r →
    Spec.withinReach i iss.mode → Free s iss g i .supervisor r.ok none → Computes s iss g i r.val r.tag) ∧
  (∀ (s : State) (iss : Issue) (g : Group) (d a : DReg) (x : Ext), Free s iss g (.tprobe d a x) .supervisor (fun _ _ _ _ => []) none →
    (∃ j ∈ g.activeLanes iss (.tprobe d a x),
      Spec.stalls s iss g (.tprobe d a x) j ((s.slots g iss (.tprobe d a x)).a.read64 g iss.mode j) = true) →
    exec (.tprobe d a x) s = .next { s with issue := none }) ∧
  ∀ (s : State) (iss : Issue) (g : Group) (i : Instr) (n : Imm8), Spec.hyperReg n.toNat → iss.mode ≠ .hypervisor →
    ((∃ d x, i = .ctlrd d n x) ∨ (∃ a x, i = .ctlwr a n x)) → Free s iss g i .supervisor (fun _ _ _ _ => []) none →
    (trapMode g iss.mode).isSome = true → g.activeLanes iss i = iss.lanes →
    Spec.AllTrap s iss g i 0x04 (n.setWidth 64)

/-- R336, R347: `ctlwr` writes a per-lane register in each guard-active lane, and a register of the group or of its core once,
from the lowest of them; `evclr` zeroes the counters that its word names. -/
def Sys2Proof.Spec.SystemWrites : Prop :=
  ∀ (s : State) (iss : Issue) (g : Group),
    (∀ (a : DReg) (n : Imm8) (x : Ext),
      let i : Instr := .ctlwr a n x
      let v (j : Nat) : DWord := (s.slots g iss i).a.read64 g iss.mode j
      ctlListed n = true → Spec.withinReach i iss.mode → Free s iss g i .supervisor (fun _ _ _ _ => []) none →
      (n.toNat < 0x10 → EndsIn s iss i s g (fun j =>
        ((if j ∈ g.activeLanes iss i then Spec.laneReg (g.lane j) n.toNat (v j) else g.lane j).pass iss))) ∧
      (∀ j, 0x10 ≤ n.toNat → (g.activeLanes iss i).head? = some j →
        EndsIn s iss i (Spec.coreReg s g n.toNat (v j)) (Spec.groupReg g n.toNat (v j)) (fun k => (g.lane k).pass iss))) ∧
    (∀ (b : KReg) (x : Ext),
      let i : Instr := .evclr b x
      Free s iss g i .supervisor (fun _ _ _ _ => []) none → g.activeLanes iss i ≠ [] →
      EndsIn s iss i s g (fun j => (g.lane j).pass iss) ∧ ∃ s', exec i s = .next s' ∧
        ∀ n, n < 8 → (tblGet (s.core g.core).evsel 0 n).getLsbD 8 = false → tblGet (s'.core g.core).evc 0 n =
          if (g.kGet b.toNat).getLsbD n then 0 else tblGet (s.core g.core).evc 0 n)

/-- R347, R177, R182: `tinv` issues an invalidation, counted in ST (with no guard-active lane it is counted and does nothing,
R125), or traps: PRIV where it names stage 2 below hypervisor mode, ACCESS for any other breach; `einj` marks lines for their
next read; `lhalt` halts its lanes (R334). That an injected error waits for the next read of its line, whoever makes it, is the
model's choice (DESIGN CHOICE, log entry 91). -/
def Obligations.InvalidationsAndInjection : Prop :=
  ∀ (s : State) (iss : Issue) (g : Group),
    (∀ (b : KReg) (x : Ext),
      let i : Instr := .tinv b x
      let w := g.kGet b.toNat
      Free s iss g i .supervisor (fun _ _ _ _ => []) (some .st) →
      (g.activeLanes iss i = [] → EndsIn s iss i s (Spec.withEmpty g .st) (fun j => (g.lane j).pass iss)) ∧
      (g.activeLanes iss i ≠ [] →
      let traps (c : BitVec 8) : Prop := EndsIn s iss i s g (fun j =>
        if j ∈ g.activeLanes iss i then (LaneEnd.trap c w).move g iss (g.lane j) else (g.lane j).pass iss)
      (w.getLsbD 2 = true → iss.mode ≠ .hypervisor → (trapMode g iss.mode).isSome = true → traps 0x04) ∧
      ((w.getLsbD 2 = true → iss.mode = .hypervisor) → Spec.invalidation iss g w = none → (trapMode g iss.mode).isSome = true →
        traps 0x09) ∧
      (∀ v, (w.getLsbD 2 = true → iss.mode = .hypervisor) → Spec.invalidation iss g w = some v →
        EndsIn s iss i { s with invals := tblSet s.invals s.nextId v, nextId := s.nextId + 1 }
          (Spec.withOp g .st (.tinv s.nextId)) (fun j => (g.lane j).pass iss)))) ∧
    (∀ (a : DReg) (k : BitVec 1) (x : Ext) (s1 : State) (g1 : Group) (oks : List (Nat × Loc × DWord)),
      let i : Instr := .einj a k x
      Free s iss g i .hypervisor (fun _ _ _ _ => []) none →
      s.accessLanes (s.plainCtx iss g i) (Spec.seenBy iss g i) 1 1 { w := true }
        ((g.activeLanes iss i).map (fun j => (j, (s.slots g iss i).a.read64 g iss.mode j))) = (s1, [], oks) →
      s1.group iss.gid = some g1 →
      EndsIn s iss i (oks.foldl (fun s p => Spec.marked s k.toNat p.2.1) s1) g1 (fun j => (g1.lane j).pass iss)) ∧
    (∀ (x : Ext), Free s iss g (.lhalt x) .hypervisor (fun _ _ _ _ => []) none →
      ∃ s' g', exec (.lhalt x) s = .next s' ∧ s'.group iss.gid = some g' ∧
        { g' with lanes := g.lanes, meas := g.meas, lastIssue := g.lastIssue, freed := g.freed } = g ∧
        (∀ j ∈ g.activeLanes iss (.lhalt x), (g'.lane j).exited = true ∧ (g'.lane j).addr = BitVec.ofNat 48 iss.addr ∧
          (g'.lane j).mode = (g.lane j).mode) ∧
        (∀ j, j ∉ g.activeLanes iss (.lhalt x) → g'.lane j = g.endsAs iss j ((g.lane j).pass iss)) ∧
        (∀ l, s.launch g.launch = some l → g.activeLanes iss (.lhalt x) ≠ [] → ∃ l', s'.launch g.launch = some l' ∧
          l'.error = (if l.error = 0 then 0x304 else l.error) ∧ l'.flags = l.flags ||| 3) ∧
        (∀ j ∈ g.activeLanes iss (.lhalt x), Spec.Leaves s s' iss.gid g j))

/-- R125, R343: `hcall` with no guard-active lane is counted and does nothing; it traps HOSTCALL without a host-call ring and is
blocked by a full one; else its lanes move on and every live lane of the group is parked; once what the group wrote before has
performed at HOST, the record goes to its ring with the vector; and HDONE gives K[d] the result and lets those lanes go on, at
once or, of a group that is not resident, when it is. That the record waits where its slot cannot be written, and that HDONE is
ignored where RESULT cannot be read, are the model's reading (DEDUCED, log entry 30). -/
def Obligations.HostCalls : Prop :=
  ∀ (s : State),
    (∀ (iss : Issue) (g : Group) (d : KReg) (b : Imm8) (x : Ext),
      let i : Instr := .hcall d b x
      let v := s.vi g.vi
      let full : Prop := 2 ^ (v.hctl.toNat % 32) ≤ (v.htail - v.hhead).toNat
      Free s iss g i .user (fun _ _ _ _ => []) (some .st) →
      (g.activeLanes iss i = [] → EndsIn s iss i s (Spec.withEmpty g .st) (fun j => (g.lane j).pass iss)) ∧
      (g.activeLanes iss i ≠ [] →
      (v.hctl.getLsbD 8 = false → (trapMode g iss.mode).isSome = true → EndsIn s iss i s g (fun j =>
        if j ∈ g.activeLanes iss i then (LaneEnd.trap 0x0D (b.setWidth 64)).move g iss (g.lane j) else (g.lane j).pass iss)) ∧
      (v.hctl.getLsbD 8 = true → full → exec i s = .next { s with issue := none }) ∧
      (v.hctl.getLsbD 8 = true → ¬ full →
        let live := (List.range 32).filter (fun j => (g.lane j).live)
        let mask (ls : List Nat) : LaneMask := BitVec.ofNat 32 ((ls.map (2 ^ ·)).sum)
        let g1 : Group := { g with
          lanes := live.foldl (fun t j => tblSet t j { g.lane j with park := .hostcall }) g.lanes
          hostcall := { waiting := true, seq := 0, kd := d, lanes := mask live } }
        EndsIn s iss i s (Spec.withOp g1 .st (.hcall b iss.mode (mask (g.activeLanes iss i))
          ((List.range 4).map (fun n => g.kGet (d.toNat + n))) d.toNat (s.ownWrites iss.gid)))
          (fun j => (g1.lane j).pass iss)))) ∧
    (∀ (gid : Nat) (g : Group) (o : Op) (imm : BitVec 8) (m : Mode) (lanes : LaneMask) (args : List DWord) (kd : Nat)
        (ws : List Nat) (s1 : State) (w : Nat),
      let v := s.vi g.vi
      s.awake gid = some g →
      g.firstOp (fun o => match o.kind with
        | .hcall _ _ _ _ _ ws => ws.all (fun w => s.performed w 6)
        | _ => false) = some o → o.kind = .hcall imm m lanes args kd ws →
      (v.htail - v.hhead).toNat < 2 ^ (v.hctl.toNat % 32) → s.exhausted g.leaf 5 = false →
      s.frontWrite g.leaf g.vi g.launch (v.hbase.toNat / 64 * 64 + v.htail.toNat % 2 ^ (v.hctl.toNat % 32) * 64)
        (leBytes 4 v.htail.toNat ++ [imm, BitVec.ofNat 8 m.num, 0, 0] ++ leBytes 8 gid ++ leBytes 4 lanes.toNat ++
          [0, 0, 0, 0] ++ args.flatMap (fun a => leBytes 8 a.toNat)) = .ok (s1, w) →
      ∃ s' g', exec (.hostcallRecordWrite gid) s = .next s' ∧ s'.group gid = some g' ∧
        s'.flight = s1.flight ∧ s'.mem = s1.mem ∧ (s'.vi g.vi).htail = v.htail + 1 ∧
        (s'.vi g.vi).msix = v.msix ++ (if v.hctl.toNat / 4096 % 256 ≤ 64 then [v.hctl.toNat / 4096 % 256] else []) ∧ g'.hostcall.seq = v.htail ∧
        (∀ p ∈ g'.ops, p.id = o.id → p.ended = true)) ∧
    (∀ (vi gid : Nat) (seq : BitVec 32) (g : Group) (bs : List Byte),
      s.groups.find? (fun p => p.2.awaitsCall vi seq) = some (gid, g) → s.group gid = some g → g.resident = true →
      (s.frontLoad g.leaf g.vi g.launch
        ((s.vi g.vi).hbase.toNat / 64 * 64 + seq.toNat % 2 ^ ((s.vi g.vi).hctl.toNat % 32) * 64 + 0x38) 8).2 = some bs →
      ∃ s' g', exec (.hdoneWrite vi seq) s = .next s' ∧ s'.group gid = some g' ∧ (s'.vi vi).hdone = seq ∧
        (∀ n, n < 64 → g'.kGet n = if n = g.hostcall.kd.toNat then BitVec.ofNat 64 (leNat bs) else g.kGet n) ∧
        g'.v = g.v ∧ g'.p = g.p ∧ g'.hostcall.waiting = false ∧
        (∀ j, g'.lane j = if g.hostcall.lanes.getLsbD j = true ∧ (g.lane j).park = .hostcall then
          { g.lane j with park := .none } else g.lane j)) ∧
    (∀ (vi gid : Nat) (seq : BitVec 32) (g : Group),
      s.groups.find? (fun p => p.2.awaitsCall vi seq) = some (gid, g) → s.group gid = some g → g.resident = false →
      ∃ s', exec (.hdoneWrite vi seq) s = .next s' ∧ (s'.vi vi).hdone = seq ∧
        s'.group gid = some { g with hostcall := { g.hostcall with held := true } })

/-- R333, R345, R346: calls that trap, and returns from traps. -/
def Obligations.CallsAndReturns : Prop := Spec.SystemCalls ∧ Spec.TrapReturns

/-- R76, R152, R153, R231, R324: special registers, pair moves and sticky flags. Which of the values within 2 ns %time reads is
a free value (DESIGN CHOICE, log entry 10). -/
def Obligations.SpecialAndPairs : Prop := Spec.SpecialRegisters ∧ Spec.PairMoveAndFlags

/-- R336, R347: the reads and the writes of the system class. That the reserved bits of the operand of `evclr` are ignored is
the model's reading (DEDUCED, log entry 31). -/
def Obligations.ControlRegisters : Prop := Spec.SystemReads ∧ Spec.SystemWrites

namespace Sys2Proof.Spec

/-! ### Copies (R196 to R200, R168) -/

/-- The descriptor of a `cp` in four K words, and its credit word (R196). -/
def copyDesc (g : Group) (iss : Issue) (i : Instr) (a : KReg) (credit : DWord) (sc : Nat) : CopyOp where
  src := g.kGet a.toNat
  dst := g.kGet (a.toNat + 1)
  rows := ((g.kGet (a.toNat + 2)).extractLsb' 32 16).toNat
  rowBytes := ((g.kGet (a.toNat + 2)).extractLsb' 0 32).toNat
  sstride := ((g.kGet (a.toNat + 3)).extractLsb' 0 32).toInt
  dstride := ((g.kGet (a.toNat + 3)).extractLsb' 32 32).toInt
  credit := if credit.getLsbD 32 then some (credit.extractLsb' 0 32) else none
  scope := max sc 2
  mode := iss.mode
  lane := (g.activeLanes iss i).headD 0
  done := []
  writes := []
  ended := false
  suspended := false
  pageTag := none
  answered := false
  credited := 0

/-- One end of a copy passes orders 1 to 3 of R197: GLOBAL, or a tile the group may use with its first and last row inside. -/
def endOk (s : State) (gid : Nat) (g : Group) (a : DWord) (stride : Int) (c : CopyOp) : Prop :=
  let fits (off lim : Nat) : Prop :=
    let z : Int := off + stride * (c.rows - 1)
    off + c.rowBytes ≤ lim ∧ 0 ≤ z ∧ z + c.rowBytes ≤ lim
  a.toNat % 16 = 0 ∧ stride % 16 = 0 ∧
    ((wellFormed 0 a = true ∧ fits a.toNat (2 ^ 48)) ∨
      ((wellFormed 2 a = true ∨ wellFormed 3 a = true) ∧ fits (a.toNat % 2 ^ 24) (2 ^ 24) ∧
        ∃ t, s.tileFor gid g (wellFormed 3 a) (a.toNat / 2 ^ 24 % 2 ^ 32) = some t ∧ fits (a.toNat % 2 ^ 24) t.size))

/-- The handle of the tile that a generic address names. -/
def tileNamed (a : DWord) : Option Nat :=
  if wellFormed 2 a || wellFormed 3 a then some (a.toNat / 2 ^ 24 % 2 ^ 32) else none

/-- The state with the state of the tile of an address, if it names one, changed. -/
def tileState (s : State) (a : DWord) (f : TileState → TileState) : State :=
  match tileNamed a with
  | none => s
  | some h => match tblFind s.tiles h with
    | none => s
    | some t => { s with tiles := tblSet s.tiles h { t with state := f t.state } }

/-- States of R168: a tile that one more copy leaves, or comes into; none where it blocks. -/
def leaving : TileState → Option TileState
  | .ready => some (.draining 1)
  | .draining n => some (.draining (n + 1))
  | .filling _ => none
def entering : TileState → Option TileState
  | .ready => some (.filling 1)
  | .filling n => some (.filling (n + 1))
  | .draining _ => none

/-- The tile of an address does not block the copy (R168). -/
def tileFree (s : State) (a : DWord) (f : TileState → Option TileState) : Prop :=
  ∀ h t, tileNamed a = some h → tblFind s.tiles h = some t → (f t.state).isSome = true

/-- SCOPE of a long form; none in a short one. -/
def scopeField (x : ExtS) : Nat :=
  match x with
  | .short => 0
  | .long sc _ => sc.toNat

/-! ### Barriers (R290 to R299) -/

/-- A change completes a phase where the arrivals and the bytes are all there (R292). -/
def settled (exparr : Nat) (b : Barrier) : Barrier :=
  if b.exparr ≤ b.arr ∧ b.expb ≤ b.landb ∧ (0 < b.exparr ∨ b.exparr < exparr) then
    { b with phase := b.phase + 1, arr := b.arr - b.exparr, expb := 0, landb := 0 }
  else b

/-- What a change makes of an object (R297); none where it is discarded. -/
def changed (b : Barrier) (a : BarAsk) : Option Barrier :=
  match a with
  | .arrive n => some (settled b.exparr { b with arr := b.arr + n })
  | .drop n => some (settled b.exparr { b with exparr := b.exparr - n })
  | .expect n _ => if 2 ^ 24 ≤ b.expb + n then none else some (settled b.exparr { b with expb := b.expb + n })

/-- What a barrier instruction asks of its object (R297). -/
def asked (iss : Issue) (g : Group) (i : Instr) : Option (KReg × BarAsk) :=
  match i with
  | .arrive b _ => some (b, .arrive (g.activeLanes iss i).length)
  | .bdrop b _ => some (b, .drop (g.activeLanes iss i).length)
  | .expect a b _ => some (b, .expect ((g.kGet a.toNat).toNat % 2 ^ 24) (g.kGet a.toNat))
  | _ => none

/-- `expect` of a word that R297 refuses: its reserved bits, or more than the object counts. -/
def overAsk (s : State) (h : Nat) (pkg : Option Nat) : BarAsk → Prop
  | .expect n v => 2 ^ 24 ≤ v.toNat ∨ (pkg = none ∧ ∃ b, tblFind s.barriers h = some b ∧ 2 ^ 24 ≤ b.expb + n)
  | _ => False

/-- A request word and level that `balloc` accepts (R299). -/
def runOk (l : Launch) (k : Nat) (w : DWord) : Prop :=
  w.toNat < 2 ^ 40 ∧ w.extractLsb' 28 4 = 0 ∧ 1 ≤ w.toNat / 2 ^ 32 ∧ w.toNat / 2 ^ 32 ≤ 64 ∧ w.extractLsb' 0 28 ≠ 0 ∧
    k ≠ 0 ∧ k < l.nlevel ∧ l.barrier k = true

/-- An object with `n` landed bytes credited to it, one change each (R199, R290, R292). -/
def landed : Nat → Barrier → Barrier
  | 0, b => b
  | n + 1, b => landed n (settled b.exparr { b with landb := min (b.landb + 1) 0xFFFFFF })

/-- Landed bytes have been credited to an object, and to no other (R199). -/
def credited (s s' : State) (h n : Nat) : Prop :=
  (∀ b, tblFind s.barriers h = some b → tblFind s'.barriers h = some (landed n b)) ∧
    ∀ k, k ≠ h → tblFind s'.barriers k = tblFind s.barriers k

/-- The same, where a copy has a barrier at all. -/
def creditedTo (s s' : State) (h : Option (BitVec 32)) (n : Nat) : Prop :=
  match h with
  | none => s'.barriers = s.barriers
  | some h => credited s s' h.toNat n

end Sys2Proof.Spec

/-- R125, R196, R197, R168: a `cp` with no guard-active lane is counted in CP and does nothing; one whose descriptor passes the checks and whose tiles do not block it is counted in CP, its source
tile draining and its destination tile filling; a breach of the first check traps ACCESS with the source address. -/
def Sys2Proof.Spec.CopyIssue : Prop :=
  ∀ (s : State) (iss : Issue) (g : Group) (a b : KReg) (x : ExtS),
    let i : Instr := .cp a b x
    let g' := Spec.seenBy iss g i
    let w := g.kGet b.toNat
    let c := Spec.copyDesc g iss i a w (Spec.scopeField x)
    let shape : Prop := g.kGet (a.toNat + 2) < 2 ^ 48 ∧ w < 2 ^ 33 ∧ c.rows ≠ 0 ∧ 16 ≤ c.rowBytes ∧ c.rowBytes ≤ 2 ^ 24 ∧
      c.rowBytes % 16 = 0
    Free s iss g i .user (fun _ _ _ _ => []) (some .cp) →
    (g.activeLanes iss i = [] → EndsIn s iss i s (Spec.withEmpty g .cp) (fun j => (g.lane j).pass iss)) ∧
    (g.activeLanes iss i ≠ [] →
    (shape → Spec.endOk s iss.gid g' c.src c.sstride c → Spec.endOk s iss.gid g' c.dst c.dstride c →
      (Spec.tileNamed c.src = none ∨ Spec.tileNamed c.src ≠ Spec.tileNamed c.dst) →
      (∀ h, c.credit = some h → s.ownBarrier iss.gid g' h.toNat = true) →
      Spec.tileFree s c.src Spec.leaving → Spec.tileFree s c.dst Spec.entering →
      EndsIn s iss i (Spec.tileState (Spec.tileState s c.src (fun t => (Spec.leaving t).getD t)) c.dst
          (fun t => (Spec.entering t).getD t))
        (Spec.withOp g .cp (.copy c)) (fun j => (g.lane j).pass iss)) ∧
    (¬ shape → (trapMode g iss.mode).isSome = true →
      EndsIn s iss i s g (fun j => if j ∈ g.activeLanes iss i then (LaneEnd.trap 0x09 c.src).move g iss (g.lane j)
        else (g.lane j).pass iss)))

/-- R62, R198, R199, R200, R285, R352: a byte of a copy is read from its place at one step and written at a later one, in memory, where
it enters the core's own buffer, or in a tile; at a step after that, once it has performed, it is credited; COPY_RETIRE ends a copy
whose bytes have performed and credits what is left, its tiles losing it. -/
def Sys2Proof.Spec.CopyProgress : Prop :=
  ∀ (s : State) (gid : Nat) (g : Group) (o : Op) (c : CopyOp), s.awake gid = some g → g.resident = true → o.kind = .copy c →
    (∀ (n : Nat) (src : Loc) (es : List TlbEntry), g.op o.id = some o → o.ended = false → c.ended = false → c.suspended = false →
      n < c.total → n ∉ c.done → tblFind c.data n = none → s.exhausted g.leaf 3 = false →
      s.copyPlace g c.mode (c.srcAt n) { r := true } = .ok (src, es) → Spec.clean s src → s.memoryStalls g.leaf src = false →
      ∃ s' g', exec (.copyByteTransfer gid o.id n) s = .next s' ∧ s'.group gid = some g' ∧ g'.v = g.v ∧ g'.k = g.k ∧
        g'.op o.id = some { o with kind := .copy { c with data := tblSet c.data n (s.readByte (g.agent gid) src).1 } } ∧
        (∀ a l, s'.readByte a l = s.readByte a l) ∧ s'.barriers = s.barriers) ∧
    (∀ (n : Nat) (x : Byte) (dst : Loc) (es : List TlbEntry), g.op o.id = some o → o.ended = false → c.ended = false →
      c.suspended = false → n < c.total → n ∉ c.done → tblFind c.data n = some x → s.exhausted g.leaf 3 = false →
      s.copyPlace g c.mode (c.dstAt n) { w := true } = .ok (dst, es) →
      (∀ h k, dst = .tile h k → (tblFind s.tiles h).isSome = true ∧ ∀ w ∈ s.flight, w.level = 0 ∨ w.at? dst = none) →
      ∃ s' g' c', exec (.copyByteTransfer gid o.id n) s = .next s' ∧ s'.group gid = some g' ∧ g'.v = g.v ∧ g'.k = g.k ∧
        g'.op o.id = some { o with kind := .copy c' } ∧ c'.done = c.done ++ [n] ∧ c'.data = tblErase c.data n ∧
        c'.credited = c.credited ∧ s'.barriers = s.barriers ∧
        (s'.readByte ⟨none, some g.core, none⟩ dst).1 = x ∧ (∀ l, l ≠ dst → (s'.readByte hub l).1 = (s.readByte hub l).1) ∧
        (match dst with
          | .sys _ => ∃ w ∈ s'.flight, c'.writes = c.writes ++ [w.id] ∧ w.level = 1 ∧ w.bytes = [(dst, x)] ∧ w.by_ = gid
          | _ => c'.writes = c.writes)) ∧
    (∀ n, g.op o.id = some o → o.ended = false → n ∈ c.done →
      let performed := c.done.length - (c.writes.filter (fun w => !s.performed w (retireLevel c.scope))).length
      ((c.credit = none ∨ performed ≤ c.credited ∨ s.creditAsleep c = true) → exec (.copyByteTransfer gid o.id n) s = .next s) ∧
      (∀ b, c.credit = some b → c.credited < performed → s.creditAsleep c = false →
        ∃ s' g', exec (.copyByteTransfer gid o.id n) s = .next s' ∧ Spec.credited s s' b.toNat 1 ∧ s'.group gid = some g' ∧
          g'.op o.id = some { o with kind := .copy { c with credited := c.credited + 1 } } ∧ g'.lanes = g.lanes ∧ g'.v = g.v ∧
          g'.k = g.k ∧ s'.mem = s.mem ∧ s'.flight = s.flight ∧ s'.tiles = s.tiles)) ∧
    (g.firstOp (fun o => match o.kind with
        | .copy c => !c.suspended && (c.ended || c.done.length == c.total) &&
            c.writes.all (fun w => s.performed w (retireLevel c.scope)) && !s.creditAsleep c
        | _ => false) = some o →
      ∃ s' g', exec (.copyRetire gid) s = .next s' ∧ s'.group gid = some g' ∧ (∀ p ∈ g'.ops, p.id = o.id → p.ended = true) ∧
        g'.v = g.v ∧ g'.k = g.k ∧ g'.lanes = g.lanes ∧ s'.mem = s.mem ∧ s'.flight = s.flight ∧
        Spec.creditedTo s s' c.credit (c.total - c.credited) ∧
        s'.tiles = (Spec.tileState (Spec.tileState s c.src (fun t => match t with
          | .ready => .ready
          | .filling n => if n ≤ 1 then .ready else .filling (n - 1)
          | .draining n => if n ≤ 1 then .ready else .draining (n - 1))) c.dst (fun t => match t with
          | .ready => .ready
          | .filling n => if n ≤ 1 then .ready else .filling (n - 1)
          | .draining n => if n ≤ 1 then .ready else .draining (n - 1))).tiles)

/-- R125, R293, R296, R297: `arrive`, `bdrop` and `expect` with no guard-active lane are counted in ST and do nothing; else they send their change, which covers what the group has issued, and count it in
ST; a word that names no object of the group, or that R297 refuses, traps BARRIER. -/
def Sys2Proof.Spec.BarrierChanges : Prop :=
  ∀ (s : State) (iss : Issue) (g : Group) (i : Instr) (b : KReg) (q : BarAsk), Spec.asked iss g i = some (b, q) →
    let w := g.kGet b.toNat
    let g' := Spec.seenBy iss g i
    let traps (v : DWord) : Prop := (trapMode g iss.mode).isSome = true → EndsIn s iss i s g (fun j =>
      if j ∈ g.activeLanes iss i then (LaneEnd.trap 0x11 v).move g iss (g.lane j) else (g.lane j).pass iss)
    Free s iss g i .user (fun _ _ _ _ => []) (some .st) →
    (g.activeLanes iss i = [] → EndsIn s iss i s (Spec.withEmpty g .st) (fun j => (g.lane j).pass iss)) ∧
    (g.activeLanes iss i ≠ [] →
    (s.barrierFor iss.gid g' w = none → traps w) ∧
    ∀ h pkg, s.barrierFor iss.gid g' w = some (h, pkg) →
      (∀ n v, q = .expect n v → Spec.overAsk s h pkg q → traps v) ∧
      (¬ Spec.overAsk s h pkg q →
        EndsIn s iss i { s with
            nextId := s.nextId + 1,
            changes := tblSet s.changes s.nextId {
              gid := iss.gid, op := some g.nextOp, handle := h, pkg := pkg, ask := q,
              cover := { writes := s.ownWrites iss.gid ++ g.seen ++ g.fwaited, loads := g.unread },
              scope := s.barrierScope h pkg
              leaf := g.leaf } }
          (Spec.withOp g .st (.barrier s.nextId)) (fun j => (g.lane j).pass iss)))

/-- R291, R298: `bwait` is blocked while the phase of its object has the parity of its word, and `bphase` reads the phase; a
word that names no object of the group traps BARRIER. -/
def Sys2Proof.Spec.BarrierReads : Prop :=
  ∀ (s : State) (iss : Issue) (g : Group),
    (∀ (b : KReg) (x : Ext),
      let i : Instr := .bwait b x
      let w := g.kGet b.toNat
      Free s iss g i .user (fun _ _ _ _ => []) none → g.activeLanes iss i ≠ [] →
      (s.barrierFor iss.gid (Spec.seenBy iss g i) w = none → (trapMode g iss.mode).isSome = true →
        EndsIn s iss i s g (fun j => if j ∈ g.activeLanes iss i then (LaneEnd.trap 0x11 w).move g iss (g.lane j)
          else (g.lane j).pass iss)) ∧
      ∀ h pkg, s.barrierFor iss.gid (Spec.seenBy iss g i) w = some (h, pkg) →
        ((s.phaseOf h pkg).getLsbD 0 = w.getLsbD 32 → exec i s = .next { s with issue := none }) ∧
        ((s.phaseOf h pkg).getLsbD 0 ≠ w.getLsbD 32 → EndsIn s iss i s g (fun j => (g.lane j).pass iss))) ∧
    (∀ (d : VReg) (b : KReg) (x : Ext) (h : Nat) (pkg : Option Nat),
      let i : Instr := .bphase d b x
      Free s iss g i .user (fun _ _ _ _ => []) none → g.activeLanes iss i ≠ [] →
      s.barrierFor iss.gid (Spec.seenBy iss g i) (g.kGet b.toNat) = some (h, pkg) →
      EndsWith s iss i s g (fun j => (g.lane j).pass iss) (g.activeLanes iss i) (fun _ => (s.phaseOf h pkg).setWidth 64) .n32)

/-- R82, R299: `balloc` with no guard-active lane is counted in TX and does nothing; of a new key it waits in the queue of its store; a request that R299 refuses traps BARRIER; BARRIER_RUN_GRANT
gives the head of a queue free objects of phase 0, beside those kept for a waiting gang, each expecting the arrivals asked for, and
K[d] the word of the first. -/
def Obligations.BarrierRuns : Prop :=
  ∀ (s : State) (g : Group) (l : Launch), s.launch g.launch = some l →
    (∀ (iss : Issue) (d a : KReg) (k : BitVec 3) (x : Ext) (ow : Owner),
      let i : Instr := .balloc d a k x
      let w := g.kGet a.toNat
      let g' := Spec.seenBy iss g i
      Free s iss g i .user (fun _ _ _ _ => []) (some .tx) →
      (g.activeLanes iss i = [] → EndsIn s iss i s (Spec.withEmpty g .tx) (fun j => (g.lane j).pass iss)) ∧
      (g.activeLanes iss i ≠ [] →
      g'.ownerAt iss.gid k.toNat = some ow →
      (¬ Spec.runOk l k.toNat w → (trapMode g iss.mode).isSome = true →
        EndsIn s iss i s g (fun j => if j ∈ g.activeLanes iss i then (LaneEnd.trap 0x11 w).move g iss (g.lane j)
          else (g.lane j).pass iss)) ∧
      (Spec.runOk l k.toNat w → s.runOf ow d.toNat = none → s.runPending ow d.toNat = none → podBound g' l k.toNat = false →
        let u := s.runUnit g' l k.toNat
        EndsIn s iss i { s with waits := s.waits ++ [{ gid := iss.gid, op := g.nextOp, lvl := u.1, unit := u.2 }] }
          (Spec.withOp g .tx (.balloc d.toNat ow w k.toNat)) (fun j => (g.lane j).pass iss)))) ∧
    (∀ (lvl : Bool) (unit index k kd : Nat) (q : StoreWait) (ow : Owner) (w : DWord),
      s.ballocHead lvl unit = some (q, kd, ow, w, k) → s.awake q.gid = some g → s.barAsleep (handleAt lvl unit index) = false →
      (s.barriers.filter (fun p => handleLvl p.1 == lvl.toNat && handleUnit p.1 == unit)).length + w.toNat / 2 ^ 32 % 256 +
        s.gangObjects (if lvl then 4 * unit else unit) ≤ (if lvl then 2048 else 512) →
      s.runOf ow kd = none → q.pkg = none → kd < 64 →
      podBound g l k = false → index + w.toNat / 2 ^ 32 % 256 ≤ (if lvl then 2048 else 512) →
      (∀ n, n < w.toNat / 2 ^ 32 % 256 → tblFind s.barriers (handleAt lvl unit index + n) = none) →
      ∃ s' g', exec (.barrierRunGrant lvl unit index) s = .next s' ∧ s'.group q.gid = some g' ∧
        (∀ n, n < 64 → g'.kGet n = if n = kd then BitVec.ofNat 64 (handleAt lvl unit index) else g.kGet n) ∧
        (∀ p ∈ g'.ops, p.id = q.op → p.ended = true) ∧ g'.v = g.v ∧ g'.lanes = g.lanes ∧
        (∀ h, tblFind s'.barriers h = if handleAt lvl unit index ≤ h ∧ h < handleAt lvl unit index + w.toNat / 2 ^ 32 % 256 then
          some { owner := ow, leaf := g.leaf, scope := BitVec.ofNat 4 (l.scope k), far := none, exparr := w.toNat % 2 ^ 28 }
          else tblFind s.barriers h))

/-- R62, R292, R293, R294, R297: a change whose cover has performed is applied to its object, a phase that completes being sent
to the other packages of the piece, or sent to the object's package; a packet is applied once, however often it comes, and
acknowledged, with 1 where it was discarded; a change or a phase is sent again until it is; what is sent waits while the fabric
budget of its leaf is used up. Which packages a piece has groups on, and that a mirror takes phases in the order in which they
were sent, are the model's (DESIGN CHOICE, log entry 101). The fields of a barrier packet, with the number by which its receiver
knows it, are the model's reading (DEDUCED, log entry 26). -/
def Obligations.BarrierEvents : Prop :=
  ∀ (s : State),
    (∀ (leaf : Nat) (x : OutItem),
      let waits := s.exhausted leaf 2 = true ∨ ∃ w ∈ s.outwait, w.1 = leaf
      (waits → s.putOut leaf x = { s with outwait := s.outwait ++ [(leaf, x)] }) ∧
      (¬ waits → (s.putOut leaf x).outwait = s.outwait ∧ match x with
        | .packet p => (s.putOut leaf x).outbox = s.outbox ++ [p]
        | .change p => (s.putOut leaf x).barOut = s.barOut ++ [p]
        | .phase p => (s.putOut leaf x).phaseOut = s.phaseOut ++ [p])) ∧
    (∀ (cid : Nat) (c : Change), tblFind s.changes cid = some c → s.covered c.cover c.scope.toNat = true →
      (∀ b b', c.pkg = none → s.barAsleep c.handle = false → tblFind s.barriers c.handle = some b →
        Spec.changed b c.ask = some b' →
        ∃ s', exec (.barrierChangeApply cid) s = .next s' ∧ tblFind s'.changes cid = none ∧
          (∀ h, tblFind s'.barriers h = if h = c.handle then some b' else tblFind s.barriers h) ∧ s'.mem = s.mem ∧
          (b'.phase = b.phase → s'.phases = s.phases) ∧
          (b'.phase ≠ b.phase → ∀ home pid d, b.far = some home → b.owner = .piece pid → d ∈ Config.piecePackages pid → d ≠ home →
            ∃ n, tblFind s'.phases n = some
              { leaf := b.leaf, dst := d, phase := { dpkg := s.dpkg, handle := BitVec.ofNat 32 c.handle, phase := b'.phase } }) ∧
          (∀ op g', c.op = some op → s'.group c.gid = some g' → ∀ p ∈ g'.ops, p.id = op → p.ended = true)) ∧
      (c.pkg.isSome = true → c.sent = false → exec (.barrierChangeApply cid) s = .next
        (({ s with changes := tblSet s.changes cid { c with sent := true } } : State).putOut c.leaf (.change (s.barPacket cid c))))) ∧
    (∀ (cid : Nat) (c : Change), tblFind s.changes cid = some c → c.sent = true →
      exec (.barrierPacketResend cid) s = .next (s.putOut c.leaf (.change (s.barPacket cid c)))) ∧
    (∀ (cid : Nat) (p : PhaseOut), tblFind s.changes cid = none → tblFind s.phases cid = some p →
      exec (.barrierPacketResend cid) s = .next (s.putOut p.leaf (.phase p))) ∧
    (∀ (p : BarPacket) (b : Barrier) (q : BarAsk),
      (match p.op with
        | .arrive n => q = .arrive n
        | .drop n => q = .drop n
        | .expect n => q = .expect n 0) →
      tblFind s.barriers p.handle.toNat = some b → s.barAsleep p.handle.toNat = false →
      (∀ a ∈ s.applied, a.1 ≠ p.src ∨ a.2.1 ≠ p.seq) →
      let lost := (Spec.changed b q).isNone
      let ack := ackPacket s p lost
      ∃ s', exec (.barrierPacketArrival p) s = .next s' ∧ (p.src, p.seq, lost) ∈ s'.applied ∧
        (∀ h, tblFind s'.barriers h = if h = p.handle.toNat then some ((Spec.changed b q).getD b) else tblFind s.barriers h) ∧
        (ack ∈ s'.outbox ∨ (b.leaf, .packet ack) ∈ s'.outwait) ∧
        exec (.barrierPacketArrival p) s' = .next (s'.putOut b.leaf (.packet ack))) ∧
    (∀ (d : Nat) (h : BitVec 32) (ph : BitVec 24),
      let old := s.phaseOf h.toNat (some d)
      ∃ s', exec (.phaseMirrorUpdate d h ph) s = .next s' ∧ { s' with mirrors := s.mirrors, outbox := s.outbox } = s ∧
        s'.phaseOf h.toNat (some d) = (if ph = old + 1 then ph else old) ∧
        (s'.outbox ≠ s.outbox ↔ ph = old + 1 ∨ (old - ph).toNat < 2 ^ 23))

/-- R284, R301: `fence` puts a token over what the group has issued into its slot; `fwait` is blocked until the token is met,
and empties the slot; `mwait` parks its lanes while the monitor is armed, and else disarms it and goes on; once the nanosecond of its
deadline has passed, a parked lane traps MONITOR_TIMEOUT with the line's address. -/
def Sys2Proof.Spec.FencesAndWaits : Prop :=
  ∀ (s : State) (g : Group),
    (∀ (iss : Issue) (d : FReg) (sc : BitVec 4) (x : Bool), Free s iss g (.fence d sc x) .user (fun _ _ _ _ => []) none →
      EndsIn s iss (.fence d sc x) s { g with f := tblSet g.f d.toNat {
        scope := sc, met := false,
        cover := { writes := s.ownWrites iss.gid ++ g.seen ++ g.fwaited, loads := g.unread } } } (fun j => (g.lane j).pass iss)) ∧
    (∀ (iss : Issue) (d : FReg) (x : Bool), Free s iss g (.fwait d x) .user (fun _ _ _ _ => []) none →
      (tblFind g.f d.toNat = none → EndsIn s iss (.fwait d x) s g (fun j => (g.lane j).pass iss)) ∧
      ∀ t, tblFind g.f d.toNat = some t →
        let met : Prop := t.met = true ∨ (t.cover.loads = [] ∧ ∀ w ∈ t.cover.writes, s.performed w (scopeLevel t.scope.toNat) = true)
        (¬ met → exec (.fwait d x) s = .next { s with issue := none }) ∧
        (met → EndsIn s iss (.fwait d x) s { g with
          f := tblErase g.f d.toNat,
          fwaited := (g.fwaited ++ t.cover.writes).filter (fun w => s.flight.any (fun y => y.id = w)) } (fun j => (g.lane j).pass iss))) ∧
    (∀ (iss : Issue) (b : KReg) (x : Ext),
      let i : Instr := .mwait b x
      Free s iss g i .user (fun _ _ _ _ => []) none → g.activeLanes iss i ≠ [] →
      (g.mon.state ≠ .armed →
        EndsIn s iss i s { g with mon := { g.mon with state := .disarmed } } (fun j => (g.lane j).pass iss)) ∧
      (g.mon.state = .armed → g.kGet b.toNat = 0 →
        EndsIn s iss i s g (fun j => if j ∈ g.activeLanes iss i then { g.lane j with
            park := .monitor, deadline := none, resume := BitVec.ofNat 48 iss.next,
            resumeAtHeader := decide (iss.next = iss.following) }
          else (g.lane j).pass iss)) ∧
      (g.mon.state = .armed → g.kGet b.toNat ≠ 0 → ∃ s' g' t, exec i s = .next s' ∧ s'.group iss.gid = some g' ∧
        s.time ≤ t + 2 ∧ g'.v = g.v ∧ g'.k = g.k ∧ ∀ j ∈ g.activeLanes iss i, (g'.lane j).park = .monitor ∧
          (g'.lane j).deadline = some (t + (g.kGet b.toNat).toNat) ∧ (g'.lane j).resume = BitVec.ofNat 48 iss.next)) ∧
    (∀ (gid : Nat), s.awake gid = some g → g.resident = true → g.freed = false →
      let due (j : Nat) : Prop := j < 32 ∧ (g.lane j).park = .monitor ∧ ∃ t, (g.lane j).deadline = some t ∧ t < s.time
      (∃ j, due j) → (∀ j, due j → (trapMode g (g.lane j).mode).isSome = true) →
      ∃ s' g', exec (.mwaitTimeout gid) s = .next s' ∧ s'.group gid = some g' ∧ g'.mon.state = .disarmed ∧ g'.v = g.v ∧
        (∀ j, ¬ due j → g'.lane j = g.lane j) ∧
        (∀ j t vec, due j → trapMode g (g.lane j).mode = some (t, vec) → g'.lane j =
          Spec.inHandler { g.lane j with park := .none, deadline := none } t vec (g.lane j).addr 0x0B g.mon.line))

/-- R301: `mon` arms the monitor of the group on the line of one byte that its lowest guard-active lane may read. -/
def Sys2Proof.Spec.MonitorArmed : Prop :=
  ∀ (s : State) (iss : Issue) (g g1 : Group) (a : DReg) (x : ExtS) (j : Nat) (l : Loc) (es : List TlbEntry),
    let i : Instr := .mon a x
    let addr := (s.slots g iss i).a.read64 g iss.mode j
    let s1 := s.noteCheck (Spec.seenBy iss g i) iss.mode addr { r := true } (.ok l, es)
    Free s iss g i .user (fun _ _ _ => Spec.okAddress) none → (g.activeLanes iss i).head? = some j →
    s.addrBusy iss.gid (Spec.seenBy iss g i) j addr = false → (g.lane j).failing = false →
    s.checkAccess iss.gid (Spec.seenBy iss g i) iss.mode j addr 1 1 { r := true } = (.ok l, es) →
    (∀ h n o, l ≠ .loc h n o) → s1.group iss.gid = some g1 →
    let level : BitVec 4 := match x with
      | .short => 10
      | .long sc _ => sc
    EndsIn s iss i s1
      { g1 with mon := { state := .armed, level := level, line := addr - BitVec.ofNat 64 (addr.toNat % 128), place := l.line } }
      (fun j => (g1.lane j).pass iss)

/-- R168, R196 to R200: a copy issued, moved and retired. At which step a byte that has performed is credited is the model's
reading (DEDUCED, log entry 62) and so is the order in which operations of the class retire (DEDUCED, log entry 21). -/
def Obligations.Copies : Prop := Spec.CopyIssue ∧ Spec.CopyProgress

/-- R291 to R298: the barrier instructions. -/
def Obligations.Barriers : Prop := Spec.BarrierChanges ∧ Spec.BarrierReads

/-- R284, R301: fences, and the monitor. That `mon` checks its address as a read of one byte, and that the monitor holds that
byte's line, is the model's reading (DEDUCED, log entry 82). -/
def Obligations.FencesAndMonitors : Prop := Spec.FencesAndWaits ∧ Spec.MonitorArmed

namespace Sys2Proof.Spec

/-! ### Urn operations (R302 to R310) -/

/-- What an atomic or a reduction asks of its urn: the act, the bytes of a cell, SCOPE, whether it replies, and the tag of its
operands. -/
structure UrnForm where
  act : UrnAct
  bytes : Nat
  scope : Nat
  reply : Bool
  tag : Tag

/-- The form of an instruction whose slot B carries tag `tb` (R303 to R306). -/
def urnForm (i : Instr) (tb : Tag) : Option UrnForm :=
  let t32 := type32 tb
  let t64 := type64 tb
  match i with
  | .ugetI32 _ _ _ op sc _ => some ⟨.int op (decide (t32 = .i32)), 4, sc.toNat, true, t32⟩
  | .ugetI64 _ _ _ op sc _ => some ⟨.int op (decide (t64 = .i64)), 8, sc.toNat, true, t64⟩
  | .ugetFadd _ _ _ w sc _ => some ⟨.fadd, if w then 8 else 4, sc.toNat, true, floatTag w⟩
  | .uputI32 _ _ op sc _ => some ⟨.int op (decide (t32 = .i32)), 4, sc.toNat, false, t32⟩
  | .uputI64 _ _ op sc _ => some ⟨.int op (decide (t64 = .i64)), 8, sc.toNat, false, t64⟩
  | .uputFadd _ _ w sc _ => some ⟨.fadd, if w then 8 else 4, sc.toNat, false, floatTag w⟩
  | .ucmpx _ _ _ _ w sc _ => some ⟨.cmpx, if w then 8 else 4, sc.toNat, true, if w then t64 else t32⟩
  | _ => none

/-- The new value of a cell of `n` bytes, and the flags raised (R303, R305, R306). -/
def urnStep (act : UrnAct) (n old b c : Nat) : Nat × Flags :=
  let w := 8 * n
  let sg (x : Nat) : Int := (BitVec.ofNat w x).toInt
  match act with
  | .cmpx => (if old = c then b else old, 0)
  | .fadd =>
    let f := if n = 8 then fmtF64 else fmtF32
    if (f.value old).isNan || (f.value b).isNan then (f.nan, flagNV) else f.add .rne false (f.value old) (f.value b)
  | .int op signed =>
    let below : Bool := if signed then decide (sg b < sg old) else decide (b < old)
    let above : Bool := if signed then decide (sg old < sg b) else decide (old < b)
    (match op with
      | .add => (old + b) % 2 ^ w
      | .min => if below then b else old
      | .max => if above then b else old
      | .and => old &&& b
      | .or => old ||| b
      | .xor => old ^^^ b
      | .swap => b, 0)

/-- The parts of a request one after the other: the final value, each lane's reply, and the flags (R303). -/
def urnParts (act : UrnAct) (n : Nat) : List (Nat × DWord × DWord) → Nat → Nat × List (Nat × Nat) × Flags
  | [], old => (old, [], 0)
  | p :: ps, old =>
    let r := urnStep act n old (p.2.1.toNat % 256 ^ n) (p.2.2.toNat % 256 ^ n)
    let q := urnParts act n ps r.1
    (q.1, (p.1, old) :: q.2.1, r.2 ||| q.2.2)

/-- What the combiner makes of the operands of one request, in lane order (R304). -/
def combined (act : UrnAct) (n : Nat) : Nat → List Nat → Nat × Flags
  | v, [] => (v, 0)
  | v, b :: bs =>
    let r := urnStep act n v b 0
    let q := combined act n r.1 bs
    (q.1, r.2 ||| q.2)

/-- The lanes that name the address of a lane's, in order, and whether that lane is the first of them. -/
def sharing (oks : List (Nat × Loc × DWord)) (p : Nat × Loc × DWord) : List Nat := (oks.filter (fun q => q.2.2 = p.2.2)).map (·.1)
def firsts (oks : List (Nat × Loc × DWord)) : List (Nat × Loc × DWord) := oks.filter (fun p => (sharing oks p).head? = some p.1)

/-- The request of an issue on the address of lane `p`, the `n`-th of its requests. -/
def request (s s1 : State) (iss : Issue) (g : Group) (i : Instr) (f : UrnForm) (oks : List (Nat × Loc × DWord))
    (n : Nat) (p : Nat × Loc × DWord) : Write × Flags :=
  let o := s.slots g iss i
  let b (j : Nat) : DWord := o.b.read64 g iss.mode j
  let c (j : Nat) : DWord := o.c.read64 g iss.mode j
  let ls := sharing oks p
  let v := combined f.act f.bytes ((b p.1).toNat % 256 ^ f.bytes) ((ls.drop 1).map (fun j => (b j).toNat % 256 ^ f.bytes))
  ({ id := s1.nextId + n, gid := iss.gid, lane := p.1, launch := g.launch, core := some g.core, level := 0,
     bytes := (List.range f.bytes).map (fun k => (p.2.1.add k, 0)),
     urn := some { act := f.act, bytes := f.bytes, level := scopeLevel (max f.scope 2),
                   parts := if f.reply then ls.map (fun j => (j, b j, c j)) else [(p.1, BitVec.ofNat 64 v.1, 0)] },
     op := g.nextOp, sharers := ls.drop 1 }, if f.reply then 0 else v.2)

end Sys2Proof.Spec

/-- R125, R302 to R306, R308: an atomic or a reduction with no guard-active lane is counted in UR and sends nothing, D taking its tag; one whose lanes pass their checks sends one request for each address, pending, with
the lanes' parts in order, those of a reduction combined; it is counted in UR, and D takes its tag. The floating-point
additions trap ENGINE in a launch with DET. -/
def Obligations.UrnRequests : Prop :=
  ∀ (s : State) (iss : Issue) (g : Group) (i : Instr) (f : Spec.UrnForm), Spec.urnForm i (s.tagOf g iss i .b) = some f →
    let o := s.slots g iss i
    let addr (j : Nat) : DWord := o.a.read64 g iss.mode j
    let det : Prop := f.act = .fadd ∧ s.det g = true
    Free s iss g i .user (fun _ _ _ sl => match sl with
      | .a => [.n64, .i64, .raw]
      | .b => [f.tag]
      | .c => [f.tag]
      | .d => []) (some .ur) →
    let tagged (g1 : Group) : Group := if f.reply then o.d.retag g1 iss.mode ((iss.pfx.formatted .d).getD f.tag) else g1
    (¬ det → g.activeLanes iss i = [] →
      EndsIn s iss i s (tagged (Spec.withEmpty g .ur)) (fun j => (g.lane j).pass iss)) ∧
    (g.activeLanes iss i ≠ [] → det → (trapMode g iss.mode).isSome = true → g.activeLanes iss i = iss.lanes →
      Spec.AllTrap s iss g i 0x12 0x8000000000000004) ∧
    ∀ (s1 : State) (g1 : Group) (oks : List (Nat × Loc × DWord)), ¬ det → g.activeLanes iss i ≠ [] →
      (∀ j ∈ g.activeLanes iss i, s.addrBusy iss.gid (Spec.seenBy iss g i) j (addr j) = false) →
      s.accessLanes (s.plainCtx iss g i) (Spec.seenBy iss g i) f.bytes f.bytes { r := true, w := true }
        ((g.activeLanes iss i).map (fun j => (j, addr j))) = (s1, [], oks) →
      (∀ p ∈ oks, ∀ h n a, p.2.1 ≠ .loc h n a) →
      (∀ cl, s.urnPending cl + oks.length ≤ 256) → s1.group iss.gid = some g1 →
      let rs := (Spec.firsts oks).zipIdx.map (fun q => Spec.request s s1 iss g i f oks q.2 q.1)
      let lanes := rs.flatMap (fun r => (if f.reply then r.1.lane :: r.1.sharers else [r.1.lane]).map (fun j =>
        { lane := j, mode := iss.mode, wid := r.1.id, reply := none, landed := !f.reply : UrnLane }))
      EndsIn s iss i { s1 with flight := s1.flight ++ rs.map (·.1), nextId := s1.nextId + rs.length }
        { Spec.withOp (tagged g1) .ur (.urn (if f.reply then some o.d.num else none) (decide (f.bytes = 8))
            (scopeLevel (max f.scope 2)) lanes) with remote := g1.remote ||| rs.foldl (fun x r => x ||| r.2) 0 }
        (fun j => (g1.lane j).pass iss)

/-- R62, R279, R282, R283, R303: a write that a used up budget stalls keeps its place; else the oldest write of its place in its
buffer moves to the next buffer, from the last one to memory; a request that arrives at its level is performed there: the parts
are applied in order to what a read from that level finds, every lane replies with the value before its part, and the result is
a write. That a store waits for an older load of its group which has still to read one of its bytes is the model's reading
(DEDUCED, log entry 20). -/
def Obligations.BufferDrain : Prop :=
  ∀ (s : State) (w : Write), s.flight.find? (fun x => x.id = w.id) = some w → (s.flight.map (·.id)).Nodup →
    let rest := s.flight.filter (fun x => x.id ≠ w.id)
    let up : Write := { w with level := w.level + 1, held := false }
    (mayDrain w s.flight = false → w.urn = none → w.op = 0 → exec (.bufferDrain w.id) s = .next s) ∧
    (mayDrain w s.flight = true → s.stalled w = false → s.awaited w = false → s.budgetStalls w = true → w.urn = none →
      ∃ s', exec (.bufferDrain w.id) s = .next s' ∧ s'.mem = s.mem ∧ s'.tiles = s.tiles ∧
        s'.flight = s.flight.map (fun x => if x.id = w.id then { x with held := true } else x)) ∧
    (mayDrain w s.flight = true → s.stalled w = false → s.awaited w = false → s.budgetStalls w = false → (∀ p ∈ w.bytes, ∃ a, p.1 = .sys a) →
      (w.urn = none → w.level < 5 → ∃ s', exec (.bufferDrain w.id) s = .next s' ∧ s'.flight = rest ++ [up] ∧ s'.mem = s.mem ∧
        s'.tiles = s.tiles) ∧
      (w.urn = none → w.level = 5 → ∃ s', exec (.bufferDrain w.id) s = .next s' ∧ s'.flight = rest ∧ s'.tiles = s.tiles ∧
        (∀ a, (∀ p ∈ w.bytes, p.1 ≠ .sys a) → tblGet s'.mem 0 a = tblGet s.mem 0 a) ∧
        ((w.bytes.map (·.1)).Nodup → ∀ a b, (Loc.sys a, b) ∈ w.bytes → tblGet s'.mem 0 a = b)) ∧
      (∀ r, w.urn = some r → w.level + 1 < r.level → ∃ s', exec (.bufferDrain w.id) s = .next s' ∧ s'.flight = rest ++ [up] ∧
        s'.mem = s.mem) ∧
      (∀ r g base, w.urn = some r → r.level ≤ w.level + 1 → w.level ≤ 5 → w.place = .sys base → Spec.clean s w.place →
        s.group w.gid = some g →
        let ag : Agent := ⟨if w.core.isSome then some w.gid else none, w.core, none⟩
        let old := leNat ((List.range r.bytes).map (fun k =>
          (State.readFrom { s with flight := rest } ag (.sys (base + k)) (w.level + 1) [0, 1, 2, 3, 4, 5]).1))
        let q := Spec.urnParts r.act r.bytes r.parts old
        let byte (k : Nat) : Byte := BitVec.ofNat 8 (q.1 / 256 ^ k)
        ∃ s' g', exec (.bufferDrain w.id) s = .next s' ∧ s'.group w.gid = some g' ∧ g'.remote = g.remote ||| q.2.2 ∧
          g'.v = g.v ∧ g'.k = g.k ∧
          (w.level < 5 → s'.mem = s.mem ∧ s'.flight =
            rest ++ [{ up with bytes := (List.range r.bytes).map (fun k => (.sys (base + k), byte k)), urn := none }]) ∧
          (w.level = 5 → s'.flight = rest ∧ ∀ a, tblGet s'.mem 0 a =
            if base ≤ a ∧ a < base + r.bytes then byte (a - base) else tblGet s.mem 0 a) ∧
          ∀ o d wide lvl ls, g.op w.op = some o → o.kind = .urn (some d) wide lvl ls → (∃ l ∈ ls, l.landed = false) →
            ∃ o', g'.op w.op = some o' ∧ o'.kind = .urn (some d) wide lvl (ls.map (fun l => if l.wid = w.id then
              { l with reply := some (BitVec.ofNat 64 (((q.2.1.find? (fun p => p.1 = l.lane)).map (·.2)).getD 0)) } else l))))

/-- R302, R310: a reply that lands gives its lane's register the value; `ored` has every lane's value accepted at issue, under
the number of its point, once (that all of an issue are accepted at once, at its issue, is the model's reading, log entry 100). -/
def Obligations.UrnRepliesAndOrdered : Prop :=
  ∀ (s : State),
    (∀ (gid op lane d : Nat) (g : Group) (o : Op) (wide : Bool) (lvl : Nat) (ls : List UrnLane) (l : UrnLane) (v : DWord),
      s.group gid = some g → (g.resident && s.asleep g.core) = false → g.op op = some o → o.ended = false →
      o.kind = .urn (some d) wide lvl ls → ls.find? (fun l => l.lane = lane && !l.landed) = some l → l.reply = some v →
      d + 1 < 128 → lane < 32 →
      ∃ s' g', exec (.urnReplyLand gid op lane) s = .next s' ∧ s'.group gid = some g' ∧ g'.k = g.k ∧ g'.lanes = g.lanes ∧
        g'.vtag = g.vtag ∧
        (if wide then g'.dGet l.mode d lane = v else g'.vGet l.mode d lane = BitVec.ofNat 32 v.toNat) ∧
        (∀ m r j, r < 128 → j < 32 → ¬ ((r = d ∨ (wide = true ∧ r = d + 1)) ∧ j = lane) → g'.vGet m r j = g.vGet m r j) ∧
        (∀ a p, s'.readByte a p = s.readByte a p)) ∧
    (∀ (iss : Issue) (g : Group) (n : BitVec 3) (b : Src) (x : Ext) (l : Launch),
      let i : Instr := .ored n b x
      let e := g.activeLanes iss i
      s.launch g.launch = some l → l.slotOp n.toNat ≠ 0 → g.task = false →
      Free s iss g i .user (fun _ _ _ sl => if sl = .b then [Tag.ofCode (l.slotFmt n.toNat)] else []) (some .ur) →
      (∀ j ∈ e, (g.lane j).contributed.getLsbD n.toNat = false) → (e = [] ∨ s.exhausted g.leaf 4 = false) →
      ∃ s' g', exec i s = .next s' ∧ s'.group iss.gid = some g' ∧ g'.v = g.v ∧ g'.k = g.k ∧ g'.p = g.p ∧
        s'.launch g.launch = some { l with
          ored := l.ored ++ e.map (fun j => (n.toNat, l.pointNumber (g.lane j), (s.slots g iss i).b.read64 g iss.mode j)) } ∧
        (∀ j, g'.lane j = g.endsAs iss j ((if j ∈ e then { g.lane j with
          contributed := (g.lane j).contributed ||| BitVec.ofNat 8 (2 ^ n.toNat) } else g.lane j).pass iss)) ∧
        (g.count .ur = 0 → g'.ops = g.ops) ∧ (∀ a p, s'.readByte a p = s.readByte a p))

namespace Sys2Proof.Spec

/-! ### The matrix engine (R239 to R256) -/

/-- Every guard-active lane traps at its sequence with cause `c` and value `v`, the other lanes pass it, and nothing else
happens (R242). -/
def ActiveTrap (s : State) (iss : Issue) (g : Group) (i : Instr) (c : BitVec 8) (v : DWord) : Prop :=
  EndsIn s iss i s g (fun j => if j ∈ g.activeLanes iss i then (LaneEnd.trap c v).move g iss (g.lane j)
    else (g.lane j).pass iss)

/-- Rows at a tile address, of a READY tile that the lane may use, all inside it (R166, R168, R246). -/
def rowsOk (s : State) (gid : Nat) (g : Group) (base : DWord) (stride rows bytes : Nat) : Prop :=
  (wellFormed 2 base ∨ wellFormed 3 base) ∧
    ∃ t, s.tileFor gid g (wellFormed 3 base) (base.toNat / 2 ^ 24 % 2 ^ 32) = some t ∧ t.state = .ready ∧
      ∀ n, n < rows → base.toNat % 2 ^ 24 + n * stride + bytes ≤ t.size

/-- The entry of the weight region table that a handle names, of a region that the lane owns (R246, R254). -/
def regionOk (s : State) (gid : Nat) (g : Group) (h : Nat) (r : WRegion) : Prop :=
  h / 2 ^ 31 = 1 ∧ h / 2 ^ 22 % 512 = g.core ∧ h / 16 % 2 ^ 18 = 0 ∧ tblFind (s.core g.core).regions (h % 16) = some r ∧
    g.owns gid r.owner = true

/-- The group of an issue holds the claim of a set (R240). -/
def claims (s : State) (iss : Issue) (g : Group) (z : Nat) : Prop := ((s.core g.core).set z).claim = some iss.gid

/-- An operand format of `mma` by the opcode: exponent bytes of a row, and whether it is a block format (R243). -/
def mmaFormat (i : Instr) : Option (KReg × Nat × Nat) :=
  match i with
  | .mmaTb8 a _ => some (a, 0, 6)
  | .mmaTb6 a _ => some (a, 1, 8)
  | .mmaTb4 a _ => some (a, 2, 12)
  | .mmaBf16 a _ => some (a, 3, 0)
  | .mmaF16 a _ => some (a, 4, 0)
  | .mmaF32 a _ => some (a, 5, 0)
  | _ => none

/-- What an engine instruction asks: its operation, whether its fields are in range, the set whose claim it needs, and whether
the rest of its checks pass. -/
structure EngineAsk where
  op : MatOp
  fields : Prop
  set : Option Nat
  rest : Prop

/-- The engine instructions that only queue their operation (R244, R246, R250, R253, R256). -/
def engineAsk (s : State) (iss : Issue) (g : Group) (i : Instr) : Option EngineAsk :=
  let g' := seenBy iss g i
  let el := (g.activeLanes iss i).headD 0
  let lo (x : DWord) : Nat := x.toNat % 2 ^ 32
  let hi (x : DWord) : Nat := x.toNat / 2 ^ 32
  let op (act : MatAct) (z : BitVec 2) (ws : List DWord) : MatOp :=
    { act := act, set := z.toNat, kd := 0, words := ws, lane := el }
  let k (a : KReg) (n : Nat) : DWord := g.kGet (a.toNat + n)
  let words (a : KReg) (n : Nat) : List DWord := (List.range n).map (k a)
  match i with
  | .mepi d a t _ _ =>
    let plain : Bool := decide (t = .f32 ∨ t = .bf16 ∨ t = .f16)
    let bytes : Nat := match t with
      | .f32 => 256
      | .bf16 => 128
      | .f16 => 128
      | .tb8 => 64
      | .tb6 => 48
      | .tb4 => 32
    some
      { op := op (.mepi t) d (words a 3)
        fields := plain = true → k a 2 = 0
        set := some d.toNat
        rest := (k a 0).toNat % 16 = 0 ∧ lo (k a 1) % 16 = 0 ∧ rowsOk s iss.gid g' (k a 0) (lo (k a 1)) 64 bytes ∧
          (plain = false → (k a 2).toNat % 4 = 0 ∧ hi (k a 1) % 4 = 0 ∧ rowsOk s iss.gid g' (k a 2) (hi (k a 1)) 64 4) }
  | .mrel d _ => some { op := op .mrel d [], fields := True, set := some d.toNat, rest := True }
  | .msave d a _ _ => some
      { op := op .msave d (words a 1), fields := True, set := some d.toNat
        rest := (k a 0).toNat % 16 = 0 ∧ rowsOk s iss.gid g' (k a 0) 0 1 66576 }
  | .mload d a _ => some
      { op := op .mload d (words a 1), fields := True, set := some d.toNat
        rest := (k a 0).toNat % 16 = 0 ∧ rowsOk s iss.gid g' (k a 0) 0 1 66576 }
  | .mbias d a _ => some
      { op := op .mbias d (words a 2), fields := hi (k a 1) = 0, set := some d.toNat
        rest := (k a 0).toNat % 16 = 0 ∧ lo (k a 1) % 16 = 0 ∧ rowsOk s iss.gid g' (k a 0) (lo (k a 1)) 64 256 }
  | .mstat d a _ => some
      { op := { op .mstat a [] with kd := d.toNat }, fields := True, set := none, rest := True }
  | .mxset d b _ => some
      { op := op .mxset d [k b 0]
        fields := k b 0 < 65536 ∧ -512 ≤ ((k b 0).setWidth 16).toInt ∧ ((k b 0).setWidth 16).toInt ≤ 511
        set := some d.toNat, rest := True }
  | i => match mmaFormat i with
    | none => none
    | some (a, n, exb) =>
      let nk := (k a 4).toNat % 8192 + 1
      let z : BitVec 2 := (k a 4).extractLsb' 18 2
      some
        { op := op (.mma n) z (words a 8)
          fields := k a 4 < 2 ^ 20 ∧ (k a 4).extractLsb' 13 4 = 0 ∧ nk ≤ 4096 ∧ k a 5 = 0 ∧ k a 6 = 0 ∧ k a 7 = 0 ∧
            (exb = 0 → k a 1 = 0 ∧ hi (k a 2) = 0)
          set := some z.toNat
          rest := (∃ r, regionOk s iss.gid g' (lo (k a 3)) r ∧ hi (k a 3) < r.len) ∧
            (k a 0).toNat % 16 = 0 ∧ lo (k a 2) % 16 = 0 ∧ rowsOk s iss.gid g' (k a 0) (lo (k a 2)) 64 (96 * nk) ∧
            (exb ≠ 0 → (k a 1).toNat % 2 = 0 ∧ hi (k a 2) % 2 = 0 ∧
              rowsOk s iss.gid g' (k a 1) (hi (k a 2)) 64 (exb * nk)) }

/-- The copy of a `wbld` (R255). -/
def regionCopy (g : Group) (iss : Issue) (i : Instr) (a : KReg) : CopyOp where
  src := g.kGet a.toNat
  dst := 0
  rows := 1
  rowBytes := 16 * ((g.kGet (a.toNat + 2)).toNat % 2 ^ 15)
  sstride := 0
  dstride := 0
  credit := none
  scope := 2
  mode := iss.mode
  lane := (g.activeLanes iss i).headD 0
  done := []
  writes := []
  ended := false
  suspended := false
  pageTag := none
  answered := false
  credited := 0

/-! ### Elements and their sums (R243, R245, R247) -/

/-- A panel row at unit `u` of a weight buffer: which elements are present, their number before element `e`, and the unit of
the row after it (R245). -/
def present (f : MFmt) (buf : Tbl Byte) (u e : Nat) : Bool := decide (e < f.count) && (tblGet buf 0 (16 * u + e / 8)).getLsbD (e % 8)
def before (f : MFmt) (buf : Tbl Byte) (u e : Nat) : Nat := (List.range e).countP (present f buf u)
def rowAfter (f : MFmt) (buf : Tbl Byte) (u : Nat) : Nat :=
  u + (f.count / 8 + f.exb + (before f buf u f.count * f.w + 7) / 8 + 15) / 16

/-- Unit of the `n`-th row of a panel from unit `u` on. -/
def rowStart (f : MFmt) (buf : Tbl Byte) (u : Nat) : Nat → Nat
  | 0 => u
  | n + 1 => rowAfter f buf (rowStart f buf u n)

/-- Element `e` of the panel row at unit `u`; none where it is absent. -/
def panelElem (f : MFmt) (buf : Tbl Byte) (u e : Nat) : Option MElem :=
  let rd (n len : Nat) : List Byte := (List.range len).map (fun j => tblGet buf 0 (16 * u + n + j))
  let mb := f.count / 8
  if present f buf u e then
    some (f.elem (rd mb f.exb) e
      (leNat (rd (mb + f.exb) ((before f buf u f.count * f.w + 7) / 8)) / 2 ^ (f.w * before f buf u e) % 2 ^ f.w))
  else none

/-- A byte of a tile, as it stands in the tile store. -/
def tileAt (s : State) (h x : Nat) : Byte :=
  match tblFind s.tiles h with
  | some t => tblGet t.bytes 0 x
  | none => 0

/-- Handle and offset of a tile address (R164). -/
def handleOf (a : DWord) : Nat := a.toNat / 2 ^ 24 % 2 ^ 32
def offsetOf (a : DWord) : Nat := a.toNat % 2 ^ 24

/-- `n` bytes of a tile from `off` bytes after an address on, and the number they hold, little-endian. -/
def tileRead (s : State) (a : DWord) (off n : Nat) : List Byte :=
  (List.range n).map (fun j => tileAt s (handleOf a) (offsetOf a + off + j))
def tileNum (s : State) (a : DWord) (off n : Nat) : Nat := leNat (tileRead s a off n)

/-- A tile address whose tile exists. -/
def tilePlace (s : State) (a : DWord) : Prop := (wellFormed 2 a ∨ wellFormed 3 a) ∧ (tblFind s.tiles (handleOf a)).isSome = true

/-- Element `e` of row `i` and K-step `k` of A: its payload chunk at ABASE + i × ASTRIDE + 96k, its exponent bytes at AEXP +
i × AESTRIDE + EXB × k (R244). -/
def aPlane (s : State) (f : MFmt) (m : MatOp) (i k : Nat) : List Byte :=
  let w (n : Nat) : DWord := m.words.getD n 0
  tileRead s (w 1) (i * ((w 2).toNat / 2 ^ 32) + f.exb * k) f.exb
def aElem (s : State) (f : MFmt) (m : MatOp) (i k e : Nat) : MElem :=
  let w (n : Nat) : DWord := m.words.getD n 0
  f.elem (aPlane s f m i k) e (tileNum s (w 0) (i * ((w 2).toNat % 2 ^ 32) + 96 * k) 96 / 2 ^ (f.w * e) % 2 ^ f.w)

/-- The elements that a K-step multiplies (R252): those of A by the exponent bytes that the prepass kept and by the payload chunk read
before the K-step, where there is one; those of the panel row at unit `u` by the exponent bytes kept of it. -/
def aKept (s : State) (f : MFmt) (m : MatOp) (i k e : Nat) : MElem :=
  let w (n : Nat) : DWord := m.words.getD n 0
  f.elem ((m.aexpo[i * ((w 4).toNat % 8192 + 1) + k]?).getD (aPlane s f m i k)) e
    ((match tblFind m.chunks (i + 64 * k) with
      | some l => leNat l
      | none => tileNum s (w 0) (i * ((w 2).toNat % 2 ^ 32) + 96 * k) 96) / 2 ^ (f.w * e) % 2 ^ f.w)
def panelExpo (f : MFmt) (buf : Tbl Byte) (u : Nat) : List Byte :=
  (List.range f.exb).map (fun j => tblGet buf 0 (16 * u + f.count / 8 + j))
def panelKept (f : MFmt) (buf : Tbl Byte) (u : Nat) (expo : Option (List Byte)) (e : Nat) : Option MElem :=
  let rd (n len : Nat) : List Byte := (List.range len).map (fun j => tblGet buf 0 (16 * u + n + j))
  if present f buf u e then
    some (f.elem (expo.getD (panelExpo f buf u)) e
      (leNat (rd (f.count / 8 + f.exb) ((before f buf u f.count * f.w + 7) / 8)) / 2 ^ (f.w * before f buf u e) % 2 ^ f.w))
  else none

/-- A chunk of A that an `mma` has still to read, and that no store issue has partly written (R252). -/
def readable (s : State) (m : MatOp) (nk i k : Nat) : Prop :=
  i < 64 ∧ m.kstep ≤ k ∧ k < nk ∧ tblFind m.chunks (i + 64 * k) = none ∧ s.torn m i k = false

/-- The term of two elements under exponent X, none where a special value stands in its place (R247). -/
def term (x : Int) (a : MElem) (b : Option MElem) : Option Int :=
  match a, b with
  | .fin _ _, none => some 0
  | .fin q e, some (.fin r d) =>
    let k := min (e + d) x - x + 56
    some (if 0 ≤ k then q * r * 2 ^ k.toNat else q * r / 2 ^ (-k).toNat)
  | _, _ => none

/-- The SPEC code that two elements join into their sum; `finite` where they join none (R239, R247). -/
def special2 (a : MElem) (b : Option MElem) : Machine.Spec :=
  let sign (e : MElem) : Option (Option Bool) := match e with
    | .nan => none
    | .inf n => some (some n)
    | .fin q _ => some (if q = 0 then none else some (decide (q < 0)))
  let isInf (e : MElem) : Bool := match e with
    | .inf _ => true
    | _ => false
  let b := b.getD (.fin 0 0)
  match sign a, sign b with
  | some sa, some sb =>
    if isInf a || isInf b then
      match sa, sb with
      | some x, some y => if x = y then .pinf else .ninf
      | _, _ => .nan
    else .finite
  | _, _ => .nan

/-- The join of SPEC codes: NaN absorbs, opposite infinities give NaN (R239). -/
def joinOf (l : List Machine.Spec) : Machine.Spec :=
  if .nan ∈ l ∨ (.pinf ∈ l ∧ .ninf ∈ l) then .nan else if .pinf ∈ l then .pinf else if .ninf ∈ l then .ninf else .finite

/-- The highest of some scales (R247). -/
def highest (l : List Int) (x : Int) : Prop := x ∈ l ∧ ∀ y ∈ l, y ≤ x

/-- What `raise_x` makes of a set (R247). -/
structure Raised (z z' : AccSet) (x : Int) : Prop where
  xset : z'.xset = true
  fresh : z.xset = false → z'.x = x ∧ ∀ n, tblGet z'.acc 0 n = tblGet z.acc 0 n
  keep : z.xset = true → x ≤ z.x → z' = z
  up : z.xset = true → z.x < x → (z.acc.map (·.1)).Nodup → z'.x = x ∧
    ∀ n, tblGet z'.acc 0 n = BitVec.ofInt 128 ((tblGet z.acc 0 n).toInt / 2 ^ (x - z.x).toNat)
  rest : { z' with x := z.x, xset := z.xset, acc := z.acc, trunc := z.trunc } = z

end Sys2Proof.Spec

/-- R125, R240, R242, R246, R253 to R256: an engine instruction with no guard-active lane is counted in TX and does nothing; one
that passes its checks joins the engine's queue in TX, and `mzero` takes its claim at issue; a field out of range traps ENGINE
code 0x03, and then a set that the group has not claimed code 0x01. Of these clauses, that `wbld` meets a fault of its tile
range only after issue is the model's reading (DEDUCED, log entry 32), and that a claim whose group is gone holds nothing is
(DEDUCED, log entry 81). -/
def Obligations.MatrixIssue : Prop :=
  ∀ (s : State) (iss : Issue) (g : Group) (i : Instr), Free s iss g i .user (fun _ _ _ _ => []) (some .tx) →
    (g.activeLanes iss i = [] → ((Spec.engineAsk s iss g i).isSome = true ∨ (∃ d x, i = .mzero d x) ∨
        (∃ d a k x, i = .wbal d a k x) ∨ ∃ a x, i = .wbld a x) →
      EndsIn s iss i s (Spec.withEmpty g .tx) (fun j => (g.lane j).pass iss)) ∧
    (g.activeLanes iss i ≠ [] →
    let g' := Spec.seenBy iss g i
    let el := (g.activeLanes iss i).headD 0
    (∀ e, Spec.engineAsk s iss g i = some e →
      (e.fields → (∀ z, e.set = some z → Spec.claims s iss g z) → e.rest →
        EndsIn s iss i s (Spec.withOp g .tx (.matrix e.op)) (fun j => (g.lane j).pass iss)) ∧
      ((trapMode g iss.mode).isSome = true → ¬ e.fields → Spec.ActiveTrap s iss g i 0x12 0x8000000000000003) ∧
      (∀ z, (trapMode g iss.mode).isSome = true → e.fields → e.set = some z → ¬ Spec.claims s iss g z →
        Spec.ActiveTrap s iss g i 0x12 0x8000000000000001)) ∧
    (∀ d x, i = .mzero d x → (∀ h, s.holder g.core d.toNat = some h → h = iss.gid) →
      EndsIn s iss i (s.modSet g.core d.toNat (fun z => { z with claim := some iss.gid }))
        (Spec.withOp g .tx (.matrix { act := .mzero, set := d.toNat, kd := 0, words := [], lane := el }))
        (fun j => (g.lane j).pass iss)) ∧
    (∀ d a k x l ow, i = .wbal d a k x → s.launch g.launch = some l → g'.ownerAt iss.gid k.toNat = some ow →
      let w := g.kGet a.toNat
      let n := w.toNat
      let fits : Prop := n < 65536 ∧ n % 64 = 0 ∧ 64 ≤ n ∧ n ≤ 16384 ∧ k ≠ 0 ∧ k.toNat < l.nlevel ∧ l.tile k.toNat = true ∧
        l.domain k.toNat ≤ 1
      let one (m : Nat) : Prop := (∀ p ∈ (s.core g.core).regions, p.2.owner = ow → p.2.reg = d.toNat → p.2.len = m) ∧
        ∀ y, s.regionPending ow d.toNat = some y → y = m
      (fits → one n →
        EndsIn s iss i { s with waits := s.waits ++ [{ gid := iss.gid, op := g.nextOp, lvl := false, unit := g.core }] }
          (Spec.withOp g .tx (.matrix { act := .wbal ow, set := 0, kd := d.toNat, words := [w], lane := el }))
          (fun j => (g.lane j).pass iss)) ∧
      (¬ fits → (trapMode g iss.mode).isSome = true → Spec.ActiveTrap s iss g i 0x10 w)) ∧
    (∀ a x, i = .wbld a x →
      let src := g.kGet a.toNat
      let w := g.kGet (a.toNat + 1)
      let h := w.toNat % 2 ^ 32
      let n := (g.kGet (a.toNat + 2)).toNat
      let lone : Prop := Spec.wellFormed 0 src ∨ Spec.rowsOk s iss.gid g' src 0 1 1
      (n < 2 ^ 15 → 1 ≤ n → n ≤ 16384 → lone → src.toNat % 16 = 0 →
        (∃ r, Spec.regionOk s iss.gid g' h r ∧ w.toNat / 2 ^ 32 + n ≤ r.len) →
        EndsIn s iss i s (Spec.withOp g .tx (.wbld (h % 16) (w.toNat / 2 ^ 32) (Spec.regionCopy g iss i a)))
          (fun j => (g.lane j).pass iss)) ∧
      ((n = 0 ∨ 16384 < n) → (trapMode g iss.mode).isSome = true → Spec.ActiveTrap s iss g i 0x12 0x8000000000000003)))

namespace Sys2Proof.Spec

/-- The operation has ended, with the error that R394 then holds; the group's registers stay. -/
def opEnds (s' : State) (gid : Nat) (g : Group) (o : Op) (err : Option PendErr := none) : Prop :=
  ∃ g', s'.group gid = some g' ∧ (∀ p ∈ g'.ops, p.id = o.id → p.ended = true ∧ p.err = err) ∧ g'.v = g.v ∧ g'.vtag = g.vtag ∧
    g'.p = g.p ∧ g'.k = g.k ∧ g'.t = g.t ∧
    ∀ e, err = some e → g.ops = [o] → g.pendTX = none → o.cls = .tx → g'.pendTX = some e

/-- The operation goes on, as `kind`; nothing else of the group changes. -/
def opGoes (s' : State) (gid : Nat) (g : Group) (o : Op) (kind : OpKind) : Prop :=
  ∃ g', s'.group gid = some g' ∧ g'.op o.id = some { o with kind := kind } ∧ g'.v = g.v ∧ g'.vtag = g.vtag ∧ g'.p = g.p ∧
    g'.k = g.k ∧ g'.t = g.t ∧ g'.ops.length = g.ops.length

/-- The fields of the status word of a set (R249). -/
structure StatusIs (w : DWord) (z : AccSet) (claimed : Bool) : Prop where
  x : w.extractLsb' 0 16 = if z.xset then BitVec.ofInt 16 z.x else 0
  xset : w.getLsbD 16 = z.xset
  claimed : w.getLsbD 17 = claimed
  ksteps : (w.extractLsb' 18 13).toNat = z.ksteps
  epi : w.extractLsb' 32 5 = z.epi
  special : w.getLsbD 37 = decide (z.spec ≠ [])
  chg : w.getLsbD 38 = z.chg
  trunc : w.getLsbD 39 = z.trunc
  err : w.extractLsb' 40 8 = z.err
  zero : w.extractLsb' 48 16 = 0 ∧ w.getLsbD 31 = false

/-- The code of a SPEC (R239). -/
def specCode : Machine.Spec → Nat
  | .finite => 0
  | .pinf => 1
  | .ninf => 2
  | .nan => 3

/-- Byte `k` of the raw image of a set with status word `w` (R256). -/
def imageByte (z : AccSet) (w : DWord) (k : Nat) : Byte :=
  if k < 65536 then (tblGet z.acc 0 (k / 16)).extractLsb' (8 * (k % 16)) 8
  else if k < 66560 then
    let c (j : Nat) : Nat := specCode (tblGet z.spec .finite (4 * (k - 65536) + j))
    BitVec.ofNat 8 (c 0 + 4 * c 1 + 16 * c 2 + 64 * c 3)
  else if k < 66568 then w.extractLsb' (8 * (k - 66560)) 8
  else 0

/-- The value of element `n` of a set (R253). -/
def elemValue (z : AccSet) (n : Nat) : FVal :=
  match tblGet z.spec .finite n with
  | .nan => .nan false
  | .pinf => .inf false
  | .ninf => .inf true
  | .finite =>
    let a := (tblGet z.acc 0 n).toInt
    if z.xset then .fin (decide (a < 0)) a.natAbs (z.x - 56) else .fin false 0 0

/-- An IEEE target: its format and bytes of an element; a block target: its block format (R253). -/
def ieeeTarget : MTarget → Option (Fmt × Nat)
  | .f32 => some (fmtF32, 4)
  | .bf16 => some (fmtBF16, 2)
  | .f16 => some (fmtF16, 2)
  | _ => none
def blockTarget : MTarget → BFmt
  | .tb6 => bfmtTB6
  | .tb4 => bfmtTB4
  | _ => bfmtTB8

/-- Bytes of an output row, byte `k` of row `i`, byte `k` of its plane, and its flags (R253). -/
def rowLength (t : MTarget) : Nat :=
  match ieeeTarget t with
  | some (_, n) => 64 * n
  | none => 2 * (blockTarget t).payload
def blockRowOf (z : AccSet) (t : MTarget) (i h : Nat) : BlockCode :=
  (blockTarget t).encode ((List.range 32).map (fun j => elemValue z (64 * i + 32 * h + j)))
def rowByte (z : AccSet) (t : MTarget) (i k : Nat) : Byte :=
  match ieeeTarget t with
  | some (f, n) => BitVec.ofNat 8 ((f.roundVal .rne false (elemValue z (64 * i + k / n))).1 / 256 ^ (k % n))
  | none =>
    let b := blockTarget t
    let es := (blockRowOf z t i (k / b.payload)).elems
    BitVec.ofNat 8 (((List.range 32).map (fun e => es.getD e 0 * 2 ^ (b.w * e))).foldl (· + ·) 0 / 256 ^ (k % b.payload))
def planeByte (z : AccSet) (t : MTarget) (i k : Nat) : Byte :=
  let c := blockRowOf z t i (k / 2)
  BitVec.ofNat 8 (if k % 2 = 0 then c.ea else c.eb)
def rowFlags (z : AccSet) (t : MTarget) (i : Nat) : Flags :=
  match ieeeTarget t with
  | some (f, _) => (List.range 64).foldl (fun x j => x ||| (f.roundVal .rne false (elemValue z (64 * i + j))).2) 0
  | none => ((blockRowOf z t i 0).flags ++ (blockRowOf z t i 1).flags).foldl (fun x y => x ||| y) 0

/-- Scales of row `i` and K-step `k` of A, and of the panel row at unit `u`: of its blocks, or of its elements (R243, R247). -/
def expScales (f : MFmt) (expo : List Byte) : List Int :=
  (expo.filter (fun b => b ≠ 0xFF)).map (fun b => (b.toNat : Int) - 127 - f.block.m)
def elemScale : MElem → Option Int
  | .fin _ e => some e
  | _ => none
def aScales (s : State) (f : MFmt) (m : MatOp) (i k : Nat) : List Int :=
  if f.ieee.isSome then (List.range f.count).filterMap (fun e => elemScale (aElem s f m i k e))
  else expScales f (aPlane s f m i k)
def bScales (f : MFmt) (buf : Tbl Byte) (u : Nat) : List Int :=
  if f.ieee.isSome then (List.range f.count).filterMap (fun e => (panelElem f buf u e).bind elemScale)
  else expScales f ((List.range f.exb).map (fun j => tblGet buf 0 (16 * u + f.count / 8 + j)))

/-- The two finite elements align with a scale above X; and bits are lost (R247). -/
def above (x : Int) (a : MElem) (b : Option MElem) : Bool :=
  match a, b with
  | .fin _ e, some (.fin _ d) => decide (x < e + d)
  | _, _ => false
def loses (x : Int) (a : MElem) (b : Option MElem) : Bool :=
  match a, b with
  | .fin q e, some (.fin r d) =>
    let k := min (e + d) x - x + 56
    decide (k < 0 ∧ q * r % 2 ^ (-k).toNat ≠ 0)
  | _, _ => false

/-- xval of an error after issue (R251). -/
def matrixError (code set kstep : Nat) : PendErr :=
  { cause := 0x12, xval := BitVec.ofNat 64 (3 * 2 ^ 62 + code + 256 * set + 1024 * kstep) }

/-- Everything of the engine but one set, and the bytes that agents read, is as before. -/
def otherSets (s s' : State) (core z : Nat) : Prop :=
  (∀ n, n ≠ z → (s'.core core).set n = (s.core core).set n) ∧ (∀ c, c ≠ core → s'.core c = s.core c) ∧
    (s'.core core).wbuf = (s.core core).wbuf ∧ (s'.core core).regions = (s.core core).regions

end Sys2Proof.Spec

/-- R247, R251, R252: MMA_KSTEP makes the prepass of the current `mma`, which fixes or raises X and keeps the exponent bytes it reads, or
its next K-step, which waits while a store issue is partly written in a chunk it has not read, and which adds to every
element the sum of its terms modulo 2^128 and joins its SPEC code; a capacity overrun and a panel row past its region end it
with their errors. -/
def Sys2Proof.Spec.KSteps : Prop :=
  ∀ (s : State) (core gid n : Nat) (g : Group) (o : Op) (m : MatOp) (r : WRegion), s.currentMatrix core gid = some (g, o) →
    g.op o.id = some o → o.kind = .matrix m → m.act = .mma n →
    let f := mfmt n
    let w (j : Nat) : DWord := m.words.getD j 0
    let nk := (w 4).toNat % 8192 + 1
    let z := (s.core core).set m.set
    let buf := (s.core core).wbuf
    tblFind (s.core core).regions ((w 3).toNat % 16) = some r → (Spec.wellFormed 2 (w 0) ∨ Spec.wellFormed 3 (w 0)) →
    (f.ieee = none → Spec.wellFormed 2 (w 1) ∨ Spec.wellFormed 3 (w 1)) →
    let first := r.base + (w 3).toNat / 2 ^ 32
    let limit := r.base + r.len
    ∃ s', exec (.mmaKstep core gid) s = .next s' ∧ (∀ a l, s'.readByte a l = s.readByte a l) ∧
      (m.prepassed = false →
        Spec.otherSets s s' core m.set ∧
        (4096 < z.ksteps + nk → (s'.core core).set m.set = { z with err := 2 } ∧
          Spec.opEnds s' gid g o (some (Spec.matrixError 2 m.set 0))) ∧
        (z.ksteps + nk ≤ 4096 →
          (∃ ae be, Spec.opGoes s' gid g o (.matrix { m with prepassed := true, unit := first, aexpo := ae, bexpo := be }) ∧
            (∀ i k, i < 64 → k < nk → ae[i * nk + k]? = some (Spec.aPlane s f m i k)) ∧
            (Spec.rowStart f buf first (64 * nk) ≤ limit →
              ∀ q, q < 64 * nk → be[q]? = some (Spec.panelExpo f buf (Spec.rowStart f buf first q)))) ∧
          (Spec.rowStart f buf first (64 * nk) ≤ limit →
            let as := (List.range 64).flatMap (fun i => (List.range nk).flatMap (fun k => Spec.aScales s f m i k))
            let bs := (List.range (64 * nk)).flatMap (fun q => Spec.bScales f buf (Spec.rowStart f buf first q))
            ((as = [] ∨ bs = []) → (s'.core core).set m.set = z) ∧
            ∀ xa xb, Spec.highest as xa → Spec.highest bs xb → Spec.Raised z ((s'.core core).set m.set) (xa + xb)))) ∧
      (m.prepassed = true →
        let u (j : Nat) : Nat := Spec.rowStart f buf m.unit j
        (limit < u 64 → (s'.core core).set m.set = { z with err := 1 } ∧
          Spec.opEnds s' gid g o (some (Spec.matrixError 1 m.set m.kstep))) ∧
        (u 64 ≤ limit → (∃ i, i < 64 ∧ tblFind m.chunks (i + 64 * m.kstep) = none ∧ s.torn m i m.kstep = true) → s' = s) ∧
        (u 64 ≤ limit → (∀ i, i < 64 → tblFind m.chunks (i + 64 * m.kstep) = none → s.torn m i m.kstep = false) →
          let z' := (s'.core core).set m.set
          let a (i e : Nat) : MElem := Spec.aKept s f m i m.kstep e
          let b (j e : Nat) : Option MElem := Spec.panelKept f buf (u j) (m.bexpo[64 * m.kstep + j]?) e
          (∀ i j, i < 64 → j < 64 →
            tblGet z'.acc 0 (64 * i + j) = tblGet z.acc 0 (64 * i + j) +
              BitVec.ofInt 128 ((List.range f.count).map (fun e => (Spec.term z.x (a i e) (b j e)).getD 0)).sum ∧
            tblGet z'.spec .finite (64 * i + j) = Spec.joinOf (tblGet z.spec .finite (64 * i + j) ::
              (List.range f.count).map (fun e => Spec.special2 (a i e) (b j e)))) ∧
          (z'.chg = true ↔ z.chg = true ∨ ∃ i j e, i < 64 ∧ j < 64 ∧ e < f.count ∧ Spec.above z.x (a i e) (b j e) = true) ∧
          (z'.trunc = true ↔ z.trunc = true ∨ ∃ i j e, i < 64 ∧ j < 64 ∧ e < f.count ∧ Spec.loses z.x (a i e) (b j e) = true) ∧
          z'.x = z.x ∧ z'.xset = z.xset ∧ z'.ksteps = z.ksteps + 1 ∧ z'.claim = z.claim ∧ z'.epi = z.epi ∧ z'.err = z.err ∧
          (m.kstep + 1 = nk → Spec.opEnds s' gid g o) ∧
          let later := m.chunks.filter (fun p => 64 * (m.kstep + 1) ≤ p.1)
          (m.kstep + 1 ≠ nk → Spec.opGoes s' gid g o (.matrix { m with kstep := m.kstep + 1, unit := u 64, chunks := later }))))

/-- R240, R242, R249 to R253, R255, R256: MATRIX_OP_EXECUTE carries out the group's current engine operation, a row or a
chunk at a time where it writes a tile; of an `mma` it reads one payload chunk ahead; `mstat` and `mrel` act once every older operation
of their class has retired. -/
def Sys2Proof.Spec.EngineOps : Prop :=
  ∀ (s : State) (core gid : Nat) (g : Group) (o : Op), s.currentMatrix core gid = some (g, o) → g.op o.id = some o →
    ∃ s', exec (.matrixOpExecute core gid) s = .next s' ∧
    (∀ h k c, o.kind = .wbld h k c → c.over = true → o.err = none → Spec.opEnds s' gid g o ∧ s'.cores = s.cores) ∧
    ∀ (m : MatOp), o.kind = .matrix m →
      let w (j : Nat) : DWord := m.words.getD j 0
      let z := (s.core core).set m.set
      let z' := (s'.core core).set m.set
      let same : Prop := ∀ a l, s'.readByte a l = s.readByte a l
      Spec.otherSets s s' core m.set ∧
      (m.act = .mzero → z' = { claim := z.claim } ∧ Spec.opEnds s' gid g o ∧ same) ∧
      ((m.act = .mrel ∨ m.act = .mstat) → g.oldest o = false → s' = s) ∧
      (∀ n, m.act = .mma n → let nk := (w 4).toNat % 8192 + 1
        z' = z ∧ same ∧ ((∀ i k, ¬ Spec.readable s m nk i k) → s' = s) ∧
        ((∃ i k, Spec.readable s m nk i k) → (Spec.wellFormed 2 (w 0) ∨ Spec.wellFormed 3 (w 0)) →
          ∃ i k, let bytes := Spec.tileRead s (w 0) (i * ((w 2).toNat % 2 ^ 32) + 96 * k) 96
            Spec.readable s m nk i k ∧ Spec.opGoes s' gid g o (.matrix { m with chunks := tblSet m.chunks (i + 64 * k) bytes }))) ∧
      (m.act = .mrel → g.oldest o = true → z.claim = some gid → z' = { z with claim := none } ∧ Spec.opEnds s' gid g o ∧ same) ∧
      (m.act = .mxset → Spec.Raised z z' ((w 0).setWidth 16).toInt ∧ Spec.opEnds s' gid g o ∧ same) ∧
      (m.act = .mstat → g.oldest o = true → z.ksteps < 8192 → z' = z ∧ same ∧
        ∃ g', s'.group gid = some g' ∧ (∀ p ∈ g'.ops, p.id = o.id → p.ended = true) ∧ g'.v = g.v ∧
          Spec.StatusIs (g'.kGet m.kd) z (decide (s.holder core m.set = some gid)) ∧
          ∀ n, n ≠ m.kd → g'.kGet n = g.kGet n) ∧
      (m.act = .mbias → (4096 ≤ z.ksteps → z' = { z with err := 2 } ∧ Spec.opEnds s' gid g o (some (Spec.matrixError 2 m.set 0))) ∧
        (z.ksteps < 4096 → Spec.tilePlace s (w 0) →
          let v (n : Nat) : MElem := (mfmt 5).elem [] 0 (Spec.tileNum s (w 0) (n / 64 * ((w 1).toNat % 2 ^ 32) + 4 * (n % 64)) 4)
          let scales := (List.range 4096).filterMap (fun n => Spec.elemScale (v n))
          ∃ z1, (scales = [] → z1 = z) ∧ (∀ x, Spec.highest scales x → Spec.Raised z z1 x) ∧ z'.x = z1.x ∧ z'.xset = z1.xset ∧
            z'.ksteps = z.ksteps + 1 ∧ Spec.opEnds s' gid g o ∧ same ∧
            ∀ n, n < 4096 →
              tblGet z'.acc 0 n = tblGet z1.acc 0 n + BitVec.ofInt 128 ((Spec.term z1.x (v n) (some (.fin 1 0))).getD 0) ∧
              tblGet z'.spec .finite n = Spec.joinOf [tblGet z.spec .finite n, Spec.special2 (v n) (some (.fin 1 0))])) ∧
      (∀ t, m.act = .mepi t → m.kstep < 64 → Spec.tilePlace s (w 0) →
        (Spec.ieeeTarget t = none → Spec.tilePlace s (w 2)) →
        let row := Spec.offsetOf (w 0) + m.kstep * ((w 1).toNat % 2 ^ 32)
        let plane := Spec.offsetOf (w 2) + m.kstep * ((w 1).toNat / 2 ^ 32)
        z' = { z with epi := z.epi ||| Spec.rowFlags z t m.kstep } ∧
        (∀ h x, Spec.tileAt s' h x =
          if Spec.ieeeTarget t = none ∧ h = Spec.handleOf (w 2) ∧ plane ≤ x ∧ x < plane + 4 then
            Spec.planeByte z t m.kstep (x - plane)
          else if h = Spec.handleOf (w 0) ∧ row ≤ x ∧ x < row + Spec.rowLength t then Spec.rowByte z t m.kstep (x - row)
          else Spec.tileAt s h x) ∧
        (m.kstep = 63 → Spec.opEnds s' gid g o) ∧
        (m.kstep ≠ 63 → Spec.opGoes s' gid g o (.matrix { m with kstep := m.kstep + 1 }))) ∧
      (m.act = .msave → m.kstep < 521 → Spec.tilePlace s (w 0) → z.ksteps < 8192 →
        let at0 := Spec.offsetOf (w 0) + 128 * m.kstep
        z' = z ∧ (∃ st, Spec.StatusIs st z false ∧ ∀ h x, Spec.tileAt s' h x =
          if h = Spec.handleOf (w 0) ∧ at0 ≤ x ∧ x < at0 + min 128 (66576 - 128 * m.kstep) then
            Spec.imageByte z st (x - Spec.offsetOf (w 0))
          else Spec.tileAt s h x) ∧
        (m.kstep = 520 → Spec.opEnds s' gid g o) ∧
        (m.kstep ≠ 520 → Spec.opGoes s' gid g o (.matrix { m with kstep := m.kstep + 1 }))) ∧
      (m.act = .mload → Spec.tilePlace s (w 0) →
        let st : DWord := BitVec.ofNat 64 (Spec.tileNum s (w 0) 66560 8)
        let bad : Prop := st.extractLsb' 48 16 ≠ 0 ∨ st.getLsbD 31 = true ∨ Spec.tileNum s (w 0) 66568 8 ≠ 0
        same ∧ (bad → z' = { z with err := 3 } ∧ Spec.opEnds s' gid g o (some (Spec.matrixError 3 m.set 0))) ∧
        (¬ bad → Spec.opEnds s' gid g o ∧ z'.claim = z.claim ∧ z'.xset = st.getLsbD 16 ∧
          (st.getLsbD 16 = true → z'.x = (st.extractLsb' 0 16).toInt) ∧ z'.ksteps = (st.extractLsb' 18 13).toNat ∧
          z'.epi = st.extractLsb' 32 5 ∧ z'.chg = st.getLsbD 38 ∧ z'.trunc = st.getLsbD 39 ∧ z'.err = st.extractLsb' 40 8 ∧
          ∀ n, n < 4096 → tblGet z'.acc 0 n = BitVec.ofNat 128 (Spec.tileNum s (w 0) (16 * n) 16) ∧
            Spec.specCode (tblGet z'.spec .finite n) = Spec.tileNum s (w 0) (65536 + n / 4) 1 / 4 ^ (n % 4) % 4))

/-- R254: the request that a core's queue serves gets the handle of the region of its key, or a new region of zero units in
a free entry and free space. -/
def Sys2Proof.Spec.RegionGrant : Prop :=
  ∀ (s : State) (core index base : Nat) (w : StoreWait) (o : Op) (m : MatOp) (ow : Owner) (g : Group),
    s.wbalHead core = some (w, o, m, ow) → s.group w.gid = some g →
    let len := (m.words.getD 0 0).toNat % 65536
    let given (s' : State) (n : Nat) : Prop :=
      (∃ g', s'.group w.gid = some g' ∧ g'.v = g.v ∧ (∀ p ∈ g'.ops, p.id = o.id → p.ended = true) ∧
        (∀ j, g'.kGet j = if j = m.kd then BitVec.ofNat 64 (2 ^ 31 + core * 2 ^ 22 + n) else g.kGet j)) ∧
      s'.waits = s.waits.filter (fun x => !(x.gid == w.gid && x.op == o.id)) ∧ (∀ a l, s'.readByte a l = s.readByte a l)
    (∀ i r, (s.core core).regionOf ow m.kd = some (i, r) → r.len = len → m.kd < 64 →
      ∃ s', exec (.weightRegionGrant core index base) s = .next s' ∧ given s' i ∧ s'.cores = s.cores) ∧
    ((∀ p ∈ (s.core core).regions, ¬ (p.2.owner = ow ∧ p.2.reg = m.kd)) → index < 16 →
    tblFind (s.core core).regions index = none → base + len ≤ 16384 →
    (∀ p ∈ (s.core core).regions, p.2.base + p.2.len ≤ base ∨ base + len ≤ p.2.base) → m.kd < 64 →
    ∃ s', exec (.weightRegionGrant core index base) s = .next s' ∧ given s' index ∧
      tblFind (s'.core core).regions index = some { owner := ow, leaf := g.leaf, reg := m.kd, base := base, len := len } ∧
      (∀ n, n ≠ index → tblFind (s'.core core).regions n = tblFind (s.core core).regions n) ∧
      ∀ b, tblGet (s'.core core).wbuf 0 b = if 16 * base ≤ b ∧ b < 16 * (base + len) then 0 else tblGet (s.core core).wbuf 0 b)

/-- The matrix engine at work: K-steps, the other operations, and weight regions. The steps at which chunks are read and rows
written are the model's reading (DEDUCED, log entry 33), and so are that a zero element with a high scale raises X (DEDUCED, log
entry 34) and when `wbld` reports a fault (DEDUCED, log entry 32). -/
def Obligations.MatrixEvents : Prop := Spec.KSteps ∧ Spec.EngineOps ∧ Spec.RegionGrant

namespace Sys2Proof.Spec

/-! ### The assignment engine (R260 to R271) -/

/-- The fields of a descriptor, from its words (R261). -/
def rstride (w : List DWord) : Nat := ((w.getD 1 0).extractLsb' 48 16).toNat
def ncol (w : List DWord) : Nat := ((w.getD 1 0).extractLsb' 16 7).toNat
def nrow (w : List DWord) : Nat := ((w.getD 1 0).extractLsb' 0 11).toNat
def limitOf (w : List DWord) : Nat := ((w.getD 5 0).extractLsb' 32 16).toNat
def incOf (w : List DWord) : Nat := ((w.getD 5 0).extractLsb' 0 32).toNat

/-- An assignment operation by its opcode, and its descriptor base (R262). -/
def assignOpc (i : Instr) : Option (KReg × Nat) :=
  match i with
  | .asnRun a _ => some (a, 0x60)
  | .asnCont a _ => some (a, 0x61)
  | .asnBest a _ => some (a, 0x62)
  | .asnInv a _ => some (a, 0x63)
  | .asnChk a _ => some (a, 0x65)
  | _ => none

/-- Order 1 of R264: the fields that the operation uses are in range, the others and the reserved bits zero. -/
def asnFields (opc : Nat) (w : List DWord) : Prop :=
  (w.getD 1 0).extractLsb' 23 25 = 0 ∧ (w.getD 1 0).extractLsb' 11 5 = 0 ∧ (w.getD 5 0).extractLsb' 48 16 = 0 ∧
  1 ≤ nrow w ∧ nrow w ≤ 1024 ∧ 1 ≤ ncol w ∧ ncol w ≤ 64 ∧
  (opc ≤ 0x62 → 4 * ncol w ≤ rstride w) ∧ (0x62 < opc → w.getD 0 0 = 0 ∧ rstride w = 0) ∧
  (opc = 0x65 → w.getD 3 0 = 0) ∧
  (if opc ≤ 0x61 then 1 ≤ limitOf w else if opc = 0x63 then 1 ≤ limitOf w ∧ limitOf w ≤ 1024 else limitOf w = 0) ∧
  (if opc ≤ 0x61 then 1 ≤ incOf w ∧ incOf w < 0x7F800000 else incOf w = 0)

/-- Orders 2 to 4 of R264, and the tiles READY. -/
def asnRest (s : State) (gid : Nat) (g : Group) (opc : Nat) (w : List DWord) : Prop :=
  let ok (n al len : Nat) : Prop := (w.getD n 0).toNat % al = 0 ∧ rowsOk s gid g (w.getD n 0) 0 1 len
  (opc ≤ 0x62 → ok 0 8 (8 * ((nrow w + 63) / 64)) ∧ rstride w % 4 = 0) ∧ ok 2 4 (4 * ncol w) ∧
  (opc ≤ 0x62 → ok 3 4 (4 * ncol w)) ∧ (opc = 0x63 → ok 3 4 (4 * (ncol w * limitOf w))) ∧ ok 4 8 (8 * nrow w)

/-- A word of four bytes as an operation finds it: as it read it ahead, or as the tile holds it (R271). -/
def wordAt (s : State) (o : Op) (a : DWord) (off : Nat) : Nat := (tblFind o.ahead (a.toNat + off)).getD (tileNum s a off 4)

/-- What the tiles of a descriptor hold (R260). -/
def capAt (s : State) (o : Op) (w : List DWord) (j : Nat) : Nat := wordAt s o (w.getD 2 0) (4 * j)
def priceAt (s : State) (o : Op) (w : List DWord) (j : Nat) : Nat := wordAt s o (w.getD 3 0) (4 * j)
def columnAt (s : State) (o : Op) (w : List DWord) (r : Nat) : Int := (BitVec.ofNat 32 (wordAt s o (w.getD 4 0) (8 * r))).toInt
def bidAt (s : State) (o : Op) (w : List DWord) (r : Nat) : Nat := wordAt s o (w.getD 4 0) (8 * r + 4)
def chainAt (s : State) (w : List DWord) (c : Nat) : DWord := BitVec.ofNat 64 (tileNum s (w.getD 0 0) (8 * c) 8)
def scoreAt (s : State) (o : Op) (w : List DWord) (chain : Nat → DWord) (r j : Nat) : Nat :=
  wordAt s o (chain (r / 64)) (r % 64 * rstride w + 4 * j)

/-- F32 values (R265). -/
def negInf : Nat := 0xFF800000
def posInf : Nat := 0x7F800000
def isNan32 (x : Nat) : Bool := decide (x / 2 ^ 23 % 256 = 255 ∧ x % 2 ^ 23 ≠ 0)
def plus32 (a b : Nat) : Nat := (fmtF32.add .rne false (fmtF32.value a) (fmtF32.value b)).1
def minus32 (a b : Nat) : Nat := (fmtF32.sub .rne false (fmtF32.value a) (fmtF32.value b)).1

/-- A score as it reads (R265). -/
def score32 (x : Nat) : Nat := if isNan32 x then negInf else if x = posInf then 0x7F7FFFFF else x

/-- The value of column `j` to a row with score `x` (R265). -/
def value32 (cap price x : Nat) : Nat := if cap = 0 ∨ price = posInf then negInf else minus32 (score32 x) price

/-- Column `j` holds the largest value among the columns `p`, the lowest of those that do (R265). Values stand in order by
`bidRank`, which puts a NaN where the device ranks it. -/
def bestOf (n : Nat) (p : Nat → Prop) (v : Nat → Nat) (j : Nat) : Prop :=
  j < n ∧ p j ∧ ∀ k, k < n → p k → bidRank (v k) < bidRank (v j) ∨ (bidRank (v k) = bidRank (v j) ∧ j ≤ k)

/-- The largest value of the other columns is −∞, or there is none; it is `x`, above −∞. -/
def noSecond (n : Nat) (v : Nat → Nat) (j : Nat) : Prop := ∀ k, bestOf n (· ≠ j) v k → v k = negInf
def second (n : Nat) (v : Nat → Nat) (j x : Nat) : Prop := ∃ k, bestOf n (· ≠ j) v k ∧ v k = x ∧ x ≠ negInf

/-- A row with values `v` bids `b` on column `j` (R265). -/
def bidsFor (n inc : Nat) (price v : Nat → Nat) (j b : Nat) : Prop :=
  bestOf n (fun _ => True) v j ∧ v j ≠ negInf ∧
    ((noSecond n v j ∧ b = posInf) ∨ ∃ x, second n v j x ∧ b = plus32 (plus32 (price j) (minus32 (v j) x)) inc)

/-- Row `r` competes for column `j` with bid `b`: it holds it, or bids on it (R265). -/
def competes (a : Auction) (inc : Nat) (v : Nat → Nat → Nat) (j r b : Nat) : Prop :=
  r < a.held.length ∧ ((∃ x : BitVec 32, a.held.getD r none = some (j, x) ∧ x.toNat = b) ∨
    (a.held.getD r none = none ∧ bidsFor a.prices.length inc (fun k => (a.prices.getD k 0).toNat) (v r) j b))

/-- A bid of one row comes before a bid of another (R265). -/
def beats (r b q c : Nat) : Prop := bidRank c < bidRank b ∨ (bidRank c = bidRank b ∧ r < q)

/-- The row is among the `n` first of the rows `k`, given as row and bid. -/
def amongFirst (n : Nat) (k : Nat → Nat → Prop) (r b : Nat) : Prop :=
  ∃ l : List (Nat × Nat), (l.map (·.1)).Nodup ∧ (∀ x, x ∈ l ↔ k x.1 x.2 ∧ beats x.1 x.2 r b) ∧ l.length < n

/-- The status word of R269. -/
structure AssignStatus (w : DWord) (unasg rounds err opc outcome : Nat) (nansc clampsc : Bool) : Prop where
  unasg : (w.extractLsb' 48 11).toNat = unasg
  rounds : (w.extractLsb' 32 16).toNat = rounds
  err : (w.extractLsb' 24 8).toNat = err
  clampsc : w.getLsbD 18 = clampsc
  nansc : w.getLsbD 17 = nansc
  opc : (w.extractLsb' 8 8).toNat = opc
  outcome : (w.extractLsb' 0 8).toNat = outcome
  zero : w.extractLsb' 59 5 = 0 ∧ w.extractLsb' 19 5 = 0 ∧ w.getLsbD 16 = false

/-- The operation has ended, its status is the group's, and the registers stay (R269, R270). -/
def asnEnds (s' : State) (gid : Nat) (g : Group) (o : Op) (st : DWord → Prop) (err : Option PendErr := none) : Prop :=
  opEnds s' gid g o err ∧ ∃ g', s'.group gid = some g' ∧ st g'.asnStatus

/-- An operation fails with a code and an index, and writes no tile (R270). -/
def asnFails (s s' : State) (gid : Nat) (g : Group) (o : Op) (opc code idx : Nat) : Prop :=
  s'.tiles = s.tiles ∧ asnEnds s' gid g o (fun w => AssignStatus w 0 0 code opc 0 false false)
    (some { cause := 0x12, xval := BitVec.ofNat 64 (7 * 2 ^ 61 + code + 2 ^ 10 * idx) })

/-- The bytes of two tile ranges lie apart. -/
def apart (a : DWord) (n : Nat) (b : DWord) (m : Nat) : Prop :=
  handleOf a ≠ handleOf b ∨ offsetOf a + n ≤ offsetOf b ∨ offsetOf b + m ≤ offsetOf a

/-- Every byte of the tiles outside a range is as before. -/
def tilesBut (s s' : State) (p : Nat → Nat → Prop) : Prop := ∀ h x, ¬ p h x → tileAt s' h x = tileAt s h x
def inRange (a : DWord) (n h x : Nat) : Prop := h = handleOf a ∧ offsetOf a ≤ x ∧ x < offsetOf a + n

/-- The words of the results of all rows, and of a list at the price address (R260, R268). -/
def resultList (w : List DWord) (x : Nat → Option (Nat × Nat)) : List (DWord × Nat × Nat) :=
  (List.range (nrow w)).flatMap (fun r => [(w.getD 4 0, 8 * r, ((x r).map (·.1)).getD 0xFFFFFFFF),
    (w.getD 4 0, 8 * r + 4, ((x r).map (·.2)).getD 0)])
def numbers (w : List DWord) (n : Nat) (x : Nat → Nat) : List (DWord × Nat × Nat) :=
  (List.range n).map (fun k => (w.getD 3 0, 4 * k, x k))

/-- The operation has its result, which it has still to write, word by word, and then the status it leaves (R265, R271). -/
def comesTo (s s' : State) (gid : Nat) (g : Group) (o : Op) (words : List (DWord × Nat × Nat)) (st : DWord → Prop) : Prop :=
  s'.tiles = s.tiles ∧ ∃ g' out, s'.group gid = some g' ∧ g'.op o.id = some { o with out := some out } ∧ out.words = words ∧
    st out.status ∧ g'.v = g.v ∧ g'.k = g.k ∧ g'.asnStatus = g.asnStatus

/-- A byte of a word of four bytes. -/
def inWord (x : DWord × Nat × Nat) (h b : Nat) : Prop :=
  h = handleOf x.1 ∧ offsetOf x.1 + x.2.1 ≤ b ∧ b < offsetOf x.1 + x.2.1 + 4

/-- An operation that has its result writes what is left of it, and ends with its status (R269, R271). -/
def finishes (s s' : State) (gid : Nat) (g : Group) (o : Op) (out : AsnOut) : Prop :=
  asnEnds s' gid g o (· = out.status) ∧ tilesBut s s' (fun h b => ∃ x ∈ out.words, inWord x h b) ∧
  ((∀ x ∈ out.words, tilePlace s x.1) → out.words.Pairwise (fun x y => ∀ h b, ¬ (inWord x h b ∧ inWord y h b)) →
    ∀ x ∈ out.words, x.2.2 < 2 ^ 32 → tileNum s' x.1 x.2.1 4 = x.2.2)

/-- At most one word is read, or written, before its turn, by an operation that the engine may serve (R271). -/
def oneAhead (s s' : State) (cl : Nat) : Prop :=
  (s'.tiles = s.tiles ∧ s'.groups = s.groups) ∨
  ∃ x ∈ servable [] ((tblGet s.assignQ {} cl).ops.take 8), ∃ g g' o, s.awake x.2.1 = some g ∧ g.op x.2.2 = some o ∧
    s'.group x.2.1 = some g' ∧ g'.v = g.v ∧ g'.k = g.k ∧ g'.asnStatus = g.asnStatus ∧
    ((∃ out y, o.out = some out ∧ y ∈ out.words ∧ tilesBut s s' (inWord y) ∧
        (tilePlace s y.1 → y.2.2 < 2 ^ 32 → tileNum s' y.1 y.2.1 4 = y.2.2) ∧
        ∃ left, g'.op o.id = some { o with out := some left } ∧ left.status = out.status ∧ left.words = out.words.filter (· ≠ y)) ∨
      (o.out = none ∧ s'.tiles = s.tiles ∧ ∃ a off v, (a, off) ∈ s.asnReads o ∧ tblFind o.ahead (a.toNat + off) = none ∧
        g'.op o.id = some { o with ahead := tblSet o.ahead (a.toNat + off) v } ∧
        (wellFormed 2 a ∨ wellFormed 3 a → v = tileNum s a off 4)))

/-- The first index below `n` with a property. -/
def firstIndex (n : Nat) (p : Nat → Prop) (j : Nat) : Prop := j < n ∧ p j ∧ ∀ k, k < j → ¬ p k

/-- Result columns that break R268: out of range at row `j`, or else a column `j` that holds too many rows. -/
def startBad (s : State) (o : Op) (w : List DWord) (lim : Option Nat) (j : Nat) : Prop :=
  let far (r : Nat) : Prop := columnAt s o w r < -1 ∨ (ncol w : Int) ≤ columnAt s o w r
  let rows (k : Nat) : Nat := (List.range (nrow w)).countP (fun r => decide (columnAt s o w r = (k : Int)))
  firstIndex (nrow w) far j ∨
    ((∀ r, r < nrow w → ¬ far r) ∧ firstIndex (ncol w) (fun k => capAt s o w k < rows k ∨ ∃ l, lim = some l ∧ l < rows k) j)

/-- Every capacity, and every price, is one that an operation accepts (R270). -/
def capsOk (s : State) (o : Op) (w : List DWord) : Prop := ∀ j, j < ncol w → capAt s o w j ≤ 1024
def badPrice (x : Nat) : Prop := isNan32 x = true ∨ x = negInf

/-- Every chain entry is a tile address that the lane may use, aligned, its chunk inside (R270). -/
def chainOk (s : State) (gid : Nat) (g : Group) (w : List DWord) (c : Nat) : Prop :=
  let a := chainAt s w c
  a.toNat % 4 = 0 ∧ (wellFormed 2 a ∨ wellFormed 3 a) ∧
    ∃ t, s.tileFor gid g (wellFormed 3 a) (handleOf a) = some t ∧
      ∀ n, n < min 64 (nrow w - 64 * c) → offsetOf a + n * rstride w + 4 * ncol w ≤ t.size

end Sys2Proof.Spec

/-- R125, R263, R264: an assignment operation with no guard-active lane is counted in TX and does nothing; one that passes its checks joins the queue of its cluster's engine in TX, as `asn.stat` does; a
field out of range traps ENGINE code 0x03. -/
def Sys2Proof.Spec.AssignmentIssue : Prop :=
  ∀ (s : State) (iss : Issue) (g : Group) (i : Instr), Free s iss g i .user (fun _ _ _ _ => []) (some .tx) →
    (g.activeLanes iss i = [] → ((∃ d x, i = .asnStat d x) ∨ (Spec.assignOpc i).isSome = true) →
      EndsIn s iss i s (Spec.withEmpty g .tx) (fun j => (g.lane j).pass iss)) ∧
    (g.activeLanes iss i ≠ [] →
    let q := tblGet s.assignQ {} (g.core / 16)
    let queued : State := { s with
      nextId := s.nextId + 1
      assignQ := tblSet s.assignQ (g.core / 16) { q with ops := q.ops ++ [(s.nextId, iss.gid, g.nextOp)] } }
    (∀ d x, i = .asnStat d x →
      EndsIn s iss i queued (Spec.withOp g .tx (.asnStat d.toNat)) (fun j => (g.lane j).pass iss)) ∧
    (∀ a opc, Spec.assignOpc i = some (a, opc) →
      let w := (List.range 6).map (fun n => g.kGet (a.toNat + n))
      (Spec.asnFields opc w → Spec.asnRest s iss.gid (Spec.seenBy iss g i) opc w →
        EndsIn s iss i queued (Spec.withOp g .tx (.assign opc w ((g.activeLanes iss i).headD 0) none))
          (fun j => (g.lane j).pass iss)) ∧
      (¬ Spec.asnFields opc w → (trapMode g iss.mode).isSome = true → Spec.ActiveTrap s iss g i 0x12 0x8000000000000003)))

/-- R265, R269 to R271: AUCTION_ROUND of a group's turn reads the tiles and starts the auction, or fails it, or ends it INFEASIBLE;
then, a step at a time, it runs one round, in which each unassigned row with a value above −∞ bids on its best column and each column that received
a bid keeps the highest bids, up to its capacity, at the price of the lowest kept; and it comes to
its end, DONE without bidders or NONTERM at the limit, with the result and every price to write; then it writes them and retires. Where
another operation has the turn, at most one word is read or written ahead. -/
def Sys2Proof.Spec.AuctionRounds : Prop :=
  ∀ (s : State) (cl n gid opc lane : Nat) (g : Group) (o : Op) (w : List DWord) (a? : Option Auction),
    s.assignTurn cl = some (n, gid, g, o) → o.kind = .assign opc w lane a? →
    (opc ≠ 0x60 → opc ≠ 0x61 → ∃ s', exec (.auctionRound cl) s = .next s' ∧ Spec.oneAhead s s' cl) ∧
    ((opc = 0x60 ∨ opc = 0x61) →
    (∀ out, o.out = some out → ∃ s', exec (.auctionRound cl) s = .next s' ∧ Spec.finishes s s' gid g o out) ∧
    (o.out = none → (∀ k, k = 2 ∨ k = 3 ∨ k = 4 → Spec.tilePlace s (w.getD k 0)) →
    (Spec.wellFormed 2 (w.getD 0 0) ∨ Spec.wellFormed 3 (w.getD 0 0)) →
    Spec.nrow w ≤ 1024 → Spec.ncol w ≤ 64 →
    let price (j : Nat) : Nat := Spec.priceAt s o w j
    let cap (j : Nat) : Nat := Spec.capAt s o w j
    let total : Nat := ((List.range (Spec.ncol w)).map cap).sum
    let pricesOk : Prop := ∀ j, j < Spec.ncol w → ¬ Spec.badPrice (price j)
    ∃ s', exec (.auctionRound cl) s = .next s' ∧
    (a? = none →
      (∀ j, Spec.firstIndex (Spec.ncol w) (fun k => 1024 < cap k) j → Spec.asnFails s s' gid g o opc 3 j) ∧
      (∀ j, Spec.capsOk s o w → Spec.firstIndex (Spec.ncol w) (fun k => Spec.badPrice (price k)) j →
        Spec.asnFails s s' gid g o opc 4 j) ∧
      (Spec.capsOk s o w → pricesOk → total < Spec.nrow w →
        Spec.comesTo s s' gid g o (Spec.resultList w (fun _ => none))
          (fun x => Spec.AssignStatus x (Spec.nrow w) 0 0 opc 3 false false)) ∧
      (Spec.capsOk s o w → pricesOk → Spec.nrow w ≤ total →
        (∀ j, opc = 0x61 → Spec.startBad s o w none j → Spec.asnFails s s' gid g o opc 2 j) ∧
        ((opc = 0x61 → ∀ j, ¬ Spec.startBad s o w none j) →
          let chunks := (Spec.nrow w + 63) / 64
          (∀ c, Spec.firstIndex chunks (fun c => ¬ Spec.chainOk s gid (g.asLane lane) w c) c → Spec.asnFails s s' gid g o opc 1 (64 * c)) ∧
          ((∀ c, c < chunks → Spec.chainOk s gid (g.asLane lane) w c) → s'.tiles = s.tiles ∧
            ∃ a : Auction, (g.op o.id = some o → Spec.opGoes s' gid g o (.assign opc w lane (some a))) ∧
              a.rounds = 0 ∧ a.nansc = false ∧ a.clampsc = false ∧
              a.chain = (List.range chunks).map (Spec.chainAt s w) ∧ a.caps = (List.range (Spec.ncol w)).map cap ∧
              a.prices = (List.range (Spec.ncol w)).map (fun j => BitVec.ofNat 32 (price j)) ∧
              a.held = (List.range (Spec.nrow w)).map (fun r =>
                if opc = 0x61 ∧ 0 ≤ Spec.columnAt s o w r then
                  some ((Spec.columnAt s o w r).toNat, BitVec.ofNat 32 (Spec.bidAt s o w r))
                else none))))) ∧
    (∀ a, a? = some a → a.held.length = Spec.nrow w → a.prices.length = Spec.ncol w →
      (∀ c, Spec.wellFormed 2 (a.chain.getD c 0) ∨ Spec.wellFormed 3 (a.chain.getD c 0)) →
      let sc (r j : Nat) : Nat := Spec.scoreAt s o w (fun c => a.chain.getD c 0) r j
      let v (r j : Nat) : Nat := Spec.value32 (a.caps.getD j 0) (a.prices.getD j 0).toNat (sc r j)
      let p (j : Nat) : Nat := (a.prices.getD j 0).toNat
      let read (q : Nat → Bool) : Bool := (List.range (Spec.nrow w)).any (fun r => (a.held.getD r none).isNone &&
        (List.range (Spec.ncol w)).any (fun j => q (sc r j)))
      let bidder (r : Nat) : Prop := r < Spec.nrow w ∧ a.held.getD r none = none ∧ ∃ j, j < Spec.ncol w ∧ v r j ≠ Spec.negInf ∧
        Spec.bestOf (Spec.ncol w) (fun _ => True) (v r) j
      let unasg : Nat := a.held.countP (fun h => h.isNone)
      let ending (outcome : Nat) : Prop :=
        Spec.comesTo s s' gid g o (Spec.resultList w (fun r => (a.held.getD r none).map (fun x => (x.1, x.2.toNat))) ++
            Spec.numbers w (Spec.ncol w) p)
          (fun x => Spec.AssignStatus x unasg a.rounds 0 opc outcome
            (a.nansc || read Spec.isNan32) (a.clampsc || read (fun x => decide (x = Spec.posInf))))
      ((∀ r h, r < Spec.nrow w → a.held.getD r none = some h → h.1 < Spec.ncol w) → a.rounds < 65536 →
        ((∀ r, ¬ bidder r) → ending 1) ∧ ((∃ r, bidder r) → a.rounds = Spec.limitOf w → ending 2)) ∧
      ((∃ r, bidder r) → a.rounds ≠ Spec.limitOf w → g.op o.id = some o →
        let k (j r b : Nat) : Prop := Spec.competes a (Spec.incOf w) v j r b
        let asked (j : Nat) : Prop := j < Spec.ncol w ∧ ∃ r b, r < Spec.nrow w ∧ a.held.getD r none = none ∧ k j r b
        s'.tiles = s.tiles ∧
        ∃ a' : Auction, Spec.opGoes s' gid g { o with ahead := [] } (.assign opc w lane (some a')) ∧ a'.rounds = a.rounds + 1 ∧ a'.chain = a.chain ∧
          a'.caps = a.caps ∧ a'.held.length = a.held.length ∧ a'.prices.length = a.prices.length ∧
          a'.nansc = (a.nansc || read Spec.isNan32) ∧ a'.clampsc = (a.clampsc || read (fun x => decide (x = Spec.posInf))) ∧
          (∀ j, j < Spec.ncol w → ¬ asked j → a'.prices.getD j 0 = a.prices.getD j 0) ∧
          (∀ r j b, k j r b → j < Spec.ncol w →
            (¬ asked j → a'.held.getD r none = a.held.getD r none) ∧
            (asked j → (Spec.amongFirst (a.caps.getD j 0) (k j) r b → a'.held.getD r none = some (j, BitVec.ofNat 32 b)) ∧
              (¬ Spec.amongFirst (a.caps.getD j 0) (k j) r b → a'.held.getD r none = none))) ∧
          (∀ r, r < Spec.nrow w → a.held.getD r none = none → ¬ bidder r → a'.held.getD r none = none) ∧
          (∀ j r b, asked j → k j r b → Spec.amongFirst (a.caps.getD j 0) (k j) r b →
            (∀ q c, k j q c → Spec.amongFirst (a.caps.getD j 0) (k j) q c → (q, c) = (r, b) ∨ Spec.beats q c r b) →
            a'.prices.getD j 0 = BitVec.ofNat 32 b)))))

/-- R267 to R271: ASSIGNMENT_OP_EXECUTE finds each row's best column with its margin, or the rows of each column in order, or
checks a result and has nothing to write; at a later step it writes what it found and retires; `asn.stat` gives K[d] the status word
once every older operation of its class has retired. Where an auction has the turn, at most one word is read or written ahead. -/
def Sys2Proof.Spec.AssignmentOps : Prop :=
  ∀ (s : State) (cl n gid : Nat) (g : Group) (o : Op), s.assignTurn cl = some (n, gid, g, o) →
    ∃ s', exec (.assignmentOpExecute cl) s = .next s' ∧
    (∀ w lane a? opc, o.kind = .assign opc w lane a? →
      ((opc = 0x60 ∨ opc = 0x61) → Spec.oneAhead s s' cl) ∧
      (opc ≠ 0x60 → opc ≠ 0x61 → ∀ out, o.out = some out → Spec.finishes s s' gid g o out)) ∧
    (∀ kd, o.kind = .asnStat kd → g.oldest o = false → s'.groups = s.groups ∧ s'.tiles = s.tiles) ∧
    (∀ kd, o.kind = .asnStat kd → g.oldest o = true → s'.tiles = s.tiles ∧
      ∃ g', s'.group gid = some g' ∧ (∀ p ∈ g'.ops, p.id = o.id → p.ended = true) ∧ g'.v = g.v ∧ g'.asnStatus = g.asnStatus ∧
        ∀ k, g'.kGet k = if k = kd then g.asnStatus else g.kGet k) ∧
    (∀ w lane a?, o.kind = .assign 0x62 w lane a? → o.out = none → Spec.capsOk s o w →
      (∀ j, j < Spec.ncol w → ¬ Spec.badPrice (Spec.priceAt s o w j)) → (∀ k, k = 2 ∨ k = 3 ∨ k = 4 → Spec.tilePlace s (w.getD k 0)) →
      (Spec.wellFormed 2 (w.getD 0 0) ∨ Spec.wellFormed 3 (w.getD 0 0)) → Spec.nrow w ≤ 1024 → Spec.ncol w ≤ 64 →
      (∀ c, c < (Spec.nrow w + 63) / 64 → Spec.chainOk s gid (g.asLane lane) w c) →
      let sc (r j : Nat) : Nat := Spec.scoreAt s o w (Spec.chainAt s w) r j
      let v (r j : Nat) : Nat := Spec.value32 (Spec.capAt s o w j) (Spec.priceAt s o w j) (sc r j)
      let low (r : Nat) : Prop := ∀ j, j < Spec.ncol w → Spec.posInf ≤ v r j % 2 ^ 31
      let read (q : Nat → Bool) : Bool := (List.range (Spec.nrow w)).any (fun r => (List.range (Spec.ncol w)).any (fun j => q (sc r j)))
      ∃ x : Nat → Option (Nat × Nat),
        (∀ r, r < Spec.nrow w → low r → x r = none) ∧
        (∀ r j, r < Spec.nrow w → ¬ low r → Spec.bestOf (Spec.ncol w) (fun _ => True) (v r) j →
          (v r j = Spec.negInf → x r = none) ∧
          (v r j ≠ Spec.negInf → (Spec.noSecond (Spec.ncol w) (v r) j → x r = some (j, Spec.posInf)) ∧
            ∀ y, Spec.second (Spec.ncol w) (v r) j y → x r = some (j, Spec.minus32 (v r j) y))) ∧
        Spec.comesTo s s' gid g o (Spec.resultList w x) (fun st =>
          Spec.AssignStatus st ((List.range (Spec.nrow w)).countP (fun r => (x r).isNone)) 0 0 0x62 1
            (read Spec.isNan32) (read (fun x => decide (x = Spec.posInf))))) ∧
    (∀ w lane a? opc, o.kind = .assign opc w lane a? → o.out = none → (opc = 0x63 ∨ opc = 0x65) →
      (∀ k, k = 2 ∨ k = 4 ∨ (opc = 0x63 ∧ k = 3) → Spec.tilePlace s (w.getD k 0)) → Spec.nrow w ≤ 1024 →
      Spec.ncol w ≤ 64 →
      let lim : Option Nat := if opc = 0x63 then some (Spec.limitOf w) else none
      let unasg : Nat := (List.range (Spec.nrow w)).countP (fun r => decide (Spec.columnAt s o w r = -1))
      (∀ j, Spec.firstIndex (Spec.ncol w) (fun k => 1024 < Spec.capAt s o w k) j → Spec.asnFails s s' gid g o opc 3 j) ∧
      (∀ j, Spec.capsOk s o w → Spec.startBad s o w lim j → Spec.asnFails s s' gid g o opc 2 j) ∧
      (Spec.capsOk s o w → (∀ j, ¬ Spec.startBad s o w lim j) →
        Spec.comesTo s s' gid g o
          (if opc = 0x63 then Spec.numbers w (Spec.ncol w * Spec.limitOf w) (fun n =>
            ((List.range (Spec.nrow w)).filter (fun r =>
              decide (Spec.columnAt s o w r = ((n / Spec.limitOf w : Nat) : Int)))).getD (n % Spec.limitOf w) 0xFFFFFFFF)
          else [])
          (fun x => Spec.AssignStatus x unasg 0 0 opc 1 false false)))

/-- The assignment class: issue, auctions, and the other operations. Where a NaN ranks among values and bids is a free value
(DESIGN CHOICE, log entry 11); the steps at which words are read and written, and which of several errors is reported, with the
xval of a misaligned row stride, are the model's reading (DEDUCED, log entries 33 and 35). -/
def Obligations.Assignments : Prop := Spec.AssignmentIssue ∧ Spec.AuctionRounds ∧ Spec.AssignmentOps

namespace Sys2Proof.Spec

/-! ### The fabric and the Blend engine (R314 to R323) -/

/-- A GLOBAL address, a multiple of `n` (R321). -/
def globalOk (a : DWord) (n : Nat) : Prop := wellFormed 0 a = true ∧ a.toNat % n = 0

/-- Fields of the words of R316: fabric number, window, offset, interface. -/
def dpkgOf (w : DWord) : Nat := (w.extractLsb' 40 14).toNat
def winOf (w : DWord) : Nat := (w.extractLsb' 36 4).toNat
def offOf (w : DWord) : Nat := (w.extractLsb' 0 36).toNat
def viOf (w : DWord) : Nat := (w.extractLsb' 24 11).toNat

/-- An interface word: its reserved bits zero, and an interface (R316). -/
def ifaceOk (w : DWord) : Prop :=
  w < 2 ^ 54 ∧ w.extractLsb' 35 5 = 0 ∧ w.extractLsb' 0 24 = 0 ∧ 1 ≤ viOf w ∧ viOf w ≤ 1024

/-- What a fabric or Blend instruction other than a copy asks: its class and opcode, its act and remote word, whether its fields
are in range, whether the rest of its checks pass. -/
structure FabricAsk where
  cls : Cls
  opc : Nat
  act : FabAct
  target : DWord
  fields : Prop
  rest : Prop

/-- The instructions of R316 that send or open something (R317 to R323). -/
def fabricAsk (s : State) (iss : Issue) (g : Group) (i : Instr) : Option FabricAsk :=
  let g' := seenBy iss g i
  let k (a : KReg) (n : Nat) : DWord := g.kGet (a.toNat + n)
  let rankOk (w : DWord) : Prop := w < 2 ^ 48 ∧ w.extractLsb' 12 12 = 0
  match i with
  | .frdK d a _ => some
      { cls := .ld, opc := 0x72, act := .frdK d.toNat, target := k a 0, fields := k a 0 < 2 ^ 54, rest := offOf (k a 0) % 8 = 0 }
  | .fatom d a ex _ => some
      { cls := .ur, opc := 0x73, act := .fatom d.toNat ex (k a 1), target := k a 0, fields := k a 0 < 2 ^ 54
        rest := offOf (k a 0) % 8 = 0 }
  | .fsend a _ =>
    let n := ((k a 2).extractLsb' 32 8).toNat
    some
      { cls := .st, opc := 0x74, act := .fsend ((k a 2).extractLsb' 0 32) n (k a 0), target := k a 1
        fields := ifaceOk (k a 1) ∧ k a 2 < 2 ^ 40 ∧ n ≤ 240
        rest := (k a 0).toNat % 16 = 0 ∧ ((wellFormed 0 (k a 0) = true ∧ (k a 0).toNat + n ≤ 2 ^ 48) ∨
          (rowsOk s iss.gid g' (k a 0) 0 1 n ∧ offsetOf (k a 0) + n ≤ 2 ^ 24)) }
  | .fevent a _ => some
      { cls := .st, opc := 0x75, act := .fevent ((k a 1).extractLsb' 0 8), target := k a 0
        fields := ifaceOk (k a 0) ∧ k a 1 < 256, rest := True }
  | .fstat d _ => some { cls := .tx, opc := 0x76, act := .fstat d.toNat, target := 0, fields := True, rest := True }
  | .bopen d a _ =>
    let w := k a 1
    let cap := (w.extractLsb' 32 24).toNat
    let fmt := (w.extractLsb' 28 4).toNat
    let thr := (w.extractLsb' 17 11).toNat
    let n := (w.extractLsb' 0 13).toNat
    some
      { cls := .tx, opc := 0x77, act := .bopen d.toNat [k a 0, k a 1, k a 2, k a 3], target := 0
        fields := w < 2 ^ 56 ∧ w.extractLsb' 13 4 = 0 ∧ 2 ≤ cap ∧ (fmt = 1 ∨ fmt = 5) ∧ 1 ≤ thr ∧ thr ≤ 1024 ∧ 1 ≤ n ∧ n ≤ 4096 ∧
          k a 3 < 2 ^ 48
        rest := globalOk (k a 0) 8 ∧ globalOk (k a 2) 16 }
  | .bpush a _ => some
      { cls := .tx, opc := 0x78, act := .bpush [k a 0, k a 1, k a 2] 0 0 0 0, target := k a 0
        fields := rankOk (k a 2) ∧ (k a 2).extractLsb' 24 24 ≠ 0, rest := globalOk (k a 1) 8 }
  | .bclose a _ => some
      { cls := .tx, opc := 0x79, act := .bclose [k a 0, k a 1, k a 2], target := k a 0, fields := rankOk (k a 2), rest := True }
  | .bstat d a _ => some
      { cls := .tx, opc := 0x7A, act := .bstat d.toNat (k a 0), target := k a 0, fields := True, rest := True }
  | .bfree a _ => some { cls := .tx, opc := 0x7B, act := .bfree (k a 0), target := k a 0, fields := True, rest := True }
  | _ => none

/-- `fwr` and `frd`: whether bytes leave, and the operands (R317). -/
def remoteCopyOf (i : Instr) : Option (Bool × KReg × KReg) :=
  match i with
  | .fwr a b _ => some (true, a, b)
  | .frd a b _ => some (false, a, b)
  | _ => none

/-- The copy of a `fwr` or `frd` (R317). -/
def remoteCopy (g : Group) (iss : Issue) (i : Instr) (out : Bool) (a b : KReg) (pod : Bool) : CopyOp where
  src := if out then g.kGet a.toNat else 0
  dst := if out then 0 else g.kGet a.toNat
  rows := 1
  rowBytes := ((g.kGet (a.toNat + 2)).extractLsb' 0 32).toNat
  sstride := 0
  dstride := 0
  credit := if (g.kGet b.toNat).getLsbD 32 then some ((g.kGet b.toNat).extractLsb' 0 32) else none
  scope := if pod then 6 else 10
  mode := iss.mode
  lane := (g.activeLanes iss i).headD 0
  done := []
  writes := []
  ended := false
  suspended := false
  pageTag := none
  answered := false
  credited := 0

/-- The fabric status word with one more outcome (R319). -/
structure FabStatusIs (w w' : DWord) (opc outcome : Nat) : Prop where
  same : outcome = 0 → w' = w
  count : outcome ≠ 0 → (w'.extractLsb' 16 16).toNat = min ((w.extractLsb' 16 16).toNat + 1) 65535
  first : outcome ≠ 0 → w.extractLsb' 16 16 = 0 → (w'.extractLsb' 0 8).toNat = outcome ∧ (w'.extractLsb' 8 8).toNat = opc
  later : outcome ≠ 0 → w.extractLsb' 16 16 ≠ 0 → w'.extractLsb' 0 16 = w.extractLsb' 0 16

/-- An operation of the fabric has ended with an outcome: K registers as `k` says, the status word as R319 says. -/
def fabEnds (s' : State) (gid : Nat) (g : Group) (o : Op) (outcome : Nat) (k : Nat → DWord) : Prop :=
  ∃ g', s'.group gid = some g' ∧ (∀ p ∈ g'.ops, p.id = o.id → p.ended = true) ∧ g'.v = g.v ∧ g'.p = g.p ∧ g'.lanes = g.lanes ∧
    (∀ n, g'.kGet n = k n) ∧ FabStatusIs g.fabStatus g'.fabStatus o.opc outcome

/-- One K register written. -/
def kSet (g : Group) (d : Nat) (x : DWord) (n : Nat) : DWord := if n = d then x else g.kGet n

/-- Bytes `n` of them from guest address `a` on translate to the places `p` (R172), and the translation budget is not used up (R62). -/
def placed (s : State) (x : Xlate) (m : Need) (a n : Nat) (p : Nat → Nat) : Prop :=
  s.exhausted x.leaf 5 = false ∧ ∀ i, i < n → ∃ es, s.translate x m (a + i) = .ok (p i, es)

/-- A write of the hub in flight (R277): the one with the next number, at a level of the path. -/
def hubWriteOf (s : State) (launch level n : Nat) (p : Nat → Nat) (b : Nat → Byte) : Write :=
  { id := s.nextId, gid := 0, lane := 0, launch := launch, core := none, level := level,
    bytes := (List.range n).map (fun i => (.sys (p i), b i)) }

/-- A write of the hub that enters the path at a level: in flight there, or, at 6, in memory. -/
def hubWrites (s s' : State) (launch level n : Nat) (p : Nat → Nat) (b : Nat → Byte) : Prop :=
  (level ≠ 6 → s'.flight = s.flight ++ [hubWriteOf s launch level n p b] ∧ s'.mem = s.mem) ∧
  (level = 6 → s'.flight = s.flight ∧ (∀ a, (∀ i, i < n → p i ≠ a) → tblGet s'.mem 0 a = tblGet s.mem 0 a) ∧
    ((∀ i j, i < n → j < n → p i = p j → i = j) → ∀ i, i < n → tblGet s'.mem 0 (p i) = b i))

/-- The answer to a packet of another package (R314). -/
def answerTo (s : State) (p : FabPacket) (outcome off : Nat) (data : List Byte) : FabPacket :=
  { src := s.dpkg, srcLeaf := p.srcLeaf, dst := p.src, gid := p.gid, op := p.op, body := .reply outcome off data }

/-- A packet of a leaf leaves, or waits while its fabric budget is used up or older packets of the leaf wait (R62, R314). -/
def goesOut (s s' : State) (leaf : Nat) (p : FabPacket) : Prop :=
  let waits : Prop := s.exhausted leaf 2 = true ∨ ∃ w ∈ s.outwait, w.1 = leaf
  (waits → s'.outbox = s.outbox ∧ s'.outwait = s.outwait ++ [(leaf, .packet p)]) ∧
  (¬ waits → s'.outbox = s.outbox ++ [p] ∧ s'.outwait = s.outwait)

/-- The answer to a packet is sent, if its package has a route (R314); it counts against the budget of the leaf that the packet was
addressed to, where there is one (the model's choice, log entry 101). -/
def replied (s s' : State) (p : FabPacket) (outcome off : Nat) (data : List Byte) : Prop :=
  (p.src ∉ s.routes → s'.outbox = s.outbox ∧ s'.outwait = s.outwait) ∧
  (p.src ∈ s.routes → match s.packetLeaf p with
    | some leaf => goesOut s s' leaf (answerTo s p outcome off data)
    | none => s'.outbox = s.outbox ++ [answerTo s p outcome off data])

/-- A packet has been dealt with: it leaves the router, and its answer is sent. -/
def answered (s s' : State) (pid : Nat) (p : FabPacket) (outcome off : Nat) (data : List Byte) : Prop :=
  s'.inbox = tblErase s.inbox pid ∧ replied s s' p outcome off data

/-- A packet of an operation of a group (R314). -/
def packetOf (s : State) (g : Group) (gid : Nat) (o : Op) (dst : Nat) (b : FabBody) : FabPacket :=
  { src := s.dpkg, srcLeaf := g.leaf, dst := dst, gid := gid, op := o.id, body := b }

end Sys2Proof.Spec

/-- R125, R316 to R318, R321, R323: a fabric or Blend instruction with no guard-active lane is counted in its class and does
nothing; one that passes its checks is counted in its class, with the writes that its group has issued before it; a field out of
range traps ENGINE code 0x03. `fwr` and `frd` take their tile as a copy does. The order of the checks of `fwr` and `frd` is the
model's reading (DEDUCED, log entry 38), and so are what a package may address and the order of a group's Blend operations
(DEDUCED, log entries 37 and 41). -/
def Obligations.FabricIssue : Prop :=
  ∀ (s : State) (iss : Issue) (g : Group) (i : Instr),
    (∀ cls, ((∃ f, Spec.fabricAsk s iss g i = some f ∧ f.cls = cls) ∨ ((Spec.remoteCopyOf i).isSome = true ∧ cls = .cp)) →
      Free s iss g i .user (fun _ _ _ _ => []) (some cls) → g.activeLanes iss i = [] →
      EndsIn s iss i s (Spec.withEmpty g cls) (fun j => (g.lane j).pass iss)) ∧
    (g.activeLanes iss i ≠ [] →
    let g' := Spec.seenBy iss g i
    (∀ f, Spec.fabricAsk s iss g i = some f → Free s iss g i .user (fun _ _ _ _ => []) (some f.cls) →
      (f.fields → f.rest → EndsIn s iss i s
        (Spec.withOp g f.cls (.fabric f.act f.target iss.mode (s.ownWrites iss.gid ++ g.fwaited) false none) f.opc)
        (fun j => (g.lane j).pass iss)) ∧
      (¬ f.fields → (trapMode g iss.mode).isSome = true → Spec.ActiveTrap s iss g i 0x12 0x8000000000000003)) ∧
    (∀ out a b, Spec.remoteCopyOf i = some (out, a, b) → Free s iss g i .user (fun _ _ _ _ => []) (some .cp) →
      let at0 := g.kGet a.toNat
      let w := g.kGet (a.toNat + 1)
      let n := g.kGet (a.toNat + 2)
      let c := Spec.remoteCopy g iss i out a b (decide (Spec.dpkgOf w / 256 = s.dpkg / 256))
      let fields : Prop := w < 2 ^ 54 ∧ n < 2 ^ 32 ∧ 4 ≤ n.toNat ∧ n.toNat ≤ 16777216 ∧ n.toNat % 4 = 0 ∧ g.kGet b.toNat < 2 ^ 33
      let change : TileState → Option TileState := if out then Spec.leaving else Spec.entering
      (fields → at0.toNat % 4 = 0 → Spec.offOf w % 4 = 0 →
        ((Spec.wellFormed 0 at0 = true ∧ at0.toNat + n.toNat ≤ 2 ^ 48) ∨
          ((Spec.wellFormed 2 at0 ∨ Spec.wellFormed 3 at0) ∧ Spec.offsetOf at0 + n.toNat ≤ 2 ^ 24 ∧
            ∃ t, s.tileFor iss.gid g' (Spec.wellFormed 3 at0) (Spec.handleOf at0) = some t ∧ Spec.offsetOf at0 + n.toNat ≤ t.size)) →
        (∀ h, c.credit = some h → s.ownBarrier iss.gid g' h.toNat = true) → Spec.tileFree s at0 change →
        EndsIn s iss i (Spec.tileState s at0 (fun t => (change t).getD t))
          (Spec.withOp g .cp (.remoteCopy out (Spec.dpkgOf w) (Spec.winOf w) (Spec.offOf w) c) (if out then 0x70 else 0x71))
          (fun j => (g.lane j).pass iss)) ∧
      (¬ fields → (trapMode g iss.mode).isSome = true → Spec.ActiveTrap s iss g i 0x12 0x8000000000000003)))

namespace Sys2Proof.Spec

/-! ### Merge sessions (R320 to R323) -/

/-- What the next item makes of a rank's stream, and whether it keeps R320. -/
structure Taken (r r' : Rank) (x : DWord) (ok : Bool) : Prop where
  stopped : r.cut = true → r' = r ∧ ok = true
  sparse : r.cut = false → r.items = [] → x.getLsbD 31 = false → (∀ l, r.last = some l → l < (x.extractLsb' 0 32).toNat) →
    ok = true ∧ { r' with keys := r.keys, last := r.last } = r ∧ r'.last = some (x.extractLsb' 0 32).toNat ∧
    ∀ k, tblFind r'.keys k = if k = (x.extractLsb' 0 32).toNat then some (x.extractLsb' 32 32) else tblFind r.keys k
  header : ∀ w, r.cut = false → r.items = [] → w ≤ 0x1FFFFF → x = BitVec.ofNat 64 (2 ^ 31 + w) →
    (∀ l, r.last = some l → l < 1024 * w) → ok = true ∧ r' = { r with items := [x] }
  breach : r.cut = false → r.items = [] →
    ((x.getLsbD 31 = false ∧ ∃ l, r.last = some l ∧ (x.extractLsb' 0 32).toNat ≤ l) ∨
      (x.getLsbD 31 = true ∧ (x.extractLsb' 32 32 ≠ 0 ∨ 2 ^ 31 + 0x1FFFFF < (x.extractLsb' 0 32).toNat ∨
        ∃ l, r.last = some l ∧ 1024 * ((x.extractLsb' 0 32).toNat - 2 ^ 31) ≤ l))) →
    ok = false ∧ r' = { r with cut := true }
  body : r.cut = false → r.items ≠ [] → r.items.length < 512 → ok = true ∧ r' = { r with items := r.items ++ [x] }
  last : ∀ w, r.cut = false → r.items.length = 512 → r.items.head? = some (BitVec.ofNat 64 (2 ^ 31 + w)) → w ≤ 0x1FFFFF →
    ok = true ∧ { r' with items := r.items, keys := r.keys, last := r.last } = r ∧ r'.items = [] ∧
    r'.last = some (1024 * w + 1023) ∧ ∀ k, tblFind r'.keys k =
      if 1024 * w ≤ k ∧ k < 1024 * w + 1024 then
        some (((r.items ++ [x]).getD ((k - 1024 * w) / 2 + 1) 0).extractLsb' (32 * (k % 2)) 32)
      else tblFind r.keys k

/-- A session after a rank has taken something in: a breach is recorded (R323). -/
def withRank (x : Session) (n : Nat) (r : Rank) (ok : Bool) : Session :=
  { x with
    ranks := tblSet x.ranks n r
    badStream := x.badStream || !ok
    badRank := if ok || x.badStream then x.badRank else n
    incomplete := x.incomplete || !ok }

/-- A rank at the end of a segment (R320). -/
def segmentOver (r : Rank) : Rank × Bool :=
  if r.cut = true ∨ r.items = [] then ({ r with busy := none }, true) else ({ r with items := [], cut := true, busy := none }, false)

/-- A session that takes items: open, not cut short as a whole (R323). -/
def taking (x : Session) : Prop := x.ended = false ∧ x.ending = false ∧ x.timedOut = false ∧ x.aborted = false ∧ x.broken = false

/-- No packet waits at a rank (R321). -/
def idle (x : Session) : Prop := ∀ n, (x.rank n).queue = []

/-- The stream of a rank has come to its end (R323). -/
def rankEnded (x : Session) (n : Nat) : Prop :=
  x.timedOut = true ∨ x.aborted = true ∨ x.broken = true ∨ (x.rank n).closed = true ∨ (x.rank n).cut = true

/-- Its tables are in order. -/
def inOrder (x : Session) : Prop :=
  (x.ranks.map (·.1)).Nodup ∧ ∀ p ∈ x.ranks, p.1 < x.nrank ∧ tblSortedFrom 0 p.2.keys = true

/-- Some rank supplies key `k` (R322). -/
def presentKey (x : Session) (k : Nat) : Bool := (List.range x.nrank).any (fun n => (tblFind (x.rank n).keys k).isSome)

/-- The value of a key and the flags of its sums (R322, R309). -/
def mergedValue (x : Session) (k : Nat) : Nat × Flags :=
  let vs := (List.range x.nrank).map (fun n => (tblFind (x.rank n).keys k).map (·.toNat))
  if x.f32 then
    (tree (fun (a b : Nat × Flags) => let r := urnStep .fadd 4 a.1 b.1 0; (r.1, r.2 ||| a.2 ||| b.2))
      (vs.map (fun v => v.map (fun n => (n, (0 : Flags)))))).getD (0, 0)
  else ((vs.map (fun v => v.getD 0)).sum % 2 ^ 32, 0)

/-- The record that the merge writes for key `k`: its items, the key after it, its flags (R320, R322). -/
def mergeRecord (x : Session) (k : Nat) : List DWord × Nat × Flags :=
  let w := k / 1024
  if (List.range 1024).countP (fun i => presentKey x (1024 * w + i)) < x.dthresh then
    ([BitVec.ofNat 64 ((mergedValue x k).1 * 2 ^ 32 + k)], k + 1, (mergedValue x k).2)
  else
    let v (i : Nat) : Nat := (mergedValue x (1024 * w + i)).1
    (BitVec.ofNat 64 (2 ^ 31 + w) :: (List.range 512).map (fun i => BitVec.ofNat 64 (v (2 * i + 1) * 2 ^ 32 + v (2 * i))),
      1024 * (w + 1), (List.range 1024).foldl (fun f i => f ||| (mergedValue x (1024 * w + i)).2) 0)

/-- The status word of a session (R323). -/
structure SessionStatus (w : DWord) (x : Session) (state : Nat) : Prop where
  state : (w.extractLsb' 62 2).toNat = state
  badRank : (w.extractLsb' 50 12).toNat = x.badRank
  fpflags : w.extractLsb' 45 5 = x.fpflags
  bits : w.getLsbD 44 = x.badStream ∧ w.getLsbD 43 = x.aborted ∧ w.getLsbD 42 = x.timedOut ∧ w.getLsbD 41 = x.incomplete ∧
    w.getLsbD 40 = x.ovf ∧ w.extractLsb' 37 3 = 0
  closed : (w.extractLsb' 24 13).toNat = (List.range x.nrank).countP (fun n => (x.rank n).closed)
  items : (w.extractLsb' 0 24).toNat = x.items

/-- The fields of a session that hold a count are in range. -/
def inRanges (x : Session) : Prop := x.badRank < 4096 ∧ x.nrank ≤ 4096 ∧ x.items < 2 ^ 24

/-- The writes of items to the output, one of 8 bytes each, at PACKAGE (R323, R277). -/
def itemWrites (s : State) (x : Session) (items : List DWord) (p : Nat → Nat) : List Write :=
  items.zipIdx.map (fun q =>
    { id := s.nextId + q.2, gid := 0, lane := 0, launch := x.launch, core := none, level := 4,
      bytes := (List.range 8).map (fun j => (.sys (p (8 * q.2 + j)), q.1.extractLsb' (8 * j) 8)) })

end Sys2Proof.Spec

/-- R62, R314, R317 to R319: what FABRIC_OP_RETIRE does for an operation of the fabric: it sends the packet once what the operation must
follow has performed, unless the package has no route or the target is not allowed; it ends it once it has been answered and is
the oldest of its class, with the outcome in the fabric status word; `fstat` reads and clears that word. -/
def Sys2Proof.Spec.FabricOps : Prop :=
  ∀ (s : State) (gid : Nat) (g : Group) (o : Op), s.awake gid = some g → g.op o.id = some o → o.ended = false → g.resident = true →
    o.opc < 256 →
    ∃ s', exec (.fabricOpRetire gid o.id) s = .next s' ∧ s'.mem = s.mem ∧
    (∀ kd t m ws st got, o.kind = .fabric (.fstat kd) t m ws st got → g.oldest o = true →
      (∀ p ∈ g.ops, p.id < o.id → p.kind.isFabric = false) →
      ∃ g', s'.group gid = some g' ∧ (∀ p ∈ g'.ops, p.id = o.id → p.ended = true) ∧ g'.v = g.v ∧ g'.fabStatus = 0 ∧
        ∀ n, g'.kGet n = Spec.kSet g kd g.fabStatus n) ∧
    (∀ f t m ws st oc v, o.kind = .fabric f t m ws st (some (oc, v)) → g.oldest o = true → oc < 256 →
      (∀ kd, (f = .frdK kd ∨ ∃ e x, f = .fatom kd e x) → Spec.fabEnds s' gid g o oc (Spec.kSet g kd (if oc = 0 then v else 0))) ∧
      (((∃ a b c, f = .fsend a b c) ∨ ∃ a, f = .fevent a) → Spec.fabEnds s' gid g o oc g.kGet)) ∧
    (∀ f t m ws, o.kind = .fabric f t m ws false none →
      let d := Spec.dpkgOf t
      let target : BitVec 32 := BitVec.ofNat 32 (2 ^ 31 + d * 2 ^ 16 + Spec.viOf t)
      let sends (b : FabBody) : Prop := Spec.goesOut s s' g.leaf (Spec.packetOf s g gid o d b) ∧
        Spec.opGoes s' gid g o (.fabric f t m ws true none)
      let gets (oc : Nat) : Prop := s'.outbox = s.outbox ∧ s'.outwait = s.outwait ∧ Spec.opGoes s' gid g o (.fabric f t m ws true (some (oc, 0)))
      let first : Prop := (∀ w ∈ ws, s.performed w (if d / 256 = s.dpkg / 256 then 5 else 6) = true) ∧ g.farPending o.id = false
      (∀ kd, f = .frdK kd → (d ≠ s.dpkg → d ∉ s.routes → gets 4) ∧
        (d ≠ s.dpkg → d ∈ s.routes →
          sends (.read (Spec.winOf t) (Spec.offOf t) 8 (Spec.offOf t) 8))) ∧
      (∀ kd e x, f = .fatom kd e x → d ≠ s.dpkg → (d ∉ s.routes → gets 4) ∧ (d ∈ s.routes →
        sends (.atom (Spec.winOf t) (Spec.offOf t) e x))) ∧
      (∀ n, f = .fevent n → (target ∉ (s.part g.leaf).msgTgt → gets 3) ∧
        (target ∈ (s.part g.leaf).msgTgt → first → d ≠ s.dpkg → d ∈ s.routes →
          sends (.event (Spec.viOf t) n))) ∧
      (∀ tag n a, f = .fsend tag n a → (target ∉ (s.part g.leaf).msgTgt → gets 3) ∧
        (target ∈ (s.part g.leaf).msgTgt → first → d ≠ s.dpkg → d ∈ s.routes → n = 0 →
          s.asleep g.core = false → (gid, o.id) ∉ s.pageFails → sends (.msg (Spec.viOf t) tag [])))) ∧
    (∀ out d w off c, o.kind = .remoteCopy out d w off c → c.suspended = false → c.asked.length = c.acked →
      (c.ended = true ∨ (if out then c.acked else c.done.length) = c.total) → c.outcome < 256 →
      (∀ i ∈ c.writes, s.performed i (if c.scope ≤ 6 then c.scope - 1 else 6) = true) → 2 ≤ c.scope → s.creditAsleep c = false →
      Spec.fabEnds s' gid g o c.outcome g.kGet ∧ s'.flight = s.flight ∧ Spec.creditedTo s s' c.credit (c.total - c.credited))

/-- R321, R323: `bopen`, `bclose`, `bstat` and `bfree` carried out, each when it is the oldest of its group in TX. -/
def Sys2Proof.Spec.SessionOps : Prop :=
  ∀ (s : State) (gid : Nat) (g : Group) (o : Op) (f : FabAct) (t : DWord) (m : Mode) (ws : List Nat),
    s.awake gid = some g → g.op o.id = some o → o.ended = false → g.resident = true → o.opc < 256 →
    o.kind = .fabric f t m ws false none → f.isBlend = true → g.oldest o = true →
    let handle (n : Nat) : DWord := BitVec.ofNat 64 (s.dpkg * 2 ^ 18 + n)
    ∃ s', exec (.fabricOpRetire gid o.id) s = .next s' ∧ s'.mem = s.mem ∧ s'.flight = s.flight ∧
    (∀ kd w, f = .bopen kd w →
      ((∀ n, n < 256 → (tblFind s.sessions n).isSome = true) → Spec.fabEnds s' gid g o 9 (Spec.kSet g kd 0xFFFFFFFF)) ∧
      (∀ n, Spec.firstIndex 256 (fun n => tblFind s.sessions n = none) n →
        Spec.fabEnds s' gid g o 0 (Spec.kSet g kd (handle n)) ∧
        let w1 := w.getD 1 0
        ∃ x, tblFind s'.sessions n = some x ∧ x.out = w.getD 0 0 ∧ x.ocap = (w1.extractLsb' 32 24).toNat ∧
          x.f32 = decide ((w1.extractLsb' 28 4).toNat = 5) ∧ x.dthresh = (w1.extractLsb' 17 11).toNat ∧
          x.nrank = (w1.extractLsb' 0 13).toNat ∧ x.done = w.getD 2 0 ∧ x.timeout = (w.getD 3 0).toNat ∧ x.opened = s.time ∧
          x.leaf = g.leaf ∧ x.launch = g.launch ∧ x.vi = g.vi ∧ x.items = 0 ∧ x.dropped = 0 ∧ x.ranks = [] ∧ x.nextKey = 0 ∧
          Spec.taking x)) ∧
    (∀ n x, n < 256 → tblFind s.sessions n = some x → s.dpkg < 2 ^ 14 →
      (∀ kd, f = .bstat kd (handle n) →
        (x.leaf ≠ g.leaf → Spec.fabEnds s' gid g o 3 g.kGet) ∧
        (x.leaf = g.leaf → Spec.inRanges x → ∃ v, Spec.SessionStatus v x (if x.ended then 2 else 1) ∧
          Spec.fabEnds s' gid g o 0 (Spec.kSet g kd v) ∧ s'.sessions = s.sessions)) ∧
      (f = .bfree (handle n) →
        (x.leaf ≠ g.leaf → Spec.fabEnds s' gid g o 3 g.kGet ∧ s'.sessions = s.sessions) ∧
        (x.leaf = g.leaf → Spec.fabEnds s' gid g o 0 g.kGet ∧
          (x.ended = true → tblFind s'.sessions n = none) ∧
          (Spec.taking x → (∃ r, r < x.nrank ∧ ¬ Spec.rankEnded x r) →
            (∃ y, tblFind s'.sessions n = some y ∧ y.aborted = true) ∧
            (Spec.idle x → tblFind s'.sessions n = some { x with aborted := true })))) ∧
      (∀ w, f = .bclose w → w.getD 0 0 = handle n → x.leaf = g.leaf → Spec.taking x →
        let r := ((w.getD 2 0).extractLsb' 0 12).toNat
        ((x.nrank ≤ r ∨ (x.rank r).closed = true) → Spec.fabEnds s' gid g o 8 g.kGet ∧ s'.sessions = s.sessions) ∧
        (r < x.nrank → (x.rank r).closed = false → (x.rank r).cut = false → (x.rank r).busy ≠ none → s' = s) ∧
        (r < x.nrank → (x.rank r).closed = false → ((x.rank r).cut = true ∨ (x.rank r).busy = none) →
          let q := Spec.segmentOver (x.rank r)
          Spec.fabEnds s' gid g o 0 g.kGet ∧
          ∃ y, tblFind s'.sessions n = some y ∧ y.rank r = { q.1 with closed := true } ∧
            { y with ranks := x.ranks } = { Spec.withRank x r q.1 q.2 with ranks := x.ranks })))

/-- R314, R315, R317, R318: a packet that comes in is taken in, or, when its CRC fails, dropped, counted, and its loss told; a
remote access that its window permits is performed and answered, one that it does not is answered DENIED; a message takes the
lowest free slot and starts the launch it matches or is counted; an event sets its bit. -/
def Sys2Proof.Spec.PacketsIn : Prop :=
  ∀ (s : State) (p : FabPacket), p.src ≠ s.dpkg →
    (∃ s', exec (.fabricPacketReceive p true) s = .next s' ∧
      (p.dst ≠ s.dpkg → s' = s) ∧
      (p.dst = s.dpkg → ((∃ a b c d e, p.body = .write a b c d e) ∨ (∃ a b c d e, p.body = .read a b c d e) ∨
          (∃ a b c d, p.body = .atom a b c d) ∨ (∃ a b c, p.body = .msg a b c) ∨ (∃ a b, p.body = .event a b) ∨
          ∃ a b c d, p.body = .carry a b c d) →
        s' = { s with nextId := s.nextId + 1, inbox := tblSet s.inbox s.nextId p }) ∧
      (∀ oc off data g o f t m ws x, p.dst = s.dpkg → p.body = .reply oc off data → p.gid ≠ 0 → s.group p.gid = some g →
        g.op p.op = some o → o.kind = .fabric f t m ws x none → (∀ a b c d e, f ≠ .bpush a b c d e) →
        Spec.opGoes s' p.gid g o (.fabric f t m ws x (some (oc, BitVec.ofNat 64 (leNat data)))))) ∧
    (∀ win off len base n, p.body = .read win off len base n → p.dst = s.dpkg →
      ∃ s', exec (.fabricPacketReceive p false) s = .next s' ∧ s'.inbox = s.inbox ∧ s'.mem = s.mem ∧
        Spec.replied s s' p 2 (off - base) [] ∧ s'.portDrops = s.portDrops + 1 ∧
        ∀ leaf w, s.windowFor win p.src p.srcLeaf = some (leaf, w) → (tblGet (s.part leaf).errs 0 3).toNat + 1 < 2 ^ 64 →
          tblGet (s'.part leaf).errs 0 3 = tblGet (s.part leaf).errs 0 3 + 1) ∧
    (∀ (pid leaf n : Nat) (w : Window) (pl : Nat → Nat), tblFind s.inbox pid = some p → (0, 3 * pid + 1) ∉ s.pageFails →
      let level : Nat := if p.src / 256 = s.dpkg / 256 then 5 else 6
      let at0 (off : Nat) : Nat := w.base + off
      let x : Xlate := ⟨leaf, (s.part leaf).vis.headD 0, none, .supervisor⟩
      ∃ s', exec (.remoteAccessApply pid) s = .next s' ∧
      (∀ win off bytes base len, p.body = .write win off bytes base len → s.windowFor win p.src p.srcLeaf = some (leaf, w) →
        ((w.write = false ∨ w.len < base + len) → Spec.answered s s' pid p 3 (off - base) [] ∧ s'.mem = s.mem ∧ s'.flight = s.flight) ∧
        (w.write = true → base + len ≤ w.len → Spec.placed s x { w := true } (at0 off) bytes.length pl →
          Spec.answered s s' pid p 0 (off - base) [] ∧ Spec.hubWrites s s' 0 level bytes.length pl (fun i => bytes.getD i 0))) ∧
      (∀ win off base len, p.body = .read win off n base len → s.windowFor win p.src p.srcLeaf = some (leaf, w) → w.read = true →
        base + len ≤ w.len → Spec.placed s x { r := true } (at0 off) n pl → (∀ i, i < n → Spec.clean s (.sys (pl i))) →
        Spec.answered s s' pid p 0 (off - base) ((List.range n).map (fun i => (s.readByte hub (.sys (pl i))).1)) ∧
        s'.mem = s.mem ∧ s'.flight = s.flight) ∧
      (∀ win off ex v, p.body = .atom win off ex v → s.windowFor win p.src p.srcLeaf = some (leaf, w) → w.read = true →
        w.write = true → off + 8 ≤ w.len → Spec.placed s x { r := true, w := true } (at0 off) 8 pl →
        (∀ i, i < 8 → Spec.clean s (.sys (pl i))) →
        let old := (List.range 8).map (fun i => (s.readFrom hub (.sys (pl i)) level [0, 1, 2, 3, 4, 5]).1)
        let new := if ex then v.toNat else (leNat old + v.toNat) % 2 ^ 64
        Spec.answered s s' pid p 0 0 old ∧ Spec.hubWrites s s' 0 level 8 pl (fun i => BitVec.ofNat 8 (new / 256 ^ i)))) ∧
    (∀ (pid vi leaf slot : Nat) (tag : BitVec 32) (payload : List Byte) (pl : Nat → Nat), tblFind s.inbox pid = some p →
      p.body = .msg vi tag payload → s.leafOf vi = some leaf → s.coreDown vi = false → (0, 3 * pid + 1) ∉ s.pageFails →
      let v := s.vi vi
      let slots : Nat := if 1 ≤ (v.mctl.extractLsb' 0 4).toNat ∧ (v.mctl.extractLsb' 0 4).toNat ≤ 10 then
        2 ^ (v.mctl.extractLsb' 0 4).toNat else 0
      let addr := ((v.mbase.extractLsb' 8 56).toNat + slot) * 256
      let data : List Byte := leBytes 4 tag.toNat ++ leBytes 2 p.src ++ leBytes 2 payload.length ++ leBytes 8 0 ++ payload
      ∃ s', exec (.fabricMessageArrival pid) s = .next s' ∧
      ((∀ n, n < slots → n ∈ v.slots) → Spec.answered s s' pid p 6 0 [] ∧ s'.mem = s.mem ∧ s'.flight = s.flight ∧ s'.vis = s.vis) ∧
      (Spec.firstIndex slots (fun n => n ∉ v.slots) slot →
        Spec.placed s ⟨leaf, vi, none, .supervisor⟩ { w := true } addr data.length pl →
        Spec.answered s s' pid p 0 0 [] ∧ Spec.hubWrites s s' 0 4 data.length pl (fun i => data.getD i 0) ∧
        ((∀ q ∈ s.launches, ¬ (q.2.vi = vi ∧ q.2.phase = .armed ∧ q.2.mtag = tag)) → v.msgdrop.toNat + 1 < 2 ^ 32 →
          (s'.vi vi).msgdrop = v.msgdrop + 1 ∧ (s'.vi vi).slots = v.slots ∧ s'.launches = s.launches) ∧
        (∀ lid l, s.launch lid = some l → (s.launches.map (·.1)).Nodup → l.vi = vi → l.phase = .armed → l.mtag = tag →
          (∀ q ∈ s.launches, q.2.vi = vi → q.2.phase = .armed → q.2.mtag = tag → q.1 ≠ lid → l.armedAt < q.2.armedAt) →
          (s'.vi vi).slots = v.slots ++ [slot] ∧ (s'.vi vi).msgdrop = v.msgdrop ∧
          s'.launch lid = some { l with phase := .running, payload := some (BitVec.ofNat 64 addr), payloadSlot := some slot }))) ∧
    (∀ (pid vi leaf : Nat) (n : BitVec 8), tblFind s.inbox pid = some p → p.body = .event vi n → s.leafOf vi = some leaf →
      ∃ s', exec (.fabricEventArrival pid) s = .next s' ∧ Spec.answered s s' pid p 0 0 [] ∧ s'.mem = s.mem ∧
        (∀ b, b < 256 → (s'.vi vi).ev.getLsbD b = (decide (b = n.toNat) || (s.vi vi).ev.getLsbD b)) ∧
        ∀ k, k ≠ vi → s'.vi k = s.vi k)

/-- The fabric at work: its operations, the Blend operations, and what comes in. Of these clauses the model's readings are which
leaf and interface a window access uses (DEDUCED, log entry 36), the length of a packet (37), the outcomes of a dropped packet
and of an unreadable payload (39), where DENIED is decided (40), the order of a group's Blend operations (41) and a message with
no slot (44); and its choices are the routes and the leaf whose budget a packet counts against (DESIGN CHOICE, log entry 101).
-/
def Obligations.FabricEvents : Prop := Spec.FabricOps ∧ Spec.SessionOps ∧ Spec.PacketsIn

/-- R320 to R323: a push hands its items over one by one, and the streams that break R320 are cut short; the record of the
lowest key that every rank has passed is written, dense or sparse, while room for END is left; a packet of another push waits
until the segment that its rank reads has ended; a stream that broke R320 ends the session, at once or later (the model's
reading, log entry 106); when every rank has ended END is written, with the count of keys dropped and the flags of their sums,
and then, when it has all performed at POD, the done record; TIMEOUT ends every rank. The model's readings are, beside that, who
may push (DEDUCED, log entry 41), the corners of a session: the order of outcomes, an abort, a lost item or packet (42), and a
window of exactly DTHRESH keys, where it follows the rule and not the rule's example (43). -/
def Obligations.BlendEvents : Prop :=
  ∀ (s : State) (sid : Nat) (x : Session), tblFind s.sessions sid = some x →
    (∀ (gid pos n : Nat) (g : Group) (o : Op) (t : DWord) (m : Mode) (ws : List Nat) (w : List DWord) (pl : Nat → Nat),
      s.awake gid = some g → g.op o.id = some o → o.ended = false → g.resident = true → g.oldest o = true →
      o.kind = .fabric (.bpush w pos 0 0 0) t m ws false none → (∀ i ∈ ws, s.performed i 4 = true) →
      w.getD 0 0 = BitVec.ofNat 64 (s.dpkg * 2 ^ 18 + sid) → sid < 256 → s.dpkg < 2 ^ 14 →
      n = ((w.getD 2 0).extractLsb' 0 12).toNat → Spec.taking x → x.leaf = g.leaf → n < x.nrank → (x.rank n).closed = false →
      let key : Nat × Nat × Nat := (s.dpkg, gid, o.id)
      ((x.rank n).cut = true ∨ (x.rank n).busy = none ∨ (x.rank n).busy = some key) → (gid, o.id) ∉ s.pageFails →
      Spec.placed s ⟨g.leaf, g.vi, none, m⟩ { r := true } ((w.getD 1 0).toNat + 8 * pos) 8 pl →
      (∀ i, i < 8 → Spec.clean s (.sys (pl i))) →
      let v : DWord := BitVec.ofNat 64 (leNat ((List.range 8).map (fun i => (s.readByte hub (.sys (pl i))).1)))
      let items := ((w.getD 2 0).extractLsb' 24 24).toNat
      ∃ s' r' ok, exec (.blendPushRetire gid o.id) s = .next s' ∧ s'.mem = s.mem ∧ s'.flight = s.flight ∧
        Spec.Taken (x.rank n) r' v ok ∧
        let y := Spec.withRank x n { r' with busy := some key } ok
        (pos + 1 < items → tblFind s'.sessions sid = some y ∧
          Spec.opGoes s' gid g o (.fabric (.bpush w (pos + 1) 0 0 0) t m ws false none)) ∧
        (items ≤ pos + 1 → (x.rank n).queue = [] → Spec.opGoes s' gid g o (.fabric (.bpush w (pos + 1) 0 0 0) t m ws false (some (0, 0))) ∧
          let q := Spec.segmentOver { r' with busy := some key }
          tblFind s'.sessions sid = some (Spec.withRank y n q.1 q.2))) ∧
    (∀ (p : FabPacket) (n : Nat) (vs : List DWord) (last : Bool) (b : Nat × Nat × Nat), p.dst = s.dpkg →
      p.body = .push sid n vs last false → Spec.taking x → n < x.nrank → (x.rank n).cut = false → (x.rank n).busy = some b →
      b ≠ (p.src, p.gid, p.op) →
      ∃ s', exec (.fabricPacketReceive p true) s = .next s' ∧ { s' with sessions := s.sessions } = s ∧
        tblFind s'.sessions sid = some { x with ranks := tblSet x.ranks n { x.rank n with queue := (x.rank n).queue ++ [p] } }) ∧
    (∀ (p : FabPacket) (n : Nat) (v : DWord) (leaf : Nat), p.dst = s.dpkg → p.src ≠ s.dpkg → p.body = .push sid n [v] false false →
      Spec.taking x → x.leaf = leaf → n < x.nrank → (x.rank n).closed = false →
      (∃ w ∈ (s.part leaf).windows, w.2.len ≠ 0 ∧ BitVec.ofNat 32 (2 ^ 31 + p.src * 2 ^ 16 + p.srcLeaf) ∈ w.2.users) →
      ((x.rank n).cut = true ∨ (x.rank n).busy = none ∨ (x.rank n).busy = some (p.src, p.gid, p.op)) → (x.rank n).queue = [] →
      ∃ s' r' ok, exec (.fabricPacketReceive p true) s = .next s' ∧ s'.mem = s.mem ∧ Spec.Taken (x.rank n) r' v ok ∧
        Spec.replied s s' p 0 0 [] ∧
        tblFind s'.sessions sid = some (Spec.withRank x n { r' with busy := some (p.src, p.gid, p.op) } ok)) ∧
    (∀ (k : Nat) (pl : Nat → Nat), Spec.inOrder x → x.ended = false → x.ending = false → x.ovf = false →
      Spec.presentKey x k = true → x.nextKey ≤ k → (∀ j, x.nextKey ≤ j → j < k → Spec.presentKey x j = false) →
      (∀ n, n < x.nrank → Spec.rankEnded x n ∨ ∃ l, (x.rank n).last = some l ∧ 1024 * (k / 1024) + 1023 ≤ l) →
      let r := Spec.mergeRecord x k
      ∃ s', exec (.blendRecordWrite sid) s = .next s' ∧
        (x.ocap < x.items + r.1.length + 1 → s' = { s with sessions := tblSet s.sessions sid { x with ovf := true } }) ∧
        (x.items + r.1.length + 1 ≤ x.ocap → (0, 3 * sid) ∉ s.pageFails →
          Spec.placed s ⟨x.leaf, x.vi, none, .supervisor⟩ { w := true } (x.out.toNat + 8 * x.items) (8 * r.1.length) pl →
          s'.flight = s.flight ++ Spec.itemWrites s x r.1 pl ∧ s'.mem = s.mem ∧
          ∃ y, tblFind s'.sessions sid = some y ∧ y.items = x.items + r.1.length ∧ y.nextKey = r.2.1 ∧
            y.fpflags = x.fpflags ||| r.2.2 ∧ y.writes = x.writes ++ (List.range r.1.length).map (fun i => s.nextId + i) ∧
            { y with items := x.items, nextKey := x.nextKey, fpflags := x.fpflags, writes := x.writes, ranks := x.ranks } = x ∧
            ∀ n j, r.2.1 ≤ j → tblFind (y.rank n).keys j = tblFind (x.rank n).keys j)) ∧
    (∀ (ks : List Nat) (pl : Nat → Nat), Spec.inOrder x → x.ended = false → (∀ n, n < x.nrank → Spec.rankEnded x n) →
      (0, 3 * sid) ∉ s.pageFails →
      ∃ s', exec (.blendSessionEnd sid) s = .next s' ∧ s'.mem = s.mem ∧
        (x.ending = false → ks.Nodup → (∀ k, k ∈ ks ↔ x.nextKey ≤ k ∧ Spec.presentKey x k = true) → (ks = [] ∨ x.ovf = true) →
          Spec.placed s ⟨x.leaf, x.vi, none, .supervisor⟩ { w := true } (x.out.toNat + 8 * x.items) 8 pl →
          let fl := ks.foldl (fun (f : Flags) k => f ||| (Spec.mergedValue x k).2) x.fpflags
          s'.flight = s.flight ++ Spec.itemWrites s x [BitVec.ofNat 64 (min ks.length 0xFFFFFFFF * 2 ^ 32 + 0xFFFFFFFF)] pl ∧
          tblFind s'.sessions sid = some { x with
            items := x.items + 1, dropped := x.dropped + ks.length, ending := true, writes := x.writes ++ [s.nextId], fpflags := fl }) ∧
        (x.ending = true → (∀ i ∈ x.writes, s.performed i 5 = true) → Spec.inRanges x →
          Spec.placed s ⟨x.leaf, x.vi, none, .supervisor⟩ { w := true } x.done.toNat 16 pl →
          tblFind s'.sessions sid = some { x with ended := true } ∧
          ∃ st, Spec.SessionStatus st x 2 ∧ s'.flight = s.flight ++ [Spec.hubWriteOf s x.launch 4 16 pl (fun i =>
            if i < 8 then st.extractLsb' (8 * i) 8 else BitVec.ofNat 8 (x.dropped / 256 ^ (i - 8)))])) ∧
    (x.badStream = true → Spec.taking x → Spec.idle x → (∃ n, n < x.nrank ∧ ¬ Spec.rankEnded x n) →
      ∃ s', exec (.blendSessionEnd sid) s = .next s' ∧ tblFind s'.sessions sid = some { x with broken := true } ∧
        { s' with sessions := s.sessions } = s) ∧
    (0 < x.timeout → x.opened + x.timeout ≤ s.time → Spec.taking x → Spec.idle x → (∃ n, n < x.nrank ∧ ¬ Spec.rankEnded x n) →
      ∃ s', exec (.blendTimeout sid) s = .next s' ∧ tblFind s'.sessions sid = some { x with timedOut := true, incomplete := true } ∧
        s'.mem = s.mem ∧ s'.flight = s.flight ∧
        ∀ l, s.launch x.launch = some l → s'.launch x.launch = some { l with flags := l.flags ||| 64 })

namespace Sys2Proof.Spec

/-! ### The registers of an interface (R36 to R42, R58, R318, R340, R341) -/

/-- Virtual functions 1 to 1,024 are virtual interfaces (R36). -/
def isVi (vi : Nat) : Prop := 1 ≤ vi ∧ vi ≤ 1024

/-- The state with one interface, or one queue of it, replaced. -/
def putVi (s : State) (vi : Nat) (v : VI) : State := { s with vis := tblSet s.vis vi v }
def putQueue (s : State) (vi q : Nat) (x : Queue) : State :=
  putVi s vi { s.vi vi with queues := tblSet (s.vi vi).queues q x }

/-- The event bits after a write of ones to EV`n`, after EVSET, and QCTL of a disabled and of an enabled queue after a write
(R39 to R41). -/
def evCleared (old : BitVec 256) (n : Nat) (val : BitVec 64) (new : BitVec 256) : Prop :=
  ∀ i, i < 256 → new.getLsbD i = (old.getLsbD i && !(decide (i / 64 = n) && val.getLsbD (i % 64)))
def evSet (old : BitVec 256) (num : Nat) (new : BitVec 256) : Prop :=
  ∀ i, i < 256 → new.getLsbD i = (old.getLsbD i || decide (i = num))

/-- QCTL written (R41). -/
def qctlWritten (x : Queue) (val : BitVec 32) : Queue :=
  if x.qctl.getLsbD 8 then { x with qctl := (val &&& 0xFF300) ||| (x.qctl &&& 0x1F) }
  else if val.getLsbD 8 = false then { x with qctl := val &&& 0xFF21F }
  else if (val &&& 0x1F) = 0 ∨ 16 < (val &&& 0x1F).toNat then { x with qctl := val &&& 0xFF21F }
  else { x with qctl := val &&& 0xFF31F, qhead := 0, qtail := 0, qerr := 0, held := none, pred := .none }

/-- QTAIL written while the queue takes doorbells (R42). -/
def qtailWritten (x : Queue) (t : BitVec 32) : Queue :=
  if x.qctl.getLsbD 8 = false ∨ x.halt = true then x
  else if (t - x.qhead).toNat ≤ 2 ^ (x.qctl &&& 0x1F).toNat then { x with qtail := t }
  else { x with halt := true, qerr := 0x201 }

/-- CTL, TAIL and HEAD of a ring of the interface page written (R340). -/
def ringWritten (ctl tail head val : BitVec 32) : BitVec 32 × BitVec 32 × BitVec 32 :=
  if ctl.getLsbD 8 then ((val &&& 0xFF100) ||| (ctl &&& 0x1F), tail, head)
  else if val.getLsbD 8 = false then (val &&& 0xFF01F, tail, head)
  else if (val &&& 0x1F) = 0 ∨ 12 < (val &&& 0x1F).toNat then (val &&& 0xFF01F, tail, head)
  else (val &&& 0xFF11F, 0, 0)

/-- No page request of the interface waits for room in its ring. -/
def nothingWaits (s : State) (vi : Nat) : Prop := ∀ p ∈ s.pageReqs, p.2.vi = vi → p.2.written = true

/-- The events that name register writes (R40 to R42, R340). -/
def RegisterEvents : Prop :=
  ∀ (s : State) (vi : Nat), isVi vi →
    (∀ n val, n < 4 → ∃ w, evCleared (s.vi vi).ev n val w ∧
      exec (.evClearWrite vi n val) s = .next (putVi s vi { s.vi vi with ev := w })) ∧
    (∀ num, ∃ w, evSet (s.vi vi).ev num.toNat w ∧
      exec (.evsetWrite vi num) s = .next (putVi s vi { s.vi vi with evset := num.setWidth 32, ev := w })) ∧
    (∀ q val, q < 64 → val.getLsbD 8 = true → ((s.vi vi).queue q).qctl.getLsbD 8 = false →
      exec (.queueEnable vi q val) s = .next (putQueue s vi q (qctlWritten ((s.vi vi).queue q) val))) ∧
    (∀ q val, q < 64 → val.getLsbD 8 = false → ((s.vi vi).queue q).qctl.getLsbD 8 = true →
      exec (.queueDisable vi q val) s = .next (putQueue s vi q (qctlWritten ((s.vi vi).queue q) val))) ∧
    (∀ q t, q < 64 → exec (.qtailDoorbell vi q t) s = .next
      (if s.mgmt.ready = true ∧ s.mgmt.recovery = false then putQueue s vi q (qtailWritten ((s.vi vi).queue q) t) else s)) ∧
    (∀ q, q < 64 → exec (.queueResume vi q) s = .next (putQueue s vi q { (s.vi vi).queue q with halt := false })) ∧
    (∀ val, val.getLsbD 8 = true → (s.vi vi).hctl.getLsbD 8 = false → exec (.hostcallRingEnable vi val) s =
      let r := ringWritten (s.vi vi).hctl (s.vi vi).htail (s.vi vi).hhead val
      .next (putVi s vi { s.vi vi with hctl := r.1, htail := r.2.1, hhead := r.2.2 })) ∧
    (∀ val, val.getLsbD 8 = true → (s.vi vi).prctl.getLsbD 8 = false → nothingWaits s vi → exec (.pageRingEnable vi val) s =
      let r := ringWritten (s.vi vi).prctl (s.vi vi).prtail (s.vi vi).prhead val
      .next (putVi s vi { s.vi vi with prctl := r.1, prtail := r.2.1, prhead := r.2.2 }))

/-- 64-bit registers of the interface page: offset, what a write of `x` makes of the interface (R318, R340). -/
def wideWritten (v : VI) (off : Nat) (x : BitVec 64) : VI :=
  if off = 0x038 ∧ v.slots = [] then { v with mbase := x &&& ~~~0xFF }
  else if off = 0x048 ∧ v.hctl.getLsbD 8 = false then { v with hbase := x &&& ~~~0x3F }
  else if off = 0x060 ∧ v.prctl.getLsbD 8 = false then { v with prbase := x &&& ~~~0x1F }
  else if off = 0x080 then { v with stvec := x &&& 0xFFFFFFFFFFF8 }
  else if off = 0x088 ∧ v.queues.all (fun p => !p.2.qctl.getLsbD 8) then { v with sroot := x &&& 0xFFFFFFFFF001 }
  else v

/-- 32-bit registers of the interface page that only store (R318, R340). -/
def narrowWritten (v : VI) (off : Nat) (x : BitVec 32) : VI :=
  if off = 0x040 ∧ v.slots = [] then { v with mctl := x &&& 0xF }
  else if off = 0x050 then
    let r := ringWritten v.hctl v.htail v.hhead x
    { v with hctl := r.1, htail := r.2.1, hhead := r.2.2 }
  else if off = 0x058 then { v with hhead := x }
  else v

/-- Registers of a queue page but QTAIL (R41, R58). -/
def queueWritten (q : Queue) (off : Nat) (x : BitVec 32) : Queue :=
  if off = 0x008 then qctlWritten q x
  else if off = 0x018 ∧ x.getLsbD 0 = true then { q with halt := false }
  else if off = 0x020 ∧ q.qctl.getLsbD 8 = false then { q with qwdog := BitVec.ofNat 32 (min (x &&& 0xFFFF).toNat 60000) }
  else q

/-- Writes within BAR0 of an interface (R36, R39); and QSTAT as it reads: HALT, and WAITING for an entry that has been consumed and
not released (R41). -/
def RegisterWrites : Prop :=
  ∀ (s : State) (vi : Nat), isVi vi →
    (∀ off size val, (¬ (size = 4 ∨ size = 8) ∨ off % size ≠ 0 ∨ (0x1000 ≤ off ∧ off < 0x10000) ∨ 0x50000 ≤ off) →
      exec (.registerWrite vi off size val) s = .next s) ∧
    (∀ n val, n < 4 → exec (.registerWrite vi (8 * n) 8 val) s = exec (.evClearWrite vi n val) s) ∧
    (∀ val : BitVec 64, exec (.registerWrite vi 0x020 4 val) s = exec (.evsetWrite vi (val.setWidth 8)) s) ∧
    (∀ off val, off ∈ [0x038, 0x048, 0x060, 0x080, 0x088] →
      exec (.registerWrite vi off 8 val) s = .next (putVi s vi (wideWritten (s.vi vi) off val))) ∧
    (∀ off (val : BitVec 64), off ∈ [0x040, 0x050, 0x058] →
      exec (.registerWrite vi off 4 val) s = .next (putVi s vi (narrowWritten (s.vi vi) off (val.setWidth 32)))) ∧
    (∀ val : BitVec 64, exec (.registerWrite vi 0x05C 4 val) s = exec (.hdoneWrite vi (val.setWidth 32)) s) ∧
    (∀ val : BitVec 64, exec (.registerWrite vi 0x078 8 val) s = exec (.prrespWrite vi (val.getLsbD 32) (val.setWidth 32)) s) ∧
    (∀ val : BitVec 64, nothingWaits s vi → exec (.registerWrite vi 0x070 4 val) s =
      .next (putVi s vi { s.vi vi with prhead := val.setWidth 32 })) ∧
    (∀ val : BitVec 64, nothingWaits s vi → exec (.registerWrite vi 0x068 4 val) s =
      let r := ringWritten (s.vi vi).prctl (s.vi vi).prtail (s.vi vi).prhead (val.setWidth 32)
      .next (putVi s vi { s.vi vi with prctl := r.1, prtail := r.2.1, prhead := r.2.2 })) ∧
    (∀ q val, q < 64 → exec (.registerWrite vi (0x10000 + 0x1000 * q) 8 val) s =
      .next (putQueue s vi q (if ((s.vi vi).queue q).qctl.getLsbD 8 then (s.vi vi).queue q
        else { (s.vi vi).queue q with qbase := val &&& ~~~0x3F }))) ∧
    (∀ q off (val : BitVec 64), q < 64 → off ∈ [0x008, 0x018, 0x020] →
      exec (.registerWrite vi (0x10000 + 0x1000 * q + off) 4 val) s =
      .next (putQueue s vi q (queueWritten ((s.vi vi).queue q) off (val.setWidth 32)))) ∧
    (∀ q (val : BitVec 64), q < 64 → exec (.registerWrite vi (0x10000 + 0x1000 * q + 0x010) 4 val) s =
      exec (.qtailDoorbell vi q (val.setWidth 32)) s) ∧
    (∀ off val, off ∈ [0x028, 0x02C, 0x030, 0x034, 0x054, 0x06C] → exec (.registerWrite vi off 4 val) s = .next s) ∧
    (∀ q, q < 64 → let r := s.readInterface vi (0x10000 + 0x1000 * q + 0x018) 4
      (r.getLsbD 0 = true ↔ ((s.vi vi).queue q).halt = true) ∧ (r.getLsbD 1 = true ↔ ((s.vi vi).queue q).held ≠ none) ∧ r < 4)

/-- PRRESP written: TAG and FAIL are stored, and the request of the interface that TAG names is answered: its entry frees,
and each lane attached to it, where its group is resident and the lane is parked for a page, goes on, or traps PAGE with the
address that missed (R340, R341). -/
def PageAnswers : Prop :=
  ∀ (s : State) (vi : Nat) (fail : Bool) (tag : BitVec 32), isVi vi →
    (∃ t, exec (.prrespWrite vi fail tag) s = .next t ∧
      (t.vi vi).prresp = ((if fail then 1#32 else 0#32) ++ tag)) ∧
    ((∀ p ∈ s.pageReqs, ¬ (p.2.vi = vi ∧ p.2.stage = 1 ∧ p.2.tag = tag)) →
      exec (.prrespWrite vi fail tag) s = .next (putVi s vi { s.vi vi with prresp := ((if fail then 1#32 else 0#32) ++ tag) })) ∧
    (∀ rid r gid lane g, (rid, r) ∈ s.pageReqs → r.vi = vi → r.stage = 1 → r.tag = tag →
      (∀ p ∈ s.pageReqs, p.1 = rid ∨ (p.2.vi = vi ∧ p.2.stage = 1 ∧ p.2.tag = tag) → p = (rid, r)) →
      r.lanes = [(gid, lane)] → r.ops = [] → s.group gid = some g → g.resident = true → lane < 32 →
      (g.lane lane).park = .page →
      ∃ t g', exec (.prrespWrite vi fail tag) s = .next t ∧ t.group gid = some g' ∧
        (∀ p, p ∈ t.pageReqs ↔ p ∈ s.pageReqs ∧ p.1 ≠ rid) ∧ (∀ j, j ≠ lane → g'.lane j = g.lane j) ∧
        (fail = false → g'.lane lane = { g.lane lane with park := .none, fault := 0 }) ∧
        (fail = true → ∀ m vec, trapMode g (g.lane lane).mode = some (m, vec) →
          g'.lane lane = { g.lane lane with park := .none, fault := 0 }.enter m vec (g.lane lane).addr 0x08 (g.lane lane).faultAddr))

/-- COMPLETE of a launch has begun: it is one operation, which no reset cuts short (R54). -/
def begun (l : Launch) : Prop := l.parent = none ∧ (l.phase = .completed ∨ (l.phase = .completing ∧ 5 ≤ l.step))

/-- The launches of an interface whose COMPLETE has not begun, and all of their descendants. -/
inductive OfVi (s : State) (vi : Nat) : Nat → Prop where
  | own (lid : Nat) (l : Launch) : s.launch lid = some l → l.vi = vi → ¬ begun l → OfVi s vi lid
  | child (lid p : Nat) (l : Launch) : s.launch lid = some l → l.parent = some p → OfVi s vi p → OfVi s vi lid

/-- FUNCTION_LEVEL_RESET: every register of the interface takes its reset value; its launches are gone, with their groups,
the stores in their store queues and their urn operations that have not performed, their pieces; a COMPLETE that has begun is
carried through, with the vector that the queue named; other launches, groups and interfaces stay (R38, R54). That of the
management function resets its registers and drops its commands (R36; the model's choice, log entry 98). -/
def FunctionReset : Prop :=
  ∀ (s : State),
    exec (.functionLevelReset 0) s = (let m : Mgmt := { s.mgmt with
        mcmda := 0, mdoor := 0, mdone := 0, assist := {}, ardata := 0, artag := 0, halt := {}, commands := [] }
      .next { s with mgmt := m }) ∧
    ∀ (vi : Nat), isVi vi → (s.launches.map (·.1)).Nodup → (s.groups.map (·.1)).Nodup →
    ∃ t, exec (.functionLevelReset vi) s = .next t ∧ t.vis = tblSet s.vis vi {} ∧
      (∀ p ∈ t.launches, ¬ OfVi s vi p.1) ∧
      (∀ p, p ∈ t.launches ↔ ∃ q ∈ s.launches, ¬ OfVi s vi q.1 ∧
        let vec : Nat := q.2.vec.getD (((s.vi vi).queue q.2.queue).qctl.extractLsb' 12 8).toNat
        p = (q.1, if q.2.vi = vi then { q.2 with phase := .completed, vec := some vec } else q.2)) ∧
      (∀ p, p ∈ t.groups ↔ p ∈ s.groups ∧ ¬ OfVi s vi p.2.launch) ∧
      (∀ p, p ∈ t.pieces ↔ p ∈ s.pieces ∧ ¬ OfVi s vi p.2.launch) ∧
      (∀ w, w ∈ t.flight ↔ w ∈ s.flight ∧ ¬ (w.core ≠ none ∧ (w.level = 0 ∨ w.urn ≠ none) ∧
        ∃ p ∈ s.groups, p.1 = w.gid ∧ OfVi s vi p.2.launch)) ∧
      t.mem = s.mem ∧ t.time = s.time ∧ t.parts = s.parts

/-- A system address that reaches memory: a channel of package memory that was not left out at boot, what the expander of a CXL port
whose link is up populates, host memory (R170, R313, R384). -/
def reachesMemory (s : State) (a : Nat) : Prop :=
  let port := (a - 0x20000000000) / 0x20000000000
  (a < 0x18000000000 ∧ a / 0x180000000 ∉ s.channelsOut) ∨
    (0x20000000000 ≤ a ∧ a < 0xA0000000000 ∧ port ∉ s.cxlDown ∧ (a - 0x20000000000) % 0x20000000000 < Config.cxlCapacity port) ∨
    (0x100000000000 ≤ a ∧ a < 2 ^ 48)

/-- HOST_POSTED_WRITE: the bytes whose addresses reach memory are in memory in one step; the others are lost, and no other
byte changes (R288). -/
def HostWrites : Prop :=
  ∀ (s : State) (a : BitVec 48) (bs : List Byte), ∃ t, exec (.hostPostedWrite a bs) s = .next t ∧
    (∀ i, i < bs.length → reachesMemory s (a.toNat + i) → tblGet t.mem 0 (a.toNat + i) = bs.getD i 0) ∧
    (∀ b, ¬ (a.toNat ≤ b ∧ b < a.toNat + bs.length ∧ reachesMemory s b) → tblGet t.mem 0 b = tblGet s.mem 0 b) ∧
    t.vis = s.vis ∧ t.launches = s.launches ∧ t.tiles = s.tiles

end Sys2Proof.Spec

/-- The registers of the interfaces (R36 to R42, R58, R318, R340, R341): what each register write does, as an event of its own
and as a write to BAR0; the answers to page requests; a function-level reset; a posted write of the host. The model's readings
are, beside that, which writes are discarded before READY and in recovery (DEDUCED, log entry 45), what enabling a queue or a
ring does (46), a 32-bit write of PRRESP's upper half (47), where a posted write may go (48) and what a function-level reset
discards (49); what expanders populate is a free value (DESIGN CHOICE, log entry 105). -/
def Obligations.HostRegisters : Prop :=
  Sys2Proof.Spec.RegisterEvents ∧ Sys2Proof.Spec.RegisterWrites ∧ Sys2Proof.Spec.PageAnswers ∧
  Sys2Proof.Spec.FunctionReset ∧ Sys2Proof.Spec.HostWrites

namespace Sys2Proof.Spec

/-! ### Queues, launch records and tasks (R14 to R31, R43 to R48, R54) -/

/-- A line of memory whose read is not to meet an error that stands marked (R182, R347). -/
def unmarked (s : State) (a : Nat) : Prop := a / 128 ∉ s.softNext ∧ a / 128 ∉ s.hardNext

/-- Byte `i` from a guest address on translates to `p` for the front end, and neither its line nor a table entry of the walk meets a
marked error (R37, R182). -/
def FrontAt (s : State) (leaf vi a i p : Nat) : Prop :=
  ∃ es, s.translate (frontX leaf vi) { r := true } (a + i) = .ok (p, es) ∧ unmarked s p ∧ ∀ e ∈ es, unmarked s e.at_

/-- The front end reads these bytes at a guest address: every byte translates, none is poisoned (R31, R37, R44). -/
def FrontSees (s : State) (leaf vi a : Nat) (bs : List Byte) : Prop :=
  ∀ i, i < bs.length → ∃ p, FrontAt s leaf vi a i p ∧ s.linePoisoned (p / 128) = false ∧ (s.readByte hub (.sys p)).1 = bs.getD i 0

/-- It cannot read `n` bytes: one does not translate, or one is poisoned. -/
def FrontBlind (s : State) (leaf vi a n : Nat) : Prop :=
  (∃ i e, i < n ∧ s.translate (frontX leaf vi) { r := true } (a + i) = .error e ∧ (∀ p, e ≠ .poison p) ∧
    ∀ j, j < i → ∃ r, s.translate (frontX leaf vi) { r := true } (a + j) = .ok r) ∨
  ((∃ i p, i < n ∧ FrontAt s leaf vi a i p ∧ s.linePoisoned (p / 128) = true) ∧ ∀ i, i < n → ∃ p, FrontAt s leaf vi a i p)

/-- A step that leaves `t`, but for the translation budget that the front end's walks spend (R62). -/
def Leads (o : Out) (t : State) : Prop :=
  ∃ t', o = .next t' ∧ { t' with parts := t.parts } = t ∧ ∀ n, { t'.part n with used := (t.part n).used } = t.part n

/-- The queue core works on a queue that is enabled and not halted (R41, R55, R60, R65, R67). -/
structure QueueWorks (s : State) (vi q leaf : Nat) : Prop where
  interface : isVi vi
  number : q < 64
  ready : s.mgmt.ready = true ∧ s.mgmt.recovery = false
  bound : s.leafOf vi = some leaf
  resident : s.residentVi vi = true
  running : s.leafStopped leaf = false
  core : s.coreDown vi = false
  on : ((s.vi vi).queue q).qctl.getLsbD 8 = true
  halt : ((s.vi vi).queue q).halt = false

/-- The contents of a queue entry that is consumed (R43, R44). -/
def EntryValid (e : List Byte) : Prop :=
  let b (n : Nat) : Nat := (e.getD n 0).toNat
  b 0 = 2 ∨ ((b 0 = 1 ∨ b 0 = 3) ∧ b 1 < 16 ∧ b 5 = 0 ∧ b 6 = 0 ∧ b 7 = 0 ∧ (∀ n, 0x34 ≤ n → n < 0x40 → b n = 0) ∧
    b 2 ≤ 8 ∧ b 3 ≤ 8 ∧ (b 0 = 1 → 5 ≤ b 4 ∧ b 4 ≤ 10))

/-- The update of a control block that is under way ends: GEN is even (R57). -/
def closed (x : Queue) : Queue :=
  if x.block.gen.getLsbD 0 then { x with block := { x.block with gen := x.block.gen + 1 } } else x

/-- A queue whose control block is being updated: the shadow holds it as it was, GEN is odd (R56, R57). -/
def updated (x : Queue) (f : QBlock → QBlock) : Queue :=
  { closed x with shadow := (closed x).block, block := { f (closed x).block with gen := (closed x).block.gen + 1 } }

/-- Released launches of a queue that are not complete (R56). -/
def unfinished (s : State) (vi q : Nat) : BitVec 32 :=
  BitVec.ofNat 32 (s.launches.countP (fun p => p.2.vi == vi && p.2.queue == q && p.2.parent.isNone && p.2.phase != .completing &&
    p.2.phase != .completed))

/-- What a queue core does on a block between its operations (R56, R57): it ends the update under way, or begins one where the block
does not say what is. -/
def tended (x : Queue) (n : BitVec 32) : Queue :=
  if x.block.gen.getLsbD 0 then closed x
  else if x.block.inflight = n ∧ x.block.wddead = x.wddead ∧ x.block.wdrem = x.wdrem then x
  else updated x (fun b => { b with inflight := n, wddead := x.wddead, wdrem := x.wdrem })

/-- CONSUME (R42 to R44, R54, R57, R62): with nothing to consume the queue core tends the control block. -/
def Consumes : Prop :=
  ∀ (s : State) (vi q leaf : Nat), QueueWorks s vi q leaf →
    let x := (s.vi vi).queue q
    let y := tended x (unfinished s vi q)
    let a := (x.qbase.toNat / 64 + x.qhead.toNat % 2 ^ (x.qctl &&& 0x1F).toNat) * 64
    ((x.held ≠ none ∨ x.qhead = x.qtail) → (y = x → exec (.consume vi q) s = .next s) ∧
      (y ≠ x → exec (.consume vi q) s = .next (putQueue s vi q y))) ∧
    (x.held = none → x.qhead ≠ x.qtail → s.exhausted leaf 5 = true → exec (.consume vi q) s = .next s) ∧
    (x.held = none → x.qhead ≠ x.qtail → s.exhausted leaf 5 = false →
      (FrontBlind s leaf vi a 64 → Leads (exec (.consume vi q) s) (putQueue s vi q { x with halt := true, qerr := 0x203 })) ∧
      (∀ e, e.length = 64 → FrontSees s leaf vi a e →
        (¬ EntryValid e → Leads (exec (.consume vi q) s) (putQueue s vi q { x with halt := true, qerr := 0x202 })) ∧
        (EntryValid e → Leads (exec (.consume vi q) s) (putQueue s vi q
          { updated x (fun b => { b with head := x.qhead + 1 }) with held := some e, qhead := x.qhead + 1 }))))

/-- A mask of an entry, WAIT or SET, names event `n` (R43). -/
def names (e : List Byte) (count base n : Nat) : Bool :=
  (List.range (e.getD count 0).toNat).any (fun j => (e.getD (base + j) 0).toNat == n)

/-- A launch counts as completed for the release rule, and as triggered (R45, R49). -/
def isCompleted (s : State) (lid : Nat) : Prop := ∀ l, s.launch lid = some l → l.phase = .completed
def isTriggered (s : State) (lid : Nat) : Prop := ∀ l, s.launch lid = some l →
  l.start ≠ none ∧ (l.laidOut = true ∨ l.stopped = true) ∧ l.plans = [] ∧
  ∀ p ∈ s.groups, p.2.launch = lid → p.2.task = false → ∀ i, i < 32 →
    (p.2.lane i).absent = true ∨ (p.2.lane i).triggered = true ∨
    ((p.2.lane i).exited = true ∧ ∀ w ∈ (p.2.lane i).exitWrites, s.performed w 4 = true)

/-- The conditions of R45 on the held entry of a queue; a NOP has no mask. -/
def Releasable (s : State) (vi q : Nat) (e : List Byte) : Prop :=
  let f := (e.getD 1 0)
  (match ((s.vi vi).queue q).pred with
    | .launch lid => f.getLsbD 2 = true ∨ isCompleted s lid ∨ (f.getLsbD 1 = true ∧ isTriggered s lid)
    | _ => True) ∧
  ∀ n, n < 256 → (e.getD 0 0) ≠ 2 → names e 2 0x20 n = true → (s.vi vi).ev.getLsbD n = true

/-- A queue of the interface whose held entry would be released now (R45, R66). -/
def MayRelease (s : State) (vi q leaf : Nat) : Prop :=
  QueueWorks s vi q leaf ∧ ∃ e, ((s.vi vi).queue q).held = some e ∧ Releasable s vi q e ∧
    (s.assisted leaf 0 = false ∨ (s.part leaf).allow = none ∨ (s.part leaf).allow = some 0 ∨
      (s.part leaf).allow = some (vi * 64 + q + 1))

/-- What a released LAUNCH entry makes (R43, R45): a released launch with the fields of the entry. -/
structure FromEntry (l : Launch) (vi leaf q : Nat) (e : List Byte) : Prop where
  vi : l.vi = vi
  leaf : l.leaf = leaf
  queue : l.queue = q
  lrec : l.lrec.toNat = fieldAt e 8 8
  csig : l.csig.toNat = fieldAt e 0x10 8
  cval : l.cval.toNat = fieldAt e 0x18 8
  cscope : l.cscope = (e.getD 4 0).toNat
  mtag : l.mtag.toNat = fieldAt e 0x30 4
  intr : l.intr = (e.getD 1 0).getLsbD 3
  mask : l.setMask = (e.drop 0x28).take (e.getD 3 0).toNat
  phase : l.phase = .released
  parent : l.parent = none
  error : l.error = 0 ∧ l.flags = 0

/-- RELEASE (R45, R54, R57): the vector operation, the count, the predecessor, the launch; nothing where a condition fails, no
entry is held, or a queue of a lower number of the interface has an entry to release. -/
def Releases : Prop :=
  ∀ (s : State) (vi q leaf : Nat), QueueWorks s vi q leaf →
    let x := (s.vi vi).queue q
    (x.held = none → exec (.release vi q) s = .next s) ∧
    ((∀ p e, p < q → ((s.vi vi).queue p).held = some e → e.length = 64 ∧ EntryValid e) →
    ((∃ p, p < q ∧ MayRelease s vi p leaf) → exec (.release vi q) s = .next s) ∧
    ∀ e, x.held = some e → e.length = 64 → EntryValid e →
      (¬ Releasable s vi q e → exec (.release vi q) s = .next s) ∧
      (Releasable s vi q e → (∀ p, p < q → ¬ MayRelease s vi p leaf) → (s.assisted leaf 0 = false ∨ (s.part leaf).allow = some 0 ∨ (s.part leaf).allow = some (vi * 64 + q + 1)) →
        ∃ w l, FromEntry l vi leaf q e ∧
          (∀ n, n < 256 → w.getLsbD n =
            (((s.vi vi).ev.getLsbD n && !(names e 2 0x20 n && (e.getD 0 0 == 3 || (e.getD 0 0 == 1 && (e.getD 1 0).getLsbD 0)))) ||
              (e.getD 0 0 == 3 && names e 3 0x28 n))) ∧
          let launch := e.getD 0 0 == 1
          let x' := { updated x (fun b => { b with
            head := x.qhead, released := x.relcnt + 1, inflight := if launch then b.inflight + 1 else b.inflight,
            lastid := if launch then BitVec.ofNat 64 s.nextId else b.lastid }) with
            held := none, relcnt := x.relcnt + 1, pred := if launch then .launch s.nextId else .plain }
          exec (.release vi q) s = .next { putVi s vi { s.vi vi with ev := w, queues := tblSet (s.vi vi).queues q x' } with
            parts := tblSet s.parts leaf { s.part leaf with allow := none },
            launches := if launch then tblSet s.launches s.nextId l else s.launches,
            nextId := if launch then s.nextId + 1 else s.nextId }))

/-! The fields of a launch record, and what R29 checks of them. -/

def NLEVEL (r : List Byte) : Nat := (r.getD 2 0).toNat
def NDIM (r : List Byte) : Nat := (r.getD 3 0).toNat
def FLAG (r : List Byte) (n : Nat) : Bool := (fieldAt r 4 4).testBit n
def SPACE (r : List Byte) (d : Nat) : Nat := fieldAt r (0x10 + 4 * d) 4
def NCONST (r : List Byte) : Nat := (r.getD 0x2F 0).toNat
/-- The control word of a level, and MIN, MAX, MULT, PREF (0 to 3) of a dimension. -/
def LEVEL (r : List Byte) (k : Nat) : Nat := fieldAt r (0x38 + 40 * k) 8
def COUNT (r : List Byte) (k d j : Nat) : Nat := fieldAt r (0x38 + 40 * k + 8 + 8 * d + 2 * j) 2
def zero (r : List Byte) (lo hi : Nat) : Prop := ∀ n, lo ≤ n → n < hi → r.getD n 0 = 0
/-- OP, FMT, LEVEL and SCOPE of an ordered reduction slot: bytes 8 to 11. -/
def SLOT (r : List Byte) (n j : Nat) : Nat := (r.getD (0x178 + 16 * n + j) 0).toNat
/-- The maximum population of a k-piece (R22). -/
def maxPop (r : List Byte) : Nat → Nat
  | 0 => 1
  | k + 1 => COUNT r (k + 1) 0 1 * COUNT r (k + 1) 1 1 * COUNT r (k + 1) 2 1 * COUNT r (k + 1) 3 1 * maxPop r k

/-- Every reserved field and encoding is zero (R14 to R19, R27, R29). -/
structure ReservedOk (r : List Byte) : Prop where
  header : zero r 0x2E 0x2F ∧ zero r 0x41 0x44 ∧ zero r 0x4C 0x50 ∧ zero r 0x5C 0x60 ∧ zero r 0x1F8 0x200
  flags : ∀ n, n < 32 → n = 6 ∨ n = 7 ∨ 13 ≤ n → FLAG r n = false
  level : 1 ≤ NLEVEL r → NLEVEL r ≤ 8 → ∀ k, 1 ≤ k → k ≤ 7 →
    if k < NLEVEL r then LEVEL r k < 2 ^ 22 ∧ LEVEL r k / 2 ^ 11 % 32 = 0 ∧ LEVEL r k / 8 % 2 = 0 ∧ LEVEL r k % 8 ≤ 5
    else zero r (0x38 + 40 * k) (0x60 + 40 * k)
  slot : ∀ n, n < 8 → SLOT r n 9 < 16 ∧ zero r (0x178 + 16 * n + 12) (0x188 + 16 * n) ∧
    (SLOT r n 8 = 0 → zero r (0x178 + 16 * n) (0x180 + 16 * n) ∧ zero r (0x181 + 16 * n) (0x188 + 16 * n))

/-- NDIM and SPACE, and the conditions of SEED (R15, R18). -/
structure SpaceOk (r : List Byte) : Prop where
  ndim : 1 ≤ NDIM r ∧ NDIM r ≤ 4
  space : ∀ d, d < 4 → 1 ≤ SPACE r d ∧ (NDIM r ≤ d → SPACE r d = 1)
  seed : FLAG r 3 = true → NDIM r = 1 ∧ NLEVEL r = 1 ∧ SPACE r 0 ≤ 32 ∧ fieldAt r 0x2C 2 = 0 ∧ FLAG r 1 = false ∧ FLAG r 2 = false

/-- A level entry (R19 to R22). -/
structure LevelOk (r : List Byte) (k : Nat) : Prop where
  order : (LEVEL r k / 2 ^ 18).testBit (LEVEL r k / 2 ^ 16 % 4) = true
  domain : 1 < k → LEVEL r (k - 1) % 8 ≤ LEVEL r k % 8
  scope : LEVEL r k % 8 + 1 ≤ LEVEL r k / 16 % 16 ∧ LEVEL r k / 16 % 16 ≤ 10
  dim : ∀ d, d < 4 → 1 ≤ COUNT r k d 0 ∧ COUNT r k d 0 ≤ COUNT r k d 3 ∧ COUNT r k d 3 ≤ COUNT r k d 1 ∧
    COUNT r k d 2 ∣ COUNT r k d 0 ∧ COUNT r k d 2 ∣ COUNT r k d 3 ∧ COUNT r k d 2 ∣ COUNT r k d 1 ∧
    (NDIM r ≤ d → COUNT r k d 0 = 1 ∧ COUNT r k d 1 = 1 ∧ COUNT r k d 2 = 1 ∧ COUNT r k d 3 = 1)
  group : LEVEL r k % 8 = 0 → maxPop r k ≤ 32 ∧ (LEVEL r k).testBit 8 = false
  gang : (LEVEL r k).testBit 8 = true → maxPop r k ≤ [32, 2048, 8192, 106496, 851968, 218103808].getD (LEVEL r k % 8) 0
  barrier : (LEVEL r k).testBit 10 = true → maxPop r k ≤ 268435455

def LevelsOk (r : List Byte) : Prop := 1 ≤ NLEVEL r ∧ NLEVEL r ≤ 8 ∧ ∀ k, 1 ≤ k → k < NLEVEL r → LevelOk r k
def BodyOk (r : List Byte) : Prop := 8 ∣ fieldAt r 8 8 ∧ 8 ∣ fieldAt r 0x38 8
def ConstsOk (r : List Byte) : Prop := NCONST r ≤ 32 ∧ (NCONST r ≠ 0 → 8 ∣ fieldAt r 0x30 8)
/-- NVREG, LOCAL and ROLES (R15, R25, R29). -/
def ResourceOk (r : List Byte) : Prop :=
  1 ≤ (r.getD 0x40 0).toNat ∧ (r.getD 0x40 0).toNat ≤ 32 ∧ fieldAt r 0x48 4 ≤ 65536 ∧ 16 ∣ fieldAt r 0x48 4 ∧
  (fieldAt r 0x44 4 ≠ 0 → ∃ k, 1 ≤ k ∧ k < NLEVEL r ∧ LEVEL r k % 8 = 1)
/-- The used slots (R27): element sizes by format tag I32, N32, I64, N64, F32, F64. -/
def SlotOk (r : List Byte) (n : Nat) : Prop :=
  SLOT r n 8 ≠ 0 → SLOT r n 8 ≤ 3 ∧ 1 ≤ SLOT r n 9 % 16 ∧ SLOT r n 9 % 16 ≤ 6 ∧ SLOT r n 10 < NLEVEL r ∧ 2 ≤ SLOT r n 11 ∧
    SLOT r n 11 ≤ 10 ∧ [0, 4, 4, 8, 8, 4, 8].getD (SLOT r n 9 % 16) 0 ∣ fieldAt r (0x178 + 16 * n) 8 ∧
    ∀ k, 1 ≤ k → k ≤ SLOT r n 10 → ∀ d, d < 4 → COUNT r k d 0 = COUNT r k d 1 ∧ COUNT r k d 0 = COUNT r k d 3
/-- CUTREC and CUTCAP (R15, R29). -/
def CutOk (r : List Byte) : Prop :=
  if fieldAt r 0x20 8 = 0 then FLAG r 1 = false ∧ FLAG r 2 = false
  else 32 ∣ fieldAt r 0x20 8 ∧ max 2 (NLEVEL r) ≤ fieldAt r 0x28 4
/-- TASKRING and TASKCAP (R15). -/
def TaskOk (r : List Byte) : Prop :=
  if fieldAt r 0x50 8 = 0 then fieldAt r 0x58 4 = 0
  else 64 ∣ fieldAt r 0x50 8 ∧ ∃ i, 1 ≤ i ∧ i ≤ 16 ∧ fieldAt r 0x58 4 = 2 ^ i

/-- The checks in the order of R29's table, before and after the constant table is read. -/
def headChecks (r : List Byte) : List (Nat × Prop) :=
  [(0x102, fieldAt r 0 2 = 1), (0x103, ReservedOk r), (0x104, SpaceOk r), (0x105, LevelsOk r), (0x106, BodyOk r), (0x107, ConstsOk r)]
def tailChecks (r : List Byte) : List (Nat × Prop) :=
  [(0x108, ResourceOk r), (0x109, ∀ n, n < 8 → SlotOk r n), (0x10A, CutOk r)]
/-- The first check of a list that fails has this code. -/
def FirstFailure (cs : List (Nat × Prop)) (code : Nat) : Prop :=
  ∃ a p b, cs = a ++ (code, p) :: b ∧ ¬ p ∧ ∀ c ∈ a, c.2
def AllHold (cs : List (Nat × Prop)) : Prop := ∀ c ∈ cs, c.2

/-- A launch that dispatches nothing (R29, R31, R46): a queue's launch is complete with the error; a child launch is gone, and
its parent has the error, TASKFAIL and a count less. -/
def FailsToStart (s : State) (lid : Nat) (l : Launch) (code : Nat) : Prop :=
  (l.parent = none → ∃ t l', exec (.launchRecordRead lid) s = .next t ∧ t.launch lid = some l' ∧ l'.phase = .completing ∧
    l'.error = (if l.error = 0 then BitVec.ofNat 32 code else l.error) ∧ l'.flags = l.flags ||| 1 ∧ l'.end_ = s.time ∧
    l'.start = l.start ∧ l'.counter = 0 ∧ t.groups = s.groups ∧ t.mem = s.mem) ∧
  (∀ p m, l.parent = some p → p ≠ lid → s.launch p = some m → m.phase = .running → 1 < m.counter →
    ∃ t, exec (.launchRecordRead lid) s = .next t ∧ t.launch lid = none ∧
      t.launch p = some { m with error := if m.error = 0 then BitVec.ofNat 32 code else m.error, flags := m.flags ||| 5,
                                 counter := m.counter - 1 } ∧ t.groups = s.groups ∧ t.mem = s.mem)

/-- LAUNCH_RECORD_READ (R28, R29, R46, R47): the record and the constant table are read and checked in the order of R29; a
launch without error starts with its count at 1, or is armed; the 65th to be armed fails with ARM_FULL. -/
def RecordReads : Prop :=
  ∀ (s : State) (lid : Nat) (l : Launch), s.launch lid = some l → l.phase = .released → s.admits l = true →
    (s.exhausted l.leaf 5 = true → exec (.launchRecordRead lid) s = .next s) ∧
    (s.exhausted l.leaf 5 = false →
    ((l.lrec.toNat % 64 ≠ 0 ∨ FrontBlind s l.leaf l.vi l.lrec.toNat 512) → FailsToStart s lid l 0x101) ∧
    (∀ r, l.lrec.toNat % 64 = 0 → r.length = 512 → FrontSees s l.leaf l.vi l.lrec.toNat r →
      (∀ code, FirstFailure (headChecks r) code → FailsToStart s lid l code) ∧
      (AllHold (headChecks r) →
        (NCONST r ≠ 0 → FrontBlind s l.leaf l.vi (fieldAt r 0x30 8) (8 * NCONST r) → FailsToStart s lid l 0x107) ∧
        (∀ cs, cs.length = 8 * NCONST r → FrontSees s l.leaf l.vi (fieldAt r 0x30 8) cs →
          (∀ code, FirstFailure (tailChecks r) code → FailsToStart s lid l code) ∧
          (AllHold (tailChecks r) → (FLAG r 0 = false ∧ FLAG r 1 = false ∧ FLAG r 2 = false ∨ fieldAt r 0x20 8 = 0) →
            s.assisted l.leaf 2 = false →
            (¬ TaskOk r → FailsToStart s lid l 0x10B) ∧
            (TaskOk r → FLAG r 5 = true → (s.launches.filter (fun p => p.2.vi == l.vi && p.2.phase == .armed)).length ≥ 64 →
              FailsToStart s lid l 0x303) ∧
            (TaskOk r → (FLAG r 5 = true → (s.launches.filter (fun p => p.2.vi == l.vi && p.2.phase == .armed)).length < 64) →
              ∃ t l', exec (.launchRecordRead lid) s = .next t ∧ t.launch lid = some l' ∧
                l'.phase = (if FLAG r 5 then .armed else .running) ∧ l'.record = r ∧ l'.counter = 1 ∧
                l'.consts.length = NCONST r ∧ (∀ i, i < NCONST r → (l'.consts.getD i 0).toNat = fieldAt cs (8 * i) 8) ∧
                (∀ p, p ≠ lid → t.launch p = s.launch p) ∧ t.groups = s.groups ∧ t.mem = s.mem ∧ t.vis = s.vis))))))

/-- A task record that starts something (R30). -/
def TaskValid (b : List Byte) : Prop :=
  (b.getD 0 0 = 1 ∨ b.getD 0 0 = 2) ∧ zero b 1 8 ∧ (b.getD 0 0 = 1 → 8 ∣ fieldAt b 8 8)

/-- TASK_RECORD_READ (R31, R48, R140): the oldest unread record of a `spawn` is read once the writes before it have performed
at PACKAGE; its slot is free; the record starts a TASK group of 32 lanes, a child launch, or nothing, which the launch's
error, TASKFAIL and count show. -/
def TaskReads : Prop :=
  ∀ (s : State) (gid op : Nat) (g : Group) (l : Launch) (o : Op) (a : BitVec 64) (r : List (BitVec 64)) (ws : List Nat),
    s.group gid = some g → s.launch g.launch = some l → g.op op = some o → o.kind = .spawn (a :: r) ws → o.ended = false →
    (∀ w ∈ ws, s.performed w 4 = true) → s.admits l = true → r ≠ [] → l.phase = .running → 1 < l.counter →
    let slot := tblErase l.tasks ((a.toNat - l.taskRing) / 64)
    (s.exhausted g.leaf 5 = true → exec (.taskRecordRead gid op) s = .next s) ∧
    (s.exhausted g.leaf 5 = false → ∃ t, exec (.taskRecordRead gid op) s = .next t ∧
      (∃ g', t.group gid = some g' ∧ g' = { g with ops := g.ops.map (fun x => if x.id = op then { x with kind := .spawn r ws } else x) }) ∧
      (∀ b, b.length = 64 → FrontSees s g.leaf g.vi a.toNat b → TaskValid b → b.getD 0 0 = 1 →
        ∃ p, p.points = allLanes.map (fun i => [i, 0, 0, 0]) ∧ p.pieces = [] ∧ p.unit = 0 ∧ p.gang = none ∧ p.role = 0 ∧
          (∃ args, p.task = some (BitVec.ofNat 64 (fieldAt b 8 8), args) ∧ args.length = 6 ∧
            ∀ i, i < 6 → (args.getD i 0).toNat = fieldAt b (16 + 8 * i) 8) ∧
          t.launch g.launch = some { l with tasks := slot, taskPlans := l.taskPlans ++ [p] }) ∧
      (∀ b, b.length = 64 → FrontSees s g.leaf g.vi a.toNat b → TaskValid b → b.getD 0 0 = 2 → s.nextId ≠ g.launch →
        t.launch g.launch = some { l with tasks := slot } ∧
        ∃ c, t.launch s.nextId = some c ∧ c.lrec.toNat = fieldAt b 8 8 ∧ c.parent = some g.launch ∧ c.phase = .released ∧
          c.vi = l.vi ∧ c.leaf = l.leaf ∧ c.csig = 0 ∧ c.setMask = [] ∧ c.intr = false ∧ c.error = 0 ∧ c.flags = 0) ∧
      ((FrontBlind s g.leaf g.vi a.toNat 64 ∨ ∃ b, b.length = 64 ∧ FrontSees s g.leaf g.vi a.toNat b ∧ ¬ TaskValid b) →
        t.launch g.launch = some { l with
          tasks := slot, error := if l.error = 0 then 0x10B else l.error, flags := l.flags ||| 5, counter := l.counter - 1 }))

end Sys2Proof.Spec

/-- The queue cores and the front end (R14 to R31, R42 to R48, R54, R57): an entry consumed and released, a launch record read
and checked, a task record read. The model's readings are in how many steps a control block is updated (DEDUCED, log entry 50),
when the host is asked at RELEASE (51), that RELEASE waits while the queue is halted (53), what enabling a queue does to its
held entry (46), DET with a cut-record header that cannot be read (55) and PREARM in a child's record (57); its choices are the
code for a misaligned CUTREC and that a record is read at one instant (DESIGN CHOICE, log entry 98). -/
def Obligations.QueuesAndRecords : Prop :=
  Sys2Proof.Spec.Consumes ∧ Sys2Proof.Spec.Releases ∧ Sys2Proof.Spec.RecordReads ∧ Sys2Proof.Spec.TaskReads

namespace Sys2Proof.Spec

/-! ### Dispatch, retirement and completion (R23, R31, R48 to R51, R69 to R74, R80, R82, R362, R369) -/

/-- A group as its context is initialised (R23, R31, R72): its lanes at their first address with their points, the others
absent; K registers from the constant table, the payload and the arguments; every other part empty. -/
structure Fresh (s : State) (lid : Nat) (l : Launch) (g : Group) (core ctx : Nat) (addr : BitVec 48) (pts : List (List Nat))
    (task : Bool) (args : List (BitVec 64)) : Prop where
  rest : { g with lanes := [], k := [], pieces := [], role := 0, image := none } =
    { launch := lid
      vi := l.vi
      leaf := l.leaf
      core := core
      ctx := ctx
      task := task
      tvecS := (s.vi l.vi).stvec
      tvecH := (s.part l.leaf).hvec }
  lane : ∀ i, i < pts.length → { g.lane i with own := [] } = {
    addr := addr
    cx := BitVec.ofNat 32 ((pts.getD i []).getD 0 0)
    cy := BitVec.ofNat 32 ((pts.getD i []).getD 1 0)
    cz := BitVec.ofNat 32 ((pts.getD i []).getD 2 0)
    cw := BitVec.ofNat 32 ((pts.getD i []).getD 3 0) }
  absent : ∀ i, pts.length ≤ i → i < 32 → (g.lane i).absent = true
  k : ∀ n, n < 32 → g.kGet n = if h : n < args.length then args[n] else match l.payload, n with
    | some a, 0 => a
    | _, _ => l.consts.getD n 0
  kzero : l.consts.length ≤ 32 → ∀ n, 32 ≤ n → args.length ≤ 6 → g.kGet n = 0
  v : ∀ m r j, g.vGet m r j = 0 ∧ g.tag m r = .raw
  p : ∀ n j, g.pGet n j = false
  t : ∀ n, g.tGet n = {}

/-- Memory of a leaf's pool that the image of a group may take: beyond the save blocks, and apart from every image in use (R73,
R74, R350; that the blocks stand first is the model's choice, log entry 103). -/
def Roomy (s : State) (leaf size a : Nat) : Prop :=
  (s.part leaf).imageBase ≤ a ∧ a + size ≤ (s.part leaf).imageBase + (s.part leaf).imagePool ∧
    ∀ u ∈ s.imagesHeld leaf, u.1 + u.2 ≤ a ∨ a + size ≤ u.1

/-- Groups that get their context have their image with it: the one that their plan was given, or one from the pool, each apart
from the others (R72 to R74). -/
def ImagesGiven (s : State) (leaf size : Nat) (ps : List GroupPlan) (image : Nat → Option Nat) : Prop :=
  (∀ j g, ps[j]? = some g → ∃ a, image j = some a ∧ (g.image = some a ∨ (g.image = none ∧ Roomy s leaf size a))) ∧
  ∀ j k g h a b, ps[j]? = some g → ps[k]? = some h → j ≠ k → g.image = none → h.image = none → image j = some a →
    image k = some b → a + size ≤ b ∨ b + size ≤ a

/-- The point with a linear index in a box (R17, R71). -/
def pointAt (org ext : Nat → Nat) (n : Nat) : List Nat :=
  [org 0 + n % ext 0, org 1 + n / ext 0 % ext 1, org 2 + n / (ext 0 * ext 1) % ext 2, org 3 + n / (ext 0 * ext 1 * ext 2)]

/-- A launch at work with no piece laid out, no record write waiting, no task and no first cut awaited. -/
structure Idle (s : State) (lid : Nat) (l : Launch) : Prop where
  found : s.launch lid = some l
  running : l.phase = .running
  admits : s.admits l = true
  tasks : l.taskPlans = []
  cuts : l.grader.awaited = [] ∧ l.grader.log = [] ∧ ∀ w ∈ l.grader.logged, s.performed w 6 = true
  open_ : l.stopped = false ∧ l.laidOut = false

/-- Where dispatch and retirement leave everything but a launch and its groups. -/
def sameElsewhere (s t : State) : Prop := t.mem = s.mem ∧ t.flight = s.flight ∧ t.tiles = s.tiles ∧ t.time = s.time

/-- A launch without levels: its next group takes the next 32 linear indices of the space, the last group what is left
(R71, R72), and its image lies in the pool; that it takes the lowest place is the model's choice (log entry 103). -/
def GroupDispatch : Prop :=
  ∀ (s : State) (lid : Nat) (l : Launch) (core ctx : Nat), Idle s lid l → l.plans = [] → NLEVEL l.record = 1 →
    let np := SPACE l.record 0 * SPACE l.record 1 * SPACE l.record 2 * SPACE l.record 3
    let n := min 32 (np - l.nextTop)
    l.nextTop < np → s.placeFree l.leaf (core, ctx) = true → s.keptFor (some lid) core = false →
    (∃ a, Roomy s l.leaf l.poolBytes a) →
    ∃ t g l' a, exec (.pieceDispatch lid [(core, ctx)]) s = .next t ∧ t.group s.nextId = some g ∧
      Fresh s lid l g core ctx (BitVec.ofNat 48 (fieldAt l.record 8 8))
        ((List.range n).map (fun i => pointAt (fun _ => 0) (SPACE l.record) (l.nextTop + i))) false [] ∧
      g.pieces = [] ∧ g.role = 0 ∧ g.image = some a ∧ Roomy s l.leaf l.poolBytes a ∧
      (∀ b, Roomy s l.leaf l.poolBytes b → a ≤ b) ∧ (∀ gid, gid ≠ s.nextId → t.group gid = s.group gid) ∧
      t.launch lid = some l' ∧ l'.nextTop = l.nextTop + n ∧ l'.plans = [] ∧ l'.laidOut = decide (l.nextTop + n = np) ∧
      l'.start = some (l.start.getD s.time) ∧ l'.counter = l.counter ∧ l'.phase = .running ∧ sameElsewhere s t

/-- A launch with one level, cut once for the whole space in linear order: the next top-level piece is laid out, with its
place, extent, position and population, and its points in groups of 32 (R21, R69 to R71, R76). -/
def PieceLayout : Prop :=
  ∀ (s : State) (lid : Nat) (l : Launch) (sl : Slab) (c : Cut), Idle s lid l → l.plans = [] → NLEVEL l.record = 2 →
    l.grader.windowed = false → l.grader.slabbed = false → l.grader.slab = some sl → sl.cuts = [c] → c.order = 0 →
    c.shape.length = 4 → (∀ d, d < 4 → 1 ≤ c.shape.getD d 0) → (∀ d, d < 4 → 1 ≤ SPACE l.record d) →
    let ext (d : Nat) : Nat := c.shape.getD d 0
    let grid (d : Nat) : Nat := (SPACE l.record d + ext d - 1) / ext d
    let ix := pointAt (fun _ => 0) grid sl.next
    let org (d : Nat) : Nat := ix.getD d 0 * ext d
    let clip (d : Nat) : Nat := min (ext d) (SPACE l.record d - org d)
    let pop := clip 0 * clip 1 * clip 2 * clip 3
    sl.next < grid 0 * grid 1 * grid 2 * grid 3 → l.poolBytes * ((pop + 31) / 32) ≤ (s.part l.leaf).imagePool →
    ∃ t l' p, exec (.pieceDispatch lid []) s = .next t ∧ t.piece s.nextId = some p ∧ t.launch lid = some l' ∧
      p.launch = lid ∧ p.level = 1 ∧ p.parent = none ∧ p.subs = [] ∧ p.born = none ∧ p.retired = false ∧
      p.org = [org 0, org 1, org 2, org 3] ∧ p.ext = [clip 0, clip 1, clip 2, clip 3] ∧ p.pos = l.dispatched ∧ p.pop = pop ∧
      p.bar = 0xFFFFFFFF ∧ p.barpkg = 0xFFFFFFFF ∧
      l'.dispatched = l.dispatched + 1 ∧ l'.plans.length = (pop + 31) / 32 ∧
      (∀ j, j < (pop + 31) / 32 → ∃ q, l'.plans[j]? = some q ∧ q.pieces = [s.nextId] ∧ q.unit = s.nextId ∧ q.task = none ∧
        q.points = (List.range (min 32 (pop - 32 * j))).map (fun i => pointAt org clip (32 * j + i)) ∧
        q.role = (if LEVEL l.record 1 % 8 = 1 then fieldAt l.record 0x44 4 / 2 ^ (2 * (j % 16)) % 4 else 0) ∧
        q.gang = (if (LEVEL l.record 1).testBit 8 then some s.nextId else none)) ∧
      t.groups = s.groups ∧ sameElsewhere s t

/-- Laid-out groups take the places given, where these are free, keep their pieces within one instance of their domain and
leave no gang in part, and the pool has their images; pieces of levels without BARRIER are dispatched with them (R72, R74,
R81, R82). Where the places do not do, the launch waits; where its next piece needs more than the pool, it dispatches nothing
further. -/
def PlansPlaced : Prop :=
  ∀ (s : State) (lid : Nat) (l : Launch), s.launch lid = some l → l.phase = .running → s.admits l = true → l.taskPlans = [] →
    l.grader.awaited = [] → l.grader.log = [] → l.plans ≠ [] →
    (∀ (ps rest : List GroupPlan) (places : List (Nat × Nat)), l.plans = ps ++ rest → ps.length = places.length →
      l.headGroups * l.poolBytes ≤ (s.part l.leaf).imagePool → s.placesFit lid l places = true →
      (∀ g ∈ ps, g.task = none ∧ ∀ pid ∈ g.all, ∀ p, s.piece pid = some p → p.born = none → (LEVEL l.record p.level).testBit 10 = false) →
      ∃ t l' image, exec (.pieceDispatch lid places) s = .next t ∧ t.launch lid = some l' ∧
        l'.plans.map (fun q => { q with image := none }) = rest.map (fun q => { q with image := none }) ∧
        ImagesGiven s l.leaf l.poolBytes ps image ∧ l'.start = some (l.start.getD s.time) ∧ l'.gangAt = none ∧ sameElsewhere s t ∧
        (∀ j g q, ps[j]? = some g → places[j]? = some q → ∃ x, t.group (s.nextId + j) = some x ∧
          Fresh s lid l x q.1 q.2 (BitVec.ofNat 48 (fieldAt l.record 8 8)) g.points false [] ∧ x.pieces = g.pieces ∧
          x.role = g.role ∧ x.image = image j ∧ ∀ i, i < g.points.length → (x.lane i).own = g.own.getD i []) ∧
        (∀ g ∈ ps, ∀ pid ∈ g.all, ∀ p, s.piece pid = some p → ∃ p', t.piece pid = some p' ∧
          p'.born = some (p.born.getD s.time) ∧ { p' with born := p.born, homeCluster := p.homeCluster } = p)) ∧
    (∀ places, l.headGroups * l.poolBytes ≤ (s.part l.leaf).imagePool → s.placesFit lid l places = false →
      ∃ t, exec (.pieceDispatch lid places) s = .next t ∧ t.groups = s.groups ∧ t.pieces = s.pieces ∧ t.barriers = s.barriers) ∧
    (∀ places, (s.part l.leaf).imagePool < l.headGroups * l.poolBytes → (l.counted = true ∨ 1 < l.counter) →
      ∃ t l', exec (.pieceDispatch lid places) s = .next t ∧ t.groups = s.groups ∧ t.launch lid = some l' ∧ l'.plans = [] ∧
        l'.stopped = true ∧ l'.error = (if l.error = 0 then 0x108 else l.error) ∧ l'.flags = l.flags ||| 3)

/-- A piece of a BARRIER level is dispatched with an armed barrier: the lowest free object of its store, with phase 0 and its
population as expected arrivals; while there is none it waits (R80, R294). -/
def ArmedBarriers : Prop :=
  ∀ (s : State) (lid : Nat) (l : Launch) (g : GroupPlan) (rest : List GroupPlan) (pid : Nat) (p : Piece) (core ctx : Nat),
    s.launch lid = some l → l.phase = .running → s.admits l = true → l.taskPlans = [] → l.grader.awaited = [] →
    l.grader.log = [] → l.plans = g :: rest → g.all = [pid] → s.piece pid = some p → p.born = none →
    (LEVEL l.record p.level).testBit 10 = true → l.headGroups * l.poolBytes ≤ (s.part l.leaf).imagePool →
    s.placesFit lid l [(core, ctx)] = true →
    let lvl := decide (2 ≤ LEVEL l.record p.level % 8)
    let h (i : Nat) : Nat := handleAt lvl (if lvl then core / 4 else core) i
    ((∀ i, i < barCount lvl → tblFind s.barriers (h i) ≠ none) →
      ∃ t, exec (.pieceDispatch lid [(core, ctx)]) s = .next t ∧ t.groups = s.groups ∧ t.pieces = s.pieces ∧
        t.barriers = s.barriers) ∧
    (∀ i, i < barCount lvl → tblFind s.barriers (h i) = none → (∀ j, j < i → tblFind s.barriers (h j) ≠ none) →
      ∃ t p' b, exec (.pieceDispatch lid [(core, ctx)]) s = .next t ∧ t.piece pid = some p' ∧ p'.born = some s.time ∧
        p'.bar = BitVec.ofNat 32 (h i) ∧ p'.barpkg = BitVec.ofNat 32 s.dpkg ∧ p'.homeCluster = some (core / 4) ∧
        tblFind t.barriers (h i) = some b ∧ b.owner = .piece pid ∧ b.leaf = l.leaf ∧ b.phase = 0 ∧ b.exparr = p.pop ∧ b.arr = 0 ∧
        b.expb = 0 ∧ b.landb = 0 ∧ b.scope.toNat = LEVEL l.record p.level / 16 % 16 ∧
        ∀ k, k ≠ h i → tblFind t.barriers k = tblFind s.barriers k)

/-- TASK groups take their places before the pieces do, with TARGET and the six arguments (R31, R72). -/
def TasksPlaced : Prop :=
  ∀ (s : State) (lid : Nat) (l : Launch) (ps rest : List GroupPlan) (places : List (Nat × Nat)),
    s.launch lid = some l → l.phase = .running → s.admits l = true → l.taskPlans = ps ++ rest → ps ≠ [] →
    ps.length = places.length → (∀ q ∈ places, s.placeFree l.leaf q = true ∧ s.keptFor none q.1 = false) → places.Nodup →
    (allocImages (s.part l.leaf) l.poolBytes (s.imagesHeld l.leaf) (ps.map (fun g => (true, g)))).isSome = true →
    (∀ g ∈ ps, ∃ target args, g.task = some (target, args) ∧ args.length = 6) →
    ∃ t image, ImagesGiven s l.leaf l.poolBytes ps image ∧ exec (.pieceDispatch lid places) s = .next t ∧
      t.launch lid = some { l with
        taskPlans := rest, taskGroups := l.taskGroups ++ (List.range ps.length).map (fun j => s.nextId + j) } ∧
      (∀ j g q target args, ps[j]? = some g → places[j]? = some q → g.task = some (target, args) → ∃ x,
        t.group (s.nextId + j) = some x ∧ Fresh s lid l x q.1 q.2 (target.setWidth 48) g.points true args ∧ x.image = image j) ∧
      sameElsewhere s t

/-- Everything a piece or a TASK group owns is free, and nothing else (R32, R362); the changes on their way to its barrier objects
go with them (R80). -/
def Freed (s t : State) (o : Owner) : Prop :=
  (∀ x, x ∈ t.tiles ↔ x ∈ s.tiles ∧ x.2.owner ≠ o) ∧ (∀ x, x ∈ t.barriers ↔ x ∈ s.barriers ∧ x.2.owner ≠ o) ∧
  (∀ x, x ∈ t.runs ↔ x ∈ s.runs ∧ x.2.owner ≠ o) ∧
  (∀ x, x ∈ t.changes ↔ x ∈ s.changes ∧ ¬ (x.2.pkg = none ∧ ∃ b, tblFind s.barriers x.2.handle = some b ∧ b.owner = o)) ∧
  ∀ c, { t.core c with regions := (s.core c).regions } = s.core c ∧
    ∀ x, x ∈ (t.core c).regions ↔ x ∈ (s.core c).regions ∧ x.2.owner ≠ o

/-- The conditions under which a dispatched piece retires (R362). -/
def PieceOver (s : State) (l : Launch) (pid : Nat) (p : Piece) : Prop :=
  p.born ≠ none ∧ p.retired = false ∧
  (if p.level = 1 then (∀ g ∈ l.plans, pid ∉ g.all) ∧ (∀ x ∈ s.groups, x.2.inPiece pid = true → x.2.freed = true)
   else ∀ q ∈ p.subs, ∀ x, s.piece q = some x → x.retired = true)

/-- A launch has come to the end of its own pieces (R48, R362). -/
def LaunchOver (s : State) (lid : Nat) (l : Launch) : Prop :=
  (l.laidOut = true ∨ l.stopped = true) ∧ l.plans = [] ∧ (∀ x ∈ s.pieces, x.2.launch = lid → x.2.retired = true) ∧
  ∀ x ∈ s.groups, x.2.launch = lid → x.2.task = false → x.2.freed = true

/-- PIECE_RETIRE (R31, R32, R48, R362, R363): a piece, a TASK group, or the last of a launch. A TASK group counts when its lanes
have exited; that what it owns is freed when its operations have ended too is the model's reading (log entry 98). -/
def Retires : Prop :=
  (∀ (s : State) (pid : Nat) (p : Piece) (l : Launch), s.piece pid = some p → s.launch p.launch = some l → l.phase = .running →
    s.residentVi l.vi = true →
    (¬ PieceOver s l pid p → exec (.pieceRetire pid) s = .next s) ∧
    (PieceOver s l pid p → l.grader.windowed = false → l.counted = true ∨ (l.laidOut = false ∧ l.stopped = false) →
      ∃ t l', exec (.pieceRetire pid) s = .next t ∧ t.piece pid = some { p with retired := true } ∧ Freed s t (.piece pid) ∧
        t.launch p.launch = some l' ∧ l'.counter = l.counter ∧ l'.grader.retired = l.grader.retired + 1 ∧
        (∀ st, l.grader.stats[p.level - 1]? = some st → ∃ st', l'.grader.stats[p.level - 1]? = some st' ∧
          st'.retired = st.retired + 1 ∧ st'.sumDur = st.sumDur + (s.time - p.born.getD 0) ∧
          st'.maxDur = max st.maxDur (s.time - p.born.getD 0) ∧
          st'.lanes = st.lanes + (((s.groups.filter (fun x => x.2.inPiece pid)).map (fun x => x.2.meas.lanes)).sum) ∧
          st'.issues = st.issues + (((s.groups.filter (fun x => x.2.inPiece pid)).map (fun x => x.2.meas.issues)).sum)) ∧
        t.groups = s.groups ∧ t.mem = s.mem ∧ t.flight = s.flight)) ∧
  (∀ (s : State) (gid : Nat) (g : Group) (l : Launch), s.piece gid = none → s.group gid = some g → g.task = true →
    s.launch g.launch = some l → gid ∈ l.taskGroups → s.residentVi l.vi = true → l.phase = .running → 1 < l.counter →
    let ended : Prop := ∀ i, i < 32 → (g.lane i).absent = true ∨ (g.lane i).exited = true
    let counts := if g.done then l.counter else l.counter - 1
    (¬ ended → exec (.pieceRetire gid) s = .next s) ∧
    (ended → ∃ t, exec (.pieceRetire gid) s = .next t ∧ t.group gid = some { g with done := true } ∧
      (∀ n, n ≠ gid → t.group n = s.group n) ∧ t.mem = s.mem ∧ t.flight = s.flight ∧
      (g.freed = true → Freed s t (.task gid) ∧
        t.launch g.launch = some { l with taskGroups := l.taskGroups.filter (fun x => x ≠ gid), counter := counts }) ∧
      (g.freed = false → t.launch g.launch = some { l with counter := counts } ∧ t.tiles = s.tiles ∧ t.barriers = s.barriers ∧
        t.runs = s.runs ∧ t.cores = s.cores ∧ t.changes = s.changes))) ∧
  (∀ (s : State) (gid : Nat) (g : Group) (l : Launch), s.piece gid = none → s.group gid = some g → g.task = false →
    s.launch g.launch = some l → l.phase = .running → l.counted = false → (l.stopped = true ∨ l.grader.replay = false) →
    (¬ LaunchOver s g.launch l → exec (.pieceRetire gid) s = .next s) ∧
    (LaunchOver s g.launch l → 1 < l.counter →
      exec (.pieceRetire gid) s = .next { s with
        launches := tblSet s.launches g.launch { l with counted := true, counter := l.counter - 1 } }) ∧
    (LaunchOver s g.launch l → l.counter = 1 → l.parent = none → ∃ t, exec (.pieceRetire gid) s = .next t ∧
      t.launch g.launch = some { l with
        counted := true, counter := 0, phase := .completing, end_ := s.time, step := 0, payloadSlot := none } ∧
      (∀ n, l.payloadSlot = some n → n ∉ (t.vi l.vi).slots) ∧ t.groups = s.groups ∧ t.mem = s.mem))

/-! The completion of a launch (R50, R51, R369). -/

/-- The 32 bytes of a completion signal (R50). -/
structure SignalBytes (l : Launch) (b : List Byte) : Prop where
  len : b.length = 32
  value : fieldAt b 0 8 = l.cval.toNat
  start : fieldAt b 8 8 = (l.start.getD l.end_) % 2 ^ 64
  stop : fieldAt b 0x10 8 = l.end_ % 2 ^ 64
  error : fieldAt b 0x18 4 = l.error.toNat
  flags : fieldAt b 0x1C 4 = l.flags.toNat / 2 * 2 + (if l.error = 0 then 0 else 1)

/-- A launch is at a step of its completion. -/
def AtStep (s : State) (lid : Nat) (l : Launch) (n : Nat) : Prop :=
  s.launch lid = some l ∧ l.phase = .completing ∧ l.step = n

def putLaunch (s : State) (lid : Nat) (l : Launch) : State := { s with launches := tblSet s.launches lid l }

/-- A launch or one of its descendants (R31). -/
inductive Under (s : State) (lid : Nat) : Nat → Prop where
  | self : Under s lid lid
  | child (c p : Nat) (l : Launch) : s.launch c = some l → l.parent = some p → Under s lid p → Under s lid c

/-- Everything of a launch and its descendants has ended, and their writes have performed at CSCOPE (R51 step 1). -/
def WritesDone (s : State) (lid : Nat) (l : Launch) : Prop :=
  (∀ x ∈ s.groups, Under s lid x.2.launch → x.2.freed = true) ∧
  (∀ x ∈ s.launches, Under s lid x.1 → x.2.taskGroups = [] ∧ (x.1 ≠ lid → x.2.phase = .completed)) ∧
  ∀ w ∈ s.flight, Under s lid w.launch → s.performed w.id (scopeLevel l.cscope) = true

/-- The walks of a guest address range meet no table entry that is marked as in error (R182). -/
def Clear (s : State) (x : Xlate) (m : Need) (a n : Nat) : Prop :=
  ∀ i p es, i < n → s.translate x m (a + i) = .ok (p, es) → ∀ e ∈ es, unmarked s e.at_

/-- A write of the front end enters PB: it is in flight, and touches the monitors that watch its lines at PACKAGE or below (R277, R301).
`u` is what else the step makes of `s`. -/
def enters (s u : State) (lid n : Nat) (pl : Nat → Nat) (b : Nat → Byte) : State :=
  { u with
    nextId := s.nextId + 1
    flight := s.flight ++ [hubWriteOf s lid 4 n pl b]
    groups := watched s (fun g => decide (scopeLevel g.mon.level.toNat ≤ 4) &&
      (List.range n).any (fun i => decide (g.mon.place = .sys (pl i / 128 * 128)))) }

/-- Up to the completion signal: the final header of a logging Grader, the wait for the record, the slots one by one, the wait
for every write (R51, R311, R369); a child launch ends after its own children, by passing its error and flags to its parent
(R31). -/
def CompletionStarts : Prop :=
  ∀ (s : State) (lid : Nat) (l : Launch),
    (AtStep s lid l 0 → (l.grader.logging = false → exec (.complete lid) s = .next (putLaunch s lid { l with step := 1 })) ∧
      (l.grader.logging = true → ∃ h, h.length = 32 ∧ h.take 4 = [0, 1, 0, 0] ∧ fieldAt h 4 4 = l.grader.used % 2 ^ 32 ∧
        fieldAt h 16 8 = l.grader.retired % 2 ^ 64 ∧ fieldAt h 24 8 = 0 ∧
        exec (.complete lid) s = .next (putLaunch s lid { l with step := 1, grader := { l.grader with log := l.grader.log ++ [(0, h)] } }))) ∧
    (AtStep s lid l 1 → l.grader.log = [] →
      ((∀ w ∈ l.grader.logged, s.performed w (scopeLevel l.cscope) = true) →
        exec (.complete lid) s = .next (putLaunch s lid { l with step := 2 })) ∧
      (¬ (∀ w ∈ l.grader.logged, s.performed w (scopeLevel l.cscope) = true) →
        exec (.complete lid) s = .next (putLaunch s lid l))) ∧
    (AtStep s lid l 2 → l.slotsDone < 8 →
      (SLOT l.record l.slotsDone 8 = 0 ∨ l.slotResult l.slotsDone = none →
        exec (.complete lid) s = .next (putLaunch s lid { l with slotsDone := l.slotsDone + 1 })) ∧
      (∀ v w, SLOT l.record l.slotsDone 8 ≠ 0 → l.slotResult l.slotsDone = some v →
        w = [0, 4, 4, 8, 8, 4, 8].getD (SLOT l.record l.slotsDone 9 % 16) 0 →
        let x := frontX l.leaf l.vi
        let at_ := fieldAt l.record (0x178 + 16 * l.slotsDone) 8
        (s.exhausted l.leaf 5 = true → exec (.complete lid) s = .next s) ∧
        ((0, 3 * lid + 2) ∉ s.pageFails →
          (∀ pl, placed s x { w := true } at_ w pl → Clear s x { w := true } at_ w →
            Leads (exec (.complete lid) s) (enters s (putLaunch s lid { l with
                slotsDone := l.slotsDone + 1, slotWrites := l.slotWrites ++ [s.nextId] })
              lid w pl (fun i => BitVec.ofNat 8 (v / 256 ^ i)))) ∧
          (∀ i e, i < w → s.exhausted l.leaf 5 = false → Clear s x { w := true } at_ i →
            (∀ j, j < i → ∃ r, s.translate x { w := true } (at_ + j) = .ok r) →
            s.translate x { w := true } (at_ + i) = .error e → (∀ st pg, e ≠ .page st pg) →
            Leads (exec (.complete lid) s) (putLaunch s lid { l with
              slotsDone := l.slotsDone + 1, error := if l.error = 0 then 0x306 else l.error, flags := l.flags ||| 1 }))))) ∧
    (AtStep s lid l 2 → 8 ≤ l.slotsDone →
      let ended : Prop := ∀ w ∈ l.slotWrites, s.performed w (scopeLevel l.cscope) = true ∧
        ∀ n, n < 8 → SLOT l.record n 8 ≠ 0 → s.performed w (scopeLevel (SLOT l.record n 11)) = true
      (ended → exec (.complete lid) s = .next (putLaunch s lid { l with step := 3 })) ∧
      (¬ ended → exec (.complete lid) s = .next s)) ∧
    (AtStep s lid l 3 → l.parent = none →
      (WritesDone s lid l → (s.launches.map (·.1)).Nodup → exec (.complete lid) s = .next (putLaunch s lid { l with step := 4 })) ∧
      (¬ WritesDone s lid l → (s.launches.map (·.1)).Nodup → exec (.complete lid) s = .next s)) ∧
    (∀ p m, AtStep s lid l 3 → l.parent = some p → p ≠ lid → s.launch p = some m →
      let ended : Prop := ∀ x ∈ s.launches, x.2.parent = some lid → x.2.phase = .completed
      (¬ ended → exec (.complete lid) s = .next s) ∧
      (ended → ∃ t, exec (.complete lid) s = .next t ∧
        t.launch lid = some { l with phase := .completed } ∧ t.launch p = some { m with
          error := if m.error = 0 then l.error else m.error,
          flags := m.flags ||| l.flags ||| (if l.error ≠ 0 then 1 else 0) }))

/-- Of the completions that its queue core found pending when it last resumed, a launch's is the first that still waits for its
signal: the one of the smallest END (R55). -/
def FirstPending (s : State) (lid : Nat) (l : Launch) : Prop :=
  l.end_ ≤ (tblGet s.mgmt.queueCores {} ((l.vi - 1) % 6)).upAt → ∀ p ∈ s.launches, p.1 ≠ lid → p.2.parent = none →
    (p.2.vi - 1) % 6 = (l.vi - 1) % 6 → p.2.phase = .completing → p.2.step ≤ 4 →
    l.end_ < p.2.end_ ∨ (l.end_ = p.2.end_ ∧ lid < p.1)

/-- The queue of a launch that completed with an error halts where its HALTERR is 1 (R46); QERR of a queue that is halted already
stays (R41; the model's reading, log entry 98). -/
def errorHalts (s : State) (l : Launch) : State :=
  let x := (s.vi l.vi).queue l.queue
  if l.error ≠ 0 ∧ x.qctl.getLsbD 9 = true then
    putQueue s l.vi l.queue { x with halt := true, qerr := if x.halt then x.qerr else 0x204 }
  else s

/-- The completion signal, the set-mask bits and the interrupt (R46, R50, R51, R54, R55). A signal at an address that is no
multiple of 32 counts as one that cannot be written, and a vector above 64 is none (the model's choices, log entry 98). -/
def CompletionEnds : Prop :=
  ∀ (s : State) (lid : Nat) (l : Launch),
    (AtStep s lid l 4 → (s.coreDown l.vi = true ∨ ¬ FirstPending s lid l ∨ s.exhausted l.leaf 5 = true) →
      exec (.complete lid) s = .next s) ∧
    (AtStep s lid l 4 → s.coreDown l.vi = false → FirstPending s lid l → s.exhausted l.leaf 5 = false →
      let u := errorHalts s l
      let x := frontX l.leaf l.vi
      (l.csig = 0 → exec (.complete lid) s = .next (putLaunch u lid { l with step := 5 })) ∧
      (∀ pl, l.csig ≠ 0 → 32 ∣ l.csig.toNat → placed s x { w := true } l.csig.toNat 32 pl →
        Clear s x { w := true } l.csig.toNat 32 →
        ∃ b, SignalBytes l b ∧ Leads (exec (.complete lid) s)
          (enters s (putLaunch u lid { l with step := 5, sigWrite := some s.nextId }) lid 32 pl (fun i => b.getD i 0))) ∧
      (l.csig ≠ 0 → (¬ 32 ∣ l.csig.toNat ∨ ∃ i, i < 32 ∧
          ∀ r, s.translate x { w := true } (l.csig.toNat + i) ≠ .ok r) →
        exec (.complete lid) s = .next (putLaunch (putVi u l.vi { u.vi l.vi with msix := (u.vi l.vi).msix ++ [64] })
          lid { l with step := 5 }))) ∧
    (AtStep s lid l 5 → (∀ w, l.sigWrite = some w → s.performed w (scopeLevel l.cscope) = true) →
      ∃ t w, exec (.complete lid) s = .next t ∧ t.launch lid = some { l with phase := .completed, step := 6 } ∧
        (∀ n, n < 256 → w.getLsbD n = ((s.vi l.vi).ev.getLsbD n || l.setMask.any (fun b => b.toNat == n))) ∧
        t.vi l.vi = { s.vi l.vi with ev := w } ∧ t.flight = s.flight ∧ t.mem = s.mem) ∧
    (AtStep s lid l 5 → ∀ w, l.sigWrite = some w → s.performed w (scopeLevel l.cscope) = false → exec (.complete lid) s = .next s) ∧
    (s.launch lid = some l → l.phase = .completed → l.parent = none → l.intr = true →
      ∀ w, l.sigWrite = some w → s.performed w 6 = false → exec (.complete lid) s = .next s) ∧
    (s.launch lid = some l → l.phase = .completed → l.parent = none → (s.launches.map (·.1)).Nodup → (s.groups.map (·.1)).Nodup →
      (l.intr = true → ∀ w, l.sigWrite = some w → s.performed w 6 = true) →
      let vec := l.vec.getD (((s.vi l.vi).queue l.queue).qctl.toNat / 2 ^ 12 % 256)
      ∃ t, exec (.complete lid) s = .next t ∧
        t.vi l.vi = (if l.intr ∧ vec ≤ 64 then { s.vi l.vi with msix := (s.vi l.vi).msix ++ [vec] } else s.vi l.vi) ∧
        (∀ x, x ∈ t.launches ↔ x ∈ s.launches ∧ ¬ Under s lid x.1) ∧
        (∀ x, x ∈ t.groups ↔ x ∈ s.groups ∧ ¬ Under s lid x.2.launch) ∧
        (∀ x, x ∈ t.pieces ↔ x ∈ s.pieces ∧ ¬ Under s lid x.2.launch) ∧ t.mem = s.mem)

end Sys2Proof.Spec

/-- Dispatch and retirement (R23, R31, R48, R69 to R74, R80 to R82, R362, R363): how a piece is laid out, how groups come to
run, with armed barriers and as TASK groups, and what a retirement frees and counts. The model's readings are what is held for a
gang that waits (DEDUCED, log entry 59), which accumulator sets a first dispatch clears (81), and that a piece retires at the
first step at which it may, TASK groups going before pieces (53); its choices are, beside those named above, what a pool too
small for its save blocks does (DESIGN CHOICE, log entry 60). -/
def Obligations.Dispatching : Prop :=
  Sys2Proof.Spec.GroupDispatch ∧ Sys2Proof.Spec.PieceLayout ∧ Sys2Proof.Spec.PlansPlaced ∧ Sys2Proof.Spec.ArmedBarriers ∧
  Sys2Proof.Spec.TasksPlaced ∧ Sys2Proof.Spec.Retires

/-- The completion of a launch, step by step (R31, R46, R50, R51, R55, R311, R369). The model's readings are when PARTIAL is set
(DEDUCED, log entry 56) and what a page fault on the signal does (58). -/
def Obligations.Completion : Prop := Sys2Proof.Spec.CompletionStarts ∧ Sys2Proof.Spec.CompletionEnds

namespace Sys2Proof.Spec

/-! ### The firmware's work on queues and leaves (R55 to R67, R338, R356, R392) -/

/-- HEARTBEAT_TIMEOUT and QUEUE_CORE_REPAIR: a queue core whose heartbeat word stands still is down; after 20 µs it is restarted, and
is down until it has repaired the blocks of its queues by the hardware's view (R55, R57). That one event stands for both parts of
the timeout is the model's choice (log entry 99). -/
def QueueCoreRestart : Prop :=
  ∀ (s : State) (qc : Nat) (c : QueueCore), tblFind s.mgmt.queueCores qc = some c →
    let core (c : QueueCore) : State := { s with mgmt := { s.mgmt with queueCores := tblSet s.mgmt.queueCores qc c } }
    (qc < 6 → c.down = false →
      exec (.heartbeatTimeout qc) s = .next (core { c with down := true, stoppedAt := s.time, restartAt := none })) ∧
    (qc < 6 → c.down = true → c.restartAt = none → c.stoppedAt + 20000 ≤ s.time →
      exec (.heartbeatTimeout qc) s = .next (core { c with restartAt := some s.time })) ∧
    (qc < 6 → c.down = true → c.restartAt ≠ none ∨ s.time < c.stoppedAt + 20000 → exec (.heartbeatTimeout qc) s = .next s) ∧
    (c.down = false ∨ c.restartAt = none → exec (.queueCoreRepair qc) s = .next s) ∧
    (c.down = true → c.restartAt ≠ none → (tblKeys s.vis).Nodup → (∀ p ∈ s.vis, (tblKeys p.2.queues).Nodup) →
      ∃ t, exec (.queueCoreRepair qc) s = .next t ∧
        t.mgmt = (core { c with down := false, restartAt := none, upAt := s.time }).mgmt ∧
        { t with vis := s.vis, mgmt := s.mgmt } = s ∧
        ∀ v w q x, tblFind s.vis v = some w → tblFind w.queues q = some x → { t.vi v with queues := w.queues } = w ∧
          (t.vi v).queue q = if (v - 1) % 6 = qc then
            let b := if x.block.gen.getLsbD 0 then x.shadow else x.block
            { x with block := { b with head := x.qhead, released := x.relcnt, inflight := unfinished s v q, gen := b.gen + 2 } }
          else x)

/-- A request to the host, with the next tag, awaits its reply; where the assist ring has room, its record goes there, with
the ring's vector (R66, R392). -/
structure Asked (s t : State) (leaf fn : Nat) (data : List Nat) : Prop where
  asks : t.mgmt.asks = s.mgmt.asks ++ [{ tag := s.mgmt.nextAsk, leaf := leaf, fn := fn, data := data, posted := s.time }]
  tag : t.mgmt.nextAsk = s.mgmt.nextAsk + 1
  rest : { t with mem := s.mem, mgmt := s.mgmt, groups := s.groups } = s
  mgmt : { t.mgmt with asks := s.mgmt.asks, nextAsk := s.mgmt.nextAsk, assist := s.mgmt.assist, msix := s.mgmt.msix } = s.mgmt
  full : ringTakes s.mgmt.assist = false → t.mem = s.mem ∧ t.groups = s.groups ∧ t.mgmt.assist = s.mgmt.assist ∧ t.mgmt.msix = s.mgmt.msix
  room : ringTakes s.mgmt.assist = true →
    t.mgmt.assist = { s.mgmt.assist with tail := s.mgmt.assist.tail + 1 } ∧
    t.mgmt.msix = s.mgmt.msix ++ [s.mgmt.assist.ctl.toNat / 2 ^ 12 % 256] ∧
    t.groups = watched s (watches (ringAt s.mgmt.assist) 64) ∧
    ∃ b, t.mem = memPut s.mem (ringAt s.mgmt.assist) b ∧ b.length = 64 ∧
      fieldAt b 0 4 = s.mgmt.nextAsk.toNat ∧ (fn < 256 → (b.getD 4 0).toNat = fn) ∧ (leaf < 256 → (b.getD 5 0).toNat = leaf / 16) ∧
      (b.getD 6 0).toNat = (if leaf % 16 < 8 then 0xFF else leaf % 8) ∧ b.getD 7 0 = 0 ∧
      ∀ i, i < 56 → b.getD (8 + i) 0 = Config.assistByte fn data i

/-- QUEUE_WATCHDOG_EXPIRY: at a time after the deadline of a queue whose tenant is resident, the leaf's drain begins, or the
host is asked about it; an expiry during a drain only joins it (R59, R60, R66). The drain ends within 1 ms of the expiry, or of
the policy core's return (R60, R67, R361). -/
def WatchdogExpiry : Prop :=
  ∀ (s : State) (vi q leaf : Nat), isVi vi → q < 64 → s.leafOf vi = some leaf →
    let x := (s.vi vi).queue q
    let due := x.wddead ≠ 0 ∧ x.wddead.toNat < s.time ∧ s.residentVi vi = true ∧ s.mgmt.policyBack ≤ s.time
    (¬ due → exec (.queueWatchdogExpiry vi q) s = .next s) ∧
    (due →
      let p := s.part leaf
      let s1 := putQueue s vi q { x with wddead := 0 }
      let s2 (d e : Nat) := { s1 with parts := tblSet s.parts leaf { p with
        expired := p.expired ++ [vi * 64 + q], drain := d, drainBy := e } }
      (p.drain ≠ 0 → exec (.queueWatchdogExpiry vi q) s = .next (s2 p.drain p.drainBy)) ∧
      (p.drain = 0 → p.modes.getLsbD 3 = false →
        exec (.queueWatchdogExpiry vi q) s = .next (s2 2 (max x.wddead.toNat s.mgmt.policyBack + 1000000))) ∧
      (p.drain = 0 → p.modes.getLsbD 3 = true → ∃ t, exec (.queueWatchdogExpiry vi q) s = .next t ∧
        Asked (s2 1 p.drainBy) t leaf 3 [vi, q]))

/-- A launch or a descendant of one of some launches. -/
inductive UnderAny (s : State) (ls : List Nat) : Nat → Prop where
  | self (lid : Nat) : lid ∈ ls → UnderAny s ls lid
  | child (c p : Nat) (l : Launch) : s.launch c = some l → l.parent = some p → UnderAny s ls p → UnderAny s ls c

/-- LEAF_DRAIN: the leaf's incomplete launches go to their completion signals with WATCHDOG or ABORTED, ERR and PARTIAL, with
nothing left of their work; its translations, page requests and engine contents are gone; other leaves keep everything; and when
those launches have completed, its queues are halted with QERR_WATCHDOG and keep what they hold (R60). -/
def LeafDrains : Prop :=
  ∀ (s : State) (leaf : Nat),
    let p := s.part leaf
    let roots := (s.launches.filter (fun x => x.2.leaf == leaf && x.2.parent.isNone && x.2.phase != .completing &&
      x.2.phase != .completed)).map (·.1)
    (p.drain < 2 ∨ 3 < p.drain → exec (.leafDrain leaf) s = .next s) ∧
    (p.drain = 2 → (s.launches.map (·.1)).Nodup → (s.groups.map (·.1)).Nodup → ∃ t, exec (.leafDrain leaf) s = .next t ∧
      t.part leaf = { p with drain := 3, aborted := roots, away := [] } ∧
      (∀ k, k ≠ leaf → t.part k = s.part k) ∧
      (∀ lid l, lid ∈ roots → s.launch lid = some l → ∃ l', t.launch lid = some l' ∧ l'.phase = .completing ∧ l'.step = 4 ∧
        l'.error = (if l.error ≠ 0 then l.error else if l.vi * 64 + l.queue ∈ p.expired then 0x301 else 0x305) ∧
        l'.flags = l.flags ||| 3 ∧ l'.counter = 0 ∧ l'.end_ = s.time ∧ l'.setMask = l.setMask ∧ l'.csig = l.csig) ∧
      (∀ lid, UnderAny s roots lid → lid ∉ roots → t.launch lid = none) ∧
      (∀ lid l, s.launch lid = some l → ¬ UnderAny s roots lid → t.launch lid = some l) ∧
      (∀ x, x ∈ t.groups ↔ x ∈ s.groups ∧ ¬ UnderAny s roots x.2.launch) ∧
      (∀ x, x ∈ t.pieces ↔ x ∈ s.pieces ∧ ¬ UnderAny s roots x.2.launch) ∧
      (∀ e, e ∈ t.tlb ↔ e ∈ s.tlb ∧ e.leaf ≠ leaf) ∧
      (∀ c, s.core c ≠ {} → if p.clusters.getLsbD (c / 4) then (t.core c).sets = [] ∧ (t.core c).regions = [] ∧ (t.core c).wbuf = []
        else (t.core c).wbuf = (s.core c).wbuf) ∧
      (∀ v q, ((t.vi v).queue q).halt = ((s.vi v).queue q).halt ∧ ((t.vi v).queue q).qerr = ((s.vi v).queue q).qerr ∧
        ((t.vi v).queue q).held = ((s.vi v).queue q).held) ∧
      (∀ v, (t.vi v).ev = (s.vi v).ev) ∧ t.mem = s.mem) ∧
    (p.drain = 3 → (∃ lid ∈ p.aborted, s.launch lid ≠ none) → exec (.leafDrain leaf) s = .next s) ∧
    (p.drain = 3 → (∀ lid ∈ p.aborted, s.launch lid = none) → p.vis.Nodup → ∃ t, exec (.leafDrain leaf) s = .next t ∧
      t.part leaf = { p with drain := 0, aborted := [], expired := [], allow := none } ∧ (∀ k, k ≠ leaf → t.part k = s.part k) ∧
      (∀ v q, v ∈ p.vis → q < 64 → (t.vi v).queue q = { (s.vi v).queue q with halt := true, qerr := 0x205 }) ∧
      (∀ v, v ∉ p.vis → t.vi v = s.vi v) ∧ { t with vis := s.vis, parts := s.parts } = s)

/-- POLICY_CORE_RESTART and BUDGET_PERIOD_START (R62, R67): the counts start again, and the packets that waited leave in their
order as far as the budgets allow. How long the policy core is away is a free value (log entry 70). -/
def PolicyCore : Prop :=
  ∀ (s : State),
    (∀ rs, rs = s.mgmt.restarts.filter (fun n => decide (s.time < n + 10000000000)) ++ [s.time] →
      exec .policyCoreRestart s = .next { s with
        drawn := s.drawn + 1
        mgmt := { s.mgmt with
          restarts := rs
          policyBack := s.time + Config.policyAway s.drawn
          recovery := decide (3 ≤ rs.length) || s.mgmt.recovery
          ready := !decide (3 ≤ rs.length) && s.mgmt.ready } }) ∧
    (s.time / 100000 = s.mgmt.period ∨ s.time < s.mgmt.policyBack → exec .budgetPeriodStart s = .next s) ∧
    (s.time / 100000 ≠ s.mgmt.period → s.mgmt.policyBack ≤ s.time → ∃ t, exec .budgetPeriodStart s = .next t ∧
      t.mgmt = { s.mgmt with period := s.time / 100000 } ∧ (∀ k, { t.part k with used := [] } = { s.part k with used := [] }) ∧
      { t with parts := s.parts, mgmt := s.mgmt, outbox := s.outbox, barOut := s.barOut, phaseOut := s.phaseOut, outwait := s.outwait } = s ∧
      (s.outwait = [] → t.outbox = s.outbox ∧ t.barOut = s.barOut ∧ t.phaseOut = s.phaseOut ∧ t.outwait = [] ∧ ∀ k, (t.part k).used = []) ∧
      (∀ k, ∃ gone, s.outwait.filter (fun w => w.1 == k) = gone ++ t.outwait.filter (fun w => w.1 == k)) ∧
      ((∀ w ∈ s.outwait, s.limited w.1 2 = false) → t.outwait = [] ∧
        t.outbox = s.outbox ++ s.outwait.filterMap (fun w => match w.2 with
          | .packet p => some p
          | _ => none) ∧
        t.barOut = s.barOut ++ s.outwait.filterMap (fun w => match w.2 with
          | .change p => some p
          | _ => none) ∧
        t.phaseOut = s.phaseOut ++ s.outwait.filterMap (fun w => match w.2 with
          | .phase p => some p
          | _ => none)))

/-- An interface has released work that is not complete, an entry that can be released, or one to consume (R65). -/
def hasWork (s : State) (v : Nat) : Prop :=
  (∃ p ∈ s.launches, p.2.vi = v ∧ p.2.phase ≠ .completed) ∨
  ∃ p ∈ (s.vi v).queues, p.2.qctl.getLsbD 8 = true ∧ p.2.halt = false ∧ match p.2.held with
    | some e => Releasable s v p.1 e
    | none => p.2.qhead ≠ p.2.qtail

/-- The queues of some interfaces hold entries that were consumed (R44). -/
def HeldOk (s : State) (vis : List Nat) : Prop :=
  ∀ v ∈ vis, (tblKeys (s.vi v).queues).Nodup ∧ ∀ p ∈ (s.vi v).queues, ∀ e, p.2.held = some e → e.length = 64 ∧ EntryValid e

/-- The tenant whose slice comes next: the lowest interface with work above the last one, or else the lowest with work. -/
def nextSlice (s : State) (vis : List Nat) (last w : Nat) : Prop :=
  w ∈ vis ∧ hasWork s w ∧ ∀ x ∈ vis, hasWork s x → if last < w then last < x → w ≤ x else w ≤ x ∧ x ≤ last

/-- The watchdogs of an interface stand still with what is left of their time, at least 1 ns, or run on (R59). -/
def dogStopped (now : Nat) (x : Queue) : Queue :=
  if x.wddead = 0 then x else { x with wdrem := BitVec.ofNat 64 (max 1 (x.wddead.toNat - now)), wddead := 0 }
def dogStarted (now : Nat) (x : Queue) : Queue :=
  if x.wdrem = 0 then x else { x with wddead := BitVec.ofNat 64 (now + x.wdrem.toNat), wdrem := 0 }

/-- TENANT_SWITCH (R59, R65, R356): the slice of a tenant ends when its time is over and another has work; when every group of
the leaf is off its core, what the leaf's stores hold is kept for it, and the next tenant with work begins its slice with what
was kept for it. -/
def TenantSwitches : Prop :=
  ∀ (s : State) (leaf : Nat), let p := s.part leaf
    ((p.vis.length ≤ 1 ∨ s.leafStopped leaf = true) → exec (.tenantSwitch leaf) s = .next s) ∧
    (2 ≤ p.vis.length → s.leafStopped leaf = false → HeldOk s p.vis →
      (∀ v, p.tenant = some v → (s.time < p.since + p.slice * 100000 ∨ ∀ w ∈ p.vis, w ≠ v → ¬ hasWork s w) →
        exec (.tenantSwitch leaf) s = .next s) ∧
      (∀ v, p.tenant = some v → p.since + p.slice * 100000 ≤ s.time → (∃ w ∈ p.vis, w ≠ v ∧ hasWork s w) →
        (tblKeys (s.vi v).queues).Nodup →
        ∃ t, exec (.tenantSwitch leaf) s = .next t ∧ t.part leaf = { p with tenant := none, leaving := some v } ∧
          (∀ q x, tblFind (s.vi v).queues q = some x → (t.vi v).queue q = dogStopped s.time x) ∧
          { t with parts := s.parts, vis := s.vis } = s) ∧
      (∀ v, p.tenant = none → p.leaving = some v → s.leafQuiet leaf = false → exec (.tenantSwitch leaf) s = .next s) ∧
      (∀ v w, p.tenant = none → p.leaving = some v → s.leafQuiet leaf = true → nextSlice s p.vis v w → w ≠ v →
        tblFind p.away w = none → (tblKeys (s.vi w).queues).Nodup →
        ∃ t u, exec (.tenantSwitch leaf) s = .next t ∧
          t.part leaf = { p with tenant := some w, since := s.time, leaving := none, away := tblSet p.away v u } ∧
          u.tiles = s.tiles.filter (fun x => x.2.leaf == leaf) ∧ u.barriers = s.barriers.filter (fun x => x.2.leaf == leaf) ∧
          u.runs = s.runs.filter (fun x => x.2.leaf == leaf) ∧ u.cores = s.cores.filter (fun x => p.clusters.getLsbD (x.1 / 4)) ∧
          t.tiles = s.tiles.filter (fun x => x.2.leaf != leaf) ∧ t.barriers = s.barriers.filter (fun x => x.2.leaf != leaf) ∧
          t.runs = s.runs.filter (fun x => x.2.leaf != leaf) ∧ t.cores = s.cores.filter (fun x => !p.clusters.getLsbD (x.1 / 4)) ∧
          (∀ q x, tblFind (s.vi w).queues q = some x → (t.vi w).queue q = dogStarted s.time x) ∧ t.groups = s.groups) ∧
      (∀ w, p.tenant = none → p.leaving = none → nextSlice s p.vis 0 w → (tblKeys (s.vi w).queues).Nodup →
        ∃ t, exec (.tenantSwitch leaf) s = .next t ∧ (t.part leaf).tenant = some w ∧ (t.part leaf).since = s.time ∧
          (∀ q x, tblFind (s.vi w).queues q = some x → (t.vi w).queue q = dogStarted s.time x) ∧ t.groups = s.groups ∧
          (∀ u, tblFind p.away w = some u → (tblKeys u.tiles).Nodup → (tblKeys u.cores).Nodup → tblFind (t.part leaf).away w = none ∧
            (∀ h x, tblFind u.tiles h = some x → tblFind t.tiles h = some x) ∧
            (∀ c x, tblFind u.cores c = some x → t.core c = x)) ∧
          (tblFind p.away w = none → t.tiles = s.tiles ∧ t.cores = s.cores)))

/-- The error count of timed-out assist requests rises by one, and stays at its end (R66, R347). -/
def lateCounted (p : Part) : Part :=
  let n := tblGet p.errs 0 5
  { p with errs := tblPut p.errs 0 5 (if n = BitVec.allOnes 64 then n else n + 1) }

/-- A write to ARTAG, and a request whose timeout is over (R66, R392). That the answer "no change" to a first-cut request leaves
PREF and ORDER is the model's choice (R68; log entry 98); a cut outside the bounds counts as a timeout. -/
def AssistReplies : Prop :=
  (∀ (s : State) (val : BitVec 64),
    let s1 := { s with mgmt := { s.mgmt with artag := val &&& 0xFFFFFFFFF } }
    let act := (val.extractLsb' 32 4).toNat
    ((∀ a ∈ s.mgmt.asks, a.tag ≠ val.setWidth 32) → exec (.assistReply val) s = .next s1) ∧
    ((∀ a ∈ s.mgmt.asks, a.tag = val.setWidth 32 → if a.fn = 0 then act ≠ 0 else if a.fn = 2 then act / 2 % 2 = 1 else 1 < act) →
      exec (.assistReply val) s = .next s1) ∧
    (∀ (a : Assist) (xs ys : List Assist), s.mgmt.asks = xs ++ a :: ys → a.tag = val.setWidth 32 → (∀ b ∈ xs ++ ys, b.tag ≠ a.tag) →
      let s2 := { s1 with mgmt := { s1.mgmt with asks := xs ++ ys } }
      let p := s.part a.leaf
      (a.fn = 0 → act = 0 → ∃ n, exec (.assistReply val) s = .next { s2 with parts := tblSet s.parts a.leaf { p with allow := some n } } ∧
        let v := s.mgmt.ardata.toNat / 2 ^ 16 % 2048
        let q := s.mgmt.ardata.toNat % 64
        (v ∈ p.vis → ((s.vi v).queue q).held ≠ none → n = v * 64 + q + 1) ∧ ((v ∉ p.vis ∨ ((s.vi v).queue q).held = none) → n = 0)) ∧
      (a.fn = 1 → act ≤ 1 → exec (.assistReply val) s = .next (s2.answerPage (a.data.getD 0 0) (act == 1))) ∧
      (a.fn = 3 → act = 0 → p.drain < 2 →
        exec (.assistReply val) s = .next { s2 with parts := tblSet s.parts a.leaf { p with drain := 2, drainBy := s.time + 1000000 } }) ∧
      (a.fn = 3 → act = 1 → ∃ t, exec (.assistReply val) s = .next t ∧ t.part a.leaf = { p with drain := 0, expired := [] } ∧
        t.launches = s.launches ∧ t.groups = s.groups ∧ t.mgmt = s2.mgmt) ∧
      (∀ m, a.fn = 4 → act = 0 → tblFind s.migrations a.leaf = some m →
        exec (.assistReply val) s = .next { s2 with migrations := tblSet s.migrations a.leaf { m with approved := true } }) ∧
      (a.fn = 4 → act = 1 → exec (.assistReply val) s = .next { s2 with migrations := tblErase s.migrations a.leaf }) ∧
      (a.fn = 5 → act = 0 → exec (.assistReply val) s = .next s2) ∧
      (a.fn = 5 → act = 1 → p.drain < 2 →
        exec (.assistReply val) s = .next { s2 with parts := tblSet s.parts a.leaf { p with drain := 2, drainBy := s.time + 1000000 } }) ∧
      (∀ l k x, a.fn = 2 → act / 2 % 2 = 0 → a.data.getD 0 0 = l → a.data.getD 1 0 = k + 1 → s.launch l = some x →
        (k + 1) ∈ x.grader.awaited → x.grader.cuts.length = x.grader.sources.length →
        ∃ t x', exec (.assistReply val) s = .next t ∧ t.launch l = some x' ∧
          x'.grader.awaited = x.grader.awaited.filter (fun j => j ≠ k + 1) ∧
          let c : Cut := { shape := (List.range 4).map (fun d => s.mgmt.ardata.toNat / 2 ^ (16 * d) % 65536), order := act / 4 }
          let kept := x'.grader.cuts = x.grader.cuts ∧ x'.grader.sources = x.grader.sources
          (act % 2 = 1 → kept ∧ t.parts = s.parts) ∧
          (act % 2 = 0 → x.cutFits (k + 1) c = true → x'.grader.cuts = x.grader.cuts.set k c ∧
            x'.grader.sources = x.grader.sources.set k true ∧ t.parts = s.parts) ∧
          (act % 2 = 0 → x.cutFits (k + 1) c = false → kept ∧ t.part x.leaf = lateCounted (s.part x.leaf))))) ∧
  (∀ (s : State) (tag : BitVec 32) (a : Assist) (xs ys : List Assist), s.mgmt.asks = xs ++ a :: ys → a.tag = tag →
    (∀ b ∈ xs ++ ys, b.tag ≠ tag) →
    (s.time < a.posted + (s.part a.leaf).assistMs * 1000000 → exec (.assistTimeout tag.toNat) s = .next s) ∧
    (a.posted + (s.part a.leaf).assistMs * 1000000 ≤ s.time →
      let p := lateCounted (s.part a.leaf)
      let s1 := { s with mgmt := { s.mgmt with asks := xs ++ ys }, parts := tblSet s.parts a.leaf p }
      (a.fn = 0 → exec (.assistTimeout tag.toNat) s = .next { s1 with parts := tblSet s.parts a.leaf { p with allow := some 0 } }) ∧
      (a.fn = 1 → (tblFind s.pageReqs (a.data.getD 0 0)).isSome → ∃ t, exec (.assistTimeout tag.toNat) s = .next t ∧
        Asked s1 t a.leaf 1 a.data) ∧
      (∀ l k x, a.fn = 2 → a.data.getD 0 0 = l → a.data.getD 1 0 = k → s.launch l = some x → k ∈ x.grader.awaited →
        ∃ t x', exec (.assistTimeout tag.toNat) s = .next t ∧ t.launch l = some x' ∧ t.parts = s1.parts ∧
          x'.grader.awaited = x.grader.awaited.filter (fun j => j ≠ k) ∧ x'.grader.cuts = x.grader.cuts ∧
          x'.grader.sources = x.grader.sources) ∧
      (a.fn = 3 → p.drain < 2 →
        exec (.assistTimeout tag.toNat) s = .next { s1 with parts := tblSet s.parts a.leaf { p with drain := 2, drainBy := s.time + 1000000 } }) ∧
      (∀ m, a.fn = 4 → tblFind s.migrations a.leaf = some m →
        exec (.assistTimeout tag.toNat) s = .next { s1 with migrations := tblSet s.migrations a.leaf { m with approved := true } }) ∧
      (a.fn = 5 → exec (.assistTimeout tag.toNat) s = .next s1)))

/-- STAGE2_PAGE_SERVICE (R66, R338): a stage-2 request is answered once the leaf's tables let its access succeed; where the
host resolves it, the host is asked once. -/
def PageService : Prop :=
  ∀ (s : State) (rid : Nat) (r : PageReq), tblFind s.pageReqs rid = some r →
    (r.stage ≠ 2 → exec (.stage2PageService rid) s = .next s) ∧
    (r.stage = 2 → (s.part r.leaf).modes.getLsbD 1 = false →
      let x := s.stage2 (frontX r.leaf r.vi) { r := r.acc.getLsbD 0, w := r.acc.getLsbD 1, x := r.acc.getLsbD 2 } (r.page * 4096)
      (∀ e, x = .error e → exec (.stage2PageService rid) s = .next s) ∧
      (∀ y, x = .ok y → exec (.stage2PageService rid) s = .next (s.answerPage rid false))) ∧
    (r.stage = 2 → (s.part r.leaf).modes.getLsbD 1 = true →
      ((∃ a ∈ s.mgmt.asks, a.leaf = r.leaf ∧ a.fn = 1 ∧ a.data.getD 0 0 = rid) → exec (.stage2PageService rid) s = .next s) ∧
      ((∀ a ∈ s.mgmt.asks, ¬ (a.leaf = r.leaf ∧ a.fn = 1 ∧ a.data.getD 0 0 = rid)) →
        ∃ t, exec (.stage2PageService rid) s = .next t ∧ Asked s t r.leaf 1 [rid, r.page * 4096, r.acc.toNat, r.vi]))

end Sys2Proof.Spec

/-- The firmware's work (R55 to R67, R338, R356, R392): queue cores that restart, watchdogs and drains, the policy core's
restarts and budget periods, tenants that take turns, requests to the host, the service of stage-2 pages. The model's readings
are how a block is brought up to date (DEDUCED, log entry 50), when the host is asked (51), tags and a full assist ring (52),
the instant of a watchdog (53), what a tenant takes along and what counts as work (67), completing launches and queues in a
drain (68), what an answer to function 3 does to the watchdog (69), READY in recovery and the start of a period (70) and replies
with an unlisted ACT (71); how long the policy core is away and the data of an assist request are free values (DESIGN CHOICE,
log entries 70 and 13). -/
def Obligations.FirmwareWork : Prop :=
  Sys2Proof.Spec.QueueCoreRestart ∧ Sys2Proof.Spec.WatchdogExpiry ∧ Sys2Proof.Spec.LeafDrains ∧ Sys2Proof.Spec.PolicyCore ∧
  Sys2Proof.Spec.TenantSwitches ∧ Sys2Proof.Spec.AssistReplies ∧ Sys2Proof.Spec.PageService

namespace Sys2Proof.Spec

/-! ### The management function's commands (R357, R385 to R391) -/

/-- A field of a command block, and bytes of it that are zero (R390). -/
def arg (c : Command) (off n : Nat) : Nat := fieldAt c.block off n
def reservedZero (c : Command) (lo hi : Nat) : Prop := zero c.block lo hi

/-- The command whose turn it is, with its block within the host's addresses; the next one, if any, has a CODE of R389. -/
structure Turn1 (s : State) (c : Command) (r : List Command) (code : Nat) : Prop where
  queue : s.mgmt.commands = c :: r
  code : fieldAt c.block 0 4 = code
  len : c.block.length = 64
  host : hostBase + c.addr + 64 ≤ 2 ^ 48
  next : ∀ d, r.head? = some d → 1 ≤ fieldAt d.block 0 4 ∧ fieldAt d.block 0 4 ≤ 9

/-- Bytes that the management function writes at an address of the host: they touch the monitors of their lines (R277, R301). -/
def hostWritten (s : State) (a : Nat) (bs : List Byte) : State :=
  { s with mem := memPut s.mem (hostBase + a) bs, groups := watched s (watches (hostBase + a) bs.length) }

/-- STATUS is written to the block, then MDONE, and the next command has its turn (R389). -/
def statusPut (t : State) (c : Command) (r : List Command) (status : Nat) : State :=
  { hostWritten t (c.addr + 8) [BitVec.ofNat 8 status, 0, 0, 0] with mgmt := { t.mgmt with mdone := c.seq, commands := r } }

/-- The partition that a top-level number and a child byte name (R390), by its number (R336). -/
def partNamed (top child key : Nat) : Prop :=
  top < 16 ∧ ((child = 0xFF ∧ key = top * 16) ∨ (child < 8 ∧ key = top * 16 + 8 + child))

/-- A configured partition without children; one that holds a launch that is not complete (R61). -/
def isLeafPart (s : State) (key : Nat) : Prop :=
  (s.part key).configured = true ∧ (key % 16 = 0 → ∀ c, c < 8 → (s.part (key + 8 + c)).configured = false)
def busyPart (s : State) (key : Nat) : Prop :=
  ∃ x ∈ s.launches, x.2.phase ≠ .completed ∧ (x.2.leaf = key ∨ (key % 16 = 0 ∧ x.2.leaf / 16 * 16 = key))

/-- PLIMIT_SET, FREQ_TARGET and ROLLBACK_ADVANCE (R383, R386, R390). -/
def LimitCommands : Prop :=
  ∀ (s : State) (c : Command) (r : List Command),
    (Turn1 s c r 3 →
      (reservedZero c 14 64 ∧ 800 ≤ arg c 12 2 ∧ arg c 12 2 ≤ 2000 →
        exec .plimitSet s = .next (statusPut { s with mgmt := { s.mgmt with plimit := arg c 12 2 } } c r 0)) ∧
      (¬ (reservedZero c 14 64 ∧ 800 ≤ arg c 12 2 ∧ arg c 12 2 ≤ 2000) → exec .plimitSet s = .next (statusPut s c r 2))) ∧
    (Turn1 s c r 4 →
      let good := arg c 12 1 < 8 ∧ reservedZero c 13 14 ∧ reservedZero c 16 64 ∧ 600 ≤ arg c 14 2 ∧ arg c 14 2 ≤ 2000 ∧ 100 ∣ arg c 14 2
      (good → exec .freqTarget s = .next (statusPut { s with
        dies := tblSet s.dies (arg c 12 1) { s.die (arg c 12 1) with target := arg c 14 2 } } c r 0)) ∧
      (¬ good → exec .freqTarget s = .next (statusPut s c r 2))) ∧
    (Turn1 s c r 9 →
      (reservedZero c 12 64 → exec .rollbackAdvance s = .next (statusPut { s with mgmt := { s.mgmt with
        rollback := if s.mgmt.rollback.toNat ≤ s.mgmt.version.toNat then s.mgmt.version else s.mgmt.rollback } } c r 0)) ∧
      (¬ reservedZero c 12 64 → exec .rollbackAdvance s = .next (statusPut s c r 2)))

/-- WINDOW_SET (R315, R390). -/
def WindowCommand : Prop :=
  ∀ (s : State) (c : Command) (r : List Command), Turn1 s c r 2 →
    let user (i : Nat) : Nat := arg c (32 + 4 * i) 4
    let good (key : Nat) := partNamed (arg c 12 1) (arg c 13 1) key ∧ isLeafPart s key ∧ arg c 14 1 < 16 ∧ arg c 15 1 < 4 ∧
      4096 ∣ arg c 16 8 ∧ 4096 ∣ arg c 24 8 ∧ ∀ i, i < 8 → (user i).testBit 30 = false ∧ user i / 2 ^ 8 % 256 = 0
    (∀ key, good key → exec .windowSet s = .next (statusPut { s with parts := tblSet s.parts key { s.part key with
      windows := tblSet (s.part key).windows (arg c 14 1) { read := (arg c 15 1).testBit 0
                                                            write := (arg c 15 1).testBit 1
                                                            base := arg c 16 8
                                                            len := arg c 24 8
                                                            users := (((List.range 8).map user).filter (fun u => u.testBit 31)).map (BitVec.ofNat 32) } } } c r 0)) ∧
    ((∀ key, ¬ good key) → exec .windowSet s = .next (statusPut s c r 2))

/-- The memory sizes of a leaf (R357): channels of its top-level partition, of 6 GiB each, and its image pool. -/
def sizesOf (s : State) (key : Nat) : List Nat :=
  [((List.range 256).countP (fun i => (s.part (key / 16 * 16)).channels.getLsbD i)) * 0x180000000, (s.part key).poolSize]

/-- What a ticket says fits the target: the leaf that it names, with the same clusters and memory sizes, within 10 s (R357). -/
def fits (s : State) (key : Nat) (x : TicketFacts) : Prop :=
  x.dstPkg = s.dpkg ∧ x.dstLeaf = key ∧ x.clusters = (s.part key).clusters.toNat ∧ x.sizes = sizesOf s key ∧
    s.time < x.made + 10 * 10 ^ 9

/-- TICKET_MAKE, TICKET_TAKE and TICKET_EXPIRY (R357, R390). How a ticket is written down is a free value (log entry 13). -/
def TicketCommands : Prop :=
  (∀ (s : State) (c : Command) (r : List Command), Turn1 s c r 5 →
    let a := arg c 16 8
    let good (key target : Nat) := partNamed (arg c 12 1) (arg c 13 1) key ∧ partNamed (arg c 26 1) (arg c 27 1) target ∧
      isLeafPart s key ∧ reservedZero c 14 16 ∧ reservedZero c 28 64 ∧ 64 ∣ a ∧ arg c 24 2 < 2 ^ 14
    (∀ key target, good key target → tblFind s.migrations key ≠ none → exec .ticketMake s = .next (statusPut s c r 1)) ∧
    (∀ key target, good key target → tblFind s.migrations key = none → hostBase + a + 128 ≤ 2 ^ 48 →
      let x : TicketFacts := { srcPkg := s.dpkg
                               srcLeaf := key
                               dstPkg := arg c 24 2
                               dstLeaf := target
                               clusters := (s.part key).clusters.toNat
                               sizes := sizesOf s key
                               made := s.time }
      exec .ticketMake s = .next (statusPut (hostWritten { s with
        nextId := s.nextId + 1
        mgmt := { s.mgmt with tickets := tblSet s.mgmt.tickets s.nextId ⟨key, arg c 24 2, target, s.time, false⟩ } }
        a ((List.range 128).map (Config.ticketBytes x s.nextId))) c r 0)) ∧
    ((∀ key target, ¬ good key target) → exec .ticketMake s = .next (statusPut s c r 2))) ∧
  (∀ (s : State) (c : Command) (r : List Command), Turn1 s c r 6 →
    let a := arg c 16 8
    let good (key : Nat) := partNamed (arg c 12 1) (arg c 13 1) key ∧ isLeafPart s key ∧ reservedZero c 14 16 ∧
      reservedZero c 24 64 ∧ 64 ∣ a ∧ hostBase + a + 128 ≤ 2 ^ 48
    ((∀ key, ¬ good key) → exec .ticketTake s = .next (statusPut s c r 2)) ∧
    (∀ key b, good key → b.length = 128 → (∀ i, i < 128 → b.getD i 0 = tblGet s.mem 0 (hostBase + a + i)) →
      (busyPart s key ∨ leNat b ∈ s.mgmt.taken ∨ ¬ fits s key (Config.ticketRead b) →
        exec .ticketTake s = .next (statusPut s c r 1)) ∧
      (¬ busyPart s key → leNat b ∉ s.mgmt.taken → fits s key (Config.ticketRead b) →
        exec .ticketTake s = .next (statusPut { s with mgmt := { s.mgmt with
          taken := s.mgmt.taken ++ [leNat b]
          incoming := tblErase s.mgmt.incoming key
          expected := tblSet s.mgmt.expected key ((Config.ticketRead b).srcPkg, (Config.ticketRead b).srcLeaf) } } c r 0)))) ∧
  (∀ (s : State) (n : Nat) (k : Ticket), tblFind s.mgmt.tickets n = some k →
    (s.time < k.made + 10 * 10 ^ 9 → exec (.ticketExpiry n) s = .next s) ∧
    (k.made + 10 * 10 ^ 9 ≤ s.time → exec (.ticketExpiry n) s = .next { s with
      mgmt := { s.mgmt with tickets := tblErase s.mgmt.tickets n } }))

/-- ATTEST (R387, R390): the report with its signature by the identity key, the length of the certificate, and the certificate. The
key, the certificate, the digest while no image runs and how the configuration is written down are free values (log entry 13). -/
def AttestCommand : Prop :=
  ∀ (s : State) (c : Command) (r : List Command), Turn1 s c r 7 →
    let a := arg c 44 8
    (¬ (reservedZero c 52 64 ∧ 64 ∣ a) → exec .attest s = .next (statusPut s c r 2)) ∧
    (reservedZero c 52 64 → 64 ∣ a → hostBase + a + 4352 ≤ 2 ^ 48 →
      let digest := if s.mgmt.digest = [] then (List.range 32).map Config.romDigest else s.mgmt.digest
      digest.length = 32 →
      ∃ rep cert : List Byte, rep.length = 128 ∧ rep.take 32 = (c.block.drop 12).take 32 ∧
        (rep.drop 32).take 32 = digest ∧ fieldAt rep 64 4 = s.mgmt.version.toNat ∧ fieldAt rep 68 4 = s.mgmt.rollback.toNat ∧
        (rep.drop 72).take 32 = sha256 (Config.configBytes s.mgmt.configs) ∧ zero rep 104 128 ∧
        cert = Config.deviceCertificate.take 4096 ∧
        let sig := ecdsaSign Config.identityKey (Config.signNonce (sha256 rep)) (sha256 rep)
        exec .attest s = .next (statusPut (hostWritten (hostWritten (hostWritten s a (rep ++ beBytes 32 sig.1 ++ beBytes 32 sig.2))
          (a + 192) (leBytes 4 cert.length)) (a + 256) cert) c r 0))

/-- An image verifies (R385). -/
structure ImageOk (m : Mgmt) (img : List Byte) : Prop where
  magic : fieldAt img 0 4 = 0x44534C50
  length : 4096 ≤ fieldAt img 8 4 ∧ fieldAt img 8 4 ≤ 16 * 2 ^ 20 ∧ img.length = 256 + fieldAt img 8 4
  reserved : zero img 0x0C 0x10 ∧ zero img 0xB0 0x100
  key : sha256 ((img.drop 0x30).take 64) = m.keyHash.getD Config.fusedKeyHash
  digest : (img.drop 0x10).take 32 = sha256 ((img.drop 0x100).take (fieldAt img 8 4))
  version : m.rollback.toNat ≤ fieldAt img 4 4
  signature : ecdsaVerify (beNat ((img.drop 0x30).take 32)) (beNat ((img.drop 0x50).take 32)) (beNat ((img.drop 0x70).take 32))
    (beNat ((img.drop 0x90).take 32)) (sha256 (img.take 0x70)) = true

/-- IMAGE_LOAD (R386): outside recovery it changes nothing; in recovery an image that verifies restarts the device, with
nothing running and every register at its reset value, and its VERSION and DIGEST are those of the image that runs. -/
def ImageCommand : Prop :=
  ∀ (s : State) (c : Command) (r : List Command), Turn1 s c r 8 →
    let a := arg c 16 8
    let n := arg c 24 4
    let good := reservedZero c 12 16 ∧ reservedZero c 28 64 ∧ 64 ∣ a
    (¬ good → exec .imageLoad s = .next (statusPut s c r 2)) ∧
    (good → s.mgmt.recovery = false → exec .imageLoad s = .next (statusPut s c r 3)) ∧
    (good → s.mgmt.recovery = true → 2 ^ 48 < hostBase + a + n → exec .imageLoad s = .next (statusPut s c r 2)) ∧
    (∀ img, good → s.mgmt.recovery = true → hostBase + a + n ≤ 2 ^ 48 → img.length = n →
      (∀ i, i < n → img.getD i 0 = tblGet s.mem 0 (hostBase + a + i)) →
      (¬ ImageOk s.mgmt img → exec .imageLoad s = .next (statusPut s c r 1)) ∧
      (ImageOk s.mgmt img → ∃ t, exec .imageLoad s = .next (statusPut t c r 0) ∧ t.groups = [] ∧ t.launches = [] ∧ t.vis = [] ∧
        t.parts = [] ∧ t.tiles = [] ∧ t.flight = [] ∧ t.mem = s.mem ∧ t.time = s.time ∧ t.mgmt.ready = false ∧
        t.mgmt.recovery = false ∧ t.mgmt.version.toNat = fieldAt img 4 4 ∧ t.mgmt.digest = (img.drop 0x10).take 32 ∧
        t.mgmt.rollback = s.mgmt.rollback ∧ t.mgmt.keyHash = s.mgmt.keyHash ∧ ∀ d, d < 8 → (t.die d).mhz = 1800))

/-! PART_CONFIG (R61, R62, R339, R390, R391). -/

/-- Bits of a set in a partition block. -/
def setBit (b : List Byte) (off n : Nat) : Bool := (b.getD (off + n / 8) 0).getLsbD (n % 8)
/-- The interfaces that a block binds, in ascending order. -/
def boundVis (b : List Byte) : List Nat := ((List.range 1024).filter (setBit b 0x90)).map (· + 1)

/-- The fields from MODES to MSGTGT of a leaf, for the channels it uses (R61, R66, R170, R339, R391). -/
structure LeafFields (s : State) (key : Nat) (channel : Nat → Bool) (b : List Byte) : Prop where
  modes : (b.getD 0x58 0).toNat < 64
  slice : 1 ≤ fieldAt b 0x5A 2 ∧ fieldAt b 0x5A 2 ≤ 1000
  assist : fieldAt b 0x5C 4 ≤ 10000
  pool : 4096 ∣ fieldAt b 0x60 8 ∧ 4096 ∣ fieldAt b 0x68 8 ∧ (fieldAt b 0x68 8 ≠ 0 →
    fieldAt b 0x60 8 + fieldAt b 0x68 8 ≤ 0x18000000000 ∧ ∀ a, fieldAt b 0x60 8 ≤ a → a < fieldAt b 0x60 8 + fieldAt b 0x68 8 →
      channel (a / 0x180000000) = true)
  share : (boundVis b).length ≤ fieldAt b 0x70 2 ∧
    ((s.parts.filter (fun p => p.1 != key && !(key % 16 != 0 && p.1 == key / 16 * 16) && s.isLeaf p.1)).map (fun p => p.2.prshare)).sum + fieldAt b 0x70 2 ≤ 4096
  hvec : 8 ∣ fieldAt b 0x78 8 ∧ fieldAt b 0x78 8 < 2 ^ 48
  s2root : 4096 ∣ fieldAt b 0x80 8 ∧ fieldAt b 0x80 8 < 2 ^ 48
  targets : ∀ i, i < 16 → let w := fieldAt b (0x110 + 4 * i) 4
    w.testBit 30 = false ∧ w / 2 ^ 11 % 32 = 0 ∧ (w.testBit 31 = true → 1 ≤ w % 2048 ∧ w % 2048 ≤ 1024)
  bound : ∀ v ∈ boundVis b, ∀ p ∈ s.parts, p.1 ≠ key → v ∈ p.2.vis → ¬ busyPart s p.1

/-- The resources of a top-level partition are no other's (R61). -/
def Apart (s : State) (key : Nat) (b : List Byte) : Prop :=
  ∀ p ∈ s.parts, p.1 % 16 = 0 → p.1 ≠ key → p.2.configured = true →
    (∀ n, n < 128 → setBit b 0 n = true → p.2.clusters.getLsbD n = false) ∧
    (∀ n, n < 256 → setBit b 0x10 n = true → p.2.channels.getLsbD n = false) ∧
    (∀ n, n < 128 → setBit b 0x30 n = true → p.2.slices.getLsbD n = false)

/-- A block that a top-level partition with children accepts: it has what theirs have, and no field of a leaf (R61, R62, R391). -/
structure ParentBlock (s : State) (key : Nat) (b : List Byte) : Prop where
  reserved : (∀ n, 104 ≤ n → n < 128 → setBit b 0 n = false) ∧ zero b 0x58 0x200
  disjoint : Apart s key b
  clusters : ∀ c, c < 8 → (s.part (key + 8 + c)).configured = true → ∀ n, n < 128 → (s.part (key + 8 + c)).clusters.getLsbD n = true →
    setBit b 0 n = true
  budgets : ∀ c, c < 8 → (s.part (key + 8 + c)).configured = true → ∀ i, i < 6 →
    ((s.part (key + 8 + c)).budgets.getD i 0).toNat ≤ fieldAt b (0x40 + 4 * i) 4

/-- A block that a top-level partition without children accepts. -/
structure TopBlock (s : State) (key : Nat) (b : List Byte) : Prop where
  reserved : (∀ n, 104 ≤ n → n < 128 → setBit b 0 n = false) ∧ zero b 0x59 0x5A ∧ zero b 0x72 0x78 ∧ zero b 0x88 0x90 ∧
    zero b 0x150 0x200
  disjoint : Apart s key b
  fields : LeafFields s key (setBit b 0x10) b

/-- A block that a child accepts, and that does not remove it. -/
structure ChildBlock (s : State) (key : Nat) (b : List Byte) : Prop where
  reserved : (∀ n, 104 ≤ n → n < 128 → setBit b 0 n = false) ∧ zero b 0x10 0x40 ∧ zero b 0x59 0x5A ∧ zero b 0x72 0x78 ∧
    zero b 0x88 0x90 ∧ zero b 0x150 0x200
  parent : (s.part (key / 16 * 16)).configured = true ∧ (s.part (key / 16 * 16)).vis = []
  clusters : ∀ n, n < 128 → setBit b 0 n = true → (s.part (key / 16 * 16)).clusters.getLsbD n = true ∧
    ∀ c, c < 8 → key / 16 * 16 + 8 + c ≠ key → (s.part (key / 16 * 16 + 8 + c)).configured = true →
      (s.part (key / 16 * 16 + 8 + c)).clusters.getLsbD n = false
  budgets : ∀ i, i < 6 → fieldAt b (0x40 + 4 * i) 4 ≤ ((s.part (key / 16 * 16)).budgets.getD i 0xFFFFFFFF).toNat
  fields : LeafFields s key (s.part (key / 16 * 16)).channels.getLsbD b

/-- The partition that a block describes; its windows and error counts stay. -/
structure Configured (p p' : Part) (b : List Byte) : Prop where
  configured : p'.configured = true
  clusters : ∀ n, n < 128 → p'.clusters.getLsbD n = setBit b 0 n
  channels : ∀ n, n < 256 → p'.channels.getLsbD n = setBit b 0x10 n
  slices : ∀ n, n < 128 → p'.slices.getLsbD n = setBit b 0x30 n
  budgets : p'.budgets.length = 6 ∧ ∀ i, i < 6 → (p'.budgets.getD i 0).toNat = fieldAt b (0x40 + 4 * i) 4
  modes : p'.modes.toNat = (b.getD 0x58 0).toNat % 64
  slice : p'.slice = fieldAt b 0x5A 2
  assist : p'.assistMs = if fieldAt b 0x5C 4 = 0 then 100 else fieldAt b 0x5C 4
  pool : p'.poolBase = fieldAt b 0x60 8 ∧ p'.poolSize = fieldAt b 0x68 8
  share : p'.prshare = fieldAt b 0x70 2
  hvec : p'.hvec.toNat = fieldAt b 0x78 8
  s2root : p'.s2root = fieldAt b 0x80 8
  vis : p'.vis = boundVis b
  targets : ∀ i, i < 16 → (p'.msgTgt.getD i 0).toNat = fieldAt b (0x110 + 4 * i) 4
  kept : p'.windows = p.windows ∧ p'.errs = p.errs

/-- PART_CONFIG: refused with STATUS 3 while the partition or, for a child, its parent holds a launch; 2 for an argument or a
block that breaks a rule; else the partition is as its block says, its interfaces leave the partitions they were bound to, the
counters of its cores are zero, and its clusters are to drop what they hold of its old tables (R177). An empty set of clusters
removes a child. -/
def PartCommand : Prop :=
  ∀ (s : State) (c : Command) (r : List Command), Turn1 s c r 1 →
    let a := arg c 16 8
    let good (key : Nat) := partNamed (arg c 12 1) (arg c 13 1) key ∧ reservedZero c 14 16 ∧ reservedZero c 24 64 ∧ 64 ∣ a ∧
      hostBase + a + 512 ≤ 2 ^ 48
    let busy (key : Nat) := busyPart s key ∨ (key % 16 ≠ 0 ∧ busyPart s (key / 16 * 16))
    ((∀ key, ¬ good key) → exec .partConfig s = .next (statusPut s c r 2)) ∧
    (∀ key, good key → busy key → exec .partConfig s = .next (statusPut s c r 3)) ∧
    (∀ key b, good key → ¬ busy key → b.length = 512 → (∀ i, i < 512 → b.getD i 0 = tblGet s.mem 0 (hostBase + a + i)) →
      let empty := ∀ n, n < 128 → setBit b 0 n = false
      let lone : Prop := ∀ n, n < 8 → (s.part (key + 8 + n)).configured = false
      let accepted := (key % 16 = 0 ∧ lone ∧ TopBlock s key b) ∨ (key % 16 = 0 ∧ ¬ lone ∧ ParentBlock s key b) ∨
        (key % 16 ≠ 0 ∧ ¬ empty ∧ ChildBlock s key b)
      let removed : Prop := (s.part (key / 16 * 16)).configured = true ∧ zero b 0x10 0x40 ∧ zero b 0x59 0x5A ∧ zero b 0x72 0x78 ∧
        zero b 0x88 0x90 ∧ zero b 0x150 0x200
      (key % 16 ≠ 0 → empty → removed →
        exec .partConfig s = .next (statusPut { s with
          parts := tblErase s.parts key, mgmt := { s.mgmt with configs := tblErase s.mgmt.configs key } } c r 0)) ∧
      (key % 16 ≠ 0 → empty → ¬ removed → exec .partConfig s = .next (statusPut s c r 2)) ∧
      ((key % 16 = 0 ∨ ¬ empty) → ¬ accepted →
        exec .partConfig s = .next (statusPut s c r 2)) ∧
      (accepted → ∃ t, exec .partConfig s = .next (statusPut t c r 0) ∧ Configured (s.part key) (t.part key) b ∧
        (∀ k, k ≠ key → t.part k = { s.part k with vis := (s.part k).vis.filter (fun v => !(boundVis b).contains v) }) ∧
        tblFind t.invals s.nextId = some { gid := none
                                           op := 0
                                           leaf := key
                                           vi := 0
                                           stage1 := true
                                           stage2 := true
                                           size := 0
                                           page := 0
                                           reached := []
                                           writes := []
                                           loads := [] } ∧
        (∀ n, n ≠ s.nextId → tblFind t.invals n = tblFind s.invals n) ∧ t.tlb = s.tlb ∧
        t.mgmt = { s.mgmt with configs := tblSet s.mgmt.configs key b } ∧
        (∀ n, setBit b 0 (n / 4) = true → n < 416 → (t.core n).evsel = [] ∧ (t.core n).evc = []) ∧
        (∀ n, n < 416 → setBit b 0 (n / 4) = false → t.core n = s.core n) ∧ t.vis = s.vis ∧ t.mem = s.mem ∧
        t.launches = s.launches))

/-- The registers of the management function (R388, R389): a write of SEQ to MDOOR takes the command block at MCMDA into the
queue of commands, behind those that wait; the other registers take what is written. -/
def ManagementRegisters : Prop :=
  ∀ (s : State),
    (∀ val : BitVec 64, exec (.registerWrite 0 0 8 val) s = .next { s with mgmt := { s.mgmt with mcmda := val &&& ~~~0x3F } }) ∧
    (∀ (val : BitVec 64) (b : List Byte), let a := s.mgmt.mcmda.toNat
      hostBase + a + 64 ≤ 2 ^ 48 → b.length = 64 → (∀ i, i < 64 → b.getD i 0 = tblGet s.mem 0 (hostBase + a + i)) →
      (∀ c, (s.mgmt.commands ++ [(⟨b, a, val.setWidth 32⟩ : Command)]).head? = some c →
        1 ≤ fieldAt c.block 0 4 ∧ fieldAt c.block 0 4 ≤ 9) →
      exec (.registerWrite 0 0x008 4 val) s = .next { s with mgmt := { s.mgmt with
        mdoor := val.setWidth 32
        commands := s.mgmt.commands ++ [⟨b, a, val.setWidth 32⟩] } }) ∧
    (∀ val : BitVec 64, exec (.registerWrite 0 0x028 8 val) s = .next { s with mgmt := { s.mgmt with ardata := val } }) ∧
    (∀ val : BitVec 64, exec (.registerWrite 0 0x030 8 val) s = exec (.assistReply val) s) ∧
    (∀ val : BitVec 64, exec (.registerWrite 0 0x010 8 val) s =
      .next { s with mgmt := { s.mgmt with assist := { s.mgmt.assist with base := val &&& ~~~0x3F } } }) ∧
    (∀ val : BitVec 64, exec (.registerWrite 0 0x038 8 val) s =
      .next { s with mgmt := { s.mgmt with halt := { s.mgmt.halt with base := val &&& ~~~0x3F } } }) ∧
    (∀ val : BitVec 64, let w := ringWritten s.mgmt.assist.ctl s.mgmt.assist.tail s.mgmt.assist.head (val.setWidth 32)
      exec (.registerWrite 0 0x018 4 val) s = .next { s with mgmt := { s.mgmt with
        assist := { s.mgmt.assist with ctl := w.1, tail := w.2.1, head := w.2.2 } } }) ∧
    (∀ val : BitVec 64, let w := ringWritten s.mgmt.halt.ctl s.mgmt.halt.tail s.mgmt.halt.head (val.setWidth 32)
      exec (.registerWrite 0 0x040 4 val) s = .next { s with mgmt := { s.mgmt with
        halt := { s.mgmt.halt with ctl := w.1, tail := w.2.1, head := w.2.2 } } }) ∧
    (∀ val : BitVec 64, exec (.registerWrite 0 0x020 4 val) s = .next { s with mgmt := { s.mgmt with
      assist := { s.mgmt.assist with head := val.setWidth 32 } } }) ∧
    (∀ val : BitVec 64, exec (.registerWrite 0 0x048 4 val) s = .next { s with mgmt := { s.mgmt with
      halt := { s.mgmt.halt with head := val.setWidth 32 } } }) ∧
    (∀ off size val, (¬ (size = 4 ∨ size = 8) ∨ off % size ≠ 0 ∨ off ∈ [0x00C, 0x01C, 0x044, 0x050] ∧ size = 4) →
      exec (.registerWrite 0 off size val) s = .next s)

end Sys2Proof.Spec

/-- The management function (R357, R385 to R391): its registers, and its nine commands with their STATUS; the expiry of a
ticket. The model's readings are whose addresses the function uses (DEDUCED, log entry 16), what an image load keeps (74), when
a block is read, MDONE, unknown codes and the order of errors (75), corners of PART_CONFIG (76) and the statuses of ticket and
image commands (77); certificate, keys, configuration bytes and ticket bytes are free values (DESIGN CHOICE, log entry 13), and
the algorithms are the standards' own (PRESUMED, log entry 89). -/
def Obligations.Management : Prop :=
  Sys2Proof.Spec.ManagementRegisters ∧ Sys2Proof.Spec.LimitCommands ∧ Sys2Proof.Spec.WindowCommand ∧
  Sys2Proof.Spec.TicketCommands ∧ Sys2Proof.Spec.AttestCommand ∧ Sys2Proof.Spec.ImageCommand ∧ Sys2Proof.Spec.PartCommand

namespace Sys2Proof.Spec

/-! ### Walks, invalidations and page requests (R176 to R179, R338 to R340) -/

/-- Two cached entries are of the same table entry, in one cluster (R176, R338). -/
def sameEntry (x y : TlbEntry) : Prop :=
  x.cluster = y.cluster ∧ x.leaf = y.leaf ∧ x.stage = y.stage ∧ x.level = y.level ∧ x.input = y.input ∧
    (x.stage = 2 ∨ x.vi = y.vi)

/-- An invalidation is of an entry (R177): of its leaf, of a stage it names, of its interface or every one, with an input page in the
range that it names. -/
def invalidates (x : Inval) (e : TlbEntry) : Prop :=
  e.leaf = x.leaf ∧ ((e.stage = 1 ∧ x.stage1 = true ∧ (e.vi = x.vi ∨ x.vi = 0)) ∨ (e.stage = 2 ∧ x.stage2 = true)) ∧
    (x.size = 0 ∨ ∃ a, x.page ≤ a ∧ a < x.page + x.size ∧ a / 2 ^ (12 + 9 * e.level) = e.input)

/-- WALK_COMPLETE: a walk installs what it has read; a stale one installs nothing and starts again with the tables as they are
now, once the translation budget lets it; on a die whose clock stands nothing happens (R62, R176, R178, R326). -/
def Walks : Prop :=
  ∀ (s : State) (wid : Nat),
    (tblFind s.walks wid = none → exec (.walkComplete wid) s = .next s) ∧
    (∀ w, tblFind s.walks wid = some w → (s.die (w.cluster / 13)).relocking = true → exec (.walkComplete wid) s = .next s) ∧
    (∀ w, tblFind s.walks wid = some w → (s.die (w.cluster / 13)).relocking = false → w.stale = false →
      ∃ t, exec (.walkComplete wid) s = .next t ∧ t.walks = tblErase s.walks wid ∧ { t with walks := s.walks, tlb := s.tlb } = s ∧
        ∀ e, e ∈ t.tlb ↔ e ∈ w.read ∨ (e ∈ s.tlb ∧ ∀ r ∈ w.read, ¬ sameEntry r e)) ∧
    (∀ w, tblFind s.walks wid = some w → w.stale = true → s.exhausted w.leaf 5 = true → exec (.walkComplete wid) s = .next s) ∧
    (∀ w s1, tblFind s.walks wid = some w → (s.die (w.cluster / 13)).relocking = false → w.stale = true →
      s.exhausted w.leaf 5 = false → s1 = { s with walks := tblErase s.walks wid } →
      let again := s1.translate { leaf := w.leaf, vi := w.vi, cluster := some w.cluster, mode := w.mode } {} w.addr
      (∀ e, again = .error e → exec (.walkComplete wid) s = .next s1) ∧
      (∀ a es, again = .ok (a, es) → (∀ e ∈ es, unmarked s e.at_) → ∃ t, exec (.walkComplete wid) s = .next t ∧ t.tlb = s.tlb ∧ t.mem = s.mem ∧ t.groups = s.groups ∧
        ((∀ e ∈ es, e ∈ s.tlb) → t = s1) ∧
        ((∃ e ∈ es, e ∉ s.tlb) → (∀ v ∈ s1.walks, ¬ (v.2.cluster = w.cluster ∧ v.2.leaf = w.leaf ∧ v.2.vi = w.vi ∧
            v.2.addr / 4096 = w.addr / 4096)) →
          ∃ v, tblFind t.walks s.nextId = some v ∧ v = { w with read := v.read, stale := false, out := some (a / 4096) } ∧
            (∀ e, e ∈ v.read ↔ e ∈ es ∧ e ∉ s.tlb) ∧ ∀ n, n ≠ s.nextId → tblFind t.walks n = tblFind s1.walks n)))

/-- An access that a walk has translated has not been made: a load of its page not read, or a store to it still in its store queue. -/
def usesWalk (s : State) (w : Walk) : Prop :=
  (∃ p ∈ s.groups, p.2.leaf = w.leaf ∧ p.2.core / 4 = w.cluster ∧ ∃ o ∈ p.2.ops, ∃ l ∈ o.kind.unread, ∃ a, l.1 = .sys a ∧
    w.out = some (a / 4096)) ∨
  ∃ x ∈ s.flight, x.level = 0 ∧ (∃ a, x.place = .sys a ∧ w.out = some (a / 4096)) ∧
    ∃ g, s.group x.gid = some g ∧ g.leaf = w.leaf ∧ g.core / 4 = w.cluster

/-- INVALIDATION_ARRIVAL: a cluster of the leaf that the invalidation has not reached drops the entries it is of; walks there
that have read such entries are stale; accesses then under way are noted, for the acknowledgement (R177 to R179). It comes after the accesses that such a walk has
translated (the model's reading, log entry 28). -/
def InvalidationReaches : Prop :=
  ∀ (s : State) (iid c : Nat) (x : Inval), tblFind s.invals iid = some x →
    let waits : Prop := ∃ w ∈ s.walks, w.2.cluster = c ∧ (∃ e ∈ w.2.read, invalidates x e) ∧ usesWalk s w.2
    ((c ∈ x.reached ∨ (s.part x.leaf).clusters.getLsbD c = false ∨ (s.die (c / 13)).relocking = true ∨ waits) →
      exec (.invalidationArrival iid c) s = .next s) ∧
    (c ∉ x.reached → (s.part x.leaf).clusters.getLsbD c = true → (s.die (c / 13)).relocking = false → ¬ waits →
      ∃ t x', exec (.invalidationArrival iid c) s = .next t ∧ { t with tlb := s.tlb, walks := s.walks, invals := s.invals } = s ∧
        (∀ e, e ∈ t.tlb ↔ e ∈ s.tlb ∧ ¬ (e.cluster = c ∧ invalidates x e)) ∧
        (∀ n w, tblFind s.walks n = some w → ∃ w', tblFind t.walks n = some w' ∧ { w' with stale := w.stale } = w ∧
          (w'.stale = true ↔ w.stale = true ∨ (w.cluster = c ∧ ∃ e ∈ w.read, invalidates x e))) ∧
        tblFind t.invals iid = some x' ∧ { x' with reached := x.reached, writes := x.writes, loads := x.loads } = x ∧
        (∀ n, n ∈ x'.reached ↔ n = c ∨ n ∈ x.reached) ∧
        (∀ n, n ∈ x'.writes ↔ n ∈ x.writes ∨ ∃ w ∈ s.flight, w.id = n ∧ (∃ k, w.core = some k ∧ k / 4 = c) ∧
          ∀ g, s.group w.gid = some g → g.leaf = x.leaf) ∧
        (∀ p, p ∈ x'.loads ↔ p ∈ x.loads ∨ ∃ g, (p.1, g) ∈ s.groups ∧ g.leaf = x.leaf ∧ g.core / 4 = c ∧ p.2 ∈ g.unread))

/-- INVALIDATION_ACK: an invalidation is acknowledged, and its instruction ends, once every cluster of the leaf has dropped what
it is of, no walk of the leaf is stale, and the accesses noted have been performed or are gone (R179). -/
def InvalidationEnds : Prop :=
  ∀ (s : State) (iid : Nat) (x : Inval), tblFind s.invals iid = some x →
    let ready : Prop := (∀ c, c < 104 → (s.part x.leaf).clusters.getLsbD c = true → c ∈ x.reached) ∧
      (∀ w ∈ s.walks, w.2.stale = true → w.2.leaf ≠ x.leaf) ∧ (∀ n ∈ x.writes, s.performed n 6 = true) ∧
      (∀ p ∈ x.loads, ∀ g, s.group p.1 = some g → p.2 ∉ g.unread)
    (¬ ready → exec (.invalidationAck iid) s = .next s) ∧
    (ready → x.gid = none → exec (.invalidationAck iid) s = .next { s with invals := tblErase s.invals iid }) ∧
    (∀ gid g o, ready → x.gid = some gid → s.group gid = some g → o ∈ g.ops → o.id = x.op → (∀ p ∈ g.ops, p.id = x.op → p = o) →
      ∃ t g', exec (.invalidationAck iid) s = .next t ∧ t.invals = tblErase s.invals iid ∧ t.group gid = some g' ∧
        (∀ p ∈ g'.ops, p.id = x.op → p.ended = true) ∧ g'.lanes = g.lanes ∧ g'.v = g.v ∧ g'.k = g.k ∧ g'.p = g.p ∧
        { t with invals := s.invals, groups := s.groups } = s)

/-- A fault is of an outstanding request (R339). -/
def sameFault (w : PageWait) (r : PageReq) : Prop :=
  r.leaf = w.leaf ∧ r.stage = w.stage ∧ r.page = w.page ∧ (w.stage = 2 ∨ r.vi = w.vi)

/-- The parked-fault record of a lane whose fault is posted with a tag (R350). -/
def postedRecord (stage : Nat) (tag : BitVec 32) : BitVec 64 := (if stage = 2 then 7#32 else 5#32) ++ tag

/-- The lane of a fault has its record; an operation has none (R350). -/
def recorded (s : State) (w : PageWait) (tag : BitVec 32) : State :=
  if w.op.isSome then s
  else { s with groups := tblMod s.groups w.gid (fun g =>
    { g with lanes := tblSet g.lanes w.lane { g.lane w.lane with fault := postedRecord w.stage tag } }) }

/-- Room in the page request ring of an interface (R340). -/
def ringRoom (v : VI) : Prop :=
  v.prctl.getLsbD 8 = true ∧ (v.prtail - v.prhead).toNat < 2 ^ (v.prctl.toNat % 32)

/-- The bytes of a request record: its tag, access, repeat mark, address and group (R340). -/
structure RequestBytes (r : PageReq) (b : Nat → Byte) : Prop where
  tag : ∀ i, i < 4 → b i = r.tag.extractLsb' (8 * i) 8
  acc : b 4 = r.acc
  again : b 5 = if r.again then 1 else 0
  zero : b 6 = 0 ∧ b 7 = 0 ∧ ∀ i, 24 ≤ i → i < 32 → b i = 0
  addr : ∀ i, i < 8 → b (8 + i) = (BitVec.ofNat 64 (r.page * 4096)).extractLsb' (8 * i) 8
  group : ∀ i, i < 8 → b (16 + i) = (BitVec.ofNat 64 r.gid).extractLsb' (8 * i) 8

/-- A stage-1 request has gone to its interface's ring (R339, R340): a write of the hub with its record, the tail one higher, and
the ring's vector. -/
def rung (s t : State) (r : PageReq) : Prop :=
  ∃ p b, placed s (frontX r.leaf r.vi) { w := true }
      ((s.vi r.vi).prbase.toNat / 32 * 32 + (s.vi r.vi).prtail.toNat % 2 ^ ((s.vi r.vi).prctl.toNat % 32) * 32) 32 p ∧
    RequestBytes r b ∧ t.flight = s.flight ++ [hubWriteOf s 0 4 32 p b] ∧ t.mem = s.mem ∧
    t.vi r.vi = { s.vi r.vi with prtail := (s.vi r.vi).prtail + 1,
                                 msix := (s.vi r.vi).msix ++ (if (s.vi r.vi).prctl.toNat / 4096 % 256 ≤ 64 then
                                   [(s.vi r.vi).prctl.toNat / 4096 % 256] else []) }

/-- The places of the next record of a ring can be found (R172). -/
def ringMapped (s : State) (leaf vi : Nat) : Prop :=
  ∃ p, placed s (frontX leaf vi) { w := true }
    ((s.vi vi).prbase.toNat / 32 * 32 + (s.vi vi).prtail.toNat % 2 ^ ((s.vi vi).prctl.toNat % 32) * 32) 32 p

/-- PAGE_REQUEST_POST: the oldest unposted fault of a leaf joins the request of its page, takes its interface's own entry, or
another of the leaf's share, or stays; a fault of an issue that R354 makes again joins none; a request that waited for room in its ring is written there (R339, R340). -/
def PageRequests : Prop :=
  ∀ (s : State) (gid lane : Nat),
    ((∀ w ∈ s.pageWaits, ¬ (w.gid = gid ∧ w.lane = lane)) →
      ((tblKeys s.pageReqs).Nodup → (∀ r ∈ s.pageReqs, (gid, lane) ∈ r.2.lanes → r.2.written = true ∨ r.2.stage ≠ 1 ∨ ¬ ringRoom (s.vi r.2.vi)) →
        exec (.pageRequestPost gid lane) s = .next s) ∧
      (∀ rid r, tblFind s.pageReqs rid = some r → (gid, lane) ∈ r.lanes →
        (∀ p ∈ s.pageReqs, (gid, lane) ∈ p.2.lanes → p = (rid, r)) → s.pageReqs.count (rid, r) = 1 → r.written = false →
        r.stage = 1 → ringRoom (s.vi r.vi) → ringMapped s r.leaf r.vi →
        ∃ t, exec (.pageRequestPost gid lane) s = .next t ∧ rung s t r ∧
          t.pageReqs = tblSet s.pageReqs rid { r with written := true })) ∧
    (∀ w pre post, s.pageWaits = pre ++ w :: post → w.gid = gid → w.lane = lane →
      (∀ x ∈ pre, ¬ (x.gid = gid ∧ x.lane = lane)) →
      ((∃ x ∈ pre, x.leaf = w.leaf) → exec (.pageRequestPost gid lane) s = .next s) ∧
      ((∀ x ∈ pre, x.leaf ≠ w.leaf) →
        (∀ rid r, w.fresh = false → (rid, r) ∈ s.pageReqs → sameFault w r → (∀ p ∈ s.pageReqs, sameFault w p.2 → p = (rid, r)) →
          exec (.pageRequestPost gid lane) s = .next (recorded { s with
            pageWaits := pre ++ post
            pageReqs := tblSet s.pageReqs rid (match w.op with
              | none => { r with lanes := r.lanes ++ [(gid, lane)], again := r.again || w.again }
              | some o => { r with ops := r.ops ++ [(gid, o)] }) } w r.tag)) ∧
        ((w.fresh = true ∨ ∀ r ∈ s.pageReqs, ¬ sameFault w r.2) →
          let mine := s.pageReqs.filter (fun p => p.2.vi == w.vi)
          let ours := s.pageReqs.filter (fun p => p.2.leaf == w.leaf)
          (mine ≠ [] ∧ (s.part w.leaf).prshare ≤ ours.length → exec (.pageRequestPost gid lane) s = .next s) ∧
          (mine = [] ∨ ours.length < (s.part w.leaf).prshare →
            ∃ t r, exec (.pageRequestPost gid lane) s = .next t ∧ t.pageWaits = pre ++ post ∧ t.nextTag = s.nextTag + 1 ∧
              t.mem = s.mem ∧ tblFind t.pageReqs s.nextId = some r ∧ (∀ n, n ≠ s.nextId → tblFind t.pageReqs n = tblFind s.pageReqs n) ∧
              r.leaf = w.leaf ∧ r.vi = w.vi ∧ r.stage = w.stage ∧ r.page = w.page ∧ r.acc = w.acc ∧ r.user = w.user ∧
              r.tag = s.nextTag ∧ r.gid = gid ∧ r.again = w.again ∧
              r.lanes = (if w.op = none then [(gid, lane)] else []) ∧ r.ops = w.op.toList.map (fun o => (gid, o)) ∧
              (w.op = none → ∀ g, s.group gid = some g → ∃ g' g'', t.group gid = some g'' ∧
                (g'' = g' ∨ (g.mon.state = .armed ∧ g'' = touched g')) ∧ g'.v = g.v ∧ g'.k = g.k ∧ g'.p = g.p ∧
                (∀ j, j ≠ lane → g'.lane j = g.lane j) ∧
                g'.lane lane = { g.lane lane with fault := postedRecord w.stage s.nextTag }) ∧
              (w.stage ≠ 1 ∨ ¬ ringRoom (s.vi w.vi) → r.written = false ∧ t.flight = s.flight ∧ t.vis = s.vis) ∧
              (w.stage = 1 → ringRoom (s.vi w.vi) → ringMapped s w.leaf w.vi → r.written = true ∧
                rung { s with nextId := s.nextId + 1 } t r)))))

/-! ### Pre-emption and restore (R257, R258, R351 to R355) -/

/-- A copy that is to be suspended, or is: a page holds it, what it has written has been performed, its packets have all been
answered (R352), and the store of its barrier object runs (R326). -/
def suspendable (s : State) (gid : Nat) (o : Op) (c : CopyOp) : Prop :=
  c.suspended = true ∨ (c.ended = false ∧ s.pageHeld gid o.id = true ∧ s.creditAsleep c = false ∧
    s.copyPerformed c (retireLevel c.scope) = true ∧ c.asked.length = c.acked)

/-- An operation does not keep its group on its core (R351): urn operations are not waited for; engines stop between their steps;
requests for storage wait elsewhere; every other one has ended, or is a copy that is suspended. -/
def letsGo (s : State) (gid : Nat) (o : Op) : Prop :=
  o.cls = .ur ∨ (o.cls ≠ .ld ∧ o.cls ≠ .st ∧ (o.ended = true ∨ (∃ m, o.kind = .matrix m) ∨ (∃ n w l a, o.kind = .assign n w l a) ∨
    (∃ d, o.kind = .asnStat d) ∨ (∃ n w x, o.kind = .talloc n w x) ∨ (∃ d w x n, o.kind = .balloc d w x n) ∨
    ∃ c, o.kind.copy? = some c ∧ suspendable s gid o c))

/-- The sets of a group are discarded and computed again (R258): an `mma` that has not ended has RECOMP, the launch has a RESTART,
and every live lane is in user mode. -/
def discards (g : Group) (l : Launch) : Prop :=
  l.restart ≠ 0 ∧ (∃ o ∈ g.ops, ∃ m z, o.kind = .matrix m ∧ m.act = .mma z ∧ o.ended = false ∧ (m.word 4).getLsbD 17 = true) ∧
    ∀ j, j < 32 → (g.lane j).live = true → (g.lane j).mode = .user

/-- A group may leave its core (R351, R258): its operations let it go, its tokens' accesses have been performed, its urn operations have
left the core, and no `mwait` of it has come to its deadline (R301). -/
def leaves (s : State) (gid : Nat) (g : Group) (l : Launch) : Prop :=
  g.resident = true ∧ g.freed = false ∧ s.overdue g = false ∧
    (∀ w ∈ s.flight, w.gid = gid → w.urn ≠ none → 2 ≤ w.level) ∧ (∀ o ∈ g.ops, letsGo s gid o) ∧
    (∀ f ∈ g.f, f.2.met = true ∨ s.covered f.2.cover f.2.scope.toNat = true) ∧
    (discards g l → ∀ o ∈ g.ops, o.cls = .tx → o.ended = true ∨ (∃ m, o.kind = .matrix m) ∨ ∃ r n c, o.kind = .wbld r n c)

/-- The operation as a pre-emption leaves it: a copy that a page holds is suspended, with the number of bytes it has written and the
tag of its request (R352). -/
def suspended (s : State) (gid : Nat) (o : Op) : Op :=
  match o.kind.copy? with
  | none => o
  | some c =>
    if o.ended || c.suspended || c.ended then o
    else { o with kind := o.kind.setCopy (fun c => { c with
      suspended := true
      answered := false
      credited := max c.credited c.done.length
      data := []
      pageTag := (s.pageReqs.find? (fun p => p.2.ops.contains (gid, o.id))).map (fun p => p.2.tag) }) }

/-- What an engine has read ahead of a K-step is dropped with the group's context, and read again (R252, R257). -/
def dropsAhead (o : Op) : Op :=
  match o.kind with
  | .matrix m => { o with kind := .matrix { m with chunks := [] } }
  | _ => o

/-- The group lies in no piece of a level with GANG (R82). -/
def lone (g : Group) (l : Launch) : Prop :=
  ∀ i, i < g.pieces.length → g.pieces.getD i 0 ≠ 0 → (LEVEL l.record (i + 1)).testBit 8 = false

/-- A group of the same gang: of the widest GANG piece that the group lies in (R82). -/
def Mate (s : State) (g : Group) (l : Launch) (n : Nat) : Prop :=
  ∃ i x, i < g.pieces.length ∧ g.pieces.getD i 0 ≠ 0 ∧ (LEVEL l.record (i + 1)).testBit 8 = true ∧
    (∀ k, i < k → k < g.pieces.length → g.pieces.getD k 0 ≠ 0 → (LEVEL l.record (k + 1)).testBit 8 = false) ∧
    s.group n = some x ∧ x.freed = false ∧ x.launch = g.launch ∧ x.pieces[i]? = g.pieces[i]?

/-- A pre-emption of the leaf's work waits while R83 calls for one of another leaf's, unless R83 calls for this one. -/
def HasTurn (s : State) (gid leaf : Nat) : Prop :=
  gid ∈ s.stuck ∨ ∀ n ∈ s.stuck, s.ready n = true → ∀ x, s.group n = some x → x.leaf = leaf

/-- A group may be taken off its core now. -/
def canLeave (s : State) (gid : Nat) : Prop := ∃ g l, s.awake gid = some g ∧ s.launchOf g = some l ∧ leaves s gid g l

/-- Groups that R83 makes eligible for pre-emption: those of a dispatched sub-piece, all of them blocked in `bwait` on the barrier of a
dispatched piece without GANG of which some sub-piece is still to be dispatched. -/
def Eligible : Prop :=
  ∀ (s : State) (n : Nat), n ∈ s.stuck ↔ ∃ x ∈ s.launches, ∃ p ∈ s.pieces, p.2.launch = x.1 ∧ p.2.retired = false ∧ p.2.born ≠ none ∧
    p.2.bar ≠ 0xFFFFFFFF ∧ x.2.gang p.2.level = false ∧ (∃ g ∈ x.2.plans, p.1 ∈ g.all) ∧
    let blocked (y : Nat × Group) : Prop := y.2.resident = true ∧ s.stuckOn y.1 y.2 p.2 = true
    if p.2.level = 1 then ∃ y ∈ s.groups, y.1 = n ∧ y.2.freed = false ∧ y.2.inPiece p.1 = true ∧ blocked y
    else ∃ q ∈ p.2.subs, (∃ y ∈ s.groups, y.1 = n ∧ y.2.freed = false ∧ y.2.inPiece q = true) ∧
      ∀ y ∈ s.groups, y.2.freed = false → y.2.inPiece q = true → blocked y

/-- A lane that starts again at RESTART (R258). -/
def restarted (l : Lane) (a : Nat) : Lane :=
  let z (m : ModeState) : ModeState := { m with loop := 0, rep := 0 }
  { l with
    addr := BitVec.ofNat 48 a
    came := .header
    m0 := z l.m0
    m1 := z l.m1
    m2 := z l.m2
    age := 0
    yielded := false
    park := .none
    fault := 0
    deadline := none }

/-- The claimed sets of a group are in the save blocks of its leaf, its assignment operations and gathered lanes are off the core
(R122, R257, R272). -/
structure Drained (s t : State) (gid : Nat) (g : Group) (sets : Tbl AccSet) : Prop where
  saves : ∀ z a, tblFind sets z = some a → a.claim = some gid → tblFind (t.part g.leaf).saves (4 * g.core + z) = some a
  parts : ∀ k, { t.part k with saves := [], used := [] } = { s.part k with saves := [], used := [] } ∧
    (k ≠ g.leaf → (t.part k).saves = (s.part k).saves)
  assign : ∀ c q, tblFind s.assignQ c = some q → tblFind t.assignQ c = some (if c = g.core / 4 then
    { q with ops := q.ops.filter (fun x => x.2.1 != gid) } else q)
  core : ∀ c, c ≠ g.core → t.core c = s.core c
  gathered : { t.core g.core with regroup := [], sets := [] } = { s.core g.core with regroup := [], sets := [] } ∧
    ∀ e, e ∈ (t.core g.core).regroup ↔ e ∈ (s.core g.core).regroup ∧ ¬ (e.gid = gid ∧ e.lane < 32)

/-- PREEMPT: a group whose operations allow it goes off its core with all that it has, its tokens met, its held copies suspended and
its sets saved; where its sets are to be computed again, its matrix operations are gone, its sets as `mzero` leaves them and
claimed, and its lanes at RESTART (R257, R258, R272, R351, R352). A gang goes whole or stays (R82). -/
def Preempts : Prop :=
  ∀ (s : State) (gid : Nat),
    (s.awake gid = none → exec (.preempt gid) s = .next s) ∧
    (∀ g l, s.awake gid = some g → s.launchOf g = some l →
      (¬ leaves s gid g l ∨ ¬ HasTurn s gid g.leaf → exec (.preempt gid) s = .next s) ∧
      ((∃ n x, Mate s g l n ∧ s.group n = some x ∧ x.resident = true ∧ ¬ canLeave s n) → exec (.preempt gid) s = .next s) ∧
      (leaves s gid g l → HasTurn s gid g.leaf → (∀ n x, Mate s g l n → s.group n = some x → x.resident = true → canLeave s n) →
        ∃ t, exec (.preempt gid) s = .next t ∧ ∀ n x, n = gid ∨ Mate s g l n → s.group n = some x →
          ∃ x', t.group n = some x' ∧ x'.resident = false ∧ x'.v = x.v ∧ x'.k = x.k ∧ x'.p = x.p ∧ x'.core = x.core ∧ x'.ctx = x.ctx) ∧
      (leaves s gid g l → HasTurn s gid g.leaf → lone g l → ¬ discards g l → (g.ops.map (fun o => o.id)).Nodup →
        (tblKeys (s.core g.core).sets).Nodup →
        ∃ t, exec (.preempt gid) s = .next t ∧ Drained s t gid g (s.core g.core).sets ∧ (t.core g.core).sets = (s.core g.core).sets ∧
          { t with
            barriers := s.barriers, phases := s.phases, phaseOut := s.phaseOut, outwait := s.outwait, nextId := s.nextId
            parts := s.parts, assignQ := s.assignQ, cores := s.cores } =
          { s with groups := tblSet s.groups gid { g with
            resident := false
            f := g.f.map (fun p => (p.1, { p.2 with met := true }))
            ops := g.ops.map (fun o => dropsAhead (suspended s gid o)) } } ∧
          (∀ h, (∀ o ∈ g.ops, ∀ c b, o.kind.copy? = some c → c.credit = some b → b.toNat = h → suspended s gid o = o) →
            tblFind t.barriers h = tblFind s.barriers h) ∧
          (∀ o ∈ g.ops, ∀ c b, o.kind.copy? = some c → c.credit = some b → suspended s gid o ≠ o →
            (∀ p ∈ g.ops, p ≠ o → ∀ d e, p.kind.copy? = some d → d.credit = some e → e.toNat = b.toNat → suspended s gid p = p) →
            ∀ x, tblFind s.barriers b.toNat = some x → tblFind t.barriers b.toNat = some (landed (c.done.length - c.credited) x))) ∧
      (leaves s gid g l → HasTurn s gid g.leaf → lone g l → discards g l → (∀ o ∈ g.ops, ∀ r n c, o.kind ≠ .wbld r n c) →
        (g.ops.map (fun o => o.id)).Nodup → (tblKeys (s.core g.core).sets).Nodup →
        ∃ t g', exec (.preempt gid) s = .next t ∧ t.group gid = some g' ∧ g'.resident = false ∧
          Drained s t gid g (t.core g.core).sets ∧
          (∀ p, p ∈ g'.ops → ∃ o ∈ g.ops, (∀ m, o.kind ≠ .matrix m) ∧ p = suspended s gid o) ∧
          (∀ o, o ∈ g.ops → (∀ m, o.kind ≠ .matrix m) → o.ended = false → suspended s gid o ∈ g'.ops) ∧
          g'.v = g.v ∧ g'.k = g.k ∧ g'.p = g.p ∧ g'.t = g.t ∧ g'.core = g.core ∧ t.tiles = s.tiles ∧ t.mem = s.mem ∧
          ((∀ o ∈ g.ops, ∀ c, o.kind.copy? = some c → c.credit = none ∨ suspended s gid o = o) → t.barriers = s.barriers) ∧ t.flight = s.flight ∧
          (∀ j, j < 32 → g'.lane j = if (g.lane j).absent = true ∨ (g.lane j).exited = true then g.lane j else restarted (g.lane j) l.restart) ∧
          (∀ z a, tblFind (s.core g.core).sets z = some a → tblFind (t.core g.core).sets z = some
            (if a.claim = some gid then { ({} : AccSet) with claim := some gid } else a)) ∧
          (t.core g.core).regions = (s.core g.core).regions ∧
          (∀ r ∈ t.pageReqs, ∀ j, (g.lane j).live = true → (gid, j) ∉ r.2.lanes)))

/-- The group's pieces, those of its single lanes too (R71). -/
def inPiece (g : Group) (pid : Nat) : Prop := pid ≠ 0 ∧ (pid ∈ g.pieces ∨ ∃ p ∈ g.lanes, pid ∈ p.2.own)

/-- Storage is the group's and is bound to a core or a cluster (R355). -/
def nearOwn (s : State) (gid : Nat) (g : Group) (l : Launch) (o : Owner) : Prop :=
  (o = .task gid ∧ g.task = true) ∨ ∃ pid x, o = .piece pid ∧ inPiece g pid ∧ s.piece pid = some x ∧ l.domain x.level ≤ 2
/-- Storage is the group's. -/
def anyOwn (gid : Nat) (g : Group) (o : Owner) : Prop := (o = .task gid ∧ g.task = true) ∨ ∃ pid, o = .piece pid ∧ inPiece g pid

/-- A handle is of a core, or of its cluster (R165, R291). -/
def handleOn (h core : Nat) : Prop := if h / 2 ^ 31 = 1 then h / 2 ^ 22 % 512 = core / 4 else h / 2 ^ 22 % 512 = core

/-- The buffer level that both of two cores read through (R289). -/
def sharedLevel (a b : Nat) : Nat := if a = b then 0 else if a / 4 = b / 4 then 2 else if a / 52 = b / 52 then 3 else 4

/-- A group may resume in a context of a core (R65, R81, R82, R289, R355): in the domain instance of its pieces' other groups, wherever
these lie or lay, and where no gang waits for the core. -/
structure MayResume (s : State) (gid : Nat) (g : Group) (l : Launch) (core ctx : Nat) : Prop where
  off : g.resident = false ∧ g.freed = false ∧ s.residentVi g.vi = true ∧ s.leafStopped g.leaf = false
  kept : s.keptFor none core = false
  place : core < 416 ∧ ctx < 64 ∧ (s.part g.leaf).clusters.getLsbD (core / 4) = true ∧ (s.die (core / 52)).relocking = false
  free : ∀ x ∈ s.groups, x.2.freed = false → x.2.resident = true → x.2.core = core → x.2.ctx ≠ ctx
  tiles : ∀ x ∈ s.tiles, nearOwn s gid g l x.2.owner → handleOn x.1 core
  barriers : ∀ x ∈ s.barriers, nearOwn s gid g l x.2.owner → handleOn x.1 core
  engines : core ≠ g.core → (∀ r ∈ (s.core g.core).regions, ¬ anyOwn gid g r.2.owner) ∧
    (∀ z ∈ (s.core g.core).sets, z.2.claim ≠ some gid) ∧ (∀ w ∈ s.waits, w.gid ≠ gid) ∧
    (∀ o ∈ g.ops, (∀ m, o.kind ≠ .matrix m) ∧ ∀ r n c, o.kind ≠ .wbld r n c)
  pieces : ∀ pid x, inPiece g pid → s.piece pid = some x → ∀ o ∈ s.groups, o.1 ≠ gid → inPiece o.2 pid → instanceOf (l.domain x.level) o.2.core = instanceOf (l.domain x.level) core
  writes : ∀ w ∈ s.flight, (w.gid = gid ∧ w.core ≠ none) ∨ w.by_ = gid → w.urn = none → sharedLevel g.core core ≤ w.level

/-- A lane as a restore leaves it (R301, R354): one that a page parked issues its sequence again, and, where the answer was FAIL, is to
trap PAGE then; one that `mwait` parked goes on past it. -/
def resumedLane (l l' : Lane) : Prop :=
  (l.park = .none → l' = l) ∧
  (l.park = .page → let fail := l.fault.getLsbD 36 && l.fault.getLsbD 35
    l' = { l with park := .none, fault := 0, restored := !fail, failing := fail }) ∧
  (l.park = .monitor → l'.park = .none ∧ l'.deadline = none ∧ l'.addr = l.resume)

/-- RESTORE: a group resumes where its storage and its engines are, once what it has written is in what both cores share; its lanes go
on, its sets and assignment operations come back to its engines, and a host call that was answered meanwhile takes effect (R272,
R289, R301, R343, R354, R355). On another core its image is written back first (R351). A gang resumes together (R82); that its
other groups keep their distances is the model's choice (log entry 104). -/
def Restores : Prop :=
  ∀ (s : State) (gid core ctx : Nat) (g : Group) (l : Launch), s.group gid = some g → s.launchOf g = some l →
    (g.resident = false → ∀ t x, exec (.restore gid core ctx) s = .next t → t.group gid = some x → x.resident = true →
      ∀ n y, Mate s g l n → t.group n = some y → y.resident = true) ∧
    (lone g l → ¬ MayResume s gid g l core ctx → exec (.restore gid core ctx) s = .next s) ∧
    (lone g l → MayResume s gid g l core ctx → (g.hostcall.held = true → s.softNext = [] ∧ s.hardNext = []) →
      (tblKeys (s.core g.core).sets).Nodup →
      ∃ t g', exec (.restore gid core ctx) s = .next t ∧ t.group gid = some g' ∧ g'.core = core ∧ g'.ctx = ctx ∧ g'.resident = true ∧
        g'.v = g.v ∧ g'.p = g.p ∧ g'.t = g.t ∧ g'.f = g.f ∧ g'.w = g.w ∧ g'.local_ = g.local_ ∧
        (∀ o ∈ g.ops, o.ended = false → o ∈ g'.ops) ∧
        t.mem = (match g.image with
          | some a => if core = g.core then s.mem else memPut s.mem a (g.imageContents l ++ g.recordBytes)
          | none => s.mem) ∧
        t.tiles = s.tiles ∧ t.flight = s.flight ∧ t.barriers = s.barriers ∧
        (∀ j, j < 32 → (g.lane j).park ≠ .hostcall → resumedLane (g.lane j) (g'.lane j)) ∧
        (∀ r ∈ t.pageReqs, ∀ j, j < 32 → (g.lane j).park = .page → (gid, j) ∉ r.2.lanes) ∧
        (∀ z a b, tblFind (s.core g.core).sets z = some a → a.claim = some gid →
          tblFind (s.part g.leaf).saves (4 * g.core + z) = some b → tblFind (t.core g.core).sets z = some b) ∧
        (∀ o ∈ g.ops, o.ended = false → ((∃ n w a b, o.kind = .assign n w a b) ∨ ∃ d, o.kind = .asnStat d) →
          ∃ n, (n, gid, o.id) ∈ (tblGet t.assignQ {} (core / 4)).ops) ∧
        (g.hostcall.held = false → g'.k = g.k ∧ ∀ j, j < 32 → (g.lane j).park = .hostcall → g'.lane j = g.lane j) ∧
        (∀ bs, g.hostcall.held = true → core = g.core → (s.frontLoad g.leaf g.vi g.launch ((s.vi g.vi).hostcallSlot g.hostcall.seq + 0x38) 8).2 = some bs →
          (∀ n, n < 64 → g'.kGet n = if n = g.hostcall.kd.toNat then BitVec.ofNat 64 (leNat bs) else g.kGet n) ∧
          ∀ j, j < 32 → (g.lane j).park = .hostcall → g.hostcall.lanes.getLsbD j = true → g'.lane j = { g.lane j with park := .none }))

/-- SUSPENDED_COPY_RESUME: once its group is on a core and its request has been answered, a suspended copy starts again from its first
byte and keeps the number of bytes it has credited; one whose request was answered FAIL has ended (R352). -/
def CopiesResume : Prop :=
  ∀ (s : State) (gid op : Nat) (g : Group) (o : Op) (c : CopyOp), s.awake gid = some g → o ∈ g.ops → o.id = op →
    (∀ p ∈ g.ops, p.id = op → p = o) → o.kind.copy? = some c →
    let put (f : CopyOp → CopyOp) : State := { s with groups := tblSet s.groups gid { g with
      ops := g.ops.map (fun p => if p.id = op then { p with kind := p.kind.setCopy f } else p) } }
    let works : Prop := o.ended = false ∧ g.resident = true ∧ c.suspended = true ∧ s.pageHeld gid op = false
    (¬ works → exec (.suspendedCopyResume gid op) s = .next s) ∧
    (works → c.ended = false → exec (.suspendedCopyResume gid op) s = .next (put (fun c => { c with
      suspended := false, answered := false, pageTag := none, done := [], writes := [], data := [], asked := [], acked := 0 }))) ∧
    (works → c.ended = true → exec (.suspendedCopyResume gid op) s = .next (put (fun c => { c with suspended := false, answered := false })))

/-! ### Migration (R357 to R359) -/

/-- A phase of a migration is entered; where the host approves phases, it is asked (R66, R358). -/
def Enters (s t : State) (leaf : Nat) (m : Migration) (ph : MigPhase) : Prop :=
  if (s.part leaf).modes.getLsbD 4 = true then
    Asked { s with migrations := tblSet s.migrations leaf { m with phase := ph, approved := false } } t leaf 4 []
  else t = { s with migrations := tblSet s.migrations leaf { m with phase := ph, approved := true } }

/-- A ticket lets the leaf migrate (R357). -/
def validTicket (s : State) (leaf : Nat) (t : Ticket) : Prop := t.leaf = leaf ∧ t.used = false ∧ s.time < t.made + 10000000000

/-- The leaf has stopped (R358): its groups are off their cores, their urn operations done, what they wrote has performed at SYSTEM,
and every Blend session of the leaf has ended. -/
def Still (s : State) (leaf : Nat) : Prop :=
  (∀ x ∈ s.groups, x.2.leaf = leaf → x.2.freed = true ∨ (x.2.resident = false ∧ ∀ o ∈ x.2.ops, o.cls ≠ .ur)) ∧
  (∀ w ∈ s.flight, s.writeLeaf w ≠ some leaf) ∧ ∀ x ∈ s.sessions, x.2.leaf = leaf → x.2.ended = true

/-- Packets of a leaf leave in order, as far as its fabric budget allows; from the first that does not, they wait (R62, R314). -/
def Sent (s t : State) (leaf : Nat) (ps : List FabPacket) : Prop :=
  (∀ k, { t.part k with used := [] } = { s.part k with used := [] }) ∧
  ∃ n, t.outbox = s.outbox ++ ps.take n ∧ t.outwait = s.outwait ++ (ps.drop n).map (fun p => (leaf, .packet p)) ∧
    (s.exhausted leaf 2 = true ∨ (∃ w ∈ s.outwait, w.1 = leaf) → n = 0) ∧
    (s.limited leaf 2 = false → (∀ w ∈ s.outwait, w.1 ≠ leaf) → ps.length ≤ n)

/-- The packets that carry bytes of a part of a leaf to its target, 256 at a time (R358; how they are laid out is the model's choice,
log entry 107). -/
def carrying (s : State) (leaf : Nat) (m : Migration) (part_ at_ : Nat) (bs : List Byte) : List FabPacket :=
  (List.range ((bs.length + 255) / 256)).map (fun i =>
    { src := s.dpkg, srcLeaf := leaf, dst := m.dst, gid := 0, op := 0,
      body := .carry m.target part_ (at_ + 256 * i) ((bs.drop (256 * i)).take 256) })

/-- The packets that carry the state of a leaf, with the one that ends it. -/
def carryingState (s : State) (leaf : Nat) (m : Migration) (x : LeafState) : List FabPacket :=
  carrying s leaf m 1 0 (Config.leafBytes x) ++
    [{ src := s.dpkg, srcLeaf := leaf, dst := m.dst, gid := 0, op := 0,
       body := .carry m.target 2 (Config.leafBytes x).length [] }]

/-- A group of the leaf is off its core. -/
def leafOff (s : State) (leaf : Nat) : Prop := ∀ x ∈ s.groups, x.2.leaf = leaf → x.2.freed = true ∨ x.2.resident = false

/-- Root launches of a leaf. -/
def rootsIn (s : State) (leaf : Nat) : List Nat := (s.launches.filter (fun x => x.2.leaf == leaf && x.2.parent.isNone)).map (·.1)

/-- The work of some launches, and of all below them, is gone, with the leaf's translations and page requests; nothing else is. -/
structure WorkGone (s t : State) (leaf : Nat) (roots : List Nat) : Prop where
  below : ∀ lid, UnderAny s roots lid → lid ∉ roots → t.launch lid = none
  others : ∀ lid l, s.launch lid = some l → ¬ UnderAny s roots lid → t.launch lid = some l
  groups : ∀ x, x ∈ t.groups ↔ x ∈ s.groups ∧ ¬ UnderAny s roots x.2.launch
  pieces : ∀ x, x ∈ t.pieces ↔ x ∈ s.pieces ∧ ¬ UnderAny s roots x.2.launch
  tlb : ∀ e, e ∈ t.tlb ↔ e ∈ s.tlb ∧ e.leaf ≠ leaf
  reqs : (∀ r ∈ t.pageReqs, r.2.leaf ≠ leaf) ∧ ∀ r ∈ s.pageReqs, r.2.leaf ≠ leaf → (r.2.lanes ≠ [] ∨ r.2.ops ≠ []) →
    (∀ p ∈ r.2.lanes ++ r.2.ops, ∀ g, s.group p.1 = some g → ¬ UnderAny s roots g.launch) → r ∈ t.pageReqs
  parts : ∀ k, k ≠ leaf → t.part k = s.part k

/-- The leaf is free at its source: its launches are gone, none of them complete, and no event bit is set (R358). -/
structure GivenUp (s t : State) (leaf : Nat) : Prop where
  work : WorkGone s t leaf (rootsIn s leaf)
  roots : ∀ lid, lid ∈ rootsIn s leaf → t.launch lid = none
  migration : t.migrations = tblErase s.migrations leaf
  events : ∀ v, (t.vi v).ev = (s.vi v).ev ∧ (t.vi v).queues = (s.vi v).queues
  slots : ∀ v ∈ (s.part leaf).vis, (t.vi v).slots = []

/-- The cut of a leaf, begun or begun again: every other package that holds a slice of the partition takes part (R359; which do is a
free value, log entry 101). -/
def cutOf (s : State) (leaf drops : Nat) (markers : List Nat) : Migration :=
  { phase := .cutStop
    approved := true
    involved := (Config.partPackages (leaf / 16 * 16)).filter (fun d => d != s.dpkg)
    markers := markers
    drops := drops }
def cutBegun (s : State) (leaf drops : Nat) (markers : List Nat) : State :=
  { s with migrations := tblSet s.migrations leaf (cutOf s leaf drops markers) }

/-- A piece of the leaf is bound to POD (R359). -/
def spansPod (s : State) (leaf : Nat) : Prop :=
  ∃ p ∈ s.pieces, ∃ l, s.launch p.2.launch = some l ∧ l.leaf = leaf ∧ l.domain p.2.level = 5

/-- MIGRATION_PHASE: a migration begins with its ticket, and with it every stage-2 page belongs to the snapshot and what clusters hold
is to be dropped; it goes through its phases, each when the one before has done its work: STREAM sends each page as it was, DELTA
the pages written since and the state of the leaf; at COMMIT the leaf is free at its source. A leaf with a checkpoint is restored
from it (R177, R357 to R359). How the state is written down is a free value (log entry 107). -/
def Phases : Prop :=
  ∀ (s : State) (leaf : Nat),
    (tblFind s.migrations leaf = none →
      ((¬ isLeafPart s leaf ∨ (s.part leaf).drain ≠ 0 ∨ ∀ x ∈ s.mgmt.tickets, ¬ validTicket s leaf x.2) →
        exec (.migrationPhase leaf) s = .next s) ∧
      (∀ n k, isLeafPart s leaf → (s.part leaf).drain = 0 → (n, k) ∈ s.mgmt.tickets → validTicket s leaf k →
        (∀ x ∈ s.mgmt.tickets, validTicket s leaf x.2 → x = (n, k)) →
        let u : State := { s with mgmt := { s.mgmt with tickets := tblSet s.mgmt.tickets n { k with used := true } } }
        let m : Migration := { phase := .snapshot, approved := true, dst := k.dpkg, target := k.target }
        ∃ t, exec (.migrationPhase leaf) s = .next t ∧
          (tblFind s.mgmt.checkpoints leaf = none → ∃ ps, (∀ p, p ∈ ps ↔ p ∈ s.leafPages leaf) ∧
            Enters { u with
              nextId := s.nextId + 1
              invals := tblSet s.invals s.nextId { gid := none
                                                   op := 0
                                                   leaf := leaf
                                                   vi := 0
                                                   stage1 := false
                                                   stage2 := true
                                                   size := 0
                                                   page := 0
                                                   reached := []
                                                   writes := []
                                                   loads := [] } } t leaf { m with pages := ps, send := ps } .snapshot) ∧
          (∀ c, tblFind s.mgmt.checkpoints leaf = some c →
            Enters u t leaf { m with stopped := s.time, from_ := some c } .delta))) ∧
    (∀ m, tblFind s.migrations leaf = some m →
      let late : Prop := m.stopped + 200000000 < s.time
      let waits : Prop := ∃ w ∈ s.outwait, w.1 = leaf
      let now (f : Migration) : State := { s with migrations := tblSet s.migrations leaf f }
      (m.approved = false ∨ m.phase = .checkpoint ∨ (m.phase = .stop ∧ ¬ Still s leaf) ∨
          (m.phase = .delta ∧ ¬ late ∧ m.sent = true ∧ waits) →
        exec (.migrationPhase leaf) s = .next s) ∧
      (m.approved = true → m.phase = .delta → late → exec (.migrationPhase leaf) s = exec (.migrationFailure leaf) s) ∧
      (m.approved = true → m.phase = .stream → ∀ p rest, m.send = p :: rest → m.dst ≠ s.dpkg →
        ∃ t, exec (.migrationPhase leaf) s = .next t ∧
          Sent s t leaf (carrying s leaf m 0 p.1 (match tblFind m.kept p.2 with
            | some bs => bs
            | none => (List.range 4096).map (fun i => (s.readByte hub (.sys (p.2 + i))).1)) ) ∧
          { t with outbox := s.outbox, outwait := s.outwait, parts := s.parts } =
            now { m with send := m.send.erase p, kept := tblErase m.kept p.2 }) ∧
      (m.approved = true → m.phase = .delta → ¬ late → m.sent = false → m.dst ≠ s.dpkg →
        ∃ t, exec (.migrationPhase leaf) s = .next t ∧
          { t with outbox := s.outbox, outwait := s.outwait, parts := s.parts } = now { m with sent := true } ∧
          (m.from_ = none → Sent s t leaf ((m.pages.filter (fun p => m.dirty.contains p.2)).flatMap (fun p =>
              carrying s leaf m 0 p.1 ((List.range 4096).map (fun i => (s.readByte hub (.sys (p.2 + i))).1))) ++
            carryingState s leaf m (s.leafState leaf))) ∧
          (∀ a n x ps, m.from_ = some (a, n) → hostBase + a + n ≤ 2 ^ 48 →
            Config.checkpointRead ((List.range n).map (fun i => tblGet s.mem 0 (hostBase + a + i))) = some (x, ps) →
            Sent s t leaf (ps.flatMap (fun p => carrying s leaf m 0 p.1 p.2) ++ carryingState s leaf m x))) ∧
      (m.approved = true →
        (m.phase = .snapshot → ∃ t, exec (.migrationPhase leaf) s = .next t ∧ Enters s t leaf m .stream) ∧
        (m.phase = .stream → m.send = [] → ∃ t, exec (.migrationPhase leaf) s = .next t ∧ Enters s t leaf { m with stopped := s.time } .stop) ∧
        (m.phase = .stop → Still s leaf → ∃ t, exec (.migrationPhase leaf) s = .next t ∧ Enters s t leaf m .delta) ∧
        (m.phase = .delta → ¬ late → m.sent = true → ¬ waits → ∃ t, exec (.migrationPhase leaf) s = .next t ∧ Enters s t leaf m .commit) ∧
        (m.phase = .commit → (s.launches.map (·.1)).Nodup → (s.groups.map (·.1)).Nodup →
          ∃ t, exec (.migrationPhase leaf) s = .next t ∧ GivenUp s t leaf ∧ t.mem = s.mem ∧
            t.mgmt = { s.mgmt with checkpoints := tblErase s.mgmt.checkpoints leaf })))

/-- The cut of a leaf over several packages: each stops the leaf and sends its marker to every other, and is drained once it has the
marker of every other and has stopped; its state then goes to the host's memory with its pages, and the leaf is free (R359). -/
def Cuts : Prop :=
  ∀ (s : State) (leaf : Nat) (m : Migration), tblFind s.migrations leaf = some m → m.approved = true →
    (m.phase = .cutStop →
      (¬ leafOff s leaf → exec (.migrationPhase leaf) s = .next s) ∧
      (leafOff s leaf → (∀ d ∈ m.involved, d ≠ s.dpkg) → ∃ t, exec (.migrationPhase leaf) s = .next t ∧
        Sent s t leaf (m.involved.map (fun d => { src := s.dpkg, srcLeaf := leaf, dst := d, gid := 0, op := 0, body := .marker })) ∧
        tblFind t.migrations leaf = some { m with phase := .cutDrain, sent := true } ∧
        { t with outbox := s.outbox, outwait := s.outwait, migrations := s.migrations, parts := s.parts } = s)) ∧
    (m.phase = .cutDrain →
      let drained : Prop := (∀ d ∈ m.involved, d ∈ m.markers) ∧ Still s leaf
      (¬ drained → exec (.migrationPhase leaf) s = .next s) ∧
      (drained → exec (.migrationPhase leaf) s = .next { s with migrations := tblSet s.migrations leaf { m with phase := .checkpoint } })) ∧
    (∀ addr : BitVec 48, (m.phase ≠ .checkpoint → exec (.checkpointWrite leaf addr) s = .next s) ∧
      (m.phase = .checkpoint → (s.launches.map (·.1)).Nodup → (s.groups.map (·.1)).Nodup →
        let b := Config.checkpointBytes (s.leafState leaf) ((s.leafPages leaf).map (fun p =>
          (p.1, (List.range 4096).map (fun i => (s.readByte hub (.sys (p.2 + i))).1))))
        let u := if hostBase + addr.toNat + b.length ≤ 2 ^ 48 then hostWritten s addr.toNat b else s
        ∃ t, exec (.checkpointWrite leaf addr) s = .next t ∧ GivenUp u t leaf ∧ t.mem = u.mem ∧
          t.mgmt = { s.mgmt with checkpoints := tblSet s.mgmt.checkpoints leaf (addr.toNat, b.length) }))

/-- MIGRATION_FAILURE and CUT_MARKER_ARRIVAL: before COMMIT the leaf goes on as it is, or takes the cut where it spans packages; a drop
in a cut repeats it once, and a second ends its launches with ABORTED, PARTIAL and COLLINC; a marker is counted, or begins the
cut here (R52, R359). -/
def MigrationFails : Prop :=
  ∀ (s : State) (leaf : Nat),
    (tblFind s.migrations leaf = none → exec (.migrationFailure leaf) s = .next s) ∧
    (∀ m, tblFind s.migrations leaf = some m →
      let inCut : Prop := m.phase = .cutStop ∨ m.phase = .cutDrain ∨ m.phase = .checkpoint
      let on : State := { s with migrations := tblErase s.migrations leaf }
      (m.phase = .commit → exec (.migrationFailure leaf) s = .next s) ∧
      (¬ inCut → m.phase ≠ .commit → ¬ spansPod s leaf → exec (.migrationFailure leaf) s = .next on) ∧
      (¬ inCut → m.phase ≠ .commit → spansPod s leaf → exec (.migrationFailure leaf) s = .next (cutBegun on leaf 0 [])) ∧
      (inCut → m.drops = 0 → exec (.migrationFailure leaf) s = .next (cutBegun s leaf 1 [])) ∧
      (inCut → m.drops ≠ 0 → (s.launches.map (·.1)).Nodup → (s.groups.map (·.1)).Nodup →
        let roots := (s.launches.filter (fun x => x.2.leaf == leaf && x.2.parent.isNone && x.2.phase != .completing &&
          x.2.phase != .completed)).map (·.1)
        ∃ t, exec (.migrationFailure leaf) s = .next t ∧ t.migrations = tblErase s.migrations leaf ∧ WorkGone s t leaf roots ∧
          t.mem = s.mem ∧
          ∀ lid l, lid ∈ roots → s.launch lid = some l → ∃ l', t.launch lid = some l' ∧ l'.phase = .completing ∧ l'.step = 4 ∧
            l'.error = (if l.error ≠ 0 then l.error else 0x305) ∧ l'.flags = l.flags ||| 67 ∧ l'.end_ = s.time)) ∧
    (∀ d, (tblFind s.migrations leaf = none →
        (isLeafPart s leaf → exec (.cutMarkerArrival leaf d) s = .next (cutBegun s leaf 0 [d])) ∧
        (¬ isLeafPart s leaf → exec (.cutMarkerArrival leaf d) s = .next s)) ∧
      ∀ m, tblFind s.migrations leaf = some m →
        ((m.phase = .cutStop ∨ m.phase = .cutDrain) → exec (.cutMarkerArrival leaf d) s = .next { s with
          migrations := tblSet s.migrations leaf { m with markers := m.markers ++ [d] } }) ∧
        (m.phase = .checkpoint → exec (.cutMarkerArrival leaf d) s = .next s) ∧
        (m.phase ≠ .cutStop → m.phase ≠ .cutDrain → m.phase ≠ .checkpoint →
          exec (.cutMarkerArrival leaf d) s = .next (cutBegun s leaf 0 [d])))

/-- What a migration brings is taken in only for a leaf whose ticket has been taken, from its source: bytes of its guest pages, bytes of
its state, and at the end its state, whose launches, groups and queues go on under numbers of this device, with the START and END
they had, every group off its core and every watchdog with the time left to it (R355, R358). How the state is written down is a free
value, and how it is renumbered the model's choice (log entry 107). -/
def Arrives : Prop :=
  ∀ (s : State) (pid : Nat) (p : FabPacket) (leaf part_ at_ : Nat) (data : List Byte),
    tblFind s.inbox pid = some p → p.body = .carry leaf part_ at_ data →
    let u : State := { s with inbox := tblErase s.inbox pid }
    (tblFind s.mgmt.expected leaf ≠ some (p.src, p.srcLeaf) → exec (.remoteAccessApply pid) s = .next u) ∧
    (tblFind s.mgmt.expected leaf = some (p.src, p.srcLeaf) →
      (∀ a es, part_ = 0 → s.stage2 ⟨leaf, 0, none, .supervisor⟩ { w := true } at_ = .ok (a, es) →
        exec (.remoteAccessApply pid) s = .next { u with mem := memPut s.mem a data, groups := watched s (watches a data.length) }) ∧
      (part_ = 1 → ∃ got, exec (.remoteAccessApply pid) s = .next { u with
          mgmt := { s.mgmt with incoming := tblSet s.mgmt.incoming leaf got } } ∧
        ∀ i, tblGet got 0 i = if at_ ≤ i ∧ i < at_ + data.length then data.getD (i - at_) 0
          else tblGet (tblGet s.mgmt.incoming [] leaf) 0 i) ∧
      (∀ x, 2 ≤ part_ →
        Config.leafRead ((List.range at_).map (fun i => tblGet (tblGet s.mgmt.incoming [] leaf) 0 i)) = some x →
        (x.launches.map (·.1)).Nodup → (x.groups.map (·.1)).Nodup →
        ∃ t, exec (.remoteAccessApply pid) s = .next t ∧ t.mem = s.mem ∧ t.time = s.time ∧ t.inbox = u.inbox ∧
          t.mgmt = { s.mgmt with incoming := tblErase s.mgmt.incoming leaf, expected := tblErase s.mgmt.expected leaf } ∧
          (∀ lid l, (lid, l) ∈ x.launches → ∃ l', t.launch (lid + s.nextId) = some l' ∧ l'.leaf = leaf ∧ l'.start = l.start ∧
            l'.end_ = l.end_ ∧ l'.phase = l.phase ∧ l'.step = l.step ∧ l'.error = l.error ∧ l'.flags = l.flags) ∧
          (∀ gid g, (gid, g) ∈ x.groups → ∃ g', t.group (gid + s.nextId) = some g' ∧ g'.leaf = leaf ∧ g'.resident = false ∧
            g'.launch = g.launch + s.nextId ∧ g'.core = g.core ∧ g'.ctx = g.ctx ∧ g'.freed = g.freed ∧
            ∀ n, g'.lane n = { g.lane n with own := (g'.lane n).own, exitWrites := (g'.lane n).exitWrites }) ∧
          (∀ lid, (∀ k ∈ x.launches, lid ≠ k.1 + s.nextId) → t.launch lid = s.launch lid) ∧
          (∀ gid, (∀ k ∈ x.groups, gid ≠ k.1 + s.nextId) → t.group gid = s.group gid)))

end Sys2Proof.Spec

/-- Translation, page requests, pre-emption and migration (R176 to R179, R257, R258, R289, R338 to R340, R351 to R359). The
model's readings are, beside that of log entry 28, the order of waiting faults (DEDUCED, log entry 29), when a group may leave
its core and where it may be restored (63 and 65), what RECOMP restarts (64), a monitor and answers across a pre-emption (66),
corners of the fallback cut (78), the pre-emption of a gang as a whole (79) and the access code of a table page's request (80);
its choices are the free values and places of log entries 101, 103, 104 and 107 (DESIGN CHOICE). -/
def Obligations.TranslationAndMoves : Prop :=
  Sys2Proof.Spec.Walks ∧ Sys2Proof.Spec.InvalidationReaches ∧ Sys2Proof.Spec.InvalidationEnds ∧ Sys2Proof.Spec.PageRequests ∧
  Sys2Proof.Spec.Eligible ∧ Sys2Proof.Spec.Preempts ∧ Sys2Proof.Spec.Restores ∧ Sys2Proof.Spec.CopiesResume ∧ Sys2Proof.Spec.Phases ∧ Sys2Proof.Spec.Cuts ∧
  Sys2Proof.Spec.MigrationFails ∧ Sys2Proof.Spec.Arrives

namespace Sys2Proof.Spec

/-! ### Clocks, power and boot (R67, R313, R325, R326, R383 to R385) -/

/-- One die changed. -/
def putDie (s : State) (n : Nat) (d : Die) : State := { s with dies := tblSet s.dies n d }

/-- Cycles since a die last started (R325). -/
def cyclesSince (d : Die) (now : Nat) : Nat := if d.relocking then 0 else (now - d.since) * d.mhz / 1000

/-- A die whose clock has stopped: its counts stay at what they read (R325, R326). -/
def clockStopped (d : Die) (now : Nat) : Die :=
  { d with
    cyc0 := d.cyc0 + BitVec.ofNat 64 (cyclesSince d now)
    base := d.base + BitVec.ofNat 64 (cyclesSince d now * d.ratio / 2 ^ 24)
    since := now
    relocking := true }

/-- A die whose next step begins: it relocks for 8 µs to a new clock (R326); the package's last step is now (R383). -/
def relocks (s : State) (n : Nat) (d : Die) (x : Int × Bool) (rest : List (Int × Bool)) : State :=
  putDie { s with mgmt := { s.mgmt with lastStep := s.time } } n
    { clockStopped d s.time with mhz := (d.mhz + x.1).toNat, relockEnd := s.time + 8000, stepWaits := rest }

/-- The step that a die takes next: the first ordered at once, else the first, 100 µs after the package's last step (R383). -/
def takesNext (s : State) (d : Die) (x : Int × Bool) (rest : List (Int × Bool)) : Prop :=
  (∃ a b, d.stepWaits = a ++ x :: b ∧ rest = a ++ b ∧ x.2 = true ∧ ∀ y ∈ a, y.2 = false) ∨
  (d.stepWaits = x :: rest ∧ (∀ y ∈ d.stepWaits, y.2 = false) ∧ s.mgmt.lastStep + 100000 ≤ s.time)
def takesNone (s : State) (d : Die) : Prop :=
  (∀ y ∈ d.stepWaits, y.2 = false) ∧ (d.stepWaits = [] ∨ s.time < s.mgmt.lastStep + 100000)

/-- `q` is 1.8 GHz over a clock, times 2^24, rounded to nearest, a tie to even (R325). -/
def isRatio (mhz q : Nat) : Prop :=
  (2 * (q * mhz) ≤ 2 * (1800 * 2 ^ 24) + mhz ∧ 2 * (1800 * 2 ^ 24) ≤ 2 * (q * mhz) + mhz) ∧
    ((2 * (q * mhz) = 2 * (1800 * 2 ^ 24) + mhz ∨ 2 * (1800 * 2 ^ 24) = 2 * (q * mhz) + mhz) → q % 2 = 0)

/-- FREQUENCY_STEP and RELOCK_END (R325, R326, R383). -/
def ClockSteps : Prop :=
  ∀ (s : State) (n : Nat), let d := s.die n
    ((8 ≤ n ∨ d.relocking = true ∨ takesNone s d) → exec (.frequencyStep n) s = .next s) ∧
    (∀ x rest, n < 8 → d.relocking = false → takesNext s d x rest → exec (.frequencyStep n) s = .next (relocks s n d x rest)) ∧
    ((8 ≤ n ∨ d.relocking = false ∨ d.tripped = true ∨ s.time < d.relockEnd) → exec (.relockEnd n) s = .next s) ∧
    (n < 8 → d.relocking = true → d.tripped = false → d.relockEnd ≤ s.time → 600 ≤ d.mhz →
      ∃ q, isRatio d.mhz q ∧
        let d1 := { d with since := s.time, relocking := false, ratio := q }
        (takesNone s d → exec (.relockEnd n) s = .next (putDie s n d1)) ∧
        (∀ x rest, takesNext s d x rest → exec (.relockEnd n) s = .next (relocks s n d1 x rest)))

/-- The clock a die runs at once the steps ordered for it are done. -/
def dueClock (s : State) (n : Nat) : Nat := ((s.die n).mhz + ((s.die n).stepWaits.map (·.1)).sum : Int).toNat

/-- The lowest-numbered of the dies with the highest clock; and of those below their targets, the one with the lowest (R383). -/
def fastest (s : State) (n : Nat) : Prop :=
  n < 8 ∧ (∀ k, k < 8 → dueClock s k ≤ dueClock s n) ∧ ∀ k, k < n → dueClock s k < dueClock s n
def slowest (s : State) (n : Nat) : Prop :=
  (n < 8 ∧ dueClock s n < (s.die n).target) ∧ ∀ k, k < 8 → dueClock s k < (s.die k).target →
    dueClock s n ≤ dueClock s k ∧ (k < n → dueClock s n < dueClock s k)

/-- A step down by 100 MHz is ordered for a die, and one up; none that leaves 0.6 to 2.0 GHz (R383). -/
def Slowed (s t : State) (n : Nat) (hot : Bool) : Prop :=
  (700 ≤ dueClock s n → t = putDie s n { s.die n with stepWaits := (s.die n).stepWaits ++ [(-100, hot)] }) ∧ (dueClock s n < 700 → t = s)
def Hastened (s t : State) (n : Nat) : Prop :=
  (dueClock s n ≤ 1900 → t = putDie s n { s.die n with stepWaits := (s.die n).stepWaits ++ [(100, false)] }) ∧ (1900 < dueClock s n → t = s)

/-- POWER_SAMPLE: samples are 100 µs apart. A mean of the last ten over PLIMIT orders a step down of the fastest die; one that has
stayed under PLIMIT − 50 W for 10 ms orders a step up of the slowest die below its target (R383). -/
def PowerSamples : Prop :=
  ∀ (s : State) (w : Nat) (ws : List Nat) (low : Option Nat) (s1 : State),
    ws = ((s.mgmt.watts ++ [w]).reverse.take 10).reverse →
    low = (if 10 ≤ ws.length ∧ ws.sum < (s.mgmt.plimit - 50) * ws.length then some (s.mgmt.lowSince.getD s.time) else none) →
    s1 = { s with mgmt := { s.mgmt with watts := ws, lowSince := low, sampled := some s.time } } →
    let early : Prop := ∃ t0, s.mgmt.sampled = some t0 ∧ s.time < t0 + 100000
    let above : Prop := 10 ≤ ws.length ∧ s.mgmt.plimit * ws.length < ws.sum
    let long : Prop := ∃ t0, low = some t0 ∧ t0 + 10000000 ≤ s.time
    (early → exec (.powerSample w) s = .next s) ∧
    (¬ early → ¬ above → ¬ long → exec (.powerSample w) s = .next s1) ∧
    (¬ early → above → ∀ n, fastest s n → ∃ t, exec (.powerSample w) s = .next t ∧ Slowed s1 t n false) ∧
    (¬ early → ¬ above → long →
      let s2 : State := { s1 with mgmt := { s1.mgmt with lowSince := some s.time } }
      (∀ n, slowest s n → (∀ k, k < 8 → dueClock s k ≤ 2000) → ∃ t, exec (.powerSample w) s = .next t ∧ Hastened s2 t n) ∧
      ((∀ k, k < 8 → (s.die k).target ≤ dueClock s k) → exec (.powerSample w) s = .next s2))

/-- JUNCTION_HOT: at 105 °C a die goes down by 100 MHz at once, whatever the spacing, or after the relock it is in (R383). -/
def HotJunction : Prop :=
  ∀ (s : State) (n : Nat), let d := s.die n
    let waits := d.stepWaits ++ [((-100 : Int), true)]
    (8 ≤ n → exec (.junctionHot n) s = .next s) ∧
    (n < 8 → 700 ≤ dueClock s n →
      (d.relocking = true → exec (.junctionHot n) s = .next (putDie s n { d with stepWaits := waits })) ∧
      (d.relocking = false → (∀ y ∈ d.stepWaits, y.2 = false) →
        exec (.junctionHot n) s = .next (relocks s n { d with stepWaits := waits } (-100, true) d.stepWaits))) ∧
    (n < 8 → dueClock s n < 700 → (d.relocking = true ∨ takesNone s d) → exec (.junctionHot n) s = .next s)

/-- THERMAL_TRIP: at 115 °C every die stops, every launch that is not complete ends with ABORTED, ERR and PARTIAL, and the device is in
recovery (R383). -/
def Trips : Prop :=
  ∀ (s : State) (n : Nat),
    (8 ≤ n → exec (.thermalTrip n) s = .next s) ∧
    (n < 8 → (s.launches.map (·.1)).Nodup → (s.groups.map (·.1)).Nodup →
      let roots := (s.launches.filter (fun x => x.2.parent.isNone && x.2.phase != .completing && x.2.phase != .completed)).map (·.1)
      ∃ t, exec (.thermalTrip n) s = .next t ∧ t.mem = s.mem ∧ t.mgmt.recovery = true ∧ t.mgmt.ready = false ∧
        (∀ k, k < 8 → (t.die k).relocking = true ∧ (t.die k).tripped = true ∧ (t.die k).stepWaits = [] ∧
          (t.die k).cyc s.time = (s.die k).cyc s.time ∧ (t.die k).cycs s.time = (s.die k).cycs s.time) ∧
        (∀ x ∈ t.groups, ¬ UnderAny s roots x.2.launch) ∧
        ∀ lid l, lid ∈ roots → s.launch lid = some l → ∃ l', t.launch lid = some l' ∧ l'.phase = .completing ∧ l'.step = 4 ∧
          l'.error = (if l.error ≠ 0 then l.error else 0x305) ∧ l'.flags = l.flags ||| 3 ∧ l'.end_ = s.time)

/-- RESET: everything takes its value at reset, but memory, routes, and the fuses and the flash; the reference timer is at 0 and the
dies at 1.8 GHz (R384). -/
def Resets : Prop :=
  ∀ (s : State), ∃ t, exec .reset s = .next t ∧ t.time = 0 ∧ t.mem = s.mem ∧ t.poisoned = s.poisoned ∧ t.dpkg = s.dpkg ∧
    t.routes = s.routes ∧ t.mgmt = { rollback := s.mgmt.rollback, keyHash := s.mgmt.keyHash, flash := s.mgmt.flash } ∧
    (∀ n, t.die n = {}) ∧
    { t with
      agenda := [], stamp := 0, nextId := 1, drawn := 0, mem := [], poisoned := [], softNext := [], hardNext := [], dpkg := 0
      routes := [], dies := [], mgmt := {} } = State.reset

/-- Channels and links that fail are left out and counted, the routes are loaded, and the device is ready (R314, R384 steps 4 and 5).
Which fail, and the routes, the model leaves free (log entries 97 and 101). -/
def readied (s : State) : State :=
  { s with
      drawn := s.drawn + 1
      channelsOut := Config.failedChannels s.drawn
      cxlDown := Config.failedPorts s.drawn
      routes := Config.routeTable
      portInter := Config.interPodPorts
      mgmt := { s.mgmt with
        ready := true
        trainFails := (Config.failedChannels s.drawn).length + (Config.failedPorts s.drawn).length + Config.failedLinks s.drawn } }

/-- BOOT_READY: the image that the flash holds verifies and runs, and the device is ready; where it does not verify, the device is in
recovery (R67, R384, R385; what the flash holds from manufacture the model leaves free, log entry 97). CXL_LINK_DOWN: a port's range
is gone while its link is down (R313). -/
def BootsAndLinks : Prop :=
  ∀ (s : State),
    ((s.mgmt.ready = true ∨ s.mgmt.recovery = true) → exec .bootReady s = .next s) ∧
    (s.mgmt.ready = false → s.mgmt.recovery = false →
      (s.mgmt.digest ≠ [] → exec .bootReady s = .next (readied s)) ∧
      (∀ img, img = s.mgmt.flash.getD Config.flashImage → s.mgmt.digest = [] →
        (¬ ImageOk s.mgmt img → exec .bootReady s = .next { s with mgmt := { s.mgmt with recovery := true } }) ∧
        (ImageOk s.mgmt img → exec .bootReady s = .next (readied { s with
          mgmt := { s.mgmt with version := BitVec.ofNat 32 (fieldAt img 4 4), digest := (img.drop 16).take 32 } })))) ∧
    (∀ p, (p < 4 → p ∉ s.cxlDown → exec (.cxlLinkDown p) s = .next { s with cxlDown := p :: s.cxlDown }) ∧
      ((4 ≤ p ∨ p ∈ s.cxlDown) → exec (.cxlLinkDown p) s = .next s))

end Sys2Proof.Spec

/-- Clocks, power, links, reset and boot (R67, R313, R325, R326, R383 to R385). The model's readings are details of the power
loop and what a thermal trip stops (DEDUCED, log entries 72 and 73), what a reset keeps (74), and which addresses a CXL port
serves and that none comes back (83 and 84); its choices are the cycle counts and plain registers at reset, the contents of
flash and fuses, what fails in training, and the routes (DESIGN CHOICE, log entries 6, 7, 97 and 101). -/
def Obligations.Board : Prop :=
  Sys2Proof.Spec.ClockSteps ∧ Sys2Proof.Spec.PowerSamples ∧ Sys2Proof.Spec.HotJunction ∧ Sys2Proof.Spec.Trips ∧
  Sys2Proof.Spec.Resets ∧ Sys2Proof.Spec.BootsAndLinks
end

