-- ==== Sys2Proof/Laws/State.lean ====
section
/-!
SUPPORT. What the updates of the state, of a group and of a lane leave alone: one lemma for each field of each update.
-/

namespace Sys2Proof.Machine
open Sys2Proof

@[simp] theorem State.modGroup_time (s : State) (gid : Nat) (f : Group → Group) : (s.modGroup gid f).time = s.time := rfl
@[simp] theorem State.modGroup_agenda (s : State) (gid : Nat) (f : Group → Group) : (s.modGroup gid f).agenda = s.agenda := rfl
@[simp] theorem State.modGroup_issue (s : State) (gid : Nat) (f : Group → Group) : (s.modGroup gid f).issue = s.issue := rfl
@[simp] theorem State.modGroup_stamp (s : State) (gid : Nat) (f : Group → Group) : (s.modGroup gid f).stamp = s.stamp := rfl
@[simp] theorem State.modGroup_nextId (s : State) (gid : Nat) (f : Group → Group) : (s.modGroup gid f).nextId = s.nextId := rfl
@[simp] theorem State.modGroup_drawn (s : State) (gid : Nat) (f : Group → Group) : (s.modGroup gid f).drawn = s.drawn := rfl
@[simp] theorem State.modGroup_flight (s : State) (gid : Nat) (f : Group → Group) : (s.modGroup gid f).flight = s.flight := rfl
@[simp] theorem State.modGroup_mem (s : State) (gid : Nat) (f : Group → Group) : (s.modGroup gid f).mem = s.mem := rfl
@[simp] theorem State.modGroup_poisoned (s : State) (gid : Nat) (f : Group → Group) : (s.modGroup gid f).poisoned = s.poisoned := rfl
@[simp] theorem State.modGroup_healing (s : State) (gid : Nat) (f : Group → Group) : (s.modGroup gid f).healing = s.healing := rfl
@[simp] theorem State.modGroup_softNext (s : State) (gid : Nat) (f : Group → Group) : (s.modGroup gid f).softNext = s.softNext := rfl
@[simp] theorem State.modGroup_hardNext (s : State) (gid : Nat) (f : Group → Group) : (s.modGroup gid f).hardNext = s.hardNext := rfl
@[simp] theorem State.modGroup_tiles (s : State) (gid : Nat) (f : Group → Group) : (s.modGroup gid f).tiles = s.tiles := rfl
@[simp] theorem State.modGroup_barriers (s : State) (gid : Nat) (f : Group → Group) : (s.modGroup gid f).barriers = s.barriers := rfl
@[simp] theorem State.modGroup_runs (s : State) (gid : Nat) (f : Group → Group) : (s.modGroup gid f).runs = s.runs := rfl
@[simp] theorem State.modGroup_changes (s : State) (gid : Nat) (f : Group → Group) : (s.modGroup gid f).changes = s.changes := rfl
@[simp] theorem State.modGroup_mirrors (s : State) (gid : Nat) (f : Group → Group) : (s.modGroup gid f).mirrors = s.mirrors := rfl
@[simp] theorem State.modGroup_phases (s : State) (gid : Nat) (f : Group → Group) : (s.modGroup gid f).phases = s.phases := rfl
@[simp] theorem State.modGroup_phaseOut (s : State) (gid : Nat) (f : Group → Group) : (s.modGroup gid f).phaseOut = s.phaseOut := rfl
@[simp] theorem State.modGroup_landed (s : State) (gid : Nat) (f : Group → Group) : (s.modGroup gid f).landed = s.landed := rfl
@[simp] theorem State.modGroup_applied (s : State) (gid : Nat) (f : Group → Group) : (s.modGroup gid f).applied = s.applied := rfl
@[simp] theorem State.modGroup_waits (s : State) (gid : Nat) (f : Group → Group) : (s.modGroup gid f).waits = s.waits := rfl
@[simp] theorem State.modGroup_cores (s : State) (gid : Nat) (f : Group → Group) : (s.modGroup gid f).cores = s.cores := rfl
@[simp] theorem State.modGroup_assignQ (s : State) (gid : Nat) (f : Group → Group) : (s.modGroup gid f).assignQ = s.assignQ := rfl
@[simp] theorem State.modGroup_tlb (s : State) (gid : Nat) (f : Group → Group) : (s.modGroup gid f).tlb = s.tlb := rfl
@[simp] theorem State.modGroup_walks (s : State) (gid : Nat) (f : Group → Group) : (s.modGroup gid f).walks = s.walks := rfl
@[simp] theorem State.modGroup_invals (s : State) (gid : Nat) (f : Group → Group) : (s.modGroup gid f).invals = s.invals := rfl
@[simp] theorem State.modGroup_launches (s : State) (gid : Nat) (f : Group → Group) : (s.modGroup gid f).launches = s.launches := rfl
@[simp] theorem State.modGroup_pieces (s : State) (gid : Nat) (f : Group → Group) : (s.modGroup gid f).pieces = s.pieces := rfl
@[simp] theorem State.modGroup_vis (s : State) (gid : Nat) (f : Group → Group) : (s.modGroup gid f).vis = s.vis := rfl
@[simp] theorem State.modGroup_parts (s : State) (gid : Nat) (f : Group → Group) : (s.modGroup gid f).parts = s.parts := rfl
@[simp] theorem State.modGroup_dies (s : State) (gid : Nat) (f : Group → Group) : (s.modGroup gid f).dies = s.dies := rfl
@[simp] theorem State.modGroup_dpkg (s : State) (gid : Nat) (f : Group → Group) : (s.modGroup gid f).dpkg = s.dpkg := rfl
@[simp] theorem State.modGroup_routes (s : State) (gid : Nat) (f : Group → Group) : (s.modGroup gid f).routes = s.routes := rfl
@[simp] theorem State.modGroup_portInter (s : State) (gid : Nat) (f : Group → Group) : (s.modGroup gid f).portInter = s.portInter := rfl
@[simp] theorem State.modGroup_portDrops (s : State) (gid : Nat) (f : Group → Group) : (s.modGroup gid f).portDrops = s.portDrops := rfl
@[simp] theorem State.modGroup_inbox (s : State) (gid : Nat) (f : Group → Group) : (s.modGroup gid f).inbox = s.inbox := rfl
@[simp] theorem State.modGroup_outbox (s : State) (gid : Nat) (f : Group → Group) : (s.modGroup gid f).outbox = s.outbox := rfl
@[simp] theorem State.modGroup_barOut (s : State) (gid : Nat) (f : Group → Group) : (s.modGroup gid f).barOut = s.barOut := rfl
@[simp] theorem State.modGroup_outwait (s : State) (gid : Nat) (f : Group → Group) : (s.modGroup gid f).outwait = s.outwait := rfl
@[simp] theorem State.modGroup_sessions (s : State) (gid : Nat) (f : Group → Group) : (s.modGroup gid f).sessions = s.sessions := rfl
@[simp] theorem State.modGroup_pageReqs (s : State) (gid : Nat) (f : Group → Group) : (s.modGroup gid f).pageReqs = s.pageReqs := rfl
@[simp] theorem State.modGroup_pageWaits (s : State) (gid : Nat) (f : Group → Group) : (s.modGroup gid f).pageWaits = s.pageWaits := rfl
@[simp] theorem State.modGroup_pageFails (s : State) (gid : Nat) (f : Group → Group) : (s.modGroup gid f).pageFails = s.pageFails := rfl
@[simp] theorem State.modGroup_nextTag (s : State) (gid : Nat) (f : Group → Group) : (s.modGroup gid f).nextTag = s.nextTag := rfl
@[simp] theorem State.modGroup_cxlDown (s : State) (gid : Nat) (f : Group → Group) : (s.modGroup gid f).cxlDown = s.cxlDown := rfl
@[simp] theorem State.modGroup_channelsOut (s : State) (gid : Nat) (f : Group → Group) : (s.modGroup gid f).channelsOut = s.channelsOut := rfl
@[simp] theorem State.modGroup_mgmt (s : State) (gid : Nat) (f : Group → Group) : (s.modGroup gid f).mgmt = s.mgmt := rfl
@[simp] theorem State.modGroup_migrations (s : State) (gid : Nat) (f : Group → Group) : (s.modGroup gid f).migrations = s.migrations := rfl

@[simp] theorem State.modLane_time (s : State) (gid i : Nat) (f : Lane → Lane) : (s.modLane gid i f).time = s.time := rfl
@[simp] theorem State.modLane_agenda (s : State) (gid i : Nat) (f : Lane → Lane) : (s.modLane gid i f).agenda = s.agenda := rfl
@[simp] theorem State.modLane_issue (s : State) (gid i : Nat) (f : Lane → Lane) : (s.modLane gid i f).issue = s.issue := rfl
@[simp] theorem State.modLane_stamp (s : State) (gid i : Nat) (f : Lane → Lane) : (s.modLane gid i f).stamp = s.stamp := rfl
@[simp] theorem State.modLane_nextId (s : State) (gid i : Nat) (f : Lane → Lane) : (s.modLane gid i f).nextId = s.nextId := rfl
@[simp] theorem State.modLane_drawn (s : State) (gid i : Nat) (f : Lane → Lane) : (s.modLane gid i f).drawn = s.drawn := rfl
@[simp] theorem State.modLane_flight (s : State) (gid i : Nat) (f : Lane → Lane) : (s.modLane gid i f).flight = s.flight := rfl
@[simp] theorem State.modLane_mem (s : State) (gid i : Nat) (f : Lane → Lane) : (s.modLane gid i f).mem = s.mem := rfl
@[simp] theorem State.modLane_poisoned (s : State) (gid i : Nat) (f : Lane → Lane) : (s.modLane gid i f).poisoned = s.poisoned := rfl
@[simp] theorem State.modLane_healing (s : State) (gid i : Nat) (f : Lane → Lane) : (s.modLane gid i f).healing = s.healing := rfl
@[simp] theorem State.modLane_softNext (s : State) (gid i : Nat) (f : Lane → Lane) : (s.modLane gid i f).softNext = s.softNext := rfl
@[simp] theorem State.modLane_hardNext (s : State) (gid i : Nat) (f : Lane → Lane) : (s.modLane gid i f).hardNext = s.hardNext := rfl
@[simp] theorem State.modLane_tiles (s : State) (gid i : Nat) (f : Lane → Lane) : (s.modLane gid i f).tiles = s.tiles := rfl
@[simp] theorem State.modLane_barriers (s : State) (gid i : Nat) (f : Lane → Lane) : (s.modLane gid i f).barriers = s.barriers := rfl
@[simp] theorem State.modLane_runs (s : State) (gid i : Nat) (f : Lane → Lane) : (s.modLane gid i f).runs = s.runs := rfl
@[simp] theorem State.modLane_changes (s : State) (gid i : Nat) (f : Lane → Lane) : (s.modLane gid i f).changes = s.changes := rfl
@[simp] theorem State.modLane_mirrors (s : State) (gid i : Nat) (f : Lane → Lane) : (s.modLane gid i f).mirrors = s.mirrors := rfl
@[simp] theorem State.modLane_phases (s : State) (gid i : Nat) (f : Lane → Lane) : (s.modLane gid i f).phases = s.phases := rfl
@[simp] theorem State.modLane_phaseOut (s : State) (gid i : Nat) (f : Lane → Lane) : (s.modLane gid i f).phaseOut = s.phaseOut := rfl
@[simp] theorem State.modLane_landed (s : State) (gid i : Nat) (f : Lane → Lane) : (s.modLane gid i f).landed = s.landed := rfl
@[simp] theorem State.modLane_applied (s : State) (gid i : Nat) (f : Lane → Lane) : (s.modLane gid i f).applied = s.applied := rfl
@[simp] theorem State.modLane_waits (s : State) (gid i : Nat) (f : Lane → Lane) : (s.modLane gid i f).waits = s.waits := rfl
@[simp] theorem State.modLane_cores (s : State) (gid i : Nat) (f : Lane → Lane) : (s.modLane gid i f).cores = s.cores := rfl
@[simp] theorem State.modLane_assignQ (s : State) (gid i : Nat) (f : Lane → Lane) : (s.modLane gid i f).assignQ = s.assignQ := rfl
@[simp] theorem State.modLane_tlb (s : State) (gid i : Nat) (f : Lane → Lane) : (s.modLane gid i f).tlb = s.tlb := rfl
@[simp] theorem State.modLane_walks (s : State) (gid i : Nat) (f : Lane → Lane) : (s.modLane gid i f).walks = s.walks := rfl
@[simp] theorem State.modLane_invals (s : State) (gid i : Nat) (f : Lane → Lane) : (s.modLane gid i f).invals = s.invals := rfl
@[simp] theorem State.modLane_launches (s : State) (gid i : Nat) (f : Lane → Lane) : (s.modLane gid i f).launches = s.launches := rfl
@[simp] theorem State.modLane_pieces (s : State) (gid i : Nat) (f : Lane → Lane) : (s.modLane gid i f).pieces = s.pieces := rfl
@[simp] theorem State.modLane_vis (s : State) (gid i : Nat) (f : Lane → Lane) : (s.modLane gid i f).vis = s.vis := rfl
@[simp] theorem State.modLane_parts (s : State) (gid i : Nat) (f : Lane → Lane) : (s.modLane gid i f).parts = s.parts := rfl
@[simp] theorem State.modLane_dies (s : State) (gid i : Nat) (f : Lane → Lane) : (s.modLane gid i f).dies = s.dies := rfl
@[simp] theorem State.modLane_dpkg (s : State) (gid i : Nat) (f : Lane → Lane) : (s.modLane gid i f).dpkg = s.dpkg := rfl
@[simp] theorem State.modLane_routes (s : State) (gid i : Nat) (f : Lane → Lane) : (s.modLane gid i f).routes = s.routes := rfl
@[simp] theorem State.modLane_portInter (s : State) (gid i : Nat) (f : Lane → Lane) : (s.modLane gid i f).portInter = s.portInter := rfl
@[simp] theorem State.modLane_portDrops (s : State) (gid i : Nat) (f : Lane → Lane) : (s.modLane gid i f).portDrops = s.portDrops := rfl
@[simp] theorem State.modLane_inbox (s : State) (gid i : Nat) (f : Lane → Lane) : (s.modLane gid i f).inbox = s.inbox := rfl
@[simp] theorem State.modLane_outbox (s : State) (gid i : Nat) (f : Lane → Lane) : (s.modLane gid i f).outbox = s.outbox := rfl
@[simp] theorem State.modLane_barOut (s : State) (gid i : Nat) (f : Lane → Lane) : (s.modLane gid i f).barOut = s.barOut := rfl
@[simp] theorem State.modLane_outwait (s : State) (gid i : Nat) (f : Lane → Lane) : (s.modLane gid i f).outwait = s.outwait := rfl
@[simp] theorem State.modLane_sessions (s : State) (gid i : Nat) (f : Lane → Lane) : (s.modLane gid i f).sessions = s.sessions := rfl
@[simp] theorem State.modLane_pageReqs (s : State) (gid i : Nat) (f : Lane → Lane) : (s.modLane gid i f).pageReqs = s.pageReqs := rfl
@[simp] theorem State.modLane_pageWaits (s : State) (gid i : Nat) (f : Lane → Lane) : (s.modLane gid i f).pageWaits = s.pageWaits := rfl
@[simp] theorem State.modLane_pageFails (s : State) (gid i : Nat) (f : Lane → Lane) : (s.modLane gid i f).pageFails = s.pageFails := rfl
@[simp] theorem State.modLane_nextTag (s : State) (gid i : Nat) (f : Lane → Lane) : (s.modLane gid i f).nextTag = s.nextTag := rfl
@[simp] theorem State.modLane_cxlDown (s : State) (gid i : Nat) (f : Lane → Lane) : (s.modLane gid i f).cxlDown = s.cxlDown := rfl
@[simp] theorem State.modLane_channelsOut (s : State) (gid i : Nat) (f : Lane → Lane) : (s.modLane gid i f).channelsOut = s.channelsOut := rfl
@[simp] theorem State.modLane_mgmt (s : State) (gid i : Nat) (f : Lane → Lane) : (s.modLane gid i f).mgmt = s.mgmt := rfl
@[simp] theorem State.modLane_migrations (s : State) (gid i : Nat) (f : Lane → Lane) : (s.modLane gid i f).migrations = s.migrations := rfl

@[simp] theorem State.modLaunch_time (s : State) (lid : Nat) (f : Launch → Launch) : (s.modLaunch lid f).time = s.time := rfl
@[simp] theorem State.modLaunch_agenda (s : State) (lid : Nat) (f : Launch → Launch) : (s.modLaunch lid f).agenda = s.agenda := rfl
@[simp] theorem State.modLaunch_issue (s : State) (lid : Nat) (f : Launch → Launch) : (s.modLaunch lid f).issue = s.issue := rfl
@[simp] theorem State.modLaunch_stamp (s : State) (lid : Nat) (f : Launch → Launch) : (s.modLaunch lid f).stamp = s.stamp := rfl
@[simp] theorem State.modLaunch_nextId (s : State) (lid : Nat) (f : Launch → Launch) : (s.modLaunch lid f).nextId = s.nextId := rfl
@[simp] theorem State.modLaunch_drawn (s : State) (lid : Nat) (f : Launch → Launch) : (s.modLaunch lid f).drawn = s.drawn := rfl
@[simp] theorem State.modLaunch_groups (s : State) (lid : Nat) (f : Launch → Launch) : (s.modLaunch lid f).groups = s.groups := rfl
@[simp] theorem State.modLaunch_flight (s : State) (lid : Nat) (f : Launch → Launch) : (s.modLaunch lid f).flight = s.flight := rfl
@[simp] theorem State.modLaunch_mem (s : State) (lid : Nat) (f : Launch → Launch) : (s.modLaunch lid f).mem = s.mem := rfl
@[simp] theorem State.modLaunch_poisoned (s : State) (lid : Nat) (f : Launch → Launch) : (s.modLaunch lid f).poisoned = s.poisoned := rfl
@[simp] theorem State.modLaunch_healing (s : State) (lid : Nat) (f : Launch → Launch) : (s.modLaunch lid f).healing = s.healing := rfl
@[simp] theorem State.modLaunch_softNext (s : State) (lid : Nat) (f : Launch → Launch) : (s.modLaunch lid f).softNext = s.softNext := rfl
@[simp] theorem State.modLaunch_hardNext (s : State) (lid : Nat) (f : Launch → Launch) : (s.modLaunch lid f).hardNext = s.hardNext := rfl
@[simp] theorem State.modLaunch_tiles (s : State) (lid : Nat) (f : Launch → Launch) : (s.modLaunch lid f).tiles = s.tiles := rfl
@[simp] theorem State.modLaunch_barriers (s : State) (lid : Nat) (f : Launch → Launch) : (s.modLaunch lid f).barriers = s.barriers := rfl
@[simp] theorem State.modLaunch_runs (s : State) (lid : Nat) (f : Launch → Launch) : (s.modLaunch lid f).runs = s.runs := rfl
@[simp] theorem State.modLaunch_changes (s : State) (lid : Nat) (f : Launch → Launch) : (s.modLaunch lid f).changes = s.changes := rfl
@[simp] theorem State.modLaunch_mirrors (s : State) (lid : Nat) (f : Launch → Launch) : (s.modLaunch lid f).mirrors = s.mirrors := rfl
@[simp] theorem State.modLaunch_phases (s : State) (lid : Nat) (f : Launch → Launch) : (s.modLaunch lid f).phases = s.phases := rfl
@[simp] theorem State.modLaunch_phaseOut (s : State) (lid : Nat) (f : Launch → Launch) : (s.modLaunch lid f).phaseOut = s.phaseOut := rfl
@[simp] theorem State.modLaunch_landed (s : State) (lid : Nat) (f : Launch → Launch) : (s.modLaunch lid f).landed = s.landed := rfl
@[simp] theorem State.modLaunch_applied (s : State) (lid : Nat) (f : Launch → Launch) : (s.modLaunch lid f).applied = s.applied := rfl
@[simp] theorem State.modLaunch_waits (s : State) (lid : Nat) (f : Launch → Launch) : (s.modLaunch lid f).waits = s.waits := rfl
@[simp] theorem State.modLaunch_cores (s : State) (lid : Nat) (f : Launch → Launch) : (s.modLaunch lid f).cores = s.cores := rfl
@[simp] theorem State.modLaunch_assignQ (s : State) (lid : Nat) (f : Launch → Launch) : (s.modLaunch lid f).assignQ = s.assignQ := rfl
@[simp] theorem State.modLaunch_tlb (s : State) (lid : Nat) (f : Launch → Launch) : (s.modLaunch lid f).tlb = s.tlb := rfl
@[simp] theorem State.modLaunch_walks (s : State) (lid : Nat) (f : Launch → Launch) : (s.modLaunch lid f).walks = s.walks := rfl
@[simp] theorem State.modLaunch_invals (s : State) (lid : Nat) (f : Launch → Launch) : (s.modLaunch lid f).invals = s.invals := rfl
@[simp] theorem State.modLaunch_pieces (s : State) (lid : Nat) (f : Launch → Launch) : (s.modLaunch lid f).pieces = s.pieces := rfl
@[simp] theorem State.modLaunch_vis (s : State) (lid : Nat) (f : Launch → Launch) : (s.modLaunch lid f).vis = s.vis := rfl
@[simp] theorem State.modLaunch_parts (s : State) (lid : Nat) (f : Launch → Launch) : (s.modLaunch lid f).parts = s.parts := rfl
@[simp] theorem State.modLaunch_dies (s : State) (lid : Nat) (f : Launch → Launch) : (s.modLaunch lid f).dies = s.dies := rfl
@[simp] theorem State.modLaunch_dpkg (s : State) (lid : Nat) (f : Launch → Launch) : (s.modLaunch lid f).dpkg = s.dpkg := rfl
@[simp] theorem State.modLaunch_routes (s : State) (lid : Nat) (f : Launch → Launch) : (s.modLaunch lid f).routes = s.routes := rfl
@[simp] theorem State.modLaunch_portInter (s : State) (lid : Nat) (f : Launch → Launch) : (s.modLaunch lid f).portInter = s.portInter := rfl
@[simp] theorem State.modLaunch_portDrops (s : State) (lid : Nat) (f : Launch → Launch) : (s.modLaunch lid f).portDrops = s.portDrops := rfl
@[simp] theorem State.modLaunch_inbox (s : State) (lid : Nat) (f : Launch → Launch) : (s.modLaunch lid f).inbox = s.inbox := rfl
@[simp] theorem State.modLaunch_outbox (s : State) (lid : Nat) (f : Launch → Launch) : (s.modLaunch lid f).outbox = s.outbox := rfl
@[simp] theorem State.modLaunch_barOut (s : State) (lid : Nat) (f : Launch → Launch) : (s.modLaunch lid f).barOut = s.barOut := rfl
@[simp] theorem State.modLaunch_outwait (s : State) (lid : Nat) (f : Launch → Launch) : (s.modLaunch lid f).outwait = s.outwait := rfl
@[simp] theorem State.modLaunch_sessions (s : State) (lid : Nat) (f : Launch → Launch) : (s.modLaunch lid f).sessions = s.sessions := rfl
@[simp] theorem State.modLaunch_pageReqs (s : State) (lid : Nat) (f : Launch → Launch) : (s.modLaunch lid f).pageReqs = s.pageReqs := rfl
@[simp] theorem State.modLaunch_pageWaits (s : State) (lid : Nat) (f : Launch → Launch) : (s.modLaunch lid f).pageWaits = s.pageWaits := rfl
@[simp] theorem State.modLaunch_pageFails (s : State) (lid : Nat) (f : Launch → Launch) : (s.modLaunch lid f).pageFails = s.pageFails := rfl
@[simp] theorem State.modLaunch_nextTag (s : State) (lid : Nat) (f : Launch → Launch) : (s.modLaunch lid f).nextTag = s.nextTag := rfl
@[simp] theorem State.modLaunch_cxlDown (s : State) (lid : Nat) (f : Launch → Launch) : (s.modLaunch lid f).cxlDown = s.cxlDown := rfl
@[simp] theorem State.modLaunch_channelsOut (s : State) (lid : Nat) (f : Launch → Launch) : (s.modLaunch lid f).channelsOut = s.channelsOut := rfl
@[simp] theorem State.modLaunch_mgmt (s : State) (lid : Nat) (f : Launch → Launch) : (s.modLaunch lid f).mgmt = s.mgmt := rfl
@[simp] theorem State.modLaunch_migrations (s : State) (lid : Nat) (f : Launch → Launch) : (s.modLaunch lid f).migrations = s.migrations := rfl

@[simp] theorem State.modPart_time (s : State) (n : Nat) (f : Part → Part) : (s.modPart n f).time = s.time := rfl
@[simp] theorem State.modPart_agenda (s : State) (n : Nat) (f : Part → Part) : (s.modPart n f).agenda = s.agenda := rfl
@[simp] theorem State.modPart_issue (s : State) (n : Nat) (f : Part → Part) : (s.modPart n f).issue = s.issue := rfl
@[simp] theorem State.modPart_stamp (s : State) (n : Nat) (f : Part → Part) : (s.modPart n f).stamp = s.stamp := rfl
@[simp] theorem State.modPart_nextId (s : State) (n : Nat) (f : Part → Part) : (s.modPart n f).nextId = s.nextId := rfl
@[simp] theorem State.modPart_drawn (s : State) (n : Nat) (f : Part → Part) : (s.modPart n f).drawn = s.drawn := rfl
@[simp] theorem State.modPart_groups (s : State) (n : Nat) (f : Part → Part) : (s.modPart n f).groups = s.groups := rfl
@[simp] theorem State.modPart_flight (s : State) (n : Nat) (f : Part → Part) : (s.modPart n f).flight = s.flight := rfl
@[simp] theorem State.modPart_mem (s : State) (n : Nat) (f : Part → Part) : (s.modPart n f).mem = s.mem := rfl
@[simp] theorem State.modPart_poisoned (s : State) (n : Nat) (f : Part → Part) : (s.modPart n f).poisoned = s.poisoned := rfl
@[simp] theorem State.modPart_healing (s : State) (n : Nat) (f : Part → Part) : (s.modPart n f).healing = s.healing := rfl
@[simp] theorem State.modPart_softNext (s : State) (n : Nat) (f : Part → Part) : (s.modPart n f).softNext = s.softNext := rfl
@[simp] theorem State.modPart_hardNext (s : State) (n : Nat) (f : Part → Part) : (s.modPart n f).hardNext = s.hardNext := rfl
@[simp] theorem State.modPart_tiles (s : State) (n : Nat) (f : Part → Part) : (s.modPart n f).tiles = s.tiles := rfl
@[simp] theorem State.modPart_barriers (s : State) (n : Nat) (f : Part → Part) : (s.modPart n f).barriers = s.barriers := rfl
@[simp] theorem State.modPart_runs (s : State) (n : Nat) (f : Part → Part) : (s.modPart n f).runs = s.runs := rfl
@[simp] theorem State.modPart_changes (s : State) (n : Nat) (f : Part → Part) : (s.modPart n f).changes = s.changes := rfl
@[simp] theorem State.modPart_mirrors (s : State) (n : Nat) (f : Part → Part) : (s.modPart n f).mirrors = s.mirrors := rfl
@[simp] theorem State.modPart_phases (s : State) (n : Nat) (f : Part → Part) : (s.modPart n f).phases = s.phases := rfl
@[simp] theorem State.modPart_phaseOut (s : State) (n : Nat) (f : Part → Part) : (s.modPart n f).phaseOut = s.phaseOut := rfl
@[simp] theorem State.modPart_landed (s : State) (n : Nat) (f : Part → Part) : (s.modPart n f).landed = s.landed := rfl
@[simp] theorem State.modPart_applied (s : State) (n : Nat) (f : Part → Part) : (s.modPart n f).applied = s.applied := rfl
@[simp] theorem State.modPart_waits (s : State) (n : Nat) (f : Part → Part) : (s.modPart n f).waits = s.waits := rfl
@[simp] theorem State.modPart_cores (s : State) (n : Nat) (f : Part → Part) : (s.modPart n f).cores = s.cores := rfl
@[simp] theorem State.modPart_assignQ (s : State) (n : Nat) (f : Part → Part) : (s.modPart n f).assignQ = s.assignQ := rfl
@[simp] theorem State.modPart_tlb (s : State) (n : Nat) (f : Part → Part) : (s.modPart n f).tlb = s.tlb := rfl
@[simp] theorem State.modPart_walks (s : State) (n : Nat) (f : Part → Part) : (s.modPart n f).walks = s.walks := rfl
@[simp] theorem State.modPart_invals (s : State) (n : Nat) (f : Part → Part) : (s.modPart n f).invals = s.invals := rfl
@[simp] theorem State.modPart_launches (s : State) (n : Nat) (f : Part → Part) : (s.modPart n f).launches = s.launches := rfl
@[simp] theorem State.modPart_pieces (s : State) (n : Nat) (f : Part → Part) : (s.modPart n f).pieces = s.pieces := rfl
@[simp] theorem State.modPart_vis (s : State) (n : Nat) (f : Part → Part) : (s.modPart n f).vis = s.vis := rfl
@[simp] theorem State.modPart_dies (s : State) (n : Nat) (f : Part → Part) : (s.modPart n f).dies = s.dies := rfl
@[simp] theorem State.modPart_dpkg (s : State) (n : Nat) (f : Part → Part) : (s.modPart n f).dpkg = s.dpkg := rfl
@[simp] theorem State.modPart_routes (s : State) (n : Nat) (f : Part → Part) : (s.modPart n f).routes = s.routes := rfl
@[simp] theorem State.modPart_portInter (s : State) (n : Nat) (f : Part → Part) : (s.modPart n f).portInter = s.portInter := rfl
@[simp] theorem State.modPart_portDrops (s : State) (n : Nat) (f : Part → Part) : (s.modPart n f).portDrops = s.portDrops := rfl
@[simp] theorem State.modPart_inbox (s : State) (n : Nat) (f : Part → Part) : (s.modPart n f).inbox = s.inbox := rfl
@[simp] theorem State.modPart_outbox (s : State) (n : Nat) (f : Part → Part) : (s.modPart n f).outbox = s.outbox := rfl
@[simp] theorem State.modPart_barOut (s : State) (n : Nat) (f : Part → Part) : (s.modPart n f).barOut = s.barOut := rfl
@[simp] theorem State.modPart_outwait (s : State) (n : Nat) (f : Part → Part) : (s.modPart n f).outwait = s.outwait := rfl
@[simp] theorem State.modPart_sessions (s : State) (n : Nat) (f : Part → Part) : (s.modPart n f).sessions = s.sessions := rfl
@[simp] theorem State.modPart_pageReqs (s : State) (n : Nat) (f : Part → Part) : (s.modPart n f).pageReqs = s.pageReqs := rfl
@[simp] theorem State.modPart_pageWaits (s : State) (n : Nat) (f : Part → Part) : (s.modPart n f).pageWaits = s.pageWaits := rfl
@[simp] theorem State.modPart_pageFails (s : State) (n : Nat) (f : Part → Part) : (s.modPart n f).pageFails = s.pageFails := rfl
@[simp] theorem State.modPart_nextTag (s : State) (n : Nat) (f : Part → Part) : (s.modPart n f).nextTag = s.nextTag := rfl
@[simp] theorem State.modPart_cxlDown (s : State) (n : Nat) (f : Part → Part) : (s.modPart n f).cxlDown = s.cxlDown := rfl
@[simp] theorem State.modPart_channelsOut (s : State) (n : Nat) (f : Part → Part) : (s.modPart n f).channelsOut = s.channelsOut := rfl
@[simp] theorem State.modPart_mgmt (s : State) (n : Nat) (f : Part → Part) : (s.modPart n f).mgmt = s.mgmt := rfl
@[simp] theorem State.modPart_migrations (s : State) (n : Nat) (f : Part → Part) : (s.modPart n f).migrations = s.migrations := rfl

@[simp] theorem State.modCore_time (s : State) (n : Nat) (f : Core → Core) : (s.modCore n f).time = s.time := rfl
@[simp] theorem State.modCore_agenda (s : State) (n : Nat) (f : Core → Core) : (s.modCore n f).agenda = s.agenda := rfl
@[simp] theorem State.modCore_issue (s : State) (n : Nat) (f : Core → Core) : (s.modCore n f).issue = s.issue := rfl
@[simp] theorem State.modCore_stamp (s : State) (n : Nat) (f : Core → Core) : (s.modCore n f).stamp = s.stamp := rfl
@[simp] theorem State.modCore_nextId (s : State) (n : Nat) (f : Core → Core) : (s.modCore n f).nextId = s.nextId := rfl
@[simp] theorem State.modCore_drawn (s : State) (n : Nat) (f : Core → Core) : (s.modCore n f).drawn = s.drawn := rfl
@[simp] theorem State.modCore_groups (s : State) (n : Nat) (f : Core → Core) : (s.modCore n f).groups = s.groups := rfl
@[simp] theorem State.modCore_flight (s : State) (n : Nat) (f : Core → Core) : (s.modCore n f).flight = s.flight := rfl
@[simp] theorem State.modCore_mem (s : State) (n : Nat) (f : Core → Core) : (s.modCore n f).mem = s.mem := rfl
@[simp] theorem State.modCore_poisoned (s : State) (n : Nat) (f : Core → Core) : (s.modCore n f).poisoned = s.poisoned := rfl
@[simp] theorem State.modCore_healing (s : State) (n : Nat) (f : Core → Core) : (s.modCore n f).healing = s.healing := rfl
@[simp] theorem State.modCore_softNext (s : State) (n : Nat) (f : Core → Core) : (s.modCore n f).softNext = s.softNext := rfl
@[simp] theorem State.modCore_hardNext (s : State) (n : Nat) (f : Core → Core) : (s.modCore n f).hardNext = s.hardNext := rfl
@[simp] theorem State.modCore_tiles (s : State) (n : Nat) (f : Core → Core) : (s.modCore n f).tiles = s.tiles := rfl
@[simp] theorem State.modCore_barriers (s : State) (n : Nat) (f : Core → Core) : (s.modCore n f).barriers = s.barriers := rfl
@[simp] theorem State.modCore_runs (s : State) (n : Nat) (f : Core → Core) : (s.modCore n f).runs = s.runs := rfl
@[simp] theorem State.modCore_changes (s : State) (n : Nat) (f : Core → Core) : (s.modCore n f).changes = s.changes := rfl
@[simp] theorem State.modCore_mirrors (s : State) (n : Nat) (f : Core → Core) : (s.modCore n f).mirrors = s.mirrors := rfl
@[simp] theorem State.modCore_phases (s : State) (n : Nat) (f : Core → Core) : (s.modCore n f).phases = s.phases := rfl
@[simp] theorem State.modCore_phaseOut (s : State) (n : Nat) (f : Core → Core) : (s.modCore n f).phaseOut = s.phaseOut := rfl
@[simp] theorem State.modCore_landed (s : State) (n : Nat) (f : Core → Core) : (s.modCore n f).landed = s.landed := rfl
@[simp] theorem State.modCore_applied (s : State) (n : Nat) (f : Core → Core) : (s.modCore n f).applied = s.applied := rfl
@[simp] theorem State.modCore_waits (s : State) (n : Nat) (f : Core → Core) : (s.modCore n f).waits = s.waits := rfl
@[simp] theorem State.modCore_assignQ (s : State) (n : Nat) (f : Core → Core) : (s.modCore n f).assignQ = s.assignQ := rfl
@[simp] theorem State.modCore_tlb (s : State) (n : Nat) (f : Core → Core) : (s.modCore n f).tlb = s.tlb := rfl
@[simp] theorem State.modCore_walks (s : State) (n : Nat) (f : Core → Core) : (s.modCore n f).walks = s.walks := rfl
@[simp] theorem State.modCore_invals (s : State) (n : Nat) (f : Core → Core) : (s.modCore n f).invals = s.invals := rfl
@[simp] theorem State.modCore_launches (s : State) (n : Nat) (f : Core → Core) : (s.modCore n f).launches = s.launches := rfl
@[simp] theorem State.modCore_pieces (s : State) (n : Nat) (f : Core → Core) : (s.modCore n f).pieces = s.pieces := rfl
@[simp] theorem State.modCore_vis (s : State) (n : Nat) (f : Core → Core) : (s.modCore n f).vis = s.vis := rfl
@[simp] theorem State.modCore_parts (s : State) (n : Nat) (f : Core → Core) : (s.modCore n f).parts = s.parts := rfl
@[simp] theorem State.modCore_dies (s : State) (n : Nat) (f : Core → Core) : (s.modCore n f).dies = s.dies := rfl
@[simp] theorem State.modCore_dpkg (s : State) (n : Nat) (f : Core → Core) : (s.modCore n f).dpkg = s.dpkg := rfl
@[simp] theorem State.modCore_routes (s : State) (n : Nat) (f : Core → Core) : (s.modCore n f).routes = s.routes := rfl
@[simp] theorem State.modCore_portInter (s : State) (n : Nat) (f : Core → Core) : (s.modCore n f).portInter = s.portInter := rfl
@[simp] theorem State.modCore_portDrops (s : State) (n : Nat) (f : Core → Core) : (s.modCore n f).portDrops = s.portDrops := rfl
@[simp] theorem State.modCore_inbox (s : State) (n : Nat) (f : Core → Core) : (s.modCore n f).inbox = s.inbox := rfl
@[simp] theorem State.modCore_outbox (s : State) (n : Nat) (f : Core → Core) : (s.modCore n f).outbox = s.outbox := rfl
@[simp] theorem State.modCore_barOut (s : State) (n : Nat) (f : Core → Core) : (s.modCore n f).barOut = s.barOut := rfl
@[simp] theorem State.modCore_outwait (s : State) (n : Nat) (f : Core → Core) : (s.modCore n f).outwait = s.outwait := rfl
@[simp] theorem State.modCore_sessions (s : State) (n : Nat) (f : Core → Core) : (s.modCore n f).sessions = s.sessions := rfl
@[simp] theorem State.modCore_pageReqs (s : State) (n : Nat) (f : Core → Core) : (s.modCore n f).pageReqs = s.pageReqs := rfl
@[simp] theorem State.modCore_pageWaits (s : State) (n : Nat) (f : Core → Core) : (s.modCore n f).pageWaits = s.pageWaits := rfl
@[simp] theorem State.modCore_pageFails (s : State) (n : Nat) (f : Core → Core) : (s.modCore n f).pageFails = s.pageFails := rfl
@[simp] theorem State.modCore_nextTag (s : State) (n : Nat) (f : Core → Core) : (s.modCore n f).nextTag = s.nextTag := rfl
@[simp] theorem State.modCore_cxlDown (s : State) (n : Nat) (f : Core → Core) : (s.modCore n f).cxlDown = s.cxlDown := rfl
@[simp] theorem State.modCore_channelsOut (s : State) (n : Nat) (f : Core → Core) : (s.modCore n f).channelsOut = s.channelsOut := rfl
@[simp] theorem State.modCore_mgmt (s : State) (n : Nat) (f : Core → Core) : (s.modCore n f).mgmt = s.mgmt := rfl
@[simp] theorem State.modCore_migrations (s : State) (n : Nat) (f : Core → Core) : (s.modCore n f).migrations = s.migrations := rfl

@[simp] theorem State.modVI_time (s : State) (n : Nat) (f : VI → VI) : (s.modVI n f).time = s.time := rfl
@[simp] theorem State.modVI_agenda (s : State) (n : Nat) (f : VI → VI) : (s.modVI n f).agenda = s.agenda := rfl
@[simp] theorem State.modVI_issue (s : State) (n : Nat) (f : VI → VI) : (s.modVI n f).issue = s.issue := rfl
@[simp] theorem State.modVI_stamp (s : State) (n : Nat) (f : VI → VI) : (s.modVI n f).stamp = s.stamp := rfl
@[simp] theorem State.modVI_nextId (s : State) (n : Nat) (f : VI → VI) : (s.modVI n f).nextId = s.nextId := rfl
@[simp] theorem State.modVI_drawn (s : State) (n : Nat) (f : VI → VI) : (s.modVI n f).drawn = s.drawn := rfl
@[simp] theorem State.modVI_groups (s : State) (n : Nat) (f : VI → VI) : (s.modVI n f).groups = s.groups := rfl
@[simp] theorem State.modVI_flight (s : State) (n : Nat) (f : VI → VI) : (s.modVI n f).flight = s.flight := rfl
@[simp] theorem State.modVI_mem (s : State) (n : Nat) (f : VI → VI) : (s.modVI n f).mem = s.mem := rfl
@[simp] theorem State.modVI_poisoned (s : State) (n : Nat) (f : VI → VI) : (s.modVI n f).poisoned = s.poisoned := rfl
@[simp] theorem State.modVI_healing (s : State) (n : Nat) (f : VI → VI) : (s.modVI n f).healing = s.healing := rfl
@[simp] theorem State.modVI_softNext (s : State) (n : Nat) (f : VI → VI) : (s.modVI n f).softNext = s.softNext := rfl
@[simp] theorem State.modVI_hardNext (s : State) (n : Nat) (f : VI → VI) : (s.modVI n f).hardNext = s.hardNext := rfl
@[simp] theorem State.modVI_tiles (s : State) (n : Nat) (f : VI → VI) : (s.modVI n f).tiles = s.tiles := rfl
@[simp] theorem State.modVI_barriers (s : State) (n : Nat) (f : VI → VI) : (s.modVI n f).barriers = s.barriers := rfl
@[simp] theorem State.modVI_runs (s : State) (n : Nat) (f : VI → VI) : (s.modVI n f).runs = s.runs := rfl
@[simp] theorem State.modVI_changes (s : State) (n : Nat) (f : VI → VI) : (s.modVI n f).changes = s.changes := rfl
@[simp] theorem State.modVI_mirrors (s : State) (n : Nat) (f : VI → VI) : (s.modVI n f).mirrors = s.mirrors := rfl
@[simp] theorem State.modVI_phases (s : State) (n : Nat) (f : VI → VI) : (s.modVI n f).phases = s.phases := rfl
@[simp] theorem State.modVI_phaseOut (s : State) (n : Nat) (f : VI → VI) : (s.modVI n f).phaseOut = s.phaseOut := rfl
@[simp] theorem State.modVI_landed (s : State) (n : Nat) (f : VI → VI) : (s.modVI n f).landed = s.landed := rfl
@[simp] theorem State.modVI_applied (s : State) (n : Nat) (f : VI → VI) : (s.modVI n f).applied = s.applied := rfl
@[simp] theorem State.modVI_waits (s : State) (n : Nat) (f : VI → VI) : (s.modVI n f).waits = s.waits := rfl
@[simp] theorem State.modVI_cores (s : State) (n : Nat) (f : VI → VI) : (s.modVI n f).cores = s.cores := rfl
@[simp] theorem State.modVI_assignQ (s : State) (n : Nat) (f : VI → VI) : (s.modVI n f).assignQ = s.assignQ := rfl
@[simp] theorem State.modVI_tlb (s : State) (n : Nat) (f : VI → VI) : (s.modVI n f).tlb = s.tlb := rfl
@[simp] theorem State.modVI_walks (s : State) (n : Nat) (f : VI → VI) : (s.modVI n f).walks = s.walks := rfl
@[simp] theorem State.modVI_invals (s : State) (n : Nat) (f : VI → VI) : (s.modVI n f).invals = s.invals := rfl
@[simp] theorem State.modVI_launches (s : State) (n : Nat) (f : VI → VI) : (s.modVI n f).launches = s.launches := rfl
@[simp] theorem State.modVI_pieces (s : State) (n : Nat) (f : VI → VI) : (s.modVI n f).pieces = s.pieces := rfl
@[simp] theorem State.modVI_parts (s : State) (n : Nat) (f : VI → VI) : (s.modVI n f).parts = s.parts := rfl
@[simp] theorem State.modVI_dies (s : State) (n : Nat) (f : VI → VI) : (s.modVI n f).dies = s.dies := rfl
@[simp] theorem State.modVI_dpkg (s : State) (n : Nat) (f : VI → VI) : (s.modVI n f).dpkg = s.dpkg := rfl
@[simp] theorem State.modVI_routes (s : State) (n : Nat) (f : VI → VI) : (s.modVI n f).routes = s.routes := rfl
@[simp] theorem State.modVI_portInter (s : State) (n : Nat) (f : VI → VI) : (s.modVI n f).portInter = s.portInter := rfl
@[simp] theorem State.modVI_portDrops (s : State) (n : Nat) (f : VI → VI) : (s.modVI n f).portDrops = s.portDrops := rfl
@[simp] theorem State.modVI_inbox (s : State) (n : Nat) (f : VI → VI) : (s.modVI n f).inbox = s.inbox := rfl
@[simp] theorem State.modVI_outbox (s : State) (n : Nat) (f : VI → VI) : (s.modVI n f).outbox = s.outbox := rfl
@[simp] theorem State.modVI_barOut (s : State) (n : Nat) (f : VI → VI) : (s.modVI n f).barOut = s.barOut := rfl
@[simp] theorem State.modVI_outwait (s : State) (n : Nat) (f : VI → VI) : (s.modVI n f).outwait = s.outwait := rfl
@[simp] theorem State.modVI_sessions (s : State) (n : Nat) (f : VI → VI) : (s.modVI n f).sessions = s.sessions := rfl
@[simp] theorem State.modVI_pageReqs (s : State) (n : Nat) (f : VI → VI) : (s.modVI n f).pageReqs = s.pageReqs := rfl
@[simp] theorem State.modVI_pageWaits (s : State) (n : Nat) (f : VI → VI) : (s.modVI n f).pageWaits = s.pageWaits := rfl
@[simp] theorem State.modVI_pageFails (s : State) (n : Nat) (f : VI → VI) : (s.modVI n f).pageFails = s.pageFails := rfl
@[simp] theorem State.modVI_nextTag (s : State) (n : Nat) (f : VI → VI) : (s.modVI n f).nextTag = s.nextTag := rfl
@[simp] theorem State.modVI_cxlDown (s : State) (n : Nat) (f : VI → VI) : (s.modVI n f).cxlDown = s.cxlDown := rfl
@[simp] theorem State.modVI_channelsOut (s : State) (n : Nat) (f : VI → VI) : (s.modVI n f).channelsOut = s.channelsOut := rfl
@[simp] theorem State.modVI_mgmt (s : State) (n : Nat) (f : VI → VI) : (s.modVI n f).mgmt = s.mgmt := rfl
@[simp] theorem State.modVI_migrations (s : State) (n : Nat) (f : VI → VI) : (s.modVI n f).migrations = s.migrations := rfl

@[simp] theorem State.countEvent_time (s : State) (core ev n : Nat) : (s.countEvent core ev n).time = s.time := rfl
@[simp] theorem State.countEvent_agenda (s : State) (core ev n : Nat) : (s.countEvent core ev n).agenda = s.agenda := rfl
@[simp] theorem State.countEvent_issue (s : State) (core ev n : Nat) : (s.countEvent core ev n).issue = s.issue := rfl
@[simp] theorem State.countEvent_stamp (s : State) (core ev n : Nat) : (s.countEvent core ev n).stamp = s.stamp := rfl
@[simp] theorem State.countEvent_nextId (s : State) (core ev n : Nat) : (s.countEvent core ev n).nextId = s.nextId := rfl
@[simp] theorem State.countEvent_drawn (s : State) (core ev n : Nat) : (s.countEvent core ev n).drawn = s.drawn := rfl
@[simp] theorem State.countEvent_groups (s : State) (core ev n : Nat) : (s.countEvent core ev n).groups = s.groups := rfl
@[simp] theorem State.countEvent_flight (s : State) (core ev n : Nat) : (s.countEvent core ev n).flight = s.flight := rfl
@[simp] theorem State.countEvent_mem (s : State) (core ev n : Nat) : (s.countEvent core ev n).mem = s.mem := rfl
@[simp] theorem State.countEvent_poisoned (s : State) (core ev n : Nat) : (s.countEvent core ev n).poisoned = s.poisoned := rfl
@[simp] theorem State.countEvent_healing (s : State) (core ev n : Nat) : (s.countEvent core ev n).healing = s.healing := rfl
@[simp] theorem State.countEvent_softNext (s : State) (core ev n : Nat) : (s.countEvent core ev n).softNext = s.softNext := rfl
@[simp] theorem State.countEvent_hardNext (s : State) (core ev n : Nat) : (s.countEvent core ev n).hardNext = s.hardNext := rfl
@[simp] theorem State.countEvent_tiles (s : State) (core ev n : Nat) : (s.countEvent core ev n).tiles = s.tiles := rfl
@[simp] theorem State.countEvent_barriers (s : State) (core ev n : Nat) : (s.countEvent core ev n).barriers = s.barriers := rfl
@[simp] theorem State.countEvent_runs (s : State) (core ev n : Nat) : (s.countEvent core ev n).runs = s.runs := rfl
@[simp] theorem State.countEvent_changes (s : State) (core ev n : Nat) : (s.countEvent core ev n).changes = s.changes := rfl
@[simp] theorem State.countEvent_mirrors (s : State) (core ev n : Nat) : (s.countEvent core ev n).mirrors = s.mirrors := rfl
@[simp] theorem State.countEvent_phases (s : State) (core ev n : Nat) : (s.countEvent core ev n).phases = s.phases := rfl
@[simp] theorem State.countEvent_phaseOut (s : State) (core ev n : Nat) : (s.countEvent core ev n).phaseOut = s.phaseOut := rfl
@[simp] theorem State.countEvent_landed (s : State) (core ev n : Nat) : (s.countEvent core ev n).landed = s.landed := rfl
@[simp] theorem State.countEvent_applied (s : State) (core ev n : Nat) : (s.countEvent core ev n).applied = s.applied := rfl
@[simp] theorem State.countEvent_waits (s : State) (core ev n : Nat) : (s.countEvent core ev n).waits = s.waits := rfl
@[simp] theorem State.countEvent_assignQ (s : State) (core ev n : Nat) : (s.countEvent core ev n).assignQ = s.assignQ := rfl
@[simp] theorem State.countEvent_tlb (s : State) (core ev n : Nat) : (s.countEvent core ev n).tlb = s.tlb := rfl
@[simp] theorem State.countEvent_walks (s : State) (core ev n : Nat) : (s.countEvent core ev n).walks = s.walks := rfl
@[simp] theorem State.countEvent_invals (s : State) (core ev n : Nat) : (s.countEvent core ev n).invals = s.invals := rfl
@[simp] theorem State.countEvent_launches (s : State) (core ev n : Nat) : (s.countEvent core ev n).launches = s.launches := rfl
@[simp] theorem State.countEvent_pieces (s : State) (core ev n : Nat) : (s.countEvent core ev n).pieces = s.pieces := rfl
@[simp] theorem State.countEvent_vis (s : State) (core ev n : Nat) : (s.countEvent core ev n).vis = s.vis := rfl
@[simp] theorem State.countEvent_parts (s : State) (core ev n : Nat) : (s.countEvent core ev n).parts = s.parts := rfl
@[simp] theorem State.countEvent_dies (s : State) (core ev n : Nat) : (s.countEvent core ev n).dies = s.dies := rfl
@[simp] theorem State.countEvent_dpkg (s : State) (core ev n : Nat) : (s.countEvent core ev n).dpkg = s.dpkg := rfl
@[simp] theorem State.countEvent_routes (s : State) (core ev n : Nat) : (s.countEvent core ev n).routes = s.routes := rfl
@[simp] theorem State.countEvent_portInter (s : State) (core ev n : Nat) : (s.countEvent core ev n).portInter = s.portInter := rfl
@[simp] theorem State.countEvent_portDrops (s : State) (core ev n : Nat) : (s.countEvent core ev n).portDrops = s.portDrops := rfl
@[simp] theorem State.countEvent_inbox (s : State) (core ev n : Nat) : (s.countEvent core ev n).inbox = s.inbox := rfl
@[simp] theorem State.countEvent_outbox (s : State) (core ev n : Nat) : (s.countEvent core ev n).outbox = s.outbox := rfl
@[simp] theorem State.countEvent_barOut (s : State) (core ev n : Nat) : (s.countEvent core ev n).barOut = s.barOut := rfl
@[simp] theorem State.countEvent_outwait (s : State) (core ev n : Nat) : (s.countEvent core ev n).outwait = s.outwait := rfl
@[simp] theorem State.countEvent_sessions (s : State) (core ev n : Nat) : (s.countEvent core ev n).sessions = s.sessions := rfl
@[simp] theorem State.countEvent_pageReqs (s : State) (core ev n : Nat) : (s.countEvent core ev n).pageReqs = s.pageReqs := rfl
@[simp] theorem State.countEvent_pageWaits (s : State) (core ev n : Nat) : (s.countEvent core ev n).pageWaits = s.pageWaits := rfl
@[simp] theorem State.countEvent_pageFails (s : State) (core ev n : Nat) : (s.countEvent core ev n).pageFails = s.pageFails := rfl
@[simp] theorem State.countEvent_nextTag (s : State) (core ev n : Nat) : (s.countEvent core ev n).nextTag = s.nextTag := rfl
@[simp] theorem State.countEvent_cxlDown (s : State) (core ev n : Nat) : (s.countEvent core ev n).cxlDown = s.cxlDown := rfl
@[simp] theorem State.countEvent_channelsOut (s : State) (core ev n : Nat) : (s.countEvent core ev n).channelsOut = s.channelsOut := rfl
@[simp] theorem State.countEvent_mgmt (s : State) (core ev n : Nat) : (s.countEvent core ev n).mgmt = s.mgmt := rfl
@[simp] theorem State.countEvent_migrations (s : State) (core ev n : Nat) : (s.countEvent core ev n).migrations = s.migrations := rfl

@[simp] theorem State.countErr_time (s : State) (leaf k : Nat) : (s.countErr leaf k).time = s.time := rfl
@[simp] theorem State.countErr_agenda (s : State) (leaf k : Nat) : (s.countErr leaf k).agenda = s.agenda := rfl
@[simp] theorem State.countErr_issue (s : State) (leaf k : Nat) : (s.countErr leaf k).issue = s.issue := rfl
@[simp] theorem State.countErr_stamp (s : State) (leaf k : Nat) : (s.countErr leaf k).stamp = s.stamp := rfl
@[simp] theorem State.countErr_nextId (s : State) (leaf k : Nat) : (s.countErr leaf k).nextId = s.nextId := rfl
@[simp] theorem State.countErr_drawn (s : State) (leaf k : Nat) : (s.countErr leaf k).drawn = s.drawn := rfl
@[simp] theorem State.countErr_groups (s : State) (leaf k : Nat) : (s.countErr leaf k).groups = s.groups := rfl
@[simp] theorem State.countErr_flight (s : State) (leaf k : Nat) : (s.countErr leaf k).flight = s.flight := rfl
@[simp] theorem State.countErr_mem (s : State) (leaf k : Nat) : (s.countErr leaf k).mem = s.mem := rfl
@[simp] theorem State.countErr_poisoned (s : State) (leaf k : Nat) : (s.countErr leaf k).poisoned = s.poisoned := rfl
@[simp] theorem State.countErr_healing (s : State) (leaf k : Nat) : (s.countErr leaf k).healing = s.healing := rfl
@[simp] theorem State.countErr_softNext (s : State) (leaf k : Nat) : (s.countErr leaf k).softNext = s.softNext := rfl
@[simp] theorem State.countErr_hardNext (s : State) (leaf k : Nat) : (s.countErr leaf k).hardNext = s.hardNext := rfl
@[simp] theorem State.countErr_tiles (s : State) (leaf k : Nat) : (s.countErr leaf k).tiles = s.tiles := rfl
@[simp] theorem State.countErr_barriers (s : State) (leaf k : Nat) : (s.countErr leaf k).barriers = s.barriers := rfl
@[simp] theorem State.countErr_runs (s : State) (leaf k : Nat) : (s.countErr leaf k).runs = s.runs := rfl
@[simp] theorem State.countErr_changes (s : State) (leaf k : Nat) : (s.countErr leaf k).changes = s.changes := rfl
@[simp] theorem State.countErr_mirrors (s : State) (leaf k : Nat) : (s.countErr leaf k).mirrors = s.mirrors := rfl
@[simp] theorem State.countErr_phases (s : State) (leaf k : Nat) : (s.countErr leaf k).phases = s.phases := rfl
@[simp] theorem State.countErr_phaseOut (s : State) (leaf k : Nat) : (s.countErr leaf k).phaseOut = s.phaseOut := rfl
@[simp] theorem State.countErr_landed (s : State) (leaf k : Nat) : (s.countErr leaf k).landed = s.landed := rfl
@[simp] theorem State.countErr_applied (s : State) (leaf k : Nat) : (s.countErr leaf k).applied = s.applied := rfl
@[simp] theorem State.countErr_waits (s : State) (leaf k : Nat) : (s.countErr leaf k).waits = s.waits := rfl
@[simp] theorem State.countErr_cores (s : State) (leaf k : Nat) : (s.countErr leaf k).cores = s.cores := rfl
@[simp] theorem State.countErr_assignQ (s : State) (leaf k : Nat) : (s.countErr leaf k).assignQ = s.assignQ := rfl
@[simp] theorem State.countErr_tlb (s : State) (leaf k : Nat) : (s.countErr leaf k).tlb = s.tlb := rfl
@[simp] theorem State.countErr_walks (s : State) (leaf k : Nat) : (s.countErr leaf k).walks = s.walks := rfl
@[simp] theorem State.countErr_invals (s : State) (leaf k : Nat) : (s.countErr leaf k).invals = s.invals := rfl
@[simp] theorem State.countErr_launches (s : State) (leaf k : Nat) : (s.countErr leaf k).launches = s.launches := rfl
@[simp] theorem State.countErr_pieces (s : State) (leaf k : Nat) : (s.countErr leaf k).pieces = s.pieces := rfl
@[simp] theorem State.countErr_vis (s : State) (leaf k : Nat) : (s.countErr leaf k).vis = s.vis := rfl
@[simp] theorem State.countErr_dies (s : State) (leaf k : Nat) : (s.countErr leaf k).dies = s.dies := rfl
@[simp] theorem State.countErr_dpkg (s : State) (leaf k : Nat) : (s.countErr leaf k).dpkg = s.dpkg := rfl
@[simp] theorem State.countErr_routes (s : State) (leaf k : Nat) : (s.countErr leaf k).routes = s.routes := rfl
@[simp] theorem State.countErr_portInter (s : State) (leaf k : Nat) : (s.countErr leaf k).portInter = s.portInter := rfl
@[simp] theorem State.countErr_portDrops (s : State) (leaf k : Nat) : (s.countErr leaf k).portDrops = s.portDrops := rfl
@[simp] theorem State.countErr_inbox (s : State) (leaf k : Nat) : (s.countErr leaf k).inbox = s.inbox := rfl
@[simp] theorem State.countErr_outbox (s : State) (leaf k : Nat) : (s.countErr leaf k).outbox = s.outbox := rfl
@[simp] theorem State.countErr_barOut (s : State) (leaf k : Nat) : (s.countErr leaf k).barOut = s.barOut := rfl
@[simp] theorem State.countErr_outwait (s : State) (leaf k : Nat) : (s.countErr leaf k).outwait = s.outwait := rfl
@[simp] theorem State.countErr_sessions (s : State) (leaf k : Nat) : (s.countErr leaf k).sessions = s.sessions := rfl
@[simp] theorem State.countErr_pageReqs (s : State) (leaf k : Nat) : (s.countErr leaf k).pageReqs = s.pageReqs := rfl
@[simp] theorem State.countErr_pageWaits (s : State) (leaf k : Nat) : (s.countErr leaf k).pageWaits = s.pageWaits := rfl
@[simp] theorem State.countErr_pageFails (s : State) (leaf k : Nat) : (s.countErr leaf k).pageFails = s.pageFails := rfl
@[simp] theorem State.countErr_nextTag (s : State) (leaf k : Nat) : (s.countErr leaf k).nextTag = s.nextTag := rfl
@[simp] theorem State.countErr_cxlDown (s : State) (leaf k : Nat) : (s.countErr leaf k).cxlDown = s.cxlDown := rfl
@[simp] theorem State.countErr_channelsOut (s : State) (leaf k : Nat) : (s.countErr leaf k).channelsOut = s.channelsOut := rfl
@[simp] theorem State.countErr_mgmt (s : State) (leaf k : Nat) : (s.countErr leaf k).mgmt = s.mgmt := rfl
@[simp] theorem State.countErr_migrations (s : State) (leaf k : Nat) : (s.countErr leaf k).migrations = s.migrations := rfl

@[simp] theorem State.addOp_time (s : State) (gid : Nat) (c : Cls) (k : OpKind) (opc : Nat) : (s.addOp gid c k opc).time = s.time := rfl
@[simp] theorem State.addOp_agenda (s : State) (gid : Nat) (c : Cls) (k : OpKind) (opc : Nat) : (s.addOp gid c k opc).agenda = s.agenda := rfl
@[simp] theorem State.addOp_issue (s : State) (gid : Nat) (c : Cls) (k : OpKind) (opc : Nat) : (s.addOp gid c k opc).issue = s.issue := rfl
@[simp] theorem State.addOp_stamp (s : State) (gid : Nat) (c : Cls) (k : OpKind) (opc : Nat) : (s.addOp gid c k opc).stamp = s.stamp := rfl
@[simp] theorem State.addOp_nextId (s : State) (gid : Nat) (c : Cls) (k : OpKind) (opc : Nat) : (s.addOp gid c k opc).nextId = s.nextId := rfl
@[simp] theorem State.addOp_drawn (s : State) (gid : Nat) (c : Cls) (k : OpKind) (opc : Nat) : (s.addOp gid c k opc).drawn = s.drawn := rfl
@[simp] theorem State.addOp_flight (s : State) (gid : Nat) (c : Cls) (k : OpKind) (opc : Nat) : (s.addOp gid c k opc).flight = s.flight := rfl
@[simp] theorem State.addOp_mem (s : State) (gid : Nat) (c : Cls) (k : OpKind) (opc : Nat) : (s.addOp gid c k opc).mem = s.mem := rfl
@[simp] theorem State.addOp_poisoned (s : State) (gid : Nat) (c : Cls) (k : OpKind) (opc : Nat) : (s.addOp gid c k opc).poisoned = s.poisoned := rfl
@[simp] theorem State.addOp_healing (s : State) (gid : Nat) (c : Cls) (k : OpKind) (opc : Nat) : (s.addOp gid c k opc).healing = s.healing := rfl
@[simp] theorem State.addOp_softNext (s : State) (gid : Nat) (c : Cls) (k : OpKind) (opc : Nat) : (s.addOp gid c k opc).softNext = s.softNext := rfl
@[simp] theorem State.addOp_hardNext (s : State) (gid : Nat) (c : Cls) (k : OpKind) (opc : Nat) : (s.addOp gid c k opc).hardNext = s.hardNext := rfl
@[simp] theorem State.addOp_tiles (s : State) (gid : Nat) (c : Cls) (k : OpKind) (opc : Nat) : (s.addOp gid c k opc).tiles = s.tiles := rfl
@[simp] theorem State.addOp_barriers (s : State) (gid : Nat) (c : Cls) (k : OpKind) (opc : Nat) : (s.addOp gid c k opc).barriers = s.barriers := rfl
@[simp] theorem State.addOp_runs (s : State) (gid : Nat) (c : Cls) (k : OpKind) (opc : Nat) : (s.addOp gid c k opc).runs = s.runs := rfl
@[simp] theorem State.addOp_changes (s : State) (gid : Nat) (c : Cls) (k : OpKind) (opc : Nat) : (s.addOp gid c k opc).changes = s.changes := rfl
@[simp] theorem State.addOp_mirrors (s : State) (gid : Nat) (c : Cls) (k : OpKind) (opc : Nat) : (s.addOp gid c k opc).mirrors = s.mirrors := rfl
@[simp] theorem State.addOp_phases (s : State) (gid : Nat) (c : Cls) (k : OpKind) (opc : Nat) : (s.addOp gid c k opc).phases = s.phases := rfl
@[simp] theorem State.addOp_phaseOut (s : State) (gid : Nat) (c : Cls) (k : OpKind) (opc : Nat) : (s.addOp gid c k opc).phaseOut = s.phaseOut := rfl
@[simp] theorem State.addOp_landed (s : State) (gid : Nat) (c : Cls) (k : OpKind) (opc : Nat) : (s.addOp gid c k opc).landed = s.landed := rfl
@[simp] theorem State.addOp_applied (s : State) (gid : Nat) (c : Cls) (k : OpKind) (opc : Nat) : (s.addOp gid c k opc).applied = s.applied := rfl
@[simp] theorem State.addOp_waits (s : State) (gid : Nat) (c : Cls) (k : OpKind) (opc : Nat) : (s.addOp gid c k opc).waits = s.waits := rfl
@[simp] theorem State.addOp_cores (s : State) (gid : Nat) (c : Cls) (k : OpKind) (opc : Nat) : (s.addOp gid c k opc).cores = s.cores := rfl
@[simp] theorem State.addOp_assignQ (s : State) (gid : Nat) (c : Cls) (k : OpKind) (opc : Nat) : (s.addOp gid c k opc).assignQ = s.assignQ := rfl
@[simp] theorem State.addOp_tlb (s : State) (gid : Nat) (c : Cls) (k : OpKind) (opc : Nat) : (s.addOp gid c k opc).tlb = s.tlb := rfl
@[simp] theorem State.addOp_walks (s : State) (gid : Nat) (c : Cls) (k : OpKind) (opc : Nat) : (s.addOp gid c k opc).walks = s.walks := rfl
@[simp] theorem State.addOp_invals (s : State) (gid : Nat) (c : Cls) (k : OpKind) (opc : Nat) : (s.addOp gid c k opc).invals = s.invals := rfl
@[simp] theorem State.addOp_launches (s : State) (gid : Nat) (c : Cls) (k : OpKind) (opc : Nat) : (s.addOp gid c k opc).launches = s.launches := rfl
@[simp] theorem State.addOp_pieces (s : State) (gid : Nat) (c : Cls) (k : OpKind) (opc : Nat) : (s.addOp gid c k opc).pieces = s.pieces := rfl
@[simp] theorem State.addOp_vis (s : State) (gid : Nat) (c : Cls) (k : OpKind) (opc : Nat) : (s.addOp gid c k opc).vis = s.vis := rfl
@[simp] theorem State.addOp_parts (s : State) (gid : Nat) (c : Cls) (k : OpKind) (opc : Nat) : (s.addOp gid c k opc).parts = s.parts := rfl
@[simp] theorem State.addOp_dies (s : State) (gid : Nat) (c : Cls) (k : OpKind) (opc : Nat) : (s.addOp gid c k opc).dies = s.dies := rfl
@[simp] theorem State.addOp_dpkg (s : State) (gid : Nat) (c : Cls) (k : OpKind) (opc : Nat) : (s.addOp gid c k opc).dpkg = s.dpkg := rfl
@[simp] theorem State.addOp_routes (s : State) (gid : Nat) (c : Cls) (k : OpKind) (opc : Nat) : (s.addOp gid c k opc).routes = s.routes := rfl
@[simp] theorem State.addOp_portInter (s : State) (gid : Nat) (c : Cls) (k : OpKind) (opc : Nat) : (s.addOp gid c k opc).portInter = s.portInter := rfl
@[simp] theorem State.addOp_portDrops (s : State) (gid : Nat) (c : Cls) (k : OpKind) (opc : Nat) : (s.addOp gid c k opc).portDrops = s.portDrops := rfl
@[simp] theorem State.addOp_inbox (s : State) (gid : Nat) (c : Cls) (k : OpKind) (opc : Nat) : (s.addOp gid c k opc).inbox = s.inbox := rfl
@[simp] theorem State.addOp_outbox (s : State) (gid : Nat) (c : Cls) (k : OpKind) (opc : Nat) : (s.addOp gid c k opc).outbox = s.outbox := rfl
@[simp] theorem State.addOp_barOut (s : State) (gid : Nat) (c : Cls) (k : OpKind) (opc : Nat) : (s.addOp gid c k opc).barOut = s.barOut := rfl
@[simp] theorem State.addOp_outwait (s : State) (gid : Nat) (c : Cls) (k : OpKind) (opc : Nat) : (s.addOp gid c k opc).outwait = s.outwait := rfl
@[simp] theorem State.addOp_sessions (s : State) (gid : Nat) (c : Cls) (k : OpKind) (opc : Nat) : (s.addOp gid c k opc).sessions = s.sessions := rfl
@[simp] theorem State.addOp_pageReqs (s : State) (gid : Nat) (c : Cls) (k : OpKind) (opc : Nat) : (s.addOp gid c k opc).pageReqs = s.pageReqs := rfl
@[simp] theorem State.addOp_pageWaits (s : State) (gid : Nat) (c : Cls) (k : OpKind) (opc : Nat) : (s.addOp gid c k opc).pageWaits = s.pageWaits := rfl
@[simp] theorem State.addOp_pageFails (s : State) (gid : Nat) (c : Cls) (k : OpKind) (opc : Nat) : (s.addOp gid c k opc).pageFails = s.pageFails := rfl
@[simp] theorem State.addOp_nextTag (s : State) (gid : Nat) (c : Cls) (k : OpKind) (opc : Nat) : (s.addOp gid c k opc).nextTag = s.nextTag := rfl
@[simp] theorem State.addOp_cxlDown (s : State) (gid : Nat) (c : Cls) (k : OpKind) (opc : Nat) : (s.addOp gid c k opc).cxlDown = s.cxlDown := rfl
@[simp] theorem State.addOp_channelsOut (s : State) (gid : Nat) (c : Cls) (k : OpKind) (opc : Nat) : (s.addOp gid c k opc).channelsOut = s.channelsOut := rfl
@[simp] theorem State.addOp_mgmt (s : State) (gid : Nat) (c : Cls) (k : OpKind) (opc : Nat) : (s.addOp gid c k opc).mgmt = s.mgmt := rfl
@[simp] theorem State.addOp_migrations (s : State) (gid : Nat) (c : Cls) (k : OpKind) (opc : Nat) : (s.addOp gid c k opc).migrations = s.migrations := rfl

@[simp] theorem State.bump_time (s : State) : (s.bump).time = s.time := rfl
@[simp] theorem State.bump_agenda (s : State) : (s.bump).agenda = s.agenda := rfl
@[simp] theorem State.bump_issue (s : State) : (s.bump).issue = s.issue := rfl
@[simp] theorem State.bump_stamp (s : State) : (s.bump).stamp = s.stamp := rfl
@[simp] theorem State.bump_drawn (s : State) : (s.bump).drawn = s.drawn := rfl
@[simp] theorem State.bump_groups (s : State) : (s.bump).groups = s.groups := rfl
@[simp] theorem State.bump_flight (s : State) : (s.bump).flight = s.flight := rfl
@[simp] theorem State.bump_mem (s : State) : (s.bump).mem = s.mem := rfl
@[simp] theorem State.bump_poisoned (s : State) : (s.bump).poisoned = s.poisoned := rfl
@[simp] theorem State.bump_healing (s : State) : (s.bump).healing = s.healing := rfl
@[simp] theorem State.bump_softNext (s : State) : (s.bump).softNext = s.softNext := rfl
@[simp] theorem State.bump_hardNext (s : State) : (s.bump).hardNext = s.hardNext := rfl
@[simp] theorem State.bump_tiles (s : State) : (s.bump).tiles = s.tiles := rfl
@[simp] theorem State.bump_barriers (s : State) : (s.bump).barriers = s.barriers := rfl
@[simp] theorem State.bump_runs (s : State) : (s.bump).runs = s.runs := rfl
@[simp] theorem State.bump_changes (s : State) : (s.bump).changes = s.changes := rfl
@[simp] theorem State.bump_mirrors (s : State) : (s.bump).mirrors = s.mirrors := rfl
@[simp] theorem State.bump_phases (s : State) : (s.bump).phases = s.phases := rfl
@[simp] theorem State.bump_phaseOut (s : State) : (s.bump).phaseOut = s.phaseOut := rfl
@[simp] theorem State.bump_landed (s : State) : (s.bump).landed = s.landed := rfl
@[simp] theorem State.bump_applied (s : State) : (s.bump).applied = s.applied := rfl
@[simp] theorem State.bump_waits (s : State) : (s.bump).waits = s.waits := rfl
@[simp] theorem State.bump_cores (s : State) : (s.bump).cores = s.cores := rfl
@[simp] theorem State.bump_assignQ (s : State) : (s.bump).assignQ = s.assignQ := rfl
@[simp] theorem State.bump_tlb (s : State) : (s.bump).tlb = s.tlb := rfl
@[simp] theorem State.bump_walks (s : State) : (s.bump).walks = s.walks := rfl
@[simp] theorem State.bump_invals (s : State) : (s.bump).invals = s.invals := rfl
@[simp] theorem State.bump_launches (s : State) : (s.bump).launches = s.launches := rfl
@[simp] theorem State.bump_pieces (s : State) : (s.bump).pieces = s.pieces := rfl
@[simp] theorem State.bump_vis (s : State) : (s.bump).vis = s.vis := rfl
@[simp] theorem State.bump_parts (s : State) : (s.bump).parts = s.parts := rfl
@[simp] theorem State.bump_dies (s : State) : (s.bump).dies = s.dies := rfl
@[simp] theorem State.bump_dpkg (s : State) : (s.bump).dpkg = s.dpkg := rfl
@[simp] theorem State.bump_routes (s : State) : (s.bump).routes = s.routes := rfl
@[simp] theorem State.bump_portInter (s : State) : (s.bump).portInter = s.portInter := rfl
@[simp] theorem State.bump_portDrops (s : State) : (s.bump).portDrops = s.portDrops := rfl
@[simp] theorem State.bump_inbox (s : State) : (s.bump).inbox = s.inbox := rfl
@[simp] theorem State.bump_outbox (s : State) : (s.bump).outbox = s.outbox := rfl
@[simp] theorem State.bump_barOut (s : State) : (s.bump).barOut = s.barOut := rfl
@[simp] theorem State.bump_outwait (s : State) : (s.bump).outwait = s.outwait := rfl
@[simp] theorem State.bump_sessions (s : State) : (s.bump).sessions = s.sessions := rfl
@[simp] theorem State.bump_pageReqs (s : State) : (s.bump).pageReqs = s.pageReqs := rfl
@[simp] theorem State.bump_pageWaits (s : State) : (s.bump).pageWaits = s.pageWaits := rfl
@[simp] theorem State.bump_pageFails (s : State) : (s.bump).pageFails = s.pageFails := rfl
@[simp] theorem State.bump_nextTag (s : State) : (s.bump).nextTag = s.nextTag := rfl
@[simp] theorem State.bump_cxlDown (s : State) : (s.bump).cxlDown = s.cxlDown := rfl
@[simp] theorem State.bump_channelsOut (s : State) : (s.bump).channelsOut = s.channelsOut := rfl
@[simp] theorem State.bump_mgmt (s : State) : (s.bump).mgmt = s.mgmt := rfl
@[simp] theorem State.bump_migrations (s : State) : (s.bump).migrations = s.migrations := rfl

@[simp] theorem Group.modLane_launch (g : Group) (i : Nat) (f : Lane → Lane) : (g.modLane i f).launch = g.launch := rfl
@[simp] theorem Group.modLane_vi (g : Group) (i : Nat) (f : Lane → Lane) : (g.modLane i f).vi = g.vi := rfl
@[simp] theorem Group.modLane_leaf (g : Group) (i : Nat) (f : Lane → Lane) : (g.modLane i f).leaf = g.leaf := rfl
@[simp] theorem Group.modLane_core (g : Group) (i : Nat) (f : Lane → Lane) : (g.modLane i f).core = g.core := rfl
@[simp] theorem Group.modLane_ctx (g : Group) (i : Nat) (f : Lane → Lane) : (g.modLane i f).ctx = g.ctx := rfl
@[simp] theorem Group.modLane_resident (g : Group) (i : Nat) (f : Lane → Lane) : (g.modLane i f).resident = g.resident := rfl
@[simp] theorem Group.modLane_task (g : Group) (i : Nat) (f : Lane → Lane) : (g.modLane i f).task = g.task := rfl
@[simp] theorem Group.modLane_role (g : Group) (i : Nat) (f : Lane → Lane) : (g.modLane i f).role = g.role := rfl
@[simp] theorem Group.modLane_pieces (g : Group) (i : Nat) (f : Lane → Lane) : (g.modLane i f).pieces = g.pieces := rfl
@[simp] theorem Group.modLane_v (g : Group) (i : Nat) (f : Lane → Lane) : (g.modLane i f).v = g.v := rfl
@[simp] theorem Group.modLane_vtag (g : Group) (i : Nat) (f : Lane → Lane) : (g.modLane i f).vtag = g.vtag := rfl
@[simp] theorem Group.modLane_k (g : Group) (i : Nat) (f : Lane → Lane) : (g.modLane i f).k = g.k := rfl
@[simp] theorem Group.modLane_p (g : Group) (i : Nat) (f : Lane → Lane) : (g.modLane i f).p = g.p := rfl
@[simp] theorem Group.modLane_t (g : Group) (i : Nat) (f : Lane → Lane) : (g.modLane i f).t = g.t := rfl
@[simp] theorem Group.modLane_w (g : Group) (i : Nat) (f : Lane → Lane) : (g.modLane i f).w = g.w := rfl
@[simp] theorem Group.modLane_f (g : Group) (i : Nat) (f : Lane → Lane) : (g.modLane i f).f = g.f := rfl
@[simp] theorem Group.modLane_image (g : Group) (i : Nat) (f : Lane → Lane) : (g.modLane i f).image = g.image := rfl
@[simp] theorem Group.modLane_local_ (g : Group) (i : Nat) (f : Lane → Lane) : (g.modLane i f).local_ = g.local_ := rfl
@[simp] theorem Group.modLane_remote (g : Group) (i : Nat) (f : Lane → Lane) : (g.modLane i f).remote = g.remote := rfl
@[simp] theorem Group.modLane_mon (g : Group) (i : Nat) (f : Lane → Lane) : (g.modLane i f).mon = g.mon := rfl
@[simp] theorem Group.modLane_asnStatus (g : Group) (i : Nat) (f : Lane → Lane) : (g.modLane i f).asnStatus = g.asnStatus := rfl
@[simp] theorem Group.modLane_fabStatus (g : Group) (i : Nat) (f : Lane → Lane) : (g.modLane i f).fabStatus = g.fabStatus := rfl
@[simp] theorem Group.modLane_hostcall (g : Group) (i : Nat) (f : Lane → Lane) : (g.modLane i f).hostcall = g.hostcall := rfl
@[simp] theorem Group.modLane_tvecS (g : Group) (i : Nat) (f : Lane → Lane) : (g.modLane i f).tvecS = g.tvecS := rfl
@[simp] theorem Group.modLane_tvecH (g : Group) (i : Nat) (f : Lane → Lane) : (g.modLane i f).tvecH = g.tvecH := rfl
@[simp] theorem Group.modLane_trapen (g : Group) (i : Nat) (f : Lane → Lane) : (g.modLane i f).trapen = g.trapen := rfl
@[simp] theorem Group.modLane_ops (g : Group) (i : Nat) (f : Lane → Lane) : (g.modLane i f).ops = g.ops := rfl
@[simp] theorem Group.modLane_nextOp (g : Group) (i : Nat) (f : Lane → Lane) : (g.modLane i f).nextOp = g.nextOp := rfl
@[simp] theorem Group.modLane_pendST (g : Group) (i : Nat) (f : Lane → Lane) : (g.modLane i f).pendST = g.pendST := rfl
@[simp] theorem Group.modLane_pendCP (g : Group) (i : Nat) (f : Lane → Lane) : (g.modLane i f).pendCP = g.pendCP := rfl
@[simp] theorem Group.modLane_pendTX (g : Group) (i : Nat) (f : Lane → Lane) : (g.modLane i f).pendTX = g.pendTX := rfl
@[simp] theorem Group.modLane_seen (g : Group) (i : Nat) (f : Lane → Lane) : (g.modLane i f).seen = g.seen := rfl
@[simp] theorem Group.modLane_fwaited (g : Group) (i : Nat) (f : Lane → Lane) : (g.modLane i f).fwaited = g.fwaited := rfl
@[simp] theorem Group.modLane_icache (g : Group) (i : Nat) (f : Lane → Lane) : (g.modLane i f).icache = g.icache := rfl
@[simp] theorem Group.modLane_lastIssue (g : Group) (i : Nat) (f : Lane → Lane) : (g.modLane i f).lastIssue = g.lastIssue := rfl
@[simp] theorem Group.modLane_meas (g : Group) (i : Nat) (f : Lane → Lane) : (g.modLane i f).meas = g.meas := rfl
@[simp] theorem Group.modLane_freed (g : Group) (i : Nat) (f : Lane → Lane) : (g.modLane i f).freed = g.freed := rfl
@[simp] theorem Group.modLane_done (g : Group) (i : Nat) (f : Lane → Lane) : (g.modLane i f).done = g.done := rfl

@[simp] theorem Group.vPut_launch (g : Group) (m : Mode) (r lane : Nat) (x : Word) : (g.vPut m r lane x).launch = g.launch := rfl
@[simp] theorem Group.vPut_vi (g : Group) (m : Mode) (r lane : Nat) (x : Word) : (g.vPut m r lane x).vi = g.vi := rfl
@[simp] theorem Group.vPut_leaf (g : Group) (m : Mode) (r lane : Nat) (x : Word) : (g.vPut m r lane x).leaf = g.leaf := rfl
@[simp] theorem Group.vPut_core (g : Group) (m : Mode) (r lane : Nat) (x : Word) : (g.vPut m r lane x).core = g.core := rfl
@[simp] theorem Group.vPut_ctx (g : Group) (m : Mode) (r lane : Nat) (x : Word) : (g.vPut m r lane x).ctx = g.ctx := rfl
@[simp] theorem Group.vPut_resident (g : Group) (m : Mode) (r lane : Nat) (x : Word) : (g.vPut m r lane x).resident = g.resident := rfl
@[simp] theorem Group.vPut_task (g : Group) (m : Mode) (r lane : Nat) (x : Word) : (g.vPut m r lane x).task = g.task := rfl
@[simp] theorem Group.vPut_role (g : Group) (m : Mode) (r lane : Nat) (x : Word) : (g.vPut m r lane x).role = g.role := rfl
@[simp] theorem Group.vPut_pieces (g : Group) (m : Mode) (r lane : Nat) (x : Word) : (g.vPut m r lane x).pieces = g.pieces := rfl
@[simp] theorem Group.vPut_lanes (g : Group) (m : Mode) (r lane : Nat) (x : Word) : (g.vPut m r lane x).lanes = g.lanes := rfl
@[simp] theorem Group.vPut_vtag (g : Group) (m : Mode) (r lane : Nat) (x : Word) : (g.vPut m r lane x).vtag = g.vtag := rfl
@[simp] theorem Group.vPut_k (g : Group) (m : Mode) (r lane : Nat) (x : Word) : (g.vPut m r lane x).k = g.k := rfl
@[simp] theorem Group.vPut_p (g : Group) (m : Mode) (r lane : Nat) (x : Word) : (g.vPut m r lane x).p = g.p := rfl
@[simp] theorem Group.vPut_t (g : Group) (m : Mode) (r lane : Nat) (x : Word) : (g.vPut m r lane x).t = g.t := rfl
@[simp] theorem Group.vPut_w (g : Group) (m : Mode) (r lane : Nat) (x : Word) : (g.vPut m r lane x).w = g.w := rfl
@[simp] theorem Group.vPut_f (g : Group) (m : Mode) (r lane : Nat) (x : Word) : (g.vPut m r lane x).f = g.f := rfl
@[simp] theorem Group.vPut_image (g : Group) (m : Mode) (r lane : Nat) (x : Word) : (g.vPut m r lane x).image = g.image := rfl
@[simp] theorem Group.vPut_local_ (g : Group) (m : Mode) (r lane : Nat) (x : Word) : (g.vPut m r lane x).local_ = g.local_ := rfl
@[simp] theorem Group.vPut_remote (g : Group) (m : Mode) (r lane : Nat) (x : Word) : (g.vPut m r lane x).remote = g.remote := rfl
@[simp] theorem Group.vPut_mon (g : Group) (m : Mode) (r lane : Nat) (x : Word) : (g.vPut m r lane x).mon = g.mon := rfl
@[simp] theorem Group.vPut_asnStatus (g : Group) (m : Mode) (r lane : Nat) (x : Word) : (g.vPut m r lane x).asnStatus = g.asnStatus := rfl
@[simp] theorem Group.vPut_fabStatus (g : Group) (m : Mode) (r lane : Nat) (x : Word) : (g.vPut m r lane x).fabStatus = g.fabStatus := rfl
@[simp] theorem Group.vPut_hostcall (g : Group) (m : Mode) (r lane : Nat) (x : Word) : (g.vPut m r lane x).hostcall = g.hostcall := rfl
@[simp] theorem Group.vPut_tvecS (g : Group) (m : Mode) (r lane : Nat) (x : Word) : (g.vPut m r lane x).tvecS = g.tvecS := rfl
@[simp] theorem Group.vPut_tvecH (g : Group) (m : Mode) (r lane : Nat) (x : Word) : (g.vPut m r lane x).tvecH = g.tvecH := rfl
@[simp] theorem Group.vPut_trapen (g : Group) (m : Mode) (r lane : Nat) (x : Word) : (g.vPut m r lane x).trapen = g.trapen := rfl
@[simp] theorem Group.vPut_ops (g : Group) (m : Mode) (r lane : Nat) (x : Word) : (g.vPut m r lane x).ops = g.ops := rfl
@[simp] theorem Group.vPut_nextOp (g : Group) (m : Mode) (r lane : Nat) (x : Word) : (g.vPut m r lane x).nextOp = g.nextOp := rfl
@[simp] theorem Group.vPut_pendST (g : Group) (m : Mode) (r lane : Nat) (x : Word) : (g.vPut m r lane x).pendST = g.pendST := rfl
@[simp] theorem Group.vPut_pendCP (g : Group) (m : Mode) (r lane : Nat) (x : Word) : (g.vPut m r lane x).pendCP = g.pendCP := rfl
@[simp] theorem Group.vPut_pendTX (g : Group) (m : Mode) (r lane : Nat) (x : Word) : (g.vPut m r lane x).pendTX = g.pendTX := rfl
@[simp] theorem Group.vPut_seen (g : Group) (m : Mode) (r lane : Nat) (x : Word) : (g.vPut m r lane x).seen = g.seen := rfl
@[simp] theorem Group.vPut_fwaited (g : Group) (m : Mode) (r lane : Nat) (x : Word) : (g.vPut m r lane x).fwaited = g.fwaited := rfl
@[simp] theorem Group.vPut_icache (g : Group) (m : Mode) (r lane : Nat) (x : Word) : (g.vPut m r lane x).icache = g.icache := rfl
@[simp] theorem Group.vPut_lastIssue (g : Group) (m : Mode) (r lane : Nat) (x : Word) : (g.vPut m r lane x).lastIssue = g.lastIssue := rfl
@[simp] theorem Group.vPut_meas (g : Group) (m : Mode) (r lane : Nat) (x : Word) : (g.vPut m r lane x).meas = g.meas := rfl
@[simp] theorem Group.vPut_freed (g : Group) (m : Mode) (r lane : Nat) (x : Word) : (g.vPut m r lane x).freed = g.freed := rfl
@[simp] theorem Group.vPut_done (g : Group) (m : Mode) (r lane : Nat) (x : Word) : (g.vPut m r lane x).done = g.done := rfl

@[simp] theorem Group.dPut_launch (g : Group) (m : Mode) (r lane : Nat) (x : DWord) : (g.dPut m r lane x).launch = g.launch := rfl
@[simp] theorem Group.dPut_vi (g : Group) (m : Mode) (r lane : Nat) (x : DWord) : (g.dPut m r lane x).vi = g.vi := rfl
@[simp] theorem Group.dPut_leaf (g : Group) (m : Mode) (r lane : Nat) (x : DWord) : (g.dPut m r lane x).leaf = g.leaf := rfl
@[simp] theorem Group.dPut_core (g : Group) (m : Mode) (r lane : Nat) (x : DWord) : (g.dPut m r lane x).core = g.core := rfl
@[simp] theorem Group.dPut_ctx (g : Group) (m : Mode) (r lane : Nat) (x : DWord) : (g.dPut m r lane x).ctx = g.ctx := rfl
@[simp] theorem Group.dPut_resident (g : Group) (m : Mode) (r lane : Nat) (x : DWord) : (g.dPut m r lane x).resident = g.resident := rfl
@[simp] theorem Group.dPut_task (g : Group) (m : Mode) (r lane : Nat) (x : DWord) : (g.dPut m r lane x).task = g.task := rfl
@[simp] theorem Group.dPut_role (g : Group) (m : Mode) (r lane : Nat) (x : DWord) : (g.dPut m r lane x).role = g.role := rfl
@[simp] theorem Group.dPut_pieces (g : Group) (m : Mode) (r lane : Nat) (x : DWord) : (g.dPut m r lane x).pieces = g.pieces := rfl
@[simp] theorem Group.dPut_lanes (g : Group) (m : Mode) (r lane : Nat) (x : DWord) : (g.dPut m r lane x).lanes = g.lanes := rfl
@[simp] theorem Group.dPut_vtag (g : Group) (m : Mode) (r lane : Nat) (x : DWord) : (g.dPut m r lane x).vtag = g.vtag := rfl
@[simp] theorem Group.dPut_k (g : Group) (m : Mode) (r lane : Nat) (x : DWord) : (g.dPut m r lane x).k = g.k := rfl
@[simp] theorem Group.dPut_p (g : Group) (m : Mode) (r lane : Nat) (x : DWord) : (g.dPut m r lane x).p = g.p := rfl
@[simp] theorem Group.dPut_t (g : Group) (m : Mode) (r lane : Nat) (x : DWord) : (g.dPut m r lane x).t = g.t := rfl
@[simp] theorem Group.dPut_w (g : Group) (m : Mode) (r lane : Nat) (x : DWord) : (g.dPut m r lane x).w = g.w := rfl
@[simp] theorem Group.dPut_f (g : Group) (m : Mode) (r lane : Nat) (x : DWord) : (g.dPut m r lane x).f = g.f := rfl
@[simp] theorem Group.dPut_image (g : Group) (m : Mode) (r lane : Nat) (x : DWord) : (g.dPut m r lane x).image = g.image := rfl
@[simp] theorem Group.dPut_local_ (g : Group) (m : Mode) (r lane : Nat) (x : DWord) : (g.dPut m r lane x).local_ = g.local_ := rfl
@[simp] theorem Group.dPut_remote (g : Group) (m : Mode) (r lane : Nat) (x : DWord) : (g.dPut m r lane x).remote = g.remote := rfl
@[simp] theorem Group.dPut_mon (g : Group) (m : Mode) (r lane : Nat) (x : DWord) : (g.dPut m r lane x).mon = g.mon := rfl
@[simp] theorem Group.dPut_asnStatus (g : Group) (m : Mode) (r lane : Nat) (x : DWord) : (g.dPut m r lane x).asnStatus = g.asnStatus := rfl
@[simp] theorem Group.dPut_fabStatus (g : Group) (m : Mode) (r lane : Nat) (x : DWord) : (g.dPut m r lane x).fabStatus = g.fabStatus := rfl
@[simp] theorem Group.dPut_hostcall (g : Group) (m : Mode) (r lane : Nat) (x : DWord) : (g.dPut m r lane x).hostcall = g.hostcall := rfl
@[simp] theorem Group.dPut_tvecS (g : Group) (m : Mode) (r lane : Nat) (x : DWord) : (g.dPut m r lane x).tvecS = g.tvecS := rfl
@[simp] theorem Group.dPut_tvecH (g : Group) (m : Mode) (r lane : Nat) (x : DWord) : (g.dPut m r lane x).tvecH = g.tvecH := rfl
@[simp] theorem Group.dPut_trapen (g : Group) (m : Mode) (r lane : Nat) (x : DWord) : (g.dPut m r lane x).trapen = g.trapen := rfl
@[simp] theorem Group.dPut_ops (g : Group) (m : Mode) (r lane : Nat) (x : DWord) : (g.dPut m r lane x).ops = g.ops := rfl
@[simp] theorem Group.dPut_nextOp (g : Group) (m : Mode) (r lane : Nat) (x : DWord) : (g.dPut m r lane x).nextOp = g.nextOp := rfl
@[simp] theorem Group.dPut_pendST (g : Group) (m : Mode) (r lane : Nat) (x : DWord) : (g.dPut m r lane x).pendST = g.pendST := rfl
@[simp] theorem Group.dPut_pendCP (g : Group) (m : Mode) (r lane : Nat) (x : DWord) : (g.dPut m r lane x).pendCP = g.pendCP := rfl
@[simp] theorem Group.dPut_pendTX (g : Group) (m : Mode) (r lane : Nat) (x : DWord) : (g.dPut m r lane x).pendTX = g.pendTX := rfl
@[simp] theorem Group.dPut_seen (g : Group) (m : Mode) (r lane : Nat) (x : DWord) : (g.dPut m r lane x).seen = g.seen := rfl
@[simp] theorem Group.dPut_fwaited (g : Group) (m : Mode) (r lane : Nat) (x : DWord) : (g.dPut m r lane x).fwaited = g.fwaited := rfl
@[simp] theorem Group.dPut_icache (g : Group) (m : Mode) (r lane : Nat) (x : DWord) : (g.dPut m r lane x).icache = g.icache := rfl
@[simp] theorem Group.dPut_lastIssue (g : Group) (m : Mode) (r lane : Nat) (x : DWord) : (g.dPut m r lane x).lastIssue = g.lastIssue := rfl
@[simp] theorem Group.dPut_meas (g : Group) (m : Mode) (r lane : Nat) (x : DWord) : (g.dPut m r lane x).meas = g.meas := rfl
@[simp] theorem Group.dPut_freed (g : Group) (m : Mode) (r lane : Nat) (x : DWord) : (g.dPut m r lane x).freed = g.freed := rfl
@[simp] theorem Group.dPut_done (g : Group) (m : Mode) (r lane : Nat) (x : DWord) : (g.dPut m r lane x).done = g.done := rfl

@[simp] theorem Group.setTag_launch (g : Group) (m : Mode) (r : Nat) (t : Tag) : (g.setTag m r t).launch = g.launch := rfl
@[simp] theorem Group.setTag_vi (g : Group) (m : Mode) (r : Nat) (t : Tag) : (g.setTag m r t).vi = g.vi := rfl
@[simp] theorem Group.setTag_leaf (g : Group) (m : Mode) (r : Nat) (t : Tag) : (g.setTag m r t).leaf = g.leaf := rfl
@[simp] theorem Group.setTag_core (g : Group) (m : Mode) (r : Nat) (t : Tag) : (g.setTag m r t).core = g.core := rfl
@[simp] theorem Group.setTag_ctx (g : Group) (m : Mode) (r : Nat) (t : Tag) : (g.setTag m r t).ctx = g.ctx := rfl
@[simp] theorem Group.setTag_resident (g : Group) (m : Mode) (r : Nat) (t : Tag) : (g.setTag m r t).resident = g.resident := rfl
@[simp] theorem Group.setTag_task (g : Group) (m : Mode) (r : Nat) (t : Tag) : (g.setTag m r t).task = g.task := rfl
@[simp] theorem Group.setTag_role (g : Group) (m : Mode) (r : Nat) (t : Tag) : (g.setTag m r t).role = g.role := rfl
@[simp] theorem Group.setTag_pieces (g : Group) (m : Mode) (r : Nat) (t : Tag) : (g.setTag m r t).pieces = g.pieces := rfl
@[simp] theorem Group.setTag_lanes (g : Group) (m : Mode) (r : Nat) (t : Tag) : (g.setTag m r t).lanes = g.lanes := rfl
@[simp] theorem Group.setTag_v (g : Group) (m : Mode) (r : Nat) (t : Tag) : (g.setTag m r t).v = g.v := rfl
@[simp] theorem Group.setTag_k (g : Group) (m : Mode) (r : Nat) (t : Tag) : (g.setTag m r t).k = g.k := rfl
@[simp] theorem Group.setTag_p (g : Group) (m : Mode) (r : Nat) (t : Tag) : (g.setTag m r t).p = g.p := rfl
@[simp] theorem Group.setTag_t (g : Group) (m : Mode) (r : Nat) (t : Tag) : (g.setTag m r t).t = g.t := rfl
@[simp] theorem Group.setTag_w (g : Group) (m : Mode) (r : Nat) (t : Tag) : (g.setTag m r t).w = g.w := rfl
@[simp] theorem Group.setTag_f (g : Group) (m : Mode) (r : Nat) (t : Tag) : (g.setTag m r t).f = g.f := rfl
@[simp] theorem Group.setTag_image (g : Group) (m : Mode) (r : Nat) (t : Tag) : (g.setTag m r t).image = g.image := rfl
@[simp] theorem Group.setTag_local_ (g : Group) (m : Mode) (r : Nat) (t : Tag) : (g.setTag m r t).local_ = g.local_ := rfl
@[simp] theorem Group.setTag_remote (g : Group) (m : Mode) (r : Nat) (t : Tag) : (g.setTag m r t).remote = g.remote := rfl
@[simp] theorem Group.setTag_mon (g : Group) (m : Mode) (r : Nat) (t : Tag) : (g.setTag m r t).mon = g.mon := rfl
@[simp] theorem Group.setTag_asnStatus (g : Group) (m : Mode) (r : Nat) (t : Tag) : (g.setTag m r t).asnStatus = g.asnStatus := rfl
@[simp] theorem Group.setTag_fabStatus (g : Group) (m : Mode) (r : Nat) (t : Tag) : (g.setTag m r t).fabStatus = g.fabStatus := rfl
@[simp] theorem Group.setTag_hostcall (g : Group) (m : Mode) (r : Nat) (t : Tag) : (g.setTag m r t).hostcall = g.hostcall := rfl
@[simp] theorem Group.setTag_tvecS (g : Group) (m : Mode) (r : Nat) (t : Tag) : (g.setTag m r t).tvecS = g.tvecS := rfl
@[simp] theorem Group.setTag_tvecH (g : Group) (m : Mode) (r : Nat) (t : Tag) : (g.setTag m r t).tvecH = g.tvecH := rfl
@[simp] theorem Group.setTag_trapen (g : Group) (m : Mode) (r : Nat) (t : Tag) : (g.setTag m r t).trapen = g.trapen := rfl
@[simp] theorem Group.setTag_ops (g : Group) (m : Mode) (r : Nat) (t : Tag) : (g.setTag m r t).ops = g.ops := rfl
@[simp] theorem Group.setTag_nextOp (g : Group) (m : Mode) (r : Nat) (t : Tag) : (g.setTag m r t).nextOp = g.nextOp := rfl
@[simp] theorem Group.setTag_pendST (g : Group) (m : Mode) (r : Nat) (t : Tag) : (g.setTag m r t).pendST = g.pendST := rfl
@[simp] theorem Group.setTag_pendCP (g : Group) (m : Mode) (r : Nat) (t : Tag) : (g.setTag m r t).pendCP = g.pendCP := rfl
@[simp] theorem Group.setTag_pendTX (g : Group) (m : Mode) (r : Nat) (t : Tag) : (g.setTag m r t).pendTX = g.pendTX := rfl
@[simp] theorem Group.setTag_seen (g : Group) (m : Mode) (r : Nat) (t : Tag) : (g.setTag m r t).seen = g.seen := rfl
@[simp] theorem Group.setTag_fwaited (g : Group) (m : Mode) (r : Nat) (t : Tag) : (g.setTag m r t).fwaited = g.fwaited := rfl
@[simp] theorem Group.setTag_icache (g : Group) (m : Mode) (r : Nat) (t : Tag) : (g.setTag m r t).icache = g.icache := rfl
@[simp] theorem Group.setTag_lastIssue (g : Group) (m : Mode) (r : Nat) (t : Tag) : (g.setTag m r t).lastIssue = g.lastIssue := rfl
@[simp] theorem Group.setTag_meas (g : Group) (m : Mode) (r : Nat) (t : Tag) : (g.setTag m r t).meas = g.meas := rfl
@[simp] theorem Group.setTag_freed (g : Group) (m : Mode) (r : Nat) (t : Tag) : (g.setTag m r t).freed = g.freed := rfl
@[simp] theorem Group.setTag_done (g : Group) (m : Mode) (r : Nat) (t : Tag) : (g.setTag m r t).done = g.done := rfl

@[simp] theorem Group.kPut_launch (g : Group) (n : Nat) (x : DWord) : (g.kPut n x).launch = g.launch := rfl
@[simp] theorem Group.kPut_vi (g : Group) (n : Nat) (x : DWord) : (g.kPut n x).vi = g.vi := rfl
@[simp] theorem Group.kPut_leaf (g : Group) (n : Nat) (x : DWord) : (g.kPut n x).leaf = g.leaf := rfl
@[simp] theorem Group.kPut_core (g : Group) (n : Nat) (x : DWord) : (g.kPut n x).core = g.core := rfl
@[simp] theorem Group.kPut_ctx (g : Group) (n : Nat) (x : DWord) : (g.kPut n x).ctx = g.ctx := rfl
@[simp] theorem Group.kPut_resident (g : Group) (n : Nat) (x : DWord) : (g.kPut n x).resident = g.resident := rfl
@[simp] theorem Group.kPut_task (g : Group) (n : Nat) (x : DWord) : (g.kPut n x).task = g.task := rfl
@[simp] theorem Group.kPut_role (g : Group) (n : Nat) (x : DWord) : (g.kPut n x).role = g.role := rfl
@[simp] theorem Group.kPut_pieces (g : Group) (n : Nat) (x : DWord) : (g.kPut n x).pieces = g.pieces := rfl
@[simp] theorem Group.kPut_lanes (g : Group) (n : Nat) (x : DWord) : (g.kPut n x).lanes = g.lanes := rfl
@[simp] theorem Group.kPut_v (g : Group) (n : Nat) (x : DWord) : (g.kPut n x).v = g.v := rfl
@[simp] theorem Group.kPut_vtag (g : Group) (n : Nat) (x : DWord) : (g.kPut n x).vtag = g.vtag := rfl
@[simp] theorem Group.kPut_p (g : Group) (n : Nat) (x : DWord) : (g.kPut n x).p = g.p := rfl
@[simp] theorem Group.kPut_t (g : Group) (n : Nat) (x : DWord) : (g.kPut n x).t = g.t := rfl
@[simp] theorem Group.kPut_w (g : Group) (n : Nat) (x : DWord) : (g.kPut n x).w = g.w := rfl
@[simp] theorem Group.kPut_f (g : Group) (n : Nat) (x : DWord) : (g.kPut n x).f = g.f := rfl
@[simp] theorem Group.kPut_image (g : Group) (n : Nat) (x : DWord) : (g.kPut n x).image = g.image := rfl
@[simp] theorem Group.kPut_local_ (g : Group) (n : Nat) (x : DWord) : (g.kPut n x).local_ = g.local_ := rfl
@[simp] theorem Group.kPut_remote (g : Group) (n : Nat) (x : DWord) : (g.kPut n x).remote = g.remote := rfl
@[simp] theorem Group.kPut_mon (g : Group) (n : Nat) (x : DWord) : (g.kPut n x).mon = g.mon := rfl
@[simp] theorem Group.kPut_asnStatus (g : Group) (n : Nat) (x : DWord) : (g.kPut n x).asnStatus = g.asnStatus := rfl
@[simp] theorem Group.kPut_fabStatus (g : Group) (n : Nat) (x : DWord) : (g.kPut n x).fabStatus = g.fabStatus := rfl
@[simp] theorem Group.kPut_hostcall (g : Group) (n : Nat) (x : DWord) : (g.kPut n x).hostcall = g.hostcall := rfl
@[simp] theorem Group.kPut_tvecS (g : Group) (n : Nat) (x : DWord) : (g.kPut n x).tvecS = g.tvecS := rfl
@[simp] theorem Group.kPut_tvecH (g : Group) (n : Nat) (x : DWord) : (g.kPut n x).tvecH = g.tvecH := rfl
@[simp] theorem Group.kPut_trapen (g : Group) (n : Nat) (x : DWord) : (g.kPut n x).trapen = g.trapen := rfl
@[simp] theorem Group.kPut_ops (g : Group) (n : Nat) (x : DWord) : (g.kPut n x).ops = g.ops := rfl
@[simp] theorem Group.kPut_nextOp (g : Group) (n : Nat) (x : DWord) : (g.kPut n x).nextOp = g.nextOp := rfl
@[simp] theorem Group.kPut_pendST (g : Group) (n : Nat) (x : DWord) : (g.kPut n x).pendST = g.pendST := rfl
@[simp] theorem Group.kPut_pendCP (g : Group) (n : Nat) (x : DWord) : (g.kPut n x).pendCP = g.pendCP := rfl
@[simp] theorem Group.kPut_pendTX (g : Group) (n : Nat) (x : DWord) : (g.kPut n x).pendTX = g.pendTX := rfl
@[simp] theorem Group.kPut_seen (g : Group) (n : Nat) (x : DWord) : (g.kPut n x).seen = g.seen := rfl
@[simp] theorem Group.kPut_fwaited (g : Group) (n : Nat) (x : DWord) : (g.kPut n x).fwaited = g.fwaited := rfl
@[simp] theorem Group.kPut_icache (g : Group) (n : Nat) (x : DWord) : (g.kPut n x).icache = g.icache := rfl
@[simp] theorem Group.kPut_lastIssue (g : Group) (n : Nat) (x : DWord) : (g.kPut n x).lastIssue = g.lastIssue := rfl
@[simp] theorem Group.kPut_meas (g : Group) (n : Nat) (x : DWord) : (g.kPut n x).meas = g.meas := rfl
@[simp] theorem Group.kPut_freed (g : Group) (n : Nat) (x : DWord) : (g.kPut n x).freed = g.freed := rfl
@[simp] theorem Group.kPut_done (g : Group) (n : Nat) (x : DWord) : (g.kPut n x).done = g.done := rfl

@[simp] theorem Group.pPut_launch (g : Group) (n lane : Nat) (x : Bool) : (g.pPut n lane x).launch = g.launch := rfl
@[simp] theorem Group.pPut_vi (g : Group) (n lane : Nat) (x : Bool) : (g.pPut n lane x).vi = g.vi := rfl
@[simp] theorem Group.pPut_leaf (g : Group) (n lane : Nat) (x : Bool) : (g.pPut n lane x).leaf = g.leaf := rfl
@[simp] theorem Group.pPut_core (g : Group) (n lane : Nat) (x : Bool) : (g.pPut n lane x).core = g.core := rfl
@[simp] theorem Group.pPut_ctx (g : Group) (n lane : Nat) (x : Bool) : (g.pPut n lane x).ctx = g.ctx := rfl
@[simp] theorem Group.pPut_resident (g : Group) (n lane : Nat) (x : Bool) : (g.pPut n lane x).resident = g.resident := rfl
@[simp] theorem Group.pPut_task (g : Group) (n lane : Nat) (x : Bool) : (g.pPut n lane x).task = g.task := rfl
@[simp] theorem Group.pPut_role (g : Group) (n lane : Nat) (x : Bool) : (g.pPut n lane x).role = g.role := rfl
@[simp] theorem Group.pPut_pieces (g : Group) (n lane : Nat) (x : Bool) : (g.pPut n lane x).pieces = g.pieces := rfl
@[simp] theorem Group.pPut_lanes (g : Group) (n lane : Nat) (x : Bool) : (g.pPut n lane x).lanes = g.lanes := rfl
@[simp] theorem Group.pPut_v (g : Group) (n lane : Nat) (x : Bool) : (g.pPut n lane x).v = g.v := rfl
@[simp] theorem Group.pPut_vtag (g : Group) (n lane : Nat) (x : Bool) : (g.pPut n lane x).vtag = g.vtag := rfl
@[simp] theorem Group.pPut_k (g : Group) (n lane : Nat) (x : Bool) : (g.pPut n lane x).k = g.k := rfl
@[simp] theorem Group.pPut_t (g : Group) (n lane : Nat) (x : Bool) : (g.pPut n lane x).t = g.t := rfl
@[simp] theorem Group.pPut_w (g : Group) (n lane : Nat) (x : Bool) : (g.pPut n lane x).w = g.w := rfl
@[simp] theorem Group.pPut_f (g : Group) (n lane : Nat) (x : Bool) : (g.pPut n lane x).f = g.f := rfl
@[simp] theorem Group.pPut_image (g : Group) (n lane : Nat) (x : Bool) : (g.pPut n lane x).image = g.image := rfl
@[simp] theorem Group.pPut_local_ (g : Group) (n lane : Nat) (x : Bool) : (g.pPut n lane x).local_ = g.local_ := rfl
@[simp] theorem Group.pPut_remote (g : Group) (n lane : Nat) (x : Bool) : (g.pPut n lane x).remote = g.remote := rfl
@[simp] theorem Group.pPut_mon (g : Group) (n lane : Nat) (x : Bool) : (g.pPut n lane x).mon = g.mon := rfl
@[simp] theorem Group.pPut_asnStatus (g : Group) (n lane : Nat) (x : Bool) : (g.pPut n lane x).asnStatus = g.asnStatus := rfl
@[simp] theorem Group.pPut_fabStatus (g : Group) (n lane : Nat) (x : Bool) : (g.pPut n lane x).fabStatus = g.fabStatus := rfl
@[simp] theorem Group.pPut_hostcall (g : Group) (n lane : Nat) (x : Bool) : (g.pPut n lane x).hostcall = g.hostcall := rfl
@[simp] theorem Group.pPut_tvecS (g : Group) (n lane : Nat) (x : Bool) : (g.pPut n lane x).tvecS = g.tvecS := rfl
@[simp] theorem Group.pPut_tvecH (g : Group) (n lane : Nat) (x : Bool) : (g.pPut n lane x).tvecH = g.tvecH := rfl
@[simp] theorem Group.pPut_trapen (g : Group) (n lane : Nat) (x : Bool) : (g.pPut n lane x).trapen = g.trapen := rfl
@[simp] theorem Group.pPut_ops (g : Group) (n lane : Nat) (x : Bool) : (g.pPut n lane x).ops = g.ops := rfl
@[simp] theorem Group.pPut_nextOp (g : Group) (n lane : Nat) (x : Bool) : (g.pPut n lane x).nextOp = g.nextOp := rfl
@[simp] theorem Group.pPut_pendST (g : Group) (n lane : Nat) (x : Bool) : (g.pPut n lane x).pendST = g.pendST := rfl
@[simp] theorem Group.pPut_pendCP (g : Group) (n lane : Nat) (x : Bool) : (g.pPut n lane x).pendCP = g.pendCP := rfl
@[simp] theorem Group.pPut_pendTX (g : Group) (n lane : Nat) (x : Bool) : (g.pPut n lane x).pendTX = g.pendTX := rfl
@[simp] theorem Group.pPut_seen (g : Group) (n lane : Nat) (x : Bool) : (g.pPut n lane x).seen = g.seen := rfl
@[simp] theorem Group.pPut_fwaited (g : Group) (n lane : Nat) (x : Bool) : (g.pPut n lane x).fwaited = g.fwaited := rfl
@[simp] theorem Group.pPut_icache (g : Group) (n lane : Nat) (x : Bool) : (g.pPut n lane x).icache = g.icache := rfl
@[simp] theorem Group.pPut_lastIssue (g : Group) (n lane : Nat) (x : Bool) : (g.pPut n lane x).lastIssue = g.lastIssue := rfl
@[simp] theorem Group.pPut_meas (g : Group) (n lane : Nat) (x : Bool) : (g.pPut n lane x).meas = g.meas := rfl
@[simp] theorem Group.pPut_freed (g : Group) (n lane : Nat) (x : Bool) : (g.pPut n lane x).freed = g.freed := rfl
@[simp] theorem Group.pPut_done (g : Group) (n lane : Nat) (x : Bool) : (g.pPut n lane x).done = g.done := rfl

@[simp] theorem Group.tPut_launch (g : Group) (n : Nat) (x : TileReg) : (g.tPut n x).launch = g.launch := rfl
@[simp] theorem Group.tPut_vi (g : Group) (n : Nat) (x : TileReg) : (g.tPut n x).vi = g.vi := rfl
@[simp] theorem Group.tPut_leaf (g : Group) (n : Nat) (x : TileReg) : (g.tPut n x).leaf = g.leaf := rfl
@[simp] theorem Group.tPut_core (g : Group) (n : Nat) (x : TileReg) : (g.tPut n x).core = g.core := rfl
@[simp] theorem Group.tPut_ctx (g : Group) (n : Nat) (x : TileReg) : (g.tPut n x).ctx = g.ctx := rfl
@[simp] theorem Group.tPut_resident (g : Group) (n : Nat) (x : TileReg) : (g.tPut n x).resident = g.resident := rfl
@[simp] theorem Group.tPut_task (g : Group) (n : Nat) (x : TileReg) : (g.tPut n x).task = g.task := rfl
@[simp] theorem Group.tPut_role (g : Group) (n : Nat) (x : TileReg) : (g.tPut n x).role = g.role := rfl
@[simp] theorem Group.tPut_pieces (g : Group) (n : Nat) (x : TileReg) : (g.tPut n x).pieces = g.pieces := rfl
@[simp] theorem Group.tPut_lanes (g : Group) (n : Nat) (x : TileReg) : (g.tPut n x).lanes = g.lanes := rfl
@[simp] theorem Group.tPut_v (g : Group) (n : Nat) (x : TileReg) : (g.tPut n x).v = g.v := rfl
@[simp] theorem Group.tPut_vtag (g : Group) (n : Nat) (x : TileReg) : (g.tPut n x).vtag = g.vtag := rfl
@[simp] theorem Group.tPut_k (g : Group) (n : Nat) (x : TileReg) : (g.tPut n x).k = g.k := rfl
@[simp] theorem Group.tPut_p (g : Group) (n : Nat) (x : TileReg) : (g.tPut n x).p = g.p := rfl
@[simp] theorem Group.tPut_w (g : Group) (n : Nat) (x : TileReg) : (g.tPut n x).w = g.w := rfl
@[simp] theorem Group.tPut_f (g : Group) (n : Nat) (x : TileReg) : (g.tPut n x).f = g.f := rfl
@[simp] theorem Group.tPut_image (g : Group) (n : Nat) (x : TileReg) : (g.tPut n x).image = g.image := rfl
@[simp] theorem Group.tPut_local_ (g : Group) (n : Nat) (x : TileReg) : (g.tPut n x).local_ = g.local_ := rfl
@[simp] theorem Group.tPut_remote (g : Group) (n : Nat) (x : TileReg) : (g.tPut n x).remote = g.remote := rfl
@[simp] theorem Group.tPut_mon (g : Group) (n : Nat) (x : TileReg) : (g.tPut n x).mon = g.mon := rfl
@[simp] theorem Group.tPut_asnStatus (g : Group) (n : Nat) (x : TileReg) : (g.tPut n x).asnStatus = g.asnStatus := rfl
@[simp] theorem Group.tPut_fabStatus (g : Group) (n : Nat) (x : TileReg) : (g.tPut n x).fabStatus = g.fabStatus := rfl
@[simp] theorem Group.tPut_hostcall (g : Group) (n : Nat) (x : TileReg) : (g.tPut n x).hostcall = g.hostcall := rfl
@[simp] theorem Group.tPut_tvecS (g : Group) (n : Nat) (x : TileReg) : (g.tPut n x).tvecS = g.tvecS := rfl
@[simp] theorem Group.tPut_tvecH (g : Group) (n : Nat) (x : TileReg) : (g.tPut n x).tvecH = g.tvecH := rfl
@[simp] theorem Group.tPut_trapen (g : Group) (n : Nat) (x : TileReg) : (g.tPut n x).trapen = g.trapen := rfl
@[simp] theorem Group.tPut_ops (g : Group) (n : Nat) (x : TileReg) : (g.tPut n x).ops = g.ops := rfl
@[simp] theorem Group.tPut_nextOp (g : Group) (n : Nat) (x : TileReg) : (g.tPut n x).nextOp = g.nextOp := rfl
@[simp] theorem Group.tPut_pendST (g : Group) (n : Nat) (x : TileReg) : (g.tPut n x).pendST = g.pendST := rfl
@[simp] theorem Group.tPut_pendCP (g : Group) (n : Nat) (x : TileReg) : (g.tPut n x).pendCP = g.pendCP := rfl
@[simp] theorem Group.tPut_pendTX (g : Group) (n : Nat) (x : TileReg) : (g.tPut n x).pendTX = g.pendTX := rfl
@[simp] theorem Group.tPut_seen (g : Group) (n : Nat) (x : TileReg) : (g.tPut n x).seen = g.seen := rfl
@[simp] theorem Group.tPut_fwaited (g : Group) (n : Nat) (x : TileReg) : (g.tPut n x).fwaited = g.fwaited := rfl
@[simp] theorem Group.tPut_icache (g : Group) (n : Nat) (x : TileReg) : (g.tPut n x).icache = g.icache := rfl
@[simp] theorem Group.tPut_lastIssue (g : Group) (n : Nat) (x : TileReg) : (g.tPut n x).lastIssue = g.lastIssue := rfl
@[simp] theorem Group.tPut_meas (g : Group) (n : Nat) (x : TileReg) : (g.tPut n x).meas = g.meas := rfl
@[simp] theorem Group.tPut_freed (g : Group) (n : Nat) (x : TileReg) : (g.tPut n x).freed = g.freed := rfl
@[simp] theorem Group.tPut_done (g : Group) (n : Nat) (x : TileReg) : (g.tPut n x).done = g.done := rfl

@[simp] theorem Group.asLane_launch (g : Group) (i : Nat) : (g.asLane i).launch = g.launch := by
  unfold Group.asLane; dsimp only; split <;> rfl
@[simp] theorem Group.asLane_vi (g : Group) (i : Nat) : (g.asLane i).vi = g.vi := by
  unfold Group.asLane; dsimp only; split <;> rfl
@[simp] theorem Group.asLane_leaf (g : Group) (i : Nat) : (g.asLane i).leaf = g.leaf := by
  unfold Group.asLane; dsimp only; split <;> rfl
@[simp] theorem Group.asLane_core (g : Group) (i : Nat) : (g.asLane i).core = g.core := by
  unfold Group.asLane; dsimp only; split <;> rfl
@[simp] theorem Group.asLane_ctx (g : Group) (i : Nat) : (g.asLane i).ctx = g.ctx := by
  unfold Group.asLane; dsimp only; split <;> rfl
@[simp] theorem Group.asLane_resident (g : Group) (i : Nat) : (g.asLane i).resident = g.resident := by
  unfold Group.asLane; dsimp only; split <;> rfl
@[simp] theorem Group.asLane_task (g : Group) (i : Nat) : (g.asLane i).task = g.task := by
  unfold Group.asLane; dsimp only; split <;> rfl
@[simp] theorem Group.asLane_role (g : Group) (i : Nat) : (g.asLane i).role = g.role := by
  unfold Group.asLane; dsimp only; split <;> rfl
@[simp] theorem Group.asLane_lanes (g : Group) (i : Nat) : (g.asLane i).lanes = g.lanes := by
  unfold Group.asLane; dsimp only; split <;> rfl
@[simp] theorem Group.asLane_v (g : Group) (i : Nat) : (g.asLane i).v = g.v := by
  unfold Group.asLane; dsimp only; split <;> rfl
@[simp] theorem Group.asLane_vtag (g : Group) (i : Nat) : (g.asLane i).vtag = g.vtag := by
  unfold Group.asLane; dsimp only; split <;> rfl
@[simp] theorem Group.asLane_k (g : Group) (i : Nat) : (g.asLane i).k = g.k := by
  unfold Group.asLane; dsimp only; split <;> rfl
@[simp] theorem Group.asLane_p (g : Group) (i : Nat) : (g.asLane i).p = g.p := by
  unfold Group.asLane; dsimp only; split <;> rfl
@[simp] theorem Group.asLane_t (g : Group) (i : Nat) : (g.asLane i).t = g.t := by
  unfold Group.asLane; dsimp only; split <;> rfl
@[simp] theorem Group.asLane_w (g : Group) (i : Nat) : (g.asLane i).w = g.w := by
  unfold Group.asLane; dsimp only; split <;> rfl
@[simp] theorem Group.asLane_f (g : Group) (i : Nat) : (g.asLane i).f = g.f := by
  unfold Group.asLane; dsimp only; split <;> rfl
@[simp] theorem Group.asLane_image (g : Group) (i : Nat) : (g.asLane i).image = g.image := by
  unfold Group.asLane; dsimp only; split <;> rfl
@[simp] theorem Group.asLane_local_ (g : Group) (i : Nat) : (g.asLane i).local_ = g.local_ := by
  unfold Group.asLane; dsimp only; split <;> rfl
@[simp] theorem Group.asLane_remote (g : Group) (i : Nat) : (g.asLane i).remote = g.remote := by
  unfold Group.asLane; dsimp only; split <;> rfl
@[simp] theorem Group.asLane_mon (g : Group) (i : Nat) : (g.asLane i).mon = g.mon := by
  unfold Group.asLane; dsimp only; split <;> rfl
@[simp] theorem Group.asLane_asnStatus (g : Group) (i : Nat) : (g.asLane i).asnStatus = g.asnStatus := by
  unfold Group.asLane; dsimp only; split <;> rfl
@[simp] theorem Group.asLane_fabStatus (g : Group) (i : Nat) : (g.asLane i).fabStatus = g.fabStatus := by
  unfold Group.asLane; dsimp only; split <;> rfl
@[simp] theorem Group.asLane_hostcall (g : Group) (i : Nat) : (g.asLane i).hostcall = g.hostcall := by
  unfold Group.asLane; dsimp only; split <;> rfl
@[simp] theorem Group.asLane_tvecS (g : Group) (i : Nat) : (g.asLane i).tvecS = g.tvecS := by
  unfold Group.asLane; dsimp only; split <;> rfl
@[simp] theorem Group.asLane_tvecH (g : Group) (i : Nat) : (g.asLane i).tvecH = g.tvecH := by
  unfold Group.asLane; dsimp only; split <;> rfl
@[simp] theorem Group.asLane_trapen (g : Group) (i : Nat) : (g.asLane i).trapen = g.trapen := by
  unfold Group.asLane; dsimp only; split <;> rfl
@[simp] theorem Group.asLane_ops (g : Group) (i : Nat) : (g.asLane i).ops = g.ops := by
  unfold Group.asLane; dsimp only; split <;> rfl
@[simp] theorem Group.asLane_nextOp (g : Group) (i : Nat) : (g.asLane i).nextOp = g.nextOp := by
  unfold Group.asLane; dsimp only; split <;> rfl
@[simp] theorem Group.asLane_pendST (g : Group) (i : Nat) : (g.asLane i).pendST = g.pendST := by
  unfold Group.asLane; dsimp only; split <;> rfl
@[simp] theorem Group.asLane_pendCP (g : Group) (i : Nat) : (g.asLane i).pendCP = g.pendCP := by
  unfold Group.asLane; dsimp only; split <;> rfl
@[simp] theorem Group.asLane_pendTX (g : Group) (i : Nat) : (g.asLane i).pendTX = g.pendTX := by
  unfold Group.asLane; dsimp only; split <;> rfl
@[simp] theorem Group.asLane_seen (g : Group) (i : Nat) : (g.asLane i).seen = g.seen := by
  unfold Group.asLane; dsimp only; split <;> rfl
@[simp] theorem Group.asLane_fwaited (g : Group) (i : Nat) : (g.asLane i).fwaited = g.fwaited := by
  unfold Group.asLane; dsimp only; split <;> rfl
@[simp] theorem Group.asLane_icache (g : Group) (i : Nat) : (g.asLane i).icache = g.icache := by
  unfold Group.asLane; dsimp only; split <;> rfl
@[simp] theorem Group.asLane_lastIssue (g : Group) (i : Nat) : (g.asLane i).lastIssue = g.lastIssue := by
  unfold Group.asLane; dsimp only; split <;> rfl
@[simp] theorem Group.asLane_meas (g : Group) (i : Nat) : (g.asLane i).meas = g.meas := by
  unfold Group.asLane; dsimp only; split <;> rfl
@[simp] theorem Group.asLane_freed (g : Group) (i : Nat) : (g.asLane i).freed = g.freed := by
  unfold Group.asLane; dsimp only; split <;> rfl
@[simp] theorem Group.asLane_done (g : Group) (i : Nat) : (g.asLane i).done = g.done := by
  unfold Group.asLane; dsimp only; split <;> rfl

@[simp] theorem Group.asLane_vGet_ (g : Group) (i : Nat) (m : Mode) (r j : Nat) : (g.asLane i).vGet m r j = g.vGet m r j := by
  simp [Group.vGet]
@[simp] theorem Group.asLane_dGet_ (g : Group) (i : Nat) (m : Mode) (r j : Nat) : (g.asLane i).dGet m r j = g.dGet m r j := by
  simp [Group.dGet, Group.vGet]
@[simp] theorem Group.asLane_tag_ (g : Group) (i : Nat) (m : Mode) (r : Nat) : (g.asLane i).tag m r = g.tag m r := by
  simp [Group.tag]
@[simp] theorem Group.asLane_kGet_ (g : Group) (i : Nat) (n : Nat) : (g.asLane i).kGet n = g.kGet n := by
  simp [Group.kGet]
@[simp] theorem Group.asLane_pGet_ (g : Group) (i : Nat) (n j : Nat) : (g.asLane i).pGet n j = g.pGet n j := by
  simp [Group.pGet, Group.pMask]
@[simp] theorem Group.asLane_pMask_ (g : Group) (i : Nat) (n : Nat) : (g.asLane i).pMask n = g.pMask n := by
  simp [Group.pMask]
@[simp] theorem Group.asLane_tGet_ (g : Group) (i : Nat) (n : Nat) : (g.asLane i).tGet n = g.tGet n := by
  simp [Group.tGet]
@[simp] theorem Group.asLane_lane_ (g : Group) (i : Nat) (n : Nat) : (g.asLane i).lane n = g.lane n := by
  simp [Group.lane]

end Sys2Proof.Machine
end

