-- ==== Sys2Proof/Laws/Table.lean ====
section
/-!
SUPPORT. What the operations of a sparse table do to its entries, and that they keep the canonical form; the same for
bytes put into memory.
-/

namespace Sys2Proof.Machine

variable {α : Type}

@[simp] theorem tblFind_nil (k : Nat) : tblFind ([] : Tbl α) k = none := rfl

/-- Reading an entry after setting it, or another. -/
theorem tblFind_tblSet (t : Tbl α) (k j : Nat) (v : α) :
    tblFind (tblSet t k v) j = if j = k then some v else tblFind t j := by
  induction t with
  | nil => by_cases h : j = k <;> simp [tblSet, tblFind, h]
  | cons p t ih =>
    obtain ⟨a, u⟩ := p
    unfold tblSet
    split
    · rename_i h1; subst h1
      by_cases h : j = k <;> simp [tblFind, h]
    · split
      · by_cases h : j = k <;> simp [tblFind, h]
      · by_cases h : j = k
        · subst h; simp only [tblFind, if_true] at ih ⊢; rw [if_neg ‹_›]; exact ih
        · simp only [tblFind, if_neg h] at ih ⊢; rw [ih]

theorem tblFind_tblErase (t : Tbl α) (k j : Nat) :
    tblFind (tblErase t k) j = if j = k then none else tblFind t j := by
  induction t with
  | nil => simp [tblErase, tblFind]
  | cons p t ih =>
    obtain ⟨a, u⟩ := p
    by_cases h : j = k
    · subst h
      by_cases h1 : j = a
      · simp only [tblErase, if_pos h1, if_true] at ih ⊢; exact ih
      · simp only [tblErase, if_neg h1, tblFind, if_true] at ih ⊢; exact ih
    · by_cases h1 : k = a
      · subst h1; simp only [tblErase, if_true, ih, if_neg h, tblFind]
      · by_cases h2 : j = a
        · simp only [tblErase, if_neg h1, tblFind, if_pos h2, if_neg h]
        · simp only [tblErase, if_neg h1, tblFind, if_neg h2, if_neg h] at ih ⊢; exact ih

/-- An entry after a write in canonical form. -/
theorem tblGet_tblPut [DecidableEq α] (t : Tbl α) (d : α) (k j : Nat) (v : α) :
    tblGet (tblPut t d k v) d j = if j = k then v else tblGet t d j := by
  unfold tblPut tblGet
  by_cases hv : v = d
  · rw [if_pos hv, tblFind_tblErase]
    by_cases h : j = k <;> simp [h, hv]
  · rw [if_neg hv, tblFind_tblSet]
    by_cases h : j = k <;> simp [h]

theorem tblGet_tblSet (t : Tbl α) (d : α) (k j : Nat) (v : α) :
    tblGet (tblSet t k v) d j = if j = k then v else tblGet t d j := by
  unfold tblGet
  rw [tblFind_tblSet]
  by_cases h : j = k <;> simp [h]

theorem tblFind_tblMod (t : Tbl α) (k j : Nat) (f : α → α) :
    tblFind (tblMod t k f) j = if j = k then (tblFind t k).map f else tblFind t j := by
  unfold tblMod
  cases h : tblFind t k with
  | none => by_cases hj : j = k <;> simp [hj, h]
  | some v => simp [tblFind_tblSet]

/-! ### The canonical form -/

theorem tblSortedFrom_mono {t : Tbl α} {b c : Nat} (h : tblSortedFrom c t = true) (hbc : b ≤ c) :
    tblSortedFrom b t = true := by
  cases t with
  | nil => rfl
  | cons p t =>
    obtain ⟨a, u⟩ := p
    simp only [tblSortedFrom, Bool.and_eq_true, decide_eq_true_eq] at h ⊢
    exact ⟨by omega, h.2⟩

theorem tblSortedFrom_tblErase {t : Tbl α} {b : Nat} (k : Nat) (h : tblSortedFrom b t = true) :
    tblSortedFrom b (tblErase t k) = true := by
  induction t generalizing b with
  | nil => rfl
  | cons p t ih =>
    obtain ⟨a, u⟩ := p
    simp only [tblSortedFrom, Bool.and_eq_true, decide_eq_true_eq] at h
    unfold tblErase
    split
    · exact ih (tblSortedFrom_mono h.2 (by omega))
    · simp only [tblSortedFrom, Bool.and_eq_true, decide_eq_true_eq]; exact ⟨h.1, ih h.2⟩

theorem tblSortedFrom_tblSet {t : Tbl α} {b : Nat} (k : Nat) (v : α) (hb : b ≤ k) (h : tblSortedFrom b t = true) :
    tblSortedFrom b (tblSet t k v) = true := by
  induction t generalizing b with
  | nil => simp [tblSet, tblSortedFrom, hb]
  | cons p t ih =>
    obtain ⟨a, u⟩ := p
    simp only [tblSortedFrom, Bool.and_eq_true, decide_eq_true_eq] at h
    unfold tblSet
    split
    · simp only [tblSortedFrom, Bool.and_eq_true, decide_eq_true_eq]
      exact ⟨hb, by simp_all⟩
    · split
      · simp only [tblSortedFrom, Bool.and_eq_true, decide_eq_true_eq]
        exact ⟨hb, by omega, h.2⟩
      · simp only [tblSortedFrom, Bool.and_eq_true, decide_eq_true_eq]
        exact ⟨h.1, ih (by omega) h.2⟩

theorem mem_tblErase {t : Tbl α} {k : Nat} {p : Nat × α} (h : p ∈ tblErase t k) : p ∈ t := by
  induction t with
  | nil => exact h
  | cons q t ih =>
    obtain ⟨a, u⟩ := q
    unfold tblErase at h
    split at h
    · exact List.mem_cons_of_mem _ (ih h)
    · rcases List.mem_cons.1 h with h | h
      · exact h ▸ List.mem_cons_self
      · exact List.mem_cons_of_mem _ (ih h)

theorem mem_tblSet {t : Tbl α} {k : Nat} {v : α} {p : Nat × α} (h : p ∈ tblSet t k v) : p = (k, v) ∨ p ∈ t := by
  induction t with
  | nil => simpa [tblSet] using h
  | cons q t ih =>
    obtain ⟨a, u⟩ := q
    unfold tblSet at h
    split at h
    · rcases List.mem_cons.1 h with h | h
      · exact .inl h
      · exact .inr (List.mem_cons_of_mem _ h)
    · split at h
      · rcases List.mem_cons.1 h with h | h
        · exact .inl h
        · exact .inr h
      · rcases List.mem_cons.1 h with h | h
        · exact .inr (h ▸ List.mem_cons_self)
        · exact (ih h).imp id (List.mem_cons_of_mem _)

/-- Writing an entry keeps the canonical form. -/
theorem tblWf_tblPut [DecidableEq α] {d : α} {t : Tbl α} (k : Nat) (v : α) (h : tblWf d t = true) :
    tblWf d (tblPut t d k v) = true := by
  simp only [tblWf, Bool.and_eq_true, List.all_eq_true, decide_eq_true_eq] at h ⊢
  unfold tblPut
  split
  · exact ⟨tblSortedFrom_tblErase k h.1, fun p hp => h.2 p (mem_tblErase hp)⟩
  · rename_i hv
    refine ⟨tblSortedFrom_tblSet k v (Nat.zero_le _) h.1, fun p hp => ?_⟩
    rcases mem_tblSet hp with hp | hp
    · rw [hp]; exact hv
    · exact h.2 p hp

/-- Putting bytes into memory keeps its canonical form. -/
theorem memPut_wf {m : List Host.Cell} (a : Nat) (bs : List Byte) (h : Memory.wf m = true) :
    Memory.wf (memPut m a bs) = true := by
  induction bs generalizing m a with
  | nil => exact h
  | cons b bs ih => exact ih (a + 1) (tblWf_tblPut a b h)

/-- A byte of memory after bytes were put from `a` on. -/
theorem memPut_get (m : List Host.Cell) (a : Nat) (bs : List Byte) (j : Nat) :
    tblGet (memPut m a bs) 0 j = if a ≤ j ∧ j < a + bs.length then bs.getD (j - a) 0 else tblGet m 0 j := by
  induction bs generalizing m a with
  | nil => simp [memPut]
  | cons b bs ih =>
    rw [memPut, ih, tblGet_tblPut]
    by_cases h1 : j = a
    · subst h1; simp
    · by_cases h2 : a ≤ j ∧ j < a + (b :: bs).length
      · rw [if_pos h2, if_pos (by simp at h2 ⊢; omega)]
        obtain ⟨n, hn⟩ : ∃ n, j - a = n + 1 := ⟨j - a - 1, by omega⟩
        rw [hn]
        simp only [List.getD_cons_succ]
        congr 1
        omega
      · rw [if_neg h2, if_neg (by simp at h2 ⊢; omega), if_neg h1]

end Sys2Proof.Machine
end

