-- ==== Sys2Proof/Laws/Serve.lean ====
section
/-!
SUPPORT. What serving an instruction does, said once: the shape of a served issue without streams, and the end of an issue
in its group and outside it.
-/

namespace Sys2Proof.Machine
open Sys2Proof

/-! ### Groups of the state -/

theorem State.group_modGroup (s : State) (gid h : Nat) (f : Group → Group) :
    (s.modGroup gid f).group h = if h = gid then (s.group gid).map f else s.group h := by
  unfold State.group State.modGroup
  exact tblFind_tblMod _ _ _ _

@[simp] theorem State.group_modPart (s : State) (n h : Nat) (f : Part → Part) : (s.modPart n f).group h = s.group h := rfl
@[simp] theorem State.group_modCore (s : State) (n h : Nat) (f : Core → Core) : (s.modCore n f).group h = s.group h := rfl
@[simp] theorem State.group_countEvent (s : State) (c e n h : Nat) : (s.countEvent c e n).group h = s.group h := rfl

@[simp] theorem State.group_spend (s : State) (leaf k n h : Nat) : (s.spend leaf k n).group h = s.group h := by
  unfold State.spend; split <;> rfl

/-! ### Lanes of a group -/

theorem Group.lane_modLane (g : Group) (i j : Nat) (f : Lane → Lane) :
    (g.modLane i f).lane j = if j = i then f (g.lane i) else g.lane j := by
  unfold Group.lane Group.modLane
  exact tblGet_tblSet _ _ _ _ _

/-- A fold that changes each listed lane once. -/
theorem Group.lane_foldl (ls : List Nat) (f : Nat → Lane → Lane) (g : Group) (j : Nat) (h : ls.Nodup) :
    (ls.foldl (fun g i => g.modLane i (f i)) g).lane j = if j ∈ ls then f j (g.lane j) else g.lane j := by
  induction ls generalizing g with
  | nil => simp
  | cons i ls ih =>
    obtain ⟨h1, h2⟩ := List.nodup_cons.1 h
    rw [List.foldl_cons, ih _ h2, Group.lane_modLane]
    by_cases hj : j = i
    · subst hj; simp [h1]
    · by_cases hm : j ∈ ls <;> simp [hj, hm]

/-- A fold over lanes changes nothing but lanes. -/
theorem Group.foldl_lanes_only (ls : List Nat) (f : Nat → Lane → Lane) (g : Group) :
    { ls.foldl (fun g i => g.modLane i (f i)) g with lanes := g.lanes } = g := by
  induction ls generalizing g with
  | nil => rfl
  | cons i ls ih =>
    have := ih (g.modLane i (f i))
    rw [List.foldl_cons]
    generalize ls.foldl (fun g i => g.modLane i (f i)) (g.modLane i (f i)) = g' at *
    cases g; cases g'
    simp_all [Group.modLane]

/-! ### Counters of a core and a partition -/

theorem State.core_countEvent (s : State) (c e n k : Nat) :
    { (s.countEvent c e n).core k with evc := (s.core k).evc } = s.core k := by
  have h : (s.countEvent c e n).core k = if k = c then _ else s.core k := tblGet_tblSet _ _ _ _ _
  rw [h]
  by_cases hk : k = c
  · subst hk; rw [if_pos rfl]
  · rw [if_neg hk]

theorem State.part_spend (s : State) (leaf k n j : Nat) :
    { (s.spend leaf k n).part j with used := (s.part j).used } = s.part j := by
  have h (s : State) (m : Nat) : { (s.modPart m (fun p => p.spend k n)).part j with used := (s.part j).used } = s.part j := by
    have h : (s.modPart m (fun p => p.spend k n)).part j = if j = m then _ else s.part j := tblGet_tblSet _ _ _ _ _
    rw [h]
    by_cases hk : j = m
    · subst hk; rw [if_pos rfl]; rfl
    · rw [if_neg hk]
  unfold State.spend
  dsimp only
  split
  · exact h s leaf
  · have a := h s leaf
    have b := h (s.modPart leaf (fun p => p.spend k n)) (topOf leaf)
    generalize ((s.modPart leaf (fun p => p.spend k n)).modPart (topOf leaf) (fun p => p.spend k n)).part j = x at *
    generalize (s.modPart leaf (fun p => p.spend k n)).part j = y at *
    generalize s.part j = z at *
    cases x; cases y; cases z; simp_all

theorem State.spend_rest (s : State) (leaf k n : Nat) : { s.spend leaf k n with parts := s.parts } = s := by
  unfold State.spend; dsimp only; split <;> rfl

/-! ### Updates of one group -/

/-- `t` is `s` with group `gid` being `g'`, but for event counters. -/
structure Upd (s t : State) (gid : Nat) (g' : Group) : Prop where
  group : t.group gid = some g'
  others : ∀ h, h ≠ gid → t.group h = s.group h
  rest : { t with groups := s.groups, cores := s.cores } = s
  cores : ∀ n, { t.core n with evc := (s.core n).evc } = s.core n

theorem Upd.refl {s : State} {gid : Nat} {g : Group} (h : s.group gid = some g) : Upd s s gid g :=
  ⟨h, fun _ _ => rfl, rfl, fun _ => rfl⟩

theorem Upd.modGroup {s t : State} {gid : Nat} {g : Group} (h : Upd s t gid g) (f : Group → Group) :
    Upd s (t.modGroup gid f) gid (f g) := by
  refine ⟨?_, fun k hk => ?_, ?_, ?_⟩
  · rw [State.group_modGroup, if_pos rfl, h.group]; rfl
  · rw [State.group_modGroup, if_neg hk, h.others k hk]
  · exact h.rest
  · exact h.cores

theorem Upd.trans {s t u : State} {gid : Nat} {g g' : Group} (h : Upd s t gid g) (h' : Upd t u gid g') : Upd s u gid g' := by
  refine ⟨h'.group, fun k hk => (h'.others k hk).trans (h.others k hk), ?_, fun n => ?_⟩
  · have a := h.rest
    have b := h'.rest
    cases s; cases t; cases u; simp_all
  · have a := h.cores n
    have b := h'.cores n
    generalize s.core n = x at *
    generalize t.core n = y at *
    generalize u.core n = z at *
    cases x; cases y; cases z; simp_all

theorem Upd.countEvent {s t : State} {gid : Nat} {g : Group} (h : Upd s t gid g) (c e n : Nat) :
    Upd s (t.countEvent c e n) gid g :=
  h.trans ⟨h.group, fun _ _ => rfl, rfl, State.core_countEvent t c e n⟩

/-! ### The end of an issue -/

/-- Taking a trap where the lane's group has a handler (R334): the lane enters it, and the core's event counters count. -/
theorem State.takeTrap_upd {s : State} {gid : Nat} {g : Group} (i : Nat) (c : BitVec 8) (v : DWord) (resume : BitVec 48)
    (hg : s.group gid = some g) {t : Mode} {vec : BitVec 48} (ht : trapMode g (g.lane i).mode = some (t, vec)) :
    Upd s (s.takeTrap gid i c v resume) gid (g.modLane i (fun l => l.enter t vec resume c v)) := by
  have e : s.takeTrap gid i c v resume = (s.countEvent g.core 6 1).modLane gid i (fun l => l.enter t vec resume c v) := by
    unfold State.takeTrap
    rw [hg]
    simp only [ht]
  rw [e]
  exact ((Upd.refl hg).countEvent _ _ _).modGroup (fun g => g.modLane i (fun l => l.enter t vec resume c v))

theorem State.endLane_upd {s : State} {iss : Issue} {g : Group} (i : Nat) (e : LaneEnd) (he : e.handled g (g.lane i) = true)
    (hg : s.group iss.gid = some g) :
    ∃ g', Upd s (s.endLane iss i e) iss.gid g' ∧ { g' with lanes := g.lanes } = g ∧
      ∀ j, g'.lane j = if j = i then e.move g iss (g.lane j) else g.lane j := by
  have key (f : Lane → Lane) (h : Upd s (s.endLane iss i e) iss.gid (g.modLane i f))
      (h' : e.move g iss (g.lane i) = f (g.lane i)) :
      ∃ g', Upd s (s.endLane iss i e) iss.gid g' ∧ { g' with lanes := g.lanes } = g ∧
        ∀ j, g'.lane j = if j = i then e.move g iss (g.lane j) else g.lane j := by
    refine ⟨g.modLane i f, h, rfl, fun j => ?_⟩
    rw [Group.lane_modLane]
    by_cases h : j = i
    · subst h; rw [if_pos rfl, if_pos rfl, h']
    · rw [if_neg h, if_neg h]
  cases e with
  | past => exact key _ ((Upd.refl hg).modGroup (fun g => g.modLane i _)) rfl
  | goto a => exact key _ ((Upd.refl hg).modGroup (fun g => g.modLane i _)) rfl
  | back => exact key _ ((Upd.refl hg).modGroup (fun g => g.modLane i _)) rfl
  | stay => exact ⟨g, Upd.refl hg, rfl, fun j => by split <;> rfl⟩
  | trap c v =>
    obtain ⟨⟨t, vec⟩, ht⟩ := Option.isSome_iff_exists.1 he
    exact key _ (State.takeTrap_upd i c v _ hg ht) (by simp only [LaneEnd.move, ht])
  | trapPast c v =>
    obtain ⟨⟨t, vec⟩, ht⟩ := Option.isSome_iff_exists.1 he
    exact key _ (State.takeTrap_upd i c v _ hg ht) (by simp only [LaneEnd.move, ht])

theorem trapMode_congr {g g' : Group} (h : { g' with lanes := g.lanes } = g) (m : Mode) : trapMode g' m = trapMode g m := by
  have a : g'.tvecS = g.tvecS := by have x := congrArg Group.tvecS h; exact x
  have b : g'.tvecH = g.tvecH := by have x := congrArg Group.tvecH h; exact x
  unfold trapMode
  rw [a, b]

theorem LaneEnd.move_congr {g g' : Group} (h : { g' with lanes := g.lanes } = g) (e : LaneEnd) (iss : Issue) (l : Lane) :
    e.move g' iss l = e.move g iss l := by
  cases e <;> simp only [LaneEnd.move, trapMode_congr h]

theorem LaneEnd.handled_congr {g g' : Group} (h : { g' with lanes := g.lanes } = g) (e : LaneEnd) (l : Lane) :
    e.handled g' l = e.handled g l := by
  cases e <;> simp only [LaneEnd.handled, trapMode_congr h]

theorem State.endLanes_upd {iss : Issue} (ends : List (Nat × LaneEnd)) (ls : List Nat) (hn : ls.Nodup)
    {s : State} {g : Group} (he : ∀ i ∈ ls, (endOf ends i).handled g (g.lane i) = true) (hg : s.group iss.gid = some g) :
    ∃ g', Upd s (ls.foldl (fun s i => s.endLane iss i (endOf ends i)) s) iss.gid g' ∧ { g' with lanes := g.lanes } = g ∧
      ∀ j, g'.lane j = if j ∈ ls then (endOf ends j).move g iss (g.lane j) else g.lane j := by
  induction ls generalizing s g with
  | nil => exact ⟨g, Upd.refl hg, rfl, fun j => by simp⟩
  | cons i ls ih =>
    obtain ⟨h1, h2⟩ := List.nodup_cons.1 hn
    obtain ⟨g1, u1, r1, l1⟩ := State.endLane_upd i (endOf ends i) (he i List.mem_cons_self) hg
    have he1 : ∀ k ∈ ls, (endOf ends k).handled g1 (g1.lane k) = true := by
      intro k hk
      rw [LaneEnd.handled_congr r1, l1, if_neg (show ¬ k = i from fun h => h1 (h ▸ hk))]
      exact he k (List.mem_cons_of_mem _ hk)
    obtain ⟨g2, u2, r2, l2⟩ := ih h2 he1 u1.group
    refine ⟨g2, u1.trans u2, ?_, fun j => ?_⟩
    · rw [← r1, ← r2]
    · rw [l2, l1, LaneEnd.move_congr r1]
      by_cases hj : j = i
      · subst hj; simp [h1]
      · by_cases hm : j ∈ ls <;> simp [hj, hm]

theorem Group.ageAll_rest (g : Group) (iss : Issue) : { g.ageAll iss with lanes := g.lanes } = g := by
  unfold Group.ageAll
  have a := Group.foldl_lanes_only iss.lanes (fun _ l => { l with age := 0, restored := false, failing := false })
    (iss.considered.foldl (fun g i => if iss.lanes.contains i then g else g.modLane i Lane.older) g)
  have b : ∀ (ls : List Nat) (g : Group),
      { ls.foldl (fun g i => if iss.lanes.contains i then g else g.modLane i Lane.older) g with lanes := g.lanes } = g := by
    intro ls
    induction ls with
    | nil => intro g; rfl
    | cons i ls ih =>
      intro g
      rw [List.foldl_cons]
      split
      · exact ih g
      · have c := ih (g.modLane i Lane.older)
        generalize ls.foldl _ _ = x at c
        cases g; cases x; simp_all [Group.modLane]
  have c := b iss.considered g
  generalize iss.considered.foldl _ g = x at *
  generalize iss.lanes.foldl _ _ = y at *
  cases g; cases x; cases y; simp_all

theorem Group.lane_ageAll (g : Group) (iss : Issue) (hl : iss.lanes.Nodup) (hc : iss.considered.Nodup) (j : Nat) :
    (g.ageAll iss).lane j = g.endsAs iss j (g.lane j) := by
  unfold Group.ageAll Group.endsAs
  rw [Group.lane_foldl _ _ _ _ hl]
  have b : ∀ (ls : List Nat) (g : Group), ls.Nodup →
      (ls.foldl (fun g i => if iss.lanes.contains i then g else g.modLane i Lane.older) g).lane j =
        if j ∈ ls ∧ j ∉ iss.lanes then (g.lane j).older else g.lane j := by
    intro ls
    induction ls with
    | nil => intro g _; simp
    | cons i ls ih =>
      intro g h
      obtain ⟨h1, h2⟩ := List.nodup_cons.1 h
      rw [List.foldl_cons, ih _ h2]
      have e : (if iss.lanes.contains i = true then g else g.modLane i Lane.older).lane j =
          if j = i ∧ j ∉ iss.lanes then (g.lane j).older else g.lane j := by
        by_cases hi : i ∈ iss.lanes
        · rw [if_pos (List.contains_iff_mem.2 hi), if_neg]
          rintro ⟨rfl, hn⟩; exact hn hi
        · rw [if_neg (fun h => hi (List.contains_iff_mem.1 h)), Group.lane_modLane]
          by_cases hj : j = i
          · subst hj; simp [hi]
          · simp [hj]
      rw [e]
      by_cases hj : j = i
      · subst hj; simp [h1]
      · simp [hj]
  rw [b _ _ hc]
  by_cases h : j ∈ iss.lanes <;> simp [h]

/-- Retiring where no operation is ready leaves all but FREED as it is. -/
theorem Group.settle_idle (g : Group) (h : retire g.ops [] = (g.ops, [])) :
    g.settle = { g with freed := g.freed || (g.allExited && g.ops.isEmpty) } := by
  have e : g.settle = if g.allExited && g.ops.isEmpty then { g with freed := true } else g := by
    unfold Group.settle
    rw [h]
    rfl
  rw [e]
  cases (g.allExited && g.ops.isEmpty)
  · rw [if_neg (by decide), Bool.or_false]
  · rw [if_pos rfl, Bool.or_true]

/-- A live lane keeps a group's image. -/
theorem Group.allExited_false {g : Group} {j : Nat} (hj : j < 32) (h : ((g.lane j).absent || (g.lane j).exited) = false) :
    g.allExited = false := by
  unfold Group.allExited allLanes
  rw [List.all_eq_false]
  exact ⟨j, List.mem_range.2 hj, by simp [h]⟩

/-! ### Reading bytes -/

/-- What reading a byte depends on: the writes in flight, memory, tiles, and the context images' LOCAL bytes. -/
theorem State.readByte_congr {s t : State} (hf : t.flight = s.flight) (hm : t.mem = s.mem) (ht : t.tiles = s.tiles)
    (hl : ∀ h, (t.group h).map (·.local_) = (s.group h).map (·.local_)) (a : Agent) (l : Loc) :
    t.readByte a l = s.readByte a l := by
  have hb : t.baseByte l = s.baseByte l := by
    cases l with
    | sys x => simp [State.baseByte, hm]
    | tile h off => simp [State.baseByte, ht]
    | loc gid lane off =>
      have := hl gid
      simp only [State.baseByte]
      cases h1 : t.group gid <;> cases h2 : s.group gid <;> simp_all
  have hy (lvl : Nat) : t.youngest a l lvl = s.youngest a l lvl := by simp [State.youngest, hf]
  have hr : ∀ (ls : List Nat) (lo : Nat), t.readFrom a l lo ls = s.readFrom a l lo ls := by
    intro ls
    induction ls with
    | nil => intro lo; simp [State.readFrom, hb]
    | cons x ls ih => intro lo; simp only [State.readFrom, hy, ih]
  exact hr _ _

/-! ### The end of an issue -/

/-- The end of an issue whose traps have handlers: its lanes end as said, and nothing else of its group or outside it
changes. -/
theorem State.endIssue_facts {s : State} {iss : Issue} {g : Group} {ends : List (Nat × LaneEnd)} {mem : Bool} {lines : Nat}
    (hg : s.group iss.gid = some g) (hn : iss.lanes.Nodup) (hc : iss.considered.Nodup)
    (he : ∀ i ∈ iss.lanes, (endOf ends i).handled g (g.lane i) = true) (hr : retire g.ops [] = (g.ops, []))
    (hl : ∃ j ∈ iss.lanes, j < 32 ∧ (((endOf ends j).move g iss (g.lane j)).absent ||
      ((endOf ends j).move g iss (g.lane j)).exited) = false) :
    ∃ g', (s.endIssue iss ends mem lines).group iss.gid = some g' ∧ SameGroup g g' ∧
      (∀ j, g'.lane j = g.endsAs iss j ((endOf ends j).move g iss (g.lane j))) ∧
      SameOutside s (s.endIssue iss ends mem lines) iss.gid := by
  have hg0 : (s.spend g.leaf 0 1).group iss.gid = some g := by rw [State.group_spend, hg]
  obtain ⟨g1, u1, r1, l1⟩ := State.endLanes_upd ends iss.lanes hn he hg0
  have e : ∀ s1, iss.lanes.foldl (fun s i => s.endLane iss i (endOf ends i)) (s.spend g.leaf 0 1) = s1 →
      s.endIssue iss ends mem lines =
      ({ ((s1.modGroup iss.gid (fun g => { g.ageAll iss with
            meas := g.meas.add iss mem lines, lastIssue := s1.stamp + 1 })).countEvent g.core 2 1).countEvent g.core 3
          iss.lanes.length with stamp := s1.stamp + 1, issue := none }).settle iss.gid := by
    intro s1 h1
    unfold State.endIssue
    rw [hg, ← h1]
    rfl
  generalize hs1 : iss.lanes.foldl (fun s i => s.endLane iss i (endOf ends i)) (s.spend g.leaf 0 1) = s1 at u1
  replace e := e s1 hs1
  let f2 : Group → Group := fun g => { g.ageAll iss with meas := g.meas.add iss mem lines, lastIssue := s1.stamp + 1 }
  have u2 := ((u1.modGroup f2).countEvent g.core 2 1).countEvent g.core 3 iss.lanes.length
  have hops : (f2 g1).ops = g.ops := by
    have a := Group.ageAll_rest g1 iss
    have a' := congrArg Group.ops a
    have b' := congrArg Group.ops r1
    exact a'.trans b'
  have lanes : ∀ j, (f2 g1).lane j = g.endsAs iss j ((endOf ends j).move g iss (g.lane j)) := by
    intro j
    have a := Group.lane_ageAll g1 iss hn hc j
    have b : (f2 g1).lane j = (g1.ageAll iss).lane j := rfl
    rw [b, a]
    unfold Group.endsAs
    rw [l1]
    by_cases h : j ∈ iss.lanes <;> simp [h]
  have rest : { f2 g1 with lanes := g.lanes, meas := g.meas, lastIssue := g.lastIssue } = g := by
    have a := Group.ageAll_rest g1 iss
    show { g1.ageAll iss with lanes := g.lanes, meas := g.meas, lastIssue := g.lastIssue } = g
    generalize g1.ageAll iss = x at a
    cases g; cases g1; cases x; simp_all
  have notFreed : (f2 g1).settle = f2 g1 := by
    rw [Group.settle_idle _ (by rw [hops]; exact hr)]
    obtain ⟨j, hj, h32, hx⟩ := hl
    have : (f2 g1).allExited = false := by
      refine Group.allExited_false h32 ?_
      rw [lanes j]
      unfold Group.endsAs
      rw [if_pos hj]
      exact hx
    rw [this, Bool.false_and, Bool.or_false]
  let base : State := { ((s1.modGroup iss.gid f2).countEvent g.core 2 1).countEvent g.core 3 iss.lanes.length with
        stamp := s1.stamp + 1, issue := none }
  have hb : base.group iss.gid = some (f2 g1) := u2.group
  have u3 : Upd base (base.settle iss.gid) iss.gid (f2 g1) := notFreed ▸ (Upd.refl hb).modGroup Group.settle
  have hothers : ∀ h, h ≠ iss.gid → (base.settle iss.gid).group h = s.group h := by
    intro h hh
    rw [u3.others h hh]
    exact (u2.others h hh).trans (by rw [State.group_spend])
  have hrest : { base.settle iss.gid with
      groups := s.groups, parts := s.parts, cores := s.cores, stamp := s.stamp, issue := s.issue } = s := by
    have a := u3.rest
    have b := u2.rest
    have c := State.spend_rest s g.leaf 0 1
    have d : { base with stamp := s1.stamp, issue := s1.issue } =
      ((s1.modGroup iss.gid f2).countEvent g.core 2 1).countEvent g.core 3 iss.lanes.length := rfl
    generalize base.settle iss.gid = x at a ⊢
    generalize ((s1.modGroup iss.gid f2).countEvent g.core 2 1).countEvent g.core 3 iss.lanes.length = w at b d
    generalize base = y at a d
    generalize s.spend g.leaf 0 1 = z at b c
    cases s; cases s1; cases x; cases y; cases z; cases w
    simp_all
  refine ⟨f2 g1, ?_, rest, lanes, ?_⟩
  · rw [e]; exact u3.group
  · rw [e]
    refine ⟨hrest, hothers, ?_, ?_, ?_⟩
    · intro n
      have h1 : { (base.settle iss.gid).core n with evc := ((s.spend g.leaf 0 1).core n).evc } =
          (s.spend g.leaf 0 1).core n := u2.cores n
      have h2 : (s.spend g.leaf 0 1).core n = s.core n := by
        have c := congrArg State.cores (State.spend_rest s g.leaf 0 1)
        unfold State.core
        rw [show (s.spend g.leaf 0 1).cores = s.cores from c]
      rw [h2] at h1; exact h1
    · intro n
      have h1 := State.part_spend s g.leaf 0 1 n
      have h2 : (base.settle iss.gid).part n = (s.spend g.leaf 0 1).part n := by
        have b := congrArg State.parts u2.rest
        unfold State.part
        rw [show (base.settle iss.gid).parts = (s.spend g.leaf 0 1).parts from b]
      rw [h2]
      exact h1
    · intro a l
      refine State.readByte_congr ?_ ?_ ?_ ?_ a l
      · have h := congrArg State.flight hrest; exact h
      · have h := congrArg State.mem hrest; exact h
      · have h := congrArg State.tiles hrest; exact h
      · intro h
        by_cases hh : h = iss.gid
        · subst hh
          rw [u3.group, hg]
          have h := congrArg (fun g => some (Group.local_ g)) rest; exact h
        · rw [hothers h hh]

end Sys2Proof.Machine
end

