-- ==== Sys2Proof/Laws/Results.lean ====
section
/-!
SUPPORT. Writing results: what a destination slot written in some lanes holds after, what stays, and the instructions that
compute lane by lane into their destination.
-/

namespace Sys2Proof.Machine
open Sys2Proof

/-! ### One write -/

theorem Group.vGet_vPut (g : Group) (m m' : Mode) (n r i j : Nat) (x : Word) :
    (g.vPut m n i x).vGet m' r j = if vKey m' r j = vKey m n i then x else g.vGet m' r j := by
  unfold Group.vGet Group.vPut
  exact tblGet_tblPut _ _ _ _ _

theorem Group.tag_setTag (g : Group) (m m' : Mode) (n r : Nat) (t : Tag) :
    (g.setTag m n t).tag m' r = if tagKey m' r = tagKey m n then t else g.tag m' r := by
  unfold Group.tag Group.setTag
  exact tblGet_tblPut _ _ _ _ _

theorem Mode.num_inj {m m' : Mode} : m.num = m'.num ↔ m = m' := by cases m <;> cases m' <;> simp [Mode.num]

theorem Mode.num_lt (m : Mode) : m.num < 3 := by cases m <;> simp [Mode.num]

theorem tagKey_eq {m m' : Mode} {r n : Nat} (hr : r < 128) (hn : n < 128) :
    tagKey m' r = tagKey m n ↔ r = n ∧ (r < 120 ∨ m' = m) := by
  unfold tagKey
  constructor
  · intro h
    cases m <;> cases m' <;> simp only [Mode.num, reduceCtorEq, or_true, and_true, or_false] at h ⊢ <;> split at h <;>
      split at h <;> omega
  · rintro ⟨rfl, h | rfl⟩
    · simp [h]
    · rfl

/-- Two register places are one: the same lane of the same register, of the same bank. -/
theorem vKey_eq {m m' : Mode} {r n i j : Nat} (hr : r < 128) (hn : n < 128) (hi : i < 32) (hj : j < 32) :
    vKey m' r j = vKey m n i ↔ r = n ∧ j = i ∧ (r < 120 ∨ m' = m) := by
  have key : ∀ a b : Nat, a * 32 + j = b * 32 + i ↔ a = b ∧ j = i := by
    intro a b
    constructor
    · intro h
      have h1 : (a * 32 + j) % 32 = (b * 32 + i) % 32 := by rw [h]
      have h2 : (a * 32 + j) / 32 = (b * 32 + i) / 32 := by rw [h]
      omega
    · rintro ⟨rfl, rfl⟩; rfl
  have h := tagKey_eq (m := m) (m' := m') hr hn
  unfold tagKey at h
  unfold vKey
  rw [key, h]
  tauto

theorem Group.pMask_pPut (g : Group) (n k i : Nat) (x : Bool) :
    (g.pPut n i x).pMask k = if k = n then
      (if x then g.pMask n ||| BitVec.ofNat 32 (2 ^ i) else g.pMask n &&& ~~~ BitVec.ofNat 32 (2 ^ i)) else g.pMask k := by
  unfold Group.pMask Group.pPut
  exact tblGet_tblPut _ _ _ _ _

theorem getLsbD_twoPow32 (i j : Nat) (hi : i < 32) : (BitVec.ofNat 32 (2 ^ i)).getLsbD j = decide (j = i) := by
  have h : 2 ^ i < 2 ^ 32 := Nat.pow_lt_pow_right (by decide) hi
  rw [BitVec.getLsbD, BitVec.toNat_ofNat, Nat.mod_eq_of_lt h, Nat.testBit_two_pow]
  simp [eq_comm]

theorem Group.pGet_pPut (g : Group) (n k i j : Nat) (x : Bool) (hi : i < 32) (hj : j < 32) :
    (g.pPut n i x).pGet k j = if k = n ∧ j = i then x else g.pGet k j := by
  unfold Group.pGet
  rw [Group.pMask_pPut]
  by_cases hk : k = n
  · subst hk
    cases x
    · rw [if_pos rfl, if_neg (by decide), BitVec.getLsbD_and, BitVec.getLsbD_not, getLsbD_twoPow32 i j hi]
      by_cases h : j = i <;> simp [h, hi, hj]
    · rw [if_pos rfl, if_pos rfl, BitVec.getLsbD_or, getLsbD_twoPow32 i j hi]
      by_cases h : j = i <;> simp [h]
  · simp [hk]

/-! ### A result written in some lanes -/

/-- The group after slot `o` was written in lanes `ls`. -/
def Group.writes (g : Group) (o : Opd) (m : Mode) (ls : List Nat) (x : Nat → DWord) : Group :=
  ls.foldl (fun g i => o.write g m i (x i)) g

theorem Group.writes_rest (g : Group) (o : Opd) (m : Mode) (ls : List Nat) (x : Nat → DWord) :
    { g.writes o m ls x with v := g.v, p := g.p } = g := by
  unfold Group.writes
  induction ls generalizing g with
  | nil => rfl
  | cons i ls ih =>
    rw [List.foldl_cons]
    have a := ih (o.write g m i (x i))
    have b : { o.write g m i (x i) with v := g.v, p := g.p } = g := by cases o <;> rfl
    generalize ls.foldl _ _ = y at *
    generalize o.write g m i (x i) = z at *
    cases g; cases y; cases z; simp_all

theorem Group.writes_v (g : Group) (m m' : Mode) (n : Nat) (ls : List Nat) (x : Nat → DWord) (r j : Nat)
    (hr : r < 128) (hn : n < 128) (hj : j < 32) (hl : ∀ i ∈ ls, i < 32) :
    (g.writes (.v n) m ls x).vGet m' r j =
      if r = n ∧ (r < 120 ∨ m' = m) ∧ j ∈ ls then BitVec.ofNat 32 (x j).toNat else g.vGet m' r j := by
  unfold Group.writes
  induction ls generalizing g with
  | nil => simp
  | cons i ls ih =>
    rw [List.foldl_cons, ih _ (fun k hk => hl k (List.mem_cons_of_mem _ hk))]
    have : (Opd.write (.v n) g m i (x i)) = g.vPut m n i (BitVec.ofNat 32 (x i).toNat) := rfl
    rw [this, Group.vGet_vPut]
    simp only [vKey_eq hr hn (hl i List.mem_cons_self) hj]
    by_cases h2 : (r < 120 ∨ m' = m)
    · by_cases h1 : r = n <;> by_cases h3 : j = i <;> by_cases h4 : j ∈ ls <;> simp_all
    · simp only [h2, and_false, false_and, if_false]

theorem Group.vGet_dPut (g : Group) (m m' : Mode) (n i : Nat) (x : DWord) (r j : Nat)
    (hr : r < 128) (hn : n + 1 < 128) (hi : i < 32) (hj : j < 32) :
    (g.dPut m n i x).vGet m' r j =
      if (r = n ∨ r = n + 1) ∧ (r < 120 ∨ m' = m) ∧ j = i then
        (if r = n then BitVec.ofNat 32 x.toNat else BitVec.ofNat 32 (x.toNat / 4294967296)) else g.vGet m' r j := by
  unfold Group.dPut
  rw [Group.vGet_vPut, Group.vGet_vPut]
  simp only [vKey_eq hr hn hi hj, vKey_eq hr (show n < 128 by omega) hi hj]
  by_cases h1 : r = n + 1
  · subst h1
    by_cases h2 : (n + 1 < 120 ∨ m' = m) <;> by_cases h3 : j = i <;> simp [h2, h3]
  · by_cases h0 : r = n
    · subst h0
      by_cases h2 : (r < 120 ∨ m' = m) <;> by_cases h3 : j = i <;> simp [h2, h3]
    · simp [h0, h1]

theorem Group.writes_pair (g : Group) (m m' : Mode) (n : Nat) (ls : List Nat) (x : Nat → DWord) (r j : Nat)
    (hr : r < 128) (hn : n + 1 < 128) (hj : j < 32) (hl : ∀ i ∈ ls, i < 32) :
    (g.writes (.pair n) m ls x).vGet m' r j =
      if (r = n ∨ r = n + 1) ∧ (r < 120 ∨ m' = m) ∧ j ∈ ls then
        (if r = n then BitVec.ofNat 32 (x j).toNat else BitVec.ofNat 32 ((x j).toNat / 4294967296)) else g.vGet m' r j := by
  unfold Group.writes
  induction ls generalizing g with
  | nil => simp
  | cons i ls ih =>
    rw [List.foldl_cons, ih _ (fun k hk => hl k (List.mem_cons_of_mem _ hk))]
    have : (Opd.write (.pair n) g m i (x i)) = g.dPut m n i (x i) := rfl
    rw [this, Group.vGet_dPut g m m' n i (x i) r j hr hn (hl i List.mem_cons_self) hj]
    by_cases h2 : (r < 120 ∨ m' = m)
    · by_cases h1 : (r = n ∨ r = n + 1) <;> by_cases h3 : j = i <;> by_cases h4 : j ∈ ls <;> simp [h1, h2, h3, h4]
    · simp only [h2, and_false, false_and, if_false]

/-- The two halves of a pair make the value that was written. -/
theorem halves (x : DWord) : BitVec.ofNat 64 ((BitVec.ofNat 32 x.toNat).toNat +
    4294967296 * (BitVec.ofNat 32 (x.toNat / 4294967296)).toNat) = x := by
  apply BitVec.eq_of_toNat_eq
  have := x.isLt
  simp only [BitVec.toNat_ofNat]
  omega

theorem Group.dGet_writes (g : Group) (m : Mode) (n : Nat) (ls : List Nat) (x : Nat → DWord) (j : Nat)
    (hn : n + 1 < 128) (hj : j < 32) (hl : ∀ i ∈ ls, i < 32) (h : j ∈ ls) :
    (g.writes (.pair n) m ls x).dGet m n j = x j := by
  unfold Group.dGet
  rw [Group.writes_pair _ _ _ _ _ _ _ _ (by omega) hn hj hl, Group.writes_pair _ _ _ _ _ _ _ _ (by omega) hn hj hl]
  rw [if_pos (⟨Or.inl rfl, Or.inr rfl, h⟩ : (n = n ∨ n = n + 1) ∧ (n < 120 ∨ m = m) ∧ j ∈ ls),
    if_pos (⟨Or.inr rfl, Or.inr rfl, h⟩ : (n + 1 = n ∨ n + 1 = n + 1) ∧ (n + 1 < 120 ∨ m = m) ∧ j ∈ ls),
    if_pos rfl, if_neg (by omega)]
  exact halves (x j)

theorem Group.writes_p (g : Group) (m : Mode) (n : Nat) (ls : List Nat) (x : Nat → DWord) (k j : Nat)
    (hj : j < 32) (hl : ∀ i ∈ ls, i < 32) :
    (g.writes (.p n) m ls x).pGet k j = if k = n ∧ j ∈ ls then decide (x j ≠ 0) else g.pGet k j := by
  unfold Group.writes
  induction ls generalizing g with
  | nil => simp
  | cons i ls ih =>
    rw [List.foldl_cons, ih _ (fun k hk => hl k (List.mem_cons_of_mem _ hk))]
    have : (Opd.write (.p n) g m i (x i)) = g.pPut n i (decide (x i ≠ 0)) := rfl
    rw [this, Group.pGet_pPut _ _ _ _ _ _ (hl i List.mem_cons_self) hj]
    by_cases h1 : k = n <;> by_cases h3 : j = i <;> by_cases h4 : j ∈ ls <;> simp [h1, h3, h4]

/-- A slot that is no V register leaves V as it is, and one that is no P register leaves P. -/
theorem Group.writes_noV (g : Group) (o : Opd) (m : Mode) (ls : List Nat) (x : Nat → DWord)
    (h : ∀ n, o ≠ .v n ∧ o ≠ .pair n) : (g.writes o m ls x).v = g.v := by
  unfold Group.writes
  induction ls generalizing g with
  | nil => rfl
  | cons i ls ih =>
    rw [List.foldl_cons, ih]
    cases o <;> first | rfl | exact absurd rfl (h _).1 | exact absurd rfl (h _).2

theorem Group.writes_noP (g : Group) (o : Opd) (m : Mode) (ls : List Nat) (x : Nat → DWord)
    (h : ∀ n, o ≠ .p n) : (g.writes o m ls x).p = g.p := by
  unfold Group.writes
  induction ls generalizing g with
  | nil => rfl
  | cons i ls ih =>
    rw [List.foldl_cons, ih]
    cases o <;> first | rfl | exact absurd rfl (h _)

/-! ### A free issue served -/

/-- The lanes of an issue set are distinct. -/
theorem Ready.nodup {s : State} {iss : Issue} {g : Group} {i : Instr} {low : Mode} {ok : Tag → Tag → Tag → SlotName → List Tag}
    {cls : Option Cls} (h : Ready s iss g i low ok cls) : iss.lanes.Nodup :=
  h.sorted.imp (fun hab => Nat.ne_of_lt hab)

theorem Free.noStream {s : State} {iss : Issue} {g : Group} {i : Instr} {low : Mode} {ok : Tag → Tag → Tag → SlotName → List Tag}
    {cls : Option Cls} (h : Free s iss g i low ok cls) (sl : SlotName) : iss.pfx.streamed sl = none := by
  simp [Prefixes.streamed, h.plain]

/-- The registers of slot D exist. -/
theorem Free.destLegal {s : State} {iss : Issue} {g : Group} {i : Instr} {low : Mode} {ok : Tag → Tag → Tag → SlotName → List Tag}
    {cls : Option Cls} (h : Free s iss g i low ok cls) : opdIllegal (s.nvregOf g) (s.slots g iss i).d = false := by
  have a := h.legal
  unfold State.passIllegal at a
  simp only [h.noStream, Option.isNone_none, Bool.true_and] at a
  cases hd : opdIllegal (s.nvregOf g) (s.slots g iss i).d with
  | false => rfl
  | true =>
    have hd' : opdIllegal (s.nvregOf g) ((s.slots g iss i).slot .d) = true := hd
    simp [hd'] at a

theorem opdIllegal_v {nv n : Nat} (h : opdIllegal nv (.v n) = false) : n < 128 := by
  simp [opdIllegal, vIllegal] at h; omega

theorem opdIllegal_pair {nv n : Nat} (h : opdIllegal nv (.pair n) = false) : n + 1 < 128 := by
  simp [opdIllegal, vIllegal] at h; omega

/-- Where no poisoned line is read, nothing is counted and the group is read as it stands (R182). -/
@[simp] theorem State.readBad_nil (s : State) (g : Group) : s.readBad g [] = s := rfl
@[simp] theorem State.readAs_nil (s : State) (g : Group) : s.readAs g [] = g := rfl

/-- A free issue is served: the effect of its body, the tag of slot D, and the end of the issue (R110, R106). -/
theorem serve_free {s : State} {iss : Issue} {g : Group} {i : Instr} {e : Entry} (h : Free s iss g i e.mode e.ok e.cls)
    {s1 : State} {ends : List (Nat × LaneEnd)} {t : Option Tag} {lines : List Nat}
    (hb : e.body (s.plainCtx iss g i) s (g.asLane ((s.plainCtx iss g i).lowest.getD 0)) = .done s1 ends t lines) :
    serve i s e = .next ((match t with
      | some t => if iss.lanes.all (fun l => (endOf ends l).isTrap) then s1
          else s1.modGroup iss.gid (fun g' => (s.slots g iss i).d.retag g' iss.mode ((iss.pfx.formatted .d).getD t))
      | none => s1).endIssue iss ends (memIssueOf i) (if memIssueOf i then (distinct lines).length else 0)) := by
  have hm : ¬ iss.mode.num < e.mode.num := Nat.not_lt.2 h.mode
  have ht := h.tags
  unfold State.tagOf at ht
  unfold State.plainCtx State.tagOf Group.activeLanes at hb
  have hx (l : List Nat) : l.filter (fun _ => true) = l := List.filter_eq_self.2 (fun _ _ => rfl)
  unfold serve
  simp only [h.issue, h.group]
  unfold State.serveIssue
  simp only [if_neg hm, ht, h.role, h.ready, h.clean, State.readBad_nil, State.readAs_nil, Bool.false_and, h.plain, List.foldl_nil, Streams.values, List.find?_nil, Bool.false_eq_true,
    if_false, h.group, Option.getD_some, List.any_nil, Bool.not_false, hx, hb, List.nil_append, List.flatMap_nil,
    List.append_nil, Option.isSome_none, Bool.false_or, State.useStreams, List.isEmpty_nil, if_true, Bool.not_true,
    Bool.or_false]
  all_goals rfl

/-- A slot that a computed result can go to. -/
def takesResult (o : Opd) : Bool :=
  match o with
  | .v _ => true
  | .pair _ => true
  | .p _ => true
  | _ => false

theorem Group.retag_rest (g : Group) (o : Opd) (m : Mode) (t : Tag) : { o.retag g m t with vtag := g.vtag } = g := by
  cases o <;> rfl

theorem Group.retag_tag (g : Group) (o : Opd) (m m' : Mode) (t : Tag) (nv r : Nat) (hr : r < 128)
    (ho : opdIllegal nv o = false) (hn : ¬ namesV o m m' r) : (o.retag g m t).tag m' r = g.tag m' r := by
  cases o with
  | v n =>
    have := opdIllegal_v ho
    simp only [Opd.retag, Group.tag_setTag, tagKey_eq hr this]
    exact if_neg hn
  | pair n =>
    have := opdIllegal_pair ho
    simp only [Opd.retag, Group.tag_setTag, tagKey_eq hr this, tagKey_eq hr (show n < 128 by omega)]
    rw [if_neg (fun h => hn ⟨.inr h.1, h.2⟩), if_neg (fun h => hn ⟨.inl h.1, h.2⟩)]
  | _ => rfl

theorem Group.vGet_of_v {g g' : Group} (h : g'.v = g.v) (m : Mode) (r j : Nat) : g'.vGet m r j = g.vGet m r j := by
  unfold Group.vGet; rw [h]

theorem Group.pGet_of_p {g g' : Group} (h : g'.p = g.p) (n j : Nat) : g'.pGet n j = g.pGet n j := by
  unfold Group.pGet Group.pMask; rw [h]

/-- The group after a computed result and its tag. -/
def Group.result (g : Group) (o : Opd) (m : Mode) (ls : List Nat) (x : Nat → DWord) (t : Option Tag) : Group :=
  match t with
  | some t => o.retag (g.writes o m ls x) m t
  | none => g.writes o m ls x

theorem Group.result_v (g : Group) (o : Opd) (m : Mode) (ls : List Nat) (x : Nat → DWord) (t : Option Tag) :
    (g.result o m ls x t).v = (g.writes o m ls x).v := by
  cases t with
  | none => rfl
  | some t => have h := congrArg Group.v (Group.retag_rest (g.writes o m ls x) o m t); exact h

theorem Group.result_p (g : Group) (o : Opd) (m : Mode) (ls : List Nat) (x : Nat → DWord) (t : Option Tag) :
    (g.result o m ls x t).p = (g.writes o m ls x).p := by
  cases t with
  | none => rfl
  | some t => have h := congrArg Group.p (Group.retag_rest (g.writes o m ls x) o m t); exact h

theorem Group.result_rest (g : Group) (o : Opd) (m : Mode) (ls : List Nat) (x : Nat → DWord) (t : Option Tag) :
    { g.result o m ls x t with v := g.v, vtag := g.vtag, p := g.p } = g := by
  have a := Group.writes_rest g o m ls x
  cases t with
  | none =>
    show { g.writes o m ls x with v := g.v, vtag := g.vtag, p := g.p } = g
    generalize g.writes o m ls x = y at *
    cases g; cases y; simp_all
  | some t =>
    have b := Group.retag_rest (g.writes o m ls x) o m t
    show { o.retag (g.writes o m ls x) m t with v := g.v, vtag := g.vtag, p := g.p } = g
    generalize g.writes o m ls x = y at *
    generalize o.retag y m t = z at *
    cases g; cases y; cases z; simp_all

/-- What a computed result makes of a group, in the terms of `SameButD`, `DestIs` and `DestTag`: `g1` holds the result, `g'` is
`g1` after the end of the issue. -/
theorem result_facts {s : State} {iss : Issue} {g g' : Group} {i : Instr} {x : Nat → DWord} {t : Option Tag} {nv : Nat}
    {ls : List Nat} (hl : ∀ j ∈ ls, j < 32) (hd : opdIllegal nv (s.slots g iss i).d = false)
    (hk : takesResult (s.slots g iss i).d = true)
    (h : SameGroup (g.result (s.slots g iss i).d iss.mode ls x (t.map ((iss.pfx.formatted .d).getD ·))) g') :
    DestIs s g g' iss i ls x ∧ (∀ u, t = some u → DestTag s g g' iss i u) ∧ SameButD s g g' iss i ls := by
  generalize ho : (s.slots g iss i).d = o at hd hk h
  have hv : g'.v = (g.writes o iss.mode ls x).v :=
    (congrArg Group.v h).trans (Group.result_v _ _ _ _ _ _)
  have hp : g'.p = (g.writes o iss.mode ls x).p :=
    (congrArg Group.p h).trans (Group.result_p _ _ _ _ _ _)
  have ht : ∀ m r, g'.tag m r =
      (g.result o iss.mode ls x (t.map ((iss.pfx.formatted .d).getD ·))).tag m r := by
    intro m r
    have := congrArg Group.vtag h
    unfold Group.tag
    rw [show g'.vtag = _ from this]
  refine ⟨?_, ?_, ?_, ?_, ?_, ?_⟩
  · intro j hj
    rw [ho]
    cases o with
    | v n =>
      have hn := opdIllegal_v hd
      show g'.vGet iss.mode n j = _
      rw [Group.vGet_of_v hv, Group.writes_v _ _ _ _ _ _ _ _ hn hn (hl j hj) hl, if_pos ⟨rfl, .inr rfl, hj⟩]
    | pair n =>
      have hn := opdIllegal_pair hd
      show g'.dGet iss.mode n j = _
      have e : g'.dGet iss.mode n j = (g.writes (.pair n) iss.mode ls x).dGet iss.mode n j := by
        unfold Group.dGet; rw [Group.vGet_of_v hv, Group.vGet_of_v hv]
      rw [e, Group.dGet_writes _ _ _ _ _ _ hn (hl j hj) hl hj]
    | p n =>
      show g'.pGet n j = _
      rw [Group.pGet_of_p hp, Group.writes_p _ _ _ _ _ _ _ (hl j hj) hl, if_pos ⟨rfl, hj⟩]
    | _ => cases hk
  · intro u hu
    unfold DestTag
    rw [ho]
    subst hu
    cases o with
    | v n =>
      show g'.tag iss.mode n = _
      rw [ht]
      show ((g.writes (.v n) iss.mode _ x).setTag iss.mode n _).tag iss.mode n = _
      rw [Group.tag_setTag, if_pos rfl]
    | pair n =>
      have hn := opdIllegal_pair hd
      constructor
      · rw [ht]
        show (((g.writes (.pair n) iss.mode _ x).setTag iss.mode n _).setTag iss.mode (n + 1) _).tag iss.mode n = _
        rw [Group.tag_setTag, Group.tag_setTag, if_pos rfl]
        split <;> rfl
      · rw [ht]
        show (((g.writes (.pair n) iss.mode _ x).setTag iss.mode n _).setTag iss.mode (n + 1) _).tag iss.mode (n + 1) = _
        rw [Group.tag_setTag, if_pos rfl]
    | _ => trivial
  · have a := Group.result_rest g o iss.mode ls x (t.map ((iss.pfx.formatted .d).getD ·))
    unfold SameGroup at h
    generalize g.result o iss.mode ls x (t.map ((iss.pfx.formatted .d).getD ·)) = y at *
    cases g; cases g'; cases y; simp_all
  · intro m r j hr hj hx
    rw [ho] at hx
    rw [Group.vGet_of_v hv]
    cases o with
    | v n =>
      rw [Group.writes_v _ _ _ _ _ _ _ _ hr (opdIllegal_v hd) hj hl, if_neg]
      exact fun h => hx ⟨⟨h.1, h.2.1⟩, h.2.2⟩
    | pair n =>
      rw [Group.writes_pair _ _ _ _ _ _ _ _ hr (opdIllegal_pair hd) hj hl, if_neg]
      exact fun h => hx ⟨⟨h.1, h.2.1⟩, h.2.2⟩
    | p n => exact Group.vGet_of_v (Group.writes_noV _ _ _ _ _ (by simp)) _ _ _
    | _ => cases hk
  · intro m r hr hx
    rw [ho] at hx
    rw [ht]
    cases t with
    | none =>
      have a := Group.writes_rest g o iss.mode ls x
      have b := congrArg Group.vtag a
      show tblGet (g.writes o iss.mode ls x).vtag _ _ = _
      rw [show (g.writes o iss.mode ls x).vtag = g.vtag from b]
      rfl
    | some u =>
      show (o.retag (g.writes o iss.mode _ x) iss.mode _).tag m r = _
      rw [Group.retag_tag _ _ _ _ _ nv _ hr hd hx]
      have a := Group.writes_rest g o iss.mode ls x
      have b := congrArg Group.vtag a
      unfold Group.tag
      rw [show (g.writes o iss.mode ls x).vtag = g.vtag from b]
  · intro n j hj hx
    rw [ho] at hx
    rw [Group.pGet_of_p hp]
    cases o with
    | p k =>
      rw [Group.writes_p _ _ _ _ _ _ _ hj hl, if_neg]
      rintro ⟨rfl, hm⟩; exact hx ⟨rfl, hm⟩
    | v n => exact Group.pGet_of_p (Group.writes_noP _ _ _ _ _ (by simp)) _ _
    | pair n => exact Group.pGet_of_p (Group.writes_noP _ _ _ _ _ (by simp)) _ _
    | _ => cases hk

theorem endOf_nil (i : Nat) : endOf [] i = .past := rfl

theorem Lane.pass_live (l : Lane) (iss : Issue) : (l.pass iss).absent = l.absent ∧ (l.pass iss).exited = l.exited := by
  unfold Lane.pass Lane.moveOn Lane.setPasses Lane.setMs
  split
  · split
    · cases iss.mode <;> exact ⟨rfl, rfl⟩
    · split <;> cases iss.mode <;> exact ⟨rfl, rfl⟩
  · split <;> cases iss.mode <;> exact ⟨rfl, rfl⟩

theorem SameOutside.trans {s t u : State} {gid : Nat} (h : SameOutside s t gid) (h' : SameOutside t u gid) :
    SameOutside s u gid := by
  refine ⟨?_, fun k hk => (h'.groups k hk).trans (h.groups k hk), fun n => ?_, fun n => ?_,
    fun a l => (h'.bytes a l).trans (h.bytes a l)⟩
  · have a := h.rest
    have b := h'.rest
    cases s; cases t; cases u; simp_all
  · have a := h.cores n
    have b := h'.cores n
    generalize s.core n = x at *
    generalize t.core n = y at *
    generalize u.core n = z at *
    cases x; cases y; cases z; simp_all
  · have a := h.parts n
    have b := h'.parts n
    generalize s.part n = x at *
    generalize t.part n = y at *
    generalize u.part n = z at *
    cases x; cases y; cases z; simp_all

/-- A change of one group alone, its LOCAL bytes kept, is no change outside it. -/
theorem Upd.outside {s t : State} {gid : Nat} {g g' : Group} (u : Upd s t gid g') (hg : s.group gid = some g)
    (hl : g'.local_ = g.local_) : SameOutside s t gid := by
  have o := u.rest
  refine ⟨?_, u.others, u.cores, ?_, ?_⟩
  · cases s; cases t; simp_all
  · intro n
    have b : t.part n = s.part n := by
      have := congrArg State.parts o
      unfold State.part
      rw [show t.parts = s.parts from this]
    rw [b]
  · intro a l
    refine State.readByte_congr ?_ ?_ ?_ ?_ a l
    · have h := congrArg State.flight o; exact h
    · have h := congrArg State.mem o; exact h
    · have h := congrArg State.tiles o; exact h
    · intro k
      by_cases hk : k = gid
      · subst hk
        rw [u.group, hg]
        exact congrArg some hl
      · rw [u.others k hk]

/-- Slot D tagged by a result with natural tag `t` (R104, R106). -/
def tagged (s : State) (iss : Issue) (g : Group) (i : Instr) (t : Option Tag) (g1 : Group) : Group :=
  match t with
  | some t => (s.slots g iss i).d.retag g1 iss.mode ((iss.pfx.formatted .d).getD t)
  | none => g1

theorem tagged_rest (s : State) (iss : Issue) (g : Group) (i : Instr) (t : Option Tag) (g1 : Group) :
    { tagged s iss g i t g1 with vtag := g1.vtag } = g1 := by
  cases t with
  | none => rfl
  | some t => exact Group.retag_rest _ _ _ _

/-- A free issue whose body ends with group `g1`, and in which not every lane traps: the result is tagged, its lanes end as
said, and nothing changes further. -/
theorem serve_done {s : State} {iss : Issue} {g : Group} {i : Instr} {e : Entry} (h : Free s iss g i e.mode e.ok e.cls)
    {s1 : State} {g1 : Group} {ends : List (Nat × LaneEnd)} {t : Option Tag} {lines : List Nat}
    (hb : e.body (s.plainCtx iss g i) s (g.asLane ((s.plainCtx iss g i).lowest.getD 0)) = .done s1 ends t lines)
    (hg : s1.group iss.gid = some g1)
    (hall : t = none ∨ ∃ j ∈ iss.lanes, (endOf ends j).isTrap = false)
    (he : ∀ j ∈ iss.lanes, (endOf ends j).handled g1 (g1.lane j) = true)
    (hr : retire g1.ops [] = (g1.ops, []))
    (hl : ∃ j ∈ iss.lanes, (((endOf ends j).move g1 iss (g1.lane j)).absent ||
      ((endOf ends j).move g1 iss (g1.lane j)).exited) = false) :
    ∃ s' g', serve i s e = .next s' ∧ s'.group iss.gid = some g' ∧ SameGroup (tagged s iss g i t g1) g' ∧
      (∀ j, g'.lane j = g1.endsAs iss j ((endOf ends j).move g1 iss (g1.lane j))) ∧ SameOutside s1 s' iss.gid := by
  have e0 := serve_free h hb
  have hg2 : ∃ s2, Upd s1 s2 iss.gid (tagged s iss g i t g1) ∧ serve i s e = .next (s2.endIssue iss ends (memIssueOf i)
      (if memIssueOf i then (distinct lines).length else 0)) := by
    cases t with
    | none => exact ⟨s1, Upd.refl hg, e0⟩
    | some t =>
      have hx : iss.lanes.all (fun l => (endOf ends l).isTrap) = false := by
        rcases hall with hall | ⟨j, hj, ht⟩
        · cases hall
        · rw [List.all_eq_false]; exact ⟨j, hj, by simp [ht]⟩
      simp only [hx, Bool.false_eq_true, if_false] at e0
      exact ⟨_, (Upd.refl hg).modGroup _, e0⟩
  obtain ⟨s2, u, e2⟩ := hg2
  have r := tagged_rest s iss g i t g1
  generalize tagged s iss g i t g1 = g2 at u r ⊢
  have hlanes : g2.lanes = g1.lanes := by have x := congrArg Group.lanes r; exact x
  have hops : g2.ops = g1.ops := by have x := congrArg Group.ops r; exact x
  have hloc : g2.local_ = g1.local_ := by have x := congrArg Group.local_ r; exact x
  have hlane : ∀ j, g2.lane j = g1.lane j := fun j => by unfold Group.lane; rw [hlanes]
  have htm : ∀ m, trapMode g2 m = trapMode g1 m := by
    have a : g2.tvecS = g1.tvecS := by have x := congrArg Group.tvecS r; exact x
    have b : g2.tvecH = g1.tvecH := by have x := congrArg Group.tvecH r; exact x
    intro m; unfold trapMode; rw [a, b]
  have hmove : ∀ (e : LaneEnd) l, e.move g2 iss l = e.move g1 iss l := by
    intro e l; cases e <;> simp only [LaneEnd.move, htm]
  have hhand : ∀ (e : LaneEnd) l, e.handled g2 l = e.handled g1 l := by
    intro e l; cases e <;> simp only [LaneEnd.handled, htm]
  obtain ⟨j0, hj0, hx0⟩ := hl
  obtain ⟨g3, h1, h2, h3, h4⟩ := State.endIssue_facts (mem := memIssueOf i)
    (lines := if memIssueOf i then (distinct lines).length else 0) (ends := ends) u.group h.nodup h.order
    (fun j hj => by rw [hhand, hlane]; exact he j hj) (by rw [hops]; exact hr)
    ⟨j0, hj0, (h.live j0 hj0).1, by rw [hmove, hlane]; exact hx0⟩
  refine ⟨_, g3, e2, h1, h2, fun j => ?_, (u.outside hg hloc).trans h4⟩
  rw [h3]
  unfold Group.endsAs
  simp only [hlane, hmove]

theorem Free.pass_live {s : State} {iss : Issue} {g : Group} {i : Instr} {low : Mode}
    {ok : Tag → Tag → Tag → SlotName → List Tag} {cls : Option Cls} (h : Free s iss g i low ok cls) {g1 : Group}
    (hl : ∀ j, (g1.lane j).absent = (g.lane j).absent ∧ (g1.lane j).exited = (g.lane j).exited) :
    ∃ j ∈ iss.lanes, (((endOf [] j).move g1 iss (g1.lane j)).absent ||
      ((endOf [] j).move g1 iss (g1.lane j)).exited) = false := by
  obtain ⟨j0, hj0⟩ := List.exists_mem_of_ne_nil _ h.lanes
  refine ⟨j0, hj0, ?_⟩
  have a := Lane.pass_live (g1.lane j0) iss
  have b := (h.live j0 hj0).2.1
  show (((g1.lane j0).pass iss).absent || ((g1.lane j0).pass iss).exited) = false
  rw [a.1, a.2, (hl j0).1, (hl j0).2]
  unfold Lane.live at b
  cases hA : (g.lane j0).absent <;> cases hB : (g.lane j0).exited <;> simp_all

/-- A free issue of an instruction that computes lane by lane into slot D completes, with nothing else changed. -/
theorem serve_pure {s : State} {iss : Issue} {g : Group} {i : Instr} {e : Entry} (h : Free s iss g i e.mode e.ok e.cls)
    {tag : Ctx → Option Tag} {f : Ctx → Group → Nat → DWord} (hb : e.body = pureLanes tag f)
    (hk : takesResult (s.slots g iss i).d = true) :
    ∃ s' g', serve i s e = .next s' ∧ s'.group iss.gid = some g' ∧
      DestIs s g g' iss i (g.activeLanes iss i) (f (s.plainCtx iss g i) (g.asLane ((s.plainCtx iss g i).lowest.getD 0))) ∧
      (∀ u, tag (s.plainCtx iss g i) = some u → DestTag s g g' iss i u) ∧ LanesPass g g' iss ∧
      SameButD s g g' iss i (g.activeLanes iss i) ∧ SameOutside s s' iss.gid := by
  have hact : ∀ j ∈ g.activeLanes iss i, j < 32 := fun j hj => (h.live j (List.mem_filter.1 hj).1).1
  generalize hx : f (s.plainCtx iss g i) (g.asLane ((s.plainCtx iss g i).lowest.getD 0)) = x
  have hput : s.putResults (s.plainCtx iss g i) ((g.activeLanes iss i).map (fun j => (j, x j))) =
      s.modGroup iss.gid (fun g' => g'.writes (s.slots g iss i).d iss.mode (g.activeLanes iss i) x) := by
    unfold State.putResults Group.writes State.plainCtx Ctx.gid Ctx.m
    simp only [List.foldl_map]
  have hbody : e.body (s.plainCtx iss g i) s (g.asLane ((s.plainCtx iss g i).lowest.getD 0)) =
      .done (s.modGroup iss.gid (fun g' => g'.writes (s.slots g iss i).d iss.mode (g.activeLanes iss i) x)) []
        (tag (s.plainCtx iss g i)) [] := by
    rw [hb, ← hput, ← hx]; rfl
  have u : Upd s (s.modGroup iss.gid (fun g' => g'.writes (s.slots g iss i).d iss.mode (g.activeLanes iss i) x)) iss.gid
      (g.writes (s.slots g iss i).d iss.mode (g.activeLanes iss i) x) := (Upd.refl h.group).modGroup _
  have r := Group.writes_rest g (s.slots g iss i).d iss.mode (g.activeLanes iss i) x
  have hlanes : (g.writes (s.slots g iss i).d iss.mode (g.activeLanes iss i) x).lanes = g.lanes := by
    have y := congrArg Group.lanes r; exact y
  have hops : (g.writes (s.slots g iss i).d iss.mode (g.activeLanes iss i) x).ops = g.ops := by
    have y := congrArg Group.ops r; exact y
  have hloc : (g.writes (s.slots g iss i).d iss.mode (g.activeLanes iss i) x).local_ = g.local_ := by
    have y := congrArg Group.local_ r; exact y
  have hlane : ∀ j, (g.writes (s.slots g iss i).d iss.mode (g.activeLanes iss i) x).lane j = g.lane j := by
    intro j; unfold Group.lane; rw [hlanes]
  obtain ⟨j0, hj0⟩ := List.exists_mem_of_ne_nil _ h.lanes
  obtain ⟨s', g', e1, h1, h2, h3, h4⟩ := serve_done h hbody u.group (.inr ⟨j0, hj0, rfl⟩) (fun _ _ => rfl)
    (by rw [hops]; exact h.settled) (h.pass_live (fun j => by rw [hlane]; exact ⟨rfl, rfl⟩))
  obtain ⟨f1, f2, f3⟩ := result_facts (s := s) (t := tag (s.plainCtx iss g i)) (ls := g.activeLanes iss i) hact h.destLegal hk
    (show SameGroup (g.result (s.slots g iss i).d iss.mode (g.activeLanes iss i) x
      ((tag (s.plainCtx iss g i)).map ((iss.pfx.formatted .d).getD ·))) g' by
      cases ht : tag (s.plainCtx iss g i) with
      | none => rw [ht] at h2; exact h2
      | some t => rw [ht] at h2; exact h2)
  refine ⟨s', g', e1, h1, f1, f2, fun j => ?_, f3, (u.outside h.group hloc).trans h4⟩
  rw [h3, hlane]
  unfold Group.endsAs
  simp only [hlane]
  rfl

theorem endOf_map {ls : List Nat} {e : Nat → LaneEnd} (j : Nat) :
    endOf (ls.map (fun i => (i, e i))) j = if j ∈ ls then e j else .past := by
  unfold endOf
  rw [List.find?_map]
  induction ls with
  | nil => rfl
  | cons i ls ih =>
    by_cases h : i = j
    · subst h; simp
    · simp only [List.find?_cons, Function.comp, h, List.mem_cons, Ne.symm h, false_or]
      simpa [h, Function.comp] using ih

theorem Lane.enter_live (l : Lane) (t : Mode) (vec resume : BitVec 48) (c : BitVec 8) (v : DWord) :
    (l.enter t vec resume c v).absent = l.absent ∧ (l.enter t vec resume c v).exited = l.exited := by
  cases t <;> exact ⟨rfl, rfl⟩

theorem trapMode_handler {g : Group} {m : Mode} (h : (trapMode g m).isSome = true) :
    ∃ t vec, trapMode g m = some (t, vec) := by
  obtain ⟨⟨t, vec⟩, ht⟩ := Option.isSome_iff_exists.1 h
  exact ⟨t, vec, ht⟩

/-- A free issue of an instruction that computes lane by lane and raises flags completes (R215, R216, R223). -/
theorem serve_lanewise {s : State} {iss : Issue} {g : Group} {i : Instr} {e : Entry} (h : Free s iss g i e.mode e.ok e.cls)
    {tag : Ctx → Option Tag} {f : Ctx → Group → Nat → Val} (hb : e.body = lanewise tag f)
    (hk : takesResult (s.slots g iss i).d = true) (hx : exec i s = serve i s e)
    (hh : (trapMode g iss.mode).isSome = true ∨ ∀ j ∈ g.activeLanes iss i, fpTraps (s.trapFlags g)
      (f (s.plainCtx iss g i) (g.asLane ((s.plainCtx iss g i).lowest.getD 0)) j).2 = false) :
    ComputesF s iss g i (f (s.plainCtx iss g i) (g.asLane ((s.plainCtx iss g i).lowest.getD 0))) (tag (s.plainCtx iss g i)) := by
  have hact : ∀ j ∈ g.activeLanes iss i, j ∈ iss.lanes := fun j hj => (List.mem_filter.1 hj).1
  have hnd : (g.activeLanes iss i).Nodup := h.nodup.filter _
  generalize hxx : f (s.plainCtx iss g i) (g.asLane ((s.plainCtx iss g i).lowest.getD 0)) = x at hh ⊢
  have hen : s.trapFlags (g.asLane ((s.plainCtx iss g i).lowest.getD 0)) = s.trapFlags g := by
    unfold State.trapFlags State.launchOf
    rw [Group.asLane_launch]
  let good := (g.activeLanes iss i).filter (fun j => !fpTraps (s.trapFlags g) (x j).2)
  let bad := (g.activeLanes iss i).filter (fun j => fpTraps (s.trapFlags g) (x j).2)
  have hgood : good ⊆ g.activeLanes iss i := fun j hj => (List.mem_filter.1 hj).1
  have hgnd : good.Nodup := hnd.filter _
  let o := (s.slots g iss i).d
  let ends : List (Nat × LaneEnd) := bad.map (fun j => (j, .trap causeFP (fpVal (x j).2)))
  let g0 := g.writes o iss.mode good (fun j => (x j).1)
  let fl : Nat → Lane → Lane := fun j l => l.raise (x j).2
  let g1 := good.foldl (fun g j => g.modLane j (fl j)) g0
  let s1 := (s.modGroup iss.gid (fun g' => g'.writes o iss.mode good (fun j => (x j).1))).modGroup iss.gid
    (fun g => good.foldl (fun g j => g.modLane j (fl j)) g)
  have hbody : e.body (s.plainCtx iss g i) s (g.asLane ((s.plainCtx iss g i).lowest.getD 0)) =
      .done s1 ends (tag (s.plainCtx iss g i)) [] := by
    rw [hb]
    unfold lanewise
    simp only [hen, hxx, List.filter_map, List.map_map]
    have e1 : (s.plainCtx iss g i).active = g.activeLanes iss i := rfl
    rw [e1]
    unfold State.putResults
    simp only [State.plainCtx, List.foldl_map, Ctx.gid, Ctx.m]
    rfl
  have u1 : Upd s s1 iss.gid g1 := ((Upd.refl h.group).modGroup _).modGroup _
  have r0 := Group.writes_rest g o iss.mode good (fun j => (x j).1)
  have r1 := Group.foldl_lanes_only good fl g0
  have l0 : ∀ j, g0.lane j = g.lane j := by
    intro j; unfold Group.lane
    rw [show g0.lanes = g.lanes by have y := congrArg Group.lanes r0; exact y]
  have l1 : ∀ j, g1.lane j = if j ∈ good then (g.lane j).raise (x j).2 else g.lane j := by
    intro j
    have := Group.lane_foldl good fl g0 j hgnd
    rw [show g1.lane j = _ from this, l0]
  have hops : g1.ops = g.ops := by
    have a := congrArg Group.ops r0
    have b := congrArg Group.ops r1
    exact (show g1.ops = g0.ops from b).trans a
  have hloc : g1.local_ = g.local_ := by
    have a := congrArg Group.local_ r0
    have b := congrArg Group.local_ r1
    exact (show g1.local_ = g0.local_ from b).trans a
  have htm : ∀ m, trapMode g1 m = trapMode g m := by
    have a : g1.tvecS = g.tvecS := by
      have a := congrArg Group.tvecS r0
      have b := congrArg Group.tvecS r1
      exact (show g1.tvecS = g0.tvecS from b).trans a
    have b : g1.tvecH = g.tvecH := by
      have a := congrArg Group.tvecH r0
      have b := congrArg Group.tvecH r1
      exact (show g1.tvecH = g0.tvecH from b).trans a
    intro m; unfold trapMode; rw [a, b]
  have hend : ∀ j, endOf ends j = if j ∈ bad then .trap causeFP (fpVal (x j).2) else .past := fun j => endOf_map j
  have hbad : ∀ j, j ∈ bad ↔ j ∈ g.activeLanes iss i ∧ fpTraps (s.trapFlags g) (x j).2 = true := fun j => by
    simp [bad]
  have hgd : ∀ j, j ∈ good ↔ j ∈ g.activeLanes iss i ∧ fpTraps (s.trapFlags g) (x j).2 = false := fun j => by
    simp [good]
  have hdis : ∀ j, j ∈ bad → j ∉ good := fun j h1 h2 => by
    have a := ((hbad j).1 h1).2
    have b := ((hgd j).1 h2).2
    rw [a] at b; cases b
  have hhand : ∀ j ∈ bad, (trapMode g iss.mode).isSome = true := fun j hj => by
    rcases hh with hh | hh
    · exact hh
    · have a := (hbad j).1 hj
      rw [hh j a.1] at a; cases a.2
  have hmv : ∀ j, (endOf ends j).move g1 iss (g1.lane j) = if j ∈ g.activeLanes iss i then
      (g.lane j).floatEnd g iss (s.trapFlags g) (x j).2 else (g.lane j).pass iss := by
    intro j
    rw [hend, l1]
    by_cases hA : j ∈ g.activeLanes iss i
    · rw [if_pos hA]
      unfold Lane.floatEnd
      by_cases hT : fpTraps (s.trapFlags g) (x j).2 = true
      · have hb := (hbad j).2 ⟨hA, hT⟩
        rw [if_pos hb, if_neg (hdis j hb), if_pos hT]
        simp only [LaneEnd.move, htm]
      · have hT' : fpTraps (s.trapFlags g) (x j).2 = false := by simpa using hT
        rw [if_neg (fun hb => hT ((hbad j).1 hb).2), if_pos ((hgd j).2 ⟨hA, hT'⟩), if_neg hT]
        rfl
    · rw [if_neg hA, if_neg (fun hb => hA ((hbad j).1 hb).1), if_neg (fun hb => hA ((hgd j).1 hb).1)]
      rfl
  have hlive : ∀ j ∈ iss.lanes, (((endOf ends j).move g1 iss (g1.lane j)).absent ||
      ((endOf ends j).move g1 iss (g1.lane j)).exited) = false := by
    intro j hj
    have b := (h.live j hj).2.1
    have hm := (h.live j hj).2.2
    unfold Lane.live at b
    have b' : (g.lane j).absent = false ∧ (g.lane j).exited = false := by
      cases hA : (g.lane j).absent <;> cases hB : (g.lane j).exited <;> simp_all
    rw [hmv]
    split
    · unfold Lane.floatEnd
      split
      · simp only [LaneEnd.move]
        split
        · rename_i t vec _
          have c := Lane.enter_live (g.lane j) t vec (BitVec.ofNat 48 iss.addr) causeFP (fpVal (x j).2)
          rw [c.1, c.2, b'.1, b'.2]; rfl
        · rw [b'.1, b'.2]; rfl
      · have c := Lane.pass_live ((g.lane j).raise (x j).2) iss
        rw [c.1, c.2]
        show ((g.lane j).absent || (g.lane j).exited) = false
        rw [b'.1, b'.2]; rfl
    · have c := Lane.pass_live (g.lane j) iss
      rw [c.1, c.2, b'.1, b'.2]; rfl
  obtain ⟨j0, hj0⟩ := List.exists_mem_of_ne_nil _ h.lanes
  have hhl : ∀ j ∈ iss.lanes, (endOf ends j).handled g1 (g1.lane j) = true := by
    intro j hj
    rw [hend]
    split
    · rename_i hb
      show (trapMode g1 (g1.lane j).mode).isSome = true
      rw [htm, l1, if_neg (hdis j hb), (h.live j hj).2.2]
      exact hhand j hb
    · rfl
  have core (t : Option Tag) (ht : t = tag (s.plainCtx iss g i) ∨ t = none)
      (hs : ∃ s' g', serve i s e = .next s' ∧ s'.group iss.gid = some g' ∧ SameGroup (tagged s iss g i t g1) g' ∧
        (∀ j, g'.lane j = g1.endsAs iss j ((endOf ends j).move g1 iss (g1.lane j))) ∧ SameOutside s1 s' iss.gid)
      (hne : t = none → (∃ j ∈ iss.lanes, j ∉ g.activeLanes iss i ∨ j ∈ good) → tag (s.plainCtx iss g i) = none) :
      ComputesF s iss g i x (tag (s.plainCtx iss g i)) := by
    obtain ⟨s', g', e1, h1, h2, h3, h4⟩ := hs
    have hsame : SameGroup (g.result o iss.mode good (fun j => (x j).1) (t.map ((iss.pfx.formatted .d).getD ·)))
        { g' with lanes := g.lanes } := by
      have q0 : (tagged s iss g i t g1) = { g.result o iss.mode good (fun j => (x j).1)
          (t.map ((iss.pfx.formatted .d).getD ·)) with lanes := g1.lanes } := by
        have k1 : ∀ y : Group, { y with lanes := g0.lanes } = g0 → y = { g0 with lanes := y.lanes } := fun y hy => by
          have z := congrArg (fun z : Group => { z with lanes := y.lanes }) hy
          exact z
        have k : g1 = { g0 with lanes := g1.lanes } := k1 g1 r1
        cases t with
        | none => exact k
        | some t =>
          show o.retag g1 iss.mode _ = { o.retag g0 iss.mode _ with lanes := g1.lanes }
          conv => lhs; rw [k]
          cases o <;> rfl
      unfold SameGroup at h2 ⊢
      rw [q0] at h2
      have hl : (g.result o iss.mode good (fun j => (x j).1) (t.map ((iss.pfx.formatted .d).getD ·))).lanes = g.lanes := by
        have y := congrArg Group.lanes (Group.result_rest g o iss.mode good (fun j => (x j).1)
          (t.map ((iss.pfx.formatted .d).getD ·)))
        exact y
      generalize g.result o iss.mode good (fun j => (x j).1) (t.map ((iss.pfx.formatted .d).getD ·)) = y at *
      cases y; cases g'; simp_all
    obtain ⟨f1, f2, f3⟩ := result_facts (s := s) (t := t) (ls := good) (fun j hj => (h.live j (hact j (hgood hj))).1)
      h.destLegal hk hsame
    refine ⟨s', g', hx.trans e1, h1, f1, ?_, fun j => ?_, ⟨f3.rest, f3.vregs, f3.tags, f3.preds⟩,
      (u1.outside h.group hloc).trans h4⟩
    · intro hn u hu
      rcases ht with ht | ht
      · exact f2 u (ht.trans hu)
      · have := hne ht hn
        rw [this] at hu; cases hu
    · rw [h3]
      unfold Group.endsAs
      rw [hmv, l1]
      by_cases hj : j ∈ iss.lanes
      · rw [if_pos hj, if_pos hj]
      · rw [if_neg hj, if_neg hj, if_neg (fun hg => hj (hact j (hgood hg)))]
  by_cases hsome : ∃ j ∈ iss.lanes, (endOf ends j).isTrap = false
  · exact core _ (.inl rfl) (serve_done h hbody u1.group (.inr hsome) hhl (by rw [hops]; exact h.settled)
      ⟨j0, hj0, hlive j0 hj0⟩) (fun ht _ => ht)
  · have e0 := serve_free h hbody
    have hx1 : iss.lanes.all (fun l => (endOf ends l).isTrap) = true := by
      rw [List.all_eq_true]
      intro j hj
      by_contra hc
      exact hsome ⟨j, hj, by simpa using hc⟩
    have e1 : serve i s e = .next (s1.endIssue iss ends (memIssueOf i)
        (if memIssueOf i then (distinct []).length else 0)) := by
      rw [e0]
      cases tag (s.plainCtx iss g i) with
      | none => rfl
      | some t => simp only [hx1, if_true]
    obtain ⟨g3, k1, k2, k3, k4⟩ := State.endIssue_facts (mem := memIssueOf i)
      (lines := if memIssueOf i then (distinct []).length else 0) (ends := ends) u1.group h.nodup h.order hhl
      (by rw [hops]; exact h.settled) ⟨j0, hj0, (h.live j0 hj0).1, hlive j0 hj0⟩
    refine core none (.inr rfl) ⟨_, g3, e1, k1, k2, k3, k4⟩ ?_
    rintro - ⟨j, hj, hjj⟩
    exfalso
    apply hsome
    refine ⟨j, hj, ?_⟩
    rw [hend, if_neg]
    · rfl
    · intro hb
      rcases hjj with hjj | hjj
      · exact hjj ((hbad j).1 hb).1
      · exact hdis j hb hjj

end Sys2Proof.Machine
end

