-- ==== Sys2Proof/Laws/Int.lean ====
section
/-!
SUPPORT. The operands and results of integer instructions: what the slots of an issue without streams hold, and how an
exact result becomes bits.
-/

namespace Sys2Proof.Machine
open Sys2Proof

/-! ### Slots of an issue without streams -/

section plain
variable (s : State) (iss : Issue) (g : Group) (i : Instr)

@[simp] theorem plainCtx_iss : (s.plainCtx iss g i).iss = iss := rfl
@[simp] theorem plainCtx_m : (s.plainCtx iss g i).m = iss.mode := rfl
@[simp] theorem plainCtx_gid : (s.plainCtx iss g i).gid = iss.gid := rfl
@[simp] theorem plainCtx_o : (s.plainCtx iss g i).o = s.slots g iss i := rfl
@[simp] theorem plainCtx_ta : (s.plainCtx iss g i).ta = s.tagOf g iss i .a := rfl
@[simp] theorem plainCtx_tb : (s.plainCtx iss g i).tb = s.tagOf g iss i .b := rfl
@[simp] theorem plainCtx_tc : (s.plainCtx iss g i).tc = s.tagOf g iss i .c := rfl
@[simp] theorem plainCtx_active : (s.plainCtx iss g i).active = g.activeLanes iss i := rfl

theorem plainCtx_a32 (h : Group) (j : Nat) : (s.plainCtx iss g i).a32 h j = (s.slots g iss i).a.read32 h iss.mode j := rfl
theorem plainCtx_b32 (h : Group) (j : Nat) : (s.plainCtx iss g i).b32 h j = (s.slots g iss i).b.read32 h iss.mode j := rfl
theorem plainCtx_c32 (h : Group) (j : Nat) : (s.plainCtx iss g i).c32 h j = (s.slots g iss i).c.read32 h iss.mode j := rfl
theorem plainCtx_a64 (h : Group) (j : Nat) : (s.plainCtx iss g i).a64 h j = (s.slots g iss i).a.read64 h iss.mode j := rfl
theorem plainCtx_b64 (h : Group) (j : Nat) : (s.plainCtx iss g i).b64 h j = (s.slots g iss i).b.read64 h iss.mode j := rfl
theorem plainCtx_c64 (h : Group) (j : Nat) : (s.plainCtx iss g i).c64 h j = (s.slots g iss i).c.read64 h iss.mode j := rfl

end plain

@[simp] theorem read32_asLane (o : Opd) (g : Group) (n : Nat) (m : Mode) (j : Nat) :
    o.read32 (g.asLane n) m j = o.read32 g m j := by
  cases o <;> simp [Opd.read32]

@[simp] theorem read64_asLane (o : Opd) (g : Group) (n : Nat) (m : Mode) (j : Nat) :
    o.read64 (g.asLane n) m j = o.read64 g m j := by
  cases o <;> simp [Opd.read64]

/-- The 32-bit value of a slot is the low half of its 64-bit value. -/
theorem read64_low (o : Opd) (g : Group) (m : Mode) (j : Nat) :
    BitVec.ofNat 32 (o.read64 g m j).toNat = o.read32 g m j := by
  apply BitVec.eq_of_toNat_eq
  cases o with
  | v n =>
    have := (g.vGet m n j).isLt
    simp only [Opd.read64, Opd.read32, BitVec.toNat_ofNat]; omega
  | pair n =>
    have := (g.vGet m n j).isLt
    simp only [Opd.read64, Opd.read32, Group.dGet, BitVec.toNat_ofNat]; omega
  | _ => rfl

/-- A register as an integer of 32 bits. -/
theorem intOf_32 (sg : Bool) (o : Opd) (g : Group) (m : Mode) (j : Nat) :
    intOf sg 32 (o.read64 g m j) = if sg then (o.read32 g m j).toInt else (o.read32 g m j).toNat := by
  unfold intOf
  rw [if_pos rfl, read64_low]
  cases sg
  · simp only [Bool.false_eq_true, if_false]
    rw [← read64_low]
    simp
  · rfl

/-- A register as an integer of 64 bits. -/
theorem intOf_64 (sg : Bool) (x : DWord) : intOf sg 64 x = if sg then x.toInt else x.toNat := rfl

/-! ### The instructions of the integer class -/

/-- A free integer instruction of width `w` completes with its narrowed result (R144). -/
theorem serve_int {s : State} {iss : Issue} {g : Group} {i : Instr} {w wr : Nat} {res : Tag → Tag}
    {f : Bool → Bool → Int → Int → Int → IntAns} (hx : exec i s = serve i s (intOp w wr res f))
    (h : Free s iss g i .user (intOk w) none) (hk : takesResult (s.slots g iss i).d = true) :
    let t := intType w (s.tagOf g iss i .a)
    Computes s iss g i (fun j => (s.plainCtx iss g i).intResult wr (res t) (f t.signed iss.pfx.sat
      (intOf t.signed w ((s.slots g iss i).a.read64 g iss.mode j)) (intOf t.signed w ((s.slots g iss i).b.read64 g iss.mode j))
      (intOf t.signed w ((s.slots g iss i).c.read64 g iss.mode j)))) (some (res t)) := by
  intro t
  obtain ⟨s', g', h1, h2, h3, h4, h5⟩ := serve_pure (e := intOp w wr res f) h rfl hk
  refine ⟨s', g', hx.trans h1, h2, ?_, h4, h5⟩
  have e (j : Nat) := congrArg (fun z => (s.plainCtx iss g i).intResult wr (res t) z)
    (show f t.signed iss.pfx.sat ((s.plainCtx iss g i).intA w (g.asLane ((s.plainCtx iss g i).lowest.getD 0)) j)
        ((s.plainCtx iss g i).intB w (g.asLane ((s.plainCtx iss g i).lowest.getD 0)) j)
        ((s.plainCtx iss g i).intC w (g.asLane ((s.plainCtx iss g i).lowest.getD 0)) j) = f t.signed iss.pfx.sat
      (intOf t.signed w ((s.slots g iss i).a.read64 g iss.mode j)) (intOf t.signed w ((s.slots g iss i).b.read64 g iss.mode j))
      (intOf t.signed w ((s.slots g iss i).c.read64 g iss.mode j)) by
    unfold Ctx.intA Ctx.intB Ctx.intC
    simp only [plainCtx_a64, plainCtx_b64, plainCtx_c64, read64_asLane]; rfl)
  exact (funext e) ▸ h3

end Sys2Proof.Machine
end

