-- ==== Sys2Proof/Tests/Slice0.lean ====
section
/-!
SUPPORT. Tests: terms that no word can hold are refused; words written out from the encodings of the manual decode to what they
stand for; examples that the manual works out; and for every statement a state and operands that meet its hypotheses.
-/

namespace Sys2Proof.Tests
open Sys2Proof Sys2Proof.Machine

set_option maxRecDepth 100000
set_option Elab.async false

/-! ### A small machine -/

/-- A lane of the test group, in user mode, at the header of the test block. -/
def lane0 (m : Mode) : Lane := { mode := m, addr := 0x4000 }

/-- Three lanes of one group on core 0, with a supervisor handler; V5 is I32, V9 is F32, V12 is N32, D8 is N64, D20 is F64. -/
def group0 (m : Mode := .user) : Group :=
  let g : Group :=
    { launch := 3, vi := 1, leaf := 0, core := 0, ctx := 0, tvecS := 0x9000, tvecH := 0xA000, pieces := [11]
      lanes := [(0, lane0 m), (2, lane0 m), (3, lane0 m)]
      vtag := [(4, .n64), (5, .i32), (6, .i32), (9, .f32), (10, .f32), (12, .n32), (16, .n64), (17, .n64), (40, .f64), (41, .f64)]
      k := [(3, 5), (8, 0x8000), (9, 0x9000), (10, 0x40)], p := [(1, 0xFFFFFFFF), (2, 5)]
      t := [(3, { handle := 5, tag := .f32 })] }
  let g := (g.vPut m 5 0 7).vPut m 5 2 0x80000000
  let g := (g.vPut m 6 0 3).vPut m 6 2 0xFFFFFFFF
  let g := (g.vPut m 9 0 0x3F800000).vPut m 10 0 0x40000000
  ((g.dPut m 16 0 0x8000).dPut m 16 2 0x8010).dPut m 16 3 0xC000000000000020

/-- An issue of the three lanes. -/
def issue0 (pfx : Prefixes := {}) (m : Mode := .user) : Issue :=
  { gid := 7, lanes := [0, 2, 3], considered := [0, 2, 3], mode := m, addr := 0x4008, iaddr := 0x4008, header := 0x4000
    next := 0x400C, following := 0x4020, pfx := pfx, loopPass := 0, repPass := 0
    stepD := 0, stepA := 0, stepB := 0, stepC := 0, stepT := 0 }

/-- The test group in a machine with identity stage-2 tables for the first GiB, some bytes of data, a tile of core 0, and one write
in flight. -/
def state0 (g : Group := group0) (iss : Issue := issue0) : State :=
  { State.reset with
    groups := [(7, g)]
    issue := some iss
    launches := [(3, placedLaunch)]
    nextId := 1000
    mem := placedTables.foldl (fun m p => memPut m p.1 p.2) (memPut [] 0x8000 [1, 2, 0x83, 4, 5, 6, 7, 8])
    parts := [(0, { configured := true, clusters := 7, channels := 1, slices := 1, s2root := placedTable, vis := [1] })]
    pieces := [(11, { launch := 3, level := 1, parent := none, org := [0, 0, 0, 0], ext := [3, 1, 1, 1], pos := 0, pop := 3, bar := 0,
                      barpkg := 0, subs := [] })]
    tiles := [(5, { owner := .piece 11, leaf := 0, reg := 3, shape := 0x5000010008000000, size := 8, base := 0, state := .ready, bytes := [] })]
    flight := [{ id := 900, gid := 7, lane := 0, launch := 3, core := some 0, level := 0, bytes := [(.sys 0x8004, 0x77)] }] }

/-- What `Ready` asks, as a test. -/
def readyCheck (s : State) (iss : Issue) (g : Group) (i : Instr) (low : Mode) (ok : Tag → Tag → Tag → SlotName → List Tag)
    (cls : Option Cls) : Bool :=
  decide (s.issue = some iss) && decide (s.group iss.gid = some g) && decide (iss.lanes ≠ []) &&
  decide (iss.lanes.Pairwise (· < ·)) && decide iss.considered.Nodup &&
  decide (∀ j ∈ iss.lanes, j < 32 ∧ (g.lane j).live = true ∧ (g.lane j).mode = iss.mode) &&
  decide (s.passIllegal g iss i = none) && decide (low.num ≤ iss.mode.num) &&
  decide (State.formatFault g iss (s.slots g iss i) (ok (s.tagOf g iss i .a) (s.tagOf g iss i .b) (s.tagOf g iss i .c)) = none) &&
  decide (roleFault g i iss.pfx = none) && decide (g.busy iss i (s.slots g iss i) cls = false) &&
  decide (s.badReads g iss.mode i (s.slots g iss i) = []) &&
  decide (retire g.ops [] = (g.ops, []))

/-- What `Free` asks, as a test. -/
def freeCheck (s : State) (iss : Issue) (g : Group) (i : Instr) (low : Mode) (ok : Tag → Tag → Tag → SlotName → List Tag)
    (cls : Option Cls) : Bool := readyCheck s iss g i low ok cls && decide (iss.pfx.streams = [])

/-- A test that passes shows what `Ready` says. -/
theorem ready_of_check {s : State} {iss : Issue} {g : Group} {i : Instr} {low : Mode} {ok : Tag → Tag → Tag → SlotName → List Tag}
    {cls : Option Cls} (h : readyCheck s iss g i low ok cls = true) : Ready s iss g i low ok cls := by
  simp only [readyCheck, Bool.and_eq_true, decide_eq_true_eq] at h
  obtain ⟨⟨⟨⟨⟨⟨⟨⟨⟨⟨⟨⟨h1, h2⟩, h3⟩, h4⟩, h5⟩, h6⟩, h7⟩, h8⟩, h9⟩, h10⟩, h11⟩, h12⟩, h13⟩ := h
  exact ⟨h1, h2, h3, h4, h5, h6, h7, h8, h9, h10, h11, h12, h13⟩

/-- A test that passes shows what `Free` says. -/
theorem free_of_check {s : State} {iss : Issue} {g : Group} {i : Instr} {low : Mode} {ok : Tag → Tag → Tag → SlotName → List Tag}
    {cls : Option Cls} (h : freeCheck s iss g i low ok cls = true) : Free s iss g i low ok cls := by
  simp only [freeCheck, Bool.and_eq_true, decide_eq_true_eq] at h
  exact ⟨ready_of_check h.1, h.2⟩

/-! ### Translation in the test state -/

/-- A state whose stage 1 is off for an interface and whose stage-2 root at 0x1000 points to a table at 0x2000 that maps the first GiB to
itself with every right, as the model's placed tables do. -/
structure Identity (s : State) (x : Xlate) : Prop where
  cluster : x.cluster = none
  off : (s.vi x.vi).sroot = 0
  root : (s.part x.leaf).s2root = 4096
  pointer : s.hubRead 4096 8 = 8193
  leaf : s.hubRead 8192 8 = 15
  sound : s.poison (.sys 4096) = false ∧ s.poison (.sys 8192) = false ∧ s.hardNext = [] ∧ 32 ∉ s.softNext ∧ 64 ∉ s.softNext
  channel : (s.part (topOf x.leaf)).channels.getLsbD 0 = true ∧ s.channelsOut = []
  budget : s.exhausted x.leaf 5 = false

theorem Identity.translate {s : State} {x : Xlate} (h : Identity s x) (m : Need) {va : Nat} (hv : va < 2 ^ 30) :
    ∃ es, s.translate x m va = .ok (va, es) ∧ ∀ e ∈ es, e.at_ = 4096 ∨ e.at_ = 8192 := by
  have reach : ∀ a, a < 2 ^ 30 → s.reaches x.leaf a = true := fun a ha => by
    unfold State.reaches
    rw [if_pos (by omega), Nat.div_eq_of_lt (by omega), h.channel.1, h.channel.2]; rfl
  have entry : ∀ lvl input a, a = 4096 ∨ a = 8192 → s.readEntry x 2 lvl input a = .ok (s.hubRead a 8) := fun lvl input a ha => by
    unfold State.readEntry State.cached
    rw [h.cluster]
    show (if (false && s.exhausted x.leaf 5) = true then _ else _) = _
    rw [if_neg (by simp), reach a (by rcases ha with rfl | rfl <;> decide), h.sound.2.2.1]
    rcases ha with rfl | rfl
    · rw [h.sound.1]; rfl
    · rw [h.sound.2.1]; rfl
  have e3 := entry 3 va 4096 (.inl rfl)
  have e2 := entry 2 va 8192 (.inr rfl)
  rw [h.pointer] at e3; rw [h.leaf] at e2
  have st1 : s.stage1 x m va = .ok (va, []) := by
    unfold State.stage1; rw [h.off]
    rw [if_pos (by simp [bitAt])]
  have i3 : va / 2 ^ (12 + 9 * (2 + 1)) % 512 = 0 := by rw [Nat.div_eq_of_lt (by omega)]
  have i2 : va / 2 ^ (12 + 9 * (1 + 1)) % 512 = 0 := by rw [Nat.div_eq_of_lt (by omega)]
  have w2 : s.walk2 x va 2 8192 = .ok (15, 2, [cacheEntry x 2 2 va 8192 15]) := by
    rw [State.walk2, i2]
    show (do let e ← s.readEntry x 2 2 va 8192; _) = _
    rw [e2]; rfl
  have w3 : s.walk2 x va 3 4096 = .ok (15, 2, [cacheEntry x 2 3 va 4096 8193, cacheEntry x 2 2 va 8192 15]) := by
    rw [State.walk2, i3]
    show (do let e ← s.readEntry x 2 3 va 4096; _) = _
    rw [e3]
    show (do let (l, k, es) ← s.walk2 x va 2 8192; _) = _
    rw [w2]; rfl
  refine ⟨[] ++ [cacheEntry x 2 3 va 4096 8193, cacheEntry x 2 2 va 8192 15], ?_, by
    intro e he; simp [cacheEntry] at he; rcases he with rfl | rfl <;> simp⟩
  unfold State.translate
  rw [if_neg (by omega), st1]
  show (do let (a, es2) ← s.stage2 x m va; _) = _
  have : s.stage2 x m va = .ok (va, [cacheEntry x 2 3 va 4096 8193, cacheEntry x 2 2 va 8192 15]) := by
    unfold State.stage2
    rw [h.root, w3]
    have l : leafOut 15 2 va = va := by
      unfold leafOut ptePPN
      rw [Nat.mod_eq_of_lt (a := va) (by omega)]; simp
    show (if !pteGrants m 15 then _ else _) = _
    rw [if_neg (by cases m with | mk r w x => cases r <;> cases w <;> cases x <;> decide)]
    show (if s.reaches x.leaf (leafOut 15 2 va) then _ else _) = _
    rw [l, if_pos (reach va hv)]
  rw [this]; rfl
/-- What `Identity` says, as a test. -/
def identityCheck (s : State) (x : Xlate) : Bool :=
  decide (x.cluster = none) && decide ((s.vi x.vi).sroot = 0) && decide ((s.part x.leaf).s2root = 4096) && decide (s.hubRead 4096 8 = 8193) &&
  decide (s.hubRead 8192 8 = 15) && decide (s.poison (.sys 4096) = false) && decide (s.poison (.sys 8192) = false) && decide (s.hardNext = []) && decide (32 ∉ s.softNext) &&
  decide (64 ∉ s.softNext) &&
  (s.part (topOf x.leaf)).channels.getLsbD 0 && decide (s.channelsOut = []) && !s.exhausted x.leaf 5
theorem identity_of_check {s : State} {x : Xlate} (h : identityCheck s x = true) : Identity s x := by
  simp only [identityCheck, Bool.and_eq_true, decide_eq_true_eq, Bool.not_eq_true'] at h
  obtain ⟨⟨⟨⟨⟨⟨⟨⟨⟨⟨⟨⟨h1, h2⟩, h3⟩, h4⟩, h5⟩, h6⟩, h7⟩, h8⟩, h12⟩, h13⟩, h9⟩, h10⟩, h11⟩ := h
  exact ⟨h1, h2, h3, h4, h5, ⟨h6, h7, h8, h12, h13⟩, ⟨h9, h10⟩, h11⟩

theorem Identity.placed {s : State} {x : Xlate} (h : Identity s x) (m : Need) {a n : Nat} (ha : a + n ≤ 2 ^ 30) :
    Spec.placed s x m a n (fun i => a + i) := ⟨h.budget, fun i hi => let ⟨es, he⟩ := h.translate m (by omega); ⟨es, he.1⟩⟩

/-- The hub reads these bytes at a system address, and none of them is poisoned or marked, as a test. -/
def readsCheck (s : State) (a : Nat) (bs : List Byte) : Bool :=
  bs.zipIdx.all (fun q => !s.linePoisoned ((a + q.2) / 128) && !s.softNext.contains ((a + q.2) / 128) &&
    !s.hardNext.contains ((a + q.2) / 128) && decide ((s.readByte hub (.sys (a + q.2))).1 = q.1))
theorem Identity.sees {s : State} {leaf vi a : Nat} {bs : List Byte} (h : Identity s (frontX leaf vi)) (ha : a + bs.length ≤ 2 ^ 30)
    (hr : readsCheck s a bs = true) : Spec.FrontSees s leaf vi a bs := by
  intro i hi
  obtain ⟨es, ht, hes⟩ := h.translate { r := true } (va := a + i) (by omega)
  have hm : (bs.getD i 0, i) ∈ bs.zipIdx := by
    rw [List.mem_zipIdx_iff_getElem?]; simp [List.getD, List.getElem?_eq_getElem hi]
  have := List.all_eq_true.mp hr _ hm
  simp only [Bool.and_eq_true, Bool.not_eq_true', List.contains_eq_mem, decide_eq_false_iff_not, decide_eq_true_eq] at this
  have clean : ∀ b, b = 4096 ∨ b = 8192 → Spec.unmarked s b := fun b hb => by
    rcases hb with rfl | rfl
    · exact ⟨h.sound.2.2.2.1, by rw [h.sound.2.2.1]; exact List.not_mem_nil⟩
    · exact ⟨h.sound.2.2.2.2, by rw [h.sound.2.2.1]; exact List.not_mem_nil⟩
  exact ⟨a + i, ⟨es, ht, ⟨this.1.1.2, this.1.2⟩, fun e he => clean _ (hes e he)⟩, this.1.1.1, this.2⟩
/-! ### Hypotheses that are met: integer, lane and float instructions -/

theorem test_hyp_integer_arithmetic_32 :
    (∃ x, Spec.exact32 (.addI32 4 5 (.v 6) .short) true 0 0 0 = some x) ∧
    Free state0 issue0 group0 (.addI32 4 5 (.v 6) .short) .user Spec.ok32 none := ⟨⟨_, rfl⟩, free_of_check (by decide)⟩

theorem test_hyp_integer_bits_32 : ∃ r, Spec.bitRow (Spec.registers state0 issue0 group0 (.xorI32 4 5 (.v 6) .short)) state0 issue0 group0 (.xorI32 4 5 (.v 6) .short) = some r ∧
    Free state0 (issue0) (group0) (.xorI32 4 5 (.v 6) .short) .user r.ok none := ⟨_, rfl, free_of_check (by decide)⟩

theorem test_hyp_integer_division : ∃ r, Spec.divRow (Spec.registers state0 issue0 group0 (.divI32 4 5 (.v 6) .short)) state0 issue0 group0 (.divI32 4 5 (.v 6) .short) = some r ∧
    Free state0 (issue0) (group0) (.divI32 4 5 (.v 6) .short) .user r.ok none := ⟨_, rfl, free_of_check (by decide)⟩

theorem test_hyp_integer_arithmetic_64 : ∃ r, Spec.row64 (Spec.registers state0 issue0 group0 (.addI64 3 8 (.d 8) .short)) state0 issue0 group0 (.addI64 3 8 (.d 8) .short) = some r ∧
    Free state0 (issue0) (group0) (.addI64 3 8 (.d 8) .short) .user r.ok none := ⟨_, rfl, free_of_check (by decide)⟩

theorem test_hyp_addresses_and_widths : ∃ r, Spec.widthRow (Spec.registers state0 issue0 group0 (.lea 3 8 (.v 12) .short)) state0 issue0 group0 (.lea 3 8 (.v 12) .short) = some r ∧
    Free state0 (issue0) (group0) (.lea 3 8 (.v 12) .short) .user r.ok none := ⟨_, rfl, free_of_check (by decide)⟩

theorem test_hyp_integer_comparisons : ∃ r, Spec.compareRow (Spec.registers state0 issue0 group0 (.cmpLtI32 1 5 (.v 6) .short)) state0 issue0 group0 (.cmpLtI32 1 5 (.v 6) .short) = some r ∧
    Free state0 (issue0) (group0) (.cmpLtI32 1 5 (.v 6) .short) .user r.ok none := ⟨_, rfl, free_of_check (by decide)⟩

theorem test_hyp_moves : ∃ r, Spec.moveRow (Spec.registers state0 issue0 group0 (.mov 4 (.v 5) .short)) state0 issue0 group0 (.mov 4 (.v 5) .short) = some r ∧
    Free state0 (issue0) (group0) (.mov 4 (.v 5) .short) .user r.ok none := ⟨_, rfl, free_of_check (by decide)⟩

theorem test_hyp_predicates : ∃ r, Spec.predicateRow (Spec.registers state0 issue0 group0 (.pand 1 2 3 .short)) state0 issue0 group0 (.pand 1 2 3 .short) = some r ∧
    Free state0 (issue0) (group0) (.pand 1 2 3 .short) .user r.ok none := ⟨_, rfl, free_of_check (by decide)⟩

theorem test_hyp_lane_reads : ∃ r, Spec.laneReadRow (Spec.registers state0 issue0 group0 (.xrot 4 5 (.k 3) .short)) state0 issue0 group0 (.xrot 4 5 (.k 3) .short) = some r ∧
    Free state0 (issue0) (group0) (.xrot 4 5 (.k 3) .short) .user r.ok none := ⟨_, rfl, free_of_check (by decide)⟩

theorem test_hyp_votes : ∃ r, Spec.voteRow (Spec.registers state0 issue0 group0 (.xpeers 4 5 .short)) state0 issue0 group0 (.xpeers 4 5 .short) = some r ∧
    Free state0 (issue0) (group0) (.xpeers 4 5 .short) .user r.ok none := ⟨_, rfl, free_of_check (by decide)⟩

theorem test_hyp_folds : ∃ r, Spec.foldRow (Spec.registers state0 issue0 group0 (.foldAddI32 4 5 .short)) state0 issue0 group0 (.foldAddI32 4 5 .short) = some r ∧
    Free state0 (issue0) (group0) (.foldAddI32 4 5 .short) .user r.ok none := ⟨_, rfl, free_of_check (by decide)⟩

theorem test_hyp_random_streams : ∃ r, Spec.rngRow (Spec.registers state0 issue0 group0 (.rng 3 8 8 .short)) state0 issue0 group0 (.rng 3 8 8 .short) = some r ∧
    Free state0 (issue0) (group0) (.rng 3 8 8 .short) .user r.ok none := ⟨_, rfl, free_of_check (by decide)⟩

theorem test_hyp_float_arithmetic : ∃ r, Spec.floatRow (Spec.registers state0 issue0 group0 (.faddF32 4 9 (.v 10) .short)) state0 issue0 group0 (.faddF32 4 9 (.v 10) .short) = some r ∧
    Free state0 (issue0) (group0) (.faddF32 4 9 (.v 10) .short) .user r.ok none ∧ (trapMode (group0) (issue0).mode).isSome = true :=
  ⟨_, rfl, free_of_check (by decide), by decide⟩

theorem test_hyp_float_compare : ∃ r, Spec.fcmpRow (Spec.registers state0 issue0 group0 (.fcmpF32 1 .lt 9 (.v 10) .short)) state0 issue0 group0 (.fcmpF32 1 .lt 9 (.v 10) .short) = some r ∧
    Free state0 (issue0) (group0) (.fcmpF32 1 .lt 9 (.v 10) .short) .user r.ok none ∧ (trapMode (group0) (issue0).mode).isSome = true :=
  ⟨_, rfl, free_of_check (by decide), by decide⟩

theorem test_hyp_conversions : ∃ r, Spec.convertRow (Spec.registers state0 issue0 group0 (.cvtFI 4 5 .f32 .short)) state0 issue0 group0 (.cvtFI 4 5 .f32 .short) = some r ∧
    Free state0 (issue0) (group0) (.cvtFI 4 5 .f32 .short) .user r.ok none ∧ (trapMode (group0) (issue0).mode).isSome = true :=
  ⟨_, rfl, free_of_check (by decide), by decide⟩

theorem test_hyp_block_encoding : ∃ r, Spec.blockRow (Spec.registers state0 issue0 group0 (.cvtTbF32 4 9 .tb8 .short)) state0 issue0 group0 (.cvtTbF32 4 9 .tb8 .short) = some r ∧
    Free state0 (issue0) (group0) (.cvtTbF32 4 9 .tb8 .short) .user r.ok none ∧ (trapMode (group0) (issue0).mode).isSome = true :=
  ⟨_, rfl, free_of_check (by decide), by decide⟩

theorem test_hyp_classes : ∃ r, Spec.blockFormRow (Spec.registers state0 issue0 group0 (.fclass 4 9 .short)) state0 issue0 group0 (.fclass 4 9 .short) = some r ∧
    Free state0 (issue0) (group0) (.fclass 4 9 .short) .user r.ok none := ⟨_, rfl, free_of_check (by decide)⟩

theorem test_hyp_apertures : ∃ r, Spec.apertureRow (Spec.registers state0 issue0 group0 (.apconvT 3 3 (.v 12) .short)) state0 issue0 group0 (.apconvT 3 3 (.v 12) .short) = some r ∧
    Free state0 (issue0) (group0) (.apconvT 3 3 (.v 12) .short) .user r.ok none := ⟨_, rfl, free_of_check (by decide)⟩

theorem test_hyp_special_registers : ∃ r, Spec.specialRow (Spec.registers state0 issue0 group0 (.smov 4 0x10 .short)) state0 issue0 group0 (.smov 4 0x10 .short) = some r ∧
    Free state0 (issue0) (group0) (.smov 4 0x10 .short) .user r.ok none := ⟨_, rfl, free_of_check (by decide)⟩

theorem test_hyp_operands_are_numbers : fmtF32 ∈ Spec.formats ∧ (0x3F800000 : Nat) < 2 ^ fmtF32.width ∧
    Spec.number fmtF32 0x3F800000 = some 1 := by
  refine ⟨by decide, by decide, ?_⟩
  have : Spec.number fmtF32 0x3F800000 = some ((1 : ℝ) * ((2 ^ 23 + 0 : ℕ) : ℝ) * (2 : ℝ) ^ (((127 : ℕ) : ℤ) - (127 : ℕ) - (23 : ℕ))) := rfl
  rw [this]; norm_num

theorem test_hyp_exactly_rounded : fmtBF16 ∈ Spec.formats ∧ 128 < 2 ^ (fmtBF16.frac + 1) ∧ fmtBF16.value 0x3F80 = .fin false 128 (-7) := by decide

theorem test_hyp_block_rounding : bfmtTB6 ∈ [bfmtTB8, bfmtTB6, bfmtTB4] ∧ (254 : Nat) < 256 ∧ (15 : Nat) < 2 ^ (bfmtTB6.m + 1) := by decide

theorem test_hyp_function_bounds : ∃ x u, Spec.number fmtF32 0x3F800000 = some 1 ∧ Spec.exactValue .frcp 1 x ∧ Spec.Ulp fmtF32 x u := by
  refine ⟨1, _, test_hyp_operands_are_numbers.2.2, ⟨by norm_num, by norm_num⟩, 0, ?_, ?_, rfl⟩ <;> norm_num

/-! ### Hypotheses that are met: control, group registers, loads, stores, tiles and streams -/

/-- A group that has fetched headers at 0x4020 and 0x4040. -/
def groupB (m : Mode := .user) : Group := { group0 m with icache := [(codeKey m 0x4020, 7), (codeKey m 0x4040, 3)] }

theorem test_hyp_lane_moves :
    (∀ j, (Spec.moved issue0 group0 (.nop .short) j).isSome = true) ∧ Free state0 issue0 group0 (.nop .short) .user (fun _ _ _ _ => []) none ∧
    (∀ j, (Spec.moved issue0 group0 (.loop (.short 127)) j).isSome = true) ∧
    Free state0 issue0 group0 (.loop (.short 127)) .user (fun _ _ _ _ => []) none :=
  ⟨fun _ => rfl, free_of_check (by decide), fun _ => rfl, free_of_check (by decide)⟩

theorem test_hyp_branches : ∃ link dest s1 g1, Spec.branch (state0 groupB) issue0 groupB (.call 3 4 .short) = some (link, dest) ∧
    Free (state0 groupB) issue0 groupB (.call 3 4 .short) .user (fun _ _ _ => Spec.okBranch (.call 3 4 .short)) none ∧
    Spec.reach (state0 groupB) 7 .user ((groupB.activeLanes issue0 (.call 3 4 .short)).filterMap dest) = some s1 ∧ s1.group 7 = some g1 :=
  ⟨true, fun _ => some (Spec.target issue0 4), state0 groupB, groupB, rfl, free_of_check (by decide), by decide +kernel, by decide +kernel⟩

/-- What holds of every pair of a list of pairs holds of the entries at one place of two lists. -/
theorem at_both {α β : Type} {p : α → β → Prop} [∀ a b, Decidable (p a b)] {as : List α} {bs : List β}
    (h : (as.zip bs).all (fun q => decide (p q.1 q.2)) = true) (n : Nat) (a : α) (b : β) (ha : as[n]? = some a) (hb : bs[n]? = some b) :
    p a b := by
  have : (a, b) ∈ as.zip bs := List.mem_of_getElem? (i := n) (by simp [List.getElem?_zip_eq_some, ha, hb])
  simpa using List.all_eq_true.mp h _ this

theorem test_hyp_bad_targets : ∃ link dest s1 us g1, Spec.branch state0 issue0 group0 (.jmp 8 .short) = some (link, dest) ∧
    Free state0 issue0 group0 (.jmp 8 .short) .user (fun _ _ _ => Spec.okBranch (.jmp 8 .short)) none ∧
    (trapMode group0 .user).isSome = true ∧
    Spec.fetched state0 7 .user ((group0.activeLanes issue0 (.jmp 8 .short)).filterMap dest) = some (s1, us) ∧ s1.group 7 = some g1 ∧
    (∀ (n : Nat) (t : BitVec 48) (u : Nat), ((group0.activeLanes issue0 (.jmp 8 .short)).filterMap dest)[n]? = some t →
      us[n]? = some u → t.toNat % 8 ≠ 0 ∨ u % 4 ≠ 3) :=
  let i : Instr := .jmp 8 .short
  let d : Nat → Option (BitVec 48) := fun j => some (BitVec.ofNat 48 ((state0.slots group0 issue0 i).a.read64 group0 .user j).toNat)
  let r := (Spec.fetched state0 7 .user ((group0.activeLanes issue0 i).filterMap d)).getD (state0, [])
  ⟨false, d, r.1, r.2, (r.1.group 7).getD group0, rfl, free_of_check (by decide), by decide, by decide +kernel, by decide +kernel,
    fun n t u ht hu => at_both (p := fun (t : BitVec 48) (u : Nat) => t.toNat % 8 ≠ 0 ∨ u % 4 ≠ 3) (by decide +kernel) n t u ht hu⟩

theorem test_hyp_exit : Free state0 issue0 group0 (.exit .short) .user (fun _ _ _ _ => []) none := free_of_check (by decide)

/-- A group whose K5 is a ring word at its last stage. -/
def groupR : Group := (group0).kPut 5 0x03F4000000000

theorem test_hyp_group_registers : Spec.writesK (.ringAdv 5 true) ∧
    Free (state0 groupR) issue0 groupR (.ringAdv 5 true) .user (fun _ _ _ _ => []) none ∧
    (∀ w, Spec.ringWord groupR (.ringAdv 5 true) = some w → Spec.ringOk w) ∧
    Free (state0 groupR) issue0 groupR (.kset 5 9 .short) .user (fun _ _ _ _ => []) none :=
  ⟨trivial, free_of_check (by decide), fun w h => by cases h; unfold Spec.ringOk; decide, free_of_check (by decide)⟩

theorem test_hyp_ring_word_traps : Spec.ringWord group0 (.ringAdv 5 true) = some 0 ∧ ¬ Spec.ringOk 0 ∧
    Free state0 issue0 group0 (.ringAdv 5 true) .user (fun _ _ _ _ => []) none ∧ (trapMode group0 .user).isSome = true :=
  ⟨by decide, by unfold Spec.ringOk; decide, free_of_check (by decide), by decide⟩

/-- A group with a load outstanding, remote flags, and an error of a store. -/
def groupW : Group :=
  { group0 with remote := 5, ops := [{ id := 0, cls := .ld, kind := .empty }], nextOp := 1, pendST := some { cause := 8, xval := 3 } }

theorem test_hyp_wait :
    Free (state0 groupW) issue0 groupW (.wait 0 15 15 15 1 true) .user (fun _ _ _ _ => []) none ∧
    ¬ Spec.waitMet groupW 0 15 15 15 0 ∧ Spec.waitMet groupW 0 15 15 15 1 ∧ Spec.delivered groupW 15 15 15 = none ∧
    fpTraps ((state0 groupW).trapFlags groupW) groupW.remote = false ∧ (Spec.delivered groupW 15 15 0).isSome = true ∧
    (trapMode groupW .user).isSome = true :=
  ⟨free_of_check (by decide), by unfold Spec.waitMet Spec.within; decide, by unfold Spec.waitMet Spec.within; decide, by decide, by decide, by decide, by decide⟩

/-- An issue in which no lane is guard-active: the guard is P5, which is false. -/
def noneActive : ExtS := .long 0 (some ⟨false, 5⟩)

theorem test_hyp_trigger : Free state0 issue0 group0 (.trigger .short) .user (fun _ _ _ _ => []) (some .st) := free_of_check (by decide)

/-- The launch of the test group with a task ring of 6 slots at 0x10000, slot 0 reserved by lane 0. -/
def launchT : Launch :=
  { placedLaunch with
    record := placedRecord.take 0x50 ++ leBytes 8 0x10000 ++ leBytes 4 6 ++ placedRecord.drop 0x5C
    tasks := [(0, .reserved 7 0), (3, .spawned)] }

/-- The test group with only lane 0, whose D8 holds the address of slot 0. -/
def groupT : Group := (group0).dPut .user 16 0 0x10000

def issueT : Issue := { issue0 with lanes := [0], considered := [0, 2, 3] }

theorem test_hyp_task_slots :
    let s : State := { state0 groupT issueT with launches := [(3, launchT)] }
    s.launch 3 = some launchT ∧ Free s issueT groupT (.tres 4 .short) .user (fun _ _ _ _ => []) none ∧
    Free s issueT groupT (.spawn 8 .short) .user (fun _ _ _ => Spec.okAddress) (some .st) ∧
    launchT.tasks.Pairwise (fun p q => p.1 < q.1) ∧
    groupT.activeLanes issueT (.spawn 8 .short) = [0] ∧ launchT.ownSlot 7 0 0x10000 = some 0 ∧ launchT.counter + 1 ≤ 0xFFFFFFFF :=
  ⟨by decide, free_of_check (by decide), free_of_check (by decide), by decide, by decide, by decide, by decide⟩

/-- A state in which the checks of an access have been made. -/
def checked (s : State) (iss : Issue) (g : Group) (i : Instr) (acc : Spec.Access) : State × List (Nat × LaneEnd) × List (Nat × Loc × DWord) :=
  s.accessLanes (s.plainCtx iss g i) (Spec.seenBy iss g i) acc.size acc.size (if acc.store then { w := true } else { r := true })
    ((g.activeLanes iss i).map (fun j => (j, (acc.addr j).getD 0)))

/-- Checks that found no fault are what `Passes` asks. -/
theorem passes_of {s : State} {iss : Issue} {g : Group} {i : Instr} {acc : Spec.Access} (h1 : g.activeLanes iss i ≠ [])
    (h2 : ∀ j ∈ g.activeLanes iss i, (acc.addr j).isSome = true) (h3 : acc.held = false)
    (h4 : ∀ j ∈ g.activeLanes iss i, s.addrBusy iss.gid (Spec.seenBy iss g i) j ((acc.addr j).getD 0) = false)
    (h5 : (checked s iss g i acc).2.1 = []) : Spec.Passes s (checked s iss g i acc).1 iss g i acc (checked s iss g i acc).2.2 :=
  ⟨h1, h2, h3, h4, Prod.ext rfl (Prod.ext h5 rfl)⟩

/-- The access of an instruction in the test state. -/
def accessOf (i : Instr) : Spec.Access := (Spec.access state0 issue0 group0 i).getD ⟨0, false, fun _ => [], false, fun _ => none⟩

theorem test_hyp_loads : ∃ acc s1 g1 oks, Spec.access state0 issue0 group0 (.ldG32 4 8 0 .short) = some acc ∧ acc.store = false ∧
    Free state0 issue0 group0 (.ldG32 4 8 0 .short) .user (fun _ _ _ => acc.ok) (some .ld) ∧
    Spec.Passes state0 s1 issue0 group0 (.ldG32 4 8 0 .short) acc oks ∧ s1.group 7 = some g1 :=
  ⟨accessOf (.ldG32 4 8 0 .short), _, group0, _, rfl, rfl, free_of_check (by decide),
    passes_of (by decide) (by decide) rfl (by decide +kernel) (by decide +kernel), by decide +kernel⟩

theorem test_hyp_stores : ∃ acc s1 s2 g2 oks ids, Spec.access state0 issue0 group0 (.stG32 5 8 0 .short) = some acc ∧ acc.store = true ∧
    Free state0 issue0 group0 (.stG32 5 8 0 .short) .user (fun _ _ _ => acc.ok) (some .st) ∧
    Spec.Passes state0 s1 issue0 group0 (.stG32 5 8 0 .short) acc oks ∧
    s1.storeLanes 7 (Spec.seenBy issue0 group0 (.stG32 5 8 0 .short))
      (oks.map (fun p => (p.1, p.2.1, (List.range acc.size).map (Spec.stored state0 issue0 group0 (.stG32 5 8 0 .short) p.1)))) = (s2, ids) ∧
    s2.group 7 = some g2 :=
  ⟨accessOf (.stG32 5 8 0 .short), _, _, group0, _, _, rfl, rfl, free_of_check (by decide),
    passes_of (by decide) (by decide) rfl (by decide +kernel) (by decide +kernel), rfl, by decide +kernel⟩

theorem test_hyp_loads_and_stores_of_no_lane :
    (∃ acc, Spec.access state0 issue0 group0 (.ldGI8 4 8 0 (.long 0 (some ⟨false, 5⟩))) = some acc ∧ acc.store = false ∧ acc.held = false ∧
      Free state0 issue0 group0 (.ldGI8 4 8 0 (.long 0 (some ⟨false, 5⟩))) .user (fun _ _ _ => acc.ok) (some .ld) ∧
      group0.activeLanes issue0 (.ldGI8 4 8 0 (.long 0 (some ⟨false, 5⟩))) = []) ∧
    (∃ acc, Spec.access state0 issue0 group0 (.stG32 5 8 0 noneActive) = some acc ∧ acc.store = true ∧ acc.held = false ∧
      Free state0 issue0 group0 (.stG32 5 8 0 noneActive) .user (fun _ _ _ => acc.ok) (some .st) ∧
      group0.activeLanes issue0 (.stG32 5 8 0 noneActive) = []) :=
  ⟨⟨_, rfl, rfl, rfl, free_of_check (by decide), by decide⟩, ⟨_, rfl, rfl, rfl, free_of_check (by decide), by decide⟩⟩

/-- The test group with one operation outstanding. -/
def groupOp (c : Cls) (k : OpKind) : Group := Spec.withOp group0 c k

/-- What `Spec.clean` says, as a test. -/
def cleanCheck (s : State) (l : Loc) : Bool :=
  match s.memLine l with
  | none => true
  | some n => decide (n ∉ s.softNext) && decide (n ∉ s.hardNext) && !s.linePoisoned n
theorem clean_of_check {s : State} {l : Loc} (h : cleanCheck s l = true) : Spec.clean s l := by
  intro n hn
  simp only [cleanCheck, hn, Bool.and_eq_true, decide_eq_true_eq, Bool.not_eq_true'] at h
  exact ⟨h.1.1, h.1.2, h.2⟩

theorem test_hyp_load_read :
    let k : OpKind := .load 4 false .w32 [{ lane := 0, mode := .user, loc := .sys 0x8000, read := false, val := 0 }]
    let o : Op := { id := 0, cls := .ld, kind := k }
    (state0 (groupOp .ld k)).awake 7 = some (groupOp .ld k) ∧ (groupOp .ld k).firstOp Op.unreadLoad = some o ∧
    o.kind.nextRead = some (.sys 0x8000, 4) ∧ cleanCheck (state0 (groupOp .ld k)) (.sys 0x8000) = true ∧
    (state0 (groupOp .ld k)).memoryStalls 0 (.sys 0x8000) = false ∧ (state0 (groupOp .ld k)).stalledBefore 0 o.stall = false := by
  decide +kernel

theorem test_hyp_load_retire :
    let k : OpKind := .load 4 true .w64 [{ lane := 0, mode := .user, loc := .sys 0x8000, read := true, val := 0x0706050483020100 }]
    let o : Op := { id := 0, cls := .ld, kind := k }
    (state0 (groupOp .ld k)).awake 7 = some (groupOp .ld k) ∧
    (groupOp .ld k).firstOp (fun p => decide (p.cls = .ld)) = some o ∧ o.readLoad = true := by decide +kernel

theorem test_hyp_store_retire :
    let k : OpKind := .store [901] 2
    (state0 (groupOp .st k)).awake 7 = some (groupOp .st k) ∧
    (groupOp .st k).firstOp (fun o => match o.kind with
      | .store ws lvl => ws.all (fun w => (state0 (groupOp .st k)).performed w lvl)
      | _ => false) = some { id := 0, cls := .st, kind := k } := by decide +kernel

theorem test_hyp_trigger_retire :
    let k : OpKind := .trigger [0, 3] [901]
    (state0 (groupOp .st k)).awake 7 = some (groupOp .st k) ∧
    (groupOp .st k).firstOp (fun o => match o.kind with
      | .trigger _ ws => ws.all (fun w => (state0 (groupOp .st k)).performed w 4)
      | _ => false) = some { id := 0, cls := .st, kind := k } ∧
    (∀ p ∈ (groupOp .st k).ops, p.cls = .st → 0 ≤ p.id) ∧
    (let o : Op := { id := 1, cls := .st, kind := k }
     let g : Group := Spec.withOp (groupOp .st (.store [900] 2)) .st k
     (state0 g).awake 7 = some g ∧ g.firstOp (fun o => match o.kind with
      | .trigger _ ws => ws.all (fun w => (state0 g).performed w 4)
      | _ => false) = some o ∧ ∃ p ∈ g.ops, p.cls = o.cls ∧ p.id < o.id) := by
  refine ⟨by decide +kernel, by decide +kernel, by decide +kernel, by decide +kernel, by decide +kernel, ?_⟩
  exact ⟨_, List.mem_cons_self .., by decide +kernel, by decide +kernel⟩

/-- A launch whose level 1 is bound to cores and holds tiles of 64 bytes. -/
def launchL : Launch :=
  { placedLaunch with
    record := leBytes 2 1 ++ [2, 1] ++ leBytes 4 0 ++ leBytes 8 placedBlock ++ leBytes 4 1 ++ leBytes 4 1 ++ leBytes 4 1 ++
      leBytes 4 1 ++ List.replicate 32 0 ++ [30] ++ List.replicate 7 0 ++ leBytes 4 64 ++ List.replicate 20 0 ++ leBytes 8 0x201 ++
      List.replicate 408 0 }

/-- The test group with a shape word in K4: rows of 64 bytes of F32. -/
def groupS (rows : Nat) : Group := (group0).kPut 4 (BitVec.ofNat 64 (5 * 2 ^ 60 + rows * 2 ^ 40 + 64 * 2 ^ 24))

def stateL (g : Group) : State := { state0 g with launches := [(3, launchL)] }

theorem test_hyp_tile_registers :
    Free (stateL (groupS 4)) issue0 (groupS 4) (.trel 3 .short) .user (fun _ _ _ _ => []) none ∧
    (stateL (groupS 4)).tBusy (groupS 4) ((stateL (groupS 4)).slots (groupS 4) issue0 (.trel 3 .short)).d.num = false ∧
    Free (stateL (groupS 4)) issue0 (groupS 4) (.talloc 9 4 1 .short) .user (fun _ _ _ _ => []) (some .tx) ∧
    (groupS 4).activeLanes issue0 (.talloc 9 4 1 .short) ≠ [] ∧
    (stateL (groupS 4)).tBusy (Spec.seenBy issue0 (groupS 4) (.talloc 9 4 1 .short)) 9 = false ∧
    (stateL (groupS 4)).launch 3 = some launchL ∧
    (Spec.seenBy issue0 (groupS 4) (.talloc 9 4 1 .short)).ownerAt 7 1 = some (.piece 11) :=
  ⟨free_of_check (by decide), by decide, free_of_check (by decide), by decide, by decide, by decide, by decide⟩

theorem test_hyp_talloc_clauses :
    Spec.shapeOk (groupS 4) launchL 1 ((groupS 4).kGet 4) ∧ (stateL (groupS 4)).tileOf (.piece 11) 9 = none ∧
    (stateL (groupS 4)).shapePending (.piece 11) 9 = none ∧ ¬ Spec.shapeOk (groupS 0) launchL 1 ((groupS 0).kGet 4) ∧
    ((stateL (groupS 4)).tileOf (.piece 11) 3).isSome = true ∧ (trapMode group0 .user).isSome = true := by
  unfold Spec.shapeOk; decide +kernel

/-- The test group waiting for a tile. -/
def groupA : Group := groupOp .tx (.talloc 9 (.piece 11) 0x5000040040000000)

theorem test_hyp_talloc_grant :
    let s : State := { stateL groupA with waits := [{ gid := 7, op := 0, lvl := false, unit := 0 }] }
    s.tallocHead false 0 = some (7, 0, 9, .piece 11, 0x5000040040000000) ∧ s.group 7 = some groupA ∧ s.tileOf (.piece 11) 9 = none ∧
    6 < storeEntries false ∧ 2048 % storeUnit false = 0 ∧ tblFind s.tiles (handleAt false 0 6) = none ∧
    s.storeFree false 0 2048 (storeSpan false (shapeSize 0x5000040040000000)) = true := by decide +kernel

/-- The test group with words of a pattern in K16 to K19 and the pattern W2 set. -/
def groupP (base : DWord := 0x200000) : Group :=
  let g := ((((group0).kPut 16 base).kPut 17 0x0000000400000010).kPut 18 0x0000000410000001).kPut 19 0x400
  { g with w := [(2, ⟨0x8000, 0x0000000400000010, 0x0000000410000001, 0x400⟩)] }

theorem test_hyp_stream_registers :
    Free (state0 groupP) issue0 groupP (.pf 8 0 .short) .user (fun _ _ _ => Spec.okAddress) none ∧
    Free (state0 groupP) issue0 groupP (.wset 1 16 true) .user (fun _ _ _ _ => []) none ∧
    Free (state0 groupP) issue0 groupP (.wclr 2 true) .user (fun _ _ _ _ => []) none ∧
    Free (state0 groupP) issue0 groupP (.wskip 2 17 .short) .user (fun _ _ _ _ => []) none ∧ (tblFind groupP.w 2).isSome = true :=
  ⟨free_of_check (by decide), free_of_check (by decide), free_of_check (by decide), free_of_check (by decide), by decide⟩

theorem test_hyp_patterns :
    Spec.patternOk ((groupP).kGet 16) ((groupP).kGet 17) ((groupP).kGet 18) ∧
    Spec.patternAligned ((groupP).kGet 16) ((groupP).kGet 18) ((groupP).kGet 19) ∧
    ¬ Spec.patternOk 0xC000000000000000 ((groupP).kGet 17) ((groupP).kGet 18) ∧
    Spec.patternOk 0x200002 ((groupP).kGet 17) ((groupP).kGet 18) ∧
    ¬ Spec.patternAligned 0x200002 ((groupP).kGet 18) ((groupP).kGet 19) := by
  unfold Spec.patternOk Spec.patternAligned; decide +kernel

theorem test_hyp_ldk :
    Free state0 issue0 group0 (.ldk 20 8 0 .short) .user (fun _ _ _ _ => []) (some .ld) ∧
    (group0.activeLanes issue0 (.ldk 20 8 0 .short)).head? = some 0 ∧
    state0.addrBusy 7 (Spec.seenBy issue0 group0 (.ldk 20 8 0 .short)) 0 (group0.kGet 8) = false ∧
    state0.checkLane 7 (Spec.seenBy issue0 group0 (.ldk 20 8 0 .short)) .user 0 (group0.kGet 8) 8 8 { r := true } =
      (.ok (.sys 0x8000), (state0.checkLane 7 group0 .user 0 0x8000 8 8 { r := true }).2) ∧
    group0.activeLanes issue0 (.ldk 20 8 0 (.long (some ⟨false, 5⟩))) = [] :=
  ⟨free_of_check (by decide), by decide, by decide +kernel, by decide +kernel, by decide⟩

/-- What `Spec.StreamOperands` asks, as a test. -/
def streamCheck (s : State) (iss : Issue) (g : Group) (i : Instr) : Bool :=
  let st := Spec.boundStreams s iss g i
  match Spec.streamRow (Spec.streamed s iss g i st) s iss g i with
  | none => false
  | some r => readyCheck s iss g i .user r.ok none && decide (iss.pfx.streams ≠ []) &&
      iss.pfx.streams.all (fun p => (tblFind g.w p.1.toNat).isSome) && decide (st.faults = []) && !st.busy &&
      st.elems.all (fun x => x.2.2.all (fun y => cleanCheck s y.2.1)) && (trapMode g iss.mode).isSome

/-- A test that passes shows the hypotheses. -/
theorem streams_of_check {s : State} {iss : Issue} {g : Group} {i : Instr} (h : streamCheck s iss g i = true) :
    ∃ r st, Spec.boundStreams s iss g i = st ∧ Spec.streamRow (Spec.streamed s iss g i st) s iss g i = some r ∧
      Ready s iss g i .user r.ok none ∧ iss.pfx.streams ≠ [] ∧ (∀ p ∈ iss.pfx.streams, (tblFind g.w p.1.toNat).isSome = true) ∧
      st.faults = [] ∧ st.busy = false ∧
      (∀ (sl : SlotName) (j : Nat) (l : Loc), sl ≠ .d → Spec.elementOf st sl j = some l → Spec.clean s l) ∧
      (trapMode g iss.mode).isSome = true := by
  unfold streamCheck at h
  dsimp only at h
  cases hr : Spec.streamRow (Spec.streamed s iss g i (Spec.boundStreams s iss g i)) s iss g i with
  | none => rw [hr] at h; exact Bool.noConfusion h
  | some r =>
    rw [hr] at h
    simp only [Bool.and_eq_true, decide_eq_true_eq, Bool.not_eq_true'] at h
    obtain ⟨⟨⟨⟨⟨⟨h1, h2⟩, h3⟩, h4⟩, h5⟩, h6⟩, h7⟩ := h
    refine ⟨r, _, rfl, hr, ready_of_check h1, h2, List.all_eq_true.mp h3, h4, h5, fun sl j l _ hl => ?_, h7⟩
    unfold Spec.elementOf at hl
    obtain ⟨x, hx, hl⟩ := Option.bind_eq_some_iff.mp hl
    obtain ⟨y, hy, rfl⟩ := Option.map_eq_some_iff.mp hl
    exact clean_of_check (List.all_eq_true.mp (List.all_eq_true.mp h6 x (List.mem_of_find?_eq_some hx)) y (List.mem_of_find?_eq_some hy))

/-- An issue with the stream W2 bound to a slot. -/
def issueW (sl : SlotName) : Issue := issue0 { streams := [(2, sl)] }

theorem test_hyp_stream_operands (sl : SlotName) (h : sl ∈ [SlotName.b, SlotName.d]) :
    streamCheck (state0 groupP (issueW sl)) (issueW sl) groupP (.addI32 4 5 (.v 6) .short) = true := by
  revert sl; decide +kernel

/-- The same group whose pattern gives numbers of F32. -/
def groupPF : Group := { groupP with w := [(2, ⟨0x8000, 0x0000000400000010, 0x0000000450000001, 0x400⟩)] }

theorem test_hyp_stream_operands_of_others :
    streamCheck (state0 groupPF (issueW .b)) (issueW .b) groupPF (.faddF32 4 9 (.v 10) .short) = true ∧
    streamCheck (state0 groupP (issueW .a)) (issueW .a) groupP (.extI64 4 6 .short) = true ∧
    streamCheck (state0 groupPF (issueW .a)) (issueW .a) groupPF (.cvtIF 4 9 .i64 .short) = true := by decide +kernel

theorem test_hyp_unset_streams :
    let iss : Issue := issue0 { streams := [(3, .b)] }
    ∃ r, Spec.streamRow (Spec.registers (state0 groupP iss) iss groupP (.addI32 4 5 (.v 6) .short)) (state0 groupP iss) iss groupP
      (.addI32 4 5 (.v 6) .short) = some r ∧ Ready (state0 groupP iss) iss groupP (.addI32 4 5 (.v 6) .short) .user r.ok none ∧
    tblFind groupP.w 3 = none ∧ (trapMode groupP .user).isSome = true := ⟨_, rfl, ready_of_check (by decide), by decide, by decide⟩

/-! ### Hypotheses that are met: a step, memory and words -/

/-- A machine with `smov V4, %absent` placed, and what its step meets in turn. -/
def scene : State := State.reset.withFetchWord 32 0x05001138
def scene1 : State := ({ scene with agenda := [] }).passTime 0
def okOr {α : Type} (s : State) (r : Fetched α) : State :=
  match r with
  | .ok p => p.1
  | .error _ => s
def sceneG : Group := (scene1.group 2).getD group0
def sceneA : State := okOr scene1 (scene1.standOf 2 (sceneG.lane 0))
def sceneB : State := okOr scene1 (sceneA.headerAt 2 .user placedBlock)
def sceneBlock : Block := { header := placedBlock, hd := ⟨1, false, false, false⟩, word := ⟨0, 0, 0, 0, 0⟩ }
def scene2 : State := sceneB.takeHeader 2 [0] sceneBlock
def scene3 : State :=
  match scene2.fetchSeq 2 .user sceneBlock.stop sceneBlock.start with
  | .ok p => p.1
  | .error _ => scene2
def sceneIssue : Issue :=
  { gid := 2, lanes := [0], considered := [0], mode := .user, addr := sceneBlock.start, iaddr := sceneBlock.start
    header := sceneBlock.header, next := sceneBlock.following, following := sceneBlock.following, pfx := {}
    loopPass := 0, repPass := 0, stepD := 0, stepA := 0, stepB := 0, stepC := 0, stepT := 0 }

theorem test_hyp_step_runs_decoded_1 : scene.agenda = [⟨0, .issue 2⟩] ∧ scene1.group 2 = some sceneG ∧ sceneG.resident = true ∧
    sceneG.freed = false ∧ sceneG.hostcall.waiting = false ∧ scene1.overdue sceneG = false ∧ scene1.frameHeaders 2 = scene1 ∧
    scene1.asleep 0 = false ∧ scene1.exhausted 0 0 = false ∧ scene1.leafStopped 0 = false ∧
    scene1.gangApart sceneG = false ∧ scene1.considered 2 sceneG = (scene1, [0]) ∧
    scene1.frameReturns 2 (sceneG.choose [0]) = (scene1, true) ∧ sceneG.sameBlock (sceneG.choose [0]) = [0] := by decide +kernel

theorem test_hyp_step_runs_decoded_2 :
    (match scene1.standOf 2 (sceneG.lane 0) with
      | .ok (s, .atHeader) => decide (s = sceneA)
      | _ => false) = true ∧
    (match sceneA.headerAt 2 .user placedBlock with
      | .ok (s, .block b) => decide (s = sceneB) && decide (b = sceneBlock)
      | _ => false) = true ∧
    (match scene2.fetchSeq 2 .user sceneBlock.stop sceneBlock.start with
      | .ok (s, pfx, ins) => decide (s = scene3) && decide (pfx = []) && decide (ins = [0x05001138])
      | _ => false) = true ∧ ((scene2.group 2).map (fun g => g.lane 0)).map (fun l => (l.addr.toNat, l.mode)) = some (sceneBlock.start, .user) := by
  decide +kernel

theorem test_hyp_step_runs_decoded_3 :
    (match decodeSeq [] [0x05001138] with
      | .ok q => decide (q = ⟨{}, 0, .smov 4 5 .short, 1⟩)
      | _ => false) = true ∧
    scene3.lateIllegal ((scene2.group 2).getD group0) sceneIssue sceneBlock [] ⟨{}, 0, .smov 4 5 .short, 1⟩ = none := by
  decide +kernel

/-- The state after a step, or an instruction, that answers one. -/
def after (o : Host.Outcome State Fault Refusal) : State :=
  match o with
  | .next s => s
  | _ => State.reset

/-- The step of the placed program is `exec` of its instruction, and V4 of lane 0 then names lanes 1 to 31, tagged N32. -/
theorem test_step_runs_decoded :
    after (step scene) = after (exec (.smov 4 5 .short) { scene3 with issue := some sceneIssue }) ∧
    ((after (step scene)).group 2).map (fun (g : Group) => (g.vGet .user 4 0, g.tag .user 4)) = some (0xFFFFFFFE, .n32) := by decide +kernel

theorem test_hyp_memory_kept : Memory.wf scene.mem = true ∧ (match step scene with
    | .next t => Memory.wf t.mem
    | _ => false) = true := by decide +kernel

theorem test_hyp_decode_encode : encode (.addI32 4 5 (.v 6) .short) ≠ [] ∧ (Instr.addI32 4 5 (.v 6) .short).wellFormed = true ∧
    encode (.madI32 4 5 (.v 6) 7 (some ⟨true, 7⟩)) ≠ [] ∧ (Instr.madI32 4 5 (.v 6) 7 (some ⟨true, 7⟩)).wellFormed = true := by decide

/-! ### Hypotheses that are met: traps and the system class -/

/-- The issue of the test group is in hand. -/
theorem inHand0 (g : Group) (iss : Issue) (h1 : (state0 g iss).group iss.gid = some g) (h2 : iss.lanes = [0, 2, 3])
    (h3 : iss.considered = [0, 2, 3]) (h4 : ∀ j ∈ [0, 2, 3], j < 32 ∧ (g.lane j).live = true ∧ (g.lane j).mode = iss.mode)
    (h5 : (trapMode g iss.mode).isSome = true) (h6 : g.ops = []) : Spec.InHand (state0 g iss) iss g :=
  ⟨rfl, h1, by rw [h2]; decide, by rw [h2]; decide, by rw [h3]; decide, by rw [h2]; exact h4, h5, by rw [h6]; rfl⟩

/-- The mismatch of slot `n` of an instruction that computes lane by lane, where no earlier slot has one. -/
def formatFails (g : Group) (i : Instr) (n : Nat) (sl : SlotName) : Option (Tag × Tag) :=
  match Spec.anyRow (Spec.registers (state0 g) issue0 g i) (state0 g) issue0 g i with
  | none => none
  | some r =>
    let tag (x : SlotName) : Tag := (state0 g).tagOf g issue0 i x
    let fails := Spec.mismatch (r.ok (tag .a) (tag .b) (tag .c)) (Spec.found (state0 g) issue0 g i)
    if [SlotName.a, .b, .c, .d][n]? = some sl ∧ ∀ x ∈ [SlotName.a, .b, .c, .d].take n, fails x = none then fails sl else none

theorem test_hyp_issue_faults :
    Spec.InHand state0 issue0 group0 ∧ issue0.mode.num < (Spec.lowest (.hret .short)).num ∧
    formatFails group0 (.addI32 4 9 (.v 6) .short) 0 .a = some (.f32, .i32) ∧
    formatFails group0 (.addI32 4 5 (.v 9) .short) 1 .b = some (.f32, .i32) ∧
    formatFails group0 (.addI64 3 4 (.d 8) .short) 0 .a = some (.raw, .i64) ∧
    (Instr.fstat 4 none).longSpace = true ∧ ¬ Spec.engineRole (.fstat 4 none) 2 ∧ ¬ Spec.engineRole (.mzero 1 none) 1 :=
  ⟨inHand0 _ _ (by decide) rfl rfl (by decide) (by decide) rfl, by decide, by decide +kernel, by decide +kernel, by decide +kernel, by decide, by unfold Spec.engineRole; decide,
    by unfold Spec.engineRole; decide⟩

theorem test_hyp_taking_traps : state0.group 7 = some group0 ∧ Spec.handler group0 .user = some (.supervisor, 0x9000) ∧
    Spec.handler group0 .supervisor = some (.hypervisor, 0xA000) ∧ Spec.handler group0 .hypervisor = none ∧
    (state0.launch 3).isSome = true := by decide +kernel

theorem test_hyp_system_calls : (trapMode group0 .user).isSome = true ∧ issue0.addr < 2 ^ 48 ∧
    Free state0 issue0 group0 (.sys 255 .short) .user (fun _ _ _ _ => []) none ∧
    Free state0 issue0 group0 (.brk 255 .short) .user (fun _ _ _ _ => []) none :=
  ⟨by decide, by decide, free_of_check (by decide), free_of_check (by decide)⟩

/-- A group and its issue in a mode, its lanes with saved words of the mode below. -/
def groupH (m : Mode) : Group :=
  let g := group0 m
  { g with lanes := g.lanes.map (fun p => (p.1, { p.2 with xpcS := BitVec.ofNat 64 (p.1 * 2 ^ 47 + 0x4000), xpcH := BitVec.ofNat 64 (2 ^ 48 + 0x4000) })) }
def issueH (m : Mode) : Issue := issue0 {} m
def stateH (m : Mode) : State := state0 (groupH m) (issueH m)

theorem test_hyp_trap_returns :
    (∀ l, (Spec.savedWord (.sret .short) l).isSome = true) ∧
    Free (stateH .supervisor) (issueH .supervisor) (groupH .supervisor) (.sret .short) .supervisor (fun _ _ _ _ => []) none ∧
    ¬ (Spec.lowest (.sret .short)).num < ((Spec.savedWord (.sret .short) ((groupH .supervisor).lane 2)).getD 0).toNat / 2 ^ 48 % 4 ∧
    (Spec.lowest (.sret .short)).num < (2 ^ 49 + 0x4000) / 2 ^ 48 % 4 ∧
    (trapMode (groupH .supervisor) .supervisor).isSome = true ∧
    Free (stateH .hypervisor) (issueH .hypervisor) (groupH .hypervisor) (.hret .short) .hypervisor (fun _ _ _ _ => []) none :=
  ⟨fun _ => rfl, free_of_check (by decide), by decide, by decide, by decide, free_of_check (by decide)⟩

theorem test_hyp_special_register_live : ∃ r, Spec.specialRow (Spec.registers state0 issue0 group0 (.smov 4 5 .short)) state0 issue0 group0 (.smov 4 5 .short) = some r ∧
    Free state0 issue0 group0 (.smov 4 5 .short) .user r.ok none ∧
    Free state0 issue0 group0 (.smov 4 0x80 .short) .user (fun _ _ _ _ => []) none ∧ group0.activeLanes issue0 (.smov 4 0x80 .short) ≠ [] :=
  ⟨_, rfl, free_of_check (by decide), free_of_check (by decide), by decide⟩

theorem test_hyp_pair_move_and_flags :
    Free state0 issue0 group0 (.mov64 3 (.d 8) .short) .user (fun _ _ _ _ => []) none ∧
    Free state0 issue0 group0 (.fflag 4 (.v 6) .short) .user (fun _ _ _ _ => []) none :=
  ⟨free_of_check (by decide), free_of_check (by decide)⟩

theorem test_hyp_system_reads : ∃ r, Spec.systemRow (stateH .supervisor) (issueH .supervisor) (groupH .supervisor) (.ctlrd 3 0 .short) = some r ∧
    Spec.withinReach (.ctlrd 3 0 .short) .supervisor ∧
    Free (stateH .supervisor) (issueH .supervisor) (groupH .supervisor) (.ctlrd 3 0 .short) .supervisor r.ok none ∧
    Spec.hyperReg 4 ∧ Free (stateH .supervisor) (issueH .supervisor) (groupH .supervisor) (.ctlrd 3 4 .short) .supervisor (fun _ _ _ _ => []) none ∧
    (trapMode (groupH .supervisor) .supervisor).isSome = true ∧
    (groupH .supervisor).activeLanes (issueH .supervisor) (.ctlrd 3 4 .short) = (issueH .supervisor).lanes :=
  ⟨_, rfl, by intro h; unfold Spec.hyperReg at h; revert h; decide, free_of_check (by decide), by unfold Spec.hyperReg; decide, free_of_check (by decide),
    by decide, by decide⟩

/-- The supervisor machine whose leaf has used up its translation budget. -/
def stateBudget : State :=
  { stateH .supervisor with
    parts := [(0, { ((stateH .supervisor).part 0) with budgets := [0xFFFFFFFF, 0xFFFFFFFF, 0xFFFFFFFF, 0xFFFFFFFF, 0xFFFFFFFF, 0] })] }

theorem test_hyp_stalled_probe :
    Free stateBudget (issueH .supervisor) (groupH .supervisor) (.tprobe 3 8 .short) .supervisor (fun _ _ _ _ => []) none ∧
    ∃ j ∈ (groupH .supervisor).activeLanes (issueH .supervisor) (.tprobe 3 8 .short),
      Spec.stalls stateBudget (issueH .supervisor) (groupH .supervisor) (.tprobe 3 8 .short) j
        ((stateBudget.slots (groupH .supervisor) (issueH .supervisor) (.tprobe 3 8 .short)).a.read64 (groupH .supervisor) .supervisor j) = true :=
  ⟨free_of_check (by decide), 0, by decide, by decide +kernel⟩

theorem test_hyp_system_writes :
    ctlListed 0 = true ∧ ctlListed 0x1F = true ∧ Spec.withinReach (.ctlwr 8 0x1F .short) .supervisor ∧
    Free (stateH .supervisor) (issueH .supervisor) (groupH .supervisor) (.ctlwr 8 0 .short) .supervisor (fun _ _ _ _ => []) none ∧
    Free (stateH .supervisor) (issueH .supervisor) (groupH .supervisor) (.ctlwr 8 0x1F .short) .supervisor (fun _ _ _ _ => []) none ∧
    ((groupH .supervisor).activeLanes (issueH .supervisor) (.ctlwr 8 0x1F .short)).head? = some 0 ∧
    Free (stateH .supervisor) (issueH .supervisor) (groupH .supervisor) (.evclr 3 .short) .supervisor (fun _ _ _ _ => []) none ∧
    (tblGet ((stateH .supervisor).core 0).evsel 0 7).getLsbD 8 = false :=
  ⟨by decide, by decide, by intro h; unfold Spec.hyperReg at h; revert h; decide, free_of_check (by decide), free_of_check (by decide), by decide,
    free_of_check (by decide), by decide⟩

/-- The supervisor group with a word of `tinv` in K3. -/
def groupI (m : Mode) (w : Nat) : Group := (groupH m).kPut 3 (BitVec.ofNat 64 w)

theorem test_hyp_tinv :
    Free (state0 (groupI .supervisor 4) (issueH .supervisor)) (issueH .supervisor) (groupI .supervisor 4) (.tinv 3 .short) .supervisor
      (fun _ _ _ _ => []) (some .st) ∧
    (groupI .supervisor 4).activeLanes (issueH .supervisor) (.tinv 3 .short) ≠ [] ∧ ((groupI .supervisor 4).kGet 3).getLsbD 2 = true ∧
    ((groupI .supervisor 0x201A).kGet 3).getLsbD 2 = false ∧
    (Spec.invalidation (issueH .supervisor) (groupI .supervisor 0x201A) 0x201A).isSome = true ∧
    Spec.invalidation (issueH .supervisor) (groupI .supervisor 0x200A) 0x200A = none ∧
    (trapMode (groupI .supervisor 4) .supervisor).isSome = true ∧
    Free (state0 (groupI .supervisor 4) (issueH .supervisor)) (issueH .supervisor) (groupI .supervisor 4)
      (.tinv 3 (.long (some ⟨false, 5⟩))) .supervisor (fun _ _ _ _ => []) (some .st) ∧
    (groupI .supervisor 4).activeLanes (issueH .supervisor) (.tinv 3 (.long (some ⟨false, 5⟩))) = [] :=
  ⟨free_of_check (by decide), by decide, by decide, by decide, by decide, by decide, by decide, free_of_check (by decide), by decide⟩

theorem test_hyp_einj_and_lhalt :
    Free (stateH .hypervisor) (issueH .hypervisor) (groupH .hypervisor) (.einj 8 0 .short) .hypervisor (fun _ _ _ _ => []) none ∧
    ((stateH .hypervisor).accessLanes ((stateH .hypervisor).plainCtx (issueH .hypervisor) (groupH .hypervisor) (.einj 8 0 .short))
      (Spec.seenBy (issueH .hypervisor) (groupH .hypervisor) (.einj 8 0 .short)) 1 1 { w := true }
      ([0, 2, 3].map (fun j => (j, (groupH .hypervisor).dGet .hypervisor 16 j)))).2.1 = [] ∧
    Free (stateH .hypervisor) (issueH .hypervisor) (groupH .hypervisor) (.lhalt .short) .hypervisor (fun _ _ _ _ => []) none :=
  ⟨free_of_check (by decide), by decide +kernel, free_of_check (by decide)⟩

/-- The test machine with a host-call ring of 8 records at 0x8000. -/
def stateC (ctl tail : BitVec 32) (g : Group := group0) : State :=
  { state0 g with vis := [(1, { hctl := ctl, hbase := 0x8000, htail := tail, hhead := 3 })] }

theorem test_hyp_hcall :
    Free (stateC 0x103 5) issue0 group0 (.hcall 20 9 .short) .user (fun _ _ _ _ => []) (some .st) ∧
    group0.activeLanes issue0 (.hcall 20 9 .short) ≠ [] ∧ ((stateC 3 5).vi 1).hctl.getLsbD 8 = false ∧
    ((stateC 0x103 5).vi 1).hctl.getLsbD 8 = true ∧ 2 ^ (((stateC 0x103 11).vi 1).hctl.toNat % 32) ≤
      (((stateC 0x103 11).vi 1).htail - ((stateC 0x103 11).vi 1).hhead).toNat ∧
    ¬ 2 ^ (((stateC 0x103 10).vi 1).hctl.toNat % 32) ≤ (((stateC 0x103 10).vi 1).htail - ((stateC 0x103 10).vi 1).hhead).toNat ∧
    Free (stateC 0x103 5) issue0 group0 (.hcall 20 9 (.long (some ⟨false, 5⟩))) .user (fun _ _ _ _ => []) (some .st) ∧
    group0.activeLanes issue0 (.hcall 20 9 (.long (some ⟨false, 5⟩))) = [] :=
  ⟨free_of_check (by decide), by decide, by decide, by decide, by decide, by decide, free_of_check (by decide), by decide⟩

/-- The test group parked by a host call whose record is not yet written, and once it is written. -/
def groupHC (seq : BitVec 32) : Group :=
  let g := groupOp .st (.hcall 9 .user 5 [1, 2, 3, 4] 20 [])
  { g with
      lanes := g.lanes.map (fun p => (p.1, { p.2 with park := .hostcall }))
      hostcall := { waiting := true, seq := seq, kd := 20, lanes := 5 } }

theorem test_hyp_host_call_record :
    (stateC 0x103 5 (groupHC 0)).awake 7 = some (groupHC 0) ∧
    (groupHC 0).firstOp (fun o => match o.kind with
      | .hcall _ _ _ _ _ ws => ws.all (fun w => (stateC 0x103 5 (groupHC 0)).performed w 6)
      | _ => false) = some { id := 0, cls := .st, kind := .hcall 9 .user 5 [1, 2, 3, 4] 20 [] } ∧
    (((stateC 0x103 5 (groupHC 0)).vi 1).htail - ((stateC 0x103 5 (groupHC 0)).vi 1).hhead).toNat < 2 ^ 3 ∧
    (stateC 0x103 5 (groupHC 0)).exhausted 0 5 = false ∧
    (stateC 0x103 6 { groupHC 5 with ops := [], resident := false }).groups.find? (fun p => p.2.awaitsCall 1 5) =
      some (7, { groupHC 5 with ops := [], resident := false }) ∧
    (match (stateC 0x103 5 (groupHC 0)).frontWrite 0 1 3 (0x8000 + 5 * 64) (leBytes 4 5 ++ [9, 0, 0, 0] ++ leBytes 8 7 ++ leBytes 4 5 ++
        [0, 0, 0, 0] ++ [1, 2, 3, 4].flatMap (fun (a : Nat) => leBytes 8 a)) with
      | .ok _ => true
      | .error _ => false) = true ∧
    (stateC 0x103 6 { groupHC 5 with ops := [] }).groups.find? (fun p => p.2.awaitsCall 1 5) = some (7, { groupHC 5 with ops := [] }) ∧
    (groupHC 5).resident = true ∧ ((stateC 0x103 6 (groupHC 5)).frontLoad 0 1 3 (0x8000 + 5 * 64 + 0x38) 8).2.isSome = true := by decide +kernel

/-! ### Hypotheses that are met: copies, barriers, fences and monitors -/

/-- The test group with a descriptor of a copy from 0x8000 to tile 5 in K12 to K15: 2 rows of 16 bytes, or of the rows given. -/
def groupK (dst : DWord := 0xD000000005000000) (rows : Nat := 2) : Group :=
  ((((group0).kPut 12 0x8000).kPut 13 dst).kPut 14 (BitVec.ofNat 64 (rows * 2 ^ 32 + 16))).kPut 15 0x2000000040

/-- Tile 5 of core 0 holds 256 bytes. -/
def tileK : Tile := { owner := .piece 11, leaf := 0, reg := 3, shape := 0x5000010008000000, size := 256, base := 0, state := .ready, bytes := [] }
def stateK (g : Group) : State := { state0 g with tiles := [(5, tileK)] }

def copyK : CopyOp := Spec.copyDesc groupK issue0 (.cp 12 20 .short) 12 0 0

theorem test_hyp_copy_issue :
    Free (stateK groupK) issue0 groupK (.cp 12 20 .short) .user (fun _ _ _ _ => []) (some .cp) ∧
    groupK.activeLanes issue0 (.cp 12 20 .short) ≠ [] ∧
    (groupK.kGet 14 < 2 ^ 48 ∧ groupK.kGet 20 < 2 ^ 33 ∧ copyK.rows ≠ 0 ∧ 16 ≤ copyK.rowBytes ∧ copyK.rowBytes ≤ 2 ^ 24 ∧
      copyK.rowBytes % 16 = 0) ∧
    (Spec.tileNamed copyK.src = none ∨ Spec.tileNamed copyK.src ≠ Spec.tileNamed copyK.dst) ∧ copyK.credit = none ∧
    (Spec.copyDesc (groupK 0 0) issue0 (.cp 12 20 .short) 12 0 0).rows = 0 ∧ (trapMode group0 .user).isSome = true ∧
    Free (stateK groupK) issue0 groupK (.cp 12 20 noneActive) .user (fun _ _ _ _ => []) (some .cp) ∧
    groupK.activeLanes issue0 (.cp 12 20 noneActive) = [] :=
  ⟨free_of_check (by decide +kernel), by decide +kernel, by decide +kernel, by decide +kernel, by decide +kernel, by decide +kernel, by decide +kernel,
    free_of_check (by decide +kernel), by decide +kernel⟩

theorem test_hyp_copy_ends :
    Spec.endOk (stateK groupK) 7 (Spec.seenBy issue0 groupK (.cp 12 20 .short)) copyK.src copyK.sstride copyK ∧
    Spec.endOk (stateK groupK) 7 (Spec.seenBy issue0 groupK (.cp 12 20 .short)) copyK.dst copyK.dstride copyK ∧
    Spec.tileFree (stateK groupK) copyK.src Spec.leaving ∧ Spec.tileFree (stateK groupK) copyK.dst Spec.entering :=
  ⟨⟨by decide +kernel, by decide +kernel, .inl ⟨by decide +kernel, by decide +kernel⟩⟩,
    ⟨by decide +kernel, by decide +kernel, .inr ⟨by decide +kernel, by decide +kernel, tileK, by decide +kernel, by decide +kernel⟩⟩,
    fun h _ h1 => absurd h1 (by rw [show Spec.tileNamed copyK.src = none by decide +kernel]; exact fun h => by cases h),
    fun h t h1 h2 => by
      rw [show Spec.tileNamed copyK.dst = some 5 by decide +kernel] at h1
      cases h1; cases h2; rfl⟩

/-- A group with that copy outstanding, some bytes moved. -/
def groupQ (dst : DWord) (done writes : List Nat) : Group :=
  groupOp .cp (.copy { Spec.copyDesc (groupK dst) issue0 (.cp 12 20 .short) 12 0 0 with done := done, writes := writes })

theorem test_hyp_copy_byte (tile : Bool) :
    let dst : DWord := if tile then 0xD000000005000000 else 0x9000
    let g := groupQ dst [0, 1] []
    let c := { Spec.copyDesc (groupK dst) issue0 (.cp 12 20 .short) 12 0 0 with done := [0, 1] }
    let s := stateK g
    s.awake 7 = some g ∧ g.resident = true ∧ g.op 0 = some { id := 0, cls := .cp, kind := .copy c } ∧ c.ended = false ∧ c.suspended = false ∧
    31 < c.total ∧ 31 ∉ c.done ∧ tblFind c.data 31 = none ∧ s.exhausted 0 3 = false ∧
    (match s.copyPlace g .user (c.srcAt 31) { r := true }, s.copyPlace g .user (c.dstAt 31) { w := true } with
      | .ok (src, _), .ok _ => cleanCheck s src && !s.memoryStalls 0 src
      | _, _ => false) = true ∧ (tblFind s.tiles 5).isSome = true ∧ (∀ w ∈ s.flight, w.level = 0) := by
  revert tile; decide +kernel

/-- A byte that has been read is written at a later step. -/
theorem test_hyp_copy_byte_written :
    let c := { Spec.copyDesc (groupK 0x9000) issue0 (.cp 12 20 .short) 12 0 0 with done := [0, 1], data := [(31, 0x77)] }
    let g := groupOp .cp (.copy c)
    (stateK g).awake 7 = some g ∧ g.op 0 = some { id := 0, cls := .cp, kind := .copy c } ∧ 31 < c.total ∧ 31 ∉ c.done ∧
    tblFind c.data 31 = some 0x77 ∧ (match (stateK g).copyPlace g .user (c.dstAt 31) { w := true } with
      | .ok _ => true
      | .error _ => false) = true := by decide +kernel

/-- Of three bytes moved, two have performed; one is credited. -/
theorem test_hyp_copy_credit :
    let c := { Spec.copyDesc (groupK 0x9000) issue0 (.cp 12 20 .short) 12 0 0 with done := [0, 1, 2], writes := [900, 901], credit := some 44, credited := 1 }
    let g := groupOp .cp (.copy c)
    let s := stateK g
    s.awake 7 = some g ∧ g.op 0 = some { id := 0, cls := .cp, kind := .copy c } ∧ 1 ∈ c.done ∧ c.credit = some 44 ∧
    s.creditAsleep c = false ∧ c.credited < c.done.length - (c.writes.filter (fun w => !s.performed w (retireLevel c.scope))).length := by decide +kernel

theorem test_hyp_copy_retire :
    let g := groupQ 0x9000 (List.range 32) [901]
    (stateK g).awake 7 = some g ∧ (g.firstOp (fun o => match o.kind with
        | .copy c => !c.suspended && (c.ended || c.done.length == c.total) && c.writes.all (fun w => (stateK g).performed w (retireLevel c.scope)) &&
          !(stateK g).creditAsleep c
        | _ => false)).isSome = true := by decide +kernel

/-- The test group with a barrier word in K4 and a number in K5; object 44 of core 0 belongs to its piece. -/
def groupN (w n : Nat) : Group := ((group0).kPut 4 (BitVec.ofNat 64 w)).kPut 5 (BitVec.ofNat 64 n)
def object : Barrier := { owner := .piece 11, leaf := 0, scope := 3, far := none, exparr := 5, arr := 4, expb := 2 ^ 24 - 8, landb := 2 ^ 24 - 8, phase := 0xFFFFFF }
def stateN (g : Group) : State := { state0 g with barriers := [(44, object)] }

theorem test_hyp_barrier_changes :
    Spec.asked issue0 (groupN 44 7) (.expect 5 4 .short) = some (4, .expect 7 7) ∧
    Free (stateN (groupN 44 7)) issue0 (groupN 44 7) (.expect 5 4 .short) .user (fun _ _ _ _ => []) (some .st) ∧
    (groupN 44 7).activeLanes issue0 (.expect 5 4 .short) ≠ [] ∧
    (stateN (groupN 45 7)).barrierFor 7 (Spec.seenBy issue0 (groupN 45 7) (.expect 5 4 .short)) 45 = none ∧
    (stateN (groupN 44 7)).barrierFor 7 (Spec.seenBy issue0 (groupN 44 7) (.expect 5 4 .short)) 44 = some (44, none) ∧
    (trapMode group0 .user).isSome = true ∧
    Free (stateN (groupN 44 7)) issue0 (groupN 44 7) (.expect 5 4 (.long (some ⟨false, 5⟩))) .user (fun _ _ _ _ => []) (some .st) ∧
    (groupN 44 7).activeLanes issue0 (.expect 5 4 (.long (some ⟨false, 5⟩))) = [] :=
  ⟨by decide +kernel, free_of_check (by decide +kernel), by decide +kernel, by decide +kernel, by decide +kernel, by decide +kernel,
    free_of_check (by decide +kernel), by decide +kernel⟩

theorem test_hyp_over_ask : Spec.overAsk (stateN (groupN 44 8)) 44 none (.expect 8 8) ∧
    ¬ Spec.overAsk (stateN (groupN 44 7)) 44 none (.expect 7 7) := by
  refine ⟨.inr ⟨rfl, object, by decide +kernel, by decide +kernel⟩, ?_⟩
  rintro (h | ⟨-, b, h1, h2⟩)
  · revert h; decide +kernel
  · cases h1; revert h2; decide +kernel

theorem test_hyp_barrier_reads :
    Free (stateN (groupN (2 ^ 32 + 44) 7)) issue0 (groupN (2 ^ 32 + 44) 7) (.bwait 4 .short) .user (fun _ _ _ _ => []) none ∧
    (stateN group0).barrierFor 7 group0 (BitVec.ofNat 64 (2 ^ 32 + 44)) = some (44, none) ∧
    ((stateN group0).phaseOf 44 none).getLsbD 0 = (BitVec.ofNat 64 (2 ^ 32 + 44)).getLsbD 32 ∧
    ((stateN group0).phaseOf 44 none).getLsbD 0 ≠ (BitVec.ofNat 64 44).getLsbD 32 ∧
    (stateN group0).barrierFor 7 group0 45 = none ∧
    Free (stateN (groupN 44 7)) issue0 (groupN 44 7) (.bphase 4 4 .short) .user (fun _ _ _ _ => []) none :=
  ⟨free_of_check (by decide +kernel), by decide +kernel, by decide +kernel, by decide +kernel, by decide +kernel, free_of_check (by decide +kernel)⟩

/-- A launch whose level 1 is bound to cores with barriers. -/
def launchN : Launch :=
  { placedLaunch with record := (launchL.record.take 0x60) ++ leBytes 8 0x1FFF02 ++ List.replicate 408 0 }
def stateR (g : Group) : State := { stateN g with launches := [(3, launchN)] }
/-- A request of `n` objects that expect 5 arrivals, in K4. -/
def request (n : Nat) : DWord := BitVec.ofNat 64 (n * 2 ^ 32 + 5)

theorem test_hyp_balloc :
    Free (stateR (groupN (64 * 2 ^ 32 + 5) 0)) issue0 (groupN (64 * 2 ^ 32 + 5) 0) (.balloc 9 4 1 .short) .user (fun _ _ _ _ => []) (some .tx) ∧
    (groupN (64 * 2 ^ 32 + 5) 0).activeLanes issue0 (.balloc 9 4 1 .short) ≠ [] ∧
    (Spec.seenBy issue0 (groupN (64 * 2 ^ 32 + 5) 0) (.balloc 9 4 1 .short)).ownerAt 7 1 = some (.piece 11) ∧
    Spec.runOk launchN 1 (request 64) ∧ ¬ Spec.runOk launchN 1 (request 65) ∧
    (stateR group0).runOf (.piece 11) 9 = none ∧ (stateR group0).runPending (.piece 11) 9 = none ∧
    podBound (Spec.seenBy issue0 (groupN (64 * 2 ^ 32 + 5) 0) (.balloc 9 4 1 .short)) launchN 1 = false ∧ (stateR group0).launch 3 = some launchN ∧
    Free (stateR group0) issue0 group0 (.balloc 9 4 1 (.long (some ⟨false, 5⟩))) .user (fun _ _ _ _ => []) (some .tx) ∧
    group0.activeLanes issue0 (.balloc 9 4 1 (.long (some ⟨false, 5⟩))) = [] :=
  ⟨free_of_check (by decide +kernel), by decide +kernel, by decide +kernel, by unfold Spec.runOk; decide +kernel, by unfold Spec.runOk; decide +kernel,
    by decide +kernel, by decide +kernel, by decide +kernel, by decide +kernel, free_of_check (by decide +kernel), by decide +kernel⟩

theorem test_hyp_barrier_run_grant :
    let g := groupOp .tx (.balloc 9 (.piece 11) (request 64) 1)
    let q : StoreWait := { gid := 7, op := 0, lvl := false, unit := 0 }
    let s : State := { stateR g with waits := [q] }
    s.ballocHead false 0 = some (q, 9, .piece 11, request 64, 1) ∧ s.awake 7 = some g ∧ s.barAsleep (handleAt false 0 448) = false ∧
    (s.barriers.filter (fun p => handleLvl p.1 == 0 && handleUnit p.1 == 0)).length + 64 + s.gangObjects 0 ≤ 512 ∧ s.runOf (.piece 11) 9 = none ∧ q.pkg = none ∧
    podBound g launchN 1 = false ∧ 448 + (request 64).toNat / 2 ^ 32 % 256 ≤ 512 ∧
    (∀ n, n < (request 64).toNat / 2 ^ 32 % 256 → tblFind s.barriers (handleAt false 0 448 + n) = none) := by decide +kernel

/-- A change of the object on its way. -/
def change (pkg : Option Nat) (sent : Bool) : Change :=
  { gid := 7, op := some 0, handle := 44, pkg := pkg, ask := .arrive 1, cover := { writes := [901] }, scope := 3, sent := sent, leaf := 0 }

theorem test_hyp_barrier_events :
    let s (c : Change) : State := { stateN (groupOp .st (.barrier 950)) with changes := [(950, c)] }
    (s (change none false)).covered (change none false).cover 3 = true ∧ (s (change none false)).barAsleep 44 = false ∧
    tblFind (s (change none false)).barriers 44 = some object ∧ (Spec.changed object (.arrive 1)).isSome = true ∧
    (Spec.changed object (.expect 8 8)).isNone = true ∧ (change (some 5) false).pkg.isSome = true ∧
    tblFind (s (change (some 5) true)).changes 950 = some (change (some 5) true) ∧
    (∀ a ∈ (s (change none false)).applied, a.1 ≠ 8 ∨ a.2.1 ≠ 77) ∧
    (let p : PhaseOut := { leaf := 0, dst := 5, phase := { dpkg := 0, handle := 44, phase := 1 } }
     let s : State := { stateN group0 with phases := [(951, p)] }
     tblFind s.changes 951 = none ∧ tblFind s.phases 951 = some p) := by
  decide +kernel

/-- A group with a token over a write in flight, and with one that is met. -/
def groupF (ws : List Nat) : Group := { group0 with f := [(1, { scope := 6, met := false, cover := { writes := ws } })] }

theorem test_hyp_fences :
    Free (state0 (groupF [900])) issue0 (groupF [900]) (.fence 3 6 true) .user (fun _ _ _ _ => []) none ∧
    Free (state0 (groupF [900])) issue0 (groupF [900]) (.fwait 1 true) .user (fun _ _ _ _ => []) none ∧
    tblFind (groupF [900]).f 3 = none ∧ (state0 (groupF [900])).performed 900 (scopeLevel 6) = false ∧
    (state0 (groupF [901])).performed 901 (scopeLevel 6) = true :=
  ⟨free_of_check (by decide +kernel), free_of_check (by decide +kernel), by decide +kernel, by decide +kernel, by decide +kernel⟩

/-- A group with its monitor armed. -/
def groupM : Group := { group0 with mon := { state := .armed, level := 10, line := 0x8000, place := .sys 0x8000 } }

theorem test_hyp_mwait :
    Free (state0 groupM) issue0 groupM (.mwait 3 .short) .user (fun _ _ _ _ => []) none ∧ groupM.activeLanes issue0 (.mwait 3 .short) ≠ [] ∧
    group0.mon.state ≠ .armed ∧ groupM.mon.state = .armed ∧ groupM.kGet 5 = 0 ∧ groupM.kGet 3 ≠ 0 :=
  ⟨free_of_check (by decide +kernel), by decide +kernel, by decide +kernel, by decide +kernel, by decide +kernel, by decide +kernel⟩

theorem test_hyp_mwait_timeout :
    let g : Group := { groupM with lanes := [(0, { lane0 .user with park := .monitor, deadline := some 0 }), (2, lane0 .user)] }
    let s : State := { state0 g with time := 1 }
    s.awake 7 = some g ∧ g.resident = true ∧ g.freed = false ∧ (g.lane 0).park = .monitor ∧ (g.lane 0).deadline = some 0 ∧
    0 < s.time ∧ (trapMode g .user).isSome = true := by decide +kernel

theorem test_hyp_mon :
    Free state0 issue0 group0 (.mon 8 .short) .user (fun _ _ _ => Spec.okAddress) none ∧
    (group0.activeLanes issue0 (.mon 8 .short)).head? = some 0 ∧
    state0.addrBusy 7 (Spec.seenBy issue0 group0 (.mon 8 .short)) 0 0x8000 = false ∧ (group0.lane 0).failing = false ∧
    (match state0.checkAccess 7 (Spec.seenBy issue0 group0 (.mon 8 .short)) .user 0 0x8000 1 1 { r := true } with
      | (.ok l, _) => decide (l = .sys 0x8000)
      | _ => false) = true :=
  ⟨free_of_check (by decide +kernel), by decide +kernel, by decide +kernel, by decide +kernel⟩

/-! ### Hypotheses that are met: urns and the matrix engine -/

/-- Lanes 0 and 2 hold one address, and lane 3 another. -/
def groupU : Group := ((group0).dPut .user 16 2 0x8000).dPut .user 16 3 0x8010

theorem test_hyp_urn_requests :
    Spec.urnForm (.ugetI32 4 8 (.v 5) .add 6 none) ((state0 groupU).tagOf groupU issue0 (.ugetI32 4 8 (.v 5) .add 6 none) .b) =
      some ⟨.int .add true, 4, 6, true, .i32⟩ ∧
    Free (state0 groupU) issue0 groupU (.ugetI32 4 8 (.v 5) .add 6 none) .user (fun _ _ _ sl => match sl with
      | .a => [.n64, .i64, .raw]
      | .b => [.i32]
      | .c => [.i32]
      | .d => []) (some .ur) ∧
    groupU.activeLanes issue0 (.ugetI32 4 8 (.v 5) .add 6 none) ≠ [] ∧
    Free (state0 groupU) issue0 groupU (.ugetI32 4 8 (.v 5) .add 6 (some ⟨false, 5⟩)) .user (fun _ _ _ sl => match sl with
      | .a => [.n64, .i64, .raw]
      | .b => [.i32]
      | .c => [.i32]
      | .d => []) (some .ur) ∧
    groupU.activeLanes issue0 (.ugetI32 4 8 (.v 5) .add 6 (some ⟨false, 5⟩)) = [] :=
  ⟨rfl, free_of_check (by decide), by decide, free_of_check (by decide), by decide⟩

theorem test_hyp_urn_room (cl : Nat) : (state0 groupU).urnPending cl + 3 ≤ 256 := by
  rw [show (state0 groupU).urnPending cl = 0 from rfl]; decide

theorem test_hyp_urn_checks :
    let i : Instr := .ugetI32 4 8 (.v 5) .add 6 none
    let r := (state0 groupU).accessLanes ((state0 groupU).plainCtx issue0 groupU i) (Spec.seenBy issue0 groupU i) 4 4 { r := true, w := true }
      ([0, 2, 3].map (fun j => (j, groupU.dGet .user 16 j)))
    (∀ j ∈ [0, 2, 3], (state0 groupU).addrBusy 7 (Spec.seenBy issue0 groupU i) j (groupU.dGet .user 16 j) = false) ∧
    r.2.1 = [] ∧ r.2.2.map (·.2.1) = [.sys 0x8000, .sys 0x8000, .sys 0x8010] ∧ (∀ p ∈ r.2.2, (match p.2.1 with
      | .loc _ _ _ => false
      | _ => true) = true) ∧
    (r.1.group 7).isSome = true ∧
    (state0 groupU).det groupU = false ∧
    ({ state0 groupU with launches := [(3, { placedLaunch with record := (placedRecord.take 4) ++ [0xFF, 0xFF] ++ placedRecord.drop 6 })] } : State).det groupU = true ∧
    (trapMode groupU .user).isSome = true := by decide +kernel

/-- A write of the test group, or a request, at a level. -/
def writeAt (level : Nat) (urn : Option UrnReq) : Write :=
  { id := 901, gid := 7, lane := 0, launch := 3, core := some 0, level := level, bytes := [(.sys 0x8000, 9), (.sys 0x8001, 0), (.sys 0x8002, 0), (.sys 0x8003, 0)], urn := urn, op := 1 }
def urnAt (level : Nat) : UrnReq := { act := .int .add true, bytes := 4, level := level, parts := [(0, 5, 0), (2, 7, 0)] }
def stateD (w : Write) (others : List Write := []) : State := { state0 group0 with issue := none, flight := others ++ [w] }

theorem test_hyp_buffer_drain : ∀ level ∈ [0, 4, 5], ∀ urn ∈ [none, some (urnAt 1), some (urnAt 6)],
    let w := writeAt level urn
    (stateD w).flight.find? (fun x => x.id = w.id) = some w ∧ ((stateD w).flight.map (·.id)).Nodup ∧ mayDrain w (stateD w).flight = true ∧
    (stateD w).stalled w = false ∧ (stateD w).awaited w = false ∧ (stateD w).budgetStalls w = false ∧ cleanCheck (stateD w) w.place = true ∧
    (∀ p ∈ w.bytes, (match p.1 with
      | .sys _ => true
      | _ => false) = true) ∧ w.place = .sys 0x8000 ∧ (w.bytes.map (·.1)).Nodup ∧
    (stateD w).group w.gid = some group0 := by decide +kernel

theorem test_hyp_buffer_drain_waits :
    let w := { writeAt 0 none with op := 0 }
    mayDrain w (stateD w [{ writeAt 0 none with id := 900 }]).flight = false ∧
    ((stateD w [{ writeAt 0 none with id := 900 }]).flight.map (·.id)).Nodup := by decide +kernel

/-- A write that stays: the leaf has used up its memory budget. -/
theorem test_hyp_buffer_drain_stalls :
    let w := writeAt 5 none
    let s : State := { stateD w with parts := [(0, { ((stateD w).part 0) with budgets := [0xFFFFFFFF, 0] })] }
    mayDrain w s.flight = true ∧ s.stalled w = false ∧ s.awaited w = false ∧ s.exhausted 0 1 = true ∧ w.urn = none := by decide +kernel

theorem test_hyp_urn_reply :
    let l : UrnLane := { lane := 2, mode := .user, wid := 901, reply := some 7, landed := false }
    let k : OpKind := .urn (some 16) true 6 [l]
    let g := groupOp .ur k
    (state0 g).group 7 = some g ∧ (state0 g).asleep 0 = false ∧ g.op 0 = some { id := 0, cls := .ur, kind := k } ∧
    [l].find? (fun l => l.lane = 2 && !l.landed) = some l ∧ l.reply = some 7 := by decide +kernel

/-- A launch whose slot 1 adds I32. -/
def launchO : Launch :=
  { placedLaunch with record := (placedRecord.set 0x190 1).set 0x191 1 }

theorem test_hyp_ored :
    let s : State := { state0 with launches := [(3, launchO)] }
    s.launch 3 = some launchO ∧ launchO.slotOp 1 ≠ 0 ∧ group0.task = false ∧ Tag.ofCode (launchO.slotFmt 1) = .i32 ∧
    Free s issue0 group0 (.ored 1 (.v 5) .short) .user (fun _ _ _ sl => if sl = .b then [Tag.ofCode (launchO.slotFmt 1)] else []) (some .ur) ∧
    (∀ j ∈ [0, 2, 3], (group0.lane j).contributed.getLsbD 1 = false) ∧ s.exhausted 0 4 = false :=
  ⟨by decide +kernel, by decide +kernel, by decide, by decide +kernel, free_of_check (by decide +kernel), by decide, by decide⟩

/-- The test group with eight words from K16 on. -/
def groupX (k : List DWord) : Group := k.zipIdx.foldl (fun g p => g.kPut (16 + p.2) p.1) group0
/-- A big tile, a claimed set 2, and weight region 4 of 512 units. -/
def stateX (g : Group) (claim : Option Nat := some 7) : State :=
  { state0 g with
    tiles := [(5, { tileK with size := 0x20000 })]
    launches := [(3, launchL)]
    cores := [(0, { sets := [(2, { claim := claim })], regions := [(4, { owner := .piece 11, leaf := 0, reg := 9, base := 256, len := 512 })] })] }
/-- Words of `mma`: rows of 96 bytes from the tile's start, exponents from 0x6000, panel at unit 7 of region 4, one K-step into set 2. -/
def wordsM : List DWord := [0xD000000005000000, 0xD000000005006000, 0x800000060, 0x780000004, 0x80000, 0, 0, 0]

theorem test_hyp_matrix_issue :
    Free (stateX (groupX wordsM)) issue0 (groupX wordsM) (.mmaTb8 16 none) .user (fun _ _ _ _ => []) (some .tx) ∧
    (groupX wordsM).activeLanes issue0 (.mmaTb8 16 none) ≠ [] ∧ (trapMode group0 .user).isSome = true ∧
    Free (stateX (groupX wordsM)) issue0 (groupX wordsM) (.mzero 1 none) .user (fun _ _ _ _ => []) (some .tx) ∧
    (stateX (groupX wordsM)).holder 0 1 = none ∧ Spec.claims (stateX (groupX wordsM)) issue0 (groupX wordsM) 2 ∧
    ¬ Spec.claims (stateX (groupX wordsM) none) issue0 (groupX wordsM) 2 :=
  ⟨free_of_check (by decide +kernel), by decide, by decide, free_of_check (by decide +kernel), by decide +kernel,
    by unfold Spec.claims; decide +kernel, by unfold Spec.claims; decide +kernel⟩

theorem test_hyp_matrix_issue_of_no_lane :
    Free (stateX (groupX wordsM)) issue0 (groupX wordsM) (.mmaTb8 16 (some ⟨false, 5⟩)) .user (fun _ _ _ _ => []) (some .tx) ∧
    (groupX wordsM).activeLanes issue0 (.mmaTb8 16 (some ⟨false, 5⟩)) = [] ∧
    (Spec.engineAsk (stateX (groupX wordsM)) issue0 (groupX wordsM) (.mmaTb8 16 (some ⟨false, 5⟩))).isSome = true :=
  ⟨free_of_check (by decide +kernel), by decide, rfl⟩

theorem test_hyp_mma_checks : ∃ e, Spec.engineAsk (stateX (groupX wordsM)) issue0 (groupX wordsM) (.mmaTb8 16 none) = some e ∧ e.fields ∧
    e.set = some 2 ∧ e.rest := by
  refine ⟨_, rfl, by decide +kernel, by decide +kernel, ⟨_, ⟨by decide +kernel, by decide +kernel, by decide +kernel,
    show tblFind ((stateX (groupX wordsM)).core 0).regions 4 = some { owner := .piece 11, leaf := 0, reg := 9, base := 256, len := 512 } by decide +kernel,
    by decide +kernel⟩, by decide +kernel⟩, by decide +kernel, by decide +kernel, ⟨.inl (by decide +kernel), { tileK with size := 0x20000 }, by decide +kernel, rfl,
    by decide +kernel⟩, fun _ => ⟨by decide +kernel, by decide +kernel, .inl (by decide +kernel), { tileK with size := 0x20000 }, by decide +kernel, rfl,
    by decide +kernel⟩⟩

theorem test_hyp_mma_fields : ∃ e, Spec.engineAsk (stateX (groupX (wordsM.set 6 1))) issue0 (groupX (wordsM.set 6 1)) (.mmaTb8 16 none) = some e ∧
    ¬ e.fields := ⟨_, rfl, by decide +kernel⟩

theorem test_hyp_wbal :
    Free (stateX (groupX [16384])) issue0 (groupX [16384]) (.wbal 20 16 1 none) .user (fun _ _ _ _ => []) (some .tx) ∧
    (stateX (groupX [16384])).launch 3 = some launchL ∧
    (Spec.seenBy issue0 (groupX [16384]) (.wbal 20 16 1 none)).ownerAt 7 1 = some (.piece 11) ∧
    launchL.nlevel = 2 ∧ launchL.tile 1 = true ∧ launchL.domain 1 ≤ 1 ∧
    (∀ p ∈ ((stateX group0).core 0).regions, p.2.owner = .piece 11 → p.2.reg ≠ 20) ∧ (stateX group0).regionPending (.piece 11) 20 = none :=
  ⟨free_of_check (by decide +kernel), by decide +kernel, by decide +kernel, by decide +kernel, by decide +kernel, by decide +kernel,
    by decide +kernel, by decide +kernel⟩

theorem test_hyp_wbld : ∀ n ∈ [1, 512],
    let g := groupX [0x8000, 0x80000004, BitVec.ofNat 64 n]
    Spec.wellFormed 0 (g.kGet 16) = true ∧ n < 2 ^ 15 ∧ n ≤ 16384 ∧ (g.kGet 16).toNat % 16 = 0 ∧
    tblFind ((stateX g).core 0).regions ((g.kGet 17).toNat % 2 ^ 32 % 16) = some { owner := .piece 11, leaf := 0, reg := 9, base := 256, len := 512 } ∧
    (g.kGet 17).toNat / 2 ^ 32 + n ≤ 512 ∧
    freeCheck (stateX g) issue0 g (.wbld 16 none) .user (fun _ _ _ _ => []) (some .tx) = true := by decide +kernel

/-! ### Hypotheses that are met: the matrix engine at work -/

/-- An operation of the engine as the group's current one, on a set 2 and region 4 of the length given. -/
def matM (act : MatAct) (k : Nat := 0) (words : List DWord := [0xD000000005000000, 0x40 * 2 ^ 32 + 0x30, 0xD000000005000400]) : MatOp :=
  { act := act, set := 2, kd := 9, lane := 0, words := words, kstep := k }
def stateM (m : MatOp) (z : AccSet) (len : Nat := 512) : State :=
  { stateX (groupOp .tx (.matrix m)) with
    cores := [(0, { sets := [(2, z)], regions := [(4, { owner := .piece 11, leaf := 0, reg := 9, base := 256, len := len })] })] }
def setM : AccSet := { claim := some 7, x := 3, xset := true, ksteps := 3, acc := [(0, 5), (70, BitVec.ofInt 128 (-9))], spec := [(5, .pinf)] }

/-- The operation is the current one of core 0. -/
def current (s : State) (m : MatOp) : Bool :=
  match s.currentMatrix 0 7 with
  | some (g, o) => decide (some g = s.group 7) && decide (o = { id := 0, cls := .tx, kind := .matrix m }) && decide (g.op 0 = some o) &&
    g.oldest o
  | none => false

theorem test_hyp_mma_ksteps :
    let m := matM (.mma 0) 0 wordsM
    let m1 := { m with prepassed := true, unit := 263, kstep := 0 }
    current (stateM m setM) m = true ∧ current (stateM m1 setM) m1 = true ∧ setM.ksteps + 1 ≤ 4096 ∧
    4096 < ({ setM with ksteps := 4096 } : AccSet).ksteps + 1 ∧
    tblFind ((stateM m setM).core 0).regions ((wordsM.getD 3 0).toNat % 16) = some { owner := .piece 11, leaf := 0, reg := 9, base := 256, len := 512 } ∧
    Spec.wellFormed 2 (wordsM.getD 0 0) = true ∧ Spec.wellFormed 2 (wordsM.getD 1 0) = true ∧
    Spec.rowStart (mfmt 0) [] 263 64 ≤ 256 + 512 ∧ 256 + 64 < Spec.rowStart (mfmt 0) [] 263 64 ∧
    (wordsM.getD 4 0).toNat % 8192 + 1 = 1 ∧
    ((List.range 64).flatMap (fun i => Spec.aScales (stateM m setM) (mfmt 0) m i 0)).length = 64 * 6 ∧
    (Spec.bScales (mfmt 0) [] 263).length = 6 := by decide +kernel

/-- Chunks that an `mma` may read ahead; and one in which the write of one lane of a store has landed while another's is on its way. -/
theorem test_hyp_mma_chunks :
    let m := matM (.mma 0) 0 wordsM
    let w : Write := { id := 901, gid := 7, lane := 2, launch := 3, core := some 0, level := 0, bytes := [(.tile 5 4, 1)] }
    let s : State := { stateM m setM with flight := [w], landed := [([.tile 5 0], [900, 901])] }
    current s m = true ∧ tblFind m.chunks 0 = none ∧ s.torn m 0 0 = true ∧ Spec.readable s m 1 1 0 ∧
    (∀ i, i < 64 → tblFind m.chunks (i + 64 * 0) = none → (stateM m setM).torn m i 0 = false) := by
  unfold Spec.readable; decide +kernel

/-- An operation of the engine that is not the oldest of its class. -/
theorem test_hyp_engine_waits : ∀ m ∈ [matM .mrel, matM .mstat],
    let g := Spec.withOp (groupOp .tx (.talloc 9 (.piece 11) 0x5000040040000000)) .tx (.matrix m)
    let s : State := { stateM m setM with groups := [(7, g)] }
    (match s.currentMatrix 0 7 with
      | some (g', o) => decide (g' = g) && decide (o = { id := 1, cls := .tx, kind := .matrix m }) && !g.oldest o
      | none => false) = true := by decide +kernel

theorem test_hyp_engine_ops : ∀ m ∈ [matM .mzero, matM .mrel, matM .mxset, matM .mstat, matM .mbias, matM (.mepi .f32) 5, matM (.mepi .f32) 63,
    matM (.mepi .tb8) 5, matM (.mepi .tb8) 63, matM .msave, matM .msave 520, matM .mload],
    current (stateM m setM) m = true ∧ setM.claim = some 7 ∧ setM.ksteps < 4096 ∧
    (Spec.wellFormed 2 (m.words.getD 0 0) = true ∧ (tblFind (stateM m setM).tiles (Spec.handleOf (m.words.getD 0 0))).isSome = true) ∧
    (Spec.wellFormed 2 (m.words.getD 2 0) = true ∧ (tblFind (stateM m setM).tiles (Spec.handleOf (m.words.getD 2 0))).isSome = true) := by
  decide +kernel

theorem test_hyp_engine_ops_wbld :
    let c : CopyOp := { copyK with done := List.range 32 }
    let g := groupOp .tx (.wbld 4 0 c)
    c.over = true ∧ (stateX g).currentMatrix 0 7 = some (g, { id := 0, cls := .tx, kind := .wbld 4 0 c }) := by decide +kernel

/-- A request for a key that has a region. -/
theorem test_hyp_region_joined :
    let m := { matM (.wbal (.piece 11)) 0 [512] with kd := 9 }
    let g := groupOp .tx (.matrix m)
    let w : StoreWait := { lvl := false, unit := 0, gid := 7, op := 0 }
    let s : State := { stateX g with waits := [w] }
    s.wbalHead 0 = some (w, { id := 0, cls := .tx, kind := .matrix m }, m, .piece 11) ∧ s.group 7 = some g ∧
    (s.core 0).regionOf (.piece 11) 9 = some (4, { owner := .piece 11, leaf := 0, reg := 9, base := 256, len := 512 }) ∧
    (512 : DWord).toNat % 65536 = 512 := by decide +kernel

theorem test_hyp_region_grant :
    let m := { matM (.wbal (.piece 11)) 0 [512] with kd := 10 }
    let g := groupOp .tx (.matrix m)
    let w : StoreWait := { lvl := false, unit := 0, gid := 7, op := 0 }
    let s : State := { stateX g with waits := [w] }
    s.wbalHead 0 = some (w, { id := 0, cls := .tx, kind := .matrix m }, m, .piece 11) ∧ s.group 7 = some g ∧
    (∀ p ∈ (s.core 0).regions, ¬ (p.2.owner = .piece 11 ∧ p.2.reg = m.kd)) ∧ m.kd < 64 ∧
    tblFind (s.core 0).regions 3 = none ∧ (∀ p ∈ (s.core 0).regions, p.2.base + p.2.len ≤ 768 ∨ 768 + 512 ≤ p.2.base) := by decide +kernel

/-! ### Hypotheses that are met: the assignment engine -/

/-- Bytes of a tile, from offsets, widths and values. -/
def bytesOf (l : List (Nat × Nat × Nat)) : Tbl Byte :=
  l.foldl (fun t p => (List.range p.2.1).foldl (fun t k => tblPut t 0 (p.1 + k) (BitVec.ofNat 8 (p.2.2 / 256 ^ k))) t) []

/-- A descriptor of two rows and two columns: chain at 0, capacities at 64, prices or lists at 128, results at 256. -/
def wordsA (opc limit inc : Nat) : List DWord :=
  [if opc ≤ 0x62 then 0xD000000005000000 else 0, if opc ≤ 0x62 then 0x0008000000020002 else 0x20002, 0xD000000005000040,
    if opc = 0x65 then 0 else 0xD000000005000080, 0xD000000005000100, BitVec.ofNat 64 (limit * 2 ^ 32 + inc)]
/-- A tile with that table: scores 1.0 and 2.0 for row 0, 3.0 and 1.0 for row 1. -/
def tileA (cap price col : Nat) (chain : Nat := 0xD000000005000200) : Tile :=
  { tileK with
    size := 0x20000
    bytes := bytesOf [(0, 8, chain), (64, 4, cap), (68, 4, 1), (128, 4, price), (132, 4, 0), (256, 4, col), (260, 4, 9), (264, 4, 0xFFFFFFFF), (268, 4, 0),
      (512, 4, 0x3F800000), (516, 4, 0x40000000), (520, 4, 0x40400000), (524, 4, 0x3F800000)] }
def stateA (k : OpKind) (t : Tile) : State :=
  { state0 (groupOp .tx k) with tiles := [(5, t)], assignQ := [(0, { ops := [(50, 7, 0)], last := 3 })] }

theorem test_hyp_assignment_issue : ∀ p ∈ ([(.asnRun 16 none, wordsA 0x60 5 1), (.asnChk 16 none, wordsA 0x65 0 0), (.asnStat 9 none, [])] : List (Instr × List DWord)),
    let s := stateX (groupX p.2)
    freeCheck s issue0 (groupX p.2) p.1 .user (fun _ _ _ _ => []) (some .tx) = true ∧
    (groupX p.2).activeLanes issue0 p.1 ≠ [] ∧
    freeCheck s issue0 (groupX p.2) (.asnInv 16 (some ⟨false, 5⟩)) .user (fun _ _ _ _ => []) (some .tx) = true ∧
    (groupX p.2).activeLanes issue0 (.asnInv 16 (some ⟨false, 5⟩)) = [] ∧ (trapMode (groupX p.2) .user).isSome = true := by decide +kernel

theorem test_hyp_assignment_checks :
    let s := stateX (groupX (wordsA 0x60 5 1))
    let g := Spec.seenBy issue0 (groupX (wordsA 0x60 5 1)) (.asnRun 16 none)
    Spec.asnFields 0x60 (wordsA 0x60 5 1) ∧ Spec.asnFields 0x63 (wordsA 0x63 5 0) ∧ Spec.asnFields 0x65 (wordsA 0x65 0 0) ∧
    ¬ Spec.asnFields 0x60 (wordsA 0x60 0 1) ∧ Spec.asnRest s 7 g 0x60 (wordsA 0x60 5 1) := by
  have ok : ∀ a len, (Spec.wellFormed 2 a && decide (a.toNat / 2 ^ 24 % 2 ^ 32 = 5) && decide (a.toNat % 2 ^ 24 + len ≤ 0x20000) && !Spec.wellFormed 3 a) = true →
      Spec.rowsOk (stateX (groupX (wordsA 0x60 5 1))) 7 (Spec.seenBy issue0 (groupX (wordsA 0x60 5 1)) (.asnRun 16 none)) a 0 1 len := by
    intro a len h
    simp only [Bool.and_eq_true, decide_eq_true_eq, Bool.not_eq_true'] at h
    refine ⟨.inl h.1.1.1, { tileK with size := 0x20000 }, ?_, rfl, ?_⟩
    · rw [h.2, h.1.1.2]; decide +kernel
    · intro n hn; show _ ≤ 0x20000; omega
  exact ⟨by unfold Spec.asnFields; decide +kernel, by unfold Spec.asnFields; decide +kernel, by unfold Spec.asnFields; decide +kernel,
    by unfold Spec.asnFields; decide +kernel, fun _ => ⟨⟨by decide +kernel, ok _ _ (by decide +kernel)⟩, by decide +kernel⟩,
    ⟨by decide +kernel, ok _ _ (by decide +kernel)⟩, fun _ => ⟨by decide +kernel, ok _ _ (by decide +kernel)⟩,
    fun h => absurd h (by decide), by decide +kernel, ok _ _ (by decide +kernel)⟩

/-- The one operation of the test group. -/
def op0 (k : OpKind) (out : Option AsnOut := none) : Op := { id := 0, cls := .tx, kind := k, out := out }

/-- It is an operation's turn at the engine of cluster 0. -/
def turnOf (s : State) (k : OpKind) : Bool :=
  match s.assignTurn 0 with
  | some (n, gid, g, o) => decide (n = 50) && decide (gid = 7) && decide (some g = s.group 7) && decide (o = { id := 0, cls := .tx, kind := k }) &&
    decide (g.op 0 = some o) && g.oldest o
  | none => false

theorem test_hyp_auction_start : ∀ opc ∈ [0x60, 0x61],
    let w := wordsA opc 5 1
    let k : OpKind := .assign opc w 0 none
    let s (t : Tile) : State := stateA k t
    turnOf (s (tileA 1 0 0)) k = true ∧ (∀ n ∈ [2, 3, 4], Spec.wellFormed 2 (w.getD n 0) = true ∧ (tblFind (s (tileA 1 0 0)).tiles (Spec.handleOf (w.getD n 0))).isSome = true) ∧
    Spec.wellFormed 2 (w.getD 0 0) = true ∧ Spec.offsetOf (w.getD 3 0) + 4 * Spec.ncol w ≤ Spec.offsetOf (w.getD 4 0) ∧
    Spec.capAt (s (tileA 1025 0 0)) (op0 k) w 0 = 1025 ∧ Spec.priceAt (s (tileA 1 Spec.negInf 0)) (op0 k) w 0 = Spec.negInf ∧
    (List.range 2).map (Spec.capAt (s (tileA 0 0 0)) (op0 k) w) = [0, 1] ∧ (List.range 2).map (Spec.capAt (s (tileA 1 0 0)) (op0 k) w) = [1, 1] ∧
    (List.range 2).map (Spec.priceAt (s (tileA 1 0 0)) (op0 k) w) = [0, 0] ∧ (List.range 2).map (Spec.columnAt (s (tileA 1 0 0)) (op0 k) w) = [0, -1] ∧
    (List.range 2).map (Spec.columnAt (s (tileA 1 0 2)) (op0 k) w) = [2, -1] := by decide +kernel

theorem test_hyp_auction_chain :
    let k : OpKind := .assign 0x60 (wordsA 0x60 5 1) 0 none
    Spec.chainOk (stateA k (tileA 1 0 0)) 7 ((groupOp .tx k).asLane 0) (wordsA 0x60 5 1) 0 ∧
    ¬ Spec.chainOk (stateA k (tileA 1 0 0 0xD000000005000201)) 7 ((groupOp .tx k).asLane 0) (wordsA 0x60 5 1) 0 :=
  ⟨⟨by decide +kernel, .inl (by decide +kernel), tileA 1 0 0, by decide +kernel, by decide +kernel⟩,
    fun h => absurd h.1 (by decide +kernel)⟩

/-- An auction of that table under way. -/
def auctionA (rounds : Nat) (held : List (Option (Nat × Word))) : Auction :=
  { rounds := rounds, chain := [0xD000000005000200], caps := [1, 1], prices := [0, 0], held := held, nansc := false, clampsc := false }

theorem test_hyp_auction_round :
    let w := wordsA 0x60 5 1
    let a := auctionA 0 [none, none]
    let s := stateA (.assign 0x60 w 0 (some a)) (tileA 1 0 0)
    let v (j : Nat) : Nat := Spec.value32 (a.caps.getD j 0) (a.prices.getD j 0).toNat (Spec.scoreAt s (op0 (.assign 0x60 w 0 (some a))) w (fun c => a.chain.getD c 0) 0 j)
    turnOf s (.assign 0x60 w 0 (some a)) = true ∧ a.held.length = Spec.nrow w ∧ a.prices.length = Spec.ncol w ∧
    v 1 = 0x40000000 ∧ Spec.bestOf (Spec.ncol w) (fun _ => True) v 1 ∧ v 1 ≠ Spec.negInf ∧ Spec.second (Spec.ncol w) v 1 0x3F800000 ∧
    a.rounds ≠ Spec.limitOf w ∧ (auctionA 5 [none, none]).rounds = Spec.limitOf w ∧
    (∀ h ∈ (auctionA 1 [some (0, 7), some (1, 8)]).held, h ≠ none) ∧ turnOf (stateA (.assign 0x60 w 0 (some (auctionA 1 [some (0, 7), some (1, 8)]))) (tileA 1 0 0))
      (.assign 0x60 w 0 (some (auctionA 1 [some (0, 7), some (1, 8)]))) = true ∧
    turnOf (stateA (.assign 0x60 w 0 (some (auctionA 5 [none, none]))) (tileA 1 0 0)) (.assign 0x60 w 0 (some (auctionA 5 [none, none]))) = true :=
  ⟨by decide +kernel, by decide +kernel, by decide +kernel, by decide +kernel, ⟨by decide +kernel, trivial, by decide +kernel⟩, by decide +kernel,
    ⟨0, ⟨by decide +kernel, by decide, by decide +kernel⟩, by decide +kernel, by decide⟩, by decide +kernel, by decide +kernel, by decide +kernel,
    by decide +kernel, by decide +kernel⟩

/-- An operation that has found its result has it still to write. -/
theorem test_hyp_assignment_writes : ∀ opc ∈ [0x60, 0x62],
    let w := wordsA opc (if opc = 0x60 then 5 else 0) (if opc = 0x60 then 1 else 0)
    let out : AsnOut := { words := [(w.getD 4 0, 0, 1), (w.getD 4 0, 4, 9)], status := 0x201 }
    let o := op0 (.assign opc w 0 none) (some out)
    let g : Group := { group0 with ops := [o], nextOp := 1 }
    let s : State := { stateA o.kind (tileA 1 0 0) with groups := [(7, g)] }
    s.assignTurn 0 = some (50, 7, g, o) ∧ (∀ x ∈ out.words, Spec.wellFormed 2 x.1 = true ∧ (tblFind s.tiles (Spec.handleOf x.1)).isSome = true ∧
      x.2.2 < 2 ^ 32) ∧ (out.words.map (fun x => x.2.1)).Nodup := by decide +kernel

/-- `asn.stat` while an older operation of its class is outstanding. -/
theorem test_hyp_assignment_status_waits :
    let g := Spec.withOp (groupOp .tx (.talloc 9 (.piece 11) 0x5000040040000000)) .tx (.asnStat 9)
    let o : Op := { id := 1, cls := .tx, kind := .asnStat 9 }
    let s : State := { stateA (.asnStat 9) (tileA 1 0 0) with groups := [(7, g)], assignQ := [(0, { ops := [(50, 7, 1)], last := 3 })] }
    s.assignTurn 0 = some (50, 7, g, o) ∧ g.oldest o = false := by decide +kernel

theorem test_hyp_assignment_ops :
    turnOf (stateA (.asnStat 9) (tileA 1 0 0)) (.asnStat 9) = true ∧
    turnOf (stateA (.assign 0x62 (wordsA 0x62 0 0) 0 none) (tileA 1 0 0)) (.assign 0x62 (wordsA 0x62 0 0) 0 none) = true ∧
    (∀ opc ∈ [0x63, 0x65],
      let w := wordsA opc (if opc = 0x63 then 2 else 0) 0
      let k : OpKind := .assign opc w 0 none
      turnOf (stateA k (tileA 1 0 0)) k = true ∧
      (∀ n ∈ [2, 4, if opc = 0x63 then 3 else 2], Spec.wellFormed 2 (w.getD n 0) = true ∧ (tblFind (stateA k (tileA 1 0 0)).tiles (Spec.handleOf (w.getD n 0))).isSome = true) ∧
      Spec.capAt (stateA k (tileA 1025 0 0)) (op0 k) w 0 = 1025 ∧ Spec.capAt (stateA k (tileA 0 0 0)) (op0 k) w 0 = 0 ∧
      (List.range 2).map (Spec.capAt (stateA k (tileA 1 0 0)) (op0 k) w) = [1, 1] ∧ (List.range 2).map (Spec.columnAt (stateA k (tileA 1 0 0)) (op0 k) w) = [0, -1]) := by
  decide +kernel

/-! ### Hypotheses that are met: the fabric and the Blend engine -/

/-- Words of the fabric instructions that pass their checks, and words that do not. -/
def fabricGood : List (Instr × Cls × List DWord) :=
  [(.frdK 9 16 none, .ld, [0x10603000000108]), (.fatom 9 16 true none, .ur, [0x10603000000108, 99]),
    (.fsend 16 none, .st, [0x9000, 0x3060004D000000, 0xF012345678]), (.fsend 16 none, .st, [0xD000000005000040, 0x30600400000000, 0x1012345678]),
    (.fevent 16 none, .st, [0x3060004D000000, 0xAB]), (.fstat 9 none, .tx, []),
    (.bopen 9 16 none, .tx, [0x9000, 600 * 2 ^ 32 + 5 * 2 ^ 28 + 2 * 2 ^ 17 + 2, 0xA010, 1000]), (.bpush 16 none, .tx, [7, 0x9000, 3 * 2 ^ 24 + 1]),
    (.bclose 16 none, .tx, [7, 0x9000, 1]), (.bstat 9 16 none, .tx, [7]), (.bfree 16 none, .tx, [7])]
def fabricBad : List (Instr × Cls × List DWord) :=
  [(.frdK 9 16 none, .ld, [0x400603000000108]), (.fatom 9 16 true none, .ur, [0x400603000000108, 99]),
    (.fsend 16 none, .st, [0x9000, 0x30600401000000, 0xF012345678]), (.fevent 16 none, .st, [0x3060004D000000, 0x1AB]),
    (.bopen 9 16 none, .tx, [0x9000, 2 ^ 32 + 5 * 2 ^ 28 + 2 * 2 ^ 17 + 2, 0xA010, 1000]), (.bpush 16 none, .tx, [7, 0x9000, 1]),
    (.bclose 16 none, .tx, [7, 0x9000, 0x1001])]

theorem test_hyp_fabric_issue : ∀ p ∈ fabricGood ++ fabricBad,
    freeCheck (stateX (groupX p.2.2)) issue0 (groupX p.2.2) p.1 .user (fun _ _ _ _ => []) (some p.2.1) = true ∧
    (groupX p.2.2).activeLanes issue0 p.1 ≠ [] ∧ (trapMode (groupX p.2.2) .user).isSome = true := by decide +kernel

theorem test_hyp_fabric_fields :
    (∀ n : Fin 11, ∀ p, fabricGood[n.val]? = some p → ∃ f, Spec.fabricAsk (stateX (groupX p.2.2)) issue0 (groupX p.2.2) p.1 = some f ∧ f.cls = p.2.1 ∧ f.fields ∧ f.rest) ∧
    ∀ n : Fin 7, ∀ p, fabricBad[n.val]? = some p → ∃ f, Spec.fabricAsk (stateX (groupX p.2.2)) issue0 (groupX p.2.2) p.1 = some f ∧ f.cls = p.2.1 ∧ ¬ f.fields := by
  constructor
  · intro n p h
    fin_cases n <;> cases h <;> refine ⟨_, rfl, rfl, ?_, ?_⟩ <;> dsimp only <;> (try unfold Spec.ifaceOk) <;> (try unfold Spec.globalOk) <;>
      first
      | decide +kernel
      | exact ⟨by decide +kernel, .inl ⟨by decide +kernel, by decide +kernel⟩⟩
      | exact ⟨by decide +kernel, .inr ⟨⟨.inl (by decide +kernel), { tileK with size := 0x20000 }, by decide +kernel, rfl, by decide +kernel⟩,
          by decide +kernel⟩⟩
  · intro n p h
    fin_cases n <;> cases h <;> refine ⟨_, rfl, rfl, ?_⟩ <;> dsimp only <;> (try unfold Spec.ifaceOk) <;> decide +kernel

/-- Words of a remote copy of tile 5 or of memory in K16 to K18; its barrier is none, or object 44. -/
def wordsR (a n : Nat) : List DWord := [BitVec.ofNat 64 a, 0x10602000000100, BitVec.ofNat 64 n]
def stateF (a n : Nat) (b : DWord := 0) : State :=
  { stateX ((groupX (wordsR a n)).kPut 20 b) with barriers := [(44, object)], tiles := [(5, tileK)] }

theorem test_hyp_remote_copy : ∀ i ∈ ([.fwr 16 20 none, .frd 16 20 none] : List Instr), ∀ a ∈ [0x9000, 0xD000000005000040], ∀ n ∈ [64, 66],
    ∀ b ∈ [0, 0x10000002C],
    let g := (groupX (wordsR a n)).kPut 20 (BitVec.ofNat 64 b)
    freeCheck (stateF a n (BitVec.ofNat 64 b)) issue0 g i .user (fun _ _ _ _ => []) (some .cp) = true ∧ g.activeLanes issue0 i ≠ [] ∧
    (trapMode g .user).isSome = true ∧ Spec.offOf (g.kGet 17) % 4 = 0 ∧
    (a = 0x9000 → Spec.wellFormed 0 (g.kGet 16) = true) ∧
    (a ≠ 0x9000 → Spec.wellFormed 2 (g.kGet 16) = true ∧ (stateF a n (BitVec.ofNat 64 b)).tileFor 7 (Spec.seenBy issue0 g i) false 5 = some tileK ∧
      (Spec.leaving tileK.state).isSome = true ∧ (Spec.entering tileK.state).isSome = true) ∧
    (stateF a n (BitVec.ofNat 64 b)).ownBarrier 7 (Spec.seenBy issue0 g i) 44 = true := by decide +kernel

theorem test_hyp_fabric_issue_of_no_lane :
    freeCheck (stateX (groupX [7])) issue0 (groupX [7]) (.bfree 16 (some ⟨false, 5⟩)) .user (fun _ _ _ _ => []) (some .tx) = true ∧
    (groupX [7]).activeLanes issue0 (.bfree 16 (some ⟨false, 5⟩)) = [] ∧
    (Spec.fabricAsk (stateX (groupX [7])) issue0 (groupX [7]) (.bfree 16 (some ⟨false, 5⟩))).isSome = true ∧
    (groupX (wordsR 0x9000 64)).activeLanes issue0 (.fwr 16 20 (some ⟨false, 5⟩)) = [] ∧
    (Spec.remoteCopyOf (.fwr 16 20 (some ⟨false, 5⟩))).isSome = true := ⟨by decide +kernel, by decide +kernel, rfl, by decide +kernel, rfl⟩

/-- A window on 64 bytes from 0x8000, for interface 0 of package 0x106. -/
def windowE : Window := { read := true, write := true, base := 0x8000, len := 64, users := [0x81060000] }
/-- A package 0x105 with routes to 0x106, which may take messages and events for interface 77, and one operation of the group. -/
def stateE (k : OpKind) : State :=
  { state0 (groupOp .tx k) with
    dpkg := 0x105, routes := [0x106, 0x206], flight := []
    parts := [(0, { state0.part 0 with msgTgt := [0x8106004D], windows := [(3, windowE)] })] }
def askE (f : FabAct) (t : DWord) (st : Bool := false) (got : Option (Nat × DWord) := none) : OpKind := .fabric f t .user [] st got

/-- What a statement about one operation of the group asks of all of them. -/
def aloneE (s : State) (k : OpKind) : Bool :=
  match s.group 7 with
  | some g => decide (g.op 0 = some { id := 0, cls := .tx, kind := k }) && g.resident && g.oldest { id := 0, cls := .tx, kind := k } &&
    !g.farPending 0 && g.ops.all (fun p => decide (p.id = 0))
  | none => false

theorem test_hyp_fabric_operations : ∀ k ∈ [askE (.fstat 5) 0, askE (.frdK 5) 0x1063000000108 true (some (0, 7)),
    askE (.fsend 9 0 0x9000) 0x106004D000000 true (some (3, 0)), askE (.frdK 5) 0x1073000000108, askE (.frdK 5) 0x1063000000108,
    askE (.fatom 5 true 9) 0x1073000000108, askE (.fatom 5 true 9) 0x1063000000108, askE (.fevent 9) 0x106004E000000,
    askE (.fevent 9) 0x106004D000000, askE (.fsend 9 0 0x9000) 0x106004E000000, askE (.fsend 9 0 0x9000) 0x106004D000000,
    .remoteCopy true 0x106 2 0x100 { copyK with ended := true, scope := 6, outcome := 4 },
    .remoteCopy false 0x106 2 0x100 { copyK with done := List.range 32, scope := 10 }],
    aloneE (stateE k) k = true ∧ (match k with
      | .remoteCopy _ _ _ _ c => decide (c.asked.length = c.acked ∧ 2 ≤ c.scope ∧ c.suspended = false ∧ c.credit = none ∧ c.writes = []) && !(stateE k).creditAsleep c
      | _ => true) = true ∧ (stateE k).exhausted 0 2 = false ∧ (stateE k).asleep 0 = false ∧ (7, 0) ∉ (stateE k).pageFails := by decide +kernel

theorem test_hyp_fabric_operations_targets :
    let s := stateE (askE (.fstat 5) 0)
    Spec.dpkgOf 0x1063000000108 = 0x106 ∧ (0x106 : Nat) ∈ s.routes ∧ Spec.dpkgOf 0x1073000000108 = 0x107 ∧ (0x107 : Nat) ∉ s.routes ∧
    Spec.viOf 0x106004D000000 = 77 ∧ (0x8106004D : BitVec 32) ∈ (s.part 0).msgTgt ∧ (0x8106004E : BitVec 32) ∉ (s.part 0).msgTgt := by decide +kernel

/-- A session of two ranks; rank 0 has supplied keys 3 and 1030, rank 1 key 5. -/
def sessionE : Session :=
  { leaf := 0, launch := 3, vi := 1, out := 0x8100, ocap := 600, f32 := true, dthresh := 3, nrank := 2, done := 0x8080, timeout := 100
    opened := 50, ranks := [(0, { keys := [(3, 0x3F800000), (1030, 0x40000000)], last := some 1030 }), (1, { keys := [(5, 0x3F800000)], last := some 1023 })]
    nextKey := 0, items := 0, dropped := 0, ended := false, aborted := false, timedOut := false, incomplete := false, ovf := false
    badStream := false, badRank := 0, fpflags := 0, writes := [], ending := false }
def closedE : Session :=
  { sessionE with ranks := [(0, { keys := [(3, 0x3F800000), (1030, 0x40000000)], last := some 1030, closed := true }),
                            (1, { keys := [(5, 0x3F800000)], last := some 1023, closed := true })] }
def stateB (k : OpKind) (x : Session) : State := { stateE k with sessions := [(9, x)], time := 150 }
/-- The handle of entry 9. -/
def handleE : DWord := 0x4140009

theorem test_hyp_session_operations :
    (∀ f ∈ [FabAct.bopen 5 [0x8100, 0x0002585000040003, 0x8080, 10], .bstat 5 handleE, .bfree handleE, .bclose [handleE, 0x9000, 1]],
      aloneE (stateB (askE f 0) sessionE) (askE f 0) = true ∧ f.isBlend = true) ∧
    handleE = BitVec.ofNat 64 (0x105 * 2 ^ 18 + 9) ∧
    (sessionE.leaf = group0.leaf ∧ ({ sessionE with leaf := 3 } : Session).leaf ≠ group0.leaf) ∧
    (1 : Nat) < sessionE.nrank ∧ (sessionE.rank 1).closed = false ∧ (sessionE.rank 1).busy = none ∧ (closedE.rank 1).closed = true :=
  ⟨by decide +kernel, by decide, by decide, by decide, by decide, by decide, by decide⟩

theorem test_hyp_session_clauses :
    Spec.taking sessionE ∧ Spec.inRanges sessionE ∧ ¬ Spec.rankEnded sessionE 0 ∧
    Spec.firstIndex 256 (fun n => tblFind (stateB .empty sessionE).sessions n = none) 0 ∧
    (∀ n, n < 256 → (tblFind ((List.range 256).map (fun n => (n, sessionE))) n).isSome = true) :=
  ⟨by unfold Spec.taking; decide, by unfold Spec.inRanges; decide, by unfold Spec.rankEnded; decide,
    ⟨by decide, by decide +kernel, fun k h => absurd h (by omega)⟩, by decide +kernel⟩

/-- Guest bytes that translate to the places given, as a test. -/
def placedCheck (s : State) (x : Xlate) (m : Need) (a n : Nat) (p : Nat → Nat) : Bool :=
  !s.exhausted x.leaf 5 && (List.range n).all (fun i => match s.translate x m (a + i) with
    | .ok (q, _) => decide (q = p i)
    | .error _ => false)
theorem placed_of_check {s : State} {x : Xlate} {m : Need} {a n : Nat} {p : Nat → Nat} (h : placedCheck s x m a n p = true) :
    Spec.placed s x m a n p := by
  simp only [placedCheck, Bool.and_eq_true, Bool.not_eq_true'] at h
  refine ⟨h.1, fun i hi => ?_⟩
  have := (List.all_eq_true.mp h.2) i (List.mem_range.mpr hi)
  revert this
  cases s.translate x m (a + i) with
  | error e => intro h; cases h
  | ok q => intro h; exact ⟨q.2, by rw [← of_decide_eq_true h]⟩

def packetE (b : FabBody) (gid : Nat := 12) : FabPacket := { src := 0x106, srcLeaf := 0, dst := 0x105, gid := gid, op := 0, body := b }
def stateI (b : FabBody) : State := { stateE (askE (.frdK 5) 0x1063000000108 true none) with inbox := [(60, packetE b)] }

theorem test_hyp_packets_received : ∀ b ∈ [FabBody.write 3 4 [1, 2] 0 8, .read 3 4 4 0 8, .atom 3 0 true 9, .msg 1 77 [1], .event 1 9,
    .reply 0 0 [1, 2, 3, 4, 5, 6, 7, 8], .carry 0 0 0 [1]],
    (packetE b).src ≠ (stateI b).dpkg ∧ (packetE b).dst = (stateI b).dpkg ∧ (packetE b 7).gid ≠ 0 ∧
    aloneE (stateI b) (askE (.frdK 5) 0x1063000000108 true none) = true ∧
    (stateI b).windowFor 3 0x106 0 = some (0, windowE) ∧ (tblGet ((stateI b).part 0).errs 0 3).toNat + 1 < 2 ^ 64 := by decide +kernel

theorem test_hyp_remote_access : ∀ b ∈ [FabBody.write 3 4 [1, 2] 0 8, .read 3 4 2 0 8, .atom 3 4 true 9, .write 3 70 [1] 60 8],
    tblFind (stateI b).inbox 60 = some (packetE b) ∧ (0, 3 * 60 + 1) ∉ (stateI b).pageFails ∧
    (stateI b).windowFor 3 0x106 0 = some (0, windowE) ∧ windowE.read = true ∧ windowE.write = true ∧ 0 + 8 ≤ windowE.len ∧ 4 + 8 ≤ windowE.len ∧
    windowE.len < 60 + 8 ∧
    placedCheck (stateI b) ⟨0, ((stateI b).part 0).vis.headD 0, none, .supervisor⟩ { r := true, w := true } 0x8004 8 (fun i => 0x8004 + i) = true ∧
    (∀ i < 8, cleanCheck (stateI b) (.sys (0x8004 + i)) = true) := by
  decide +kernel

/-- Interface 1 with message slots from 0x8000 on, some taken, and a launch that waits for tag 77. -/
def stateMsg (taken : List Nat) (mtag : BitVec 32) : State :=
  { stateI (.msg 1 77 [1]) with
    vis := [(1, { mctl := 1, mbase := 0x8000, slots := taken })]
    launches := [(3, { placedLaunch with phase := .armed, mtag := mtag, vi := 1 })] }

theorem test_hyp_message_arrival : ∀ taken ∈ [[], [0, 1]], ∀ n ∈ [77, 78],
    let mtag := BitVec.ofNat 32 n
    let s := stateMsg taken mtag
    s.leafOf 1 = some 0 ∧ s.coreDown 1 = false ∧ (0, 3 * 60 + 1) ∉ s.pageFails ∧ ((s.vi 1).mctl.extractLsb' 0 4).toNat = 1 ∧ (s.vi 1).slots = taken ∧
    ((s.vi 1).mbase.extractLsb' 8 56).toNat * 256 = 0x8000 ∧ (s.vi 1).msgdrop.toNat + 1 < 2 ^ 32 ∧
    placedCheck s ⟨0, 1, none, .supervisor⟩ { w := true } 0x8000 17 (fun i => 0x8000 + i) = true ∧
    (s.launches.map (fun q => (q.1, q.2.vi, q.2.phase == .armed, q.2.mtag))) = [(3, 1, true, mtag)] := by decide +kernel

theorem test_hyp_event_arrival :
    let s := stateI (.event 1 9)
    tblFind s.inbox 60 = some (packetE (.event 1 9)) ∧ s.leafOf 1 = some 0 := by decide +kernel

/-- A push of 3 items for rank 1 from 0x8000 on, `pos` of them read. -/
def pushE (pos : Nat) : OpKind := askE (.bpush [handleE, 0x8000, 0x3000001] pos 0 0 0) 0

theorem test_hyp_blend_push : ∀ pos ∈ [0, 2],
    let s := stateB (pushE pos) sessionE
    aloneE s (pushE pos) = true ∧ tblFind s.sessions 9 = some sessionE ∧ (sessionE.rank 1).busy = none ∧ (7, 0) ∉ s.pageFails ∧
    placedCheck s ⟨0, 1, none, .user⟩ { r := true } (0x8000 + 8 * pos) 8 (fun i => 0x8000 + 8 * pos + i) = true ∧
    (∀ i < 24, cleanCheck s (.sys (0x8000 + i)) = true) := by decide +kernel

/-- A session in which the segment of a push of this package, or of another, is being read at rank 1. -/
def busyE (src : Nat) : Session := { sessionE with ranks := [(1, { busy := some (src, 7, 0) })] }
/-- A packet of one item for rank 1 of session 9. -/
def pushPacket : FabPacket := packetE (.push 9 1 [5] false false)

theorem test_hyp_blend_packets :
    pushPacket.dst = (stateB .empty sessionE).dpkg ∧ pushPacket.src ≠ (stateB .empty sessionE).dpkg ∧ Spec.taking (busyE 0x105) ∧
    ((busyE 0x105).rank 1).cut = false ∧ ((busyE 0x105).rank 1).busy = some (0x105, 7, 0) ∧
    ((0x105, 7, 0) : Nat × Nat × Nat) ≠ (pushPacket.src, pushPacket.gid, pushPacket.op) ∧
    (sessionE.rank 1).busy = none ∧ (sessionE.rank 1).queue = [] ∧ ((stateB .empty sessionE).part 0).windows = [(3, windowE)] ∧
    windowE.len ≠ 0 ∧ BitVec.ofNat 32 (2 ^ 31 + pushPacket.src * 2 ^ 16 + pushPacket.srcLeaf) ∈ windowE.users :=
  ⟨by decide, by decide, by unfold Spec.taking; decide, by decide, by decide, by decide, by decide, by decide, by decide, by decide, by decide⟩

theorem test_hyp_blend_record : ∀ cap ∈ [600, 1],
    let x := { sessionE with ocap := cap }
    let s := stateB .empty x
    (x.ranks.map (·.1)).Nodup ∧ (∀ p ∈ x.ranks, p.1 < x.nrank ∧ tblSortedFrom 0 p.2.keys = true) ∧ Spec.presentKey x 3 = true ∧
    (∀ j < 3, Spec.presentKey x j = false) ∧ (∀ n < 2, ∃ l, (x.rank n).last = some l ∧ 1024 * (3 / 1024) + 1023 ≤ l) ∧
    (Spec.mergeRecord x 3).1.length = 1 ∧ (0, 3 * 9) ∉ s.pageFails ∧
    placedCheck s ⟨0, 1, none, .supervisor⟩ { w := true } 0x8100 8 (fun i => 0x8100 + i) = true := by
  intro cap h
  have h : cap = 600 ∨ cap = 1 := by simpa using h
  rcases h with rfl | rfl
  · exact ⟨by decide, by decide, by decide, by decide, fun n h => match n, h with
      | 0, _ => ⟨1030, by decide, by decide⟩
      | 1, _ => ⟨1023, by decide, by decide⟩, by decide +kernel, by decide, by decide +kernel⟩
  · exact ⟨by decide, by decide, by decide, by decide, fun n h => match n, h with
      | 0, _ => ⟨1030, by decide, by decide⟩
      | 1, _ => ⟨1023, by decide, by decide⟩, by decide +kernel, by decide, by decide +kernel⟩

theorem test_hyp_blend_end :
    let x := { closedE with nextKey := 1031 }
    let y := { x with ending := true, items := 1, writes := [5] }
    let s := stateB .empty x
    (∀ n, n < x.nrank → Spec.rankEnded x n) ∧ (∀ p ∈ x.ranks, p.1 < x.nrank ∧ tblSortedFrom 0 p.2.keys = true) ∧
    (x.ranks.map (·.1)).Nodup ∧ (∀ p ∈ x.ranks, ∀ q ∈ p.2.keys, q.1 < x.nextKey) ∧ Spec.inRanges y ∧ (∀ i ∈ y.writes, (stateB .empty y).performed i 5 = true) ∧
    placedCheck s ⟨0, 1, none, .supervisor⟩ { w := true } 0x8100 8 (fun i => 0x8100 + i) = true ∧
    placedCheck (stateB .empty y) ⟨0, 1, none, .supervisor⟩ { w := true } 0x8080 16 (fun i => 0x8080 + i) = true :=
  ⟨fun n h => .inr (.inr (.inr (.inl (by revert h; revert n; decide)))), by decide, by decide, by decide, by unfold Spec.inRanges; decide, by decide +kernel,
    by decide +kernel, by decide +kernel⟩

theorem test_hyp_blend_timeout :
    0 < sessionE.timeout ∧ sessionE.opened + sessionE.timeout ≤ (stateB .empty sessionE).time ∧ Spec.taking sessionE ∧
    (∃ n, n < sessionE.nrank ∧ ¬ Spec.rankEnded sessionE n) ∧ (stateB .empty sessionE).launch 3 = some placedLaunch ∧ Spec.idle sessionE ∧
    Spec.taking { sessionE with badStream := true } :=
  ⟨by decide, by decide, by unfold Spec.taking; decide, ⟨0, by decide, by unfold Spec.rankEnded; decide⟩, by decide +kernel,
    fun n => match n with
      | 0 => rfl
      | 1 => rfl
      | _ + 2 => rfl, by unfold Spec.taking; decide⟩

/-- The keys that END counts as dropped: none, or, after an overflow, what is left. -/
theorem test_hyp_blend_dropped :
    let x := { closedE with nextKey := 6 }
    (x.ranks.map (·.1)).Nodup ∧ (∀ p ∈ x.ranks, p.1 < x.nrank ∧ tblSortedFrom 0 p.2.keys = true) ∧
    (∀ k, k ∈ [1030] ↔ x.nextKey ≤ k ∧ Spec.presentKey x k = true) := by
  refine ⟨by decide, by decide, fun k => ?_⟩
  have h : Spec.presentKey { closedE with nextKey := 6 } k = (k == 3 || k == 1030 || k == 5) := by
    have hr (n : Nat) : ({ closedE with nextKey := 6 } : Session).rank n = closedE.rank n := rfl
    simp only [Spec.presentKey, hr, show List.range ({ closedE with nextKey := 6 } : Session).nrank = [0, 1] from rfl, List.any_cons, List.any_nil]
    simp only [show (closedE.rank 0).keys = [(3, 0x3F800000), (1030, 0x40000000)] from rfl,
      show (closedE.rank 1).keys = [(5, 0x3F800000)] from rfl, tblFind, Bool.or_false]
    by_cases h3 : k = 3
    · subst h3; rfl
    · by_cases h5 : k = 1030
      · subst h5; rfl
      · by_cases h6 : k = 5
        · subst h6; rfl
        · simp [h3, h5, h6]
  rw [h]
  simp only [List.mem_singleton, Bool.or_eq_true, beq_iff_eq]
  omega

theorem test_hyp_taken :
    let r : Rank := { keys := [(3, 1)], last := some 3 }
    let b : Rank := { r with items := [0x80000001] }
    let f : Rank := { r with items := 0x80000001 :: List.replicate 511 0 }
    (∀ l, r.last = some l → l < (0x100000005 : DWord).toNat % 2 ^ 32) ∧ (0x100000005 : DWord).getLsbD 31 = false ∧
    ((0x80000001 : DWord) = BitVec.ofNat 64 (2 ^ 31 + 1) ∧ ∀ l, r.last = some l → l < 1024 * 1) ∧
    ((3 : DWord).getLsbD 31 = false ∧ ∃ l, r.last = some l ∧ ((3 : DWord).extractLsb' 0 32).toNat ≤ l) ∧
    (b.items ≠ [] ∧ b.items.length < 512) ∧ f.items.length = 512 ∧ f.items.head? = some (BitVec.ofNat 64 (2 ^ 31 + 1)) :=
  ⟨fun l h => by cases h; decide, by decide, ⟨by decide, fun l h => by cases h; decide⟩, ⟨by decide, 3, rfl, by decide⟩, by decide, by decide, by decide⟩

/-! ### Hypotheses that are met: the registers of an interface -/

/-- Interface 3 with queue 5 in the state given and its rings disabled. -/
def stateV (qctl hctl : BitVec 32) : State :=
  { State.reset with vis := [(3, { hctl := hctl, prctl := hctl, queues := [(5, { qctl := qctl, qtail := 9, qhead := 5 })] })] }

theorem test_hyp_register_events :
    Spec.isVi 1 ∧ Spec.isVi 3 ∧ Spec.isVi 1024 ∧ (0x304 : BitVec 32).getLsbD 8 = true ∧ (0x204 : BitVec 32).getLsbD 8 = false ∧
    (((stateV 0x204 5).vi 3).queue 5).qctl.getLsbD 8 = false ∧ (((stateV 0x304 5).vi 3).queue 5).qctl.getLsbD 8 = true ∧
    ((stateV 0x204 5).vi 3).hctl.getLsbD 8 = false ∧ ((stateV 0x204 5).vi 3).prctl.getLsbD 8 = false ∧ Spec.nothingWaits (stateV 0x204 5) 3 :=
  ⟨by unfold Spec.isVi; decide, by unfold Spec.isVi; decide, by unfold Spec.isVi; decide, by decide, by decide, by decide, by decide, by decide, by decide,
    fun p h => by cases h⟩

theorem test_hyp_register_writes : ∀ p ∈ [(0x48, 2), (0x4C, 8), (0x22, 4), (0x1000, 4), (0xFFF8, 8), (0x50000, 4), (0x48, 0)],
    ¬ (p.2 = 4 ∨ p.2 = 8) ∨ p.1 % p.2 ≠ 0 ∨ (0x1000 ≤ p.1 ∧ p.1 < 0x10000) ∨ 0x50000 ≤ p.1 := by decide

/-- A page request of interface 3, with lane 3 of the test group parked for it. -/
def requestV : PageReq :=
  { leaf := 0, vi := 3, stage := 1, page := 5, acc := 1, user := false, tag := 9, gid := 7, again := false, written := true, lanes := [(7, 3)], ops := [] }
def groupV : Group := { group0 with lanes := tblSet group0.lanes 3 { lane0 .user with park := .page, fault := 77, faultAddr := 0x55005 } }
def statePR : State := { state0 groupV with issue := none, pageReqs := [(40, { requestV with tag := 8 }), (41, requestV), (42, { requestV with vi := 4 })] }

theorem test_hyp_page_answers :
    (∀ p ∈ statePR.pageReqs, ¬ (p.2.vi = 3 ∧ p.2.stage = 1 ∧ p.2.tag = 7)) ∧ (41, requestV) ∈ statePR.pageReqs ∧
    (∀ p ∈ statePR.pageReqs, p.1 = 41 ∨ (p.2.vi = 3 ∧ p.2.stage = 1 ∧ p.2.tag = 9) → p = (41, requestV)) ∧ statePR.group 7 = some groupV ∧
    groupV.resident = true ∧ (groupV.lane 3).park = .page ∧ (trapMode groupV (groupV.lane 3).mode).isSome = true :=
  ⟨by decide, by decide, by decide, by decide, by decide, by decide, by decide⟩

theorem test_hyp_function_reset :
    let s : State := { state0 with launches := [(3, placedLaunch), (4, { placedLaunch with parent := some 3, vi := 9 }), (5, { placedLaunch with vi := 9 })] }
    (s.launches.map (·.1)).Nodup ∧ (s.groups.map (·.1)).Nodup ∧ Spec.OfVi s placedLaunch.vi 4 ∧ placedLaunch.vi ≠ 9 :=
  ⟨by decide, by decide, .child 4 3 _ rfl rfl (.own 3 placedLaunch rfl rfl (by unfold Spec.begun; decide)), by decide⟩

/-- A launch whose COMPLETE has begun is carried through a reset of its function. -/
theorem test_hyp_function_reset_begun :
    let l : Launch := { placedLaunch with phase := .completing, step := 5, parent := none }
    let s : State := { state0 with launches := [(3, l)] }
    (s.launches.map (·.1)).Nodup ∧ Spec.begun l ∧ l.vi = placedLaunch.vi ∧ ∀ lid, ¬ Spec.OfVi s placedLaunch.vi lid := by
  have hf {lid : Nat} {m : Launch} (h : ({ state0 with launches := [(3, { placedLaunch with phase := .completing, step := 5, parent := none })] } : State).launch lid = some m) :
      m.phase = .completing ∧ m.step = 5 ∧ m.parent = none := by
    revert h
    simp only [State.launch, tblFind]
    split
    · intro h; cases h; exact ⟨rfl, rfl, rfl⟩
    · intro h; cases h
  refine ⟨by decide, by unfold Spec.begun; decide, rfl, fun lid h => ?_⟩
  cases h with
  | own _ m h _ hb => exact hb (.intro (hf h).2.2 (.inr ⟨(hf h).1, by rw [(hf h).2.1]⟩))
  | child _ p m h hp _ => rw [(hf h).2.2] at hp; cases hp

theorem test_hyp_host_write :
    Spec.reachesMemory State.reset 0x17FFFFFFFFF ∧ ¬ Spec.reachesMemory State.reset 0x18000000000 ∧
    ¬ Spec.reachesMemory { State.reset with channelsOut := [0] } 0x1000 ∧
    ¬ Spec.reachesMemory { State.reset with cxlDown := [0] } 0x20000000000 ∧ Spec.reachesMemory State.reset 0x100000000000 :=
  ⟨by unfold Spec.reachesMemory; decide, by unfold Spec.reachesMemory; decide, by unfold Spec.reachesMemory; decide,
    by unfold Spec.reachesMemory; decide, by unfold Spec.reachesMemory; decide⟩

/-! ### Hypotheses that are met: queues and launch records -/

/-- It cannot read the first byte, as a test. -/
def blindCheck (s : State) (leaf vi a : Nat) : Bool :=
  match s.translate (frontX leaf vi) { r := true } a with
  | .ok _ => false
  | .error (.poison _) => false
  | .error _ => true
theorem blind_of_check {s : State} {leaf vi a n : Nat} (hn : 0 < n) (h : blindCheck s leaf vi a = true) : Spec.FrontBlind s leaf vi a n := by
  unfold blindCheck at h
  refine .inl ?_
  split at h
  · cases h
  · cases h
  · rename_i e hp he
    exact ⟨0, e, hn, by rw [Nat.add_zero]; exact he, fun p hep => hp p hep, fun j hj => absurd hj (by omega)⟩

/-- The memory of the test state, and more bytes above it. -/
def memWith (l : List Host.Cell) : List Host.Cell :=
  [(4096, 1), (4097, 32), (8192, 15), (32768, 1), (32769, 2), (32770, 131), (32771, 4), (32772, 5), (32773, 6), (32774, 7), (32775, 8)] ++ l
/-- A queue with one entry to come, at 0x8080 or elsewhere. -/
def queueQ (at0 : DWord) (held : Option (List Byte) := none) (pred : Machine.Pred := .plain) : Queue :=
  { qbase := at0, qctl := 0x102, qhead := 6, qtail := 7, held := held, pred := pred }
/-- A LAUNCH entry whose launch record lies at 0xA000, with one WAIT event. -/
def entryQ (kind : Byte) : List Byte :=
  [kind, 0, 1, 1, 7, 0, 0, 0] ++ leBytes 8 0xA000 ++ leBytes 8 0x6000 ++ leBytes 8 1 ++ [3, 0, 0, 0, 0, 0, 0, 0, 7, 0, 0, 0, 0, 0, 0, 0] ++ List.replicate 16 0
def stateQ (x : Queue) (e : List Byte) (ev : Nat := 8) : State :=
  { state0 with issue := none, vis := [(1, { queues := [(3, x)], ev := BitVec.ofNat 256 ev })], mgmt := { ready := true }, mem := memWith (((e.zipIdx).filter (fun q => q.1 ≠ 0)).map (fun q => (0x8080 + q.2, q.1))) }

theorem test_hyp_queue_works (x : Queue) (h : x ∈ [queueQ 0x8000, queueQ 0x900000000000, queueQ 0x8000 (some (entryQ 1)), queueQ 0x8000 (some (entryQ 3)),
    queueQ 0x8000 (some (entryQ 2))]) : Spec.QueueWorks (stateQ x (entryQ 1)) 1 3 0 := by
  simp only [List.mem_cons, List.not_mem_nil, or_false] at h
  rcases h with rfl | rfl | rfl | rfl | rfl <;>
    exact ⟨by unfold Spec.isVi; decide, by decide, ⟨rfl, rfl⟩, rfl, rfl, rfl, rfl, rfl, rfl⟩

theorem test_hyp_consume :
    let a := ((0x8000 : DWord).toNat / 64 + (6 : BitVec 32).toNat % 2 ^ ((0x102 : BitVec 32) &&& 0x1F).toNat) * 64
    a = 0x8080 ∧ Spec.FrontSees (stateQ (queueQ 0x8000) (entryQ 1)) 0 1 a (entryQ 1) ∧ (entryQ 1).length = 64 ∧ Spec.EntryValid (entryQ 1) ∧
    Spec.FrontSees (stateQ (queueQ 0x8000) (entryQ 4)) 0 1 a (entryQ 4) ∧ ¬ Spec.EntryValid (entryQ 4) ∧
    Spec.FrontBlind (stateQ (queueQ 0x900000000000) (entryQ 1)) 0 1 (((0x900000000000 : DWord).toNat / 64 + 2) * 64) 64 ∧
    (queueQ 0x8000).held = none ∧ (queueQ 0x8000).qhead ≠ (queueQ 0x8000).qtail :=
  ⟨by decide, (identity_of_check (by decide +kernel)).sees (by decide +kernel) (by decide +kernel), by decide, by unfold Spec.EntryValid; decide, (identity_of_check (by decide +kernel)).sees (by decide +kernel) (by decide +kernel),
    by unfold Spec.EntryValid; decide, blind_of_check (by decide) (by decide +kernel), rfl, by decide⟩

theorem test_hyp_release :
    Spec.Releasable (stateQ (queueQ 0x8000 (some (entryQ 1))) (entryQ 1)) 1 3 (entryQ 1) ∧
    ¬ Spec.Releasable (stateQ (queueQ 0x8000 (some (entryQ 1))) (entryQ 1) 0) 1 3 (entryQ 1) ∧
    ¬ Spec.Releasable (stateQ (queueQ 0x8000 (some (entryQ 1)) (.launch 3)) (entryQ 1)) 1 3 (entryQ 1) ∧
    Spec.Releasable (stateQ (queueQ 0x8000 (some (entryQ 3))) (entryQ 3)) 1 3 (entryQ 3) ∧ Spec.EntryValid (entryQ 3) ∧
    (stateQ (queueQ 0x8000 (some (entryQ 1))) (entryQ 1)).assisted 0 0 = false := by
  have w : ∀ k : Byte, ∀ s : State, (s.vi 1).ev = 8 → ∀ n, n < 256 → k ≠ 2 → Spec.names (entryQ k) 2 0x20 n = true →
      (s.vi 1).ev.getLsbD n = true := by
    intro k s hs n hn _ h
    have : n = 3 := by
      have : Spec.names (entryQ k) 2 0x20 n = ((3 : Byte).toNat == n) := by simp [Spec.names, entryQ, leBytes]
      rw [this] at h
      exact (beq_iff_eq.mp h).symm
    rw [hs, this]; decide +revert
  refine ⟨⟨trivial, w 1 _ rfl⟩, fun h => absurd (h.2 3 (by decide) (by decide) (by decide)) (by decide), fun h => ?_, ⟨trivial, w 3 _ rfl⟩,
    by unfold Spec.EntryValid; decide, by decide⟩
  rcases h.1 with h | h | h
  · revert h; decide
  · exact absurd (h placedLaunch (by decide +kernel)) (by decide)
  · exact absurd h.1 (by decide)

/-- A queue of a lower number has an entry to release. -/
theorem test_hyp_release_order :
    let s := stateQ (queueQ 0x8000 (some (entryQ 3))) (entryQ 3)
    Spec.MayRelease s 1 3 0 ∧ Spec.MayRelease { s with parts := [(0, { s.part 0 with allow := some 0 })] } 1 3 0 ∧
    ∀ p, p < 3 → ¬ Spec.MayRelease s 1 p 0 := by
  have w : ∀ n, n < 256 → (entryQ 3).getD 0 0 ≠ 2 → Spec.names (entryQ 3) 2 0x20 n = true → (BitVec.ofNat 256 8).getLsbD n = true := by
    intro n _ _ h
    have : Spec.names (entryQ 3) 2 0x20 n = ((3 : Byte).toNat == n) := by simp [Spec.names, entryQ, leBytes]
    rw [this] at h
    rw [← beq_iff_eq.mp h]; decide
  refine ⟨⟨⟨by unfold Spec.isVi; decide, by decide, ⟨rfl, rfl⟩, rfl, rfl, rfl, rfl, rfl, rfl⟩, entryQ 3, rfl, ⟨trivial, w⟩, .inl (by decide)⟩,
    ⟨⟨by unfold Spec.isVi; decide, by decide, ⟨rfl, rfl⟩, rfl, rfl, rfl, rfl, rfl, rfl⟩, entryQ 3, rfl, ⟨trivial, w⟩, .inl (by decide)⟩, ?_⟩
  rintro p hp ⟨⟨_, _, _, _, _, _, _, ho, _⟩, _⟩
  revert ho
  have : p = 0 ∨ p = 1 ∨ p = 2 := by omega
  rcases this with rfl | rfl | rfl <;> decide

/-- The translation budget is used up, and a line of a queue entry is poisoned. -/
theorem test_hyp_front_waits :
    stateBudget.exhausted 0 5 = true ∧
    let s : State := { stateQ (queueQ 0x8000) (entryQ 1) with poisoned := [257] }
    Spec.FrontBlind s 0 1 0x8080 64 := by
  refine ⟨by decide, ?_⟩
  have h : Identity { stateQ (queueQ 0x8000) (entryQ 1) with poisoned := [257] } (frontX 0 1) := identity_of_check (by decide +kernel)
  have at_ : ∀ i, i < 64 → Spec.FrontAt { stateQ (queueQ 0x8000) (entryQ 1) with poisoned := [257] } 0 1 0x8080 i (0x8080 + i) := by
    intro i hi
    obtain ⟨es, ht, _⟩ := h.translate { r := true } (va := 0x8080 + i) (by omega)
    exact ⟨es, ht, ⟨List.not_mem_nil, List.not_mem_nil⟩, fun _ _ => ⟨List.not_mem_nil, List.not_mem_nil⟩⟩
  exact .inr ⟨⟨0, 0x8080, by decide, at_ 0 (by decide), by decide⟩, fun i hi => ⟨_, at_ i hi⟩⟩

/-- A launch record at 0xA000: the one that the model's placed program has. -/
def cellsR : List Host.Cell :=
  [(40960, 1), (40962, 1), (40963, 1), (40969, 64), (40976, 1), (40980, 1), (40984, 1), (40988, 1), (41024, 30), (41032, 64)]

/-- A launch of interface 1 with its record at 0xA000, which is read: a queue's, or a child of launch 3. -/
def launchQ (parent : Option Nat) (at0 : DWord := 0xA000) : Launch :=
  { placedLaunch with phase := .released, lrec := at0, parent := parent, start := none, counter := 0 }
def stateLR (parent : Option Nat) (cells : List Host.Cell) (at0 : DWord := 0xA000) : State :=
  { state0 with
    issue := none, launches := [(3, { placedLaunch with counter := 3 }), (9, launchQ parent at0)], mem := memWith cells }

theorem test_hyp_record_read : ∀ p ∈ [none, some 3],
    (stateLR p cellsR).launch 9 = some (launchQ p) ∧ (stateLR p cellsR).admits (launchQ p) = true ∧ placedRecord.length = 512 ∧
    blindCheck (stateLR p cellsR 0x900000000000) 0 1 0x900000000000 = true ∧ (stateLR p cellsR).assisted 0 2 = false ∧
    (stateLR p cellsR).launch 3 = some { placedLaunch with counter := 3 } ∧ placedLaunch.phase = .running := by decide +kernel

theorem test_hyp_record_seen : Spec.FrontSees (stateLR none cellsR) 0 1 0xA000 placedRecord := (identity_of_check (by decide +kernel)).sees (by decide +kernel) (by decide +kernel)

theorem test_hyp_record_checks : Spec.AllHold (Spec.headChecks placedRecord) ∧ Spec.AllHold (Spec.tailChecks placedRecord) ∧ Spec.TaskOk placedRecord ∧
    Spec.NCONST placedRecord = 0 ∧ Spec.FLAG placedRecord 5 = false := by
  refine ⟨fun c h => ?_, fun c h => ?_, by unfold Spec.TaskOk; rw [if_pos (by decide +kernel)]; decide +kernel, by decide +kernel, by decide +kernel⟩
  · simp only [Spec.headChecks, List.mem_cons, List.not_mem_nil, or_false] at h
    rcases h with rfl | rfl | rfl | rfl | rfl | rfl
    · show fieldAt _ _ _ = 1; decide +kernel
    · exact ⟨by unfold Spec.zero; decide +kernel, by decide +kernel, fun _ _ => by unfold Spec.zero; decide +kernel, by unfold Spec.zero; decide +kernel⟩
    · exact ⟨by decide +kernel, by decide +kernel, by decide +kernel⟩
    · exact ⟨by decide +kernel, by decide +kernel, fun k h1 h2 => absurd h2 (by rw [show Spec.NLEVEL placedRecord = 1 by decide +kernel]; omega)⟩
    · show Spec.BodyOk _; unfold Spec.BodyOk; decide +kernel
    · show Spec.ConstsOk _; unfold Spec.ConstsOk; decide +kernel
  · simp only [Spec.tailChecks, List.mem_cons, List.not_mem_nil, or_false] at h
    rcases h with rfl | rfl | rfl
    · exact ⟨by decide +kernel, by decide +kernel, by decide +kernel, by decide +kernel, fun h => absurd h (by decide +kernel)⟩
    · show ∀ n, n < 8 → Spec.SlotOk _ n; unfold Spec.SlotOk; decide +kernel
    · show Spec.CutOk placedRecord; unfold Spec.CutOk; decide +kernel

theorem test_hyp_record_failures :
    Spec.FirstFailure (Spec.headChecks (placedRecord.set 0 2)) 0x102 ∧ Spec.FirstFailure (Spec.tailChecks (placedRecord.set 0x40 0)) 0x108 ∧
    ¬ Spec.TaskOk (placedRecord.set 0x50 1) ∧ Spec.NCONST (placedRecord.set 0x2F 1) = 1 ∧ Spec.FLAG (placedRecord.set 4 32) 5 = true ∧
    Spec.FrontBlind (stateLR none cellsR) 0 1 (fieldAt (((placedRecord.set 0x2F 1).set 0x35 0x90)) 0x30 8) 8 :=
  ⟨⟨[], _, _, rfl, by decide, fun c h => absurd h (by simp)⟩, ⟨[], _, _, rfl, fun h => absurd h.1 (by decide), fun c h => absurd h (by simp)⟩,
    by unfold Spec.TaskOk; rw [if_neg (by decide)]; exact fun h => absurd h.1 (by decide), by decide, by decide, blind_of_check (by decide) (by decide +kernel)⟩

theorem test_hyp_record_armed :
    let s (n : Nat) : State := { stateLR none cellsR with
      launches := (9, launchQ none) :: (List.range n).map (fun i => (20 + i, { placedLaunch with phase := .armed })) }
    ((s 64).launches.filter (fun p => p.2.vi == 1 && p.2.phase == .armed)).length ≥ 64 ∧
    ((s 63).launches.filter (fun p => p.2.vi == 1 && p.2.phase == .armed)).length < 64 := by decide

/-- A `spawn` of two records at 0xB040 and 0xB080, of which one record's bytes are given. -/
def groupSp : Group := groupOp .tx (.spawn [0xB040, 0xB080] [77])
def stateTR (k : Byte) (target : Byte) : State :=
  { state0 groupSp with issue := none, launches := [(3, { placedLaunch with counter := 4 })], mem := memWith [(0xB040, k), (0xB048, target), (0xB049, 0x40)] }
def recordT (kind : Byte) (target : Byte) : List Byte := [kind, 0, 0, 0, 0, 0, 0, 0, target, 0x40, 0, 0, 0, 0, 0, 0] ++ List.replicate 48 0

theorem test_hyp_task_read : ∀ k ∈ [1, 2, 3],
    let b := recordT (BitVec.ofNat 8 k) 8
    let s := stateTR (BitVec.ofNat 8 k) 8
    s.group 7 = some groupSp ∧ s.launch groupSp.launch = some { placedLaunch with counter := 4 } ∧
    groupSp.op 0 = some { id := 0, cls := .tx, kind := .spawn [0xB040, 0xB080] [77] } ∧ s.performed 77 4 = true ∧
    s.admits { placedLaunch with counter := 4 } = true ∧ b.length = 64 ∧ identityCheck s (frontX 0 1) = true ∧ readsCheck s 0xB040 b = true ∧ s.nextId ≠ groupSp.launch := by decide +kernel

theorem test_hyp_task_records : Spec.TaskValid (recordT 1 8) ∧ Spec.TaskValid (recordT 2 4) ∧ ¬ Spec.TaskValid (recordT 1 4) ∧ ¬ Spec.TaskValid (recordT 3 8) :=
  ⟨by unfold Spec.TaskValid Spec.zero; decide, by unfold Spec.TaskValid Spec.zero; decide, by unfold Spec.TaskValid Spec.zero; decide,
    by unfold Spec.TaskValid Spec.zero; decide⟩

/-! ### Hypotheses that are met: dispatch and retirement -/

/-- A launch at work: its record has the number of levels given and 40 points; level 1 has the domain given and may have barriers. -/
def recordD (nlevel domain : Byte) (barrier : Bool := false) : List Byte :=
  (((placedRecord.set 2 nlevel).set 0x10 40).set 0x60 (0x20 + domain)).set 0x61 (if barrier then 4 else 0)
def launchD (nlevel domain : Byte) (barrier : Bool := false) : Launch :=
  { placedLaunch with phase := .running, record := recordD nlevel domain barrier, start := none, counter := 3, laidOut := false, stopped := false, nextTop := 0 }
/-- A machine with nothing on it but that launch, and a pool of 4 GiB, or of the bytes given. -/
def stateW (l : Launch) (pool : Nat := 0x100000000) : State :=
  { state0 with
    issue := none, groups := [], pieces := [], flight := [], launches := [(3, l)]
    parts := [(0, { state0.part 0 with poolSize := pool, channels := 1 })] }

/-- The image of a group fits at the start of the images of its leaf's pool, as a test. -/
def roomCheck (s : State) (leaf size : Nat) : Bool :=
  decide (size ≤ (s.part leaf).imagePool) && (s.imagesHeld leaf).isEmpty
theorem room_of_check {s : State} {leaf size : Nat} (h : roomCheck s leaf size = true) : Spec.Roomy s leaf size (s.part leaf).imageBase := by
  simp only [roomCheck, Bool.and_eq_true, decide_eq_true_eq, List.isEmpty_iff] at h
  exact ⟨Nat.le_refl _, Nat.add_le_add_left h.1 _, fun u hu => by rw [h.2] at hu; cases hu⟩

theorem test_hyp_group_dispatch : ∀ next ∈ [0, 32],
    let l := { launchD 1 0 with nextTop := next }
    let s := stateW l
    s.launch 3 = some l ∧ l.phase = .running ∧ s.admits l = true ∧ l.taskPlans = [] ∧ l.grader.awaited = [] ∧ l.grader.log = [] ∧
    l.grader.logged = [] ∧ l.stopped = false ∧ l.laidOut = false ∧ l.plans = [] ∧ Spec.NLEVEL l.record = 1 ∧
    l.nextTop < Spec.SPACE l.record 0 * Spec.SPACE l.record 1 * Spec.SPACE l.record 2 * Spec.SPACE l.record 3 ∧ s.placeFree l.leaf (1, 5) = true ∧
    s.keptFor (some 3) 1 = false ∧ roomCheck s l.leaf l.poolBytes = true := by decide +kernel

/-- Slabs cut once, of pieces of 9 points. -/
def cutD : Cut := { shape := [9, 1, 1, 1], order := 0 }
theorem test_hyp_piece_layout : ∀ next ∈ [0, 4],
    let sl : Slab := { origin := 0, cuts := [cutD], next := next }
    let l := { launchD 2 1 with grader := { (launchD 2 1).grader with slab := some sl, cuts := [cutD], windowed := false, slabbed := false } }
    let s := stateW l
    s.launch 3 = some l ∧ s.admits l = true ∧ l.grader.awaited = [] ∧ l.grader.log = [] ∧ l.grader.logged = [] ∧ l.stopped = false ∧ l.laidOut = false ∧
    l.plans = [] ∧ Spec.NLEVEL l.record = 2 ∧ l.grader.slab = some sl ∧ (∀ d < 4, 1 ≤ cutD.shape.getD d 0) ∧ (∀ d < 4, 1 ≤ Spec.SPACE l.record d) ∧
    next < (Spec.SPACE l.record 0 + 8) / 9 ∧ l.poolBytes * ((9 + 31) / 32) ≤ (s.part l.leaf).imagePool := by decide +kernel

/-- Two groups of pieces 40 and 41 laid out. -/
def planD (pid : Nat) : GroupPlan := { pieces := [pid], points := [[1, 2, 3, 4], [5, 6, 7, 8]], unit := pid }
def pieceD : Piece :=
  { launch := 3, level := 1, parent := none, org := [0, 0, 0, 0], ext := [9, 1, 1, 1], pos := 0, pop := 9, bar := 0xFFFFFFFF, barpkg := 0xFFFFFFFF, subs := [] }
def stateP (barrier : Bool) (pool : Nat := 0x100000000) (domain : Byte := 1) : State :=
  { stateW { launchD 2 domain barrier with plans := [planD 40, planD 41], laidOut := true } pool with pieces := [(40, pieceD), (41, pieceD)] }

theorem test_hyp_plans_placed :
    let l := { launchD 2 1 with plans := [planD 40, planD 41], laidOut := true }
    let s := stateP false
    s.launch 3 = some l ∧ s.admits l = true ∧ l.plans = [planD 40] ++ [planD 41] ∧ l.headGroups * l.poolBytes ≤ (s.part l.leaf).imagePool ∧
    s.placesFit 3 l [(0, 0)] = true ∧ s.placesFit 3 l [(0, 64)] = false ∧
    (∀ g ∈ [planD 40], g.task = none ∧ ∀ pid ∈ g.all, pid = 40 ∧ s.piece 40 = some pieceD ∧ (Spec.LEVEL l.record pieceD.level).testBit 10 = false) ∧
    ((stateP false 0x1000).part l.leaf).imagePool < l.headGroups * l.poolBytes ∧ 1 < l.counter := by decide +kernel

theorem test_hyp_armed_barriers : ∀ domain ∈ [1, 2],
    let d : Byte := BitVec.ofNat 8 domain
    let l := { launchD 2 d true with plans := [planD 40, planD 41], laidOut := true }
    let s := stateP true 0x100000000 d
    s.launch 3 = some l ∧ (planD 40).all = [40] ∧ s.piece 40 = some pieceD ∧ pieceD.born = none ∧ (Spec.LEVEL l.record 1).testBit 10 = true ∧
    Spec.LEVEL l.record 1 % 8 = domain ∧ l.headGroups * l.poolBytes ≤ (s.part l.leaf).imagePool ∧ s.placesFit 3 l [(5, 2)] = true ∧
    0 < barCount (decide (2 ≤ domain)) ∧ tblFind s.barriers (handleAt (decide (2 ≤ domain)) (if 2 ≤ domain then 1 else 5) 0) = none := by decide +kernel

/-- A number that is listed is found. -/
theorem found_of_mem {α : Type} {t : Tbl α} {k : Nat} {v : α} (h : (k, v) ∈ t) : tblFind t k ≠ none := by
  induction t with
  | nil => cases h
  | cons p t ih =>
    obtain ⟨j, w⟩ := p
    unfold tblFind
    by_cases e : k = j
    · rw [if_pos e]; exact fun h => by cases h
    · rw [if_neg e]
      rcases List.mem_cons.mp h with h | h
      · cases h; exact absurd rfl e
      · exact ih h

theorem test_hyp_armed_barriers_full :
    let bs : Tbl Barrier := (List.range (barCount false)).map (fun i => (handleAt false 5 i, object))
    ∀ i, i < barCount false → tblFind bs (handleAt false 5 i) ≠ none :=
  fun i hi => found_of_mem (v := object) (List.mem_map.mpr ⟨i, List.mem_range.mpr hi, rfl⟩)

theorem test_hyp_tasks_placed :
    let g : GroupPlan := { points := allLanes.map (fun i => [i, 0, 0, 0]), task := some (0x7008, [1, 2, 3, 4, 5, 6]) }
    let l := { launchD 1 0 with taskPlans := [g, g] }
    let s := stateW l
    s.launch 3 = some l ∧ s.admits l = true ∧ l.taskPlans = [g] ++ [g] ∧ s.placeFree l.leaf (7, 0) = true ∧ s.keptFor none 7 = false ∧
    (allocImages (s.part l.leaf) l.poolBytes (s.imagesHeld l.leaf) ([g].map (fun g => (true, g)))).isSome = true := by decide +kernel

/-- Piece 40 has been dispatched and its one group has ended; piece 41 waits. -/
def groupEnd (freed task : Bool) : Group := { group0 with pieces := if task then [] else [40], freed := freed, task := task }
def launchR : Launch :=
  { launchD 2 1 with grader := { (launchD 2 1).grader with windowed := false, stats := [{ retired := 0 }] }, taskGroups := [8] }
def stateRt (l : Launch) (freed : Bool) : State :=
  { stateW l with
    groups := [(7, groupEnd freed false), (8, groupEnd true true)]
    pieces := [(40, { pieceD with born := some 1 }), (41, pieceD)] }

theorem test_hyp_piece_retire :
    (stateRt launchR true).piece 40 = some { pieceD with born := some 1 } ∧ (stateRt launchR true).launch 3 = some launchR ∧ launchR.phase = .running ∧
    (stateRt launchR true).residentVi launchR.vi = true ∧ Spec.PieceOver (stateRt launchR true) launchR 40 { pieceD with born := some 1 } ∧
    ¬ Spec.PieceOver (stateRt launchR false) launchR 40 { pieceD with born := some 1 } ∧ (launchR.laidOut = false ∧ launchR.stopped = false) ∧
    launchR.grader.stats[0]? = some { retired := 0 } :=
  ⟨by decide +kernel, by decide +kernel, by decide, by decide +kernel,
    ⟨by decide, by decide, by rw [if_pos (by decide)]; exact ⟨fun g h => absurd h (by simp [launchR, launchD, placedLaunch]), by decide +kernel⟩⟩,
    fun h => by have := h.2.2; rw [if_pos (by decide)] at this; exact absurd this.2 (by decide +kernel), by decide, by decide⟩

theorem test_hyp_task_retire :
    (stateRt launchR true).piece 8 = none ∧ (stateRt launchR true).group 8 = some (groupEnd true true) ∧ 8 ∈ launchR.taskGroups ∧
    (stateRt launchR true).launch (groupEnd true true).launch = some launchR ∧ 1 < launchR.counter ∧
    ¬ (∀ i < 32, ((groupEnd true true).lane i).absent = true ∨ ((groupEnd true true).lane i).exited = true) ∧
    ∀ freed ∈ [false, true], ∀ done ∈ [false, true],
      let g := { groupEnd freed true with done := done, lanes := [(0, { lane0 .user with exited := true }), (2, { lane0 .user with exited := true })] }
      ({ stateRt launchR true with groups := [(8, g)] } : State).group 8 = some g ∧
      ∀ i < 32, (g.lane i).absent = true ∨ (g.lane i).exited = true := by decide +kernel

/-- The launch has laid out all of its pieces, and they have retired. -/
def stateLo (counter : Nat) (freed : Bool) : State :=
  { stateRt { launchR with laidOut := true, counted := false, counter := counter } freed with
    pieces := [(40, { pieceD with born := some 1, retired := true })] }
theorem test_hyp_launch_over :
    (∀ c ∈ [1, 3], (stateLo c true).piece 7 = none ∧ (stateLo c true).group 7 = some (groupEnd true false) ∧
      (stateLo c true).launch 3 = some { launchR with laidOut := true, counted := false, counter := c } ∧ launchR.grader.replay = false) ∧
    Spec.LaunchOver (stateLo 3 true) 3 { launchR with laidOut := true, counted := false } ∧
    ¬ Spec.LaunchOver (stateLo 3 false) 3 { launchR with laidOut := true, counted := false } ∧ launchR.parent = none :=
  ⟨by decide +kernel, ⟨.inl rfl, rfl, by decide +kernel, by decide +kernel⟩, fun h => absurd h.2.2.2 (by decide +kernel), by decide⟩

/-! ### Hypotheses that are met: the completion of a launch -/

/-- A launch at a step of its completion; slot 0 of its record adds I32 into 0x8010. -/
def launchE (step : Nat) : Launch :=
  { placedLaunch with
    phase := .completing, step := step, queue := 3, csig := 0x8000, cval := 7, cscope := 5, start := some 5, end_ := 550, error := 0x304
    setMask := [3, 200], intr := true, sigWrite := none
    record := (((placedRecord.set 0x178 0x10).set 0x179 0x80).set 0x180 1).set 0x181 1, ored := [(0, 0, 100)] }
def writeE (level launch : Nat) : Write := { id := 77, gid := 0, lane := 0, launch := launch, core := none, level := level, bytes := [] }
def stateCm (l : Launch) (flight : List Write := []) : State :=
  { state0 with
    issue := none, groups := [(7, { group0 with freed := true })], pieces := [], launches := [(3, l), (9, placedLaunch)], flight := flight
    vis := [(1, { queues := [(3, { qctl := 0x2F303 })] })] }

/-- No walk of a machine of this kind meets a marked table entry. -/
theorem Identity.clear {s : State} {x : Xlate} (h : Identity s x) (m : Need) {a n : Nat} (ha : a + n ≤ 2 ^ 30) : Spec.Clear s x m a n := by
  intro i p es hi ht e he
  obtain ⟨es', ht', hes⟩ := h.translate m (va := a + i) (by omega)
  rw [ht] at ht'
  cases ht'
  rcases hes e he with h0 | h0 <;> rw [h0]
  · exact ⟨h.sound.2.2.2.1, by rw [h.sound.2.2.1]; exact List.not_mem_nil⟩
  · exact ⟨h.sound.2.2.2.2, by rw [h.sound.2.2.1]; exact List.not_mem_nil⟩

theorem test_hyp_completion_starts :
    (∀ step ∈ [0, 1, 2, 3, 4, 5], (stateCm (launchE step)).launch 3 = some (launchE step) ∧ (launchE step).phase = .completing ∧ (launchE step).step = step) ∧
    (launchE 0).grader.logging = false ∧ ({ (launchE 0).grader with logging := true } : Grader).logging = true ∧
    (launchE 1).grader.log = [] ∧ (stateCm (launchE 1) [writeE 3 9]).performed 77 (scopeLevel 5) = false ∧
    (stateCm (launchE 1) [writeE 4 9]).performed 77 (scopeLevel 5) = true := by decide +kernel

theorem test_hyp_completion_slots :
    (launchE 2).slotsDone < 8 ∧ Spec.SLOT (launchE 2).record 0 8 ≠ 0 ∧ (launchE 2).slotResult 0 = some 100 ∧ Spec.SLOT (launchE 2).record 0 9 % 16 = 1 ∧
    Spec.SLOT (launchE 2).record 1 8 = 0 ∧ ({ launchE 2 with ored := [] } : Launch).slotResult 0 = none ∧
    (0, 3 * 3 + 2) ∉ (stateCm (launchE 2)).pageFails ∧ fieldAt (launchE 2).record 0x178 8 = 0x8010 ∧
    Spec.placed (stateCm (launchE 2)) (frontX 0 1) { w := true } 0x8010 4 (fun i => 0x8010 + i) ∧
    Spec.Clear (stateCm (launchE 2)) (frontX 0 1) { w := true } 0x8010 4 ∧ (writeE 6 3).id = 77 ∧
    (stateCm (launchE 2)).performed 78 6 = true :=
  ⟨by decide, by decide, by decide +kernel, by decide, by decide, by decide +kernel, by decide, by decide,
    (identity_of_check (by decide +kernel)).placed _ (by decide), (identity_of_check (by decide +kernel)).clear _ (by decide), by decide, by decide⟩

/-- A slot whose target no table maps: the write is refused, and no page is asked for. -/
theorem test_hyp_completion_slot_fault :
    let l := { launchE 2 with record := ((launchE 2).record.set 0x17E 1) }
    (match (stateCm l).translate (frontX 0 1) { w := true } (fieldAt l.record 0x178 8 + 0) with
      | .error (.page _ _) => false
      | .error _ => true
      | .ok _ => false) = true ∧ l.slotResult 0 = some 100 := by decide +kernel

theorem test_hyp_completion_waits :
    ((stateCm (launchE 3)).launches.map (·.1)).Nodup ∧ (launchE 3).parent = none ∧
    Spec.WritesDone (stateCm (launchE 3) [writeE 4 3]) 3 (launchE 3) ∧ ¬ Spec.WritesDone (stateCm (launchE 3) [writeE 3 3]) 3 (launchE 3) ∧
    (stateCm { launchE 3 with parent := some 9 }).launch 9 = some placedLaunch := by
  have freed : ∀ x ∈ (stateCm (launchE 3) [writeE 4 3]).groups, x.2.freed = true := by decide +kernel
  have done : ∀ w ∈ (stateCm (launchE 3) [writeE 4 3]).flight, (stateCm (launchE 3) [writeE 4 3]).performed w.id (scopeLevel (launchE 3).cscope) = true := by
    decide +kernel
  refine ⟨by decide, rfl, ⟨fun x h _ => freed x h, fun x h u => ⟨?_, fun hne => ?_⟩, fun w h _ => done w h⟩, fun h => absurd (h.2.2 (writeE 3 3) (.head _) .self) (by decide), by decide +kernel⟩
  · have : ∀ x ∈ (stateCm (launchE 3) [writeE 4 3]).launches, x.2.taskGroups = [] := by decide
    exact this x h
  simp only [stateCm, List.mem_cons, List.not_mem_nil, or_false] at h
  rcases h with rfl | rfl
  · exact absurd rfl hne
  · exfalso
    generalize hk : (9 : Nat) = k at u
    cases u with
    | self => exact absurd hk (by decide)
    | child c p l h1 h2 h3 =>
      have : (stateCm (launchE 3) [writeE 4 3]).launch 9 = some placedLaunch := by decide +kernel
      rw [hk, h1] at this
      cases this
      cases h2

theorem test_hyp_completion_signal :
    (stateCm (launchE 4)).coreDown 1 = false ∧ Spec.FirstPending (stateCm (launchE 4)) 3 (launchE 4) ∧ (stateCm (launchE 4)).exhausted 0 5 = false ∧
    Spec.Clear (stateCm (launchE 4)) (frontX 0 1) { w := true } 0x8000 32 ∧ (launchE 4).csig ≠ 0 ∧ 32 ∣ (launchE 4).csig.toNat ∧
    Spec.placed (stateCm (launchE 4)) (frontX 0 1) { w := true } 0x8000 32 (fun i => 0x8000 + i) ∧ ¬ 32 ∣ (0x8008 : DWord).toNat ∧
    ({ stateCm (launchE 4) with mgmt := { (stateCm (launchE 4)).mgmt with queueCores := [(0, { down := true })] } } : State).coreDown 1 = true :=
  ⟨by decide, fun h => absurd h (by decide), by decide, (identity_of_check (by decide +kernel)).clear _ (by decide), by decide, by decide,
    (identity_of_check (by decide +kernel)).placed _ (by decide), by decide, by decide⟩

/-- A completion that was pending when the queue core resumed waits for one with a smaller END. -/
theorem test_hyp_completion_order :
    let s : State := { stateCm (launchE 4) with
      launches := [(3, launchE 4), (9, { launchE 2 with end_ := 540 })], mgmt := { (stateCm (launchE 4)).mgmt with queueCores := [(0, { upAt := 600 })] } }
    ¬ Spec.FirstPending s 3 (launchE 4) ∧ Spec.FirstPending s 9 { launchE 2 with end_ := 540 } := by
  refine ⟨fun h => ?_, fun _ p hp hne _ _ _ _ => ?_⟩
  · have := h (by decide) (9, { launchE 2 with end_ := 540 }) (.tail _ (.head _)) (by decide) rfl rfl rfl (by decide)
    exact absurd this (by decide)
  · simp only [List.mem_cons, List.not_mem_nil, or_false] at hp
    rcases hp with rfl | rfl
    · exact .inl (by decide)
    · exact absurd rfl hne

theorem test_hyp_completion_ends :
    (stateCm { launchE 5 with sigWrite := some 77 } [writeE 4 3]).performed 77 (scopeLevel 5) = true ∧
    (stateCm { launchE 5 with sigWrite := some 77 } [writeE 3 3]).performed 77 (scopeLevel 5) = false ∧
    (((stateCm (launchE 5)).vi 1).queue 3).qctl.getLsbD 9 = true ∧ (launchE 5).error ≠ 0 ∧
    (stateCm { launchE 5 with phase := .completed } []).launch 3 = some { launchE 5 with phase := .completed } ∧
    ((stateCm (launchE 5)).groups.map (·.1)).Nodup ∧ (launchE 5).intr = true ∧ (stateCm (launchE 5)).performed 77 6 = true := by decide +kernel

/-! ### Hypotheses that are met: the firmware's work -/

/-- A queue with a deadline, and an entry to come. -/
def queueF (gen : BitVec 32 := 4) : Queue := { qctl := 0x103, qhead := 6, qtail := 7, relcnt := 5, block := { gen := gen, wddead := 1000 }, shadow := { gen := 2 } }
/-- Queue core 0 is down and core 1 is not; interfaces 1 and 2 share leaf 0; the clock stands at 5 ms. -/
def stateFw (p : Part → Part := id) (time : Nat := 5000000) : State :=
  { state0 with
    issue := none, groups := [(7, { group0 with resident := false })], time := time
    vis := [(1, { queues := [(3, queueF), (4, queueF 5)] }), (2, { queues := [(3, queueF)] })]
    launches := [(3, placedLaunch), (4, { placedLaunch with parent := some 3 }), (5, { placedLaunch with leaf := 16 })]
    mgmt := { ready := true, queueCores := [(0, { down := true }), (1, {})], assist := { ctl := 0x2104, tail := 5, head := 0, base := 0x1000 } }
    parts := [(0, p { state0.part 0 with vis := [1, 2], tenant := some 1, slice := 20, since := 0 })] }

theorem test_hyp_queue_core_restart :
    tblFind stateFw.mgmt.queueCores 0 = some { down := true } ∧ tblFind stateFw.mgmt.queueCores 1 = some {} ∧ (tblKeys stateFw.vis).Nodup ∧
    (∀ p ∈ stateFw.vis, (tblKeys p.2.queues).Nodup) := by decide +kernel

/-- The second part of a timeout, and the repair after it. -/
theorem test_hyp_queue_core_again :
    let c : QueueCore := { down := true, stoppedAt := 4980000 }
    let d : QueueCore := { c with restartAt := some 4999000 }
    c.restartAt = none ∧ c.stoppedAt + 20000 ≤ stateFw.time ∧ (stateFw id 4990000).time < c.stoppedAt + 20000 ∧ d.down = true ∧ d.restartAt ≠ none := by
  decide +kernel

theorem test_hyp_watchdog :
    stateFw.leafOf 1 = some 0 ∧ ((stateFw.vi 1).queue 3).block.wddead.toNat < stateFw.time ∧ stateFw.residentVi 1 = true ∧
    ¬ ((stateFw id 1000).vi 1 |>.queue 3).block.wddead.toNat < (stateFw id 1000).time ∧
    (stateFw (fun p => { p with drain := 1 })).part 0 ≠ stateFw.part 0 ∧ (stateFw.part 0).drain = 0 ∧ (stateFw.part 0).modes.getLsbD 3 = false ∧
    ((stateFw (fun p => { p with modes := 8 })).part 0).modes.getLsbD 3 = true := by decide +kernel

theorem test_hyp_leaf_drain :
    let s := stateFw (fun p => { p with drain := 2, expired := [64 + 3] })
    (s.part 0).drain = 2 ∧ (stateFw.part 0).drain ≠ 2 ∧ (s.launches.map (·.1)).Nodup ∧ (s.groups.map (·.1)).Nodup ∧ (s.part 0).vis.Nodup ∧
    ((s.launches.filter (fun x => x.2.leaf == 0 && x.2.parent.isNone && x.2.phase != .completing && x.2.phase != .completed)).map (·.1)) = [3] ∧
    s.launch 3 = some placedLaunch ∧ s.core 1 = {} ∧
    (let t : State := { s with cores := [(1, { wbuf := [(0, 1)] })] }
     t.core 1 ≠ {} ∧ (s.part 0).clusters.getLsbD 0 = true ∧ (s.part 0).clusters.getLsbD 5 = false) := by decide +kernel

/-- The queues of a leaf are halted once the launches of its drain have completed. -/
theorem test_hyp_leaf_drain_ends :
    let s (l : Nat) := stateFw (fun p => { p with drain := 3, aborted := [l] })
    ((s 3).part 0).drain = 3 ∧ ((s 3).launch 3).isSome = true ∧ (s 9).launch 9 = none ∧ ((s 9).part 0).vis.Nodup := by decide +kernel

theorem test_hyp_leaf_drain_under : Spec.UnderAny stateFw [3] 4 ∧ ¬ Spec.UnderAny stateFw [3] 5 := by
  refine ⟨.child 4 3 _ (by decide +kernel : stateFw.launch 4 = some { placedLaunch with parent := some 3 }) rfl (.self 3 (by decide)), fun h => ?_⟩
  generalize hk : (5 : Nat) = k at h
  cases h with
  | self => rename_i h; rw [← hk] at h; exact absurd h (by decide)
  | child c p l h1 h2 h3 =>
    have : stateFw.launch 5 = some { placedLaunch with leaf := 16 } := by decide +kernel
    rw [hk, h1] at this
    cases this
    cases h2

/-- A packet that waits for a budget. -/
def waitF : State := { stateFw with outwait := [(0, .packet (packetE (.event 1 9)))] }
theorem test_hyp_policy_waits :
    stateFw.mgmt.policyBack ≤ stateFw.time ∧ stateFw.outwait = [] ∧ (∀ w ∈ waitF.outwait, waitF.limited w.1 2 = false) ∧
    (stateFw id 10).time < ({ stateFw.mgmt with policyBack := 20 } : Mgmt).policyBack := by decide +kernel

theorem test_hyp_policy_core : stateFw.time / 100000 ≠ stateFw.mgmt.period ∧ (stateFw id 0).time / 100000 = (stateFw id 0).mgmt.period := by decide +kernel

/-- Nothing of a leaf's groups is on a core, and its tenant's slice may be over. -/
theorem test_hyp_tenant_switch :
    2 ≤ (stateFw.part 0).vis.length ∧ stateFw.leafStopped 0 = false ∧ (stateFw.part 0).since + (stateFw.part 0).slice * 100000 ≤ stateFw.time ∧
    (stateFw id 1).time < (stateFw.part 0).since + (stateFw.part 0).slice * 100000 ∧
    (stateFw (fun p => { p with vis := [1] })).part 0 ≠ stateFw.part 0 ∧ stateFw.leafQuiet 0 = true ∧
    ({ stateFw with groups := [(7, group0)] } : State).leafQuiet 0 = false ∧ (tblKeys (stateFw.vi 1).queues).Nodup ∧ (tblKeys (stateFw.vi 2).queues).Nodup ∧
    tblFind (stateFw.part 0).away 2 = none := by decide +kernel

/-- An interface whose queue has an entry to consume has work; one without a queue or launch has none. -/
theorem work_of_queue {s : State} {v : Nat} (h : (3, queueF) ∈ (s.vi v).queues) : Spec.hasWork s v :=
  .inr ⟨_, h, rfl, rfl, by show (6 : BitVec 32) ≠ 7; decide⟩
theorem test_hyp_tenant_work :
    Spec.hasWork stateFw 1 ∧ Spec.hasWork stateFw 2 ∧ Spec.HeldOk stateFw (stateFw.part 0).vis ∧
    ∀ w ∈ (stateFw.part 0).vis, w ≠ 1 → ¬ Spec.hasWork { stateFw with vis := [(1, { queues := [(3, queueF)] })] } w := by
  refine ⟨work_of_queue (by decide), work_of_queue (by decide), ?_, ?_⟩
  · have h : ∀ v ∈ (stateFw.part 0).vis, (tblKeys (stateFw.vi v).queues).Nodup ∧ ∀ p ∈ (stateFw.vi v).queues, p.2.held = none := by decide +kernel
    exact fun v hv => ⟨(h v hv).1, fun p hp e he => by rw [(h v hv).2 p hp] at he; cases he⟩
  · have hv : ∀ w ∈ (stateFw.part 0).vis, w ≠ 1 → w = 2 := by decide +kernel
    intro w hw hne h
    rw [hv w hw hne] at h
    rcases h with ⟨p, hp, h1, _⟩ | ⟨p, hp, _⟩
    · have : ∀ p ∈ stateFw.launches, p.2.vi ≠ 2 := by decide +kernel
      exact this p hp h1
    · exact absurd hp (by have : (({ stateFw with vis := [(1, { queues := [(3, queueF)] })] } : State).vi 2).queues = [] := by decide +kernel
                          rw [this]; exact List.not_mem_nil)

theorem test_hyp_tenant_next :
    let s := stateFw (fun p => { p with tenant := none, leaving := some 1 })
    let t := stateFw (fun p => { p with tenant := none, leaving := none, away := [(1, { cores := [(1, {})] })] })
    (s.part 0).tenant = none ∧ (s.part 0).leaving = some 1 ∧ s.leafQuiet 0 = true ∧ Spec.nextSlice s [1, 2] 1 2 ∧
    (t.part 0).leaving = none ∧ Spec.nextSlice t [1, 2] 0 1 ∧ tblFind (t.part 0).away 1 = some { cores := [(1, {})] } :=
  ⟨by decide +kernel, by decide +kernel, by decide +kernel, ⟨by decide, work_of_queue (by decide), fun x h _ => by clear * - h; revert x; decide⟩, by decide +kernel,
    ⟨by decide, work_of_queue (by decide), fun x h _ => by clear * - h; revert x; decide⟩, by decide +kernel⟩

/-- A request to the host with tag 2 between two others. -/
def askF (tag fn : Nat) (data : List Nat := []) : Assist := { tag := BitVec.ofNat 32 tag, leaf := 0, fn := fn, data := data, posted := 100 }
def stateAs (fn : Nat) (data : List Nat := []) : State :=
  { stateFw with
    mgmt := { stateFw.mgmt with asks := [askF 1 5] ++ askF 2 fn data :: [askF 3 4] }, migrations := [(0, { phase := .stream, approved := false })] }

theorem test_hyp_assist_replies : ∀ fn ∈ [0, 1, 3, 4, 5],
    (stateAs fn).mgmt.asks = [askF 1 5] ++ askF 2 fn :: [askF 3 4] ∧ (∀ b ∈ [askF 1 5] ++ [askF 3 4], b.tag ≠ (askF 2 fn).tag) ∧
    (askF 2 fn).tag = (0x500000002 : DWord).setWidth 32 ∧ (∀ a ∈ (stateAs fn).mgmt.asks, a.tag ≠ (7 : DWord).setWidth 32) ∧
    (tblFind (stateAs fn).migrations 0).isSome = true ∧ 100 + ((stateAs fn).part 0).assistMs * 1000000 ≤ 100 + 10 ^ 8 := by decide +kernel

theorem test_hyp_assist_cut :
    let c : Cut := { shape := [1, 1, 1, 1], order := 0 }
    let l := { launchL with
      record := launchL.record.take 0x60 ++ [0x21, 0, 4, 0, 0, 0, 0, 0] ++ (List.replicate 4 [1, 0, 8, 0, 1, 0, 1, 0]).flatten ++ launchL.record.drop 0x88
      grader := { launchL.grader with awaited := [1], cuts := [c], sources := [false], logging := false } }
    let s : State := { stateAs 2 [3, 1] with launches := [(3, l)] }
    s.launch 3 = some l ∧ 1 ∈ l.grader.awaited ∧ l.grader.cuts.length = l.grader.sources.length ∧ l.cutFits 1 c = true ∧
    l.cutFits 1 { c with shape := [0, 1, 1, 1] } = false := by decide +kernel

theorem test_hyp_assist_timeout :
    ({ stateFw with time := 0 } : State).time < (askF 2 0).posted + (stateFw.part 0).assistMs * 1000000 ∧
    (askF 2 0).posted + (stateFw.part 0).assistMs * 1000000 ≤ (stateFw id (10 ^ 9)).time ∧
    (tblFind ({ stateAs 1 [44] with pageReqs := [(44, requestV)] } : State).pageReqs ((askF 2 1 [44]).data.getD 0 0)).isSome = true := by decide +kernel

theorem test_hyp_page_service :
    let r (page : Nat) : PageReq := { requestV with vi := 1, stage := 2, page := page }
    let s (page : Nat) : State := { stateFw with pageReqs := [(44, r page)], vis := [] }
    let t : State := { s 5 with parts := [(0, { stateFw.part 0 with modes := 2 })] }
    tblFind (s 5).pageReqs 44 = some (r 5) ∧ (r 5).stage = 2 ∧ requestV.stage ≠ 2 ∧ ((s 5).part 0).modes.getLsbD 1 = false ∧
    (match (s 5).stage2 (frontX 0 1) { r := true } (5 * 4096) with | .ok _ => true | .error _ => false) = true ∧
    (match (s 0x80000000).stage2 (frontX 0 1) { r := true } (0x80000000 * 4096) with | .ok _ => false | .error _ => true) = true ∧
    (t.part 0).modes.getLsbD 1 = true ∧ (∀ a ∈ t.mgmt.asks, ¬ (a.leaf = 0 ∧ a.fn = 1 ∧ a.data = [44])) := by decide +kernel

/-! ### Hypotheses that are met: the management function -/

/-- Memory that holds bytes from an address on, and no others. -/
def cellsFrom (a k : Nat) (bs : List Byte) : List Host.Cell := ((bs.zipIdx k).filter (fun q => q.1 ≠ 0)).map (fun q => (a + q.2, q.1))
theorem cellsFrom_get (a : Nat) (bs : List Byte) (k i : Nat) : tblGet (cellsFrom a k bs) 0 (a + i) = if i < k then 0 else bs.getD (i - k) 0 := by
  induction bs generalizing k with
  | nil => simp [cellsFrom, tblGet, tblFind]
  | cons b bs ih =>
    have ih := ih (k + 1)
    have step : tblGet (cellsFrom a k (b :: bs)) 0 (a + i) = if i = k then b else tblGet (cellsFrom a (k + 1) bs) 0 (a + i) := by
      by_cases hb : b = 0
      · have : cellsFrom a k (b :: bs) = cellsFrom a (k + 1) bs := by simp [cellsFrom, List.zipIdx_cons, hb]
        rw [this]
        split
        · rw [ih, if_pos (by omega), hb]
        · rfl
      · have : cellsFrom a k (b :: bs) = (a + k, b) :: cellsFrom a (k + 1) bs := by
          unfold cellsFrom; rw [List.zipIdx_cons, List.filter_cons_of_pos (by simpa using hb)]; rfl
        rw [this]
        show (if a + i = a + k then some b else tblFind (cellsFrom a (k + 1) bs) (a + i)).getD 0 = _
        by_cases e : i = k
        · rw [if_pos e, if_pos (by omega)]; rfl
        · rw [if_neg e, if_neg (by omega)]; rfl
    rw [step, ih]
    by_cases e : i = k
    · subst e; simp
    · by_cases l : i < k
      · simp [e, l, show i < k + 1 by omega]
      · rw [if_neg e, if_neg (by omega), if_neg l]
        have : i - k = (i - (k + 1)) + 1 := by omega
        rw [this]; simp

/-- The host's memory from one of its addresses on. -/
def hostCells (at0 : Nat) (bs : List Byte) : List Host.Cell := cellsFrom (hostBase + at0) 0 bs
theorem hostCells_get (at0 : Nat) (bs : List Byte) (i : Nat) : bs.getD i 0 = tblGet (hostCells at0 bs) 0 (hostBase + at0 + i) := by
  unfold hostCells; rw [cellsFrom_get]; simp

/-- Bytes that are zero but for the ones listed. -/
def bytesWith (n : Nat) (l : List (Nat × Byte)) : List Byte := (List.range n).map (fun i => ((l.find? (fun p => p.1 = i)).map (·.2)).getD 0)
def commandM (code : Byte) (l : List (Nat × Byte)) : Command := { block := bytesWith 64 ((0, code) :: l), addr := 0x4000, seq := 99 }
/-- Partition 0 has a child that holds a launch; partition 1 is a leaf; a ticket is ten seconds old. -/
def stateMg (c : Command) (recovery : Bool := false) (time : Nat := 10 ^ 10 + 5) : State :=
  { State.reset with
    time := time, nextId := 30, mem := []
    launches := [(3, { placedLaunch with leaf := 8 })]
    mgmt := { commands := [c], recovery := recovery, rollback := 3, version := 5, digest := List.replicate 32 7, tickets := [(4, ⟨8, 1, 0, 5, false⟩)] }
    parts := [(0, { configured := true, clusters := 0xFF, channels := 0xF }), (8, { configured := true, clusters := 3 }),
      (16, { configured := true, clusters := 0xF00, channels := 0xF0, vis := [3, 4] })] }

theorem turn_of {c : Command} {b : Bool} {t code : Nat} (h1 : fieldAt c.block 0 4 = code) (h2 : c.block.length = 64) (h3 : c.addr = 0x4000) :
    Spec.Turn1 (stateMg c b t) c [] code := ⟨rfl, h1, h2, by rw [h3]; decide, fun d h => by cases h⟩

theorem test_hyp_management_door :
    let b := (commandM 3 []).block
    let s : State := { stateMg (commandM 9 []) with mem := hostCells 0x4000 b, mgmt := { mcmda := 0x4000 } }
    hostBase + s.mgmt.mcmda.toNat + 64 ≤ 2 ^ 48 ∧ b.length = 64 ∧ (∀ i, i < 64 → b.getD i 0 = tblGet s.mem 0 (hostBase + s.mgmt.mcmda.toNat + i)) ∧
    (1 ≤ fieldAt b 0 4 ∧ fieldAt b 0 4 ≤ 9) ∧ s.mgmt.commands = [] ∧ s.mgmt.assist.ctl.getLsbD 8 = false ∧ s.mgmt.halt.ctl.getLsbD 8 = false :=
  ⟨by decide, by decide, fun i _ => hostCells_get 0x4000 _ i, by decide, rfl, by decide, by decide⟩

theorem test_hyp_limit_commands :
    let p := commandM 3 [(12, 0x20), (13, 3)]
    let q := commandM 3 [(12, 0x1F), (13, 3)]
    let f := commandM 4 [(12, 7), (14, 0xD0), (15, 7)]
    let h := commandM 4 [(12, 8), (14, 0xD0), (15, 7)]
    let r := commandM 9 []
    let x := commandM 9 [(40, 1)]
    (Spec.Turn1 (stateMg p) p [] 3 ∧ Spec.reservedZero p 14 64 ∧ Spec.arg p 12 2 = 800) ∧ (Spec.Turn1 (stateMg q) q [] 3 ∧ Spec.arg q 12 2 = 799) ∧
    (Spec.Turn1 (stateMg f) f [] 4 ∧ Spec.arg f 12 1 = 7 ∧ Spec.reservedZero f 13 14 ∧ Spec.reservedZero f 16 64 ∧ Spec.arg f 14 2 = 2000) ∧
    (Spec.Turn1 (stateMg h) h [] 4 ∧ ¬ Spec.arg h 12 1 < 8) ∧ (Spec.Turn1 (stateMg r) r [] 9 ∧ Spec.reservedZero r 12 64) ∧
    (Spec.Turn1 (stateMg x) x [] 9 ∧ ¬ Spec.reservedZero x 12 64) :=
  ⟨⟨turn_of (by decide) (by decide) rfl, by unfold Spec.reservedZero Spec.zero; decide, by decide⟩, ⟨turn_of (by decide) (by decide) rfl, by decide⟩,
    ⟨turn_of (by decide) (by decide) rfl, by decide, by unfold Spec.reservedZero Spec.zero; decide, by unfold Spec.reservedZero Spec.zero; decide, by decide⟩,
    ⟨turn_of (by decide) (by decide) rfl, by decide⟩, ⟨turn_of (by decide) (by decide) rfl, by unfold Spec.reservedZero Spec.zero; decide⟩,
    ⟨turn_of (by decide) (by decide) rfl, by unfold Spec.reservedZero Spec.zero; decide⟩⟩

/-- Partition 1 is a leaf, and partition 0 is not. -/
theorem leaf_one (c : Command) : Spec.isLeafPart (stateMg c) 16 :=
  ⟨rfl, fun _ n h => by revert h; revert n; show ∀ n < 8, ((stateMg (commandM 0 [])).part (16 + 8 + n)).configured = false; decide +kernel⟩
theorem named_one : Spec.partNamed 1 0xFF 16 := ⟨by decide, .inl ⟨rfl, rfl⟩⟩

theorem test_hyp_window_command :
    let c := commandM 2 [(12, 1), (13, 0xFF), (14, 2), (15, 3), (17, 0x30), (25, 0x10), (32, 0x10), (34, 0x12), (35, 0x80)]
    let d := commandM 2 [(12, 16)]
    Spec.Turn1 (stateMg c) c [] 2 ∧ Spec.partNamed (Spec.arg c 12 1) (Spec.arg c 13 1) 16 ∧ Spec.isLeafPart (stateMg c) 16 ∧ Spec.arg c 14 1 = 2 ∧
    Spec.arg c 15 1 = 3 ∧ 4096 ∣ Spec.arg c 16 8 ∧ 4096 ∣ Spec.arg c 24 8 ∧
    (∀ i, i < 8 → (Spec.arg c (32 + 4 * i) 4).testBit 30 = false ∧ Spec.arg c (32 + 4 * i) 4 / 2 ^ 8 % 256 = 0) ∧
    Spec.Turn1 (stateMg d) d [] 2 ∧ ∀ key, ¬ Spec.partNamed (Spec.arg d 12 1) (Spec.arg d 13 1) key :=
  ⟨turn_of (by decide) (by decide) rfl, named_one, leaf_one _, by decide, by decide, by decide, by decide, by decide,
    turn_of (by decide) (by decide) rfl, fun key h => absurd h.1 (by decide)⟩

theorem test_hyp_ticket_make :
    let c := commandM 5 [(12, 1), (13, 0xFF), (17, 0x90), (24, 12), (26, 2), (27, 3)]
    let d := commandM 5 [(12, 1), (13, 0xFF), (16, 1)]
    Spec.Turn1 (stateMg c) c [] 5 ∧ Spec.partNamed (Spec.arg c 12 1) (Spec.arg c 13 1) 16 ∧ Spec.partNamed (Spec.arg c 26 1) (Spec.arg c 27 1) 43 ∧
    Spec.isLeafPart (stateMg c) 16 ∧ Spec.reservedZero c 14 16 ∧ Spec.reservedZero c 28 64 ∧ 64 ∣ Spec.arg c 16 8 ∧ Spec.arg c 24 2 < 2 ^ 14 ∧
    tblFind (stateMg c).migrations 16 = none ∧ hostBase + Spec.arg c 16 8 + 128 ≤ 2 ^ 48 ∧ Spec.Turn1 (stateMg d) d [] 5 ∧ ¬ 64 ∣ Spec.arg d 16 8 ∧
    tblFind ({ stateMg c with migrations := [(16, { phase := .stream, approved := false })] } : State).migrations 16 ≠ none :=
  ⟨turn_of (by decide) (by decide) rfl, named_one, ⟨by decide, .inr ⟨by decide, by decide⟩⟩, leaf_one _,
    by unfold Spec.reservedZero Spec.zero; decide, by unfold Spec.reservedZero Spec.zero; decide, by decide, by decide, by decide, by decide,
    turn_of (by decide) (by decide) rfl, by decide, by decide⟩

/-- A ticket that a partition may take, or may not: one that holds a launch, or one that was taken. Whether a ticket fits is opaque. -/
theorem test_hyp_ticket_take :
    let c := commandM 6 [(12, 1), (13, 0xFF), (17, 0x90)]
    let d := commandM 6 [(12, 0), (13, 0), (17, 0x90)]
    let b := bytesWith 128 [(0, 77)]
    let s : State := { stateMg c with mem := hostCells 0x9000 b }
    let t : State := { s with mgmt := { s.mgmt with taken := [77] } }
    Spec.Turn1 (stateMg c) c [] 6 ∧ Spec.reservedZero c 14 16 ∧ Spec.reservedZero c 24 64 ∧ Spec.arg c 16 8 = 0x9000 ∧ Spec.isLeafPart s 16 ∧
    hostBase + 0x9000 + 128 ≤ 2 ^ 48 ∧ b.length = 128 ∧ (∀ i, i < 128 → b.getD i 0 = tblGet s.mem 0 (hostBase + 0x9000 + i)) ∧
    ¬ Spec.busyPart s 16 ∧ leNat b ∉ s.mgmt.taken ∧ leNat b ∈ t.mgmt.taken ∧ Spec.busyPart (stateMg d) 8 ∧
    Spec.partNamed (Spec.arg d 12 1) (Spec.arg d 13 1) 8 ∧ Spec.isLeafPart (stateMg d) 8 :=
  ⟨turn_of (by decide) (by decide) rfl, by unfold Spec.reservedZero Spec.zero; decide, by unfold Spec.reservedZero Spec.zero; decide, by decide,
    leaf_one (commandM 0 []), by decide, by decide, fun i _ => hostCells_get 0x9000 _ i,
    fun ⟨x, hx, _, h⟩ => by
      have : x = (3, { placedLaunch with leaf := 8 }) := by simpa [stateMg] using hx
      subst this
      revert h; decide,
    by decide, by decide +kernel, ⟨_, .head _, by decide, .inl rfl⟩, ⟨by decide, .inr ⟨by decide, by decide⟩⟩, ⟨rfl, fun h => absurd h (by decide)⟩⟩

theorem test_hyp_ticket_expiry :
    let c := commandM 9 []
    tblFind (stateMg c).mgmt.tickets 4 = some ⟨8, 1, 0, 5, false⟩ ∧ 5 + 10 * 10 ^ 9 ≤ (stateMg c).time ∧ (stateMg c false 7).time < 5 + 10 * 10 ^ 9 := by decide

theorem test_hyp_attest :
    let c := commandM 7 [(12, 1), (45, 0x90)]
    let d := commandM 7 [(44, 8)]
    Spec.Turn1 (stateMg c) c [] 7 ∧ Spec.reservedZero c 52 64 ∧ 64 ∣ Spec.arg c 44 8 ∧ hostBase + Spec.arg c 44 8 + 4352 ≤ 2 ^ 48 ∧
    (stateMg c).mgmt.digest.length = 32 ∧ Spec.Turn1 (stateMg d) d [] 7 ∧ ¬ 64 ∣ Spec.arg d 44 8 :=
  ⟨turn_of (by decide) (by decide) rfl, by unfold Spec.reservedZero Spec.zero; decide, by decide, by decide, by decide, turn_of (by decide) (by decide) rfl,
    by decide⟩

/-- An image that verifies: a payload of 4096 zeros signed with the private key 2. -/
def headerM : List Byte :=
  leBytes 4 0x44534C50 ++ leBytes 4 6 ++ leBytes 4 4096 ++ leBytes 4 0 ++
    beBytes 32 0xad7facb2586fc6e966c004d7d1d16b024f5805ff7cb47c7a85dabd8b48892ca7 ++
    beBytes 32 0x7cf27b188d034f7e8a52380304b51ac3c08969e277f21b35a60b48fc47669978 ++
    beBytes 32 0x7775510db8ed040293d9ac69f7430dbba7dade63ce982299e04b79d227873d1
def imageM : List Byte :=
  headerM ++ beBytes 32 0x5ecbe4d1a6330a44c8f7ef951d4bf165e6c6b721efada985fb41661bc6e7fd6c ++
    beBytes 32 0xc62e5546658aaec3e974e61b7b5e367604da9eb5c6f9c3408a2a80f3bcce0d72 ++ List.replicate 80 0 ++ List.replicate 4096 0

/-- Hashing `n` blocks of zeros. -/
def zeroBlocks : Nat → List Word → List Word
  | 0, h => h
  | n + 1, h => zeroBlocks n (shaBlock h (List.replicate 64 0))
theorem shaBlocks_zeros (t : List Byte) (k : Nat) : ∀ (n : Nat) (h : List Word),
    shaBlocks (n + k) h (List.replicate (64 * n) 0 ++ t) = shaBlocks k (zeroBlocks n h) t
  | 0, h => by simp [zeroBlocks]
  | n + 1, h => by
    have e : List.replicate (64 * (n + 1)) (0 : Byte) = List.replicate 64 0 ++ List.replicate (64 * n) 0 := by
      rw [List.replicate_append_replicate]; congr 1; omega
    rw [show n + 1 + k = (n + k) + 1 by omega, shaBlocks, e, List.append_assoc, List.take_left' (by simp), List.drop_left' (by simp),
      shaBlocks_zeros t k n, zeroBlocks]
theorem zeros_0 : zeroBlocks 8 ((List.range 8).map (octetWord shaStart)) =
    [0x0d0043d7, 0x60ec5f44, 0x308a627c, 0x2aaa7eaf, 0xdc9d3733, 0xbc51da27, 0x933e0af5, 0x4105a7f5] := by decide +kernel
theorem zeros_1 : zeroBlocks 8 ([0x0d0043d7, 0x60ec5f44, 0x308a627c, 0x2aaa7eaf, 0xdc9d3733, 0xbc51da27, 0x933e0af5, 0x4105a7f5]) =
    [0x93fa7a18, 0xcb520314, 0x08d29f51, 0x10e42be6, 0xfc4a07de, 0x4d0e6502, 0x5156c97d, 0x72e04acf] := by decide +kernel
theorem zeros_2 : zeroBlocks 8 ([0x93fa7a18, 0xcb520314, 0x08d29f51, 0x10e42be6, 0xfc4a07de, 0x4d0e6502, 0x5156c97d, 0x72e04acf]) =
    [0xa1e9b19b, 0xa7d67264, 0x2e681b1f, 0x21534933, 0x24dd96fe, 0xd17d57c5, 0x95c94847, 0x8afc4d60] := by decide +kernel
theorem zeros_3 : zeroBlocks 8 ([0xa1e9b19b, 0xa7d67264, 0x2e681b1f, 0x21534933, 0x24dd96fe, 0xd17d57c5, 0x95c94847, 0x8afc4d60]) =
    [0xa8be47ba, 0x626eadda, 0x6a3c0989, 0xd0de47e5, 0xd8dece83, 0x4d65ec69, 0x69804a62, 0xda5bea98] := by decide +kernel
theorem zeros_4 : zeroBlocks 8 ([0xa8be47ba, 0x626eadda, 0x6a3c0989, 0xd0de47e5, 0xd8dece83, 0x4d65ec69, 0x69804a62, 0xda5bea98]) =
    [0xb934826e, 0x2fcb4755, 0x207fd5f2, 0xe52128af, 0xc1bf93ae, 0x5b034ceb, 0xa6e6ec7a, 0xb6cb4095] := by decide +kernel
theorem zeros_5 : zeroBlocks 8 ([0xb934826e, 0x2fcb4755, 0x207fd5f2, 0xe52128af, 0xc1bf93ae, 0x5b034ceb, 0xa6e6ec7a, 0xb6cb4095]) =
    [0xfed9368a, 0x19ea1df9, 0x3598f575, 0xe5e279c1, 0xcda2b07f, 0x7eb74ea4, 0xf2cb8a07, 0xa57e77dd] := by decide +kernel
theorem zeros_6 : zeroBlocks 8 ([0xfed9368a, 0x19ea1df9, 0x3598f575, 0xe5e279c1, 0xcda2b07f, 0x7eb74ea4, 0xf2cb8a07, 0xa57e77dd]) =
    [0x1018b490, 0xd3c81255, 0xff85f72f, 0xa273bed2, 0x49a0c6e7, 0x35433ee9, 0x08ef7ce1, 0xb491a392] := by decide +kernel
theorem zeros_7 : zeroBlocks 8 ([0x1018b490, 0xd3c81255, 0xff85f72f, 0xa273bed2, 0x49a0c6e7, 0x35433ee9, 0x08ef7ce1, 0xb491a392]) =
    [0x94a6fc34, 0x8a0a950d, 0x074bbf21, 0x1cc02c3d, 0x4ec7cba9, 0xd2dc7000, 0x00209369, 0xc35ceef4] := by decide +kernel
theorem zeroBlocks_add (a : Nat) : ∀ (n : Nat) (h : List Word), zeroBlocks (n + a) h = zeroBlocks a (zeroBlocks n h)
  | 0, h => by simp [zeroBlocks]
  | n + 1, h => by rw [show n + 1 + a = (n + a) + 1 by omega, zeroBlocks, zeroBlocks_add a n, zeroBlocks]
theorem image_digest : sha256 (List.replicate 4096 0) = beBytes 32 0xad7facb2586fc6e966c004d7d1d16b024f5805ff7cb47c7a85dabd8b48892ca7 := by
  have e : (List.replicate 4096 (0 : Byte)).length = 4096 := List.length_replicate
  rw [sha256, e, List.append_assoc, List.append_assoc, show (4096 + 8) / 64 + 1 = 64 + 1 by rfl, shaBlocks_zeros _ 1 64,
    show 64 = 8 + (8 + (8 + (8 + (8 + (8 + (8 + 8)))))) by rfl, zeroBlocks_add, zeros_0, zeroBlocks_add, zeros_1, zeroBlocks_add, zeros_2, zeroBlocks_add,
    zeros_3, zeroBlocks_add, zeros_4, zeroBlocks_add, zeros_5, zeroBlocks_add, zeros_6, zeros_7]
  decide +kernel
theorem header_digest : sha256 headerM = beBytes 32 0x94f33630e439f7c12a6ed3283782c096841b732fce7a5830b442ebe0ac37082d := by decide +kernel
theorem first_multiple : scalarMul 0xfbea5cb3dcde52aef29efe34568f1d759891c7059f81c96eb99ab2f79f01e110 (some (curveGx, curveGy)) 256 none =
    some (0x1b3242f7b7ea3740a129a75e2dafbc0baee14dd1fc834d40965461063fd8b443, 0x780cebad92c80d8e8cad664a0e99681247881f62f49409e350844cef814ec4e5) := by decide +kernel
theorem second_multiple : scalarMul 0x20ad1a59190d6a906b080e5d4b87145122a99d403caea8b1d0f8be5aeb0a222 (some (0x7cf27b188d034f7e8a52380304b51ac3c08969e277f21b35a60b48fc47669978, 0x7775510db8ed040293d9ac69f7430dbba7dade63ce982299e04b79d227873d1)) 256 none =
    some (0xc60da24ee386a1f12f3f4a42363c8de82de0199201bb14763c9a1566b1f054df, 0x71ca6a250b21be9c29e7c33244517697b660f703c4456edb78fda887daee7c4c) := by decide +kernel
theorem image_signature :
    ecdsaVerify 0x7cf27b188d034f7e8a52380304b51ac3c08969e277f21b35a60b48fc47669978 0x7775510db8ed040293d9ac69f7430dbba7dade63ce982299e04b79d227873d1
      0x5ecbe4d1a6330a44c8f7ef951d4bf165e6c6b721efada985fb41661bc6e7fd6c 0xc62e5546658aaec3e974e61b7b5e367604da9eb5c6f9c3408a2a80f3bcce0d72
      (sha256 headerM) = true := by
  rw [header_digest, ecdsaVerify, if_neg (by decide +kernel)]
  have w : invMod curveN 0xc62e5546658aaec3e974e61b7b5e367604da9eb5c6f9c3408a2a80f3bcce0d72 =
      0xe709933641b3d21f07f3d10c0e2bfb541396cba932733be38ca2737258d1059f := by decide +kernel
  simp only [w]
  rw [show beNat (beBytes 32 0x94f33630e439f7c12a6ed3283782c096841b732fce7a5830b442ebe0ac37082d) * 0xe709933641b3d21f07f3d10c0e2bfb541396cba932733be38ca2737258d1059f % curveN =
      0xfbea5cb3dcde52aef29efe34568f1d759891c7059f81c96eb99ab2f79f01e110 by decide +kernel,
    show 0x5ecbe4d1a6330a44c8f7ef951d4bf165e6c6b721efada985fb41661bc6e7fd6c * 0xe709933641b3d21f07f3d10c0e2bfb541396cba932733be38ca2737258d1059f % curveN =
      0x20ad1a59190d6a906b080e5d4b87145122a99d403caea8b1d0f8be5aeb0a222 by decide +kernel, first_multiple, second_multiple]
  decide +kernel

theorem test_hyp_image_verifies : Spec.ImageOk { keyHash := beBytes 32 0xd07aeb134840b15242e12d4a06ce3ab493cbd020ebc3bd5aaecd822f51e0c3d8 } imageM where
  magic := by decide +kernel
  length := by decide +kernel
  reserved := by unfold Spec.zero; decide +kernel
  key := by decide +kernel
  digest := by
    rw [show (imageM.drop 0x100).take (fieldAt imageM 8 4) = List.replicate 4096 0 by decide +kernel, image_digest]; decide +kernel
  version := by decide +kernel
  signature := by
    rw [show imageM.take 0x70 = headerM by decide +kernel, show beNat ((imageM.drop 0x30).take 32) =
        0x7cf27b188d034f7e8a52380304b51ac3c08969e277f21b35a60b48fc47669978 by decide +kernel, show beNat ((imageM.drop 0x50).take 32) =
        0x7775510db8ed040293d9ac69f7430dbba7dade63ce982299e04b79d227873d1 by decide +kernel, show beNat ((imageM.drop 0x70).take 32) =
        0x5ecbe4d1a6330a44c8f7ef951d4bf165e6c6b721efada985fb41661bc6e7fd6c by decide +kernel, show beNat ((imageM.drop 0x90).take 32) =
        0xc62e5546658aaec3e974e61b7b5e367604da9eb5c6f9c3408a2a80f3bcce0d72 by decide +kernel]
    exact image_signature

theorem test_hyp_image_load :
    let c := commandM 8 [(17, 0x90), (25, 0x11)]
    let d := commandM 8 [(12, 1)]
    let s : State := { stateMg c true with mem := hostCells 0x9000 imageM }
    let far := commandM 8 [(22, 0xFF), (25, 0x11)]
    Spec.Turn1 (stateMg c true) c [] 8 ∧ Spec.Turn1 (stateMg d) d [] 8 ∧ Spec.reservedZero c 12 16 ∧ Spec.reservedZero c 28 64 ∧ Spec.arg c 16 8 = 0x9000 ∧
    Spec.arg c 24 4 = 4352 ∧ ¬ Spec.reservedZero d 12 16 ∧ s.mgmt.recovery = true ∧ hostBase + 0x9000 + 4352 ≤ 2 ^ 48 ∧
    (∀ i, i < 4352 → imageM.getD i 0 = tblGet s.mem 0 (hostBase + 0x9000 + i)) ∧ 2 ^ 48 < hostBase + Spec.arg far 16 8 + Spec.arg far 24 4 ∧
    ¬ Spec.ImageOk s.mgmt (List.replicate 4352 0) :=
  ⟨turn_of (by decide) (by decide) rfl, turn_of (by decide) (by decide) rfl, by unfold Spec.reservedZero Spec.zero; decide,
    by unfold Spec.reservedZero Spec.zero; decide, by decide, by decide, by unfold Spec.reservedZero Spec.zero; decide, rfl, by decide,
    fun i _ => hostCells_get 0x9000 _ i, by decide, fun h => absurd h.magic (by decide +kernel)⟩

/-- A partition block without interfaces: clusters, then the fields of a leaf. -/
def blockP (l : List (Nat × Byte)) : List Byte := bytesWith 512 ([(0x5A, 20), (0x79, 0x40), (0x81, 0x70)] ++ l)
/-- Nothing is running, so that a partition may be configured. -/
def statePc (c : Command) (b : List Byte) : State := { stateMg c with launches := [], mem := hostCells 0x9000 b }

theorem fields_of {s : State} {key : Nat} {ch : Nat → Bool} {b : List Byte}
    (h : ((b.getD 0x58 0).toNat < 64 ∧ (1 ≤ fieldAt b 0x5A 2 ∧ fieldAt b 0x5A 2 ≤ 1000) ∧ fieldAt b 0x5C 4 ≤ 10000) ∧
      (4096 ∣ fieldAt b 0x60 8 ∧ 4096 ∣ fieldAt b 0x68 8 ∧ fieldAt b 0x68 8 = 0) ∧ (8 ∣ fieldAt b 0x78 8 ∧ fieldAt b 0x78 8 < 2 ^ 48) ∧
      (4096 ∣ fieldAt b 0x80 8 ∧ fieldAt b 0x80 8 < 2 ^ 48) ∧ Spec.boundVis b = [])
    (h2 : ((s.parts.filter (fun p => p.1 != key && !(key % 16 != 0 && p.1 == key / 16 * 16) && s.isLeaf p.1)).map (fun p => p.2.prshare)).sum + fieldAt b 0x70 2 ≤ 4096)
    (h3 : ∀ i, i < 16 → (fieldAt b (0x110 + 4 * i) 4).testBit 30 = false ∧ fieldAt b (0x110 + 4 * i) 4 / 2 ^ 11 % 32 = 0 ∧
      ((fieldAt b (0x110 + 4 * i) 4).testBit 31 = true → 1 ≤ fieldAt b (0x110 + 4 * i) 4 % 2048 ∧ fieldAt b (0x110 + 4 * i) 4 % 2048 ≤ 1024)) :
    Spec.LeafFields s key ch b :=
  ⟨h.1.1, h.1.2.1, h.1.2.2, ⟨h.2.1.1, h.2.1.2.1, fun n => absurd h.2.1.2.2 n⟩, ⟨by rw [h.2.2.2.2]; exact Nat.zero_le _, h2⟩, h.2.2.1, h.2.2.2.1, h3,
    fun v hv => by rw [h.2.2.2.2] at hv; cases hv⟩

theorem test_hyp_part_top :
    let b := blockP [(2, 0xF0), (0x11, 0xF), (0x31, 0xF)]
    let c := commandM 1 [(12, 2), (13, 0xFF), (17, 0x90)]
    Spec.Turn1 (stateMg c) c [] 1 ∧ Spec.partNamed (Spec.arg c 12 1) (Spec.arg c 13 1) 32 ∧ Spec.reservedZero c 14 16 ∧ Spec.reservedZero c 24 64 ∧
    Spec.arg c 16 8 = 0x9000 ∧ b.length = 512 ∧ (∀ i, i < 512 → b.getD i 0 = tblGet (statePc c b).mem 0 (hostBase + 0x9000 + i)) ∧
    (∀ x ∈ (statePc c b).launches, x.2.leaf ≠ 32) ∧ Spec.TopBlock (statePc c b) 32 b :=
  ⟨turn_of (by decide) (by decide) rfl, ⟨by decide, .inl ⟨by decide, by decide⟩⟩, by unfold Spec.reservedZero Spec.zero; decide,
    by unfold Spec.reservedZero Spec.zero; decide, by decide, by decide +kernel, fun i _ => hostCells_get 0x9000 _ i, (fun x h => by cases h),
    ⟨by unfold Spec.zero; decide +kernel, by unfold Spec.Apart; decide +kernel, fields_of (by decide +kernel) (by decide +kernel) (by decide +kernel)⟩⟩

/-- The cluster of the block is of the parent, and of no other child. -/
theorem child_clusters : ∀ n, n < 128 → Spec.setBit (blockP [(0, 4)]) 0 n = true →
    ((statePc (commandM 1 [(12, 0), (13, 1), (17, 0x90)]) (blockP [(0, 4)])).part (9 / 16 * 16)).clusters.getLsbD n = true ∧
    ∀ c, c < 8 → 9 / 16 * 16 + 8 + c ≠ 9 →
      ((statePc (commandM 1 [(12, 0), (13, 1), (17, 0x90)]) (blockP [(0, 4)])).part (9 / 16 * 16 + 8 + c)).configured = true →
      ((statePc (commandM 1 [(12, 0), (13, 1), (17, 0x90)]) (blockP [(0, 4)])).part (9 / 16 * 16 + 8 + c)).clusters.getLsbD n = false := by
  have two : ∀ n, n < 128 → Spec.setBit (blockP [(0, 4)]) 0 n = true → n = 2 := by decide +kernel
  intro n h hs
  obtain rfl := two n h hs
  exact ⟨by decide +kernel, by decide +kernel⟩

theorem test_hyp_part_child :
    let b := blockP [(0, 4)]
    let e := blockP []
    let bad := blockP [(0, 1)]
    let c := commandM 1 [(12, 0), (13, 1), (17, 0x90)]
    Spec.Turn1 (stateMg c) c [] 1 ∧ Spec.partNamed (Spec.arg c 12 1) (Spec.arg c 13 1) 9 ∧ Spec.setBit b 0 2 = true ∧ Spec.ChildBlock (statePc c b) 9 b ∧
    (∀ n, n < 128 → Spec.setBit e 0 n = false) ∧ ((statePc c b).part 0).configured = true ∧ (Spec.zero e 0x10 0x40 ∧ Spec.zero e 0x59 0x5A ∧ Spec.zero e 0x72 0x78 ∧ Spec.zero e 0x88 0x90 ∧
      Spec.zero e 0x150 0x200 ∧ ¬ Spec.zero b 0 1 ∧ ¬ Spec.zero (blockP [(0x59, 1)]) 0x59 0x5A) ∧ Spec.setBit bad 0 0 = true ∧
    ¬ Spec.ChildBlock (statePc c bad) 9 bad :=
  ⟨turn_of (by decide) (by decide) rfl, ⟨by decide, .inr ⟨by decide, by decide⟩⟩, by decide +kernel,
    ⟨by unfold Spec.zero; decide +kernel, by decide +kernel, child_clusters, by decide +kernel,
      fields_of (by decide +kernel) (by decide +kernel) (by decide +kernel)⟩,
    by decide +kernel, by decide +kernel, by unfold Spec.zero; decide +kernel, by decide +kernel,
    fun h => absurd ((h.clusters 0 (by decide) (by decide +kernel)).2 0 (by decide) (by decide) (by decide +kernel)) (by decide +kernel)⟩

/-- Partition 0, which has a child, keeps what that has. -/
theorem parent_clusters (s : State) (b : List Byte) (hc : ∀ c, c < 8 → (s.part (0 + 8 + c)).configured = true → c = 0)
    (hb : ∀ n, n < 128 → (s.part 8).clusters.getLsbD n = true → Spec.setBit b 0 n = true) :
    ∀ c, c < 8 → (s.part (0 + 8 + c)).configured = true → ∀ n, n < 128 → (s.part (0 + 8 + c)).clusters.getLsbD n = true → Spec.setBit b 0 n = true := by
  intro c h8 hc0
  obtain rfl := hc c h8 hc0
  exact hb
theorem test_hyp_part_parent :
    let b := bytesWith 512 [(0, 7), (0x10, 0xF)]
    let c := commandM 1 [(12, 0), (13, 0xFF), (17, 0x90)]
    Spec.partNamed (Spec.arg c 12 1) (Spec.arg c 13 1) 0 ∧ ((statePc c b).part (0 + 8 + 0)).configured = true ∧ Spec.ParentBlock (statePc c b) 0 b :=
  ⟨⟨by decide, .inl ⟨by decide, by decide⟩⟩, by decide +kernel, ⟨by unfold Spec.zero; decide +kernel, by unfold Spec.Apart; decide +kernel,
    parent_clusters _ _ (by decide +kernel) (by decide +kernel), by decide +kernel⟩⟩

theorem test_hyp_part_refused :
    let c := commandM 1 [(12, 0), (13, 0), (17, 0x90)]
    let d := commandM 1 [(12, 2), (13, 0xFF), (16, 1)]
    Spec.partNamed (Spec.arg c 12 1) (Spec.arg c 13 1) 8 ∧ Spec.busyPart (stateMg c) 8 ∧ Spec.Turn1 (stateMg d) d [] 1 ∧ ¬ 64 ∣ Spec.arg d 16 8 :=
  ⟨⟨by decide, .inr ⟨by decide, by decide⟩⟩, ⟨_, .head _, by decide, .inl rfl⟩, turn_of (by decide) (by decide) rfl, by decide⟩

/-! ### Hypotheses that are met: translation and moves -/

def walkT (stale : Bool) : Walk := { cluster := 0, leaf := 0, vi := 1, mode := .supervisor, addr := 0x9000, read := [⟨0, 0, 1, 2, 3, 0, 4096, 8193⟩], stale := stale }
def stateWalk (stale : Bool) (tlb : List TlbEntry) (mem : List Host.Cell := memWith []) : State :=
  { state0 with issue := none, flight := [], mem := mem, tlb := tlb, walks := [(4, walkT stale)] }
/-- The walk again: whether it is allowed, and what it reads. -/
def againOf (s : State) : Option (List TlbEntry) :=
  match ({ s with walks := tblErase s.walks 4 } : State).translate { leaf := 0, vi := 1, cluster := some 0, mode := .supervisor } {} 0x9000 with
  | .ok (_, es) => some es
  | .error _ => none
theorem again_some {s : State} {es : List TlbEntry} (h : againOf s = some es) :
    ∃ a, ({ s with walks := tblErase s.walks 4 } : State).translate { leaf := 0, vi := 1, cluster := some 0, mode := .supervisor } {} 0x9000 = .ok (a, es) := by
  unfold againOf at h
  split at h
  · next a es' h' => obtain rfl := Option.some.inj h; exact ⟨a, h'⟩
  · cases h
theorem again_none {s : State} (h : againOf s = none) :
    ∃ e, ({ s with walks := tblErase s.walks 4 } : State).translate { leaf := 0, vi := 1, cluster := some 0, mode := .supervisor } {} 0x9000 = .error e := by
  unfold againOf at h
  split at h
  · cases h
  · next e h' => exact ⟨e, h'⟩

theorem test_hyp_walks :
    let s := stateWalk true []
    tblFind s.walks 9 = none ∧ tblFind s.walks 4 = some (walkT true) ∧ (s.die ((walkT true).cluster / 13)).relocking = false ∧
    (({ s with dies := [(0, { relocking := true })] } : State).die ((walkT true).cluster / 13)).relocking = true ∧
    tblFind (stateWalk false []).walks 4 = some (walkT false) ∧
    (∃ es, againOf s = some es ∧ (∀ e ∈ es, Spec.unmarked s e.at_) ∧ ∃ e ∈ es, e ∉ s.tlb) ∧ s.exhausted 0 5 = false ∧ stateBudget.exhausted 0 5 = true ∧ (∃ es, againOf (stateWalk true [⟨0, 0, 1, 2, 3, 0, 4096, 8193⟩, ⟨0, 0, 1, 2, 2, 0, 8192, 15⟩]) = some es ∧
      ∀ e ∈ es, e ∈ [(⟨0, 0, 1, 2, 3, 0, 4096, 8193⟩ : TlbEntry), ⟨0, 0, 1, 2, 2, 0, 8192, 15⟩]) ∧
    againOf (stateWalk true [] []) = none ∧ tblErase s.walks 4 = [] :=
  ⟨rfl, rfl, by decide +kernel, by decide +kernel, rfl,
    ⟨(againOf (stateWalk true [])).getD [], by decide +kernel, by unfold Spec.unmarked; decide +kernel, by decide +kernel⟩, by decide +kernel, by decide +kernel,
    ⟨(againOf (stateWalk true [⟨0, 0, 1, 2, 3, 0, 4096, 8193⟩, ⟨0, 0, 1, 2, 2, 0, 8192, 15⟩])).getD [], by decide +kernel, by decide +kernel⟩,
    by decide +kernel, by decide +kernel⟩

def invalT (gid : Option Nat) (reached : List Nat) (writes : List Nat := []) : Inval :=
  { gid := gid, op := 3, leaf := 0, vi := 1, stage1 := true, stage2 := true, size := 4096, page := 0x9000, reached := reached, writes := writes, loads := [] }
/-- A store and an invalidation of the group are under way, and a write of its core is in flight. -/
def stateInval (x : Inval) (walks : Tbl Walk := []) : State :=
  { state0 { group0 with ops := [{ id := 3, cls := .st, kind := .tinv 50 }] } with issue := none, invals := [(50, x)], walks := walks }

theorem test_hyp_invalidations :
    let x := invalT (some 7) [0]
    tblFind (stateInval x).invals 50 = some x ∧ 0 ∈ x.reached ∧ ((stateInval x).part 0).clusters.getLsbD 5 = false ∧ 1 ∉ x.reached ∧
    ((stateInval x).part x.leaf).clusters.getLsbD 1 = true ∧ ((stateInval x).die (1 / 13)).relocking = false ∧
    ((∀ c, c < 104 → ((stateInval (invalT (some 7) [0, 1, 2])).part 0).clusters.getLsbD c = true → c ∈ [0, 1, 2]) ∧
      (∀ w ∈ (stateInval (invalT (some 7) [0, 1, 2])).walks, w.2.stale = true → w.2.leaf ≠ 0) ∧
      (∀ n ∈ [899], (stateInval (invalT (some 7) [0, 1, 2] [899])).performed n 6 = true)) ∧
    (invalT none [0, 1, 2]).gid = none ∧ (∃ g, (stateInval x).group 7 = some g ∧ g.ops = [{ id := 3, cls := .st, kind := .tinv 50 }]) ∧
    (stateInval (invalT (some 7) [0, 1, 2] [900])).performed 900 6 = false ∧ (stateInval x [(4, walkT true)]).walks.any (fun w => w.2.stale && w.2.leaf == 0) = true :=
  ⟨rfl, by decide, by decide +kernel, by decide, by decide +kernel, by decide +kernel, ⟨by decide +kernel, by decide +kernel, by decide +kernel⟩, rfl,
    ⟨_, rfl, rfl⟩, by decide +kernel, by decide +kernel⟩

/-- A load of the page that a walk has translated is still to be made, so an invalidation of what the walk has read waits. -/
theorem test_hyp_invalidation_waits :
    let w : Walk := { walkT false with out := some 8 }
    let k : OpKind := .load 4 false .w32 [{ lane := 0, mode := .user, loc := .sys 0x8000, read := false, val := 0 }]
    let s : State := { stateInval (invalT (some 7) []) [(4, w)] with groups := [(7, groupOp .ld k)] }
    (∃ e ∈ w.read, Spec.invalidates (invalT (some 7) []) e) ∧ Spec.usesWalk s w ∧ w.cluster = 0 :=
  ⟨⟨⟨0, 0, 1, 2, 3, 0, 4096, 8193⟩, .head _, ⟨rfl, .inr ⟨rfl, rfl⟩, .inr ⟨0x9000, by decide, by decide, by decide⟩⟩⟩,
    .inl ⟨_, .head _, rfl, by decide, _, .head _, (.sys 0x8000, _), .head _, 0x8000, rfl, by decide⟩, rfl⟩

def waitT (lane : Nat) (stage : Nat := 1) (op : Option Nat := none) : PageWait :=
  { leaf := 0, vi := 1, stage := stage, page := 0x77, acc := 2, user := true, gid := 7, lane := lane, op := op, again := false }
def reqT (page : Nat) (written : Bool := false) : PageReq :=
  { leaf := 0, vi := 1, stage := 1, page := page, acc := 2, user := true, tag := 44, gid := 7, again := true, written := written, lanes := [(7, 2)], ops := [] }
/-- The request ring lies at 0x8000, with room unless its size is 2. -/
def statePage (ws : List PageWait) (rs : Tbl PageReq) (ctl : BitVec 32 := 0x5102) : State :=
  { state0 with
    issue := none, flight := [], mem := memWith [], pageWaits := ws, pageReqs := rs, nextTag := 71
    parts := [(0, { configured := true, clusters := 7, channels := 1, slices := 1, s2root := placedTable, vis := [1], prshare := 1 })]
    vis := [(1, { prctl := ctl, prbase := 0x8000, prtail := 5, prhead := 3 })] }

theorem test_hyp_page_requests :
    let s := statePage [] [(60, reqT 0x78)]
    (∀ w ∈ s.pageWaits, ¬ (w.gid = 7 ∧ w.lane = 2)) ∧ (tblKeys s.pageReqs).Nodup ∧
    (∀ r ∈ (statePage [] [(60, reqT 0x78 true)]).pageReqs, (7, 2) ∈ r.2.lanes → r.2.written = true) ∧
    (¬ Spec.ringRoom ((statePage [] [(60, reqT 0x78)] 0x5101).vi 1)) ∧
    tblFind s.pageReqs 60 = some (reqT 0x78) ∧ (7, 2) ∈ (reqT 0x78).lanes ∧ (∀ p ∈ s.pageReqs, (7, 2) ∈ p.2.lanes → p = (60, reqT 0x78)) ∧
    s.pageReqs.count (60, reqT 0x78) = 1 ∧ (reqT 0x78).written = false ∧ (reqT 0x78).stage = 1 ∧ Spec.ringRoom (s.vi 1) ∧ Spec.ringMapped s 0 1 :=
  ⟨by decide, by decide, by decide, by unfold Spec.ringRoom; decide +kernel, rfl, by decide, by decide, by decide, rfl, rfl,
    by unfold Spec.ringRoom; decide +kernel,
    ⟨_, (identity_of_check (s := statePage [] [(60, reqT 0x78)]) (x := frontX 0 1) (by decide +kernel)).placed _ (by decide +kernel)⟩⟩

theorem test_hyp_page_faults :
    let s := statePage [waitT 3, waitT 4] []
    s.pageWaits = [waitT 3] ++ waitT 4 :: [] ∧ (∃ x ∈ [waitT 3], x.leaf = (waitT 4).leaf) ∧ (∀ x ∈ [waitT 3], ¬ (x.gid = 7 ∧ x.lane = 4)) ∧
    (statePage [waitT 4] [(60, reqT 0x77)]).pageWaits = [] ++ waitT 4 :: [] ∧ Spec.sameFault (waitT 4) (reqT 0x77) ∧
    (∀ p ∈ (statePage [waitT 4] [(60, reqT 0x77)]).pageReqs, Spec.sameFault (waitT 4) p.2 → p = (60, reqT 0x77)) ∧
    (∀ r ∈ (statePage [waitT 4] [(60, reqT 0x78)]).pageReqs, ¬ Spec.sameFault (waitT 4) r.2) ∧
    (let t := statePage [waitT 4] [(60, reqT 0x78)];
      t.pageReqs.filter (fun p => p.2.vi == (waitT 4).vi) ≠ [] ∧ (t.part 0).prshare ≤ (t.pageReqs.filter (fun p => p.2.leaf == 0)).length) ∧
    (let t := statePage [waitT 4] [];
      t.pageReqs.filter (fun p => p.2.vi == (waitT 4).vi) = [] ∧ Spec.ringRoom (t.vi 1) ∧ Spec.ringMapped t 0 1 ∧ (waitT 4).op = none) ∧
    (waitT 4 2).stage ≠ 1 ∧ (waitT 4 1 (some 6)).op = some 6 :=
  ⟨rfl, by decide, by decide, rfl, by unfold Spec.sameFault; decide, by unfold Spec.sameFault; decide, by unfold Spec.sameFault; decide, by decide +kernel,
    ⟨by decide +kernel, by unfold Spec.ringRoom; decide +kernel,
      ⟨_, (identity_of_check (s := statePage [waitT 4] []) (x := frontX 0 1) (by decide +kernel)).placed _ (by decide +kernel)⟩, rfl⟩,
    by decide, rfl⟩

def copyT (suspended : Bool) (ended : Bool := false) : CopyOp :=
  { src := 0x8000, dst := 0x9000, rows := 1, rowBytes := 64, sstride := 64, dstride := 64, credit := none, scope := 2, mode := .user, lane := 0
    done := [0, 1, 2], writes := [], ended := ended, suspended := suspended, pageTag := some 4, answered := true, credited := 1 }
def opT (suspended : Bool) (ended : Bool := false) : Op := { id := 1, cls := .cp, kind := .copy (copyT suspended ended) }
def mmaT : Op := { id := 2, cls := .tx, kind := .matrix { act := .mma 3, set := 1, kd := 3, words := [0, 0, 0, 0, 2 ^ 17], lane := 0 } }
/-- The test group with some operations; its launch starts again at 0x4560. -/
def stateMove (ops : List Op) (res : Bool) (restart : Bool := false) (core : Nat := 0) : State :=
  { state0 { group0 with ops := ops, resident := res, core := core } with
    issue := none
    flight := []
    tiles := [(5, { owner := .piece 11, leaf := 0, reg := 3, shape := 0x5000010008000000, size := 8, base := 0, state := .ready, bytes := [] })]
    launches := [(3, if restart then { placedLaunch with record := placedLaunch.record.take 0x38 ++ leBytes 8 0x4560 ++ placedLaunch.record.drop 0x40 } else placedLaunch)] }

/-- No group is stuck for R83, and the test group lies in no gang. -/
theorem turn_of_stuck {s : State} {gid leaf : Nat} (h : s.stuck = []) : Spec.HasTurn s gid leaf :=
  .inr fun n hn => by rw [h] at hn; cases hn
theorem lone_of {g : Group} {l : Launch} (hp : g.pieces = [11]) (hl : (Spec.LEVEL l.record 1).testBit 8 = false) : Spec.lone g l := by
  intro i hi _
  rw [hp] at hi
  obtain rfl : i = 0 := by simpa using hi
  exact hl

theorem test_hyp_preempt :
    let s := stateMove [opT true] true
    ∃ g l, s.awake 7 = some g ∧ s.launchOf g = some l ∧ Spec.leaves s 7 g l ∧ ¬ Spec.discards g l ∧
      (g.ops.map (fun o => o.id)).Nodup ∧ s.awake 8 = none ∧ Spec.HasTurn s 7 g.leaf ∧ Spec.lone g l ∧ (tblKeys (s.core g.core).sets).Nodup := by
  refine ⟨_, _, rfl, rfl, ⟨rfl, rfl, by decide +kernel, (fun w h => by cases h), ?_, ?_, ?_⟩, ?_, by decide +kernel, rfl,
    turn_of_stuck (by decide +kernel), lone_of rfl (by decide +kernel), by decide +kernel⟩
  · intro o h
    obtain rfl := List.mem_singleton.mp h
    exact .inr ⟨by decide, by decide, .inr (.inr (.inr (.inr (.inr (.inr ⟨copyT true, rfl, .inl rfl⟩)))))⟩
  · intro f h; cases h
  · intro _ o h ht
    obtain rfl := List.mem_singleton.mp h
    exact absurd ht (by decide)
  · intro h; exact h.1 (by decide +kernel)

/-- A copy that a page holds is suspended, and credits the bytes it has written. -/
def copyU : CopyOp := { copyT false with credit := some 44, pageTag := none }
def opU : Op := { id := 1, cls := .cp, kind := .copy copyU }
def stateU : State :=
  { stateMove [opU] true with
    barriers := [(44, { owner := .piece 11, leaf := 0, scope := 3, far := none, exparr := 1, expb := 64, landb := 5 })]
    pageReqs := [(60, { reqT 0x78 with lanes := [], ops := [(7, 1)] })] }
theorem test_hyp_preempt_credit :
    ∃ g, stateU.awake 7 = some g ∧ opU ∈ g.ops ∧ Spec.letsGo stateU 7 opU ∧ opU.kind.copy? = some copyU ∧ copyU.credit = some 44 ∧
      Spec.suspended stateU 7 opU ≠ opU ∧ (∀ p ∈ g.ops, p ≠ opU → ∀ d e, p.kind.copy? = some d → d.credit = some e → e.toNat = 44 → Spec.suspended stateU 7 p = p) ∧
      ∃ x, tblFind stateU.barriers 44 = some x :=
  ⟨_, rfl, .head _, .inr ⟨by decide, by decide, .inr (.inr (.inr (.inr (.inr (.inr ⟨copyU, rfl, .inr ⟨rfl, by decide +kernel, by decide +kernel, by decide +kernel, rfl⟩⟩)))))⟩, rfl, rfl,
    by decide +kernel, fun p h n => absurd (List.mem_singleton.mp h) n, _, rfl⟩

theorem test_hyp_preempt_again :
    let s := stateMove [mmaT] true true
    ∃ g l, s.awake 7 = some g ∧ s.launchOf g = some l ∧ Spec.leaves s 7 g l ∧ Spec.discards g l ∧ ((∀ o ∈ g.ops, ∀ r n c, o.kind ≠ .wbld r n c) ∧ (g.ops.map (fun o => o.id)).Nodup) ∧ Spec.HasTurn s 7 g.leaf ∧ Spec.lone g l := by
  refine ⟨_, _, rfl, rfl, ⟨rfl, rfl, by decide +kernel, (fun w h => by cases h), ?_, ?_, ?_⟩, ⟨by decide +kernel, ⟨mmaT, .head _, _, 3, rfl, rfl, rfl, by decide +kernel⟩, by decide +kernel⟩, ?_, turn_of_stuck (by decide +kernel), lone_of rfl (by decide +kernel)⟩
  · intro o h
    obtain rfl := List.mem_singleton.mp h
    exact .inr ⟨by decide, by decide, .inr (.inl ⟨_, rfl⟩)⟩
  · intro f h; cases h
  · intro _ o h _
    obtain rfl := List.mem_singleton.mp h
    exact .inr (.inl ⟨_, rfl⟩)
  · exact ⟨(fun o h => by obtain rfl := List.mem_singleton.mp h; exact (fun _ _ _ h => by cases h)), by decide +kernel⟩

/-- A group with a load under way does not leave. -/
theorem test_hyp_preempt_stays :
    let s := stateMove [{ id := 1, cls := .ld, kind := .empty }] true
    ∃ g l, s.awake 7 = some g ∧ s.launchOf g = some l ∧ ¬ Spec.leaves s 7 g l :=
  ⟨_, _, rfl, rfl, fun h => by
    rcases h.2.2.2.2.1 _ (.head _) with e | e
    · exact absurd e (by decide)
    · exact e.1 rfl⟩

theorem test_hyp_restore :
    let s := stateMove [opT true] false
    ∃ g l, s.group 7 = some g ∧ s.launchOf g = some l ∧ Spec.MayResume s 7 g l 0 5 ∧ ¬ Spec.MayResume s 7 g l 0 64 ∧ g.hostcall.held = false ∧ Spec.lone g l ∧ (tblKeys (s.core g.core).sets).Nodup := by
  refine ⟨_, _, rfl, rfl, ⟨⟨rfl, rfl, by decide +kernel, by decide +kernel⟩, by decide +kernel, by decide +kernel, ?_, ?_, ?_, ?_, ?_, ?_⟩, fun h => absurd h.place.2.1 (by decide), rfl,
    lone_of rfl (by decide +kernel), by decide +kernel⟩
  · intro x h hf hr
    obtain rfl := List.mem_singleton.mp h
    cases hr
  · intro x h _
    obtain rfl := List.mem_singleton.mp h
    unfold Spec.handleOn; decide
  · intro x h; cases h
  · intro h; exact absurd rfl h
  · intro pid x _ _ o h hn
    obtain rfl := List.mem_singleton.mp h
    exact absurd rfl hn
  · intro w h; cases h

/-- A lane is parked for a page whose answer is FAIL, and the answer of its host call has come. -/
def stateBack : State :=
  { stateMove [] false with
    groups := [(7, { group0 with
      resident := false
      hostcall := { waiting := true, seq := 3, kd := 9, lanes := 4, held := true }
      lanes := [(0, { lane0 .user with park := .page, fault := 0x1900000000 }), (2, { lane0 .user with park := .hostcall }), (3, { lane0 .user with park := .monitor })] })]
    vis := [(1, { hctl := 0x103, hbase := 0x8000 })]
    mem := memWith [(0x81F8, 9)] }
theorem test_hyp_restore_parked :
    ∃ g, stateBack.group 7 = some g ∧
      (∀ j, j < 32 → (g.lane j).park = .page → (g.lane j).fault.getLsbD 36 = true → (g.lane j).fault.getLsbD 35 = true → (trapMode g (g.lane j).mode).isSome = true) ∧
      (g.lane 0).park = .page ∧ (g.lane 0).fault.getLsbD 36 = true ∧ (g.lane 0).fault.getLsbD 35 = true ∧ g.hostcall.held = true ∧
      (∃ bs, (stateBack.frontLoad 0 1 g.launch ((stateBack.vi 1).hostcallSlot g.hostcall.seq + 0x38) 8).2 = some bs) ∧ stateBack.softNext = [] ∧
      stateBack.hardNext = [] ∧
      (g.lane 2).park = .hostcall ∧ g.hostcall.lanes.getLsbD 2 = true ∧ (g.lane 3).park = .monitor :=
  ⟨_, rfl, by decide +kernel, by decide +kernel, by decide +kernel, by decide +kernel, rfl,
    Option.isSome_iff_exists.mp (by decide +kernel), rfl, rfl, by decide +kernel, by decide +kernel, by decide +kernel⟩

theorem test_hyp_copy_resume (e : Bool) :
    ∃ g, (stateMove [opT true e] true).awake 7 = some g ∧ opT true e ∈ g.ops ∧ (∀ p ∈ g.ops, p.id = 1 → p = opT true e) ∧
      (opT true e).kind.copy? = some (copyT true e) ∧ (opT true e).ended = false ∧ g.resident = true ∧ (copyT true e).suspended = true ∧
      (stateMove [opT true e] true).pageHeld 7 1 = false ∧ (copyT true e).ended = e ∧ (copyT false).suspended = false :=
  ⟨_, rfl, .head _, fun p h _ => List.mem_singleton.mp h, rfl, rfl, rfl, rfl, rfl, rfl, rfl⟩

def migT (ph : MigPhase) (approved : Bool := true) (markers : List Nat := []) (drops : Nat := 0) : Migration :=
  { phase := ph, approved := approved, involved := [1, 9], markers := markers, drops := drops, stopped := 10 ^ 10 - 100000000 }
/-- Partition 0 is a leaf with a ticket; partition 16 asks the host about every phase. -/
def stateMig (m : Option Migration) (res : Bool := false) : State :=
  { State.reset with
    time := 10 ^ 10 + 5, dpkg := 6, routes := [1, 6, 9], mem := []
    mgmt := { tickets := [(3, ⟨0, 1, 16, 900, true⟩), (4, ⟨0, 1, 16, 900, false⟩)] }
    parts := [(0, { configured := true, clusters := 0xFF, vis := [1] }), (16, { configured := true, clusters := 0xF00, vis := [3], modes := 16 })]
    migrations := (match m with | some m => [(0, m)] | none => [])
    launches := [(3, { placedLaunch with leaf := 0, error := 4 }), (4, { placedLaunch with parent := some 3 })]
    groups := [(7, { group0 with resident := res })]
    pieces := [(11, { launch := 3, level := 1, parent := none, org := [0, 0, 0, 0], ext := [3, 1, 1, 1], pos := 0, pop := 3, bar := 0,
                      barpkg := 0, subs := [] })] }

theorem test_hyp_migration_begins :
    let s := stateMig none
    Spec.isLeafPart s 0 ∧ (s.part 0).drain = 0 ∧ (4, (⟨0, 1, 16, 900, false⟩ : Ticket)) ∈ s.mgmt.tickets ∧ Spec.validTicket s 0 ⟨0, 1, 16, 900, false⟩ ∧
    (∀ x ∈ s.mgmt.tickets, Spec.validTicket s 0 x.2 → x = (4, ⟨0, 1, 16, 900, false⟩)) ∧ tblFind s.migrations 0 = none ∧
    (∀ x ∈ s.mgmt.tickets, ¬ Spec.validTicket s 16 x.2) ∧ ¬ Spec.isLeafPart s 32 ∧ (s.part 16).modes.getLsbD 4 = true ∧ (s.part 0).modes.getLsbD 4 = false :=
  ⟨⟨rfl, fun _ => by decide +kernel⟩, rfl, by decide, by unfold Spec.validTicket; decide +kernel, by unfold Spec.validTicket; decide +kernel, rfl,
    by unfold Spec.validTicket; decide +kernel, fun h => absurd h.1 (by decide +kernel), by decide +kernel, by decide +kernel⟩

theorem test_hyp_migration_phases (ph : MigPhase) :
    let s := stateMig (some (migT ph))
    tblFind s.migrations 0 = some (migT ph) ∧ (migT ph).approved = true ∧
    Spec.Still s 0 ∧
    ¬ (migT ph).stopped + 200000000 < s.time ∧ (s.launches.map (·.1)).Nodup ∧ (s.groups.map (·.1)).Nodup ∧ (migT ph false).approved = false ∧
    (∃ x ∈ (stateMig (some (migT ph)) true).groups, x.2.leaf = 0 ∧ x.2.freed = false ∧ x.2.resident = true) := by
  refine ⟨rfl, rfl, ⟨?_, (fun w h => by cases h), fun x h => by cases h⟩, by show ¬ 10 ^ 10 - 100000000 + 200000000 < 10 ^ 10 + 5; decide, by show [3, 4].Nodup; decide, by show [7].Nodup; decide, rfl, ⟨_, List.mem_singleton.mpr rfl, rfl, rfl, rfl⟩⟩
  intro x h _
  obtain rfl := List.mem_singleton.mp h
  exact .inr ⟨rfl, fun o h => by cases h⟩

/-- A migration in its stream, with a page to send, and in its delta; a leaf with a checkpoint; an interface whose last stop is long past. -/
theorem test_hyp_migration_sends :
    let m : Migration := { migT .stream with dst := 1, send := [(0x5000, 0x9000), (0x6000, 0xA000)] }
    let d : Migration := { migT .delta with dst := 1, sent := true }
    let s := stateMig (some m)
    m.approved = true ∧ m.send = (0x5000, 0x9000) :: [(0x6000, 0xA000)] ∧ m.dst ≠ s.dpkg ∧ (migT .stream).send = [] ∧ (migT .delta).sent = false ∧
    d.sent = true ∧ tblFind s.mgmt.checkpoints 0 = none := ⟨rfl, rfl, by decide, rfl, rfl, rfl, rfl⟩
theorem test_hyp_migration_waits :
    let s := stateMig none
    ¬ (∃ w ∈ s.outwait, w.1 = 0) ∧ (∃ w ∈ ({ s with outwait := [(0, .packet (packetE .marker))] } : State).outwait, w.1 = 0) ∧
    ({ migT .delta with stopped := 5 } : Migration).stopped + 200000000 < s.time ∧ s.limited 0 2 = false ∧ s.exhausted 0 2 = false ∧ (migT .delta).from_ = none ∧
    ({ migT .delta with from_ := some (0x4000, 64) } : Migration).from_ = some (0x4000, 64) ∧ hostBase + 0x4000 + 64 ≤ 2 ^ 48 ∧ tblFind ({ s.mgmt with checkpoints := [(0, (0x4000, 64))] } : Mgmt).checkpoints 0 = some (0x4000, 64) :=
  ⟨(fun ⟨w, h, _⟩ => by cases h), ⟨_, .head _, rfl⟩, by decide +kernel, by decide +kernel, by decide +kernel, rfl, rfl, by decide, by decide⟩

/-- A gang of two groups. -/
def gangLaunch : Launch := { placedLaunch with record := (placedLaunch.record.set 2 2).set 0x61 1 }
def stateGang (res : Bool) : State :=
  { stateMove [] true with
    launches := [(3, gangLaunch)]
    groups := [(7, { group0 with resident := res }), (8, { group0 with resident := res, ctx := 1 })] }
theorem test_hyp_gang :
    Spec.leaves (stateGang true) 7 group0 gangLaunch ∧ Spec.canLeave (stateGang true) 8 ∧
    (stateGang false).group 8 = some { group0 with resident := false, ctx := 1 } ∧ Spec.HasTurn (stateGang true) 7 0 := by
  have h : ∀ g : Group, g.ops = [] → g.f = [] → g.resident = true → g.freed = false → (stateGang true).overdue g = false →
      ∀ n, Spec.leaves (stateGang true) n g gangLaunch := fun g ho hf hr hd ht n =>
    ⟨hr, hd, ht, (fun w h => by cases h), (fun o h => by rw [ho] at h; cases h), (fun f h => by rw [hf] at h; cases h), fun _ o h => by rw [ho] at h; cases h⟩
  refine ⟨h _ rfl rfl rfl rfl (by decide +kernel) _, ⟨{ group0 with ctx := 1 }, gangLaunch, by decide +kernel, by decide +kernel, h _ rfl rfl rfl rfl (by decide +kernel) _⟩, by decide +kernel,
    turn_of_stuck (by decide +kernel)⟩

theorem test_hyp_gang_mate : Spec.Mate (stateGang true) group0 gangLaunch 8 :=
  ⟨0, { group0 with ctx := 1 }, by decide, by decide, by decide +kernel, fun k h0 h1 => absurd h1 (by have : group0.pieces.length = 1 := by decide
                                                                                                      omega),
    by decide +kernel, by decide, by decide, by decide⟩

/-- What a migration brings to leaf 0, which expects it from leaf 4 of package 0x106, and to leaf 16, which expects nothing. -/
def stateCarry (leaf part_ : Nat) : State :=
  { state0 with
    inbox := [(60, { packetE (.carry leaf part_ 0x8000 [1, 2]) with srcLeaf := 4 })]
    mgmt := { expected := [(0, (0x106, 4))], incoming := [(0, [(7, 9)])] } }
theorem test_hyp_arrives :
    (∀ part_ ∈ [0, 1, 2], tblFind (stateCarry 0 part_).inbox 60 = some { packetE (.carry 0 part_ 0x8000 [1, 2]) with srcLeaf := 4 } ∧
      tblFind (stateCarry 0 part_).mgmt.expected 0 = some (0x106, 4)) ∧
    tblFind (stateCarry 16 0).mgmt.expected 16 ≠ some (0x106, 4) ∧
    (match (stateCarry 0 0).stage2 ⟨0, 0, none, .supervisor⟩ { w := true } 0x8000 with | .ok _ => true | .error _ => false) = true := by decide +kernel

theorem test_hyp_cut :
    let s := stateMig (some (migT .cutStop))
    tblFind s.migrations 0 = some (migT .cutStop) ∧ Spec.leafOff s 0 ∧ ¬ Spec.leafOff (stateMig (some (migT .cutStop)) true) 0 ∧
    (∀ d ∈ (migT .cutStop).involved, d ≠ s.dpkg) ∧ (∀ d ∈ (migT .cutDrain).involved, d ∈ (migT .cutDrain true [9, 1]).markers) ∧
    ¬ (∀ d ∈ (migT .cutDrain).involved, d ∈ (migT .cutDrain true [9]).markers) ∧ hostBase + (0x50 : BitVec 48).toNat ≤ 2 ^ 48 := by
  refine ⟨rfl, fun x h _ => ?_, fun h => ?_, by decide +kernel, by decide, by decide, by decide⟩
  · obtain rfl := List.mem_singleton.mp h; exact .inr rfl
  · rcases h _ (.head _) rfl with e | e <;> cases e

theorem test_hyp_migration_fails :
    let s := stateMig (some (migT .cutDrain true [] 1))
    tblFind s.migrations 0 = some (migT .cutDrain true [] 1) ∧ (migT .cutDrain true [] 1).drops ≠ 0 ∧ (migT .stop).drops = 0 ∧
    ¬ Spec.spansPod s 0 ∧ Spec.spansPod { s with launches := [(3, { placedLaunch with record := placedLaunch.record.take 0x60 ++ [5] ++ placedLaunch.record.drop 0x61 })] } 0 ∧
    3 ∈ (s.launches.filter (fun x => x.2.leaf == 0 && x.2.parent.isNone && x.2.phase != .completing && x.2.phase != .completed)).map (·.1) ∧
    Spec.isLeafPart s 0 ∧ ¬ Spec.isLeafPart s 32 ∧ Spec.UnderAny s [3] 4 :=
  ⟨rfl, by decide, rfl, by unfold Spec.spansPod; rintro ⟨p, hp, l, hl, _, hd⟩; obtain rfl := List.mem_singleton.mp hp; obtain rfl := Option.some.inj hl; exact absurd hd (by decide +kernel),
    ⟨_, .head _, _, rfl, rfl, by decide +kernel⟩, by decide +kernel, ⟨rfl, fun _ => by decide +kernel⟩, fun h => absurd h.1 (by decide +kernel),
    .child _ 3 _ rfl rfl (.self _ (.head _))⟩

/-! ### Hypotheses that are met: the board -/

def dieB : Die := { mhz := 1700, since := 1000, cyc0 := 5, base := 7, ratio := 17000000 }
def stateDie (d : Die) (m : Mgmt := { ready := true }) (time : Nat := 50000) : State :=
  { State.reset with time := time, mem := [], dies := [(2, d)], mgmt := m }

/-- A machine with the steps of die 2 ordered, and the package's last step at the time given. -/
def stateStep (w : List (Int × Bool)) (last : Nat := 0) (relocking : Bool := false) (time : Nat := 200000) : State :=
  stateDie { dieB with stepWaits := w, relocking := relocking, relockEnd := 50000 } { ready := true, lastStep := last } time

theorem test_hyp_clock_steps :
    Spec.takesNone (stateStep []) ((stateStep []).die 2) ∧ Spec.takesNone (stateStep [(100, false)] 150000) ((stateStep [(100, false)] 150000).die 2) ∧
    Spec.takesNext (stateStep [(100, false), (-100, true)] 150000) ((stateStep [(100, false), (-100, true)] 150000).die 2) (-100, true) [(100, false)] ∧
    Spec.takesNext (stateStep [(100, false)]) ((stateStep [(100, false)]).die 2) (100, false) [] ∧
    ((stateStep []).die 2).relocking = false ∧
    (let d := (stateStep [] 0 true).die 2
     d.relocking = true ∧ d.tripped = false ∧ d.relockEnd ≤ (stateStep [] 0 true).time ∧ 600 ≤ d.mhz) ∧
    (stateStep [] 0 true 40000).time < ((stateStep [] 0 true 40000).die 2).relockEnd ∧ ((stateDie { dieB with tripped := true }).die 2).tripped = true :=
  ⟨⟨fun y h => (by cases h), .inl rfl⟩, ⟨by decide +kernel, .inr (by decide)⟩, .inl ⟨[(100, false)], [], by decide +kernel, rfl, rfl, by decide⟩,
    .inr ⟨by decide +kernel, by decide +kernel, by decide⟩, by decide +kernel, by decide +kernel, by decide +kernel, by decide +kernel⟩

def stateWatts (ws : List Nat) (low : Option Nat := none) (sampled : Option Nat := none) (time : Nat := 10000005) : State :=
  { stateDie dieB { ready := true, watts := ws, lowSince := low, sampled := sampled } time with
    dies := [(1, { mhz := 1800, target := 1800 }), (2, { mhz := 1500 }), (3, { mhz := 1900 })] }

/-- The samples that a mean is of. -/
def lastTen (s : State) (w : Nat) : List Nat := ((s.mgmt.watts ++ [w]).reverse.take 10).reverse
theorem test_hyp_power :
    let above := stateWatts (List.replicate 10 2100)
    let idle := stateWatts (List.replicate 10 1000) (some 5)
    (10 ≤ (lastTen above 2100).length ∧ above.mgmt.plimit * (lastTen above 2100).length < (lastTen above 2100).sum ∧ Spec.fastest above 3 ∧
      700 ≤ Spec.dueClock above 3) ∧
    (10 ≤ (lastTen idle 1000).length ∧ (lastTen idle 1000).sum < (idle.mgmt.plimit - 50) * (lastTen idle 1000).length ∧
      idle.mgmt.lowSince.getD idle.time + 10000000 ≤ idle.time ∧ ¬ idle.mgmt.plimit * (lastTen idle 1000).length < (lastTen idle 1000).sum ∧
      Spec.slowest idle 2 ∧ (∀ k, k < 8 → Spec.dueClock idle k ≤ 2000) ∧ Spec.dueClock idle 2 ≤ 1900) ∧
    (∀ k, k < 8 → ((stateDie { dieB with mhz := 2000 }).die k).target ≤ Spec.dueClock (stateDie { dieB with mhz := 2000 }) k) ∧
    ¬ 10 ≤ (lastTen (stateWatts [1, 2]) 3).length ∧ (stateWatts [] none (some 9999999)).time < 9999999 + 100000 ∧ above.mgmt.sampled = none := by
  unfold Spec.fastest Spec.slowest Spec.dueClock; decide +kernel

theorem test_hyp_hot :
    700 ≤ Spec.dueClock (stateStep []) 2 ∧ Spec.dueClock (stateDie { dieB with mhz := 650 }) 2 < 700 ∧
    ((stateStep [] 0 true).die 2).relocking = true ∧ 700 ≤ Spec.dueClock (stateStep [] 0 true) 2 ∧
    (∀ y ∈ ((stateStep [(100, false)]).die 2).stepWaits, y.2 = false) ∧
    Spec.takesNone (stateDie { dieB with mhz := 650 }) ((stateDie { dieB with mhz := 650 }).die 2) := by
  unfold Spec.takesNone Spec.dueClock; decide +kernel

def stateTrip : State := { state0 with launches := [(3, { placedLaunch with error := 7 }), (4, { placedLaunch with parent := some 3 })] }
theorem test_hyp_trip :
    (stateTrip.launches.map (·.1)).Nodup ∧ (stateTrip.groups.map (·.1)).Nodup ∧ stateTrip.launch 3 = some { placedLaunch with error := 7 } ∧
    3 ∈ (stateTrip.launches.filter (fun x => x.2.parent.isNone && x.2.phase != .completing && x.2.phase != .completed)).map (·.1) ∧
    Spec.UnderAny stateTrip [3] 4 :=
  ⟨by decide +kernel, by decide +kernel, rfl, by decide +kernel, .child _ 3 _ rfl rfl (.self _ (.head _))⟩

theorem test_hyp_boot :
    (State.reset.mgmt.ready = false ∧ State.reset.mgmt.recovery = false ∧ State.reset.mgmt.digest = []) ∧
    ({ State.reset.mgmt with digest := [1] } : Mgmt).digest ≠ [] ∧ (3 < 4 ∧ 3 ∉ State.reset.cxlDown) ∧ State.reset.time = 0 ∧
    (∀ img, ({ State.reset.mgmt with flash := some img } : Mgmt).flash.getD Config.flashImage = img) ∧ ¬ Spec.ImageOk State.reset.mgmt [] :=
  ⟨by decide +kernel, by decide, by decide +kernel, rfl, fun _ => rfl, fun h => absurd h.magic (by decide)⟩

/-! ### Terms that no word of the manual holds -/

theorem test_ill_formed_counts_and_pairs : ∀ i ∈ ([.loop (.short 0), .sel 5 4 (.v 6) 1 true none, .sel 4 5 (.v 6) 1 true none, .sel 4 6 (.v 7) 1 true none,
    .smov 5 0x80 .short, .rng 1 2 5 .short, .cvtFI 5 6 .f64 .short, .cvtIF 5 6 .i64 .short, .cvtIF 5 6 .n64 .short,
    .cvtFF 5 6 .f64 false .short, .ugetFadd 5 4 (.v 6) true 0 none, .ugetFadd 4 4 (.v 7) true 0 none, .uputFadd 4 (.v 7) true 0 none,
    .ucmpx 5 4 (.v 6) 6 true 0 none, .ucmpx 4 4 (.v 7) 6 true 0 none, .ucmpx 4 4 (.v 6) 7 true 0 none] : List Instr),
    i.wellFormed = false := by decide

theorem test_ill_formed_numbers : ∀ i ∈ ([.smov 4 0x06 .short, .smov 4 0x1C .short, .smov 4 0x83 .short, .smov 4 0x98 .short,
    .ctlrd 4 0x03 .short, .ctlrd 4 0x17 .short, .ctlwr 4 0x20 .short, .aptest 1 4 5 .short, .errrd 4 6 .short,
    .uputI32 4 (.v 5) .swap 0 none, .uputI64 4 (.d 6) .swap 0 none] : List Instr), i.wellFormed = false := by decide

theorem test_ill_formed_scopes : ∀ i ∈ ([.ldGI8 5 4 0 (.long 11 none), .ldGN8 5 4 0 (.long 11 none), .ldGI16 5 4 0 (.long 11 none),
    .ldGN16 5 4 0 (.long 11 none), .ldG32 5 4 0 (.long 11 0 none), .ldG64 6 4 0 (.long 11 0 none), .stG8 5 4 0 (.long 11 none),
    .stG16 5 4 0 (.long 11 none), .stG32 5 4 0 (.long 11 none), .stG64 6 4 0 (.long 11 none), .cp 8 9 (.long 11 none), .fence 1 11 false,
    .mon 4 (.long 11 none), .ugetI32 5 4 (.v 6) .add 11 none, .ugetI64 6 4 (.d 8) .add 11 none, .ugetFadd 4 4 (.v 6) true 11 none,
    .uputI32 4 (.v 5) .add 11 none, .uputI64 4 (.d 6) .add 11 none, .uputFadd 4 (.v 6) true 11 none, .ucmpx 4 4 (.v 6) 8 true 11 none,
    .mepi 1 8 .f32 11 none, .msave 1 8 11 none] : List Instr), i.wellFormed = false := by decide

theorem test_ill_formed_load_tags : ∀ i ∈ ([.ldG32 5 4 0 (.long 0 3 none), .ldG32 5 4 0 (.long 0 4 none), .ldG32 5 4 0 (.long 0 6 none),
    .ldG32 5 4 0 (.long 0 14 none), .ldG64 6 4 0 (.long 0 1 none), .ldG64 6 4 0 (.long 0 5 none)] : List Instr), i.wellFormed = false := by decide

theorem test_ill_formed_bases : ∀ i ∈ ([.cp 61 9 .short, .wset 1 61 false, .hcall 61 0 .short, .mmaTb8 57 none, .mmaTb6 57 none, .mmaTb4 57 none,
    .mmaBf16 57 none, .mmaF16 57 none, .mmaF32 57 none, .mepi 1 62 .f32 0 none, .wbld 62 none, .mbias 1 63 none, .asnRun 59 none,
    .asnCont 59 none, .asnBest 59 none, .asnInv 59 none, .asnChk 59 none, .fwr 62 8 none, .frd 62 8 none, .fatom 8 63 true none,
    .fsend 62 none, .fevent 63 none, .bopen 8 61 none, .bpush 62 none, .bclose 62 none] : List Instr), i.wellFormed = false := by decide

/-! ### Examples and corners that the manual gives -/

/-- V4 of the three lanes after an instruction on the test state, and its tag. -/
def v4After (i : Instr) (pfx : Prefixes := {}) : Option (List Word × Tag) :=
  ((after (exec i (state0 group0 (issue0 pfx)))).group 7).map (fun (g : Group) => ([g.vGet .user 4 0, g.vGet .user 4 2, g.vGet .user 4 3], g.tag .user 4))

/-- R146: 7 / 3, the least number by -1, and 0 by 0. -/
theorem test_div : (v4After (.divI32 4 5 (.v 6) .short)).map (·.1) = some [2, 0x80000000, 0xFFFFFFFF] := by decide +kernel
theorem test_div_sat : (v4After (.divI32 4 5 (.v 6) .short) { sat := true }).map (·.1) = some [2, 0x7FFFFFFF, 0xFFFFFFFF] := by decide +kernel
theorem test_rem : (v4After (.remI32 4 5 (.v 6) .short)).map (·.1) = some [1, 0, 0] := by decide +kernel

/-- R150: an I32 index is sign-extended, and scaled by 4. -/
theorem test_lea : ((after (exec (.lea 3 8 (.v 6) (.long 2 none)) state0)).group 7).map (fun (g : Group) => (g.dGet .user 6 0, g.dGet .user 6 2)) =
    some (0x800C, 0x800C) := by decide +kernel

/-- "A divergent branch traced", step 5: `bra +4` goes 32 bytes past its header. -/
theorem test_bra : ((after (exec (.bra 4 .short) (state0 groupB))).group 7).map (fun (g : Group) => ((g.lane 0).addr, (g.lane 3).addr)) =
    some (0x4020, 0x4020) := by decide +kernel

/-- "A system call traced", step 3: `?P2 sys #3` traps lanes 0 and 2 with cause 0x0C, value 3 and the next address saved; lane 3 goes on. -/
theorem test_sys : ((after (exec (.sys 3 (.long (some ⟨false, 2⟩))) state0)).group 7).map (fun (g : Group) =>
    ((g.lane 2).mode, (g.lane 2).addr, (g.lane 2).xcauseS, (g.lane 2).xvalS)) = some (.supervisor, 0x9000, 0x0C, 3) ∧
    ((after (exec (.sys 3 (.long (some ⟨false, 2⟩))) state0)).group 7).map (fun (g : Group) => ((g.lane 2).xpcS.extractLsb' 0 48, (g.lane 3).mode, (g.lane 3).addr)) =
      some (0x400C, .user, 0x400C) := by decide +kernel

/-- R325: the ratios at 1.8 GHz and at 1.2 GHz. -/
theorem test_clock_ratio : clockRatio 1800 = 0x01000000 ∧ clockRatio 1200 = 0x01800000 := by decide

/-! ### Words written out from the encodings -/

theorem test_decode_control_1 :
    decodeWord 0x00000000 0x00000000 = .ok (.nop .short) ∧
    decodeWord 0x95002080 0x00000000 = .ok (.mov 8 (.k 21) .short) ∧
    decodeWord 0xE1000004 0x00000000 = .ok (.bra 0xe1 .short) ∧
    decodeWord 0x002C0008 0x00000000 = .ok (.jmp 11 .short) ∧
    decodeWord 0xE200400C 0x00000000 = .ok (.call 8 0xe2 .short) ∧
    decodeWord 0x00445810 0x00000000 = .ok (.callx 11 17 .short) ∧
    decodeWord 0x00000014 0x00000000 = .ok (.exit .short) ∧
    decodeWord 0x00000018 0x00000000 = .ok (.yield .short) ∧
    decodeWord 0x0FDA701C 0x00000000 = .ok (.wait 3 15 6 9 12 false) ∧
    decodeWord 0x4D000020 0x00000000 = .ok (.loop (.short 77)) ∧
    decodeWord 0x95000020 0x00000000 = .ok (.loopK 21 false) ∧
    decodeWord 0x00000024 0x00000000 = .ok (.trigger .short) ∧
    decodeWord 0x00002828 0x00000000 = .ok (.tres 5 .short) ∧
    decodeWord 0x0038002C 0x00000000 = .ok (.spawn 14 .short) ∧
    decodeWord 0x00002C30 0x00000000 = .ok (.ringAdv 11 false) ∧
    decodeWord 0x00161434 0x00000000 = .ok (.ringCur 5 11 false) := by decide

theorem test_decode_control_2 :
    decodeWord 0x00004038 0x00000000 = .ok (.getlsw 8 .short) ∧
    decodeWord 0xE102003C 0x00000000 = .ok (.brany 1 0xe1 .short) ∧
    decodeWord 0xE3060040 0x00000000 = .ok (.brall 3 0xe3 .short) ∧
    decodeWord 0x050C0444 0x00000000 = .ok (.pand 1 6 5 .short) ∧
    decodeWord 0x01020C48 0x00000000 = .ok (.por 3 1 1 .short) ∧
    decodeWord 0x0206144C 0x00000000 = .ok (.pxor 5 3 2 .short) ∧
    decodeWord 0x050C0450 0x00000000 = .ok (.pandn 1 6 5 .short) ∧
    decodeWord 0x00220C54 0x00000000 = .ok (.ptest 3 17 .short) ∧
    decodeWord 0x00061458 0x00000000 = .ok (.pget 5 3 .short) ∧
    decodeWord 0x9500045C 0x00000000 = .ok (.pmask 1 21 .short) := by decide

theorem test_decode_integer_1 :
    decodeWord 0x18222C84 0x00000000 = .ok (.addI32 11 17 (.v 24) .short) ∧
    decodeWord 0x12161488 0x00000000 = .ok (.subI32 5 11 (.v 18) .short) ∧
    decodeWord 0x951C208C 0x00000000 = .ok (.mulI32 8 14 (.k 21) .short) ∧
    decodeWord 0x18222C90 0x00000000 = .ok (.mulhiI32 11 17 (.v 24) .short) ∧
    decodeWord 0x060A1026 0x100000E0 = .ok (.madI32 4 5 (.v 6) 7 none) ∧
    decodeWord 0x951C2098 0x00000000 = .ok (.divI32 8 14 (.k 21) .short) ∧
    decodeWord 0x18222C9C 0x00000000 = .ok (.remI32 11 17 (.v 24) .short) ∧
    decodeWord 0x121614A0 0x00000000 = .ok (.minI32 5 11 (.v 18) .short) ∧
    decodeWord 0x951C20A4 0x00000000 = .ok (.maxI32 8 14 (.k 21) .short) ∧
    decodeWord 0x00222CA8 0x00000000 = .ok (.absI32 11 17 .short) ∧
    decodeWord 0x001614AC 0x00000000 = .ok (.negI32 5 11 .short) ∧
    decodeWord 0xE21C20B0 0x00000000 = .ok (.addiI32 8 14 0xe2 .short) ∧
    decodeWord 0x18222CB4 0x00000000 = .ok (.andI32 11 17 (.v 24) .short) ∧
    decodeWord 0x121614B8 0x00000000 = .ok (.orI32 5 11 (.v 18) .short) ∧
    decodeWord 0x951C20BC 0x00000000 = .ok (.xorI32 8 14 (.k 21) .short) ∧
    decodeWord 0x18222CC0 0x00000000 = .ok (.andnI32 11 17 (.v 24) .short) := by decide

theorem test_decode_integer_2 :
    decodeWord 0x001614C4 0x00000000 = .ok (.notI32 5 11 .short) ∧
    decodeWord 0x951C20C8 0x00000000 = .ok (.shlI32 8 14 (.k 21) .short) ∧
    decodeWord 0x18222CCC 0x00000000 = .ok (.shrI32 11 17 (.v 24) .short) ∧
    decodeWord 0x151614D0 0x00000000 = .ok (.shliI32 5 11 21 .short) ∧
    decodeWord 0x181C20D4 0x00000000 = .ok (.shriI32 8 14 24 .short) ∧
    decodeWord 0x18222CD8 0x00000000 = .ok (.rotlI32 11 17 (.v 24) .short) ∧
    decodeWord 0x001614DC 0x00000000 = .ok (.popcI32 5 11 .short) ∧
    decodeWord 0x001C20E0 0x00000000 = .ok (.clzI32 8 14 .short) ∧
    decodeWord 0x00222CE4 0x00000000 = .ok (.brevI32 11 17 .short) ∧
    decodeWord 0x121614E8 0x00000000 = .ok (.bfxI32 5 11 (.v 18) .short) ∧
    decodeWord 0x951C04EC 0x00000000 = .ok (.cmpEqI32 1 14 (.k 21) .short) ∧
    decodeWord 0x18220CF0 0x00000000 = .ok (.cmpNeI32 3 17 (.v 24) .short) ∧
    decodeWord 0x121614F4 0x00000000 = .ok (.cmpLtI32 5 11 (.v 18) .short) ∧
    decodeWord 0x951C04F8 0x00000000 = .ok (.cmpLeI32 1 14 (.k 21) .short) ∧
    decodeWord 0x18220CFC 0x00000000 = .ok (.cmpGtI32 3 17 (.v 24) .short) ∧
    decodeWord 0x12161500 0x00000000 = .ok (.cmpGeI32 5 11 (.v 18) .short) := by decide

theorem test_decode_integer_3 :
    decodeWord 0x0C142042 0x10001060 = .ok (.sel 8 10 (.v 12) 3 true none) ∧
    decodeWord 0x30445908 0x00000000 = .ok (.addI64 11 17 (.d 24) .short) ∧
    decodeWord 0x242C290C 0x00000000 = .ok (.subI64 5 11 (.d 18) .short) ∧
    decodeWord 0x95384110 0x00000000 = .ok (.mulI64 8 14 (.k 21) .short) ∧
    decodeWord 0x18225914 0x00000000 = .ok (.mulwI32 11 17 (.v 24) .short) ∧
    decodeWord 0x242C2918 0x00000000 = .ok (.shlI64 5 11 (.d 18) .short) ∧
    decodeWord 0x9538411C 0x00000000 = .ok (.shrI64 8 14 (.k 21) .short) ∧
    decodeWord 0x18445920 0x00000000 = .ok (.lea 11 17 (.v 24) .short) ∧
    decodeWord 0xE32C2924 0x00000000 = .ok (.addiI64 5 11 0xe3 .short) ∧
    decodeWord 0x0608044A 0x20005000 = .ok (.cmpI64 1 2 (.d 3) .ge none) ∧
    decodeWord 0x0022592C 0x00000000 = .ok (.extI64 11 17 .short) ∧
    decodeWord 0x002C1530 0x00000000 = .ok (.trnI32 5 11 .short) ∧
    decodeWord 0x95004134 0x00000000 = .ok (.mov64 8 (.k 21) .short) ∧
    decodeWord 0x73002D38 0x00000000 = .ok (.smov 11 0x73 .short) ∧
    decodeWord 0x002C153C 0x00000000 = .ok (.kset 5 11 .short) := by decide

theorem test_decode_lanes_1 :
    decodeWord 0x951C2180 0x00000000 = .ok (.xfrom 8 14 (.k 21) .short) ∧
    decodeWord 0x18222D84 0x00000000 = .ok (.xrot 11 17 (.v 24) .short) ∧
    decodeWord 0x12161588 0x00000000 = .ok (.xstep 5 11 (.v 18) .short) ∧
    decodeWord 0x951C218C 0x00000000 = .ok (.xflip 8 14 (.k 21) .short) ∧
    decodeWord 0x00020D90 0x00000000 = .ok (.pany 3 1 .short) ∧
    decodeWord 0x00061594 0x00000000 = .ok (.pevery 5 3 .short) ∧
    decodeWord 0x001C0598 0x00000000 = .ok (.xsame 1 14 .short) ∧
    decodeWord 0x00022D9C 0x00000000 = .ok (.pcollect 11 1 .short) ∧
    decodeWord 0x001615A0 0x00000000 = .ok (.xpeers 5 11 .short) ∧
    decodeWord 0x001C21A4 0x00000000 = .ok (.xlow 8 14 .short) ∧
    decodeWord 0x00222DA8 0x00000000 = .ok (.foldAddI32 11 17 .short) ∧
    decodeWord 0x001615AC 0x00000000 = .ok (.foldMinI32 5 11 .short) ∧
    decodeWord 0x001C21B0 0x00000000 = .ok (.foldMaxI32 8 14 .short) ∧
    decodeWord 0x00222DB4 0x00000000 = .ok (.foldAndI32 11 17 .short) ∧
    decodeWord 0x001615B8 0x00000000 = .ok (.foldOrI32 5 11 .short) ∧
    decodeWord 0x001C21BC 0x00000000 = .ok (.scanIncI32 8 14 .short) := by decide

theorem test_decode_lanes_2 :
    decodeWord 0x00222DC0 0x00000000 = .ok (.scanExcI32 11 17 .short) ∧
    decodeWord 0x000615C4 0x00000000 = .ok (.prank 5 3 .short) ∧
    decodeWord 0x051C21C8 0x00000000 = .ok (.xpack 8 14 5 .short) ∧
    decodeWord 0xB04459CC 0x00000000 = .ok (.rng 11 17 48 .short) := by decide

theorem test_decode_float_1 :
    decodeWord 0x12161600 0x00000000 = .ok (.faddF32 5 11 (.v 18) .short) ∧
    decodeWord 0x951C2204 0x00000000 = .ok (.fsubF32 8 14 (.k 21) .short) ∧
    decodeWord 0x18222E08 0x00000000 = .ok (.fmulF32 11 17 (.v 24) .short) ∧
    decodeWord 0x060A1082 0x300000E0 = .ok (.ffmaF32 4 5 (.v 6) 7 none) ∧
    decodeWord 0x951C2210 0x00000000 = .ok (.fdivF32 8 14 (.k 21) .short) ∧
    decodeWord 0x00222E14 0x00000000 = .ok (.fsqrtF32 11 17 .short) ∧
    decodeWord 0x12161618 0x00000000 = .ok (.fminF32 5 11 (.v 18) .short) ∧
    decodeWord 0x951C221C 0x00000000 = .ok (.fmaxF32 8 14 (.k 21) .short) ∧
    decodeWord 0x18222E20 0x00000000 = .ok (.fminNanF32 11 17 (.v 24) .short) ∧
    decodeWord 0x12161624 0x00000000 = .ok (.fmaxNanF32 5 11 (.v 18) .short) ∧
    decodeWord 0x001C2228 0x00000000 = .ok (.fabsF32 8 14 .short) ∧
    decodeWord 0x00222E2C 0x00000000 = .ok (.fnegF32 11 17 .short) ∧
    decodeWord 0x1216D630 0x00000000 = .ok (.fcmpF32 5 .un 11 (.v 18) .short) ∧
    decodeWord 0x001C2234 0x00000000 = .ok (.frndF32 8 14 .short) ∧
    decodeWord 0x04222E38 0x00000000 = .ok (.ffuncF32 11 17 .fsinpi .short) ∧
    decodeWord 0x0016163C 0x00000000 = .ok (.fclass 5 11 .short) := by decide

theorem test_decode_float_2 :
    decodeWord 0x95384240 0x00000000 = .ok (.faddF64 8 14 (.k 21) .short) ∧
    decodeWord 0x30445A44 0x00000000 = .ok (.fsubF64 11 17 (.d 24) .short) ∧
    decodeWord 0x242C2A48 0x00000000 = .ok (.fmulF64 5 11 (.d 18) .short) ∧
    decodeWord 0x080C1092 0x30000140 = .ok (.ffmaF64 2 3 (.d 4) 5 none) ∧
    decodeWord 0x30445A50 0x00000000 = .ok (.fdivF64 11 17 (.d 24) .short) ∧
    decodeWord 0x002C2A54 0x00000000 = .ok (.fsqrtF64 5 11 .short) ∧
    decodeWord 0x95384258 0x00000000 = .ok (.fminF64 8 14 (.k 21) .short) ∧
    decodeWord 0x30445A5C 0x00000000 = .ok (.fmaxF64 11 17 (.d 24) .short) ∧
    decodeWord 0x242C2A60 0x00000000 = .ok (.fminNanF64 5 11 (.d 18) .short) ∧
    decodeWord 0x95384264 0x00000000 = .ok (.fmaxNanF64 8 14 (.k 21) .short) ∧
    decodeWord 0x00445A68 0x00000000 = .ok (.fabsF64 11 17 .short) ∧
    decodeWord 0x002C2A6C 0x00000000 = .ok (.fnegF64 5 11 .short) ∧
    decodeWord 0x9538C670 0x00000000 = .ok (.fcmpF64 1 .un 14 (.k 21) .short) ∧
    decodeWord 0x00445A74 0x00000000 = .ok (.frndF64 11 17 .short) ∧
    decodeWord 0x042C2A78 0x00000000 = .ok (.ffuncF64 5 11 .fsinpi .short) ∧
    decodeWord 0x9500227C 0x00000000 = .ok (.fflag 8 (.k 21) .short) := by decide

theorem test_decode_conversion :
    decodeWord 0x05222E80 0x00000000 = .ok (.cvtFI 11 17 .f32 .short) ∧
    decodeWord 0x02161684 0x00000000 = .ok (.cvtIF 5 11 .n32 .short) ∧
    decodeWord 0x151C2288 0x00000000 = .ok (.cvtFF 8 14 .f32 true .short) ∧
    decodeWord 0x18222E8C 0x00000000 = .ok (.cvtBf16x2F32 11 17 (.v 24) .short) ∧
    decodeWord 0x12161690 0x00000000 = .ok (.cvtF16x2F32 5 11 (.v 18) .short) ∧
    decodeWord 0x0A1C2294 0x00000000 = .ok (.cvtTbF32 8 14 .tb6 .short) ∧
    decodeWord 0x00222E98 0x00000000 = .ok (.tbpk 11 17 .short) ∧
    decodeWord 0x0A16169C 0x00000000 = .ok (.tbunpk 5 11 .tb6 .short) := by decide

theorem test_decode_memory_1 :
    decodeWord 0xE23822C0 0x00000000 = .ok (.ldGI8 8 14 0xe2 .short) ∧
    decodeWord 0xE1442EC4 0x00000000 = .ok (.ldGN8 11 17 0xe1 .short) ∧
    decodeWord 0xE32C16C8 0x00000000 = .ok (.ldGI16 5 11 0xe3 .short) ∧
    decodeWord 0xE23822CC 0x00000000 = .ok (.ldGN16 8 14 0xe2 .short) ∧
    decodeWord 0xE1442ED0 0x00000000 = .ok (.ldG32 11 17 0xe1 .short) ∧
    decodeWord 0xE32C2AD4 0x00000000 = .ok (.ldG64 5 11 0xe3 .short) ∧
    decodeWord 0xE23822D8 0x00000000 = .ok (.stG8 8 14 0xe2 .short) ∧
    decodeWord 0xE1442EDC 0x00000000 = .ok (.stG16 11 17 0xe1 .short) ∧
    decodeWord 0xE32C16E0 0x00000000 = .ok (.stG32 5 11 0xe3 .short) ∧
    decodeWord 0xE23842E4 0x00000000 = .ok (.stG64 8 14 0xe2 .short) ∧
    decodeWord 0x18222EE8 0x00000000 = .ok (.ldT32 11 17 (.v 24) .short) ∧
    decodeWord 0x121616EC 0x00000000 = .ok (.stT32 5 11 (.v 18) .short) ∧
    decodeWord 0x951C42F0 0x00000000 = .ok (.apconvT 8 14 (.k 21) .short) ∧
    decodeWord 0x18005AF4 0x00000000 = .ok (.apconvL 11 (.v 24) .short) ∧
    decodeWord 0x042C16F8 0x00000000 = .ok (.aptest 5 11 4 .short) ∧
    decodeWord 0x061C22FC 0x00000000 = .ok (.talloc 8 14 6 .short) := by decide

theorem test_decode_memory_2 :
    decodeWord 0x00002F00 0x00000000 = .ok (.trel 11 .short) ∧
    decodeWord 0x92160304 0x00000000 = .ok (.cp 11 18 .short) ∧
    decodeWord 0xE2380308 0x00000000 = .ok (.pf 14 0xe2 .short) ∧
    decodeWord 0x00220F0C 0x00000000 = .ok (.wset 3 17 false) ∧
    decodeWord 0x00061710 0x00000000 = .ok (.wpos 5 3 .short) ∧
    decodeWord 0x95000714 0x00000000 = .ok (.wskip 1 21 .short) ∧
    decodeWord 0x00000F18 0x00000000 = .ok (.wclr 3 false) ∧
    decodeWord 0xE316171C 0x00000000 = .ok (.ldk 5 11 0xe3 .short) := by decide

theorem test_decode_sync_1 :
    decodeWord 0x95000340 0x00000000 = .ok (.arrive 21 .short) ∧
    decodeWord 0x98220344 0x00000000 = .ok (.expect 17 24 .short) ∧
    decodeWord 0x92000348 0x00000000 = .ok (.bwait 18 .short) ∧
    decodeWord 0x9500234C 0x00000000 = .ok (.bphase 8 21 .short) ∧
    decodeWord 0x04000F50 0x00000000 = .ok (.fence 3 4 false) ∧
    decodeWord 0x00000754 0x00000000 = .ok (.fwait 1 false) ∧
    decodeWord 0x00380358 0x00000000 = .ok (.mon 14 .short) ∧
    decodeWord 0x9800035C 0x00000000 = .ok (.mwait 24 .short) ∧
    decodeWord 0x050818DA 0x03000000 = .ok (.ugetI32 6 2 (.v 5) .add 3 none) ∧
    decodeWord 0x890830DA 0x15006000 = .ok (.ugetI64 6 2 (.k 9) .swap 5 none) ∧
    decodeWord 0x0E0830DA 0x24001000 = .ok (.ugetFadd 12 2 (.v 14) true 4 none) ∧
    decodeWord 0x050800DA 0x35000000 = .ok (.uputI32 2 (.v 5) .add 5 none) ∧
    decodeWord 0x060800DE 0x03005000 = .ok (.uputI64 2 (.d 3) .xor 3 none) ∧
    decodeWord 0x050800DE 0x16000000 = .ok (.uputFadd 2 (.v 5) false 6 none) ∧
    decodeWord 0x050818DE 0x200000E0 = .ok (.ucmpx 6 2 (.v 5) 7 false 0 none) ∧
    decodeWord 0x9500177C 0x00000000 = .ok (.ored 5 (.k 21) .short) := by decide

theorem test_decode_sync_2 :
    decodeWord 0x07222F80 0x00000000 = .ok (.balloc 11 17 7 .short) ∧
    decodeWord 0x92000384 0x00000000 = .ok (.bdrop 18 .short) := by decide

theorem test_decode_system :
    decodeWord 0xE20003A0 0x00000000 = .ok (.sys 0xe2 .short) ∧
    decodeWord 0xE10003A4 0x00000000 = .ok (.brk 0xe1 .short) ∧
    decodeWord 0xE30017A8 0x00000000 = .ok (.hcall 5 0xe3 .short) ∧
    decodeWord 0x000003AC 0x00000000 = .ok (.sret .short) ∧
    decodeWord 0x000003B0 0x00000000 = .ok (.hret .short) ∧
    decodeWord 0x14002BB4 0x00000000 = .ok (.ctlrd 5 0x14 .short) ∧
    decodeWord 0x1E3803B8 0x00000000 = .ok (.ctlwr 14 0x1e .short) ∧
    decodeWord 0x00225BBC 0x00000000 = .ok (.lswrd 11 17 .short) ∧
    decodeWord 0x920003C0 0x00000000 = .ok (.tinv 18 .short) ∧
    decodeWord 0x003843C4 0x00000000 = .ok (.tprobe 8 14 .short) ∧
    decodeWord 0x980003C8 0x00000000 = .ok (.evclr 24 .short) ∧
    decodeWord 0x05002BCC 0x00000000 = .ok (.errrd 5 5 .short) ∧
    decodeWord 0x000003D0 0x00000000 = .ok (.lhalt .short) ∧
    decodeWord 0x014403D4 0x00000000 = .ok (.einj 17 1 .short) := by decide

theorem test_decode_matrix :
    decodeWord 0x00100102 0x00000000 = .ok (.mmaTb8 8 none) ∧
    decodeWord 0x00200106 0x00000000 = .ok (.mmaTb6 16 none) ∧
    decodeWord 0x0030010A 0x00000000 = .ok (.mmaTb4 24 none) ∧
    decodeWord 0x0040010E 0x00000000 = .ok (.mmaBf16 32 none) ∧
    decodeWord 0x00500112 0x00000000 = .ok (.mmaF16 40 none) ∧
    decodeWord 0x00700116 0x00000000 = .ok (.mmaF32 56 none) ∧
    decodeWord 0x0000011A 0x00000000 = .ok (.mzero 0 none) ∧
    decodeWord 0x0028011E 0x00005000 = .ok (.mepi 0 20 .f32 0 none) ∧
    decodeWord 0x00000122 0x00000000 = .ok (.mrel 0 none) ∧
    decodeWord 0x00120926 0x04000000 = .ok (.msave 2 9 4 none) ∧
    decodeWord 0x00120D2A 0x00000000 = .ok (.mload 3 9 none) ∧
    decodeWord 0x010A112E 0x00000000 = .ok (.wbal 4 5 1 none) ∧
    decodeWord 0x00200132 0x00000000 = .ok (.wbld 16 none) ∧
    decodeWord 0x003C0536 0x00000000 = .ok (.mbias 1 30 none) ∧
    decodeWord 0x0000613A 0x00000000 = .ok (.mstat 24 0 none) ∧
    decodeWord 0x8300053E 0x00000000 = .ok (.mxset 1 3 none) := by decide

theorem test_decode_assign :
    decodeWord 0x00180182 0x00000000 = .ok (.asnRun 12 none) ∧
    decodeWord 0x001A0186 0x00000000 = .ok (.asnCont 13 none) ∧
    decodeWord 0x001C018A 0x00000000 = .ok (.asnBest 14 none) ∧
    decodeWord 0x0074018E 0x00000000 = .ok (.asnInv 58 none) ∧
    decodeWord 0x0000B192 0x00000000 = .ok (.asnStat 44 none) ∧
    decodeWord 0x00060196 0x00000000 = .ok (.asnChk 3 none) := by decide

theorem test_decode_fabric :
    decodeWord 0x8C1001C2 0x00000000 = .ok (.fwr 8 12 none) ∧
    decodeWord 0x8C1001C6 0x00000000 = .ok (.frd 8 12 none) ∧
    decodeWord 0x000C15CA 0x00000000 = .ok (.frdK 5 6 none) ∧
    decodeWord 0x000C15CE 0x00000000 = .ok (.fatom 5 6 false none) ∧
    decodeWord 0x002001D2 0x00000000 = .ok (.fsend 16 none) ∧
    decodeWord 0x002401D6 0x00000000 = .ok (.fevent 18 none) ∧
    decodeWord 0x00000DDA 0x00000000 = .ok (.fstat 3 none) ∧
    decodeWord 0x003051DE 0x00000000 = .ok (.bopen 20 24 none) ∧
    decodeWord 0x003801E2 0x00000000 = .ok (.bpush 28 none) ∧
    decodeWord 0x003801E6 0x00000000 = .ok (.bclose 28 none) ∧
    decodeWord 0x002811EA 0x00000000 = .ok (.bstat 4 20 none) ∧
    decodeWord 0x002801EE 0x00000000 = .ok (.bfree 20 none) := by decide

theorem test_decode_long_forms :
    decodeWord 0x060A1022 0x1000001B = .ok (.addI32 4 5 (.v 6) (.long (some ⟨true, 3⟩))) ∧
    decodeWord 0x0000000A 0x00C70000 = .ok (.loop (.long 0xC7)) ∧
    decodeWord 0x000810B6 0x00005000 = .ok (.ldG32 4 2 0 (.long 0 5 none)) ∧
    decodeWord 0xFF0818BA 0x16000012 = .ok (.stG64 3 2 0xFF (.long 6 (some ⟨false, 2⟩))) ∧
    decodeWord 0x0310404A 0x00002000 = .ok (.lea 8 4 (.v 3) (.long 2 none)) ∧
    decodeWord 0x000C15CE 0x00006000 = .ok (.fatom 5 6 true none) ∧
    decodeWord 0x007A051E 0x0400A010 = .ok (.mepi 1 61 .tb6 4 (some ⟨false, 0⟩)) ∧
    decodeWord 0x030000EA 0x00000011 = .ok (.sys 3 (.long (some ⟨false, 1⟩))) ∧
    decodeWord 0x000800D6 0x25000000 = .ok (.mon 2 (.long 5 none)) := by decide

end Sys2Proof.Tests
end

