-- ==== Sys2Proof/Proofs/DescribingWork.lean ====
section
/-!
SUPPORT. Three statements about describing work, each refuted by one state of the model, which stands here with what the model
makes of it.
-/

namespace Sys2Proof.DescribingWork
open Sys2Proof Sys2Proof.Machine Sys2Proof.Spec

/-- A step that leaves `t` up to the translation budget leaves the launches of `t`. -/
theorem launch_of_leads {s t : State} (h : Leads (.next s) t) (lid : Nat) : s.launch lid = t.launch lid := by
  obtain ⟨t', ht', hrest, -⟩ := h
  cases ht'
  have hlaunches := congrArg State.launches hrest
  exact congrArg (tblFind · lid) hlaunches

/-! ### A task record whose page table meets an uncorrectable error (R182, R66, R301) -/

/-- A `spawn` of two records, the first not yet read. -/
def spawnOp : Op := { id := 0, cls := .tx, kind := .spawn [0xB000, 0xB040] [] }

/-- A group with that `spawn` outstanding, whose monitor is armed on the line in host memory at which the assist ring begins. -/
def watchingGroup : Group :=
  { launch := 3, vi := 1, leaf := 0, core := 0, ctx := 0, ops := [spawnOp], nextOp := 1,
    mon := { state := .armed, place := .sys hostBase } }

/-- Its launch, with the two tasks counted beside itself. -/
def spawningLaunch : Launch := { placedLaunch with counter := 3 }

/-- A machine in which the next read of the leaf's stage-2 root meets an uncorrectable error, and the host, which decides about
errors of the leaf, has set up an assist ring. -/
def markedTable : State :=
  { State.reset with
    groups := [(7, watchingGroup)], launches := [(3, spawningLaunch)], hardNext := [0], nextId := 8
    parts := [(0, { channels := 1, modes := 0x20, vis := [1] })], mgmt := { assist := { ctl := 0x100 } } }

/-- The read of the record asks the host about the error, and the request's record touches the monitor. -/
theorem taskRead_touches_monitor :
    ((markedTable.taskRead 7 0).group 7).map (fun g => g.mon.state) = some .touched := by decide +kernel

/-- Refutes O54: TaskReads lets a task record's read change nothing of its group but the operation. Where that read meets an
uncorrectable error about which the host decides, the request to the host is written to the assist ring (R66), and a group whose
monitor is armed on the ring's line is touched (R301). -/
theorem not_queuesAndRecords : ¬ Obligations.QueuesAndRecords := by
  unfold Obligations.QueuesAndRecords
  rintro ⟨-, -, -, hTasks⟩
  obtain ⟨-, hRead⟩ := hTasks markedTable 7 0 watchingGroup spawningLaunch spawnOp 0xB000 [0xB040] [] rfl rfl rfl rfl rfl
    (by simp) (by decide) (by simp) rfl (by decide)
  obtain ⟨t, ht, ⟨g', hg', rfl⟩, -⟩ := hRead (by decide)
  obtain rfl : markedTable.taskRead 7 0 = t := Host.Outcome.next.inj ht
  have touched := taskRead_touches_monitor
  rw [hg'] at touched
  exact absurd touched (by decide)

/-! ### A piece of level 0 (R19, R80) -/

/-- The group to be placed: one point, in piece 11. -/
def planInEleven : GroupPlan := { points := [[0, 0, 0, 0]], pieces := [11] }

/-- Its launch, whose first level has BARRIER set. -/
def barrierLaunch : Launch :=
  { placedLaunch with record := placedRecord.set 0x61 4, plans := [planInEleven] }

/-- A piece that names no level of its launch. -/
def levelZeroPiece : Piece :=
  { launch := 3, level := 0, parent := none, org := [0, 0, 0, 0], ext := [1, 1, 1, 1], pos := 0, pop := 1, bar := 0xFFFFFFFF
    barpkg := 0xFFFFFFFF, subs := [] }

/-- A machine with that launch and piece alone, and a pool of 4 GiB. -/
def levelZero : State :=
  { State.reset with
    launches := [(3, barrierLaunch)], pieces := [(11, levelZeroPiece)], nextId := 12
    parts := [(0, { clusters := 1, vis := [1], poolSize := 0x100000000 })] }

/-- The model takes the control word of level 1 for that of level 0, and arms a barrier for the piece. -/
theorem pieceDispatch_arms_level_zero :
    ((levelZero.pieceDispatch 3 [(0, 0)]).piece 11).map (fun p => p.bar) = some 0 := by decide +kernel

theorem barrierLaunch_fits : levelZero.placesFit 3 barrierLaunch [(0, 0)] = true := by decide +kernel

/-- No piece of the plan is one of a BARRIER level, where the control word of level 0 is read at the place of a level below 1. -/
theorem planInEleven_without_barrier (pid : Nat) (hpid : pid ∈ planInEleven.all) (p : Piece)
    (hp : levelZero.piece pid = some p) : (LEVEL barrierLaunch.record p.level).testBit 10 = false := by
  have hall : planInEleven.all = [11] := by decide
  rw [hall, List.mem_singleton] at hpid
  subst hpid
  obtain rfl : levelZeroPiece = p := Option.some.inj hp
  decide +kernel

/-- Refutes O55: PlansPlaced says that a dispatch changes only the birth and the home cluster of a piece whose level has no
BARRIER, and reads the control word of level 0 at 0x38, the RESTART address; the model reads it at 0x60. A piece of level 0, which
no step lays out but which the statement does not exclude, gets a barrier where only the word at 0x60 has the BARRIER bit. -/
theorem not_dispatching : ¬ Obligations.Dispatching := by
  unfold Obligations.Dispatching
  rintro ⟨-, -, hPlaced, -⟩
  obtain ⟨hFits, -⟩ := hPlaced levelZero 3 barrierLaunch rfl rfl (by decide) rfl rfl rfl (by decide)
  obtain ⟨t, l', image, ht, -, -, -, -, -, -, -, hPieces⟩ :=
    hFits [planInEleven] [] [(0, 0)] rfl rfl (by decide +kernel) barrierLaunch_fits (fun g hg => by
      rw [List.mem_singleton] at hg
      subst hg
      exact ⟨rfl, fun pid hpid p hp _ => planInEleven_without_barrier pid hpid p hp⟩)
  obtain ⟨p', hp', -, hSame⟩ := hPieces planInEleven (by simp) 11 (by decide) levelZeroPiece rfl
  obtain rfl : levelZero.pieceDispatch 3 [(0, 0)] = t := Host.Outcome.next.inj ht
  have armed := pieceDispatch_arms_level_zero
  rw [hp', Option.map_some, Option.some.injEq] at armed
  have unarmed : p'.bar = 0xFFFFFFFF := congrArg Piece.bar hSame
  exact absurd (armed.symm.trans unarmed) (by decide)

/-! ### A reduction slot whose format byte has reserved bits set (R27, R29, R311) -/

/-- A launch whose slots are to be written: slot 0 adds, its format byte is 0x11, and one point has contributed 100. -/
def oddSlotLaunch : Launch :=
  { placedLaunch with
    phase := .completing, step := 2, record := (placedRecord.set 0x180 1).set 0x181 0x11, ored := [(0, 0, 100)] }

/-- A machine with that launch alone: no address translates. -/
def oddSlot : State := { State.reset with launches := [(3, oddSlotLaunch)] }

/-- The model finds no bytes of such a format to write, and so no error. -/
theorem completeStep_odd_slot : ((oddSlot.completeStep 3).launch 3).map (fun l => l.error) = some 0 := by decide +kernel

/-- Refutes O56: CompletionStarts takes the size of a slot's result from the low four bits of its format byte, and has the write
of a 4-byte result fail where its first byte does not translate. The model takes it from the whole byte: by a byte of 0x11, which
the check of the launch record would refuse (R29), a result has no bytes, and the write of none succeeds. -/
theorem not_completion : ¬ Obligations.Completion := by
  unfold Obligations.Completion
  rintro ⟨hStarts, -⟩
  obtain ⟨-, -, hSlots, -⟩ := hStarts oddSlot 3 oddSlotLaunch
  obtain ⟨-, hWrite⟩ := hSlots ⟨rfl, rfl, rfl⟩ (by decide)
  obtain ⟨-, hReach⟩ := hWrite 100 4 (by decide +kernel) (by decide +kernel) (by decide +kernel)
  obtain ⟨-, hFault⟩ := hReach (by decide)
  have failed := launch_of_leads (hFault 0 .access (by decide) (by decide)
    (fun i _ _ hi => absurd hi (Nat.not_lt_zero i)) (fun j hj => absurd hj (Nat.not_lt_zero j)) (by decide +kernel)
    (fun _ _ => XFault.noConfusion)) 3
  have written := completeStep_odd_slot
  rw [failed] at written
  exact absurd written (by decide +kernel)

end Sys2Proof.DescribingWork
end

section
/-!
SUPPORT. Two statements about launching work: what reading and retiring loads, stores and triggers does, by rules for what an
event of a group changes; and the registers of the interfaces, refuted by one state of the model, which stands here with what the
model makes of it.
-/

namespace Sys2Proof.Machine
open Sys2Proof

/-! ### What an event of a group reads and leaves -/

theorem State.group_of_awake {s : State} {gid : Nat} {g : Group} (h : s.awake gid = some g) : s.group gid = some g := by
  unfold State.awake at h
  split at h
  · split at h
    · cases h
    · rename_i hg _
      exact hg.trans h
  · cases h

/-- A change of a group that keeps its LOCAL bytes changes no byte that anyone reads. -/
theorem State.readByte_modGroup (s : State) (gid : Nat) (f : Group → Group) (hf : ∀ g, (f g).local_ = g.local_)
    (a : Agent) (l : Loc) : (s.modGroup gid f).readByte a l = s.readByte a l := by
  refine State.readByte_congr (s := s) (t := s.modGroup gid f) rfl rfl rfl (fun h => ?_) a l
  rw [State.group_modGroup]
  split
  · subst h
    rw [Option.map_map]
    exact congrArg (Option.map · _) (funext hf)
  · rfl

theorem State.group_modOp {s : State} {gid : Nat} {g : Group} (hg : s.group gid = some g) (op : Nat) (f : Op → Op) :
    (s.modOp gid op f).group gid = some { g with ops := g.ops.map (fun o => if o.id = op then f o else o) } := by
  unfold State.modOp
  rw [State.group_modGroup, if_pos rfl, hg]
  rfl

theorem State.readByte_modOp (s : State) (gid op : Nat) (f : Op → Op) (a : Agent) (l : Loc) :
    (s.modOp gid op f).readByte a l = s.readByte a l := by
  refine State.readByte_modGroup s gid _ ?_ a l
  exact fun _ => rfl

/-- Reading bytes depends on what reading each byte depends on. -/
theorem State.readBytes_congr {s t : State} (h : ∀ a l, t.readByte a l = s.readByte a l) (a : Agent) (l : Loc) (n : Nat) :
    t.readBytes a l n = s.readBytes a l n := by
  unfold State.readBytes
  simp only [h]

/-! ### Retirement (R125) -/

/-- An operation that stays was there. -/
theorem mem_of_mem_retire {os : List Op} {held : List Cls} {p : Op} (h : p ∈ (retire os held).1) : p ∈ os := by
  induction os generalizing held with
  | nil => exact h
  | cons o os ih =>
    unfold retire at h
    split at h
    · exact List.mem_cons_of_mem _ (ih h)
    · rcases List.mem_cons.1 h with rfl | h
      · exact List.mem_cons_self
      · exact List.mem_cons_of_mem _ (ih h)

/-- `g'` is `g` but for the operations it has outstanding, the errors pending from them, and FREED: what retirement may
change (R125, R134, R394). -/
def Group.SameButOps (g g' : Group) : Prop :=
  { g' with ops := g.ops, pendST := g.pendST, pendCP := g.pendCP, pendTX := g.pendTX, freed := g.freed } = g

section
variable {g g' : Group} (h : g.SameButOps g')
include h

theorem Group.SameButOps.v : g'.v = g.v := by have e := congrArg Group.v h; exact e
theorem Group.SameButOps.vtag : g'.vtag = g.vtag := by have e := congrArg Group.vtag h; exact e
theorem Group.SameButOps.k : g'.k = g.k := by have e := congrArg Group.k h; exact e
theorem Group.SameButOps.p : g'.p = g.p := by have e := congrArg Group.p h; exact e
theorem Group.SameButOps.lanes : g'.lanes = g.lanes := by have e := congrArg Group.lanes h; exact e
theorem Group.SameButOps.local_ : g'.local_ = g.local_ := by have e := congrArg Group.local_ h; exact e

end

theorem Group.SameButOps.trans {g g' g'' : Group} (h : g.SameButOps g') (h' : g'.SameButOps g'') : g.SameButOps g'' := by
  unfold Group.SameButOps at *
  cases g; cases g'; cases g''
  simp_all

theorem Group.addErr_sameButOps (g : Group) (c : Cls) (e : PendErr) : g.SameButOps (g.addErr c e) := by
  cases c <;> rfl

theorem Group.addErrs_sameButOps (es : List (Cls × PendErr)) (g : Group) :
    g.SameButOps (es.foldl (fun g e => g.addErr e.1 e.2) g) := by
  induction es generalizing g with
  | nil => rfl
  | cons e es ih => exact (g.addErr_sameButOps e.1 e.2).trans (ih _)

/-- Adding errors leaves the operations. -/
theorem Group.addErrs_ops (es : List (Cls × PendErr)) (g : Group) :
    (es.foldl (fun g e => g.addErr e.1 e.2) g).ops = g.ops := by
  induction es generalizing g with
  | nil => rfl
  | cons e es ih =>
    rw [List.foldl_cons, ih]
    cases e.1 <;> rfl

theorem Group.settle_sameButOps (g : Group) : g.SameButOps g.settle := by
  have kept : g.SameButOps { g with ops := (retire g.ops []).1 } := rfl
  have added := kept.trans (Group.addErrs_sameButOps (retire g.ops []).2 _)
  unfold Group.settle
  dsimp only
  split
  · exact added.trans rfl
  · exact added

theorem Group.settle_ops (g : Group) : g.settle.ops = (retire g.ops []).1 := by
  unfold Group.settle
  dsimp only
  split <;> exact Group.addErrs_ops _ _

/-- An operation of group `g` ends: those that may retire do, in the group nothing else changes, and no byte does. -/
theorem State.endOp_facts {s : State} {gid : Nat} {g : Group} (hg : s.group gid = some g) (op : Nat) (err : Option PendErr) :
    ∃ g', (s.endOp gid op err).group gid = some g' ∧ g.SameButOps g' ∧ (∀ p ∈ g'.ops, p.id = op → p.ended = true) ∧
      ∀ a l, (s.endOp gid op err).readByte a l = s.readByte a l := by
  let marked : Group := { g with ops := g.ops.map (fun o => if o.id = op then { o with ended := true, err := err } else o) }
  refine ⟨marked.settle, ?_, ?_, fun p hp hid => ?_, fun a l => ?_⟩
  · unfold State.endOp State.settle
    rw [State.group_modGroup, if_pos rfl, State.group_modOp hg]
    rfl
  · exact Group.SameButOps.trans (g' := marked) rfl marked.settle_sameButOps
  · obtain ⟨o, -, rfl⟩ := List.mem_map.1 (mem_of_mem_retire (marked.settle_ops ▸ hp))
    by_cases ho : o.id = op
    · rw [if_pos ho]
    · rw [if_neg ho] at hid
      exact absurd hid ho
  · unfold State.endOp State.settle
    rw [State.readByte_modGroup _ gid Group.settle (fun g => g.settle_sameButOps.local_), State.readByte_modOp]

/-! ### Reading for a load (R62, R181, R182) -/

theorem State.meet_of_clean {s : State} {l : Loc} (h : Spec.clean s l) (launch leaf : Nat) : s.meet launch leaf l = s := by
  unfold State.meet
  split
  · rename_i n hn
    obtain ⟨hsoft, hhard, -⟩ := h n hn
    simp [hsoft, hhard]
  · rfl

theorem State.wouldPoison_of_clean {s : State} {l : Loc} (h : Spec.clean s l) : s.wouldPoison l = false := by
  unfold State.wouldPoison
  split
  · rename_i n hn
    obtain ⟨-, hhard, hline⟩ := h n hn
    simp [hhard, hline]
  · rfl

theorem State.poison_of_clean {s : State} {l : Loc} (h : Spec.clean s l) : s.poison l = false := by
  unfold State.poison
  split
  · rename_i n hn
    exact (h n hn).2.2
  · rfl

/-- `t` is `s` but for counters of events and budgets and the free values drawn: what an access may count. -/
def State.SameButCounts (s t : State) : Prop :=
  { t with cores := s.cores, parts := s.parts, drawn := s.drawn } = s

theorem State.SameButCounts.trans {s t u : State} (h : s.SameButCounts t) (h' : t.SameButCounts u) : s.SameButCounts u := by
  unfold State.SameButCounts at *
  cases s; cases t; cases u
  simp_all

theorem State.SameButCounts.group {s t : State} (h : s.SameButCounts t) (gid : Nat) : t.group gid = s.group gid := by
  have e := congrArg (State.group · gid) h
  exact e

theorem State.SameButCounts.readByte {s t : State} (h : s.SameButCounts t) (a : Agent) (l : Loc) :
    t.readByte a l = s.readByte a l := by
  have hflight := congrArg State.flight h
  have hmem := congrArg State.mem h
  have htiles := congrArg State.tiles h
  exact State.readByte_congr (s := s) (t := t) hflight hmem htiles (fun k => by rw [h.group k]) a l

theorem State.SameButCounts.clean {s t : State} (h : s.SameButCounts t) {l : Loc} (hl : Spec.clean s l) : Spec.clean t l := by
  rw [← h] at hl
  exact hl

theorem State.cacheEvent_counts (s : State) (core ev : Nat) : s.SameButCounts (s.cacheEvent core ev) := by
  unfold State.cacheEvent
  split <;> rfl

theorem State.accessEvent_counts (s : State) (core : Nat) (l : Loc) : s.SameButCounts (s.accessEvent core l) := by
  unfold State.accessEvent
  split
  · exact s.cacheEvent_counts _ _
  · split
    · exact s.cacheEvent_counts _ _
    · rfl
  · rfl

theorem State.moveUnits_counts (s : State) (leaf : Nat) (l : Loc) : s.SameButCounts (s.moveUnits leaf l) := by
  unfold State.moveUnits
  dsimp only
  split
  · rfl
  · have e := State.spend_rest { s with drawn := s.drawn + 1 } leaf 1 (64 * s.channelUnits leaf l)
    unfold State.SameButCounts
    generalize State.spend _ leaf 1 _ = t at e ⊢
    cases s; cases t
    simp_all

/-- A lane's read of a place with no error marked: the bytes as they stand, and counters count. -/
theorem State.laneRead_of_clean {s : State} {l : Loc} (h : Spec.clean s l) (gid : Nat) (g : Group) (before : Option Nat) (n : Nat) :
    ∃ t, s.SameButCounts t ∧ s.laneRead gid g before l n = (t, s.readBytes ⟨some gid, some g.core, before⟩ l n) := by
  let t := (s.accessEvent g.core l).moveUnits g.leaf l
  have ht : s.SameButCounts t := (s.accessEvent_counts g.core l).trans (State.moveUnits_counts _ g.leaf l)
  refine ⟨t, ht, ?_⟩
  unfold State.laneRead
  dsimp only
  rw [State.meet_of_clean h, if_neg (by rw [State.poison_of_clean (ht.clean h)]; decide)]
  exact congrArg (Prod.mk t) (State.readBytes_congr ht.readByte _ l n)

/-- A load's read is known to the group, in the writes it has seen and the covers of its tokens (R284). -/
theorem State.learn_facts {s : State} {gid : Nat} {g : Group} (hg : s.group gid = some g) (op : Nat) (saw : List Nat)
    (done : Bool) : ∃ g', (s.learn gid op saw done).group gid = some g' ∧ { g' with seen := g.seen, f := g.f } = g ∧
      ∀ a l, (s.learn gid op saw done).readByte a l = s.readByte a l := by
  refine ⟨?learned, ?found, ?rest, fun a l => ?bytes⟩
  case found =>
    refine (State.group_modGroup s gid gid _).trans ?_
    rw [if_pos rfl, hg]
    rfl
  case rest => rfl
  case bytes =>
    refine State.readByte_congr (s := s) (t := s.learn gid op saw done) rfl rfl rfl (fun k => ?_) a l
    refine (congrArg (Option.map _) (State.group_modGroup s gid k _)).trans ?_
    split
    · subst k
      rw [hg]
      rfl
    · rfl

/-- The group's oldest unread load, whose next place has no error marked, takes the bytes that its group sees there past its
later stores. -/
theorem State.loadRead_eq {s : State} {gid : Nat} {g : Group} {o : Op} {l : Loc} {n : Nat} (hg : s.awake gid = some g)
    (ho : g.firstOp Op.unreadLoad = some o) (hl : o.kind.nextRead = some (l, n)) (hc : Spec.clean s l)
    (hm : s.memoryStalls g.leaf l = false) (hb : s.stalledBefore g.leaf o.stall = false) :
    ∃ t, s.SameButCounts t ∧
      let r := s.readBytes ⟨some gid, some g.core, some o.id⟩ l n
      let k := o.kind.fill (BitVec.ofNat 64 (leNat r.1))
      s.loadRead gid =
        (t.modOp gid o.id (fun p => { p with kind := k, stall := none })).learn gid o.id r.2 k.nextRead.isNone := by
  obtain ⟨t, ht, hread⟩ := State.laneRead_of_clean hc gid g (some o.id) n
  refine ⟨t, ht, ?_⟩
  unfold State.loadRead State.readNext
  simp only [hg, ho, hl, hm, hb, hread, State.wouldPoison_of_clean hc, Bool.or_self, Bool.false_eq_true, if_false]

/-! ### What the retirement of a load writes (R186, R187, R189) -/

theorem Extend.value_eq_extended (e : Extend) (x : DWord) : e.value x.toNat = Spec.extended e x := by
  have byte : (BitVec.ofNat 8 x.toNat).signExtend 32 = (x.setWidth 8).signExtend 32 := by rw [BitVec.ofNat_toNat]
  have half : (BitVec.ofNat 16 x.toNat).signExtend 32 = (x.setWidth 16).signExtend 32 := by rw [BitVec.ofNat_toNat]
  cases e with
  | s8 => exact (BitVec.ofNat_toNat 64 _).trans (congrArg (BitVec.setWidth 64) byte)
  | s16 => exact (BitVec.ofNat_toNat 64 _).trans (congrArg (BitVec.setWidth 64) half)
  | z8 | z16 | w32 | w64 => exact (BitVec.ofNat_toNat 64 x).trans (BitVec.setWidth_eq x)

/-- The destination of a load written in its lanes. -/
def Op.writeLoaded (o : Op) (g : Group) : Group :=
  match o.kind with
  | .load d wide e ls => ls.foldl (fun g l =>
      if wide then g.dPut l.mode d l.lane (e.value l.val.toNat)
      else g.vPut l.mode d l.lane (BitVec.ofNat 32 (e.value l.val.toNat).toNat)) g
  | .ldk kd l => g.kPut kd l.val
  | _ => g

/-- A read load that is the oldest of its group writes its destination and ends. -/
theorem State.loadRetire_eq {s : State} {gid : Nat} {g : Group} {o : Op} (hg : s.awake gid = some g)
    (ho : g.firstOp (fun p => decide (p.cls = .ld)) = some o) (hr : o.readLoad = true) :
    s.loadRetire gid = (s.modGroup gid o.writeLoaded).endOp gid o.id := by
  unfold State.loadRetire
  simp only [hg, ho, hr, Bool.not_true, Bool.false_eq_true, if_false]
  rfl

section
variable {β γ : Type} {ls : List LoadLane} {put : γ → LoadLane → γ} {get : γ → β}

/-- What each step of a fold keeps, the fold keeps. -/
theorem foldl_keeps (h : ∀ g, ∀ l ∈ ls, get (put g l) = get g) (g : γ) : get (ls.foldl put g) = get g := by
  induction ls generalizing g with
  | nil => rfl
  | cons l ls ih =>
    rw [List.foldl_cons, ih (fun g k hk => h g k (List.mem_cons_of_mem _ hk)), h g l List.mem_cons_self]

/-- What one lane's step sets and no other lane's changes holds after a fold over different lanes. -/
theorem foldl_sets {l : LoadLane} {x : β} (hl : l ∈ ls) (hn : (ls.map (·.lane)).Nodup) (hset : ∀ g, get (put g l) = x)
    (hkeep : ∀ g, ∀ k ∈ ls, k.lane ≠ l.lane → get (put g k) = get g) (g : γ) : get (ls.foldl put g) = x := by
  obtain ⟨before, after, rfl⟩ := List.append_of_mem hl
  rw [List.map_append, List.map_cons] at hn
  have hafter : ∀ k ∈ after, k.lane ≠ l.lane := by
    intro k hk e
    have hn' := (List.nodup_cons.1 hn.of_append_right).1
    exact hn' (e ▸ List.mem_map_of_mem hk)
  rw [List.foldl_append, List.foldl_cons,
    foldl_keeps (get := get) (fun g k hk => hkeep g k (by simp [hk]) (hafter k hk)), hset]

end

/-- A write of V[d] in one lane is read there and nowhere else. -/
theorem Group.vGet_vPut_same (g : Group) (m : Mode) (d i : Nat) (x : Word) : (g.vPut m d i x).vGet m d i = x := by
  rw [Group.vGet_vPut, if_pos rfl]

theorem Group.vGet_vPut_other {d r i j : Nat} (g : Group) (m m' : Mode) (x : Word) (hd : d < 128) (hr : r < 128) (hi : i < 32)
    (hj : j < 32) (h : r ≠ d ∨ j ≠ i) : (g.vPut m d i x).vGet m' r j = g.vGet m' r j := by
  rw [Group.vGet_vPut, if_neg]
  rw [vKey_eq hr hd hi hj]
  rintro ⟨rfl, rfl, -⟩
  simp at h

theorem Group.dGet_dPut_same {d i : Nat} (g : Group) (m : Mode) (x : DWord) (hd : d + 1 < 128) (hi : i < 32) :
    (g.dPut m d i x).dGet m d i = x :=
  Group.dGet_writes g m d [i] (fun _ => x) i hd hi (fun k hk => by rw [List.mem_singleton] at hk; exact hk ▸ hi)
    List.mem_cons_self

theorem Group.vGet_dPut_other {d r i j : Nat} (g : Group) (m m' : Mode) (x : DWord) (hd : d + 1 < 128) (hr : r < 128)
    (hi : i < 32) (hj : j < 32) (h : r ≠ d ∧ r ≠ d + 1 ∨ j ≠ i) : (g.dPut m d i x).vGet m' r j = g.vGet m' r j := by
  rw [Group.vGet_dPut g m m' d i x r j hr hd hi hj, if_neg]
  rintro ⟨hreg, -, hlane⟩
  omega

theorem Group.dGet_dPut_other {d i j : Nat} (g : Group) (m m' : Mode) (x : DWord) (hd : d + 1 < 128) (hi : i < 32)
    (hj : j < 32) (h : j ≠ i) : (g.dPut m d i x).dGet m' d j = g.dGet m' d j := by
  unfold Group.dGet
  rw [Group.vGet_dPut_other g m m' x hd (by omega) hi hj (.inr h), Group.vGet_dPut_other g m m' x hd (by omega) hi hj (.inr h)]

section
variable {o : Op} {d : Nat} {e : Extend} {ls : List LoadLane}

theorem Op.writeLoaded_ldk {kd : Nat} {l : LoadLane} (h : o.kind = .ldk kd l) (g : Group) :
    o.writeLoaded g = g.kPut kd l.val := by
  unfold Op.writeLoaded
  rw [h]

theorem Op.writeLoaded_narrow (h : o.kind = .load d false e ls) (g : Group) : o.writeLoaded g =
    ls.foldl (fun g l => g.vPut l.mode d l.lane (BitVec.ofNat 32 (Spec.extended e l.val).toNat)) g := by
  unfold Op.writeLoaded
  rw [h]
  simp only [Bool.false_eq_true, if_false, Extend.value_eq_extended]

theorem Op.writeLoaded_wide (h : o.kind = .load d true e ls) (g : Group) : o.writeLoaded g =
    ls.foldl (fun g l => g.dPut l.mode d l.lane (Spec.extended e l.val)) g := by
  unfold Op.writeLoaded
  rw [h]
  simp only [if_true, Extend.value_eq_extended]

/-- A load's retirement writes V and K and nothing else of its group. -/
theorem Op.writeLoaded_rest (o : Op) (g : Group) : { o.writeLoaded g with v := g.v, k := g.k } = g := by
  unfold Op.writeLoaded
  split
  · refine foldl_keeps (get := fun g' : Group => { g' with v := g.v, k := g.k }) (fun g' l _ => ?_) g
    split <;> rfl
  · rfl
  · rfl

/-- A load of V registers leaves K. -/
theorem Op.writeLoaded_k {wide : Bool} (h : o.kind = .load d wide e ls) (g : Group) : (o.writeLoaded g).k = g.k := by
  unfold Op.writeLoaded
  rw [h]
  refine foldl_keeps (get := Group.k) (fun g l _ => ?_) g
  split <;> rfl

variable (hn : (ls.map (·.lane)).Nodup) (hl : ∀ l ∈ ls, l.lane < 32)
include hn hl

/-- A load of 32 bits or less: V[d] in the lanes that loaded, and nothing else of V. -/
theorem Op.writeLoaded_narrow_v (h : o.kind = .load d false e ls) (hd : d < 128) (g : Group) :
    (∀ l ∈ ls, (o.writeLoaded g).vGet l.mode d l.lane = BitVec.ofNat 32 (Spec.extended e l.val).toNat) ∧
    (∀ m r j, r < 128 → j < 32 → (r ≠ d ∨ j ∉ ls.map (·.lane)) → (o.writeLoaded g).vGet m r j = g.vGet m r j) := by
  rw [Op.writeLoaded_narrow h]
  refine ⟨fun l hmem => ?_, fun m r j hr hj hother => ?_⟩
  · refine foldl_sets (get := fun g => g.vGet l.mode d l.lane) hmem hn (fun g => ?_) (fun g k hk hne => ?_) g
    · exact g.vGet_vPut_same ..
    · exact g.vGet_vPut_other _ _ _ hd hd (hl k hk) (hl l hmem) (.inr hne.symm)
  · refine foldl_keeps (get := fun g => g.vGet m r j) (fun g k hk => ?_) g
    refine g.vGet_vPut_other _ _ _ hd hr (hl k hk) hj (hother.imp_right fun hj e => hj ?_)
    exact e ▸ List.mem_map_of_mem hk

/-- A load of 64 bits: the pair at V[d] in the lanes that loaded, and nothing else of V. -/
theorem Op.writeLoaded_wide_v (h : o.kind = .load d true e ls) (hd : d + 1 < 128) (g : Group) :
    (∀ l ∈ ls, (o.writeLoaded g).dGet l.mode d l.lane = Spec.extended e l.val) ∧
    (∀ m r j, r < 128 → j < 32 → (r ≠ d ∧ r ≠ d + 1 ∨ j ∉ ls.map (·.lane)) → (o.writeLoaded g).vGet m r j = g.vGet m r j) := by
  rw [Op.writeLoaded_wide h]
  refine ⟨fun l hmem => ?_, fun m r j hr hj hother => ?_⟩
  · refine foldl_sets (get := fun g => g.dGet l.mode d l.lane) hmem hn (fun g => ?_) (fun g k hk hne => ?_) g
    · exact g.dGet_dPut_same _ _ hd (hl l hmem)
    · exact g.dGet_dPut_other _ _ _ hd (hl k hk) (hl l hmem) hne.symm
  · refine foldl_keeps (get := fun g => g.vGet m r j) (fun g k hk => ?_) g
    refine g.vGet_dPut_other _ _ _ hd hr (hl k hk) hj (hother.imp_right fun hj e => hj ?_)
    exact e ▸ List.mem_map_of_mem hk

end

/-! ### Retirement of stores and triggers (R49, R125, R187, R286) -/

/-- The store's bytes have performed at its scope. -/
def State.storeDone (s : State) (o : Op) : Bool :=
  match o.kind with
  | .store ws lvl => ws.all (fun w => s.performed w lvl)
  | _ => false

/-- What the trigger waits for has performed at PACKAGE. -/
def State.triggerDone (s : State) (o : Op) : Bool :=
  match o.kind with
  | .trigger _ ws => ws.all (fun w => s.performed w 4)
  | _ => false

/-- The lanes that trigger. -/
def Op.triggerLanes (o : Op) : List Nat :=
  match o.kind with
  | .trigger ls _ => ls
  | _ => []

theorem State.storeRetire_eq {s : State} {gid : Nat} {g : Group} (hg : s.awake gid = some g) :
    s.storeRetire gid = match g.firstOp s.storeDone with
      | none => s
      | some o => s.endOp gid o.id := by
  unfold State.storeRetire
  rw [hg]
  rfl

theorem State.triggerRetire_eq {s : State} {gid : Nat} {g : Group} (hg : s.awake gid = some g) :
    s.triggerRetire gid = match g.firstOp s.triggerDone with
      | none => s
      | some o => if !g.oldest o then s else
        (s.modLanes gid o.triggerLanes (fun _ l => { l with triggered := true })).endOp gid o.id := by
  unfold State.triggerRetire
  rw [hg]
  rfl

theorem Group.oldest_iff (g : Group) (o : Op) : g.oldest o = true ↔ ∀ p ∈ g.ops, p.cls = o.cls → o.id ≤ p.id := by
  simp only [Group.oldest, List.all_eq_true, Bool.or_eq_true, decide_eq_true_eq, imp_iff_not_or]

/-- The lanes of a trigger that retires have triggered. -/
theorem State.triggered_facts {s : State} {gid : Nat} {g : Group} (hg : s.group gid = some g) (ls : List Nat) (hn : ls.Nodup) :
    ∃ g', (s.modLanes gid ls (fun _ l => { l with triggered := true })).group gid = some g' ∧ { g' with lanes := g.lanes } = g ∧
      (∀ j, g'.lane j = if j ∈ ls then { g.lane j with triggered := true } else g.lane j) ∧
      ∀ a l, (s.modLanes gid ls (fun _ l => { l with triggered := true })).readByte a l = s.readByte a l := by
  let mark : Nat → Lane → Lane := fun _ l => { l with triggered := true }
  refine ⟨ls.foldl (fun g i => g.modLane i (mark i)) g, ?_, Group.foldl_lanes_only ls mark g,
    fun j => Group.lane_foldl ls mark g j hn, fun a l => State.readByte_modGroup _ _ _ (fun g => ?_) a l⟩
  · unfold State.modLanes
    rw [State.group_modGroup, if_pos rfl, hg]
    rfl
  · have e := congrArg Group.local_ (Group.foldl_lanes_only ls mark g)
    exact e

end Sys2Proof.Machine

namespace Sys2Proof.LaunchingWork
open Sys2Proof Sys2Proof.Machine Sys2Proof.Spec

/-- R62, R187, R281: the event LOAD_READ. -/
theorem loadRead_reads : LoadRead := by
  intro s gid g o l n hg ho hl hc hm hb
  obtain ⟨t, ht, e⟩ := State.loadRead_eq hg ho hl hc hm hb
  have hgt : t.group gid = some g := (ht.group gid).trans (State.group_of_awake hg)
  let k := o.kind.fill (BitVec.ofNat 64 (leNat (s.readBytes ⟨some gid, some g.core, some o.id⟩ l n).1))
  let f : Op → Op := fun p => { p with kind := k, stall := none }
  obtain ⟨g', hg', rest, hbytes⟩ := State.learn_facts (State.group_modOp hgt o.id f) o.id
    (s.readBytes ⟨some gid, some g.core, some o.id⟩ l n).2 k.nextRead.isNone
  have hops := congrArg Group.ops rest
  have hv := congrArg Group.v rest
  have hvtag := congrArg Group.vtag rest
  have hk := congrArg Group.k rest
  have hp := congrArg Group.p rest
  have hlanes := congrArg Group.lanes rest
  refine ⟨_, g', congrArg Host.Outcome.next e, hg', hops, hv, hvtag, hk, hp, hlanes, fun a x => ?_⟩
  rw [hbytes, State.readByte_modOp, ht.readByte]

/-- R186, R187, R189: the event LOAD_RETIRE. -/
theorem loadRetire_writes : LoadRetire := by
  intro s gid g o hg ho hr
  have hput : (s.modGroup gid o.writeLoaded).group gid = some (o.writeLoaded g) := by
    rw [State.group_modGroup, if_pos rfl, State.group_of_awake hg]
    rfl
  obtain ⟨g', hg', same, hended, hbytes⟩ := State.endOp_facts hput o.id none
  have hv (m r j) : g'.vGet m r j = (o.writeLoaded g).vGet m r j := Group.vGet_of_v same.v m r j
  have hd (m r j) : g'.dGet m r j = (o.writeLoaded g).dGet m r j := by simp only [Group.dGet, hv]
  have hvtag := congrArg Group.vtag (o.writeLoaded_rest g)
  have hp := congrArg Group.p (o.writeLoaded_rest g)
  have hlanes := congrArg Group.lanes (o.writeLoaded_rest g)
  have e := State.loadRetire_eq hg ho hr
  refine ⟨_, g', congrArg Host.Outcome.next e, hg', hended, same.vtag.trans hvtag, same.p.trans hp, same.lanes.trans hlanes,
    fun a x => (hbytes a x).trans (State.readByte_modGroup s gid _ (fun g => ?_) a x), ?_, ?_, ?_⟩
  · have hlocal := congrArg Group.local_ (o.writeLoaded_rest g)
    exact hlocal
  · intro kd l hkind
    have e := Op.writeLoaded_ldk hkind g
    refine ⟨same.v.trans (by rw [e]; rfl), fun n => ?_⟩
    unfold Group.kGet
    rw [same.k, e]
    exact tblGet_tblPut _ _ _ _ _
  · intro d e ls hkind hreg hn hl
    obtain ⟨hset, hother⟩ := Op.writeLoaded_narrow_v hn hl hkind hreg g
    exact ⟨same.k.trans (Op.writeLoaded_k hkind g), fun l hl => (hv ..).trans (hset l hl),
      fun m r j hr hj h => (hv ..).trans (hother m r j hr hj h)⟩
  · intro d e ls hkind hreg hn hl
    obtain ⟨hset, hother⟩ := Op.writeLoaded_wide_v hn hl hkind hreg g
    exact ⟨same.k.trans (Op.writeLoaded_k hkind g), fun l hl => (hd ..).trans (hset l hl),
      fun m r j hr hj h => (hv ..).trans (hother m r j hr hj h)⟩

/-- R49, R125, R187, R286: the events STORE_RETIRE and TRIGGER_RETIRE. -/
theorem storeAndTrigger_retire : StoreAndTriggerRetire := by
  intro s gid g hg
  have hgroup := State.group_of_awake hg
  refine ⟨fun (h : g.firstOp s.storeDone = none) => ?_, fun (h : g.firstOp s.triggerDone = none) => ?_,
    fun o (h : g.firstOp s.storeDone = some o) => ?_, fun o (h : g.firstOp s.triggerDone = some o) younger => ?_,
    fun o ls ws (h : g.firstOp s.triggerDone = some o) hold hkind hn => ?_⟩
  · exact congrArg Host.Outcome.next ((State.storeRetire_eq hg).trans (by rw [h]))
  · exact congrArg Host.Outcome.next ((State.triggerRetire_eq hg).trans (by rw [h]))
  · have e : s.storeRetire gid = s.endOp gid o.id := (State.storeRetire_eq hg).trans (by rw [h])
    obtain ⟨g', hg', same, hended, hbytes⟩ := State.endOp_facts hgroup o.id none
    exact ⟨_, g', congrArg Host.Outcome.next e, hg', hended, same.v, same.k, same.p, same.lanes, hbytes⟩
  · obtain ⟨p, hp, hcls, hid⟩ := younger
    have young : g.oldest o = false :=
      Bool.eq_false_iff.2 fun old => absurd ((g.oldest_iff o).1 old p hp hcls) (by omega)
    exact congrArg Host.Outcome.next ((State.triggerRetire_eq hg).trans (by simp only [h, young, Bool.not_false, if_true]))
  · have hlanes : o.triggerLanes = ls := by unfold Op.triggerLanes; rw [hkind]
    have e : s.triggerRetire gid = (s.modLanes gid ls (fun _ l => { l with triggered := true })).endOp gid o.id := by
      rw [State.triggerRetire_eq hg]
      simp only [h, (g.oldest_iff o).2 hold, hlanes, Bool.not_true, Bool.false_eq_true, if_false]
    obtain ⟨g1, hg1, rest, hmarked, hbytes1⟩ := State.triggered_facts hgroup ls hn
    obtain ⟨g', hg', same, hended, hbytes⟩ := State.endOp_facts hg1 o.id none
    have hv := congrArg Group.v rest
    have hk := congrArg Group.k rest
    have hp := congrArg Group.p rest
    refine ⟨_, g', congrArg Host.Outcome.next e, hg', hended, same.v.trans hv, same.k.trans hk, same.p.trans hp, fun j => ?_,
      fun a x => (hbytes a x).trans (hbytes1 a x)⟩
    exact (congrArg (fun t => tblGet t absentLane j) same.lanes).trans (hmarked j)

/-- Settles O22: a load's read, its retirement, and the retirement of stores and triggers, each by what its event does to the
one group. -/
theorem loadsAndStoresRetire : Obligations.LoadsAndStoresRetire := ⟨loadRead_reads, loadRetire_writes, storeAndTrigger_retire⟩

/-! ### A failed page answer to a lane whose group has no handler (R301, R334, R341, R393) -/

/-- A group without trap handlers: lane 0 waits for a page, lane 1 in `mwait`, with the monitor armed on the line in host memory
at which the halt ring begins. -/
def waitingGroup : Group :=
  { launch := 3, vi := 1, leaf := 0, core := 0, ctx := 0, lanes := [(0, { park := .page }), (1, { park := .monitor })],
    mon := { state := .armed, place := .sys hostBase } }

/-- Lane 0's page request. -/
def pageRequest : PageReq :=
  { leaf := 0, vi := 1, stage := 1, page := 0, acc := 0, user := true, tag := 5, gid := 7, again := false, written := true,
    lanes := [(7, 0)], ops := [] }

/-- A machine with that group and request, for which the host has set up a halt ring of two records. -/
def awaitedPage : State :=
  { State.reset with groups := [(7, waitingGroup)], pageReqs := [(0, pageRequest)], mgmt := { halt := { ctl := 0x101 } } }

/-- The answer halts lane 0, and the record of the halt touches the monitor: lane 1 moves on. -/
theorem failedPage_unparks_other_lane :
    ((awaitedPage.pageResponse 1 true 5).group 7).map (fun g => (g.lane 1).park) = some .none := by decide +kernel

/-- Refutes O53: PageAnswers lets the answer to a page request change no lane of the group but the one that waits for it. Where
FAIL is set and the group has no handler, that lane halts (R334), its record is written to the halt ring (R393), and another lane
of the group parked in `mwait`, with the monitor armed on the ring's line, is released (R301). -/
theorem not_hostRegisters : ¬ Obligations.HostRegisters := by
  unfold Obligations.HostRegisters
  rintro ⟨-, -, hAnswers, -⟩
  obtain ⟨-, -, hLane⟩ := hAnswers awaitedPage 1 true 5 (by unfold isVi; decide)
  obtain ⟨t, g', ht, hg', -, hOthers, -⟩ := hLane 0 pageRequest 7 0 waitingGroup List.mem_cons_self rfl rfl rfl
    (fun p hp _ => List.mem_singleton.1 hp) rfl rfl rfl rfl (by decide) (by decide)
  obtain rfl : awaitedPage.pageResponse 1 true 5 = t := Host.Outcome.next.inj ht
  have moved := failedPage_unparks_other_lane
  rw [hg', Option.map_some, hOthers 1 (by decide)] at moved
  exact absurd moved (by decide)

end Sys2Proof.LaunchingWork
end

section
/-!
SUPPORT. Front end and partitions: barrier changes, packets and mirrors (R62, R292 to R294, R297), by what a change makes of its
object and what leaves through the ports.
-/

namespace Sys2Proof.Machine
open Sys2Proof

/-! ### What leaves through the fabric ports (R62, R314) -/

/-- A packet of a leaf has to wait: the leaf's fabric budget is used up, or others of the leaf wait already. -/
theorem State.putOut_of_waits {s : State} {leaf : Nat} (h : s.exhausted leaf 2 = true ∨ ∃ w ∈ s.outwait, w.1 = leaf)
    (x : OutItem) : s.putOut leaf x = { s with outwait := s.outwait ++ [(leaf, x)] } := by
  unfold State.putOut
  rw [if_pos]
  simpa only [Bool.or_eq_true, List.any_eq_true, beq_iff_eq] using h

theorem State.putOut_of_leaves {s : State} {leaf : Nat} (h : ¬ (s.exhausted leaf 2 = true ∨ ∃ w ∈ s.outwait, w.1 = leaf))
    (x : OutItem) : s.putOut leaf x = (s.emit x).spend leaf 2 x.bytes := by
  unfold State.putOut
  rw [if_neg]
  simpa only [Bool.or_eq_true, List.any_eq_true, beq_iff_eq] using h

/-- Spending changes nothing but the counts of partitions. -/
theorem State.spend_eq (s : State) (leaf k n : Nat) : ∃ ps, s.spend leaf k n = { s with parts := ps } :=
  ⟨(s.spend leaf k n).parts, by
    have e := State.spend_rest s leaf k n
    generalize s.spend leaf k n = t at e ⊢
    cases s; cases t
    simp_all⟩

/-- `t` is `s` but for what leaves through the ports, what waits to leave, and the budgets' counts. -/
def State.SameButPorts (s t : State) : Prop :=
  { t with outbox := s.outbox, barOut := s.barOut, phaseOut := s.phaseOut, outwait := s.outwait, parts := s.parts } = s

theorem State.putOut_ports (s : State) (leaf : Nat) (x : OutItem) : s.SameButPorts (s.putOut leaf x) := by
  by_cases h : s.exhausted leaf 2 = true ∨ ∃ w ∈ s.outwait, w.1 = leaf
  · rw [State.putOut_of_waits h]
    rfl
  · obtain ⟨ps, e⟩ := (s.emit x).spend_eq leaf 2 x.bytes
    rw [State.putOut_of_leaves h, e]
    cases x <;> rfl

/-- `t` is `s` but for the ports, the phase packets that are kept until acknowledged, and the next free number. -/
def State.SameButPhases (s t : State) : Prop :=
  State.SameButPorts s { t with phases := s.phases, nextId := s.nextId }

theorem State.SameButPorts.trans {s t u : State} (h : s.SameButPorts t) (h' : t.SameButPorts u) : s.SameButPorts u := by
  unfold State.SameButPorts at *
  cases s; cases t; cases u
  simp_all

theorem State.SameButPhases.trans {s t u : State} (h : s.SameButPhases t) (h' : t.SameButPhases u) : s.SameButPhases u := by
  unfold State.SameButPhases State.SameButPorts at *
  cases s; cases t; cases u
  simp_all

section
variable {s t : State} (h : s.SameButPhases t)
include h

theorem State.SameButPhases.mem : t.mem = s.mem := by have e := congrArg State.mem h; exact e
theorem State.SameButPhases.barriers : t.barriers = s.barriers := by have e := congrArg State.barriers h; exact e
theorem State.SameButPhases.changes : t.changes = s.changes := by have e := congrArg State.changes h; exact e
theorem State.SameButPhases.groups : t.groups = s.groups := by have e := congrArg State.groups h; exact e
theorem State.SameButPhases.applied : t.applied = s.applied := by have e := congrArg State.applied h; exact e
theorem State.SameButPhases.dpkg : t.dpkg = s.dpkg := by have e := congrArg State.dpkg h; exact e

end

theorem State.SameButPorts.phases {s t : State} (h : s.SameButPorts t) : t.phases = s.phases := by
  have e := congrArg State.phases h; exact e
theorem State.SameButPorts.nextId {s t : State} (h : s.SameButPorts t) : t.nextId = s.nextId := by
  have e := congrArg State.nextId h; exact e

theorem State.SameButPorts.toPhases {s t : State} (h : s.SameButPorts t) : s.SameButPhases t := by
  unfold State.SameButPhases State.SameButPorts at *
  cases s; cases t
  simp_all

/-! ### Phases that complete (R294) -/

theorem State.sendPhase_same (s : State) (p : PhaseOut) : s.SameButPhases (s.sendPhase p) := by
  have kept : s.SameButPhases { s.bump with phases := tblSet s.phases s.nextId p } := rfl
  exact kept.trans (State.putOut_ports _ p.leaf (.phase p)).toPhases

/-- A phase packet is kept under the next free number. -/
theorem State.sendPhase_phases (s : State) (p : PhaseOut) : (s.sendPhase p).phases = tblSet s.phases s.nextId p :=
  (State.putOut_ports { s.bump with phases := tblSet s.phases s.nextId p } p.leaf (.phase p)).phases

theorem State.sendPhase_nextId (s : State) (p : PhaseOut) : (s.sendPhase p).nextId = s.nextId + 1 :=
  (State.putOut_ports { s.bump with phases := tblSet s.phases s.nextId p } p.leaf (.phase p)).nextId

/-- The packet that takes the phase of object `b`, with handle `h`, to another package. -/
def State.phaseTo (s : State) (h : Nat) (b : Barrier) (d : Nat) : PhaseOut :=
  { leaf := b.leaf, dst := d, phase := { dpkg := s.dpkg, handle := BitVec.ofNat 32 h, phase := b.phase } }

/-- The phase of an object sent to packages. -/
def State.sendPhases (s : State) (h : Nat) (b : Barrier) (ds : List Nat) : State :=
  ds.foldl (fun s d => s.sendPhase (s.phaseTo h b d)) s

theorem State.setBarrier_eq (s : State) (h : Nat) (old b : Barrier) : s.setBarrier h old b =
    if b.phase ≠ old.phase then State.sendPhases { s with barriers := tblSet s.barriers h b } h b b.packages
    else { s with barriers := tblSet s.barriers h b } := rfl

theorem State.sendPhases_same (s : State) (h : Nat) (b : Barrier) (ds : List Nat) : s.SameButPhases (s.sendPhases h b ds) := by
  unfold State.sendPhases
  induction ds generalizing s with
  | nil => rfl
  | cons d ds ih => exact (s.sendPhase_same _).trans (ih _)

/-- What was kept under a number already taken stays. -/
theorem State.sendPhases_keeps (s : State) (h : Nat) (b : Barrier) (ds : List Nat) (n : Nat) (hn : n < s.nextId) :
    tblFind (s.sendPhases h b ds).phases n = tblFind s.phases n := by
  unfold State.sendPhases
  induction ds generalizing s with
  | nil => rfl
  | cons d ds ih =>
    have hn' : n < (s.sendPhase (s.phaseTo h b d)).nextId := by rw [State.sendPhase_nextId]; omega
    rw [List.foldl_cons, ih _ hn', State.sendPhase_phases, tblFind_tblSet, if_neg (by omega)]

/-- The phase is kept for each package until that acknowledges it. -/
theorem State.sendPhases_found (s : State) (h : Nat) (b : Barrier) (ds : List Nat) (d : Nat) (hd : d ∈ ds) :
    ∃ n, tblFind (s.sendPhases h b ds).phases n = some (s.phaseTo h b d) := by
  induction ds generalizing s with
  | nil => cases hd
  | cons e ds ih =>
    let t := s.sendPhase (s.phaseTo h b e)
    have htail : s.sendPhases h b (e :: ds) = t.sendPhases h b ds := rfl
    rw [htail]
    rcases List.mem_cons.1 hd with rfl | hd
    · refine ⟨s.nextId, ?_⟩
      rw [State.sendPhases_keeps _ _ _ _ _ (by rw [State.sendPhase_nextId]; omega), State.sendPhase_phases, tblFind_tblSet,
        if_pos rfl]
    · obtain ⟨n, hn⟩ := ih t hd
      refine ⟨n, hn.trans ?_⟩
      unfold State.phaseTo
      rw [(s.sendPhase_same _).dpkg]

/-! ### A change of a barrier object (R292, R297) -/

theorem Barrier.settle_eq (old b : Barrier) : old.settle b = Spec.settled old.exparr b := by
  have arrivals : b.arr - min b.arr b.exparr = b.arr - b.exparr := by omega
  unfold Barrier.settle Spec.settled
  rw [arrivals]

theorem Barrier.arrive_eq (b : Barrier) (n : Nat) : some (b.arrive n) = Spec.changed b (.arrive n) :=
  congrArg some (b.settle_eq _)

theorem Barrier.drop_eq (b : Barrier) (n : Nat) : some (b.drop n) = Spec.changed b (.drop n) := by
  have dropped : b.exparr - min n b.exparr = b.exparr - n := by omega
  unfold Barrier.drop
  rw [b.settle_eq, dropped]
  rfl

theorem Barrier.expect_eq (b : Barrier) (n : Nat) (v : BitVec 64) : b.expect n = Spec.changed b (.expect n v) := by
  have limit : 0xFFFFFF < b.expb + n ↔ 2 ^ 24 ≤ b.expb + n := by omega
  unfold Barrier.expect
  simp only [limit, b.settle_eq]
  rfl

/-- The change of an object that is not discarded: the object is replaced, and phases may be sent. -/
theorem State.setBarrier_same (s : State) (h : Nat) (old b : Barrier) :
    State.SameButPhases { s with barriers := tblSet s.barriers h b } (s.setBarrier h old b) := by
  rw [State.setBarrier_eq]
  split
  · exact State.sendPhases_same _ _ _ _
  · rfl

theorem State.setBarrier_barriers (s : State) (h : Nat) (old b : Barrier) (k : Nat) :
    tblFind (s.setBarrier h old b).barriers k = if k = h then some b else tblFind s.barriers k := by
  rw [(s.setBarrier_same h old b).barriers]
  exact tblFind_tblSet _ _ _ _

theorem State.setBarrier_phases_of_same (s : State) (h : Nat) (old b : Barrier) (hp : b.phase = old.phase) :
    (s.setBarrier h old b).phases = s.phases := by
  rw [State.setBarrier_eq, if_neg (fun hne => hne hp)]

/-- The state after a change of object `b` is applied: the object is replaced, or the change is discarded. -/
def State.changedTo (s : State) (h : Nat) (b : Barrier) (q : BarAsk) : State :=
  match Spec.changed b q with
  | some b' => s.setBarrier h b b'
  | none => s

theorem State.changedTo_some {s : State} {h : Nat} {b b' : Barrier} {q : BarAsk} (hq : Spec.changed b q = some b') :
    s.changedTo h b q = s.setBarrier h b b' := by
  unfold State.changedTo
  rw [hq]

theorem State.changedTo_none {s : State} {h : Nat} {b : Barrier} {q : BarAsk} (hq : Spec.changed b q = none) :
    s.changedTo h b q = s := by
  unfold State.changedTo
  rw [hq]

/-- Applying a change answers that state, and whether the change was discarded. -/
theorem State.applyAsk_eq {s : State} {h : Nat} {b : Barrier} (hb : tblFind s.barriers h = some b) (q : BarAsk) :
    s.applyAsk h q = (s.changedTo h b q, (Spec.changed b q).isNone) := by
  cases q with
  | arrive n =>
    rw [State.changedTo_some (b.arrive_eq n).symm, ← b.arrive_eq]
    simp only [State.applyAsk, State.changeBarrier, hb, Option.isNone_some]
  | drop n =>
    rw [State.changedTo_some (b.drop_eq n).symm, ← b.drop_eq]
    simp only [State.applyAsk, State.changeBarrier, hb, Option.isNone_some]
  | expect n v =>
    have e := b.expect_eq n v
    cases hq : b.expect n with
    | none =>
      rw [State.changedTo_none (e.symm.trans hq), ← e]
      simp only [State.applyAsk, State.applyExpect, hb, hq, Option.isNone_none]
    | some b' =>
      rw [State.changedTo_some (e.symm.trans hq), ← e]
      simp only [State.applyAsk, State.applyExpect, hb, hq, Option.isNone_some]

/-- A phase that completes is kept for each of the other packages of the object's piece. -/
theorem State.setBarrier_phases_of_new (s : State) (h : Nat) (old b : Barrier) (hp : b.phase ≠ old.phase) {d : Nat}
    (hd : d ∈ b.packages) : ∃ n, tblFind (s.setBarrier h old b).phases n = some (s.phaseTo h b d) := by
  rw [State.setBarrier_eq, if_pos hp]
  exact State.sendPhases_found { s with barriers := tblSet s.barriers h b } h b b.packages d hd

/-- The object after a change, and what else the state keeps. -/
theorem State.changedTo_barriers {s : State} {h : Nat} {b : Barrier} (hb : tblFind s.barriers h = some b) (q : BarAsk) (k : Nat) :
    tblFind (s.changedTo h b q).barriers k = if k = h then some ((Spec.changed b q).getD b) else tblFind s.barriers k := by
  cases hq : Spec.changed b q with
  | none =>
    rw [State.changedTo_none hq]
    by_cases hk : k = h
    · rw [if_pos hk, hk]
      exact hb
    · rw [if_neg hk]
  | some b' =>
    rw [State.changedTo_some hq]
    exact s.setBarrier_barriers h b b' k

theorem State.changedTo_keeps (s : State) (h : Nat) (b : Barrier) (q : BarAsk) :
    (s.changedTo h b q).applied = s.applied ∧ (s.changedTo h b q).dpkg = s.dpkg := by
  cases hq : Spec.changed b q with
  | none =>
    rw [State.changedTo_none hq]
    exact ⟨rfl, rfl⟩
  | some b' =>
    rw [State.changedTo_some hq]
    have same := s.setBarrier_same h b b'
    exact ⟨same.applied, same.dpkg⟩

/-- A change keeps what an object is for. -/
theorem changed_keeps {b b' : Barrier} {q : BarAsk} (h : Spec.changed b q = some b') :
    b'.far = b.far ∧ b'.owner = b.owner ∧ b'.leaf = b.leaf := by
  have settled (e : Nat) (x : Barrier) :
      (Spec.settled e x).far = x.far ∧ (Spec.settled e x).owner = x.owner ∧ (Spec.settled e x).leaf = x.leaf := by
    unfold Spec.settled
    split <;> exact ⟨rfl, rfl, rfl⟩
  cases q with
  | arrive n => cases h; exact settled ..
  | drop n => cases h; exact settled ..
  | expect n v =>
    change (if 2 ^ 24 ≤ b.expb + n then none else some (Spec.settled b.exparr { b with expb := b.expb + n })) = some b' at h
    split at h
    · cases h
    · cases h
      exact settled ..

theorem Barrier.mem_packages {b : Barrier} {home pid d : Nat} (hf : b.far = some home) (ho : b.owner = .piece pid)
    (hd : d ∈ Config.piecePackages pid) (hne : d ≠ home) : d ∈ b.packages := by
  unfold Barrier.packages
  rw [hf, ho]
  simp [hd, hne]

/-! ### The end of a change (R296) -/

/-- A change that has been applied leaves: nothing else but its group is touched. -/
theorem State.endChange_rest (s : State) (cid : Nat) (c : Change) (lost : Bool) :
    { s.endChange cid c lost with changes := s.changes, groups := s.groups } = s ∧
      (s.endChange cid c lost).changes = tblErase s.changes cid := by
  unfold State.endChange
  split <;> exact ⟨rfl, rfl⟩

/-- The operation that asked for it has ended. -/
theorem State.endChange_op {s : State} {cid : Nat} {c : Change} {lost : Bool} {op : Nat} (hop : c.op = some op) {g' : Group}
    (hg : (s.endChange cid c lost).group c.gid = some g') : ∀ p ∈ g'.ops, p.id = op → p.ended = true := by
  let t : State := { s with changes := tblErase s.changes cid }
  obtain ⟨err, e⟩ : ∃ err, s.endChange cid c lost = t.endOp c.gid op err := by
    unfold State.endChange
    rw [hop]
    exact ⟨_, rfl⟩
  rw [e] at hg
  cases h : t.group c.gid with
  | none =>
    unfold State.endOp State.settle State.modOp at hg
    rw [State.group_modGroup, if_pos rfl, State.group_modGroup, if_pos rfl, h] at hg
    cases hg
  | some g =>
    obtain ⟨g1, hg1, -, hended, -⟩ := State.endOp_facts h op err
    cases hg1.symm.trans hg
    exact hended

end Sys2Proof.Machine

namespace Sys2Proof.FrontEnd
open Sys2Proof Sys2Proof.Machine Sys2Proof.Spec

/-! ### Barrier changes, packets and mirrors (R62, R292 to R294, R297) -/

/-- R62: what leaves, or waits while the fabric budget of its leaf is used up. -/
theorem putOut_leaves (s : State) (leaf : Nat) (x : OutItem)
    (h : ¬ (s.exhausted leaf 2 = true ∨ ∃ w ∈ s.outwait, w.1 = leaf)) :
    (s.putOut leaf x).outwait = s.outwait ∧ match x with
      | .packet p => (s.putOut leaf x).outbox = s.outbox ++ [p]
      | .change p => (s.putOut leaf x).barOut = s.barOut ++ [p]
      | .phase p => (s.putOut leaf x).phaseOut = s.phaseOut ++ [p] := by
  obtain ⟨ps, e⟩ := (s.emit x).spend_eq leaf 2 x.bytes
  rw [State.putOut_of_leaves h, e]
  cases x <;> exact ⟨rfl, rfl⟩

/-- An acknowledgement of object `h`'s leaf has left or waits. -/
theorem putOut_packet (s : State) (leaf : Nat) (p : FabPacket) :
    p ∈ (s.putOut leaf (.packet p)).outbox ∨ (leaf, .packet p) ∈ (s.putOut leaf (.packet p)).outwait := by
  by_cases h : s.exhausted leaf 2 = true ∨ ∃ w ∈ s.outwait, w.1 = leaf
  · rw [State.putOut_of_waits h]
    exact .inr (by simp)
  · have e := (putOut_leaves s leaf (.packet p) h).2
    exact .inl (by rw [e]; simp)

/-- R292 to R294, R297: a change whose cover has performed is applied to its object on this package. -/
theorem changeApply_here (s : State) (cid : Nat) (c : Change) (hc : tblFind s.changes cid = some c)
    (hcov : s.covered c.cover c.scope.toNat = true) (b b' : Barrier) (hpkg : c.pkg = none)
    (hawake : s.barAsleep c.handle = false) (hb : tblFind s.barriers c.handle = some b)
    (hchange : Spec.changed b c.ask = some b') :
    ∃ s', exec (.barrierChangeApply cid) s = .next s' ∧ tblFind s'.changes cid = none ∧
      (∀ h, tblFind s'.barriers h = if h = c.handle then some b' else tblFind s.barriers h) ∧ s'.mem = s.mem ∧
      (b'.phase = b.phase → s'.phases = s.phases) ∧
      (b'.phase ≠ b.phase → ∀ home pid d, b.far = some home → b.owner = .piece pid → d ∈ Config.piecePackages pid → d ≠ home →
        ∃ n, tblFind s'.phases n = some
          { leaf := b.leaf, dst := d, phase := { dpkg := s.dpkg, handle := BitVec.ofNat 32 c.handle, phase := b'.phase } }) ∧
      (∀ op g', c.op = some op → s'.group c.gid = some g' → ∀ p ∈ g'.ops, p.id = op → p.ended = true) := by
  let t := s.setBarrier c.handle b b'
  have e : s.changeApply cid = t.endChange cid c false := by
    unfold State.changeApply
    simp only [hc, hcov, hpkg, hawake, State.applyAsk_eq hb, State.changedTo_some hchange, hchange, Option.isNone_some,
      Bool.not_true, Bool.false_eq_true, if_false]
    rfl
  have same := s.setBarrier_same c.handle b b'
  obtain ⟨rest, hchanges⟩ := t.endChange_rest cid c false
  have hbar := congrArg State.barriers rest
  have hmem := congrArg State.mem rest
  have hphases := congrArg State.phases rest
  refine ⟨_, congrArg Host.Outcome.next e, ?_, fun h => ?_, hmem.trans same.mem, fun hp => ?_, fun hp home pid d hf ho hd hne => ?_,
    fun op g' hop hg => State.endChange_op hop hg⟩
  · rw [hchanges, tblFind_tblErase, if_pos rfl]
  · exact (congrArg (tblFind · h) hbar).trans (s.setBarrier_barriers c.handle b b' h)
  · exact hphases.trans (s.setBarrier_phases_of_same c.handle b b' hp)
  · obtain ⟨hfar, howner, hleaf⟩ := changed_keeps hchange
    obtain ⟨n, hn⟩ := s.setBarrier_phases_of_new c.handle b b' hp
      (Barrier.mem_packages (hfar.trans hf) (howner.trans ho) hd hne)
    refine ⟨n, ((congrArg (tblFind · n) hphases).trans hn).trans ?_⟩
    unfold State.phaseTo
    rw [hleaf]

/-- R294: a change for an object of another package is sent there, and until it is acknowledged sent again. -/
theorem changeApply_far (s : State) (cid : Nat) (c : Change) (hc : tblFind s.changes cid = some c)
    (hcov : s.covered c.cover c.scope.toNat = true) (hpkg : c.pkg.isSome = true) (hsent : c.sent = false) :
    exec (.barrierChangeApply cid) s = .next
      (({ s with changes := tblSet s.changes cid { c with sent := true } } : State).putOut c.leaf (.change (s.barPacket cid c))) := by
  obtain ⟨d, hd⟩ := Option.isSome_iff_exists.1 hpkg
  refine congrArg Host.Outcome.next (show s.changeApply cid = _ from ?_)
  unfold State.changeApply
  simp only [hc, hcov, hd, hsent, Bool.not_true, Bool.false_eq_true, if_false]

theorem packetResend_change (s : State) (cid : Nat) (c : Change) (hc : tblFind s.changes cid = some c) (hsent : c.sent = true) :
    exec (.barrierPacketResend cid) s = .next (s.putOut c.leaf (.change (s.barPacket cid c))) := by
  refine congrArg Host.Outcome.next (show s.packetResend cid = _ from ?_)
  unfold State.packetResend
  simp only [hc, hsent, if_true]

theorem packetResend_phase (s : State) (cid : Nat) (p : PhaseOut) (hc : tblFind s.changes cid = none)
    (hp : tblFind s.phases cid = some p) : exec (.barrierPacketResend cid) s = .next (s.putOut p.leaf (.phase p)) := by
  refine congrArg Host.Outcome.next (show s.packetResend cid = _ from ?_)
  unfold State.packetResend
  simp only [hc, hp]

/-- The change that a packet asks for. -/
def askOf (p : BarPacket) : BarAsk :=
  match p.op with
  | .arrive n => .arrive n
  | .drop n => .drop n
  | .expect n => .expect n 0

/-- The packet's change has been applied, and is recorded with whether it was discarded. -/
def arrived (s : State) (p : BarPacket) (b : Barrier) : State :=
  { s.changedTo p.handle.toNat b (askOf p) with
      applied := s.applied ++ [(p.src, p.seq, (Spec.changed b (askOf p)).isNone)] }

theorem arrived_barriers {s : State} {p : BarPacket} {b : Barrier} (hb : tblFind s.barriers p.handle.toNat = some b) (h : Nat) :
    tblFind (arrived s p b).barriers h =
      if h = p.handle.toNat then some ((Spec.changed b (askOf p)).getD b) else tblFind s.barriers h :=
  State.changedTo_barriers hb (askOf p) h

theorem arrived_dpkg (s : State) (p : BarPacket) (b : Barrier) : (arrived s p b).dpkg = s.dpkg :=
  (s.changedTo_keeps _ b (askOf p)).2

/-- The acknowledgement of a packet for an object leaves for the object's leaf. -/
theorem sendAck_eq {s : State} {h : Nat} {b : Barrier} (hb : tblFind s.barriers h = some b) (p : FabPacket) :
    s.sendAck h p = s.putOut b.leaf (.packet p) := by
  unfold State.sendAck
  rw [hb]

theorem ackPacket_congr {s t : State} (h : t.dpkg = s.dpkg) (p : BarPacket) (lost : Bool) :
    ackPacket t p lost = ackPacket s p lost := by
  unfold ackPacket
  rw [h]

/-- The leaf of an object stays, changed or not. -/
theorem changed_getD_leaf (b : Barrier) (q : BarAsk) : ((Spec.changed b q).getD b).leaf = b.leaf := by
  cases h : Spec.changed b q with
  | none => rfl
  | some b' => exact (changed_keeps h).2.2

/-- A packet that has not come before is applied, and acknowledged. -/
theorem packetArrival_new {s : State} {p : BarPacket} {b : Barrier} (hb : tblFind s.barriers p.handle.toNat = some b)
    (hawake : s.barAsleep p.handle.toNat = false) (hnew : ∀ a ∈ s.applied, a.1 ≠ p.src ∨ a.2.1 ≠ p.seq) :
    s.packetArrival p = (arrived s p b).putOut b.leaf (.packet (ackPacket s p (Spec.changed b (askOf p)).isNone)) := by
  have unseen : s.applied.find? (fun a => a.1 == p.src && a.2.1 == p.seq) = none := by
    refine List.find?_eq_none.2 fun a ha => ?_
    rcases hnew a ha with h | h <;> simp [h]
  have hobject := arrived_barriers (p := p) hb p.handle.toNat
  rw [if_pos rfl] at hobject
  have applied : s.packetArrival p =
      (arrived s p b).sendAck p.handle.toNat (ackPacket (arrived s p b) p (Spec.changed b (askOf p)).isNone) := by
    let record (r : State × Bool) : State := { r.1 with applied := r.1.applied ++ [(p.src, p.seq, r.2)] }
    have asked : s.packetArrival p = (record (s.applyAsk p.handle.toNat (askOf p))).sendAck p.handle.toNat
        (ackPacket (s.applyAsk p.handle.toNat (askOf p)).1 p (s.applyAsk p.handle.toNat (askOf p)).2) := by
      unfold State.packetArrival
      simp only [unseen, hawake, Bool.false_eq_true, if_false]
      rfl
    rw [asked, State.applyAsk_eq hb]
    unfold arrived
    rw [← (s.changedTo_keeps p.handle.toNat b (askOf p)).1]
    rfl
  rw [applied, sendAck_eq hobject, changed_getD_leaf, ackPacket_congr (arrived_dpkg s p b)]

/-- A packet that comes again is acknowledged as before, and nothing else happens. -/
theorem packetArrival_again {s : State} {p : BarPacket} {b : Barrier} {lost : Bool}
    (hb : tblFind s.barriers p.handle.toNat = some b)
    (hold : s.applied.find? (fun a => a.1 == p.src && a.2.1 == p.seq) = some (p.src, p.seq, lost)) :
    s.packetArrival p = s.putOut b.leaf (.packet (ackPacket s p lost)) := by
  unfold State.packetArrival
  simp only [hold]
  exact sendAck_eq hb _

/-- R294: a packet is applied once, however often it comes, and acknowledged. -/
theorem packetArrival_once (s : State) (p : BarPacket) (b : Barrier) (hb : tblFind s.barriers p.handle.toNat = some b)
    (hawake : s.barAsleep p.handle.toNat = false) (hnew : ∀ a ∈ s.applied, a.1 ≠ p.src ∨ a.2.1 ≠ p.seq) :
    let lost := (Spec.changed b (askOf p)).isNone
    let ack := ackPacket s p lost
    ∃ s', exec (.barrierPacketArrival p) s = .next s' ∧ (p.src, p.seq, lost) ∈ s'.applied ∧
      (∀ h, tblFind s'.barriers h =
        if h = p.handle.toNat then some ((Spec.changed b (askOf p)).getD b) else tblFind s.barriers h) ∧
      (ack ∈ s'.outbox ∨ (b.leaf, .packet ack) ∈ s'.outwait) ∧
      exec (.barrierPacketArrival p) s' = .next (s'.putOut b.leaf (.packet ack)) := by
  intro lost ack
  let t := (arrived s p b).putOut b.leaf (.packet ack)
  have ports := (arrived s p b).putOut_ports b.leaf (.packet ack)
  have hbar : t.barriers = (arrived s p b).barriers := ports.toPhases.barriers
  have happlied : t.applied = s.applied ++ [(p.src, p.seq, lost)] := ports.toPhases.applied
  have hdpkg : t.dpkg = s.dpkg := ports.toPhases.dpkg.trans (arrived_dpkg s p b)
  have hobject : tblFind t.barriers p.handle.toNat = some ((Spec.changed b (askOf p)).getD b) := by
    rw [hbar, arrived_barriers hb, if_pos rfl]
  have seen : t.applied.find? (fun a => a.1 == p.src && a.2.1 == p.seq) = some (p.src, p.seq, lost) := by
    have unseen : s.applied.find? (fun a => a.1 == p.src && a.2.1 == p.seq) = none := by
      refine List.find?_eq_none.2 fun a ha => ?_
      rcases hnew a ha with h | h <;> simp [h]
    rw [happlied, List.find?_append, unseen]
    simp
  refine ⟨t, congrArg Host.Outcome.next (packetArrival_new hb hawake hnew), ?_, fun h => ?_, putOut_packet _ _ _,
    congrArg Host.Outcome.next (?_ : t.packetArrival p = _)⟩
  · rw [happlied]
    simp
  · rw [hbar]
    exact arrived_barriers hb h
  · rw [packetArrival_again hobject seen, changed_getD_leaf, ackPacket_congr hdpkg]

/-- The phase that a mirror, or its absence, shows. -/
theorem phaseOf_cons (s : State) (m : Mirror) (ms : List Mirror) :
    State.phaseOf { s with mirrors := m :: ms } m.handle.toNat (some m.dpkg) = m.phase := by
  simp [State.phaseOf]

/-- R294: a mirror takes the next phase, and acknowledges what it has taken. -/
theorem mirrorUpdate_takes (s : State) (d : Nat) (h : BitVec 32) (ph : BitVec 24) :
    let old := s.phaseOf h.toNat (some d)
    ∃ s', exec (.phaseMirrorUpdate d h ph) s = .next s' ∧ { s' with mirrors := s.mirrors, outbox := s.outbox } = s ∧
      s'.phaseOf h.toNat (some d) = (if ph = old + 1 then ph else old) ∧
      (s'.outbox ≠ s.outbox ↔ ph = old + 1 ∨ (old - ph).toNat < 2 ^ 23) := by
  intro old
  let m : Mirror := { dpkg := d, handle := h, phase := ph }
  let ack : FabPacket := { src := s.dpkg, srcLeaf := 0, dst := d, gid := 0, op := 0, body := .reply 0 (phaseKey m) [] }
  let taken : State := { s with mirrors := m :: s.mirrors.filter (fun x => !(x.dpkg == d && x.handle == h)) }
  have e : s.mirrorUpdate d h ph = if ph = old + 1 then taken.emit (.packet ack)
      else if (old - ph).toNat < 2 ^ 23 then s.emit (.packet ack) else s := rfl
  by_cases next : ph = old + 1
  · refine ⟨taken.emit (.packet ack), congrArg Host.Outcome.next (e.trans (if_pos next)), rfl, ?_, ?_⟩
    · rw [if_pos next]
      exact phaseOf_cons s m _
    · exact ⟨fun _ => .inl next, fun _ => by simp [State.emit, taken]⟩
  · rw [if_neg next] at e
    rw [if_neg next]
    by_cases repeated : (old - ph).toNat < 2 ^ 23
    · exact ⟨s.emit (.packet ack), congrArg Host.Outcome.next (e.trans (if_pos repeated)), rfl, rfl,
        fun _ => .inr repeated, fun _ => by simp [State.emit]⟩
    · exact ⟨s, congrArg Host.Outcome.next (e.trans (if_neg repeated)), rfl, rfl,
        fun changed => absurd rfl changed, fun h => (h.elim next repeated).elim⟩

/-- Settles O40, by what applying a change makes of its object, and by what leaves through the ports. -/
theorem barrierEvents : Obligations.BarrierEvents := by
  unfold Obligations.BarrierEvents
  intro s
  refine ⟨fun leaf x => ⟨fun h => State.putOut_of_waits h x, putOut_leaves s leaf x⟩,
    fun cid c hc hcov => ⟨changeApply_here s cid c hc hcov, changeApply_far s cid c hc hcov⟩, packetResend_change s,
    packetResend_phase s, fun p b q hq hb hawake hnew => ?_, mirrorUpdate_takes s⟩
  obtain rfl : askOf p = q := by
    unfold askOf
    cases hp : p.op <;> rw [hp] at hq <;> exact hq.symm
  exact packetArrival_once s p b hb hawake hnew

end Sys2Proof.FrontEnd
end

section
/-!
SUPPORT. Front end and partitions: the statement about copies, refuted by one state of the model, which stands here with what the
model makes of it.
-/

namespace Sys2Proof.FrontEnd
open Sys2Proof Sys2Proof.Machine Sys2Proof.Spec

/-! ### A copy's byte read through a table entry that another interface brought into the cache (R176, R182, R66) -/

/-- A copy of 16 bytes from GLOBAL address 0. -/
def copyFromZero : CopyOp :=
  { src := 0, dst := 0x1000, rows := 1, rowBytes := 16, sstride := 0, dstride := 0, credit := none, scope := 2, mode := .user,
    lane := 0, done := [], writes := [], ended := false, suspended := false, pageTag := none, answered := false, credited := 0 }

def copyFromZeroOp : Op := { id := 0, cls := .cp, kind := .copy copyFromZero }

/-- A group of interface 1 with that copy outstanding. -/
def copyingGroup : Group := { launch := 3, vi := 1, leaf := 0, core := 0, ctx := 0, ops := [copyFromZeroOp], nextOp := 1 }

/-- The root entry of the leaf's stage 2, as a walk for interface 2 has brought it into the cluster's cache. -/
def othersRootEntry : TlbEntry :=
  { cluster := 0, leaf := 0, vi := 2, stage := 2, level := 3, input := 0, at_ := placedTable, value := 0x2001 }

/-- A machine with that group, in which the next read of the line of the leaf's stage-2 root meets an uncorrectable error. The
host, which decides about errors of the leaf, has set up an assist ring. -/
def copyMeetsError : State :=
  { State.reset with
    groups := [(7, copyingGroup)], mem := placedTables.foldl (fun m p => memPut m p.1 p.2) [], tlb := [othersRootEntry]
    hardNext := [placedTable / 128]
    parts := [(0, { channels := 1, modes := 0x20, s2root := placedTable, vis := [1, 2] })], mgmt := { assist := { ctl := 0x100 } } }

/-- The cache supplies the root entry, so the source translates: to system address 0, on a line without errors. -/
theorem copyMeetsError_source :
    ∃ es, copyMeetsError.copyPlace copyingGroup .user (copyFromZero.srcAt 0) { r := true } = .ok (.sys 0, es) := ⟨_, rfl⟩

theorem copyMeetsError_clean : Spec.clean copyMeetsError (.sys 0) := by
  intro n hn
  obtain rfl : 0 = n := Option.some.inj hn
  decide +kernel

/-- The walk counts as one that read the root entry, for the cache holds it under another interface: the error is met, and the
request to the host goes to the assist ring, which begins at the first host address. -/
theorem copyMeetsError_mem : (copyMeetsError.transferByte 7 0 0).mem =
    memPut copyMeetsError.mem hostBase (assistRecord 0 0 5 []) := rfl

theorem copyMeetsError_flight : (copyMeetsError.transferByte 7 0 0).flight = [] := by decide +kernel

/-- With no write in flight the hub reads memory. -/
theorem readByte_hub_of_idle {s : State} (h : s.flight = []) (a : Nat) : (s.readByte hub (.sys a)).1 = tblGet s.mem 0 a := by
  simp [State.readByte, State.readFrom, State.youngest, h, State.baseByte]

/-- Byte 4 of the ring, the function of the request, is 5 after the step and was 0 before it. -/
theorem copyMeetsError_changes_host_memory :
    (copyMeetsError.transferByte 7 0 0).readByte hub (.sys (hostBase + 4)) ≠ copyMeetsError.readByte hub (.sys (hostBase + 4)) := by
  intro same
  have bytes := congrArg Prod.fst same
  have length : (assistRecord 0 0 5 []).length = 64 := rfl
  have inRecord : hostBase ≤ hostBase + 4 ∧ hostBase + 4 < hostBase + (assistRecord 0 0 5 []).length := by omega
  have after : (assistRecord 0 0 5 []).getD 4 0 = 5 := rfl
  have before : tblGet copyMeetsError.mem 0 (hostBase + 4) = 0 := by decide +kernel
  rw [readByte_hub_of_idle copyMeetsError_flight, readByte_hub_of_idle rfl, copyMeetsError_mem, memPut_get, if_pos inRecord,
    Nat.add_sub_cancel_left, after, before] at bytes
  exact absurd bytes (by decide)

/-- Refutes O41: CopyProgress lets the read of a copy's byte change no byte that anyone reads. Where the walk for its source uses
a stage-2 entry that the cluster's cache holds from another interface of the leaf, the model takes the entry as read anew: the
error marked on its line is met (R182), and the host, where it decides about errors, is asked through the assist ring (R66). -/
theorem not_copies : ¬ Obligations.Copies := by
  unfold Obligations.Copies
  rintro ⟨-, hProgress⟩
  obtain ⟨hRead, -⟩ := hProgress copyMeetsError 7 copyingGroup copyFromZeroOp copyFromZero rfl rfl rfl
  obtain ⟨es, hsource⟩ := copyMeetsError_source
  obtain ⟨s', g', hs', -, -, -, -, hBytes, -⟩ := hRead 0 (.sys 0) es rfl rfl rfl rfl (by decide) List.not_mem_nil rfl rfl hsource
    copyMeetsError_clean rfl
  obtain rfl : copyMeetsError.transferByte 7 0 0 = s' := Host.Outcome.next.inj hs'
  exact copyMeetsError_changes_host_memory (hBytes hub (.sys (hostBase + 4)))

end Sys2Proof.FrontEnd
end

section
/-!
SUPPORT. Front end and partitions: the drain of a write from its buffer to the next, and of an urn operation at its level (R62,
R279, R282, R283, R303).
-/

namespace Sys2Proof.Machine
open Sys2Proof

/-! ### Tables whose entries are changed one by one -/

/-- Reading a table whose entries have been changed, their numbers kept. -/
theorem tblFind_map {α β : Type} (t : Tbl α) (f : Nat × α → Nat × β) (hf : ∀ p, (f p).1 = p.1) (k : Nat) :
    tblFind (t.map f) k = (tblFind t k).map (fun v => (f (k, v)).2) := by
  induction t with
  | nil => rfl
  | cons p t ih =>
    obtain ⟨j, v⟩ := p
    have hj : f (j, v) = (j, (f (j, v)).2) := Prod.ext (hf _) rfl
    rw [List.map_cons, hj]
    unfold tblFind
    by_cases h : k = j
    · subst h
      rw [if_pos rfl, if_pos rfl]
      rfl
    · rw [if_neg h, if_neg h, ih]

/-! ### Bytes that enter memory (R277, R301) -/

/-- Memory with bytes put at system addresses, in order. -/
def memWith (m : List Host.Cell) (bs : List (Loc × Byte)) : List Host.Cell :=
  bs.foldl (fun m p => match p.1 with
    | .sys a => tblPut m 0 a p.2
    | _ => m) m

/-- All bytes of a write lie at system addresses. -/
def AllSys (bs : List (Loc × Byte)) : Prop := ∀ p ∈ bs, ∃ a, p.1 = .sys a

theorem memWith_cons (m : List Host.Cell) (a : Nat) (b : Byte) (bs : List (Loc × Byte)) :
    memWith m ((.sys a, b) :: bs) = memWith (tblPut m 0 a b) bs := rfl

theorem State.putBytes_of_sys (s : State) {bs : List (Loc × Byte)} (h : AllSys bs) :
    s.putBytes bs = { s with mem := memWith s.mem bs } := by
  unfold State.putBytes
  induction bs generalizing s with
  | nil => rfl
  | cons p bs ih =>
    obtain ⟨l, b⟩ := p
    obtain ⟨a, rfl⟩ := h (l, b) List.mem_cons_self
    rw [List.foldl_cons, ih _ (fun p hp => h p (List.mem_cons_of_mem _ hp))]
    rfl

/-- An address that no byte names keeps its byte. -/
theorem tblGet_memWith_other {bs : List (Loc × Byte)} (h : AllSys bs) (m : List Host.Cell) {a : Nat}
    (ha : ∀ p ∈ bs, p.1 ≠ .sys a) : tblGet (memWith m bs) 0 a = tblGet m 0 a := by
  induction bs generalizing m with
  | nil => rfl
  | cons p bs ih =>
    obtain ⟨l, b⟩ := p
    obtain ⟨c, rfl⟩ := h (l, b) List.mem_cons_self
    have hc : a ≠ c := fun e => ha (.sys c, b) List.mem_cons_self (congrArg Loc.sys e.symm)
    rw [memWith_cons, ih (fun p hp => h p (List.mem_cons_of_mem _ hp)) _ (fun p hp => ha p (List.mem_cons_of_mem _ hp)),
      tblGet_tblPut, if_neg hc]

/-- Where the addresses differ, each holds its byte. -/
theorem tblGet_memWith_mem {bs : List (Loc × Byte)} (h : AllSys bs) (hn : (bs.map (·.1)).Nodup) (m : List Host.Cell) {a : Nat}
    {b : Byte} (hb : (Loc.sys a, b) ∈ bs) : tblGet (memWith m bs) 0 a = b := by
  induction bs generalizing m with
  | nil => cases hb
  | cons p bs ih =>
    obtain ⟨l, x⟩ := p
    obtain ⟨c, rfl⟩ := h (l, x) List.mem_cons_self
    have hrest : AllSys bs := fun p hp => h p (List.mem_cons_of_mem _ hp)
    obtain ⟨hnew, hn⟩ := List.nodup_cons.1 hn
    rw [memWith_cons]
    rcases List.mem_cons.1 hb with e | hb
    · obtain ⟨rfl, rfl⟩ : a = c ∧ b = x := by simpa using e
      rw [tblGet_memWith_other hrest _ (fun p hp e => hnew (List.mem_map.2 ⟨p, hp, e⟩)), tblGet_tblPut, if_pos rfl]
    · exact ih hrest hn _ hb

/-- `g'` is `g` but for its monitor and its lanes, which a touch of the monitor changes (R301). -/
def Group.SameButWatch (g g' : Group) : Prop := { g' with mon := g.mon, lanes := g.lanes } = g

theorem Group.touch_sameButWatch (g : Group) : g.SameButWatch g.touch := by
  unfold Group.touch
  split <;> rfl

section
variable {g g' : Group} (h : g.SameButWatch g')
include h

theorem Group.SameButWatch.v : g'.v = g.v := by have e := congrArg Group.v h; exact e
theorem Group.SameButWatch.k : g'.k = g.k := by have e := congrArg Group.k h; exact e
theorem Group.SameButWatch.remote : g'.remote = g.remote := by have e := congrArg Group.remote h; exact e
theorem Group.SameButWatch.ops : g'.ops = g.ops := by have e := congrArg Group.ops h; exact e

end

theorem Group.SameButOps.remote {g g' : Group} (h : g.SameButOps g') : g'.remote = g.remote := by
  have e := congrArg Group.remote h; exact e

/-- A write that enters a buffer or memory touches monitors, and nothing else of the groups. -/
theorem State.touchMonitors_group {s : State} {gid : Nat} {g : Group} (hg : s.group gid = some g) (w : Write) (lvl : Nat) :
    ∃ g', (s.touchMonitors w lvl).group gid = some g' ∧ g.SameButWatch g' := by
  unfold State.touchMonitors State.group
  rw [tblFind_map _ _ (fun p => by dsimp only; split <;> rfl)]
  refine ⟨_, congrArg (Option.map _) hg, ?_⟩
  dsimp only
  split
  · exact g.touch_sameButWatch
  · rfl

theorem State.touchMonitors_eq (s : State) (w : Write) (lvl : Nat) :
    s.touchMonitors w lvl = { s with groups := (s.touchMonitors w lvl).groups } := rfl

/-- A write whose bytes all lie at system addresses enters memory. -/
theorem State.land_eq (s : State) {w : Write} (h : AllSys w.bytes) : ∃ ms ps hs gs, s.land w =
      { s with migrations := ms, mem := memWith s.mem w.bytes, poisoned := ps, healing := hs, groups := gs } ∧
    ∀ gid g, s.group gid = some g → ∃ g', tblFind gs gid = some g' ∧ g.SameButWatch g' := by
  unfold State.land
  rw [State.putBytes_of_sys _ h]
  refine ⟨_, _, _, _, rfl, fun gid g hg => ?_⟩
  exact State.touchMonitors_group (s := { s.noteWritten w.bytes with mem := memWith s.mem w.bytes }) hg w 6

/-- A write enters a buffer. -/
theorem State.addWrite_eq (s : State) (w : Write) : ∃ gs, s.addWrite w = { s with flight := s.flight ++ [w], groups := gs } ∧
    ∀ gid g, s.group gid = some g → ∃ g', tblFind gs gid = some g' ∧ g.SameButWatch g' :=
  ⟨_, rfl, fun _ _ hg => State.touchMonitors_group (s := { s with flight := s.flight ++ [w] }) hg w w.level⟩

/-! ### A write drains (R62, R279) -/

/-- A write of bytes at system addresses lies in memory's buffers. -/
theorem Write.onChip_of_sys {w : Write} (h : AllSys w.bytes) : w.onChip = false := by
  unfold Write.onChip Write.place
  cases hb : w.bytes with
  | nil => rfl
  | cons p bs =>
    obtain ⟨a, ha⟩ := h p (hb ▸ List.mem_cons_self)
    simp only [ha]

section
variable {s t : State} (h : s.SameButCounts t)
include h

theorem State.SameButCounts.flight : t.flight = s.flight := by have e := congrArg State.flight h; exact e
theorem State.SameButCounts.mem : t.mem = s.mem := by have e := congrArg State.mem h; exact e
theorem State.SameButCounts.tiles : t.tiles = s.tiles := by have e := congrArg State.tiles h; exact e

end

theorem State.spend_counts (s : State) (leaf k n : Nat) : s.SameButCounts (s.spend leaf k n) := by
  obtain ⟨ps, e⟩ := s.spend_eq leaf k n
  rw [e]
  rfl

theorem State.spendWrite_counts (s : State) (w : Write) : s.SameButCounts (s.spendWrite w) := by
  unfold State.spendWrite
  split
  · split
    · exact s.spend_counts _ _ _
    · exact s.moveUnits_counts _ _
  · rfl

/-- A write that moves leaves its buffer, and takes its next place up its path. -/
theorem State.drainId_moves {s : State} {w : Write} (hw : s.flight.find? (fun x => x.id = w.id) = some w)
    (hmay : mayDrain w s.flight = true) (hrun : s.stalled w = false) (hload : s.awaited w = false)
    (hbudget : s.budgetStalls w = false) (hchip : w.onChip = false) :
    s.drainId w.id = (s.spendWrite w).drain { w with held := false } := by
  have hplace : ∀ h o, w.place ≠ .tile h o := by
    intro h o e
    unfold Write.onChip at hchip
    rw [e] at hchip
    exact Bool.noConfusion hchip
  unfold State.drainId
  simp only [hw, hmay, hrun, hload, hbudget, Bool.not_true, Bool.or_self, Bool.false_eq_true, if_false]
  split
  · rename_i h o e
    exact absurd e (hplace h o)
  · rfl

/-- A used up budget holds the write in its place (R62). -/
theorem State.drainId_held {s : State} {w : Write} (hw : s.flight.find? (fun x => x.id = w.id) = some w)
    (hmay : mayDrain w s.flight = true) (hrun : s.stalled w = false) (hload : s.awaited w = false)
    (hbudget : s.budgetStalls w = true) :
    s.drainId w.id = { s with flight := s.flight.map (fun x => if x.id = w.id then { x with held := true } else x) } := by
  unfold State.drainId
  simp only [hw, hmay, hrun, hload, hbudget, Bool.not_true, Bool.or_self, Bool.false_eq_true, if_false, if_true]

/-- The writes in flight without one of them. -/
def State.without (s : State) (w : Write) : State := { s with flight := s.flight.filter (fun x => x.id ≠ w.id) }

theorem State.SameButCounts.without_flight {s t : State} (h : s.SameButCounts t) (w : Write) :
    (t.without w).flight = (s.without w).flight :=
  congrArg (List.filter _) h.flight

/-- The write one buffer further up, no longer held. -/
def Write.up (w : Write) : Write := { w with level := w.level + 1, held := false }

/-- Below the chip a write takes the next level, whatever becomes of it there. -/
theorem State.drain_eq (s : State) {w : Write} (hchip : w.onChip = false) : s.drain { w with held := false } =
    match w.urn with
    | some r =>
      if r.level ≤ w.level + 1 then
        match (s.without w).performUrn w.up r (w.level + 1) with
        | (s, none) => s
        | (s, some w') => if w.level + 1 = 6 then s.land w' else s.addWrite w'
      else { s.without w with flight := (s.without w).flight ++ [w.up] }
    | none => if w.level + 1 = 6 then (s.without w).land w.up else (s.without w).addWrite w.up := by
  have hnext : (if ({ w with held := false } : Write).onChip then 6 else w.level + 1) = w.level + 1 :=
    if_neg (by rw [show ({ w with held := false } : Write).onChip = false from hchip]; decide)
  unfold State.drain
  dsimp only
  rw [hnext]
  rfl

theorem State.drain_buffer (s : State) {w : Write} (hchip : w.onChip = false) (hurn : w.urn = none) (hlevel : w.level < 5) :
    s.drain { w with held := false } = (s.without w).addWrite w.up := by
  rw [s.drain_eq hchip, hurn]
  exact if_neg (by omega)

theorem State.drain_memory (s : State) {w : Write} (hchip : w.onChip = false) (hurn : w.urn = none) (hlevel : w.level = 5) :
    s.drain { w with held := false } = (s.without w).land w.up := by
  rw [s.drain_eq hchip, hurn]
  exact if_pos (by omega)

/-- An urn operation on its way to its level stays pending (R283). -/
theorem State.drain_pending (s : State) {w : Write} {r : UrnReq} (hchip : w.onChip = false) (hurn : w.urn = some r)
    (hlevel : w.level + 1 < r.level) : s.drain { w with held := false } =
      { s.without w with flight := (s.without w).flight ++ [w.up] } := by
  rw [s.drain_eq hchip, hurn]
  exact if_neg (by omega)

/-- One that arrives is performed there, and its result goes on as a write (R283). -/
theorem State.drain_performs (s : State) {w w' : Write} {r : UrnReq} {t : State} (hchip : w.onChip = false)
    (hurn : w.urn = some r) (hlevel : r.level ≤ w.level + 1)
    (hdone : (s.without w).performUrn w.up r (w.level + 1) = (t, some w')) :
    s.drain { w with held := false } = if w.level + 1 = 6 then t.land w' else t.addWrite w' := by
  rw [s.drain_eq hchip, hurn]
  dsimp only
  rw [if_pos hlevel, hdone]

/-! ### The parts of a request (R303 to R306) -/

/-- A number of `n` bytes read as signed is what its bit vector is. -/
theorem asInt_signed {n x : Nat} (h : x < 2 ^ (8 * n)) : asInt true n x = (BitVec.ofNat (8 * n) x).toInt := by
  rw [BitVec.toInt_eq_toNat_cond, BitVec.toNat_ofNat, Nat.mod_eq_of_lt h]
  unfold asInt
  rcases Nat.eq_zero_or_pos n with rfl | hn
  · obtain rfl : x = 0 := by simpa using h
    rfl
  · have htop : 2 ^ (8 * n) = 2 * 2 ^ (8 * n - 1) := by rw [← Nat.pow_succ']; congr 1; omega
    by_cases hx : 2 ^ (8 * n - 1) ≤ x
    · rw [if_pos (by simpa using hx), if_neg (by omega)]
      simp
    · rw [if_neg (by simpa using hx), if_pos (by omega)]

theorem asInt_unsigned (n x : Nat) : asInt false n x = x := rfl

/-- A request whose cell is read as a number of its bytes. -/
def UrnReq.Reads (r : UrnReq) (old : Nat) : Prop := ∀ op signed, r.act = .int op signed → old < 2 ^ (8 * r.bytes)

theorem urnInt_lt (op : UrnOp) (signed : Bool) {n old b : Nat} (ho : old < 2 ^ (8 * n)) (hb : b < 2 ^ (8 * n)) :
    urnInt op signed n old b < 2 ^ (8 * n) := by
  cases op with
  | add => exact Nat.mod_lt _ (by positivity)
  | min => unfold urnInt; dsimp only; split <;> assumption
  | max => unfold urnInt; dsimp only; split <;> assumption
  | and => exact Nat.lt_of_le_of_lt Nat.and_le_left ho
  | or => exact Nat.or_lt_two_pow ho hb
  | xor => exact Nat.xor_lt_two_pow ho hb
  | swap => exact hb

theorem urnInt_eq (op : UrnOp) (signed : Bool) {n old b : Nat} (ho : old < 2 ^ (8 * n)) (hb : b < 2 ^ (8 * n)) (c : Nat) :
    (urnInt op signed n old b, 0) = Spec.urnStep (.int op signed) n old b c := by
  cases signed with
  | true => cases op <;> simp [urnInt, Spec.urnStep, asInt_signed ho, asInt_signed hb]
  | false => cases op <;> simp [urnInt, Spec.urnStep, asInt_unsigned]

/-- One lane's part. -/
theorem urnNew_eq (r : UrnReq) {old b : Nat} (ho : r.Reads old) (hb : b < 2 ^ (8 * r.bytes)) (c : Nat) :
    urnNew r old b c = Spec.urnStep r.act r.bytes old b c := by
  unfold urnNew
  split
  case h_1 op signed e => rw [e]; exact urnInt_eq op signed (ho op signed e) hb c
  case h_2 e => rw [e]; rfl
  case h_3 e =>
    rw [e]
    unfold urnFadd Spec.urnStep
    simp only [Bool.or_eq_true]

theorem urnNew_reads (r : UrnReq) {old b : Nat} (ho : r.Reads old) (hb : b < 2 ^ (8 * r.bytes)) (c : Nat) :
    r.Reads (urnNew r old b c).1 := by
  intro op signed e
  unfold urnNew
  rw [e]
  exact urnInt_lt op signed (ho op signed e) hb

theorem urnRun_eq (r : UrnReq) (ps : List (Nat × DWord × DWord)) {old : Nat} (ho : r.Reads old) :
    urnRun r ps old = Spec.urnParts r.act r.bytes ps old := by
  induction ps generalizing old with
  | nil => rfl
  | cons p ps ih =>
    obtain ⟨lane, b, c⟩ := p
    have hm : 256 ^ r.bytes = 2 ^ (8 * r.bytes) := by rw [Nat.pow_mul]
    have hb : b.toNat % 2 ^ (8 * r.bytes) < 2 ^ (8 * r.bytes) := Nat.mod_lt _ (by positivity)
    unfold urnRun Spec.urnParts
    dsimp only
    rw [ih (urnNew_reads r ho hb _), urnNew_eq r ho hb, hm]

theorem leNat_lt (bs : List Byte) : leNat bs < 256 ^ bs.length := by
  induction bs with
  | nil => exact Nat.one_pos
  | cons b bs ih =>
    have hb := b.isLt
    unfold leNat
    rw [List.length_cons, Nat.pow_succ]
    omega

/-- What is read from a cell's bytes is a number of its bytes. -/
theorem UrnReq.reads_bytes (r : UrnReq) (f : Nat → Byte) : r.Reads (leNat ((List.range r.bytes).map f)) := by
  intro _ _ _
  have h := leNat_lt ((List.range r.bytes).map f)
  rwa [List.length_map, List.length_range, show 256 = 2 ^ 8 from rfl, ← Nat.pow_mul] at h

/-! ### A request is performed (R283, R303, R307) -/

/-- Reading from a level upward depends on the writes in flight and on memory. -/
theorem State.readFrom_sys_congr {s t : State} (hflight : t.flight = s.flight) (hmem : t.mem = s.mem) (a : Agent) (x : Nat)
    (lo : Nat) (ls : List Nat) : t.readFrom a (.sys x) lo ls = s.readFrom a (.sys x) lo ls := by
  induction ls with
  | nil => exact congrArg (fun m => (tblGet m 0 x, none)) hmem
  | cons lvl ls ih =>
    unfold State.readFrom State.youngest
    rw [hflight, ih]

/-- What the parts of a request that performs at a level find there. -/
def State.urnFinds (s : State) (w : Write) (r : UrnReq) (base : Nat) : Nat :=
  leNat ((List.range r.bytes).map (fun k => (State.readFrom (s.without w)
    ⟨if w.core.isSome then some w.gid else none, w.core, none⟩ (.sys (base + k)) (w.level + 1) [0, 1, 2, 3, 4, 5]).1))

/-- The bytes of a number, at an address on. -/
def cellBytes (base n v : Nat) : List (Loc × Byte) :=
  (List.range n).map (fun k => (.sys (base + k), BitVec.ofNat 8 (v / 256 ^ k)))

theorem cellBytes_sys (base n v : Nat) : AllSys (cellBytes base n v) := by
  intro p hp
  obtain ⟨k, -, rfl⟩ := List.mem_map.1 hp
  exact ⟨base + k, rfl⟩

theorem tblGet_cellBytes (m : List Host.Cell) (base n v a : Nat) : tblGet (memWith m (cellBytes base n v)) 0 a =
    if base ≤ a ∧ a < base + n then BitVec.ofNat 8 (v / 256 ^ (a - base)) else tblGet m 0 a := by
  by_cases ha : base ≤ a ∧ a < base + n
  · rw [if_pos ha]
    refine tblGet_memWith_mem (cellBytes_sys base n v) ?_ m ?_
    · unfold cellBytes
      rw [List.map_map]
      refine List.nodup_range.map (fun j k e => ?_)
      have e : base + j = base + k := Loc.sys.inj e
      omega
    · refine List.mem_map.2 ⟨a - base, List.mem_range.2 (by omega), ?_⟩
      rw [Nat.add_sub_cancel' ha.1]
  · rw [if_neg ha]
    refine tblGet_memWith_other (cellBytes_sys base n v) m (fun p hp e => ha ?_)
    obtain ⟨k, hk, rfl⟩ := List.mem_map.1 hp
    have hk := List.mem_range.1 hk
    have e : base + k = a := Loc.sys.inj e
    omega

/-- The operations of a group when a request of one of them has replied. -/
def repliedOps (w : Write) (reps : List (Nat × Nat)) (os : List Op) : List Op :=
  os.map (fun o => if o.id = w.op then { o with kind := setReplies w.id reps o.kind } else o)

/-- What a request that has performed leaves with its group: the replies, and the flags. -/
def State.recordUrn (s : State) (w : Write) (q : Nat × List (Nat × Nat) × Flags) : State :=
  ((s.without w).modOp w.gid w.op (fun o => { o with kind := setReplies w.id q.2.1 o.kind })).modGroup w.gid
    (fun g => { g with remote := g.remote ||| q.2.2 })

/-- A request at a place with no error marked becomes the write of its result, and its replies and flags are recorded. -/
theorem State.performUrn_clean {s : State} {w : Write} {r : UrnReq} {g : Group} {base : Nat} (hplace : w.place = .sys base)
    (hclean : Spec.clean s w.place) (hg : s.group w.gid = some g) :
    let q := Spec.urnParts r.act r.bytes r.parts (s.urnFinds w r base)
    ∃ gs, (s.without w).performUrn w.up r (w.level + 1) =
        ({ s.without w with groups := gs }, some { w.up with bytes := cellBytes base r.bytes q.1, urn := none }) ∧
      tblFind gs w.gid = some { g with remote := g.remote ||| q.2.2, ops := repliedOps w q.2.1 g.ops } := by
  intro q
  have hplace' : w.up.place = .sys base := hplace
  have hclean' : Spec.clean (s.without w) (.sys base) := hplace ▸ hclean
  have hq : urnRun r r.parts (s.urnFinds w r base) = q := urnRun_eq r r.parts (r.reads_bytes _)
  refine ⟨(s.recordUrn w q).groups, ?_, ?_⟩
  · unfold State.performUrn
    simp only [hplace']
    rw [State.meet_of_clean hclean', State.poison_of_clean hclean']
    exact congrArg (fun q => (s.recordUrn w q, some { w.up with bytes := cellBytes base r.bytes q.1, urn := none })) hq
  · change (s.recordUrn w q).group w.gid = _
    unfold State.recordUrn
    rw [State.group_modGroup, if_pos rfl, State.group_modOp (s := s.without w) hg]
    rfl

/-- The operation whose request has replied. -/
theorem find_repliedOps {os : List Op} {w : Write} {o : Op} (reps : List (Nat × Nat))
    (h : os.find? (fun o => o.id = w.op) = some o) :
    (repliedOps w reps os).find? (fun o => o.id = w.op) = some { o with kind := setReplies w.id reps o.kind } := by
  induction os with
  | nil => cases h
  | cons p os ih =>
    unfold repliedOps at *
    rw [List.map_cons]
    rw [List.find?_cons] at h ⊢
    by_cases hp : p.id = w.op
    · rw [if_pos hp]
      simp only [hp, decide_true] at h ⊢
      cases h
      rw [hp]
    · rw [if_neg hp]
      simp only [hp, decide_false] at h ⊢
      exact ih h

/-! ### An operation of urns ends (R302) -/

theorem State.settleUrn_groups (s : State) (gid op : Nat) : ∃ gs, s.settleUrn gid op = { s with groups := gs } := by
  unfold State.settleUrn
  repeat' split
  all_goals exact ⟨_, rfl⟩

/-- An operation's end changes nothing of its group but what retirement may. -/
theorem State.settleUrn_group {s : State} {gid : Nat} {g : Group} (hg : s.group gid = some g) (op : Nat) :
    ∃ g', (s.settleUrn gid op).group gid = some g' ∧ g.SameButOps g' := by
  have kept : ∃ g', s.group gid = some g' ∧ g.SameButOps g' := ⟨g, hg, rfl⟩
  obtain ⟨g', hg', hsame, -⟩ := State.endOp_facts hg op none
  unfold State.settleUrn
  rw [hg]
  dsimp only
  split
  · exact kept
  · split
    · split
      · exact kept
      · split
        · exact ⟨g', hg', hsame⟩
        · exact kept
    · exact kept

/-- While a reply has still to land the operation stays. -/
theorem State.settleUrn_waits {s : State} {gid op : Nat} {g : Group} {o : Op} {d : Option Nat} {wide : Bool} {lvl : Nat}
    {ls : List UrnLane} (hg : s.group gid = some g) (ho : g.op op = some o) (hk : o.kind = .urn d wide lvl ls)
    (hl : ∃ l ∈ ls, l.landed = false) : s.settleUrn gid op = s := by
  have hnot : ¬ ls.all (fun l => l.landed && s.performed l.wid lvl) = true := by
    obtain ⟨l, hl, hland⟩ := hl
    intro hall
    have := List.all_eq_true.1 hall l hl
    rw [hland] at this
    exact Bool.noConfusion this
  unfold State.settleUrn
  simp only [hg, ho, hk, if_neg hnot, ite_self]

/-! ### The drain of a write (R62, R279, R282, R283) -/

theorem State.bufferDrain_eq {s : State} {w : Write} (hw : s.flight.find? (fun x => x.id = w.id) = some w) :
    s.bufferDrain w.id = if w.op = 0 && w.urn.isNone then s.drainId w.id else (s.drainId w.id).settleUrn w.gid w.op := by
  unfold State.bufferDrain
  rw [hw]

/-- What becomes of the operation of a write changes groups only. -/
theorem State.bufferDrain_groups {s : State} {w : Write} (hw : s.flight.find? (fun x => x.id = w.id) = some w) :
    ∃ gs, exec (.bufferDrain w.id) s = .next { s.drainId w.id with groups := gs } := by
  obtain ⟨gs, hgs⟩ := (s.drainId w.id).settleUrn_groups w.gid w.op
  change ∃ gs, (.next (s.bufferDrain w.id) : Out) = _
  rw [State.bufferDrain_eq hw]
  split
  · exact ⟨_, rfl⟩
  · rw [hgs]
    exact ⟨gs, rfl⟩

/-- An urn operation that drains asks whether its operation has ended. -/
theorem State.bufferDrain_urn {s : State} {w : Write} {r : UrnReq} (hw : s.flight.find? (fun x => x.id = w.id) = some w)
    (hurn : w.urn = some r) : exec (.bufferDrain w.id) s = .next ((s.drainId w.id).settleUrn w.gid w.op) := by
  change (.next (s.bufferDrain w.id) : Out) = _
  rw [State.bufferDrain_eq hw, hurn, Option.isNone_some, Bool.and_false, if_neg (by decide)]

section
variable {s : State} {w : Write} (hw : s.flight.find? (fun x => x.id = w.id) = some w)
  (hmay : mayDrain w s.flight = true) (hrun : s.stalled w = false) (hload : s.awaited w = false)
include hw hmay hrun hload

/-- A write that a budget stalls keeps its place. -/
theorem State.bufferDrain_held (hbudget : s.budgetStalls w = true) : ∃ s', exec (.bufferDrain w.id) s = .next s' ∧
    s'.mem = s.mem ∧ s'.tiles = s.tiles ∧
    s'.flight = s.flight.map (fun x => if x.id = w.id then { x with held := true } else x) := by
  obtain ⟨gs, hgs⟩ := State.bufferDrain_groups hw
  refine ⟨_, hgs, ?_⟩
  rw [State.drainId_held hw hmay hrun hload hbudget]
  exact ⟨rfl, rfl, rfl⟩

variable (hbudget : s.budgetStalls w = false) (hsys : AllSys w.bytes)
include hbudget hsys

theorem State.bufferDrain_moves : ∃ gs, exec (.bufferDrain w.id) s =
    .next { (s.spendWrite w).drain { w with held := false } with groups := gs } := by
  rw [← State.drainId_moves hw hmay hrun hload hbudget (Write.onChip_of_sys hsys)]
  exact State.bufferDrain_groups hw

/-- A write goes to the next buffer. -/
theorem State.bufferDrain_next (hurn : w.urn = none) (hlevel : w.level < 5) : ∃ s', exec (.bufferDrain w.id) s = .next s' ∧
    s'.flight = (s.without w).flight ++ [w.up] ∧ s'.mem = s.mem ∧ s'.tiles = s.tiles := by
  have hspent := s.spendWrite_counts w
  obtain ⟨gs, hgs⟩ := State.bufferDrain_moves hw hmay hrun hload hbudget hsys
  refine ⟨_, hgs, ?_⟩
  rw [State.drain_buffer _ (Write.onChip_of_sys hsys) hurn hlevel]
  exact ⟨congrArg (· ++ [w.up]) (hspent.without_flight w), hspent.mem, hspent.tiles⟩

/-- A request below its level stays pending. -/
theorem State.bufferDrain_pending {r : UrnReq} (hurn : w.urn = some r) (hlevel : w.level + 1 < r.level) :
    ∃ s', exec (.bufferDrain w.id) s = .next s' ∧ s'.flight = (s.without w).flight ++ [w.up] ∧ s'.mem = s.mem := by
  have hspent := s.spendWrite_counts w
  obtain ⟨gs, hgs⟩ := State.bufferDrain_moves hw hmay hrun hload hbudget hsys
  refine ⟨_, hgs, ?_⟩
  rw [State.drain_pending _ (Write.onChip_of_sys hsys) hurn hlevel]
  exact ⟨congrArg (· ++ [w.up]) (hspent.without_flight w), hspent.mem⟩

/-- A write from the last buffer enters memory. -/
theorem State.bufferDrain_lands (hurn : w.urn = none) (hlevel : w.level = 5) : ∃ s', exec (.bufferDrain w.id) s = .next s' ∧
    s'.flight = (s.without w).flight ∧ s'.tiles = s.tiles ∧ s'.mem = memWith s.mem w.bytes := by
  have hspent := s.spendWrite_counts w
  obtain ⟨gs, hgs⟩ := State.bufferDrain_moves hw hmay hrun hload hbudget hsys
  obtain ⟨_, _, _, _, hland, -⟩ := ((s.spendWrite w).without w).land_eq (w := w.up) hsys
  refine ⟨_, hgs, ?_⟩
  rw [State.drain_memory _ (Write.onChip_of_sys hsys) hurn hlevel, hland]
  exact ⟨hspent.without_flight w, hspent.tiles, congrArg (memWith · w.bytes) hspent.mem⟩

/-- A request that arrives at its level is performed: its flags, its replies, and where its result goes. -/
theorem State.bufferDrain_performs {r : UrnReq} {g : Group} {base : Nat} (hurn : w.urn = some r)
    (hlevel : r.level ≤ w.level + 1) (hplace : w.place = .sys base) (hclean : Spec.clean s w.place)
    (hg : s.group w.gid = some g) :
    let q := Spec.urnParts r.act r.bytes r.parts (s.urnFinds w r base)
    ∃ (t : State) (g' : Group), exec (.bufferDrain w.id) s = .next (t.settleUrn w.gid w.op) ∧ t.group w.gid = some g' ∧
      { g with remote := g.remote ||| q.2.2, ops := repliedOps w q.2.1 g.ops }.SameButWatch g' ∧
      (w.level < 5 → t.mem = s.mem ∧
        t.flight = (s.without w).flight ++ [{ w.up with bytes := cellBytes base r.bytes q.1, urn := none }]) ∧
      (w.level = 5 → t.flight = (s.without w).flight ∧ t.mem = memWith s.mem (cellBytes base r.bytes q.1)) := by
  intro q
  have hspent := s.spendWrite_counts w
  have hchip := Write.onChip_of_sys hsys
  have hfinds : (s.spendWrite w).urnFinds w r base = s.urnFinds w r base := by
    have hmem : ((s.spendWrite w).without w).mem = (s.without w).mem := hspent.mem
    unfold State.urnFinds
    simp only [State.readFrom_sys_congr (hspent.without_flight w) hmem]
  obtain ⟨gs, hdone, hgs⟩ := State.performUrn_clean (r := r) hplace (hspent.clean hclean) ((hspent.group _).trans hg)
  rw [hfinds] at hdone hgs
  let result : Write := { w.up with bytes := cellBytes base r.bytes q.1, urn := none }
  let u : State := { (s.spendWrite w).without w with groups := gs }
  have hu : u.group w.gid = some { g with remote := g.remote ||| q.2.2, ops := repliedOps w q.2.1 g.ops } := hgs
  have hmem : u.mem = s.mem := hspent.mem
  have hflight : u.flight = (s.without w).flight := hspent.without_flight w
  have hend := State.bufferDrain_urn hw hurn
  rw [State.drainId_moves hw hmay hrun hload hbudget hchip, State.drain_performs _ hchip hurn hlevel hdone] at hend
  by_cases h5 : w.level = 5
  · obtain ⟨ms, ps, hs, gs', hland, hwatch⟩ := u.land_eq (w := result) (cellBytes_sys base r.bytes q.1)
    obtain ⟨g', hg', hsame⟩ := hwatch w.gid _ hu
    rw [if_pos (by omega)] at hend
    refine ⟨_, g', hend, ?_, hsame, fun h => absurd h (by omega), fun _ => ?_⟩
    · change (u.land result).group w.gid = _
      rw [hland]
      exact hg'
    · change (u.land result).flight = _ ∧ (u.land result).mem = _
      rw [hland, ← hmem]
      exact ⟨hflight, rfl⟩
  · obtain ⟨gs', hadd, hwatch⟩ := u.addWrite_eq result
    obtain ⟨g', hg', hsame⟩ := hwatch w.gid _ hu
    rw [if_neg (by omega)] at hend
    refine ⟨_, g', hend, ?_, hsame, fun _ => ?_, fun h => absurd h h5⟩
    · change (u.addWrite result).group w.gid = _
      rw [hadd]
      exact hg'
    · change (u.addWrite result).mem = _ ∧ (u.addWrite result).flight = _
      rw [hadd, ← hflight]
      exact ⟨hmem, rfl⟩

end

end Sys2Proof.Machine

namespace Sys2Proof.FrontEnd
open Sys2Proof Sys2Proof.Machine

/-- Which reply a lane of a request gets. -/
theorem setReplies_urn (wid : Nat) (reps : List (Nat × Nat)) (d : Option Nat) (wide : Bool) (lvl : Nat) (ls : List UrnLane) :
    setReplies wid reps (.urn d wide lvl ls) = .urn d wide lvl (ls.map (fun l => if l.wid = wid then
      { l with reply := some (BitVec.ofNat 64 (((reps.find? (fun p => p.1 = l.lane)).map (·.2)).getD 0)) } else l)) := by
  unfold setReplies
  dsimp only
  congr 1
  refine List.map_congr_left (fun l _ => ?_)
  by_cases hl : l.wid = wid
  · rw [if_pos hl, if_pos hl]
    cases reps.find? (fun p => p.1 = l.lane) <;> rfl
  · rw [if_neg hl, if_neg hl]

/-- The lanes of an operation wait as before for their replies to land. -/
theorem setReplies_landed {wid : Nat} {reps : List (Nat × Nat)} {ls : List UrnLane} (h : ∃ l ∈ ls, l.landed = false) :
    ∃ l ∈ ls.map (fun l => if l.wid = wid then
      { l with reply := some (BitVec.ofNat 64 (((reps.find? (fun p => p.1 = l.lane)).map (·.2)).getD 0)) } else l),
      l.landed = false := by
  obtain ⟨l, hl, hland⟩ := h
  refine ⟨_, List.mem_map_of_mem hl, ?_⟩
  split <;> exact hland

/-- A write whose place in its buffer an older one has stays. -/
theorem bufferDrain_stays {s : State} {w : Write} (hw : s.flight.find? (fun x => x.id = w.id) = some w)
    (hmay : mayDrain w s.flight = false) (hurn : w.urn = none) (hop : w.op = 0) :
    exec (.bufferDrain w.id) s = .next s := by
  change (.next (s.bufferDrain w.id) : Out) = _
  have stays : s.drainId w.id = s := by
    unfold State.drainId
    simp only [hw, hmay, Bool.not_false, Bool.true_or, if_true]
  rw [State.bufferDrain_eq hw, if_pos (by rw [hurn, hop]; rfl), stays]

/-- Settles O45: where a write or a request stands after it drains follows from the equation of `State.drain`; the parts of a
request are those of `Spec.urnParts`, because the cell's number stays below its width. -/
theorem bufferDrain : Obligations.BufferDrain := by
  unfold Obligations.BufferDrain
  intro s w hw _
  refine ⟨bufferDrain_stays hw, ?held, fun hmay hrun hload hbudget hsys => ⟨?next, ?memory, ?pending, ?performs⟩⟩
  case held => exact fun hmay hrun hload hbudget _ => State.bufferDrain_held hw hmay hrun hload hbudget
  case next => exact State.bufferDrain_next hw hmay hrun hload hbudget hsys
  case memory =>
    intro hurn hlevel
    obtain ⟨s', hs', hflight, htiles, hmem⟩ := State.bufferDrain_lands hw hmay hrun hload hbudget hsys hurn hlevel
    refine ⟨s', hs', hflight, htiles, fun a ha => ?_, fun hnodup a b hb => ?_⟩
    · rw [hmem, tblGet_memWith_other hsys _ ha]
    · rw [hmem, tblGet_memWith_mem hsys hnodup _ hb]
  case pending => exact fun r => State.bufferDrain_pending hw hmay hrun hload hbudget hsys
  case performs =>
    intro r g base hurn hlevel _ hplace hclean hg ag old q byte
    obtain ⟨t, g', hend, hg', hsame, hbelow, hmemory⟩ :=
      State.bufferDrain_performs hw hmay hrun hload hbudget hsys hurn hlevel hplace hclean hg
    obtain ⟨gs, hgs⟩ := t.settleUrn_groups w.gid w.op
    obtain ⟨g'', hg'', hops⟩ := State.settleUrn_group hg' w.op
    refine ⟨_, g'', hend, hg'', ?remote, hops.v.trans hsame.v, hops.k.trans hsame.k, fun h => ?below, fun h => ?memory,
      fun o d wide lvl ls ho hk hl => ?replies⟩
    case remote => exact hops.remote.trans hsame.remote
    case below =>
      rw [hgs]
      exact hbelow h
    case memory =>
      obtain ⟨hflight, hmem⟩ := hmemory h
      rw [hgs]
      refine ⟨hflight, fun a => ?_⟩
      change tblGet t.mem 0 a = _
      rw [hmem]
      exact tblGet_cellBytes _ _ _ _ _
    case replies =>
      have ho' : g'.op w.op = some { o with kind := setReplies w.id q.2.1 o.kind } := by
        unfold Group.op
        rw [hsame.ops]
        exact find_repliedOps q.2.1 ho
      have hk' : setReplies w.id q.2.1 o.kind = _ := (congrArg _ hk).trans (setReplies_urn _ _ _ _ _ _)
      have waits := State.settleUrn_waits hg' ho' hk' (setReplies_landed hl)
      obtain rfl : g' = g'' := Option.some.inj (hg'.symm.trans ((congrArg (State.group · w.gid) waits).symm.trans hg''))
      exact ⟨_, ho', hk'⟩

end Sys2Proof.FrontEnd
end

section
/-!
SUPPORT. Front end and partitions: clocks, power, links, reset and boot (R67, R313, R325, R326, R383 to R385), and the work that a
stopped launch leaves behind (R31, R60).
-/

namespace Sys2Proof.Machine
open Sys2Proof

/-! ### Dies (R325, R326, R383) -/

theorem tblSet_tblSet {α : Type} (t : Tbl α) (k : Nat) (v w : α) : tblSet (tblSet t k v) k w = tblSet t k w := by
  induction t with
  | nil => simp [tblSet]
  | cons p t ih =>
    obtain ⟨a, u⟩ := p
    rcases Nat.lt_trichotomy k a with h | rfl | h
    · simp [tblSet, h, Nat.ne_of_lt h]
    · simp [tblSet]
    · simp [tblSet, Nat.ne_of_gt h, Nat.lt_asymm h, ih]

theorem State.die_modDie (s : State) (n k : Nat) (f : Die → Die) :
    (s.modDie n f).die k = if k = n then f (s.die n) else s.die k :=
  tblGet_tblSet _ _ _ _ _

theorem State.modDie_modDie (s : State) (n : Nat) (f g : Die → Die) :
    (s.modDie n f).modDie n g = s.modDie n (fun d => g (f d)) := by
  have twice : tblSet (tblSet s.dies n (f (s.die n))) n (g (f (s.die n))) = tblSet s.dies n (g (f (s.die n))) :=
    tblSet_tblSet _ _ _ _
  have read : (s.modDie n f).die n = f (s.die n) := (s.die_modDie n n f).trans (if_pos rfl)
  unfold State.modDie at *
  rw [read]
  exact congrArg (fun ds => { s with dies := ds }) twice

theorem Die.stop_eq (d : Die) (now : Nat) : d.stop now = Spec.clockStopped d now := rfl

theorem Die.nextStep_none {s : State} {d : Die} (h : Spec.takesNone s d) : d.nextStep s.time s.mgmt.lastStep = none := by
  obtain ⟨hslow, hnone⟩ := h
  have hfind : d.stepWaits.find? (fun x => x.2) = none := List.find?_eq_none.2 (fun y hy => by simp [hslow y hy])
  unfold Die.nextStep
  rw [hfind]
  dsimp only
  split
  · rename_i x xs hx
    rw [hx] at hnone
    exact if_pos (hnone.resolve_left (List.cons_ne_nil _ _))
  · rfl

theorem Die.nextStep_some {s : State} {d : Die} {x : Int × Bool} {rest : List (Int × Bool)} (h : Spec.takesNext s d x rest) :
    d.nextStep s.time s.mgmt.lastStep = some (x, rest) := by
  unfold Die.nextStep
  rcases h with ⟨a, b, hd, rfl, hx, ha⟩ | ⟨hd, hslow, hlast⟩
  · have hfind : d.stepWaits.find? (fun x => x.2) = some x := by
      refine List.find?_eq_some_iff_append.2 ⟨hx, a, b, hd, fun y hy => by simp [ha y hy]⟩
    have hnot : x ∉ a := fun hmem => by
      have := ha x hmem
      rw [hx] at this
      exact Bool.noConfusion this
    rw [hfind]
    dsimp only
    rw [hd, List.erase_append_right _ hnot, List.erase_cons_head]
  · have hfind : d.stepWaits.find? (fun x => x.2) = none := List.find?_eq_none.2 (fun y hy => by simp [hslow y hy])
    rw [hfind, hd]
    exact if_neg (by omega)

theorem State.beginStep_relocking {s : State} {n : Nat} (h : (s.die n).relocking = true) : s.beginStep n = s := by
  unfold State.beginStep
  exact if_pos h

theorem State.beginStep_none {s : State} {n : Nat} (h : Spec.takesNone s (s.die n)) : s.beginStep n = s := by
  unfold State.beginStep
  dsimp only
  rw [Die.nextStep_none h]
  exact ite_self s

theorem State.beginStep_next {s : State} {n : Nat} {x : Int × Bool} {rest : List (Int × Bool)}
    (hrun : (s.die n).relocking = false) (h : Spec.takesNext s (s.die n) x rest) :
    s.beginStep n = Spec.relocks s n (s.die n) x rest := by
  unfold State.beginStep
  dsimp only
  rw [Die.nextStep_some h, if_neg (by rw [hrun]; decide)]
  rfl

/-- The ratio of a clock is rounded to nearest, a tie to even (R325). -/
theorem clockRatio_isRatio {mhz : Nat} (h : 0 < mhz) : Spec.isRatio mhz (clockRatio mhz) := by
  have hdiv := Nat.div_add_mod (1800 * 2 ^ 24) mhz
  have hmod := Nat.mod_lt (1800 * 2 ^ 24) h
  unfold Spec.isRatio clockRatio
  generalize 1800 * 2 ^ 24 = n at *
  dsimp only
  generalize n / mhz = q at *
  generalize n % mhz = r at *
  have hup : (q + 1) * mhz = q * mhz + mhz := Nat.succ_mul q mhz
  rw [Nat.mul_comm] at hdiv
  by_cases hr : mhz < 2 * r ∨ (2 * r = mhz ∧ q % 2 = 1)
  · rw [if_pos (by simpa using hr), hup]
    omega
  · rw [if_neg (by simpa using hr)]
    omega

/-! ### Which die steps (R383) -/

theorem Die.due_eq (d : Die) : d.due = ((d.mhz + (d.stepWaits.map (·.1)).sum : Int)).toNat := by
  have h : ∀ (xs : List (Int × Bool)) (m : Int), xs.foldl (fun m x => m + x.1) m = m + (xs.map (·.1)).sum := by
    intro xs
    induction xs with
    | nil => intro m; simp
    | cons x xs ih => intro m; rw [List.foldl_cons, ih, List.map_cons, List.sum_cons, add_assoc]
  unfold Die.due
  rw [h]

theorem State.due_eq (s : State) (n : Nat) : (s.die n).due = Spec.dueClock s n := Die.due_eq _

theorem foldl_max_of_le {g : Nat → Nat} {v : Nat} {ds : List Nat} (h : ∀ k ∈ ds, g k ≤ v) :
    ds.foldl (fun m n => max m (g n)) v = v := by
  induction ds with
  | nil => rfl
  | cons d ds ih =>
    rw [List.foldl_cons, max_eq_left (h d List.mem_cons_self), ih (fun k hk => h k (List.mem_cons_of_mem _ hk))]

theorem foldl_max_eq {g : Nat → Nat} {n : Nat} {ds : List Nat} (hn : n ∈ ds) (h : ∀ k ∈ ds, g k ≤ g n) {m : Nat} (hm : m ≤ g n) :
    ds.foldl (fun m n => max m (g n)) m = g n := by
  induction ds generalizing m with
  | nil => cases hn
  | cons d ds ih =>
    have hd := h d List.mem_cons_self
    have htail : ∀ k ∈ ds, g k ≤ g n := fun k hk => h k (List.mem_cons_of_mem _ hk)
    rw [List.foldl_cons]
    rcases List.mem_cons.1 hn with rfl | hn
    · rw [max_eq_right hm, foldl_max_of_le htail]
    · exact ih hn htail (max_le hm hd)

/-- The lowest-numbered of the dies with the greatest value. -/
theorem State.dieBy_eq {s : State} {f : Die → Nat} {ds : List Nat} {n : Nat} (hsort : ds.Pairwise (· < ·)) (hn : n ∈ ds)
    (hmax : ∀ k ∈ ds, f (s.die k) ≤ f (s.die n)) (hfirst : ∀ k ∈ ds, k < n → f (s.die k) < f (s.die n)) :
    s.dieBy f ds = some n := by
  obtain ⟨as, bs, rfl⟩ := List.append_of_mem hn
  unfold State.dieBy
  dsimp only
  rw [foldl_max_eq (g := fun k => f (s.die k)) hn hmax (Nat.zero_le _)]
  refine List.find?_eq_some_iff_append.2 ⟨beq_self_eq_true _, as, bs, rfl, fun a ha => ?_⟩
  have hlt : a < n := (List.pairwise_append.1 hsort).2.2 a ha n List.mem_cons_self
  have := hfirst a (List.mem_append_left _ ha) hlt
  simp only [Bool.not_eq_true', beq_eq_false_iff_ne]
  omega

theorem allDies_sorted : allDies.Pairwise (· < ·) := by decide

theorem mem_allDies {k : Nat} : k ∈ allDies ↔ k < 8 := by
  simp only [allDies, List.mem_cons, List.not_mem_nil, or_false]
  omega

theorem State.orderStep_down {s : State} {n : Nat} {hot : Bool} (h : 700 ≤ Spec.dueClock s n) : s.orderStep n false hot =
    Spec.putDie s n { s.die n with stepWaits := (s.die n).stepWaits ++ [(-100, hot)] } := by
  unfold State.orderStep
  dsimp only
  rw [s.due_eq, if_neg (by simpa using h)]
  rfl

theorem State.orderStep_down_least {s : State} {n : Nat} {hot : Bool} (h : Spec.dueClock s n < 700) :
    s.orderStep n false hot = s := by
  unfold State.orderStep
  dsimp only
  rw [s.due_eq, if_pos (by simpa using h)]

theorem State.orderStep_up (s : State) (n : Nat) : Spec.Hastened s (s.orderStep n true false) n := by
  unfold State.orderStep
  dsimp only
  rw [s.due_eq]
  refine ⟨fun h => ?_, fun h => ?_⟩
  · rw [if_neg (by rw [if_pos rfl, decide_eq_true_eq]; omega)]
    rfl
  · rw [if_pos (by rw [if_pos rfl, decide_eq_true_eq]; omega)]

/-- The die with the highest clock goes down. -/
theorem State.stepDown_eq {s : State} {n : Nat} (h : Spec.fastest s n) : s.stepDown = s.orderStep n false false := by
  obtain ⟨hn, hmax, hfirst⟩ := h
  have found : s.dieBy Die.due allDies = some n := by
    refine State.dieBy_eq allDies_sorted (mem_allDies.2 hn) (fun k hk => ?_) (fun k hk hkn => ?_)
    · rw [s.due_eq, s.due_eq]
      exact hmax k (mem_allDies.1 hk)
    · rw [s.due_eq, s.due_eq]
      exact hfirst k hkn
  unfold State.stepDown
  rw [found]

theorem State.mem_below {s : State} {k : Nat} : k ∈ allDies.filter (fun n => decide ((s.die n).due < (s.die n).target)) ↔
    k < 8 ∧ Spec.dueClock s k < (s.die k).target := by
  rw [List.mem_filter, mem_allDies, s.due_eq, decide_eq_true_eq]

/-- Of the dies below their targets, the one with the lowest clock goes up. -/
theorem State.stepUp_eq {s : State} {n : Nat} (h : Spec.slowest s n) (hrange : ∀ k, k < 8 → Spec.dueClock s k ≤ 2000) :
    s.stepUp = s.orderStep n true false := by
  obtain ⟨hn, hmin⟩ := h
  have found : s.dieBy (fun d => 10000 - d.due) (allDies.filter (fun n => decide ((s.die n).due < (s.die n).target))) = some n := by
    refine State.dieBy_eq (allDies_sorted.filter _) (State.mem_below.2 hn) (fun k hk => ?_) (fun k hk hkn => ?_)
    · obtain ⟨hk, hbelow⟩ := State.mem_below.1 hk
      rw [s.due_eq, s.due_eq]
      have := (hmin k hk hbelow).1
      omega
    · obtain ⟨hk, hbelow⟩ := State.mem_below.1 hk
      rw [s.due_eq, s.due_eq]
      have := (hmin k hk hbelow).2 hkn
      have := hrange k hk
      omega
  unfold State.stepUp
  rw [found]

theorem State.stepUp_none {s : State} (h : ∀ k, k < 8 → (s.die k).target ≤ Spec.dueClock s k) : s.stepUp = s := by
  have none_below : allDies.filter (fun n => decide ((s.die n).due < (s.die n).target)) = [] := by
    refine List.eq_nil_iff_forall_not_mem.2 (fun k hk => ?_)
    obtain ⟨hk, hbelow⟩ := State.mem_below.1 hk
    have := h k hk
    omega
  unfold State.stepUp
  rw [none_below]
  rfl

/-! ### Power samples (R383) -/

theorem sum_eq_foldl (ws : List Nat) : ws.foldl (· + ·) 0 = ws.sum := List.sum_eq_foldl.symm

theorem lastTen_eq (ws : List Nat) : ws.drop (ws.length - 10) = (ws.reverse.take 10).reverse := by
  rw [List.take_reverse, List.reverse_reverse]

/-- A sample of input power, in the words of R383. -/
theorem State.powerSample_eq (s : State) {w : Nat} {ws : List Nat} {low : Option Nat} {s1 : State}
    (hws : ws = ((s.mgmt.watts ++ [w]).reverse.take 10).reverse)
    (hlow : low = (if 10 ≤ ws.length ∧ ws.sum < (s.mgmt.plimit - 50) * ws.length then some (s.mgmt.lowSince.getD s.time) else none))
    (hs1 : s1 = { s with mgmt := { s.mgmt with watts := ws, lowSince := low, sampled := some s.time } }) : s.powerSample w =
      if ∃ t0, s.mgmt.sampled = some t0 ∧ s.time < t0 + 100000 then s
      else if 10 ≤ ws.length ∧ s.mgmt.plimit * ws.length < ws.sum then s1.stepDown
      else if ∃ t0, low = some t0 ∧ t0 + 10000000 ≤ s.time then
        State.stepUp { s1 with mgmt := { s1.mgmt with lowSince := some s.time } }
      else s1 := by
  unfold State.powerSample
  dsimp only
  rw [lastTen_eq, ← hws]
  unfold Mgmt.meanBelow Mgmt.meanAbove
  simp only [sum_eq_foldl, Bool.and_eq_true, decide_eq_true_eq]
  rw [← hlow]
  clear hlow
  subst hs1
  refine if_congr ?early rfl (if_congr Iff.rfl rfl ?low)
  case early =>
    cases s.mgmt.sampled with
    | none => simp
    | some t0 => simp
  case low =>
    cases low with
    | none => rw [if_neg (by simp)]
    | some since =>
      dsimp only
      by_cases hs : s.time < since + 10000000
      · rw [if_pos hs, if_neg (by simpa using hs)]
      · rw [if_neg hs, if_pos (by simpa using hs)]

/-- A table that holds nothing but the default reads as an empty one. -/
theorem tblGet_map_default {α : Type} (d : α) (ks : List Nat) (k : Nat) : tblGet (ks.map (fun n => (n, d))) d k = d := by
  induction ks with
  | nil => rfl
  | cons n ks ih =>
    unfold tblGet at *
    rw [List.map_cons]
    unfold tblFind
    split
    · rfl
    · exact ih

/-! ### Images (R385) -/

theorem getD_zero_iff (r : List Byte) (lo hi : Nat) : Spec.zero r lo hi ↔ ∀ x ∈ (r.drop lo).take (hi - lo), x = 0 := by
  constructor
  · intro h x hx
    obtain ⟨i, hi', rfl⟩ := List.mem_iff_getElem.1 hx
    have hlen : i < hi - lo ∧ i < r.length - lo := by simpa using hi'
    have := h (lo + i) (by omega) (by omega)
    rw [List.getD_eq_getElem _ _ (by omega)] at this
    simpa using this
  · intro h n hlo hhi
    by_cases hn : n < r.length
    · rw [List.getD_eq_getElem _ _ hn]
      refine h _ (List.mem_iff_getElem.2 ⟨n - lo, by simp; omega, ?_⟩)
      simp [Nat.add_sub_cancel' hlo]
    · rw [List.getD_eq_default _ _ (by omega)]

theorem leNat_eq_zero (bs : List Byte) : leNat bs = 0 ↔ ∀ x ∈ bs, x = 0 := by
  induction bs with
  | nil => simp [leNat]
  | cons b bs ih =>
    have hb : b.toNat = 0 ↔ b = 0 := ⟨fun h => BitVec.eq_of_toNat_eq h, fun h => by rw [h]; rfl⟩
    rw [List.forall_mem_cons, ← ih, ← hb]
    change b.toNat + 256 * leNat bs = 0 ↔ _
    omega

theorem fieldAt_eq_zero (r : List Byte) (lo n : Nat) : fieldAt r lo n = 0 ↔ Spec.zero r lo (lo + n) := by
  rw [getD_zero_iff, Nat.add_sub_cancel_left]
  exact leNat_eq_zero _

theorem blockZero_iff (r : List Byte) (lo hi : Nat) : blockZero r lo hi = true ↔ Spec.zero r lo hi := by
  rw [getD_zero_iff]
  unfold blockZero
  simp only [List.all_eq_true, beq_iff_eq]

theorem Mgmt.verifies_iff (m : Mgmt) (img : List Byte) : m.verifies img = true ↔ Spec.ImageOk m img := by
  unfold Mgmt.verifies
  simp only [Bool.and_eq_true, beq_iff_eq, decide_eq_true_eq, fieldAt_eq_zero img 0x0C 4, blockZero_iff]
  constructor
  · rintro ⟨⟨⟨⟨⟨⟨⟨⟨⟨hmagic, hlo⟩, hhi⟩, hlen⟩, hz⟩, hz'⟩, hkey⟩, hdigest⟩, hversion⟩, hsig⟩
    exact ⟨hmagic, ⟨hlo, hhi, hlen⟩, ⟨hz, hz'⟩, hkey, hdigest, hversion, hsig⟩
  · rintro ⟨hmagic, ⟨hlo, hhi, hlen⟩, ⟨hz, hz'⟩, hkey, hdigest, hversion, hsig⟩
    exact ⟨⟨⟨⟨⟨⟨⟨⟨⟨hmagic, hlo⟩, hhi⟩, hlen⟩, hz⟩, hz'⟩, hkey⟩, hdigest⟩, hversion⟩, hsig⟩

end Sys2Proof.Machine

namespace Sys2Proof.FrontEnd
open Sys2Proof Sys2Proof.Machine

theorem clockSteps : Spec.ClockSteps := by
  intro s n d
  refine ⟨fun h => ?_, fun x rest hn hrun h => ?_, fun h => ?_, fun hn hrun htrip hend hclock => ?_⟩
  · change (.next (if n < 8 then s.beginStep n else s) : Out) = .next s
    rcases h with h | h | h
    · rw [if_neg (by omega)]
    · rw [State.beginStep_relocking h, ite_self]
    · rw [State.beginStep_none h, ite_self]
  · change (.next (if n < 8 then s.beginStep n else s) : Out) = _
    rw [if_pos hn, State.beginStep_next hrun h]
  · change (.next (if n < 8 then s.relockEnd n else s) : Out) = .next s
    by_cases hn : n < 8
    · have waits : (!d.relocking || d.tripped || decide (s.time < d.relockEnd)) = true := by
        simp only [Bool.or_eq_true, Bool.not_eq_true', decide_eq_true_eq]
        rcases h with h | h | h | h
        · omega
        · exact .inl (.inl h)
        · exact .inl (.inr h)
        · exact .inr h
      unfold State.relockEnd
      rw [if_pos waits, ite_self]
    · rw [if_neg hn]
  · let d1 : Die := { d with since := s.time, relocking := false, ratio := clockRatio d.mhz }
    have restarts : exec (.relockEnd n) s = .next ((Spec.putDie s n d1).beginStep n) := by
      change (.next (if n < 8 then s.relockEnd n else s) : Out) = _
      unfold State.relockEnd
      have goes : ¬ (!d.relocking || d.tripped || decide (s.time < d.relockEnd)) = true := by
        simp [hrun, htrip, hend]
      rw [if_pos hn, if_neg goes]
      rfl
    have hd1 : (Spec.putDie s n d1).die n = d1 := (s.die_modDie n n (fun _ => d1)).trans (if_pos rfl)
    refine ⟨clockRatio d.mhz, clockRatio_isRatio (by omega), fun h => ?_, fun x rest h => ?_⟩
    · rw [restarts, State.beginStep_none (s := Spec.putDie s n d1) (by rw [hd1]; exact h)]
    · have hrun1 : ((Spec.putDie s n d1).die n).relocking = false := by rw [hd1]
      rw [restarts, State.beginStep_next hrun1 (by rw [hd1]; exact h), hd1]
      exact congrArg (fun ds => (.next { s with mgmt := { s.mgmt with lastStep := s.time }, dies := ds } : Out))
        (tblSet_tblSet _ _ _ _)

theorem powerSamples : Spec.PowerSamples := by
  intro s w ws low s1 hws hlow hs1 early above long
  have hexec : exec (.powerSample w) s = .next (s.powerSample w) := rfl
  rw [hexec, s.powerSample_eq hws hlow hs1]
  have hdies : ∀ m : Mgmt, ∀ k, Spec.dueClock { s1 with mgmt := m } k = Spec.dueClock s k := fun m k => by rw [hs1]; rfl
  refine ⟨fun he => ?early, fun he ha hl => ?within, fun he ha n hn => ?down, fun he ha hl => ?up⟩
  case early => rw [if_pos he]
  case within => rw [if_neg he, if_neg ha, if_neg hl]
  case down =>
    have hn1 : Spec.fastest s1 n := by rw [hs1]; exact hn
    refine ⟨_, rfl, fun h => ?_, fun h => ?_⟩
    · rw [if_neg he, if_pos ha, State.stepDown_eq hn1, State.orderStep_down h]
    · rw [if_neg he, if_pos ha, State.stepDown_eq hn1, State.orderStep_down_least h]
  case up =>
    intro s2
    rw [if_neg he, if_neg ha, if_pos hl]
    refine ⟨fun n hn hrange => ⟨_, rfl, ?_⟩, fun hall => ?_⟩
    · have hn2 : Spec.slowest s2 n := by subst hs1; exact hn
      have hrange2 : ∀ k, k < 8 → Spec.dueClock s2 k ≤ 2000 := fun k hk => (hdies _ k).trans_le (hrange k hk)
      rw [State.stepUp_eq hn2 hrange2]
      exact s2.orderStep_up n
    · have hall2 : ∀ k, k < 8 → (s2.die k).target ≤ Spec.dueClock s2 k := by subst hs1; exact hall
      rw [State.stepUp_none hall2]

theorem hotJunction : Spec.HotJunction := by
  intro s n d waits
  have hexec : exec (.junctionHot n) s = .next (if 8 ≤ n then s else (s.orderStep n false true).beginStep n) := rfl
  refine ⟨fun hn => ?_, fun hn hdue => ?_, fun hn hdue hno => ?_⟩
  · rw [hexec, if_pos hn]
  · let d1 : Die := { d with stepWaits := waits }
    have hd1 : (Spec.putDie s n d1).die n = d1 := (s.die_modDie n n (fun _ => d1)).trans (if_pos rfl)
    have ordered : exec (.junctionHot n) s = .next ((Spec.putDie s n d1).beginStep n) := by
      rw [hexec, if_neg (by omega), State.orderStep_down hdue]
    refine ⟨fun hrun => ?_, fun hrun hslow => ?_⟩
    · rw [ordered, State.beginStep_relocking (by rw [hd1]; exact hrun)]
    · have hnext : Spec.takesNext (Spec.putDie s n d1) d1 (-100, true) d.stepWaits :=
        .inl ⟨d.stepWaits, [], rfl, (List.append_nil _).symm, rfl, hslow⟩
      rw [ordered, State.beginStep_next (by rw [hd1]; exact hrun) (by rw [hd1]; exact hnext), hd1]
      exact congrArg (fun ds => (.next { s with mgmt := { s.mgmt with lastStep := s.time }, dies := ds } : Out))
        (tblSet_tblSet _ _ _ _)
  · rw [hexec, if_neg (by omega), State.orderStep_down_least hdue]
    rcases hno with h | h
    · rw [State.beginStep_relocking h]
    · rw [State.beginStep_none h]

theorem resets : Spec.Resets := by
  intro s
  refine ⟨s.hubReset, rfl, rfl, rfl, rfl, rfl, rfl, rfl, fun n => ?_, rfl⟩
  exact tblGet_map_default _ _ _

theorem bootsAndLinks : Spec.BootsAndLinks := by
  intro s
  have hexec : exec .bootReady s = .next s.bootReady := rfl
  refine ⟨fun h => ?_, fun hready hrec => ⟨fun hd => ?_, fun img himg hd => ⟨fun hbad => ?_, fun hok => ?_⟩⟩,
    fun p => ⟨fun hp hup => ?_, fun h => ?_⟩⟩
  · rw [hexec]
    unfold State.bootReady
    rw [if_pos (by simpa using h)]
  · rw [hexec]
    unfold State.bootReady
    rw [if_neg (by simp [hready, hrec]), if_pos (by simpa using hd)]
    rfl
  · rw [hexec]
    unfold State.bootReady
    rw [if_neg (by simp [hready, hrec]), if_neg (by simp [hd])]
    dsimp only
    rw [← himg, if_neg (fun h => hbad ((s.mgmt.verifies_iff img).1 h))]
    unfold State.enterRecovery
    rw [← hready]
  · rw [hexec]
    unfold State.bootReady
    rw [if_neg (by simp [hready, hrec]), if_neg (by simp [hd])]
    dsimp only
    rw [← himg, if_pos ((s.mgmt.verifies_iff img).2 hok)]
    rfl
  · change (.next (s.linkDown p) : Out) = _
    unfold State.linkDown
    rw [if_pos (by simpa using And.intro hp hup)]
  · change (.next (s.linkDown p) : Out) = _
    unfold State.linkDown
    rw [if_neg (by simpa using fun hp => h.resolve_left (by omega))]

end Sys2Proof.FrontEnd
namespace Sys2Proof.Machine
open Sys2Proof

/-! ### Entries of tables -/

section
variable {α : Type} {t : Tbl α} {k : Nat} {v : α}

theorem mem_of_tblFind (h : tblFind t k = some v) : (k, v) ∈ t := by
  induction t with
  | nil => cases h
  | cons p t ih =>
    obtain ⟨j, w⟩ := p
    unfold tblFind at h
    split at h
    · rename_i e
      cases h
      exact e ▸ List.mem_cons_self
    · exact List.mem_cons_of_mem _ (ih h)

/-- Where no number is listed twice, every entry is found. -/
theorem tblFind_of_mem (hn : (t.map (·.1)).Nodup) (h : (k, v) ∈ t) : tblFind t k = some v := by
  induction t with
  | nil => cases h
  | cons p t ih =>
    obtain ⟨j, w⟩ := p
    obtain ⟨hnew, hn⟩ := List.nodup_cons.1 hn
    unfold tblFind
    rcases List.mem_cons.1 h with h | h
    · cases h
      exact if_pos rfl
    · rw [if_neg (fun e => hnew (List.mem_map.2 ⟨(k, v), h, e⟩)), ih hn h]

theorem tblFind_some_of_mem (h : (k, v) ∈ t) : ∃ w, tblFind t k = some w := by
  induction t with
  | nil => cases h
  | cons p t ih =>
    obtain ⟨j, w⟩ := p
    unfold tblFind
    split
    · exact ⟨w, rfl⟩
    · rename_i hk
      exact ih ((List.mem_cons.1 h).resolve_left (fun e => hk (congrArg Prod.fst e)))

theorem tblFind_filter (t : Tbl α) (p : Nat → Bool) (k : Nat) :
    tblFind (t.filter (fun x => p x.1)) k = if p k then tblFind t k else none := by
  induction t with
  | nil => exact (ite_self none).symm
  | cons x t ih =>
    obtain ⟨j, w⟩ := x
    rw [List.filter_cons]
    by_cases hj : p j = true
    · rw [if_pos hj]
      unfold tblFind
      by_cases hk : k = j
      · subst hk
        rw [if_pos rfl, if_pos hj, if_pos rfl]
      · rw [if_neg hk, if_neg hk, ih]
    · rw [if_neg hj, ih]
      by_cases hk : k = j
      · subst hk
        rw [if_neg hj, if_neg hj]
      · conv_rhs => unfold tblFind
        rw [if_neg hk]

theorem tblMod_tblMod (t : Tbl α) (k : Nat) (f g : α → α) : tblMod (tblMod t k f) k g = tblMod t k (fun v => g (f v)) := by
  cases h : tblFind t k with
  | none => unfold tblMod; simp only [h]
  | some v =>
    unfold tblMod
    simp only [h, tblFind_tblSet, if_true]
    exact tblSet_tblSet _ _ _ _

theorem tblMod_congr {f g : α → α} (h : ∀ v, tblFind t k = some v → f v = g v) : tblMod t k f = tblMod t k g := by
  unfold tblMod
  split
  · rfl
  · rename_i v hv
    rw [h v hv]

theorem mem_tblMod {f : α → α} {x : Nat × α} (h : x ∈ tblMod t k f) : x ∈ t ∨ ∃ v, tblFind t k = some v ∧ x = (k, f v) := by
  unfold tblMod at h
  split at h
  · exact .inl h
  · rename_i v hv
    exact (mem_tblSet h).symm.imp_right (fun e => ⟨v, hv, e⟩)

end

/-! ### A launch and its descendants (R31) -/

/-- A list of launches that holds the children of what it holds. -/
def State.Closed (s : State) (ls : List Nat) : Prop :=
  ∀ x ∈ s.launches, ∀ q, x.2.parent = some q → q ∈ ls → x.1 ∈ ls

/-- The launches that `withChildren` adds. -/
def State.newChildren (s : State) (ls : List Nat) : List (Nat × Launch) :=
  s.launches.filter (fun p => match p.2.parent with
    | some q => ls.contains q && !ls.contains p.1
    | none => false)

theorem State.mem_newChildren {s : State} {ls : List Nat} {x : Nat × Launch} : x ∈ s.newChildren ls ↔
    x ∈ s.launches ∧ x.1 ∉ ls ∧ ∃ q, x.2.parent = some q ∧ q ∈ ls := by
  unfold State.newChildren
  rw [List.mem_filter]
  cases x.2.parent with
  | none => simp
  | some q => simp [and_comm]

theorem State.withChildren_eq (s : State) (ls : List Nat) : s.withChildren ls = ls ++ (s.newChildren ls).map (·.1) := rfl

theorem State.closed_of_none {s : State} {ls : List Nat} (h : s.newChildren ls = []) : s.Closed ls := by
  intro x hx q hq hmem
  by_contra hnot
  have : x ∈ s.newChildren ls := State.mem_newChildren.2 ⟨hx, hnot, q, hq, hmem⟩
  rw [h] at this
  cases this

/-- Launches that a list does not hold. -/
def State.outside (s : State) (ls : List Nat) : List (Nat × Launch) := s.launches.filter (fun x => !ls.contains x.1)

theorem State.outside_lt {s : State} {ls : List Nat} (h : s.newChildren ls ≠ []) :
    (s.outside (s.withChildren ls)).length < (s.outside ls).length := by
  obtain ⟨x, hx⟩ := List.exists_mem_of_ne_nil _ h
  obtain ⟨hmem, hnot, -⟩ := State.mem_newChildren.1 hx
  have fewer : s.outside (s.withChildren ls) =
      (s.outside ls).filter (fun x => !((s.newChildren ls).map (·.1)).contains x.1) := by
    unfold State.outside
    rw [List.filter_filter, s.withChildren_eq]
    refine List.filter_congr (fun y _ => ?_)
    rw [List.contains_append, Bool.not_or, Bool.and_comm]
  rw [fewer]
  refine List.length_filter_lt_length_iff_exists.2 ⟨x, List.mem_filter.2 ⟨hmem, by simpa using hnot⟩, ?_⟩
  have : x.1 ∈ (s.newChildren ls).map (·.1) := List.mem_map_of_mem hx
  simpa using this

/-- Adding children ends after as many rounds as there are launches outside. -/
theorem State.closed_iterate {s : State} (n : Nat) {ls : List Nat} (h : (s.outside ls).length ≤ n) :
    s.Closed (s.withChildren^[n] ls) := by
  induction n generalizing ls with
  | zero =>
    have none_outside : s.outside ls = [] := List.eq_nil_of_length_eq_zero (Nat.le_zero.1 h)
    refine State.closed_of_none (List.eq_nil_iff_forall_not_mem.2 (fun x hx => ?_))
    obtain ⟨hmem, hnot, -⟩ := State.mem_newChildren.1 hx
    have : x ∈ s.outside ls := List.mem_filter.2 ⟨hmem, by simpa using hnot⟩
    rw [none_outside] at this
    cases this
  | succ n ih =>
    by_cases hnew : s.newChildren ls = []
    · have same : s.withChildren ls = ls := by rw [s.withChildren_eq, hnew, List.map_nil, List.append_nil]
      rw [Function.iterate_fixed same]
      exact State.closed_of_none hnew
    · exact ih (by have := State.outside_lt hnew; omega)

/-- Child launches are found under their numbers. -/
def State.ChildrenFound (s : State) : Prop := ∀ x ∈ s.launches, x.2.parent ≠ none → s.launch x.1 = some x.2

theorem State.childrenFound_of_nodup {s : State} (h : (s.launches.map (·.1)).Nodup) : s.ChildrenFound :=
  fun _ hx _ => tblFind_of_mem h hx

theorem State.family_eq (s : State) (ls : List Nat) : s.family ls = s.withChildren^[s.launches.length] ls := by
  unfold State.family
  rw [List.foldl_const, List.length_range]

theorem State.under_withChildren {s : State} (hfound : s.ChildrenFound) {roots ls : List Nat}
    (h : ∀ x ∈ ls, Spec.UnderAny s roots x) : ∀ x ∈ s.withChildren ls, Spec.UnderAny s roots x := by
  intro x hx
  rcases List.mem_append.1 hx with hx | hx
  · exact h x hx
  · obtain ⟨y, hy, rfl⟩ := List.mem_map.1 hx
    obtain ⟨hmem, -, q, hq, hin⟩ := State.mem_newChildren.1 hy
    exact .child _ q _ (hfound y hmem (by rw [hq]; exact Option.some_ne_none q)) hq (h q hin)

/-- The family of launches is these and their descendants. -/
theorem State.mem_family {s : State} (hfound : s.ChildrenFound) {roots : List Nat} {lid : Nat} :
    lid ∈ s.family roots ↔ Spec.UnderAny s roots lid := by
  rw [s.family_eq]
  constructor
  · have under : ∀ n, ∀ x ∈ s.withChildren^[n] roots, Spec.UnderAny s roots x := by
      intro n
      induction n with
      | zero => exact fun x hx => .self x hx
      | succ n ih =>
        rw [Function.iterate_succ_apply']
        exact State.under_withChildren hfound ih
    exact under _ lid
  · have hclosed : s.Closed (s.withChildren^[s.launches.length] roots) :=
      State.closed_iterate _ (List.length_filter_le _ _)
    have kept : ∀ n, ∀ x ∈ roots, x ∈ s.withChildren^[n] roots := by
      intro n
      induction n with
      | zero => exact fun x hx => hx
      | succ n ih =>
        rw [Function.iterate_succ_apply']
        exact fun x hx => List.mem_append_left _ (ih x hx)
    intro h
    induction h with
    | self lid hmem => exact kept _ lid hmem
    | child c p l hl hp _ ih => exact hclosed (c, l) (mem_of_tblFind hl) p hp ih

/-! ### What freeing a leaf leaves (R60) -/

section
variable (s : State) (leaf : Nat) (roots : List Nat)

theorem State.freeLeaf_launches : (s.freeLeaf leaf roots).launches =
    s.launches.filter (fun p => roots.contains p.1 || !(s.family roots).contains p.1) := rfl

theorem State.freeLeaf_groups : (s.freeLeaf leaf roots).groups =
    s.groups.filter (fun p => !(s.groupsOf (s.family roots)).contains p.1) := rfl

theorem State.freeLeaf_pieces : (s.freeLeaf leaf roots).pieces =
    s.pieces.filter (fun p => !(s.family roots).contains p.2.launch) := rfl

theorem State.freeLeaf_tlb : (s.freeLeaf leaf roots).tlb = s.tlb.filter (fun e => e.leaf ≠ leaf) := rfl

theorem State.freeLeaf_parts : (s.freeLeaf leaf roots).parts = tblSet s.parts leaf { s.part leaf with away := [] } := rfl

/-- What freeing a leaf does not touch. -/
theorem State.freeLeaf_kept : (s.freeLeaf leaf roots).vis = s.vis ∧ (s.freeLeaf leaf roots).mem = s.mem ∧
    (s.freeLeaf leaf roots).dies = s.dies ∧ (s.freeLeaf leaf roots).mgmt = s.mgmt ∧ (s.freeLeaf leaf roots).time = s.time := by
  unfold State.freeLeaf
  exact ⟨rfl, rfl, rfl, rfl, rfl⟩

variable {s leaf roots} (hfound : s.ChildrenFound)
include hfound

/-- Launches below the roots are gone, others stay. -/
theorem State.freeLeaf_launch (lid : Nat) : (lid ∈ roots → (s.freeLeaf leaf roots).launch lid = s.launch lid) ∧
    (Spec.UnderAny s roots lid → lid ∉ roots → (s.freeLeaf leaf roots).launch lid = none) ∧
    (¬ Spec.UnderAny s roots lid → (s.freeLeaf leaf roots).launch lid = s.launch lid) := by
  have look : (s.freeLeaf leaf roots).launch lid =
      if (roots.contains lid || !(s.family roots).contains lid) = true then s.launch lid else none :=
    tblFind_filter s.launches (fun k => roots.contains k || !(s.family roots).contains k) lid
  have hkeep : (roots.contains lid || !(s.family roots).contains lid) = true ↔ (lid ∈ roots ∨ ¬ Spec.UnderAny s roots lid) := by
    rw [← State.mem_family hfound]
    simp
  rw [look]
  refine ⟨fun h => if_pos (hkeep.2 (.inl h)), fun h hr => if_neg (fun e => ?_), fun h => if_pos (hkeep.2 (.inr h))⟩
  exact (hkeep.1 e).elim hr (fun hn => hn h)

theorem State.freeLeaf_mem_pieces (x : Nat × Piece) : x ∈ (s.freeLeaf leaf roots).pieces ↔
    x ∈ s.pieces ∧ ¬ Spec.UnderAny s roots x.2.launch := by
  rw [State.freeLeaf_pieces, List.mem_filter, ← State.mem_family hfound]
  simp

/-- Groups of the roots' family are gone. -/
theorem State.freeLeaf_group_gone {x : Nat × Group} (hx : x ∈ (s.freeLeaf leaf roots).groups) :
    x ∈ s.groups ∧ ¬ Spec.UnderAny s roots x.2.launch := by
  rw [State.freeLeaf_groups, List.mem_filter] at hx
  obtain ⟨hmem, hnot⟩ := hx
  refine ⟨hmem, fun hunder => ?_⟩
  have : x.1 ∈ s.groupsOf (s.family roots) :=
    List.mem_map_of_mem (List.mem_filter.2 ⟨hmem, by simpa using (State.mem_family hfound).2 hunder⟩)
  simp [this] at hnot

theorem State.freeLeaf_mem_groups (hn : (s.groups.map (·.1)).Nodup) (x : Nat × Group) : x ∈ (s.freeLeaf leaf roots).groups ↔
    x ∈ s.groups ∧ ¬ Spec.UnderAny s roots x.2.launch := by
  refine ⟨State.freeLeaf_group_gone hfound, fun ⟨hmem, hnot⟩ => ?_⟩
  rw [State.freeLeaf_groups, List.mem_filter]
  refine ⟨hmem, ?_⟩
  have : x.1 ∉ s.groupsOf (s.family roots) := fun hin => by
    obtain ⟨y, hy, e⟩ := List.mem_map.1 hin
    obtain ⟨hmem', hunder⟩ := List.mem_filter.1 hy
    obtain rfl : x = y := by
      have h1 := tblFind_of_mem hn (k := x.1) (v := x.2) hmem
      have h2 := tblFind_of_mem hn (k := y.1) (v := y.2) hmem'
      rw [e, h1] at h2
      exact Prod.ext e.symm (Option.some.inj h2)
    exact hnot ((State.mem_family hfound).1 (by simpa using hunder))
  simp [this]

end

/-! ### Launches that a drain stops (R60 step 4) -/

/-- A stopped launch on its way to its completion signal. -/
def Launch.aborted (l : Launch) (now code flags : Nat) : Launch :=
  { l.addError code flags with
    counter := 0, stopped := true, plans := [], taskPlans := [], tasks := [], taskGroups := [], counted := true
    phase := .completing, end_ := now, step := 4, payloadSlot := none }

/-- `t`'s interfaces are those of `s`, but for payload slots and the watchdogs of their queues. -/
def State.SameQueues (s t : State) : Prop :=
  ∀ v, (t.vi v).ev = (s.vi v).ev ∧ ∀ q, { (t.vi v).queue q with wddead := ((s.vi v).queue q).wddead, wdrem := ((s.vi v).queue q).wdrem } =
    (s.vi v).queue q

theorem State.SameQueues.trans {s t u : State} (h : s.SameQueues t) (h' : t.SameQueues u) : s.SameQueues u := by
  intro v
  refine ⟨(h' v).1.trans (h v).1, fun q => ?_⟩
  have e := (h v).2 q
  have e' := (h' v).2 q
  rw [← e'] at e
  exact e

theorem State.vi_modVI (s : State) (n k : Nat) (f : VI → VI) : (s.modVI n f).vi k = if k = n then f (s.vi n) else s.vi k :=
  tblGet_tblSet _ _ _ _ _

theorem VI.queue_set (v : VI) (q k : Nat) (x : Queue) :
    ({ v with queues := tblSet v.queues q x } : VI).queue k = if k = q then x else v.queue k :=
  tblGet_tblSet _ _ _ _ _

theorem State.startWatchdog_eq (s : State) (v q : Nat) : ∃ vs, s.startWatchdog v q = { s with vis := vs } := ⟨_, rfl⟩

theorem State.startWatchdog_queues (s : State) (v q : Nat) : s.SameQueues (s.startWatchdog v q) := by
  intro k
  unfold State.startWatchdog State.modQueue
  dsimp only
  rw [State.vi_modVI]
  split
  · rename_i hk
    refine ⟨by rw [hk], fun j => ?_⟩
    rw [VI.queue_set]
    split
    · rename_i hj
      rw [hk, hj]
    · rw [hk]
  · exact ⟨rfl, fun j => rfl⟩

theorem State.SameQueues.refl (s : State) : s.SameQueues s := fun _ => ⟨rfl, fun _ => rfl⟩

theorem State.modSlots_queues (s : State) (v : Nat) (f : List Nat → List Nat) :
    s.SameQueues (s.modVI v (fun x => { x with slots := f x.slots })) := by
  intro k
  rw [State.vi_modVI]
  split
  · rename_i hk
    rw [hk]
    exact ⟨rfl, fun j => rfl⟩
  · exact ⟨rfl, fun j => rfl⟩

/-- A launch's payload slot is free, and its queue's watchdog starts again where it counted for it. -/
def State.letGo (s : State) (l : Launch) : State :=
  let s := match l.payloadSlot with
    | some n => s.modVI l.vi (fun v => { v with slots := v.slots.filter (fun x => x ≠ n) })
    | none => s
  if l.parent.isNone && l.start.isSome then s.startWatchdog l.vi l.queue else s

theorem State.letGo_eq (s : State) (l : Launch) : (∃ vs, s.letGo l = { s with vis := vs }) ∧ s.SameQueues (s.letGo l) := by
  have slot : ∃ vs, (match l.payloadSlot with
      | some n => s.modVI l.vi (fun v => { v with slots := v.slots.filter (fun x => x ≠ n) })
      | none => s) = { s with vis := vs } ∧ s.SameQueues { s with vis := vs } := by
    split
    · exact ⟨_, rfl, s.modSlots_queues _ _⟩
    · exact ⟨s.vis, rfl, .refl s⟩
  obtain ⟨vs, hvs, hsame⟩ := slot
  unfold State.letGo
  rw [hvs]
  dsimp only
  split
  · exact ⟨State.startWatchdog_eq { s with vis := vs } _ _, hsame.trans (State.startWatchdog_queues _ _ _)⟩
  · exact ⟨⟨vs, rfl⟩, hsame⟩

/-- A launch that is stopped goes to its completion signal; nothing else changes but its interface. -/
theorem State.abort_eq (s : State) (lid code flags : Nat) : ∃ vs, s.abort lid code flags =
      { s with launches := tblMod s.launches lid (fun l => l.aborted s.time code flags), vis := vs } ∧
    s.SameQueues { s with vis := vs } := by
  cases hl : s.launch lid with
  | none =>
    refine ⟨s.vis, ?_, .refl s⟩
    have same : tblMod s.launches lid (fun l => l.aborted s.time code flags) = s.launches := by
      unfold tblMod
      rw [show tblFind s.launches lid = none from hl]
    unfold State.abort
    rw [hl, same]
  | some l =>
    let stopped (l : Launch) : Launch := { l.addError code flags with
      counter := 0, stopped := true, plans := [], taskPlans := [], tasks := [], taskGroups := [], counted := true }
    let ended (l : Launch) : Launch := { l with phase := .completing, end_ := s.time, step := 0, payloadSlot := none }
    let s1 : State := (s.modLaunch lid stopped).modLaunch lid ended
    have hfound : (s.modLaunch lid stopped).launch lid = some (stopped l) := by
      have look := tblFind_tblMod s.launches lid lid stopped
      rw [if_pos rfl, show tblFind s.launches lid = some l from hl] at look
      exact look
    obtain ⟨⟨vs, hvs⟩, hsame⟩ := s1.letGo_eq (stopped l)
    have hend : (s.modLaunch lid stopped).zeroCounter lid = s1.letGo (stopped l) := by
      unfold State.zeroCounter
      rw [hfound]
      rfl
    refine ⟨vs, ?_, ?_⟩
    · have once : tblMod (tblMod (tblMod s.launches lid stopped) lid ended) lid (fun l => { l with step := 4 }) =
          tblMod s.launches lid (fun l => l.aborted s.time code flags) := by
        rw [tblMod_tblMod, tblMod_tblMod]
        rfl
      unfold State.abort
      rw [hl]
      dsimp only
      rw [hend, hvs, ← once]
      rfl
    · rw [hvs] at hsame
      exact hsame

/-- A launch found is stopped with the code that it calls for. -/
def State.abortAs (code : Launch → Nat) (s : State) (lid : Nat) : State :=
  match s.launch lid with
  | some l => s.abort lid (code l) 3
  | none => s

theorem State.abortAs_eq (code : Launch → Nat) (s : State) (lid : Nat) : ∃ vs, s.abortAs code lid =
      { s with launches := tblMod s.launches lid (fun l => l.aborted s.time (code l) 3), vis := vs } ∧
    s.SameQueues { s with vis := vs } := by
  unfold State.abortAs
  cases hl : s.launch lid with
  | none =>
    refine ⟨s.vis, ?_, .refl s⟩
    unfold tblMod
    rw [show tblFind s.launches lid = none from hl]
  | some l =>
    obtain ⟨vs, hvs, hsame⟩ := s.abort_eq lid (code l) 3
    refine ⟨vs, ?_, hsame⟩
    have same : tblMod s.launches lid (fun l => l.aborted s.time (code l) 3) =
        tblMod s.launches lid (fun m => m.aborted s.time (code l) 3) :=
      tblMod_congr (fun v hv => by rw [Option.some.inj (hv.symm.trans hl)])
    rw [same]
    exact hvs

/-- The launches of a state when some of them have been stopped. -/
def stoppedIn (now : Nat) (code : Launch → Nat) (ls : Tbl Launch) (roots : List Nat) : Tbl Launch :=
  roots.foldl (fun t lid => tblMod t lid (fun l => l.aborted now (code l) 3)) ls

theorem State.abortFold_eq (code : Launch → Nat) (s : State) (roots : List Nat) : ∃ vs, roots.foldl (State.abortAs code) s =
      { s with launches := stoppedIn s.time code s.launches roots, vis := vs } ∧ s.SameQueues { s with vis := vs } := by
  induction roots generalizing s with
  | nil => exact ⟨s.vis, rfl, .refl s⟩
  | cons lid roots ih =>
    obtain ⟨vs, hvs, hsame⟩ := s.abortAs_eq code lid
    obtain ⟨ws, hws, hsame'⟩ := ih (s.abortAs code lid)
    refine ⟨ws, ?_, ?_⟩
    · rw [List.foldl_cons, hws, hvs]
      rfl
    · rw [hvs] at hsame'
      exact hsame.trans hsame'

/-- A code that a launch calls for does not depend on what stopping it changes. -/
def Steady (code : Launch → Nat) : Prop := ∀ l now c, code (l.aborted now c 3) = code l

theorem Launch.aborted_twice {code : Launch → Nat} (hcode : Steady code) (l : Launch) (now : Nat) :
    (l.aborted now (code l) 3).aborted now (code (l.aborted now (code l) 3)) 3 = l.aborted now (code l) 3 := by
  rw [hcode]
  unfold Launch.aborted Launch.addError
  simp only [BitVec.or_assoc, BitVec.or_self]
  by_cases h : l.error = 0
  · simp only [if_pos h, ite_self]
  · simp only [if_neg h]

theorem tblFind_stoppedIn {code : Launch → Nat} (hcode : Steady code) (now : Nat) (ls : Tbl Launch) (roots : List Nat) (k : Nat) :
    tblFind (stoppedIn now code ls roots) k =
      if k ∈ roots then (tblFind ls k).map (fun l => l.aborted now (code l) 3) else tblFind ls k := by
  induction roots generalizing ls with
  | nil => exact (if_neg List.not_mem_nil).symm
  | cons lid roots ih =>
    change tblFind (stoppedIn now code (tblMod ls lid (fun l => l.aborted now (code l) 3)) roots) k = _
    rw [ih, tblFind_tblMod]
    by_cases hk : k = lid
    · subst hk
      rw [if_pos rfl, if_pos List.mem_cons_self]
      split
      · rw [Option.map_map]
        exact congrArg (Option.map · _) (funext (fun l => Launch.aborted_twice hcode l now))
      · rfl
    · rw [if_neg hk]
      simp only [List.mem_cons, hk, false_or]

/-- An entry is one that was there, or that of a launch stopped. -/
theorem mem_stoppedIn {now : Nat} {code : Launch → Nat} {ls : Tbl Launch} {roots : List Nat} {x : Nat × Launch}
    (h : x ∈ stoppedIn now code ls roots) : x ∈ ls ∨ (x.1 ∈ roots ∧ ∃ l, tblFind ls x.1 = some l ∧
      x.2.parent = l.parent ∧ x.2.leaf = l.leaf) := by
  induction roots generalizing ls with
  | nil => exact .inl h
  | cons lid roots ih =>
    rcases ih h with h | ⟨hr, l, hl, hp, hleaf⟩
    · rcases mem_tblMod h with h | ⟨v, hv, rfl⟩
      · exact .inl h
      · exact .inr ⟨List.mem_cons_self, v, hv, rfl, rfl⟩
    · refine .inr ⟨List.mem_cons_of_mem _ hr, ?_⟩
      rw [tblFind_tblMod] at hl
      split at hl
      · rename_i hk
        obtain ⟨v, hv, rfl⟩ := Option.map_eq_some_iff.1 hl
        exact ⟨v, hk ▸ hv, hp, hleaf⟩
      · exact ⟨l, hl, hp, hleaf⟩

/-- A leaf is freed, and its launches are stopped, each with the code that it calls for. -/
def State.endLeaf (code : Launch → Nat) (s : State) (leaf : Nat) : State :=
  (s.rootsOf leaf).foldl (State.abortAs code) (s.freeLeaf leaf (s.rootsOf leaf))

theorem State.endLeaf_eq (code : Launch → Nat) (s : State) (leaf : Nat) : let t := s.freeLeaf leaf (s.rootsOf leaf)
    ∃ vs, s.endLeaf code leaf = { t with launches := stoppedIn s.time code t.launches (s.rootsOf leaf), vis := vs } ∧
      s.SameQueues { s with vis := vs } := by
  intro t
  obtain ⟨hvis, -, -, -, htime⟩ := s.freeLeaf_kept leaf (s.rootsOf leaf)
  obtain ⟨vs, hvs, hsame⟩ := t.abortFold_eq code (s.rootsOf leaf)
  rw [htime] at hvs
  refine ⟨vs, hvs, fun v => ?_⟩
  have e := hsame v
  unfold State.vi at e ⊢
  rw [hvis] at e
  exact e

section
variable {code : Launch → Nat} {s : State} {leaf : Nat} (hfound : s.ChildrenFound) (hcode : Steady code)
include hfound hcode

/-- What becomes of a launch when its leaf ends. -/
theorem State.endLeaf_launch (lid : Nat) :
    (lid ∈ s.rootsOf leaf → (s.endLeaf code leaf).launch lid = (s.launch lid).map (fun l => l.aborted s.time (code l) 3)) ∧
    (Spec.UnderAny s (s.rootsOf leaf) lid → lid ∉ s.rootsOf leaf → (s.endLeaf code leaf).launch lid = none) ∧
    (¬ Spec.UnderAny s (s.rootsOf leaf) lid → (s.endLeaf code leaf).launch lid = s.launch lid) := by
  obtain ⟨vs, hvs, -⟩ := s.endLeaf_eq code leaf
  obtain ⟨hroot, hbelow, hother⟩ := State.freeLeaf_launch (leaf := leaf) (roots := s.rootsOf leaf) hfound lid
  have look := tblFind_stoppedIn hcode s.time (s.freeLeaf leaf (s.rootsOf leaf)).launches (s.rootsOf leaf) lid
  have hend : (s.endLeaf code leaf).launch lid = tblFind (stoppedIn s.time code (s.freeLeaf leaf (s.rootsOf leaf)).launches
      (s.rootsOf leaf)) lid := by rw [hvs]; rfl
  rw [hend, look]
  refine ⟨fun h => ?_, fun h hr => ?_, fun h => ?_⟩
  · rw [if_pos h]
    exact congrArg _ (hroot h)
  · rw [if_neg hr]
    exact hbelow h hr
  · rw [if_neg (fun hr => h (.self lid hr))]
    exact hother h

end

/-- An entry is one that was there, or a stopped root's. -/
theorem State.mem_endLeaf {code : Launch → Nat} {s : State} {leaf : Nat} {x : Nat × Launch}
    (h : x ∈ (s.endLeaf code leaf).launches) : x ∈ s.launches ∨
      (x.1 ∈ s.rootsOf leaf ∧ ∃ l, s.launch x.1 = some l ∧ x.2.parent = l.parent ∧ x.2.leaf = l.leaf) := by
  obtain ⟨vs, hvs, -⟩ := s.endLeaf_eq code leaf
  rw [hvs] at h
  rcases mem_stoppedIn h with h | ⟨hr, l, hl, hp, hleaf⟩
  · exact .inl (List.mem_of_mem_filter h)
  · refine .inr ⟨hr, l, ?_, hp, hleaf⟩
    have look := tblFind_filter s.launches
      (fun k => (s.rootsOf leaf).contains k || !(s.family (s.rootsOf leaf)).contains k) x.1
    rw [if_pos (by simp [hr])] at look
    exact look.symm.trans hl

/-! ### The thermal trip (R383) -/

/-- A root launch that is not complete. -/
def Launch.Open (l : Launch) : Prop := l.parent = none ∧ l.phase ≠ .completing ∧ l.phase ≠ .completed

theorem State.mem_rootsOf {s : State} {leaf lid : Nat} : lid ∈ s.rootsOf leaf ↔
    ∃ l, (lid, l) ∈ s.launches ∧ l.leaf = leaf ∧ l.Open := by
  unfold State.rootsOf Launch.Open
  simp [and_assoc]

/-- Descendance depends on which launches are found. -/
theorem under_congr {s t : State} {rs : List Nat} (h : ∀ c, t.launch c = s.launch c) {lid : Nat}
    (hu : Spec.UnderAny s rs lid) : Spec.UnderAny t rs lid := by
  induction hu with
  | self lid hmem => exact .self lid hmem
  | child c p l hl hp _ ih => exact .child c p l ((h c).trans hl) hp ih

theorem under_mono {s : State} {rs rs' : List Nat} (h : ∀ c ∈ rs, c ∈ rs') {lid : Nat} (hu : Spec.UnderAny s rs lid) :
    Spec.UnderAny s rs' lid := by
  induction hu with
  | self lid hmem => exact .self lid (h lid hmem)
  | child c p l hl hp _ ih => exact .child c p l hl hp ih

theorem under_append {s : State} {rs rs' : List Nat} {lid : Nat} (hu : Spec.UnderAny s (rs ++ rs') lid) :
    Spec.UnderAny s rs lid ∨ Spec.UnderAny s rs' lid := by
  induction hu with
  | self lid hmem => exact (List.mem_append.1 hmem).imp (.self lid) (.self lid)
  | child c p l hl hp _ ih => exact ih.imp (.child c p l hl hp) (.child c p l hl hp)

/-- Launches that have no parent. -/
def State.Parentless (s : State) (rs : List Nat) : Prop := ∀ c ∈ rs, ∀ l, s.launch c = some l → l.parent = none

/-- A launch descends from one root. -/
theorem under_disjoint {s : State} {rs rs' : List Nat} (hr : s.Parentless rs) (hr' : s.Parentless rs') {lid : Nat}
    (hu : Spec.UnderAny s rs lid) (hu' : Spec.UnderAny s rs' lid) : ∃ c, c ∈ rs ∧ c ∈ rs' := by
  induction hu with
  | self lid hmem =>
    cases hu' with
    | self _ hmem' => exact ⟨lid, hmem, hmem'⟩
    | child _ p l hl hp _ =>
      rw [hr lid hmem l hl] at hp
      cases hp
  | child c p l hl hp _ ih =>
    cases hu' with
    | self _ hmem' =>
      rw [hr' c hmem' l hl] at hp
      cases hp
    | child _ p' l' hl' hp' hu' =>
      obtain rfl : l = l' := Option.some.inj (hl.symm.trans hl')
      obtain rfl : p = p' := Option.some.inj (hp.symm.trans hp')
      exact ih hu'

/-- The roots of some leaves that are not complete. -/
def State.rootsAmong (s : State) (ds : List Nat) : List Nat := ds.flatMap s.rootsOf

/-- What a trip has made of a state when it has ended some leaves. -/
structure Tripped (code : Launch → Nat) (s : State) (ds : List Nat) (u : State) : Prop where
  mem : u.mem = s.mem
  dies : u.dies = s.dies
  mgmt : u.mgmt = s.mgmt
  time : u.time = s.time
  ended : ∀ lid ∈ s.rootsAmong ds, u.launch lid = (s.launch lid).map (fun l => l.aborted s.time (code l) 3)
  below : ∀ lid, Spec.UnderAny s (s.rootsAmong ds) lid → lid ∉ s.rootsAmong ds → u.launch lid = none
  others : ∀ lid, ¬ Spec.UnderAny s (s.rootsAmong ds) lid → u.launch lid = s.launch lid
  entries : ∀ x ∈ u.launches, x ∈ s.launches ∨ (x.2.parent = none ∧ x.2.leaf ∈ ds)
  groups : ∀ x ∈ u.groups, ¬ Spec.UnderAny s (s.rootsAmong ds) x.2.launch

theorem Tripped.start (code : Launch → Nat) (s : State) : Tripped code s [] s where
  mem := rfl
  dies := rfl
  mgmt := rfl
  time := rfl
  ended := fun _ h => absurd h List.not_mem_nil
  below := fun lid hu _ => by
    exfalso
    obtain ⟨c, hc, -⟩ := under_disjoint (rs' := []) (fun _ h => absurd h List.not_mem_nil) (fun _ h => absurd h List.not_mem_nil) hu hu
    exact List.not_mem_nil hc
  others := fun _ _ => rfl
  entries := fun _ h => .inl h
  groups := fun x _ hu => by
    obtain ⟨c, hc, -⟩ := under_disjoint (rs' := []) (fun _ h => absurd h List.not_mem_nil) (fun _ h => absurd h List.not_mem_nil) hu hu
    exact List.not_mem_nil hc

section
variable {code : Launch → Nat} {s u : State} {ds : List Nat} {leaf : Nat} (hn : (s.launches.map (·.1)).Nodup)
include hn

theorem State.mem_rootsAmong {lid : Nat} : lid ∈ s.rootsAmong ds ↔ ∃ l, s.launch lid = some l ∧ l.leaf ∈ ds ∧ l.Open := by
  unfold State.rootsAmong
  simp only [List.mem_flatMap, State.mem_rootsOf]
  constructor
  · rintro ⟨leaf, hd, l, hmem, rfl, hopen⟩
    exact ⟨l, tblFind_of_mem hn hmem, hd, hopen⟩
  · rintro ⟨l, hl, hd, hopen⟩
    exact ⟨l.leaf, hd, l, mem_of_tblFind hl, rfl, hopen⟩

theorem State.parentless_rootsAmong : s.Parentless (s.rootsAmong ds) := by
  intro c hc l hl
  obtain ⟨l', hl', -, hopen⟩ := (State.mem_rootsAmong hn).1 hc
  obtain rfl : l = l' := Option.some.inj (hl.symm.trans hl')
  exact hopen.1

/-- What belongs to a leaf that has still to end does not belong to those that have. -/
theorem not_under_ended (hnew : leaf ∉ ds) {lid : Nat} (hu : Spec.UnderAny s (s.rootsAmong [leaf]) lid) :
    ¬ Spec.UnderAny s (s.rootsAmong ds) lid := by
  intro hu'
  obtain ⟨c, hc, hc'⟩ := under_disjoint (State.parentless_rootsAmong hn) (State.parentless_rootsAmong hn) hu hu'
  obtain ⟨l, hl, hd, -⟩ := (State.mem_rootsAmong hn).1 hc
  obtain ⟨l', hl', hd', -⟩ := (State.mem_rootsAmong hn).1 hc'
  obtain rfl : l = l' := Option.some.inj (hl.symm.trans hl')
  exact hnew (List.mem_singleton.1 hd ▸ hd')

variable (h : Tripped code s ds u)
include h

theorem Tripped.childrenFound : u.ChildrenFound := by
  intro x hx hparent
  have hs : s.launch x.1 = some x.2 :=
    tblFind_of_mem hn ((h.entries x hx).resolve_right (fun hroot => hparent hroot.1))
  by_cases hunder : Spec.UnderAny s (s.rootsAmong ds) x.1
  · have hnot : x.1 ∉ s.rootsAmong ds := fun hr => hparent (State.parentless_rootsAmong hn x.1 hr x.2 hs)
    obtain ⟨l, hl⟩ := tblFind_some_of_mem hx
    exact absurd ((h.below x.1 hunder hnot).symm.trans hl) (Option.some_ne_none l).symm
  · rw [h.others x.1 hunder, hs]

variable (hnew : leaf ∉ ds)
include hnew

theorem Tripped.rootsOf_iff {lid : Nat} : lid ∈ u.rootsOf leaf ↔ lid ∈ s.rootsAmong [leaf] := by
  rw [State.mem_rootsOf, State.mem_rootsAmong hn]
  constructor
  · rintro ⟨l, hmem, hleaf, hopen⟩
    have hs := (h.entries _ hmem).resolve_right (fun hroot => hnew (hleaf ▸ hroot.2))
    exact ⟨l, tblFind_of_mem hn hs, List.mem_singleton.2 hleaf, hopen⟩
  · rintro ⟨l, hl, hleaf, hopen⟩
    have hu : Spec.UnderAny s (s.rootsAmong [leaf]) lid := .self lid ((State.mem_rootsAmong hn).2 ⟨l, hl, hleaf, hopen⟩)
    have hul : u.launch lid = some l := (h.others lid (not_under_ended hn hnew hu)).trans hl
    exact ⟨l, mem_of_tblFind hul, List.mem_singleton.1 hleaf, hopen⟩

theorem Tripped.under_iff {lid : Nat} : Spec.UnderAny u (u.rootsOf leaf) lid ↔ Spec.UnderAny s (s.rootsAmong [leaf]) lid := by
  constructor
  · intro hu
    induction hu with
    | self lid hmem => exact .self lid ((h.rootsOf_iff hn hnew).1 hmem)
    | child c p l hl hp _ ih =>
      have hs := (h.entries _ (mem_of_tblFind hl)).resolve_right (fun hroot => by
        rw [hp] at hroot
        exact Option.some_ne_none p hroot.1)
      exact .child c p l (tblFind_of_mem hn hs) hp ih
  · intro hu
    induction hu with
    | self lid hmem => exact .self lid ((h.rootsOf_iff hn hnew).2 hmem)
    | child c p l hl hp hup ih =>
      have hc := h.others c (not_under_ended hn hnew (.child c p l hl hp hup))
      exact .child c p l (hc.trans hl) hp ih

theorem Tripped.step (hcode : Steady code) : Tripped code s (leaf :: ds) (u.endLeaf code leaf) := by
  have hfound := h.childrenFound hn
  have hroots : ∀ {lid : Nat}, lid ∈ u.rootsOf leaf ↔ lid ∈ s.rootsAmong [leaf] := h.rootsOf_iff hn hnew
  have hunder : ∀ {lid : Nat}, Spec.UnderAny u (u.rootsOf leaf) lid ↔ Spec.UnderAny s (s.rootsAmong [leaf]) lid :=
    h.under_iff hn hnew
  have hsplit : s.rootsAmong (leaf :: ds) = s.rootsAmong [leaf] ++ s.rootsAmong ds := by
    unfold State.rootsAmong
    rw [List.flatMap_cons, List.flatMap_singleton]
  have hboth : ∀ {lid : Nat}, Spec.UnderAny s (s.rootsAmong (leaf :: ds)) lid ↔
      Spec.UnderAny s (s.rootsAmong [leaf]) lid ∨ Spec.UnderAny s (s.rootsAmong ds) lid := fun {lid} => by
    rw [hsplit]
    exact ⟨under_append, fun h => h.elim (under_mono (fun c => List.mem_append_left _)) (under_mono (fun c => List.mem_append_right _))⟩
  obtain ⟨vs, hvs, -⟩ := u.endLeaf_eq code leaf
  obtain ⟨-, kmem, kdies, kmgmt, ktime⟩ := u.freeLeaf_kept leaf (u.rootsOf leaf)
  have hmem : (u.endLeaf code leaf).mem = u.mem := by rw [hvs]; exact kmem
  have hdies : (u.endLeaf code leaf).dies = u.dies := by rw [hvs]; exact kdies
  have hmgmt : (u.endLeaf code leaf).mgmt = u.mgmt := by rw [hvs]; exact kmgmt
  have htime : (u.endLeaf code leaf).time = u.time := by rw [hvs]; exact ktime
  refine ⟨hmem.trans h.mem, hdies.trans h.dies, hmgmt.trans h.mgmt, htime.trans h.time, fun lid hr => ?ended,
    fun lid hu hr => ?below, fun lid hu => ?others, fun x hx => ?entries, fun x hx hu => ?groups⟩
  case ended =>
    obtain ⟨hroot, -, hother⟩ := State.endLeaf_launch (leaf := leaf) hfound hcode lid
    rw [hsplit] at hr
    rcases List.mem_append.1 hr with hr | hr
    · rw [hroot (hroots.2 hr), h.others lid (not_under_ended hn hnew (.self lid hr)), h.time]
    · rw [hother (fun hu => not_under_ended hn hnew (hunder.1 hu) (.self lid hr)), h.ended lid hr]
  case below =>
    obtain ⟨-, hbelow, hother⟩ := State.endLeaf_launch (leaf := leaf) hfound hcode lid
    rw [hsplit] at hr
    have hr1 : lid ∉ s.rootsAmong [leaf] := fun hm => hr (List.mem_append_left _ hm)
    have hr2 : lid ∉ s.rootsAmong ds := fun hm => hr (List.mem_append_right _ hm)
    rcases hboth.1 hu with hu | hu
    · exact hbelow (hunder.2 hu) (fun hm => hr1 (hroots.1 hm))
    · rw [hother (fun hu' => not_under_ended hn hnew (hunder.1 hu') hu), h.below lid hu hr2]
  case others =>
    obtain ⟨-, -, hother⟩ := State.endLeaf_launch (leaf := leaf) hfound hcode lid
    rw [hother (fun hu' => hu (hboth.2 (.inl (hunder.1 hu')))), h.others lid (fun hu' => hu (hboth.2 (.inr hu')))]
  case entries =>
    rcases State.mem_endLeaf hx with hx | ⟨hr, l, hl, hparent, hleaf⟩
    · exact (h.entries x hx).imp_right (fun hroot => ⟨hroot.1, List.mem_cons_of_mem _ hroot.2⟩)
    · have hr := hroots.1 hr
      obtain ⟨m, hm, hmleaf, hopen⟩ := (State.mem_rootsAmong hn).1 hr
      obtain rfl : l = m := Option.some.inj (hl.symm.trans ((h.others _ (not_under_ended hn hnew (.self _ hr))).trans hm))
      exact .inr ⟨hparent.trans hopen.1, by rw [hleaf, List.mem_singleton.1 hmleaf]; exact List.mem_cons_self⟩
  case groups =>
    have hx' : x ∈ (u.freeLeaf leaf (u.rootsOf leaf)).groups := by
      rw [hvs] at hx
      exact hx
    obtain ⟨hxu, hnot⟩ := State.freeLeaf_group_gone hfound hx'
    exact (hboth.1 hu).elim (fun h' => hnot (hunder.2 h')) (h.groups x hxu)

end

theorem Tripped.all {code : Launch → Nat} {s : State} (hn : (s.launches.map (·.1)).Nodup) (hcode : Steady code) :
    ∀ (leaves ds : List Nat) (u : State), Tripped code s ds u → leaves.Nodup → (∀ x ∈ leaves, x ∉ ds) →
      Tripped code s (leaves.reverse ++ ds) (leaves.foldl (State.endLeaf code) u)
  | [], _, _, h, _, _ => h
  | leaf :: leaves, ds, u, h, hnodup, hnew => by
    obtain ⟨hl, hnodup⟩ := List.nodup_cons.1 hnodup
    rw [List.foldl_cons, List.reverse_cons, List.append_assoc]
    refine Tripped.all hn hcode leaves (leaf :: ds) _ (h.step hn (hnew leaf List.mem_cons_self) hcode) hnodup (fun x hx hin => ?_)
    rcases List.mem_cons.1 hin with rfl | hin
    · exact hl hx
    · exact hnew x (List.mem_cons_of_mem _ hx) hin

theorem mem_distinct {x : Nat} {xs : List Nat} : x ∈ distinct xs ↔ x ∈ xs := by
  induction xs with
  | nil => exact Iff.rfl
  | cons y xs ih =>
    unfold distinct
    split
    · rename_i hy
      rw [ih, List.mem_cons]
      exact ⟨.inr, fun h => h.elim (fun e => e ▸ by simpa using hy) id⟩
    · rw [List.mem_cons, List.mem_cons, ih]

theorem nodup_distinct (xs : List Nat) : (distinct xs).Nodup := by
  induction xs with
  | nil => exact List.nodup_nil
  | cons y xs ih =>
    unfold distinct
    split
    · exact ih
    · rename_i hy
      exact List.nodup_cons.2 ⟨fun h => hy (by simpa using mem_distinct.1 h), ih⟩

/-- The code and flags with which a trip ends a launch (R383). -/
def tripCode (_ : Launch) : Nat := 0x305

theorem State.abortAs_const (s : State) (lid : Nat) : s.abortAs tripCode lid = s.abort lid 0x305 3 := by
  unfold State.abortAs
  split
  · rfl
  · rename_i h
    unfold State.abort
    rw [h]

/-- The leaves that may have launches or tables of work. -/
def State.leaves (s : State) : List Nat := distinct (tblKeys s.parts ++ s.launches.map (fun (p : Nat × Launch) => p.2.leaf))

theorem State.abortAll_eq (s : State) : s.abortAll =
    s.leaves.foldl (State.endLeaf tripCode) s := by
  unfold State.leaves State.abortAll State.endLeaf
  simp only [← State.abortAs_const]

/-- Every launch that is not complete has ended, and nothing of it is left. -/
theorem State.abortAll_tripped {s : State} (hn : (s.launches.map (·.1)).Nodup) : ∃ ds, Tripped tripCode s ds s.abortAll ∧
    ∀ x ∈ s.launches, x.2.leaf ∈ ds := by
  refine ⟨s.leaves.reverse ++ [], ?_, fun x hx => ?_⟩
  · rw [s.abortAll_eq]
    exact Tripped.all hn (fun _ _ _ => rfl) _ [] s (Tripped.start _ s) (nodup_distinct _) (fun _ _ => List.not_mem_nil)
  · rw [List.append_nil, List.mem_reverse]
    refine mem_distinct.2 ?_
    exact List.mem_append_right _ (List.mem_map_of_mem hx)

/-- A die that a trip stops (R383). -/
def Die.trip (d : Die) (now : Nat) : Die := { (if d.relocking then d else d.stop now) with tripped := true, stepWaits := [] }

theorem Die.trip_counts (d : Die) (now : Nat) : (d.trip now).relocking = true ∧ (d.trip now).cyc now = d.cyc now ∧
    (d.trip now).cycs now = d.cycs now := by
  unfold Die.trip
  split
  · rename_i h
    exact ⟨h, rfl, rfl⟩
  · refine ⟨rfl, ?_, ?_⟩
    · change (d.cyc now) + BitVec.ofNat 64 0 = d.cyc now
      exact BitVec.add_zero _
    · change (d.cycs now) + BitVec.ofNat 64 (0 * d.ratio / 2 ^ 24) = d.cycs now
      rw [Nat.zero_mul, Nat.zero_div]
      exact BitVec.add_zero _

/-- Every die of a list is changed. -/
theorem State.foldl_modDie (f : Nat → Die → Die) (ns : List Nat) (hn : ns.Nodup) (s : State) :
    ∃ ds, ns.foldl (fun s n => s.modDie n (f s.time)) s = { s with dies := ds } ∧
      ∀ k, ({ s with dies := ds } : State).die k = if k ∈ ns then f s.time (s.die k) else s.die k := by
  induction ns generalizing s with
  | nil => exact ⟨s.dies, rfl, fun k => (if_neg List.not_mem_nil).symm⟩
  | cons n ns ih =>
    obtain ⟨hnew, hn⟩ := List.nodup_cons.1 hn
    obtain ⟨ds, hds, hk⟩ := ih hn (s.modDie n (f s.time))
    refine ⟨ds, hds, fun k => ?_⟩
    refine (hk k).trans ?_
    rw [State.die_modDie]
    by_cases hkn : k = n
    · subst hkn
      rw [if_neg hnew, if_pos rfl, if_pos List.mem_cons_self]
    · simp only [List.mem_cons, hkn, false_or, if_false]
      rfl

end Sys2Proof.Machine

namespace Sys2Proof.FrontEnd
open Sys2Proof Sys2Proof.Machine

theorem thermalTrip_eq (s : State) (n : Nat) (hn : n < 8) : exec (.thermalTrip n) s =
    .next (allDies.foldl (fun s n => s.modDie n (fun d => d.trip s.time)) s).abortAll.enterRecovery := by
  change (.next (s.thermalTrip n) : Out) = _
  unfold State.thermalTrip
  rw [if_neg (by omega)]
  rfl

/-- A trip, in the words of R383. -/
theorem trips_dies (s : State) (n : Nat) (hn : n < 8) : ∃ ds, exec (.thermalTrip n) s =
    .next (State.abortAll { s with dies := ds }).enterRecovery ∧
    ∀ k, k < 8 → tblGet ds {} k = (s.die k).trip s.time := by
  obtain ⟨ds, hds, hdie⟩ := State.foldl_modDie (fun now d => d.trip now) allDies (by decide) s
  refine ⟨ds, ?_, fun k hk => (hdie k).trans (if_pos (mem_allDies.2 hk))⟩
  rw [thermalTrip_eq s n hn, hds]

/-- The launches that are not complete and have no parent. -/
theorem openRoots_iff {s : State} {leaves : List Nat} (hn : (s.launches.map (·.1)).Nodup)
    (hall : ∀ x ∈ s.launches, x.2.leaf ∈ leaves) (lid : Nat) :
    lid ∈ (s.launches.filter (fun x => x.2.parent.isNone && x.2.phase != .completing && x.2.phase != .completed)).map (·.1) ↔
      lid ∈ s.rootsAmong leaves := by
  rw [State.mem_rootsAmong hn]
  constructor
  · intro h
    obtain ⟨x, hx, rfl⟩ := List.mem_map.1 h
    obtain ⟨hx, hopen⟩ := List.mem_filter.1 hx
    exact ⟨x.2, tblFind_of_mem hn hx, hall x hx, by simpa [Launch.Open, and_assoc] using hopen⟩
  · rintro ⟨l, hl, -, hopen⟩
    refine List.mem_map.2 ⟨(lid, l), List.mem_filter.2 ⟨mem_of_tblFind hl, ?_⟩, rfl⟩
    simpa [Launch.Open, and_assoc] using hopen

/-- The error that a stopped launch completes with. -/
theorem aborted_error (l : Launch) (now code : Nat) :
    (l.aborted now code 3).error = if l.error ≠ 0 then l.error else BitVec.ofNat 32 code := by
  change (if l.error = 0 then _ else _) = _
  rw [ite_not]

theorem trips : Spec.Trips := by
  intro s n
  refine ⟨fun h => ?low, fun hn hlaunches _ => ?_⟩
  case low =>
    change (.next (s.thermalTrip n) : Out) = _
    unfold State.thermalTrip
    rw [if_pos h]
  obtain ⟨ds, hexec, hdie⟩ := trips_dies s n hn
  let s1 : State := { s with dies := ds }
  obtain ⟨leaves, htrip, hall⟩ := State.abortAll_tripped (s := s1) hlaunches
  have hroots := openRoots_iff (s := s1) hlaunches hall
  refine ⟨s1.abortAll.enterRecovery, hexec, htrip.mem, rfl, rfl, fun k hk => ?dies, fun x hx hu => ?groups,
    fun lid l hr hl => ?ended⟩
  case dies =>
    have hk' : (s1.abortAll.enterRecovery).die k = (s.die k).trip s.time :=
      (congrArg (fun ds => tblGet ds ({} : Die) k) htrip.dies).trans (hdie k hk)
    obtain ⟨hstop, hcyc, hcycs⟩ := (s.die k).trip_counts s.time
    rw [hk']
    exact ⟨hstop, rfl, rfl, hcyc, hcycs⟩
  case groups =>
    exact htrip.groups x hx (under_congr (s := s) (t := s1) (fun _ => rfl) (under_mono (fun c hc => (hroots c).1 hc) hu))
  case ended =>
    have hl' := htrip.ended lid ((hroots lid).1 hr)
    rw [show s1.launch lid = some l from hl] at hl'
    exact ⟨_, hl', rfl, rfl, aborted_error l s.time 0x305, rfl, rfl⟩

/-- Settles O60, clause by clause: a trip ends the leaves one after another, and what belongs to one leaf's roots belongs to no
other's. -/
theorem board : Obligations.Board := ⟨clockSteps, powerSamples, hotJunction, trips, resets, bootsAndLinks⟩

end Sys2Proof.FrontEnd
end

section
/-!
SUPPORT. Front end and partitions: the firmware's work (R55 to R67, R338, R356, R392).
-/

namespace Sys2Proof.Machine
open Sys2Proof

/-! ### Requests to the host (R66, R392) -/

theorem leBytes_length (n v : Nat) : (leBytes n v).length = n := by
  induction n generalizing v with
  | zero => rfl
  | succ n ih => exact congrArg (· + 1) (ih _)

theorem leNat_leBytes (n v : Nat) : leNat (leBytes n v) = v % 256 ^ n := by
  induction n generalizing v with
  | zero => exact (Nat.mod_one v).symm
  | succ n ih =>
    change (BitVec.ofNat 8 v).toNat + 256 * leNat (leBytes n (v / 256)) = _
    rw [ih, BitVec.toNat_ofNat, show 256 ^ (n + 1) = 256 * 256 ^ n from Nat.pow_succ']
    exact Nat.mod_mul.symm

theorem bitAt_toNat {n : Nat} (x : BitVec n) (i : Nat) : bitAt x.toNat i = x.getLsbD i := by
  unfold bitAt BitVec.getLsbD Nat.testBit
  rw [Nat.one_and_eq_mod_two, Nat.shiftRight_eq_div_pow]
  rcases Nat.mod_two_eq_zero_or_one (x.toNat / 2 ^ i) with h | h <;> rw [h] <;> rfl

theorem ringTakes_eq (r : Ring) : Spec.ringTakes r = !(!ringOn r.ctl || decide ((r.tail - r.head).toNat ≥ ringSize r.ctl)) := by
  unfold Spec.ringTakes ringOn ringSize
  rw [bitAt_toNat, Bool.not_or, Bool.not_not, ← decide_not]
  congr 2
  exact propext (by omega)

theorem State.mgmtRecord_full (s : State) {r : Ring} (h : Spec.ringTakes r = false) (bs : List Byte) : s.mgmtRecord r bs = none := by
  rw [ringTakes_eq, Bool.not_eq_false'] at h
  exact if_pos (by simpa using h)

theorem State.mgmtRecord_room (s : State) {r : Ring} (h : Spec.ringTakes r = true) (bs : List Byte) : s.mgmtRecord r bs =
    some ({ s.putMem (Spec.ringAt r) bs with mgmt := { s.mgmt with msix := s.mgmt.msix ++ [ringVec r.ctl] } },
      { r with tail := r.tail + 1 }) := by
  rw [ringTakes_eq, Bool.not_eq_true'] at h
  exact if_neg (by simpa using h)

theorem State.putMem_groups (s : State) (a : Nat) (bs : List Byte) :
    (s.putMem a bs).groups = Spec.watched s (Spec.watches a bs.length) := rfl

theorem assistRecord_eq (tag : BitVec 32) (leaf fn : Nat) (data : List Nat) : assistRecord tag leaf fn data =
    leBytes 4 tag.toNat ++ [BitVec.ofNat 8 fn, BitVec.ofNat 8 (leaf / 16), childByte leaf, 0] ++
      (List.range 56).map (fun i => Config.assistByte fn data i) := by
  unfold assistRecord
  simp [leBytes]

theorem assistRecord_length (tag : BitVec 32) (leaf fn : Nat) (data : List Nat) : (assistRecord tag leaf fn data).length = 64 := by
  rw [assistRecord_eq]
  simp [leBytes_length]

theorem assistRecord_tag (tag : BitVec 32) (leaf fn : Nat) (data : List Nat) :
    fieldAt (assistRecord tag leaf fn data) 0 4 = tag.toNat := by
  have first : ((assistRecord tag leaf fn data).drop 0).take 4 = leBytes 4 tag.toNat := by
    rw [assistRecord_eq, List.drop_zero, List.append_assoc]
    exact List.take_left' (leBytes_length 4 _)
  unfold fieldAt
  rw [first, leNat_leBytes]
  exact Nat.mod_eq_of_lt tag.isLt

/-- The bytes of a request after its tag. -/
theorem assistRecord_getD (tag : BitVec 32) (leaf fn : Nat) (data : List Nat) (n : Nat) :
    (assistRecord tag leaf fn data).getD (4 + n) 0 =
      ([BitVec.ofNat 8 fn, BitVec.ofNat 8 (leaf / 16), childByte leaf, 0] ++
        (List.range 56).map (fun i => Config.assistByte fn data i)).getD n 0 := by
  rw [assistRecord_eq, List.append_assoc, List.getD_append_right _ _ _ _ (by rw [leBytes_length]; omega), leBytes_length,
    Nat.add_sub_cancel_left]

theorem childByte_eq (leaf : Nat) : (childByte leaf).toNat = if leaf % 16 < 8 then 0xFF else leaf % 8 := by
  unfold childByte
  split
  · rfl
  · rw [BitVec.toNat_ofNat]
    omega

/-- A request is posted, and written to the assist ring where that has room. -/
theorem State.askAssist_asked (s : State) (leaf fn : Nat) (data : List Nat) : Spec.Asked s (s.askAssist leaf fn data) leaf fn data := by
  cases h : Spec.ringTakes s.mgmt.assist with
  | false =>
    have full : s.askAssist leaf fn data = { s with mgmt := { s.mgmt with
        asks := s.mgmt.asks ++ [{ tag := s.mgmt.nextAsk, leaf := leaf, fn := fn, data := data, posted := s.time }]
        nextAsk := s.mgmt.nextAsk + 1 } } := by
      unfold State.askAssist
      dsimp only
      rw [State.mgmtRecord_full _ h]
    rw [full]
    exact { asks := rfl, tag := rfl, rest := rfl, mgmt := rfl, full := fun _ => ⟨rfl, rfl, rfl, rfl⟩
            room := fun e => absurd (h.symm.trans e) Bool.false_ne_true }
  | true =>
    let b := assistRecord s.mgmt.nextAsk leaf fn data
    have room : s.askAssist leaf fn data = { s with
        mem := memPut s.mem (Spec.ringAt s.mgmt.assist) b
        groups := Spec.watched s (Spec.watches (Spec.ringAt s.mgmt.assist) b.length)
        mgmt := { s.mgmt with
          asks := s.mgmt.asks ++ [{ tag := s.mgmt.nextAsk, leaf := leaf, fn := fn, data := data, posted := s.time }]
          nextAsk := s.mgmt.nextAsk + 1
          assist := { s.mgmt.assist with tail := s.mgmt.assist.tail + 1 }
          msix := s.mgmt.msix ++ [ringVec s.mgmt.assist.ctl] } } := by
      unfold State.askAssist
      dsimp only
      rw [State.mgmtRecord_room _ h]
      rfl
    rw [room, assistRecord_length]
    refine { asks := rfl, tag := rfl, rest := rfl, mgmt := rfl, full := fun e => absurd (h.symm.trans e) (Ne.symm Bool.false_ne_true)
             room := fun _ => ⟨rfl, rfl, rfl, b, rfl, assistRecord_length _ _ _ _, assistRecord_tag _ _ _ _, fun hfn => ?_, fun hleaf => ?_,
               ?_, ?_, fun i hi => ?_⟩ }
    · exact (congrArg BitVec.toNat (assistRecord_getD _ _ _ _ 0)).trans (Nat.mod_eq_of_lt hfn)
    · exact (congrArg BitVec.toNat (assistRecord_getD _ _ _ _ 1)).trans (Nat.mod_eq_of_lt (by omega))
    · exact (congrArg BitVec.toNat (assistRecord_getD _ _ _ _ 2)).trans (childByte_eq leaf)
    · exact assistRecord_getD _ _ _ _ 3
    · have e := assistRecord_getD s.mgmt.nextAsk leaf fn data (4 + i)
      rw [← Nat.add_assoc] at e
      refine e.trans ?_
      rw [List.getD_append_right _ _ _ _ (by simp)]
      simp [List.getD_eq_getElem?_getD, hi]

/-! ### Interfaces and their queues, one after another -/

/-- `t` is `s` but for its interfaces. -/
def State.SameButVis (s t : State) : Prop := { t with vis := s.vis } = s

theorem State.SameButVis.trans {s t u : State} (h : s.SameButVis t) (h' : t.SameButVis u) : s.SameButVis u := by
  unfold State.SameButVis at *
  cases s; cases t; cases u
  simp_all

theorem State.SameButVis.eq {s t : State} (h : s.SameButVis t) : t = { s with vis := t.vis } :=
  congrArg (fun x : State => { x with vis := t.vis }) h

/-- Interfaces changed one after another, each as `R` says where it is as `P` asks. -/
theorem State.foldl_vis {s0 : State} {h : State → Nat → State} {P : VI → Prop} {R : Nat → VI → VI → Prop}
    (step : ∀ s v, s0.SameButVis s → P (s.vi v) →
      s.SameButVis (h s v) ∧ (∀ k, k ≠ v → (h s v).vi k = s.vi k) ∧ R v (s.vi v) ((h s v).vi v))
    (vs : List Nat) (hn : vs.Nodup) (s : State) (hs : s0.SameButVis s) (hp : ∀ v ∈ vs, P (s.vi v)) :
    s.SameButVis (vs.foldl h s) ∧
      ∀ v, (v ∉ vs → (vs.foldl h s).vi v = s.vi v) ∧ (v ∈ vs → R v (s.vi v) ((vs.foldl h s).vi v)) := by
  induction vs generalizing s with
  | nil => exact ⟨rfl, fun v => ⟨fun _ => rfl, fun hv => absurd hv List.not_mem_nil⟩⟩
  | cons v vs ih =>
    obtain ⟨hnew, hn⟩ := List.nodup_cons.1 hn
    obtain ⟨hsame, hother, hv⟩ := step s v hs (hp v List.mem_cons_self)
    obtain ⟨hsame', hrest⟩ := ih hn (h s v) (hs.trans hsame) (fun k hk => by
      rw [hother k (fun e => hnew (e ▸ hk))]
      exact hp k (List.mem_cons_of_mem _ hk))
    refine ⟨hsame.trans hsame', fun k => ⟨fun hk => ?_, fun hk => ?_⟩⟩
    · have hkv : k ≠ v := fun e => hk (e ▸ List.mem_cons_self)
      exact ((hrest k).1 (fun hin => hk (List.mem_cons_of_mem _ hin))).trans (hother k hkv)
    · rcases List.mem_cons.1 hk with rfl | hk
      · rw [List.foldl_cons, (hrest k).1 hnew]
        exact hv
      · have hkv : k ≠ v := fun e => hnew (e ▸ hk)
        have := (hrest k).2 hk
        rwa [hother k hkv] at this

/-- The queues `qs` of interface `v` have been changed, each by `f`, and nothing else. -/
structure QueuesChanged (s t : State) (v : Nat) (qs : List Nat) (f : Nat → Queue → Queue) : Prop where
  rest : s.SameButVis t
  others : ∀ k, k ≠ v → t.vi k = s.vi k
  vi : { t.vi v with queues := (s.vi v).queues } = s.vi v
  listed : ∀ q ∈ qs, (t.vi v).queue q = f q ((s.vi v).queue q)
  unlisted : ∀ q, q ∉ qs → (t.vi v).queue q = (s.vi v).queue q

theorem State.modQueue_changed (s : State) (v q : Nat) (f : Queue → Queue) : QueuesChanged s (s.modQueue v q f) v [q] (fun _ => f) := by
  have hv : (s.modQueue v q f).vi v = { s.vi v with queues := tblSet (s.vi v).queues q (f ((s.vi v).queue q)) } :=
    (s.vi_modVI v v _).trans (if_pos rfl)
  refine ⟨rfl, fun k hk => (s.vi_modVI v k _).trans (if_neg hk), by rw [hv], fun j hj => ?_, fun j hj => ?_⟩
  · rw [hv, VI.queue_set, if_pos (List.mem_singleton.1 hj), List.mem_singleton.1 hj]
  · rw [hv, VI.queue_set, if_neg (fun e => hj (List.mem_singleton.2 e))]

/-- Queues changed one after another. -/
theorem State.foldl_modQueue {s0 : State} {v : Nat} {g : State → Nat → Queue → Queue} (f : Nat → Queue → Queue)
    (hg : ∀ s, s0.SameButVis s → ∀ q, g s q = f q) (qs : List Nat) (hn : qs.Nodup) (s : State) (hs : s0.SameButVis s) :
    QueuesChanged s (qs.foldl (fun s q => s.modQueue v q (g s q)) s) v qs f := by
  induction qs generalizing s with
  | nil => exact ⟨rfl, fun _ _ => rfl, rfl, fun _ h => absurd h List.not_mem_nil, fun _ _ => rfl⟩
  | cons q qs ih =>
    obtain ⟨hnew, hn⟩ := List.nodup_cons.1 hn
    have first := s.modQueue_changed v q (g s q)
    have later := ih hn (s.modQueue v q (g s q)) (hs.trans first.rest)
    rw [hg s hs] at first later
    rw [List.foldl_cons, hg s hs]
    refine ⟨first.rest.trans later.rest, fun k hk => (later.others k hk).trans (first.others k hk), ?_, fun j hj => ?_, fun j hj => ?_⟩
    · have e := later.vi
      have e' := first.vi
      rw [← e] at e'
      exact e'
    · rcases List.mem_cons.1 hj with rfl | hj
      · rw [later.unlisted j hnew, first.listed j List.mem_cons_self]
      · have hjq : j ≠ q := fun e => hnew (e ▸ hj)
        rw [later.listed j hj, first.unlisted j (fun h => hjq (List.mem_singleton.1 h))]
    · rw [later.unlisted j (fun h => hj (List.mem_cons_of_mem _ h)),
        first.unlisted j (fun h => hj (List.mem_singleton.1 h ▸ List.mem_cons_self))]

/-! ### Partitions -/

theorem State.part_modPart (s : State) (n k : Nat) (f : Part → Part) :
    (s.modPart n f).part k = if k = n then f (s.part n) else s.part k :=
  tblGet_tblSet _ _ _ _ _

theorem State.modPart_modPart (s : State) (n : Nat) (f g : Part → Part) :
    (s.modPart n f).modPart n g = s.modPart n (fun p => g (f p)) := by
  have read : (s.modPart n f).part n = f (s.part n) := (State.part_modPart s n n f).trans (if_pos rfl)
  have twice : tblSet (tblSet s.parts n (f (s.part n))) n (g (f (s.part n))) = tblSet s.parts n (g (f (s.part n))) :=
    tblSet_tblSet _ _ _ _
  unfold State.modPart at *
  rw [read]
  exact congrArg (fun ps => { s with parts := ps }) twice

end Sys2Proof.Machine

namespace Sys2Proof.FrontEnd
open Sys2Proof Sys2Proof.Machine

/-! ### Queue cores (R55, R57) -/

/-- A block is brought up to date by what the hardware has of the queue. -/
def repaired (s : State) (v q : Nat) (x : Queue) : Queue :=
  let b := if x.block.gen.getLsbD 0 then x.shadow else x.block
  { x with block := { b with head := x.qhead, released := x.relcnt, inflight := Spec.unfinished s v q, gen := b.gen + 2 } }

theorem inflight_eq (s : State) (v q : Nat) : BitVec.ofNat 32 (s.inflightOf v q) = Spec.unfinished s v q := by
  unfold State.inflightOf Spec.unfinished
  rw [List.countP_eq_length_filter]
  congr 3
  funext p
  simp [Bool.beq_eq_decide_eq, bne]

theorem getLsbD_zero {n : Nat} (x : BitVec n) : x.getLsbD 0 = decide (x.toNat % 2 = 1) := by
  rw [← bitAt_toNat]
  unfold bitAt
  rw [Nat.pow_zero, Nat.div_one]
  rfl

theorem repair_eq (s : State) (v q : Nat) (x : Queue) : x.repair (s.inflightOf v q) = repaired s v q x := by
  unfold Queue.repair repaired
  rw [inflight_eq, getLsbD_zero]
  simp only [decide_eq_true_eq]

/-- The blocks of an interface repaired. -/
theorem repairVi_changed {s0 s : State} (hs : s0.SameButVis s) (v : Nat) (hn : (tblKeys (s.vi v).queues).Nodup) :
    QueuesChanged s (s.repairVi v) v (tblKeys (s.vi v).queues) (fun q => repaired s0 v q) := by
  have chained : s.repairVi v = (tblKeys (s.vi v).queues).foldl
      (fun s q => s.modQueue v q (fun x => x.repair (s.inflightOf v q))) s := by
    unfold State.repairVi tblKeys
    rw [List.foldl_map]
  rw [chained]
  refine State.foldl_modQueue (s0 := s0) (g := fun s q x => x.repair (s.inflightOf v q)) _ (fun t ht q => ?_) _ hn s hs
  have launches : t.inflightOf v q = s0.inflightOf v q := by rw [← ht]; rfl
  funext x
  rw [launches, repair_eq]

/-- What a repair by queue core `qc` makes of interface `v`. -/
def ViRepaired (s : State) (qc v : Nat) (w w' : VI) : Prop :=
  { w' with queues := w.queues } = w ∧
    ∀ q ∈ tblKeys w.queues, w'.queue q = if (v - 1) % 6 = qc then repaired s v q (w.queue q) else w.queue q

/-- The blocks of a queue core's interfaces repaired. -/
theorem repairs_vis (s : State) (qc : Nat) (hkeys : (tblKeys s.vis).Nodup) (hqueues : ∀ p ∈ s.vis, (tblKeys p.2.queues).Nodup) :
    let t := (tblKeys s.vis).foldl (fun s v => if (v - 1) % 6 = qc then s.repairVi v else s) s
    s.SameButVis t ∧ ∀ v ∈ tblKeys s.vis, ViRepaired s qc v (s.vi v) (t.vi v) := by
  have step : ∀ (t : State) (v : Nat), s.SameButVis t → (tblKeys (t.vi v).queues).Nodup →
      t.SameButVis (if (v - 1) % 6 = qc then t.repairVi v else t) ∧
      (∀ k, k ≠ v → (if (v - 1) % 6 = qc then t.repairVi v else t).vi k = t.vi k) ∧
      ViRepaired s qc v (t.vi v) ((if (v - 1) % 6 = qc then t.repairVi v else t).vi v) := by
    intro t v ht hn
    unfold ViRepaired
    split
    · have h := repairVi_changed ht v hn
      exact ⟨h.rest, h.others, h.vi, h.listed⟩
    · exact ⟨rfl, fun _ _ => rfl, rfl, fun _ _ => rfl⟩
  obtain ⟨hsame, hvis⟩ := State.foldl_vis (P := fun w => (tblKeys w.queues).Nodup) step (tblKeys s.vis) hkeys s rfl (fun v hv => by
    obtain ⟨p, hp, rfl⟩ := List.mem_map.1 hv
    have hw : s.vi p.1 = p.2 := congrArg (fun o => o.getD {}) (tblFind_of_mem hkeys hp)
    rw [hw]
    exact hqueues p hp)
  exact ⟨hsame, fun v hv => (hvis v).2 hv⟩

theorem queueCoreRestart : Spec.QueueCoreRestart := by
  intro s qc c hc core
  have hget : tblGet s.mgmt.queueCores {} qc = c := by
    unfold tblGet
    rw [hc]
    rfl
  have hbeat : exec (.heartbeatTimeout qc) s = .next (s.heartbeatTimeout qc) := rfl
  have hrepair : exec (.queueCoreRepair qc) s = .next (s.queueCoreRepair qc) := rfl
  have hmod : ∀ f, s.modQueueCore qc f = core (f c) := fun f => by
    unfold State.modQueueCore
    rw [hget]
  refine ⟨fun hq hd => ?stops, fun hq hd hr ht => ?restarts, fun hq hd h => ?waits, fun h => ?idle, fun hd hr hkeys hqueues => ?repairs⟩
  case stops =>
    rw [hbeat]
    unfold State.heartbeatTimeout
    rw [if_neg (by omega), hget, hmod]
    dsimp only
    rw [if_pos (by rw [hd]; rfl)]
  case restarts =>
    rw [hbeat]
    unfold State.heartbeatTimeout
    rw [if_neg (by omega), hget, hmod, hmod]
    dsimp only
    rw [if_neg (by rw [hd]; decide), if_pos (by simp [hr, ht])]
  case waits =>
    rw [hbeat]
    unfold State.heartbeatTimeout
    rw [if_neg (by omega), hget]
    dsimp only
    rw [if_neg (by rw [hd]; decide), if_neg]
    rintro h'
    obtain ⟨hnone, hlate⟩ : c.restartAt = none ∧ c.stoppedAt + 20000 ≤ s.time := by simpa using h'
    exact h.elim (fun h => h hnone) (fun h => by omega)
  case idle =>
    rw [hrepair]
    unfold State.queueCoreRepair
    rw [hc]
    exact congrArg _ (if_pos (by simpa using h))
  case repairs =>
    obtain ⟨hsame, hvis⟩ := repairs_vis s qc hkeys hqueues
    generalize ht : (tblKeys s.vis).foldl (fun s v => if (v - 1) % 6 = qc then s.repairVi v else s) s = t at hsame hvis
    have hmgmt : t.mgmt = s.mgmt := by rw [hsame.eq]
    have hrest : { t with vis := s.vis, mgmt := s.mgmt } = s := by rw [hsame.eq]
    refine ⟨t.modQueueCore qc (fun c => { c with down := false, restartAt := none, upAt := s.time }), ?_, ?_, hrest,
      fun v w q x hw hx => ?_⟩
    · rw [hrepair]
      unfold State.queueCoreRepair
      rw [hc]
      dsimp only
      rw [if_neg (by simp [hd, hr]), ht]
    · unfold State.modQueueCore
      rw [hmgmt, hget]
    · have hv : s.vi v = w := congrArg (fun o => o.getD {}) hw
      have hq : (s.vi v).queue q = x := by
        rw [hv]
        exact congrArg (fun o => o.getD {}) hx
      obtain ⟨hrest, hlisted⟩ := hvis v (List.mem_map_of_mem (mem_of_tblFind hw))
      refine ⟨hv ▸ hrest, ?_⟩
      rw [← hq]
      exact hlisted q (hv ▸ List.mem_map_of_mem (mem_of_tblFind hx))

/-! ### Watchdogs (R59, R60, R66) -/

theorem watchdogDue_eq (s : State) (vi q : Nat) : s.watchdogDue vi q = true ↔
    ((s.vi vi).queue q).wddead ≠ 0 ∧ ((s.vi vi).queue q).wddead.toNat < s.time := by
  unfold State.watchdogDue
  simp only [Bool.and_eq_true, decide_eq_true_eq]

theorem watchdogExpiry : Spec.WatchdogExpiry := by
  intro s vi q leaf hvi hq hleaf x due
  have hexec : exec (.queueWatchdogExpiry vi q) s = .next (s.watchdogExpiry vi q) := by
    change (.next (if viNumber vi && decide (q < 64) then s.watchdogExpiry vi q else s) : Out) = _
    obtain ⟨hlo, hhi⟩ := hvi
    rw [if_pos (by simp [viNumber, hq, hlo, hhi])]
  have hdue : (!s.watchdogDue vi q || !s.residentVi vi || s.policyDown) = true ↔ ¬ due := by
    have expired := watchdogDue_eq s vi q
    unfold State.policyDown
    simp only [Bool.or_eq_true, Bool.not_eq_true', decide_eq_true_eq, ← Bool.not_eq_true, expired, due]
    rw [← Nat.not_le (a := s.mgmt.policyBack)]
    tauto
  refine ⟨fun h => ?rests, fun h => ?expires⟩
  case rests =>
    rw [hexec]
    unfold State.watchdogExpiry
    rw [hleaf]
    dsimp only
    rw [if_pos (hdue.2 h)]
  case expires =>
    intro p s1 s2
    let u : State := s1.modPart leaf (fun p => { p with expired := p.expired ++ [vi * 64 + q] })
    have hexpired : s.watchdogExpiry vi q = if p.drain ≠ 0 then u else if p.modes.getLsbD 3 then
        (u.modPart leaf (fun p => { p with drain := 1 })).askAssist leaf 3 [vi, q]
        else u.beginDrain leaf (max x.wddead.toNat s.mgmt.policyBack) := by
      have hu : u.assisted leaf 3 = p.modes.getLsbD 3 := by
        unfold State.assisted
        rw [show u.part leaf = { p with expired := p.expired ++ [vi * 64 + q] } from (State.part_modPart s1 leaf leaf _).trans (if_pos rfl)]
      unfold State.watchdogExpiry
      rw [hleaf]
      dsimp only
      rw [if_neg (fun h' => hdue.1 h' h), ← hu]
      rfl
    rw [hexec, hexpired]
    refine ⟨fun hd => ?joins, fun hd hm => ?drains, fun hd hm => ⟨_, rfl, ?asks⟩⟩
    case joins =>
      rw [if_pos hd]
      rfl
    case drains =>
      rw [if_neg (not_not.2 hd), if_neg (by rw [hm]; decide)]
      unfold State.beginDrain
      rw [State.modPart_modPart]
      have first : ¬ 2 ≤ (s1.part leaf).drain := by rw [show (s1.part leaf).drain = 0 from hd]; decide
      exact congrArg (fun p => (.next { s1 with parts := tblSet s.parts leaf p } : Out)) (if_neg first)
    case asks =>
      rw [if_neg (not_not.2 hd), if_pos hm, State.modPart_modPart]
      exact State.askAssist_asked _ _ _ _

end Sys2Proof.FrontEnd
namespace Sys2Proof.Machine
open Sys2Proof

/-! ### Leaves that drain (R60) -/

/-- What becomes of a core when a leaf is freed. -/
theorem State.freeLeaf_core (s : State) (leaf : Nat) (roots : List Nat) {c : Nat} {x : Core} (h : tblFind s.cores c = some x) :
    ∃ y : Core, y.wbuf = x.wbuf ∧ (s.freeLeaf leaf roots).core c =
      if (s.part leaf).clusters.getLsbD (c / 4) then { y with sets := [], regions := [], wbuf := [] } else y := by
  let ls := s.family roots
  let gs := s.groupsOf ls
  let owned (p : Nat × Core) : Nat × Core := (p.1, { p.2 with regions := p.2.regions.filter (fun r => !s.ownerOf ls r.2.owner) })
  let claims (p : Nat × Core) : Nat × Core := (p.1, { p.2 with
    sets := p.2.sets.map (fun z => (z.1, { z.2 with claim := z.2.claim.bind (fun g => if gs.contains g then none else some g) })),
    regroup := p.2.regroup.filter (fun e => !gs.contains e.gid) })
  let own (k : Nat) : Bool := (s.part leaf).clusters.getLsbD (clusterOf k)
  have hcores : (s.freeLeaf leaf roots).cores = ((s.cores.map owned).map claims).map (fun p =>
      if own p.1 then (p.1, { p.2 with sets := [], regions := [], wbuf := [] }) else p) := by
    have hown : ∀ k, ((s.wipe ls).modPart leaf (fun p => { p with away := [] })).coreOf leaf k = own k := fun k => by
      unfold State.coreOf
      rw [State.part_modPart, if_pos rfl]
      rfl
    change List.map (fun (p : Nat × Core) => if ((s.wipe ls).modPart leaf (fun p => { p with away := [] })).coreOf leaf p.1 then _ else p) _ = _
    simp only [hown]
    rfl
  have hfind : tblFind (s.freeLeaf leaf roots).cores c = some (if own c then
      { (claims (c, (owned (c, x)).2)).2 with sets := [], regions := [], wbuf := [] } else (claims (c, (owned (c, x)).2)).2) := by
    rw [hcores, tblFind_map _ _ (fun p => by dsimp only; split <;> rfl), tblFind_map _ claims (fun _ => rfl),
      tblFind_map _ owned (fun _ => rfl), h]
    simp only [Option.map_some]
    split <;> rfl
  refine ⟨(claims (c, (owned (c, x)).2)).2, rfl, ?_⟩
  exact congrArg (fun o => o.getD {}) hfind

/-! What the end of a leaf leaves: its launches apart, what freeing it leaves. -/

section
variable (code : Launch → Nat) (s : State) (leaf : Nat)

theorem State.endLeaf_freed : (s.endLeaf code leaf).parts = (s.freeLeaf leaf (s.rootsOf leaf)).parts ∧
    (s.endLeaf code leaf).groups = (s.freeLeaf leaf (s.rootsOf leaf)).groups ∧
    (s.endLeaf code leaf).pieces = (s.freeLeaf leaf (s.rootsOf leaf)).pieces ∧
    (s.endLeaf code leaf).tlb = (s.freeLeaf leaf (s.rootsOf leaf)).tlb ∧
    (s.endLeaf code leaf).cores = (s.freeLeaf leaf (s.rootsOf leaf)).cores ∧
    (s.endLeaf code leaf).mem = (s.freeLeaf leaf (s.rootsOf leaf)).mem := by
  obtain ⟨vs, hvs, -⟩ := s.endLeaf_eq code leaf
  rw [hvs]
  exact ⟨rfl, rfl, rfl, rfl, rfl, rfl⟩

theorem State.endLeaf_part (k : Nat) : (s.endLeaf code leaf).part k = if k = leaf then { s.part leaf with away := [] } else s.part k := by
  obtain ⟨hparts, -⟩ := s.endLeaf_freed code leaf
  unfold State.part
  rw [hparts, State.freeLeaf_parts]
  exact tblGet_tblSet _ _ _ _ _

theorem State.endLeaf_core {c : Nat} (h : s.core c ≠ {}) : if (s.part leaf).clusters.getLsbD (c / 4) then
      ((s.endLeaf code leaf).core c).sets = [] ∧ ((s.endLeaf code leaf).core c).regions = [] ∧ ((s.endLeaf code leaf).core c).wbuf = []
    else ((s.endLeaf code leaf).core c).wbuf = (s.core c).wbuf := by
  obtain ⟨-, -, -, -, hcores, -⟩ := s.endLeaf_freed code leaf
  have hcore : (s.endLeaf code leaf).core c = (s.freeLeaf leaf (s.rootsOf leaf)).core c := congrArg (fun t => tblGet t ({} : Core) c) hcores
  cases hx : tblFind s.cores c with
  | none => exact absurd (congrArg (fun o => o.getD {}) hx) h
  | some x =>
    obtain ⟨y, hy, hfree⟩ := s.freeLeaf_core leaf (s.rootsOf leaf) hx
    have hsx : s.core c = x := congrArg (fun o => o.getD {}) hx
    rw [hcore, hfree, hsx]
    split
    · exact ⟨rfl, rfl, rfl⟩
    · exact hy

theorem State.endLeaf_queues (v : Nat) : ((s.endLeaf code leaf).vi v).ev = (s.vi v).ev ∧ ∀ q,
    (((s.endLeaf code leaf).vi v).queue q).halt = ((s.vi v).queue q).halt ∧
    (((s.endLeaf code leaf).vi v).queue q).qerr = ((s.vi v).queue q).qerr ∧
    (((s.endLeaf code leaf).vi v).queue q).held = ((s.vi v).queue q).held := by
  obtain ⟨vs, hvs, hsame⟩ := s.endLeaf_eq code leaf
  have hvi : (s.endLeaf code leaf).vi v = ({ s with vis := vs } : State).vi v := by
    unfold State.vi
    rw [hvs]
  rw [hvi]
  refine ⟨(hsame v).1, fun q => ?_⟩
  have hhalt := congrArg Queue.halt ((hsame v).2 q)
  have hqerr := congrArg Queue.qerr ((hsame v).2 q)
  have hheld := congrArg Queue.held ((hsame v).2 q)
  exact ⟨hhalt, hqerr, hheld⟩

end

end Sys2Proof.Machine

namespace Sys2Proof.FrontEnd
open Sys2Proof Sys2Proof.Machine

/-- The code with which a drain ends a launch (R60): its queue's watchdog has run out, or another's. -/
def drainCode (p : Part) (l : Launch) : Nat := if p.expired.contains (l.vi * 64 + l.queue) then 0x301 else 0x305

theorem leafDrain_ends {s : State} {leaf : Nat} (h : (s.part leaf).drain = 2) : exec (.leafDrain leaf) s =
    .next ((s.endLeaf (drainCode (s.part leaf)) leaf).modPart leaf (fun p => { p with drain := 3, aborted := s.rootsOf leaf })) := by
  change (.next (s.leafDrain leaf) : Out) = _
  unfold State.leafDrain
  dsimp only
  rw [if_pos h]
  rfl

theorem leafDrain_waits {s : State} {leaf : Nat} (h2 : (s.part leaf).drain ≠ 2)
    (h3 : (s.part leaf).drain = 3 → ∃ lid ∈ (s.part leaf).aborted, s.launch lid ≠ none) : exec (.leafDrain leaf) s = .next s := by
  change (.next (s.leafDrain leaf) : Out) = _
  unfold State.leafDrain
  dsimp only
  rw [if_neg h2, if_neg]
  intro h
  obtain ⟨hd, hall⟩ : (s.part leaf).drain = 3 ∧ ∀ x ∈ (s.part leaf).aborted, s.launch x = none := by simpa using h
  obtain ⟨lid, hlid, hsome⟩ := h3 hd
  exact hsome (hall lid hlid)

/-- The queues of an interface halted. -/
theorem haltQueues_changed (s : State) (v : Nat) (code : BitVec 32) :
    QueuesChanged s (s.haltQueues v code) v (List.range 64) (fun _ x => { x with halt := true, qerr := code }) :=
  State.foldl_modQueue (s0 := s) (g := fun _ _ x => { x with halt := true, qerr := code }) _ (fun _ _ _ => rfl) _ List.nodup_range s rfl

theorem leafDrain_halts {s : State} {leaf : Nat} (h : (s.part leaf).drain = 3)
    (hall : ∀ lid ∈ (s.part leaf).aborted, s.launch lid = none) : exec (.leafDrain leaf) s =
    .next (((s.part leaf).vis.foldl (fun s v => s.haltQueues v 0x205) s).modPart leaf
      (fun p => { p with drain := 0, aborted := [], expired := [], allow := none })) := by
  change (.next (s.leafDrain leaf) : Out) = _
  unfold State.leafDrain
  dsimp only
  rw [if_neg (by rw [h]; decide), if_pos (by simpa [h] using hall)]

theorem leafDrains : Spec.LeafDrains := by
  intro s leaf p roots
  have hroots : s.rootsOf leaf = roots := by
    unfold State.rootsOf
    simp [roots, bne, Bool.beq_eq_decide_eq]
  refine ⟨fun h => ?idle, fun hd hl hg => ?ends, fun hd h => ?waits, fun hd hall hn => ?halts⟩
  case idle =>
    have h2 : p.drain ≠ 2 := by omega
    have h3 : p.drain ≠ 3 := by omega
    exact leafDrain_waits h2 (fun e => absurd e h3)
  case waits =>
    have h2 : p.drain ≠ 2 := by omega
    exact leafDrain_waits h2 (fun _ => h)
  case ends =>
    have hfound : s.ChildrenFound := State.childrenFound_of_nodup hl
    have hcode : Steady (drainCode p) := fun _ _ _ => rfl
    have hlaunch := fun lid => State.endLeaf_launch (leaf := leaf) hfound hcode lid
    have hpart := s.endLeaf_part (drainCode p) leaf
    obtain ⟨-, hgroups, hpieces, htlb, -, hmem⟩ := s.endLeaf_freed (drainCode p) leaf
    have hcore := fun c (hc : s.core c ≠ {}) => s.endLeaf_core (drainCode p) leaf hc
    have hqueues := s.endLeaf_queues (drainCode p) leaf
    have hexec := leafDrain_ends hd
    change exec (.leafDrain leaf) s = .next ((s.endLeaf (drainCode p) leaf).modPart leaf _) at hexec
    rw [hroots] at hlaunch hgroups hpieces htlb hmem hexec
    generalize s.endLeaf (drainCode p) leaf = u at *
    refine ⟨u.modPart leaf (fun p => { p with drain := 3, aborted := roots }), hexec, ?part, fun k hk => ?parts,
      fun lid l hr hl => ?roots, fun lid => (hlaunch lid).2.1, fun lid l hl hno => ((hlaunch lid).2.2 hno).trans hl,
      fun x => ?groups, fun x => ?pieces, fun e => ?tlb, hcore, fun v => (hqueues v).2, fun v => (hqueues v).1,
      hmem.trans (s.freeLeaf_kept leaf roots).2.1⟩
    case part => rw [State.part_modPart, if_pos rfl, hpart, if_pos rfl]
    case parts => rw [State.part_modPart, if_neg hk, hpart, if_neg hk]
    case roots =>
      refine ⟨_, ((hlaunch lid).1 hr).trans (congrArg _ hl), rfl, rfl, ?_, rfl, rfl, rfl, rfl, rfl⟩
      rw [aborted_error]
      unfold drainCode
      simp only [List.contains_iff_mem]
      split
      · rfl
      · split <;> rfl
    case groups =>
      change x ∈ u.groups ↔ _
      rw [hgroups]
      exact State.freeLeaf_mem_groups hfound hg x
    case pieces =>
      change x ∈ u.pieces ↔ _
      rw [hpieces]
      exact State.freeLeaf_mem_pieces hfound x
    case tlb =>
      change e ∈ u.tlb ↔ _
      rw [htlb, State.freeLeaf_tlb, List.mem_filter, decide_eq_true_eq]
  case halts =>
    obtain ⟨hsame, hvis⟩ := State.foldl_vis (s0 := s) (h := fun s v => s.haltQueues v 0x205) (P := fun _ => True)
      (R := fun _ w w' => ∀ q < 64, w'.queue q = { w.queue q with halt := true, qerr := 0x205 })
      (fun t v _ _ => by
        have h := haltQueues_changed t v 0x205
        exact ⟨h.rest, h.others, fun q hq => h.listed q (List.mem_range.2 hq)⟩) p.vis hn s rfl (fun _ _ => trivial)
    generalize ht : p.vis.foldl (fun s v => s.haltQueues v 0x205) s = t at hsame hvis
    have hparts : ∀ k, t.part k = s.part k := fun k => by rw [hsame.eq]; rfl
    refine ⟨t.modPart leaf (fun p => { p with drain := 0, aborted := [], expired := [], allow := none }),
      (leafDrain_halts hd hall).trans (by rw [ht]), ?_, fun k hk => ?_, fun v q hv hq => (hvis v).2 hv q hq,
      fun v hv => (hvis v).1 hv, ?_⟩
    · rw [State.part_modPart, if_pos rfl, hparts]
    · rw [State.part_modPart, if_neg hk, hparts]
    · have e : { t with vis := s.vis, parts := s.parts } = s := by rw [hsame.eq]
      exact e

end Sys2Proof.FrontEnd
namespace Sys2Proof.Machine
open Sys2Proof

/-! ### Packets that wait for a fabric budget (R62) -/

/-- `t`'s partitions are those of `s` but for what counts against their budgets. -/
def State.SameButUse (s t : State) : Prop := ∀ k, { t.part k with used := [] } = { s.part k with used := [] }

theorem State.SameButUse.trans {s t u : State} (h : s.SameButUse t) (h' : t.SameButUse u) : s.SameButUse u :=
  fun k => (h' k).trans (h k)

theorem State.spend_use (s : State) (leaf k n : Nat) : s.SameButUse (s.spend leaf k n) := by
  have once : ∀ (t : State) (l : Nat), t.SameButUse (t.modPart l (fun p => p.spend k n)) := fun t l j => by
    rw [State.part_modPart]
    split
    · rename_i hj
      rw [hj]
      rfl
    · rfl
  unfold State.spend
  dsimp only
  split
  · exact once s leaf
  · exact (once s leaf).trans (once _ _)

theorem State.emit_parts (s : State) (x : OutItem) : (s.emit x).parts = s.parts := by cases x <;> rfl
theorem State.emit_outwait (s : State) (x : OutItem) : (s.emit x).outwait = s.outwait := by cases x <;> rfl

theorem State.putOut_use (s : State) (leaf : Nat) (x : OutItem) : s.SameButUse (s.putOut leaf x) := by
  by_cases h : s.exhausted leaf 2 = true ∨ ∃ w ∈ s.outwait, w.1 = leaf
  · rw [State.putOut_of_waits h]
    exact fun _ => rfl
  · rw [State.putOut_of_leaves h]
    have emitted : s.SameButUse (s.emit x) := fun k => by
      unfold State.part
      rw [s.emit_parts]
    exact emitted.trans (State.spend_use _ _ _ _)

theorem State.SameButUse.limited {s t : State} (h : s.SameButUse t) (leaf k : Nat) : t.limited leaf k = s.limited leaf k := by
  have budgets : ∀ j, (t.part j).budgets = (s.part j).budgets := fun j => by have e := congrArg Part.budgets (h j); exact e
  unfold State.limited
  rw [budgets, budgets]

theorem State.exhausted_of_unlimited {s : State} {leaf k : Nat} (h : s.limited leaf k = false) : s.exhausted leaf k = false := by
  unfold State.limited at h
  unfold State.exhausted Part.exhausted
  obtain ⟨h1, h2⟩ := Bool.or_eq_false_iff.1 h
  dsimp only
  rw [h1, h2, Bool.false_and, Bool.false_and]
  rfl

/-- The packets of a list go out one after another, as far as the budgets allow. -/
def State.flush (s : State) (ws : List (Nat × OutItem)) : State := ws.foldl (fun t w => t.putOut w.1 w.2) s

theorem State.flushOut_eq (s : State) : s.flushOut = State.flush { s with outwait := [] } s.outwait := rfl

theorem State.flush_ports (s : State) (ws : List (Nat × OutItem)) : s.SameButPorts (s.flush ws) := by
  induction ws generalizing s with
  | nil => rfl
  | cons w ws ih => exact (s.putOut_ports w.1 w.2).trans (ih _)

theorem State.flush_use (s : State) (ws : List (Nat × OutItem)) : s.SameButUse (s.flush ws) := by
  induction ws generalizing s with
  | nil => exact fun _ => rfl
  | cons w ws ih => exact (s.putOut_use w.1 w.2).trans (ih _)

/-- Packets of leaf `k`. -/
def ofLeaf (k : Nat) (ws : List (Nat × OutItem)) : List (Nat × OutItem) := ws.filter (fun w => w.1 == k)

/-- What waits of a leaf is the last of its packets. -/
theorem State.putOut_suffix (s : State) (w : Nat × OutItem) (k : Nat) :
    ∃ gone, ofLeaf k s.outwait ++ ofLeaf k [w] = gone ++ ofLeaf k (s.putOut w.1 w.2).outwait := by
  by_cases h : s.exhausted w.1 2 = true ∨ ∃ v ∈ s.outwait, v.1 = w.1
  · rw [State.putOut_of_waits h]
    exact ⟨[], (List.filter_append _ _).symm⟩
  · have same : (s.putOut w.1 w.2).outwait = s.outwait := by
      obtain ⟨ps, e⟩ := (s.emit w.2).spend_eq w.1 2 w.2.bytes
      rw [State.putOut_of_leaves h, e]
      exact s.emit_outwait w.2
    rw [same]
    by_cases hk : w.1 = k
    · have none_waits : ofLeaf k s.outwait = [] := by
        refine List.filter_eq_nil_iff.2 (fun v hv e => h (.inr ⟨v, hv, ?_⟩))
        rw [hk]
        exact beq_iff_eq.1 e
      rw [none_waits]
      exact ⟨_, (List.append_nil _).symm⟩
    · have other : ofLeaf k [w] = [] := List.filter_eq_nil_iff.2 (fun v hv e => hk (by
        rw [← List.mem_singleton.1 hv]
        exact beq_iff_eq.1 e))
      rw [other, List.append_nil]
      exact ⟨[], rfl⟩

theorem State.flush_suffix (s : State) (ws : List (Nat × OutItem)) (k : Nat) :
    ∃ gone, ofLeaf k s.outwait ++ ofLeaf k ws = gone ++ ofLeaf k (s.flush ws).outwait := by
  induction ws generalizing s with
  | nil => exact ⟨[], List.append_nil _⟩
  | cons w ws ih =>
    obtain ⟨first, hfirst⟩ := s.putOut_suffix w k
    obtain ⟨later, hlater⟩ := ih (s.putOut w.1 w.2)
    refine ⟨first ++ later, ?_⟩
    have split : ofLeaf k (w :: ws) = ofLeaf k [w] ++ ofLeaf k ws := List.filter_append (l₁ := [w]) ws
    rw [split, ← List.append_assoc, hfirst, List.append_assoc, hlater, ← List.append_assoc]
    rfl

/-- Where no budget limits them, all packets leave. -/
theorem State.flush_unlimited (s : State) (ws : List (Nat × OutItem)) (hfree : ∀ w ∈ ws, s.limited w.1 2 = false)
    (hnone : s.outwait = []) : (s.flush ws).outwait = [] ∧
    (s.flush ws).outbox = s.outbox ++ ws.filterMap (fun w => match w.2 with
      | .packet p => some p
      | _ => none) ∧
    (s.flush ws).barOut = s.barOut ++ ws.filterMap (fun w => match w.2 with
      | .change p => some p
      | _ => none) ∧
    (s.flush ws).phaseOut = s.phaseOut ++ ws.filterMap (fun w => match w.2 with
      | .phase p => some p
      | _ => none) := by
  induction ws generalizing s with
  | nil => exact ⟨hnone, (List.append_nil _).symm, (List.append_nil _).symm, (List.append_nil _).symm⟩
  | cons w ws ih =>
    have hgo : ¬ (s.exhausted w.1 2 = true ∨ ∃ v ∈ s.outwait, v.1 = w.1) := by
      rw [State.exhausted_of_unlimited (hfree w List.mem_cons_self), hnone]
      simp
    obtain ⟨ps, hspend⟩ := (s.emit w.2).spend_eq w.1 2 w.2.bytes
    have hout : s.putOut w.1 w.2 = { s.emit w.2 with parts := ps } := (State.putOut_of_leaves hgo w.2).trans hspend
    have hfree' : ∀ v ∈ ws, (s.putOut w.1 w.2).limited v.1 2 = false := fun v hv => by
      rw [(s.putOut_use w.1 w.2).limited]
      exact hfree v (List.mem_cons_of_mem _ hv)
    have hnone' : (s.putOut w.1 w.2).outwait = [] := by
      rw [hout]
      exact (s.emit_outwait w.2).trans hnone
    obtain ⟨hwait, hbox, hbar, hphase⟩ := ih (s.putOut w.1 w.2) hfree' hnone'
    refine ⟨hwait, ?_, ?_, ?_⟩
    · change (State.flush (s.putOut w.1 w.2) ws).outbox = _
      rw [hbox, hout]
      obtain ⟨l, x⟩ := w
      cases x <;> simp [State.emit]
    · change (State.flush (s.putOut w.1 w.2) ws).barOut = _
      rw [hbar, hout]
      obtain ⟨l, x⟩ := w
      cases x <;> simp [State.emit]
    · change (State.flush (s.putOut w.1 w.2) ws).phaseOut = _
      rw [hphase, hout]
      obtain ⟨l, x⟩ := w
      cases x <;> simp [State.emit]

end Sys2Proof.Machine

namespace Sys2Proof.FrontEnd
open Sys2Proof Sys2Proof.Machine

theorem policyRestarts (s : State) {rs : List Nat}
    (hrs : rs = s.mgmt.restarts.filter (fun n => decide (s.time < n + 10000000000)) ++ [s.time]) :
    exec .policyCoreRestart s = .next { s with
      drawn := s.drawn + 1
      mgmt := { s.mgmt with
        restarts := rs
        policyBack := s.time + Config.policyAway s.drawn
        recovery := decide (3 ≤ rs.length) || s.mgmt.recovery
        ready := !decide (3 ≤ rs.length) && s.mgmt.ready } } := by
  change (.next s.policyRestart : Out) = _
  unfold State.policyRestart
  dsimp only
  rw [← hrs]
  by_cases h : 3 ≤ rs.length
  · rw [if_pos h, decide_eq_true h]
    rfl
  · rw [if_neg h, decide_eq_false h]
    rfl

/-- A partition whose counts start again. -/
def usesNone (p : Nat × Part) : Nat × Part := (p.1, { p.2 with used := [] })

/-- The state at the first instant of a period, the packets that waited apart. -/
def periodBegun (s : State) : State :=
  { s with parts := s.parts.map usesNone, mgmt := { s.mgmt with period := s.time / 100000 }, outwait := [] }

theorem periodBegun_part (s : State) (k : Nat) : (periodBegun s).part k = { s.part k with used := [] } := by
  unfold State.part tblGet periodBegun
  rw [tblFind_map _ usesNone (fun _ => rfl)]
  cases tblFind s.parts k <;> rfl

theorem policyCore : Spec.PolicyCore := by
  intro s
  refine ⟨fun rs hrs => policyRestarts s hrs, fun h => ?rests, fun hnew hback => ?begins⟩
  case rests =>
    change (.next s.periodStart : Out) = _
    unfold State.periodStart State.policyDown
    rw [if_pos (by simpa using h)]
  case begins =>
    let s1 := periodBegun s
    have hexec : exec .budgetPeriodStart s = .next (s1.flush s.outwait) := by
      change (.next s.periodStart : Out) = _
      unfold State.periodStart State.policyDown
      rw [if_neg (by simpa using ⟨hnew, hback⟩)]
      rfl
    have hports := s1.flush_ports s.outwait
    have hlimited : ∀ l, s1.limited l 2 = s.limited l 2 :=
      fun l => State.SameButUse.limited (s := s) (fun k => by rw [periodBegun_part]) l 2
    refine ⟨s1.flush s.outwait, hexec, ?mgmt, fun k => ?parts, ?rest, fun hnone => ?empty, fun k => ?suffix,
      fun hfree => s1.flush_unlimited s.outwait (fun w hw => (hlimited w.1).trans (hfree w hw)) rfl⟩
    case mgmt =>
      have e := congrArg State.mgmt hports
      exact e
    case parts =>
      rw [s1.flush_use s.outwait k, periodBegun_part]
    case rest =>
      exact congrArg (fun x : State => { x with
        parts := s.parts, mgmt := s.mgmt, outbox := s.outbox, barOut := s.barOut, phaseOut := s.phaseOut, outwait := s.outwait }) hports
    case empty =>
      rw [hnone]
      exact ⟨rfl, rfl, rfl, rfl, fun k => by rw [show (s1.flush []).part k = _ from periodBegun_part s k]⟩
    case suffix => exact s1.flush_suffix s.outwait k

end Sys2Proof.FrontEnd
namespace Sys2Proof.Machine
open Sys2Proof

/-! ### Replies to assist requests (R66, R392) -/

theorem State.modMigration_found {s : State} {leaf : Nat} {m : Migration} (h : tblFind s.migrations leaf = some m)
    (f : Migration → Migration) : s.modMigration leaf f = { s with migrations := tblSet s.migrations leaf (f m) } := by
  unfold State.modMigration tblMod
  rw [h]

theorem State.beginDrain_first {s : State} {leaf : Nat} (h : (s.part leaf).drain < 2) (t : Nat) : s.beginDrain leaf t =
    { s with parts := tblSet s.parts leaf { s.part leaf with drain := 2, drainBy := t + 1000000 } } := by
  unfold State.beginDrain State.modPart
  dsimp only
  rw [if_neg (by omega)]

theorem State.countErr_late (s : State) (leaf : Nat) :
    s.countErr leaf 5 = { s with parts := tblSet s.parts leaf (Spec.lateCounted (s.part leaf)) } := by
  have count : ∀ n : BitVec 64, (if n.toNat + 1 < 2 ^ 64 then n + 1 else n) = if n = BitVec.allOnes 64 then n else n + 1 := fun n => by
    have top : n = BitVec.allOnes 64 ↔ ¬ n.toNat + 1 < 2 ^ 64 := by
      rw [← BitVec.toNat_inj, BitVec.toNat_allOnes]
      have := n.isLt
      omega
    rw [if_congr top rfl rfl, ite_not]
  unfold State.countErr State.modPart Spec.lateCounted
  dsimp only
  rw [count]

/-- Watchdogs that start again change interfaces only. -/
theorem State.resumeLeaf_eq (s : State) (leaf : Nat) : ∃ vs, s.resumeLeaf leaf =
    { s with parts := tblSet s.parts leaf { s.part leaf with drain := 0, expired := [] }, vis := vs } := by
  have dogs : ∀ (es : List Nat) (t : State), ∃ vs, es.foldl (fun s e => s.startWatchdog (e / 64) (e % 64)) t = { t with vis := vs } := by
    intro es
    induction es with
    | nil => exact fun t => ⟨t.vis, rfl⟩
    | cons e es ih =>
      intro t
      obtain ⟨vs, hvs⟩ := t.startWatchdog_eq (e / 64) (e % 64)
      obtain ⟨ws, hws⟩ := ih (t.startWatchdog (e / 64) (e % 64))
      refine ⟨ws, ?_⟩
      rw [List.foldl_cons, hws, hvs]
  obtain ⟨vs, hvs⟩ := dogs (s.part leaf).expired (s.modPart leaf (fun p => { p with drain := 0, expired := [] }))
  exact ⟨vs, hvs⟩

/-- The cuts of a launch when the first cut of a level has been answered (R68). -/
def Launch.cutTaken (k : Nat) (r : CutReply) (l : Launch) : Grader :=
  match r with
  | .cut c => if l.cutFits k c then
      { l.grader with cuts := l.grader.cuts.set (k - 1) c, sources := l.grader.sources.set (k - 1) true } else l.grader
  | _ => l.grader

theorem Launch.cutTaken_fits {k : Nat} {c : Cut} {l : Launch} (h : l.cutFits k c = true) : l.cutTaken k (.cut c) =
    { l.grader with cuts := l.grader.cuts.set (k - 1) c, sources := l.grader.sources.set (k - 1) true } := if_pos h

theorem Launch.cutTaken_kept {k : Nat} {r : CutReply} {l : Launch} (h : ∀ c, r = .cut c → l.cutFits k c = false) :
    l.cutTaken k r = l.grader := by
  cases r with
  | cut c => exact if_neg (by rw [h c rfl]; decide)
  | same => rfl
  | none => rfl

theorem Launch.cutTaken_awaited (k : Nat) (r : CutReply) (l : Launch) : (l.cutTaken k r).awaited = l.grader.awaited := by
  cases r with
  | cut c => unfold Launch.cutTaken; dsimp only; split <;> rfl
  | same => rfl
  | none => rfl

/-- The launch then; its record is begun with the last answer (R34). -/
def Launch.replied (k : Nat) (r : CutReply) (l : Launch) : Launch :=
  let g := { l.cutTaken k r with awaited := (l.cutTaken k r).awaited.filter (fun j => j ≠ k) }
  { l with grader := if g.awaited.isEmpty && g.logging then { g with log := l.firstLog g } else g }

theorem Launch.replied_grader (k : Nat) (r : CutReply) (l : Launch) :
    (l.replied k r).grader.awaited = l.grader.awaited.filter (fun j => j ≠ k) ∧
    (l.replied k r).grader.cuts = (l.cutTaken k r).cuts ∧ (l.replied k r).grader.sources = (l.cutTaken k r).sources := by
  unfold Launch.replied
  rw [l.cutTaken_awaited]
  dsimp only
  split <;> exact ⟨rfl, rfl, rfl⟩

/-- A reply about a cut that its level awaits first; one outside the bounds counts as a timeout. -/
theorem State.replyCut_first {s : State} {lid k : Nat} {l : Launch} (hl : s.launch lid = some l) (hk : k ∈ l.grader.awaited)
    (r : CutReply) : (s.replyCut lid k r).launch lid = some (l.replied k r) ∧
      ((∀ c, r = .cut c → l.cutFits k c = true) → (s.replyCut lid k r).parts = s.parts) ∧
      (∀ c, r = .cut c → l.cutFits k c = false → (s.replyCut lid k r).parts = (s.countErr l.leaf 5).parts) := by
  let late : Bool := match r with
    | .cut c => !l.cutFits k c
    | _ => false
  have hreply : s.replyCut lid k r = (if late then s.countErr l.leaf 5 else s).modLaunch lid (Launch.replied k r) := by
    have hc : l.grader.awaited.contains k = true := by simpa using hk
    unfold State.replyCut
    rw [hl]
    dsimp only
    rw [if_pos hc]
    unfold State.replyFirst
    rw [hl]
    dsimp only
    rw [if_neg (by rw [hc]; decide)]
    rfl
  have hfound : (if late then s.countErr l.leaf 5 else s).launch lid = some l := by split <;> exact hl
  rw [hreply]
  refine ⟨?_, fun hin => ?_, fun c hc hout => ?_⟩
  · have look := tblFind_tblMod (if late then s.countErr l.leaf 5 else s).launches lid lid (Launch.replied k r)
    rw [if_pos rfl, show tblFind (if late then s.countErr l.leaf 5 else s).launches lid = some l from hfound] at look
    exact look
  · have hlate : late = false := by
      cases r with
      | cut c => exact congrArg (!·) (hin c rfl)
      | same => rfl
      | none => rfl
    rw [hlate]
    rfl
  · have hlate : late = true := by
      subst hc
      exact congrArg (!·) hout
    rw [hlate]
    rfl

end Sys2Proof.Machine

namespace Sys2Proof.FrontEnd
open Sys2Proof Sys2Proof.Machine

/-- The request that a reply or a timeout is about. -/
theorem find_asked {asks xs ys : List Assist} {a : Assist} (hsplit : asks = xs ++ a :: ys) {p : Assist → Bool} (ha : p a = true)
    (hothers : ∀ b ∈ xs ++ ys, p b = false) : asks.find? p = some a ∧ asks.erase a = xs ++ ys := by
  have before : a ∉ xs := fun h => by
    have := hothers a (List.mem_append_left _ h)
    rw [ha] at this
    exact Bool.noConfusion this
  refine ⟨List.find?_eq_some_iff_append.2 ⟨ha, xs, ys, hsplit, fun b hb => ?_⟩, ?_⟩
  · rw [hothers b (List.mem_append_left _ hb)]
    rfl
  · rw [hsplit, List.erase_append_right _ before, List.erase_cons_head]

section
variable (s : State) (val : BitVec 64)

/-- What a write to ARTAG leaves where it answers nothing. -/
def tagWritten : State := { s with mgmt := { s.mgmt with artag := val &&& 0xFFFFFFFFF } }

theorem assistReply_eq : exec (.assistReply val) s = .next (
    match s.mgmt.asks.find? (fun a => a.tag = val.setWidth 32) with
    | none => tagWritten s val
    | some a =>
      if !actListed a.fn (val.extractLsb' 32 4).toNat then tagWritten s val
      else State.applyReply { s with mgmt := { s.mgmt with artag := val &&& 0xFFFFFFFFF, asks := s.mgmt.asks.erase a } } a
        (val.extractLsb' 32 4).toNat s.mgmt.ardata) := by
  have hact : val.toNat / 2 ^ 32 % 16 = (val.extractLsb' 32 4).toNat := by
    rw [BitVec.extractLsb'_toNat, Nat.shiftRight_eq_div_pow]
  have htag : BitVec.ofNat 32 val.toNat = val.setWidth 32 := rfl
  change (.next (s.assistReply val) : Out) = _
  unfold State.assistReply
  dsimp only
  rw [hact, htag] <;> rfl

end

/-- A reply that its function does not list, or to no request, does nothing. -/
theorem assistReply_ignored {s : State} {val : BitVec 64}
    (h : ∀ a ∈ s.mgmt.asks, a.tag = val.setWidth 32 → actListed a.fn (val.extractLsb' 32 4).toNat = false) :
    exec (.assistReply val) s = .next (tagWritten s val) := by
  rw [assistReply_eq]
  split
  · rfl
  · rename_i a ha
    have hmem := List.mem_of_find?_eq_some ha
    have htag : a.tag = val.setWidth 32 := by simpa using List.find?_some ha
    rw [h a hmem htag]
    rfl

theorem assistReply_found {s : State} {val : BitVec 64} {a : Assist} {xs ys : List Assist} (hsplit : s.mgmt.asks = xs ++ a :: ys)
    (htag : a.tag = val.setWidth 32) (hothers : ∀ b ∈ xs ++ ys, b.tag ≠ a.tag)
    (hact : actListed a.fn (val.extractLsb' 32 4).toNat = true) : exec (.assistReply val) s =
      .next (State.applyReply { s with mgmt := { s.mgmt with artag := val &&& 0xFFFFFFFFF, asks := xs ++ ys } } a
        (val.extractLsb' 32 4).toNat s.mgmt.ardata) := by
  obtain ⟨hfind, herase⟩ := find_asked hsplit (p := fun a => a.tag = val.setWidth 32) (by simpa using htag)
    (fun b hb => by simpa [htag] using hothers b hb)
  rw [assistReply_eq, hfind]
  dsimp only
  rw [hact, herase]
  rfl

theorem actListed_iff (fn act : Nat) : actListed fn act = false ↔ if fn = 0 then act ≠ 0 else if fn = 2 then act / 2 % 2 = 1 else 1 < act := by
  unfold actListed
  split
  · simp
  · split
    · simp
    · simp

/-- The queue that a scheduling reply admits. -/
theorem admitted_eq (s : State) (leaf : Nat) (data : BitVec 64) :
    (data.toNat / 2 ^ 16 % 2048 ∈ (s.part leaf).vis →
      ((s.vi (data.toNat / 2 ^ 16 % 2048)).queue (data.toNat % 64)).held ≠ none →
      s.admitted leaf data = data.toNat / 2 ^ 16 % 2048 * 64 + data.toNat % 64 + 1) ∧
    ((data.toNat / 2 ^ 16 % 2048 ∉ (s.part leaf).vis ∨
      ((s.vi (data.toNat / 2 ^ 16 % 2048)).queue (data.toNat % 64)).held = none) → s.admitted leaf data = 0) := by
  unfold State.admitted
  dsimp only
  refine ⟨fun hv hq => if_pos ?_, fun h => if_neg ?_⟩
  · simp only [Bool.and_eq_true, List.contains_iff_mem, Option.isSome_iff_ne_none]
    exact ⟨hv, hq⟩
  · simp only [Bool.and_eq_true, List.contains_iff_mem, Option.isSome_iff_ne_none]
    exact fun ⟨hv, hq⟩ => h.elim (fun h => h hv) (fun h => hq h)

theorem replyAnswers (s : State) (val : BitVec 64) (a : Assist) (xs ys : List Assist) (hsplit : s.mgmt.asks = xs ++ a :: ys)
    (htag : a.tag = val.setWidth 32) (hothers : ∀ b ∈ xs ++ ys, b.tag ≠ a.tag) (l k : Nat) (x : Launch) (hfn : a.fn = 2)
    (hact : (val.extractLsb' 32 4).toNat / 2 % 2 = 0) (hl : a.data.getD 0 0 = l) (hk : a.data.getD 1 0 = k + 1)
    (hx : s.launch l = some x) (hawait : (k + 1) ∈ x.grader.awaited) :
    ∃ t x', exec (.assistReply val) s = .next t ∧ t.launch l = some x' ∧
      x'.grader.awaited = x.grader.awaited.filter (fun j => j ≠ k + 1) ∧
      let act := (val.extractLsb' 32 4).toNat
      let c : Cut := { shape := (List.range 4).map (fun d => s.mgmt.ardata.toNat / 2 ^ (16 * d) % 65536), order := act / 4 }
      let kept := x'.grader.cuts = x.grader.cuts ∧ x'.grader.sources = x.grader.sources
      (act % 2 = 1 → kept ∧ t.parts = s.parts) ∧
      (act % 2 = 0 → x.cutFits (k + 1) c = true → x'.grader.cuts = x.grader.cuts.set k c ∧
        x'.grader.sources = x.grader.sources.set k true ∧ t.parts = s.parts) ∧
      (act % 2 = 0 → x.cutFits (k + 1) c = false → kept ∧ t.part x.leaf = Spec.lateCounted (s.part x.leaf)) := by
  let act := (val.extractLsb' 32 4).toNat
  let c : Cut := { shape := (List.range 4).map (fun d => s.mgmt.ardata.toNat / 2 ^ (16 * d) % 65536), order := act / 4 }
  let s2 : State := { s with mgmt := { s.mgmt with artag := val &&& 0xFFFFFFFFF, asks := xs ++ ys } }
  let r := replyOf act s.mgmt.ardata
  have hlist : actListed a.fn act = true := by
    rw [hfn]
    exact beq_iff_eq.2 hact
  have hexec : exec (.assistReply val) s = .next (s2.replyCut l (k + 1) r) := by
    rw [assistReply_found hsplit htag hothers hlist]
    unfold State.applyReply
    rw [hfn, hl, hk]
    rfl
  obtain ⟨hfound, hin, hout⟩ := State.replyCut_first (s := s2) hx hawait r
  obtain ⟨hawaited, hcuts, hsources⟩ := x.replied_grader (k + 1) r
  refine ⟨_, _, hexec, hfound, hawaited, fun hodd => ?same, fun heven hfits => ?fits, fun heven hno => ?no⟩
  case same =>
    have hr : r = .same := if_pos hodd
    have hkept := Launch.cutTaken_kept (k := k + 1) (r := r) (l := x) (fun c hc => by rw [hr] at hc; cases hc)
    rw [hcuts, hsources, hkept]
    exact ⟨⟨rfl, rfl⟩, hin (fun c hc => by rw [hr] at hc; cases hc)⟩
  case fits =>
    have hr : r = .cut c := if_neg (by omega)
    rw [hcuts, hsources, hr, Launch.cutTaken_fits hfits]
    exact ⟨rfl, rfl, hr ▸ hin (fun c' hc' => by rw [hr] at hc'; cases hc'; exact hfits)⟩
  case no =>
    have hr : r = .cut c := if_neg (by omega)
    have hkept := Launch.cutTaken_kept (k := k + 1) (r := r) (l := x) (fun c' hc' => by rw [hr] at hc'; cases hc'; exact hno)
    rw [hcuts, hsources, hkept]
    refine ⟨⟨rfl, rfl⟩, ?_⟩
    unfold State.part
    rw [hout c hr hno, State.countErr_late]
    exact (tblGet_tblSet _ _ _ _ _).trans (if_pos rfl)

/-- A request whose timeout is over is taken off the list and counted, and what the hardware does instead is done (R66). -/
theorem assistTimeout_eq {s : State} {tag : BitVec 32} {a : Assist} {xs ys : List Assist} (hsplit : s.mgmt.asks = xs ++ a :: ys)
    (htag : a.tag = tag) (hothers : ∀ b ∈ xs ++ ys, b.tag ≠ tag) : exec (.assistTimeout tag.toNat) s = .next (
      if s.time < a.posted + (s.part a.leaf).assistMs * 1000000 then s
      else State.replyNone { s with
        mgmt := { s.mgmt with asks := xs ++ ys }
        parts := tblSet s.parts a.leaf (Spec.lateCounted (s.part a.leaf)) } a) := by
  obtain ⟨hfind, herase⟩ := find_asked hsplit (p := fun a => a.tag.toNat = tag.toNat) (by simp [htag])
    (fun b hb => by simpa [BitVec.toNat_inj] using hothers b hb)
  change (.next (s.assistTimeout tag.toNat) : Out) = _
  unfold State.assistTimeout
  rw [hfind]
  dsimp only
  rw [herase, State.countErr_late]
  rfl

/-- A first cut whose request has timed out is as the device has it. -/
theorem cutTimeout {s : State} {l k : Nat} {x : Launch} (hx : s.launch l = some x) (hawait : k ∈ x.grader.awaited) :
    ∃ x', (s.replyCut l k .none).launch l = some x' ∧ (s.replyCut l k .none).parts = s.parts ∧
      x'.grader.awaited = x.grader.awaited.filter (fun j => j ≠ k) ∧ x'.grader.cuts = x.grader.cuts ∧
      x'.grader.sources = x.grader.sources := by
  obtain ⟨hfound, hin, -⟩ := State.replyCut_first hx hawait .none
  obtain ⟨hawaited, hcuts, hsources⟩ := x.replied_grader k .none
  exact ⟨_, hfound, hin (fun c hc => by cases hc), hawaited, hcuts, hsources⟩

theorem assistReplies : Spec.AssistReplies := by
  refine ⟨fun s val => ?replies, fun s tag a xs ys hsplit htag hothers => ?timeouts⟩
  case replies =>
    intro s1 act
    refine ⟨fun h => assistReply_ignored (fun a ha htag => absurd htag (h a ha)),
      fun h => assistReply_ignored (fun a ha htag => (actListed_iff _ _).2 (h a ha htag)), fun a xs ys hsplit htag hothers => ?_⟩
    intro s2 p
    have hexec : actListed a.fn act = true → exec (.assistReply val) s = .next (s2.applyReply a act s.mgmt.ardata) :=
      assistReply_found hsplit htag hothers
    refine ⟨fun hf ha => ?fn0, fun hf ha => ?fn1, fun hf ha hd => ?fn3, fun hf ha => ?fn3go, fun m hf ha hm => ?fn4,
      fun hf ha => ?fn4no, fun hf ha => ?fn5, fun hf ha hd => ?fn5drain, fun l k x hf ha hl hk hx hawait _ =>
        replyAnswers s val a xs ys hsplit htag hothers l k x hf ha hl hk hx hawait⟩
    case fn0 =>
      refine ⟨s2.admitted a.leaf s.mgmt.ardata, ?_, admitted_eq s2 a.leaf s.mgmt.ardata⟩
      rw [hexec (by rw [hf, ha]; rfl)]
      unfold State.applyReply
      rw [hf]
      rfl
    case fn1 =>
      rw [hexec (by rw [hf]; exact decide_eq_true ha)]
      unfold State.applyReply
      rw [hf]
      rfl
    case fn3 =>
      rw [hexec (by rw [hf, ha]; rfl)]
      unfold State.applyReply
      rw [hf, ha]
      exact congrArg _ (State.beginDrain_first (s := s2) hd _)
    case fn3go =>
      obtain ⟨vs, hvs⟩ := s2.resumeLeaf_eq a.leaf
      refine ⟨s2.resumeLeaf a.leaf, ?_, ?_⟩
      · rw [hexec (by rw [hf, ha]; rfl)]
        unfold State.applyReply
        rw [hf, ha]
        rfl
      · rw [hvs]
        exact ⟨(tblGet_tblSet _ _ _ _ _).trans (if_pos rfl), rfl, rfl, rfl⟩
    case fn4 =>
      rw [hexec (by rw [hf, ha]; rfl)]
      unfold State.applyReply
      rw [hf, ha]
      exact congrArg _ (State.modMigration_found (s := s2) hm _)
    case fn4no =>
      rw [hexec (by rw [hf, ha]; rfl)]
      unfold State.applyReply
      rw [hf, ha]
      rfl
    case fn5 =>
      rw [hexec (by rw [hf, ha]; rfl)]
      unfold State.applyReply
      rw [hf, ha]
      rfl
    case fn5drain =>
      rw [hexec (by rw [hf, ha]; rfl)]
      unfold State.applyReply
      rw [hf, ha]
      exact congrArg _ (State.beginDrain_first (s := s2) hd _)
  case timeouts =>
    have hexec := assistTimeout_eq hsplit htag hothers
    refine ⟨fun hearly => ?early, fun hlate => ?late⟩
    case early => rw [hexec, if_pos hearly]
    case late =>
      intro p s1
      have hlate : exec (.assistTimeout tag.toNat) s = .next (s1.replyNone a) := by
        rw [hexec, if_neg (by omega)]
      have hp : s1.part a.leaf = p := (tblGet_tblSet _ _ _ _ _).trans (if_pos rfl)
      have twice : ∀ q : Part, tblSet s1.parts a.leaf q = tblSet s.parts a.leaf q := fun q => tblSet_tblSet _ _ _ _
      rw [hlate]
      unfold State.replyNone
      refine ⟨fun hf => ?_, fun hf hpage => ?_, fun l k x hf hl hk hx hawait => ?_, fun hf hd => ?_, fun m hf hm => ?_, fun hf => ?_⟩
      · rw [hf, if_pos rfl]
        unfold State.modPart
        rw [twice, hp]
      · rw [hf]
        refine ⟨_, ?_, s1.askAssist_asked a.leaf 1 a.data⟩
        exact congrArg _ (if_pos hpage)
      · obtain ⟨x', hfound, hparts, hrest⟩ := cutTimeout (s := s1) hx hawait
        refine ⟨s1.replyCut l k .none, x', ?_, hfound, hparts, hrest⟩
        rw [hf, hl, hk]
        rfl
      · rw [hf]
        have first := State.beginDrain_first (s := s1) (leaf := a.leaf) (by rw [hp]; exact hd) s.time
        rw [twice, hp] at first
        exact congrArg _ first
      · rw [hf]
        exact congrArg _ (State.modMigration_found (s := s1) hm _)
      · rw [hf]
        rfl

theorem needOf_eq (acc : BitVec 8) : needOf acc = { r := acc.getLsbD 0, w := acc.getLsbD 1, x := acc.getLsbD 2 } := by
  unfold needOf
  rw [bitAt_toNat, bitAt_toNat, bitAt_toNat]

theorem pageService : Spec.PageService := by
  intro s rid r hr
  have hexec : exec (.stage2PageService rid) s = .next (
      if r.stage ≠ 2 then s
      else if s.assisted r.leaf 1 then
        if s.mgmt.asks.any (fun a => a.leaf == r.leaf && a.fn == 1 && a.data.getD 0 0 == rid) then s
        else s.askAssist r.leaf 1 [rid, r.page * 4096, r.acc.toNat, r.vi]
      else match s.stage2 (frontX r.leaf r.vi) (needOf r.acc) (r.page * 4096) with
        | .ok _ => s.answerPage rid false
        | .error _ => s) := by
    change (.next (s.servePage rid) : Out) = _
    unfold State.servePage
    rw [hr] <;> rfl
  have hasked : s.mgmt.asks.any (fun a => a.leaf == r.leaf && a.fn == 1 && a.data.getD 0 0 == rid) = true ↔
      ∃ a ∈ s.mgmt.asks, a.leaf = r.leaf ∧ a.fn = 1 ∧ a.data.getD 0 0 = rid := by
    simp only [List.any_eq_true, Bool.and_eq_true, beq_iff_eq, and_assoc]
  rw [hexec, needOf_eq]
  refine ⟨fun h => by rw [if_pos h], fun h hm => ?hardware, fun h hm => ?host⟩
  case hardware =>
    rw [if_neg (not_not.2 h), if_neg (by unfold State.assisted; rw [hm]; decide)]
    refine ⟨fun e he => ?_, fun y hy => ?_⟩
    · rw [he]
    · rw [hy]
  case host =>
    rw [if_neg (not_not.2 h), if_pos (show s.assisted r.leaf 1 = true from hm)]
    refine ⟨fun ha => ?_, fun ha => ⟨_, ?_, s.askAssist_asked _ _ _⟩⟩
    · rw [if_pos (hasked.2 ha)]
    · rw [if_neg (fun h' => by
        obtain ⟨a, hmem, hsame⟩ := hasked.1 h'
        exact ha a hmem hsame)]

end Sys2Proof.FrontEnd
namespace Sys2Proof.Machine
open Sys2Proof

/-! ### Entries that can be released (R43 to R45) -/

theorem fieldAt_byte (r : List Byte) (n : Nat) : fieldAt r n 1 = (r.getD n 0).toNat := by
  unfold fieldAt
  by_cases hn : n < r.length
  · rw [List.drop_eq_getElem_cons hn, List.getD_eq_getElem _ _ hn]
    rfl
  · rw [List.drop_eq_nil_of_le (by omega), List.getD_eq_default _ _ (by omega)]
    rfl

theorem eventMask_bit (ns : List Byte) {n : Nat} (hn : n < 256) : (eventMask ns).getLsbD n = ns.any (fun b => b.toNat == n) := by
  have bit : ∀ (ns : List Byte) (m : BitVec 256), (ns.foldl (fun m n => m ||| BitVec.ofNat 256 (2 ^ n.toNat)) m).getLsbD n =
      (m.getLsbD n || ns.any (fun b => b.toNat == n)) := by
    intro ns
    induction ns with
    | nil => exact fun m => (Bool.or_false _).symm
    | cons b ns ih =>
      intro m
      have one : (BitVec.ofNat 256 (2 ^ b.toNat)).getLsbD n = (b.toNat == n) := by
        rw [BitVec.getLsbD_ofNat, Nat.testBit_two_pow, decide_eq_true hn, Bool.true_and]
        rfl
      rw [List.foldl_cons, ih, BitVec.getLsbD_or, one, List.any_cons, Bool.or_assoc]
  unfold eventMask
  rw [bit]
  simp

/-- A vector holds a mask. -/
theorem and_eq_mask {w : Nat} (x m : BitVec w) : x &&& m = m ↔ ∀ n, n < w → m.getLsbD n = true → x.getLsbD n = true := by
  constructor
  · intro h n _ hm
    rw [← h, BitVec.getLsbD_and, Bool.and_eq_true] at hm
    exact hm.1
  · intro h
    refine BitVec.eq_of_getLsbD_eq (fun n hn => ?_)
    rw [BitVec.getLsbD_and]
    cases hm : m.getLsbD n with
    | false => exact Bool.and_false _
    | true => rw [h n hn hm]; rfl

/-- The events that an entry waits for, by its own bytes. -/
theorem entryWait_any {e : List Byte} (hlen : e.length = 64) (hcount : (e.getD 2 0).toNat ≤ 8) (n : Nat) :
    (entryWait e).any (fun b => b.toNat == n) = Spec.names e 2 0x20 n := by
  have bytes : entryWait e = (List.range (e.getD 2 0).toNat).map (fun j => e.getD (0x20 + j) 0) := by
    unfold entryWait
    rw [fieldAt_byte]
    refine List.ext_getElem ?_ (fun j hj _ => ?_)
    · simp only [List.length_take, List.length_drop, List.length_map, List.length_range]
      omega
    · have hj' : j < (e.getD 2 0).toNat := (List.length_take ▸ hj).trans_le (Nat.min_le_left _ _)
      simp only [List.getElem_take, List.getElem_drop, List.getElem_map, List.getElem_range]
      exact (List.getD_eq_getElem _ _ (by omega)).symm
  rw [bytes, List.any_map]
  rfl

theorem State.hasTriggered_iff (s : State) (lid : Nat) : s.hasTriggered lid = true ↔ Spec.isTriggered s lid := by
  unfold State.hasTriggered Spec.isTriggered
  cases s.launch lid with
  | none => simp
  | some l =>
    have lane : ∀ x : Lane, s.laneTriggered x = true ↔
        x.absent = true ∨ x.triggered = true ∨ (x.exited = true ∧ ∀ w ∈ x.exitWrites, s.performed w 4 = true) := fun x => by
      unfold State.laneTriggered
      rw [Bool.or_eq_true, Bool.or_eq_true, Bool.and_eq_true, List.all_eq_true, or_assoc]
    simp only [Bool.and_eq_true, Bool.or_eq_true, List.all_eq_true, lane, allLanes, List.mem_range, decide_eq_true_eq,
      List.isEmpty_iff, Option.isSome_iff_ne_none, and_assoc, Option.some.injEq, forall_eq']
    refine and_congr_right (fun _ => and_congr_right (fun _ => and_congr_right (fun _ => forall₂_congr (fun p _ => ?_))))
    rw [or_assoc, ne_eq, ← imp_iff_not_or, ← Bool.not_eq_false, ← imp_iff_not_or]

theorem State.hasCompleted_iff (s : State) (lid : Nat) : s.hasCompleted lid = true ↔ Spec.isCompleted s lid := by
  unfold State.hasCompleted Spec.isCompleted
  cases s.launch lid with
  | none => simp
  | some l => simp

theorem State.predReached_iff (s : State) (p : Pred) (e : List Byte) : s.predReached p e = true ↔
    match p with
    | .launch lid => (e.getD 1 0).getLsbD 2 = true ∨ Spec.isCompleted s lid ∨ ((e.getD 1 0).getLsbD 1 = true ∧ Spec.isTriggered s lid)
    | _ => True := by
  unfold State.predReached
  cases p with
  | none => simp
  | plain => simp
  | launch lid =>
    have hconcur : entryConcur e = (e.getD 1 0).getLsbD 2 := by
      unfold entryConcur
      rw [fieldAt_byte, bitAt_toNat]
    have hearly : entryEarly e = (e.getD 1 0).getLsbD 1 := by
      unfold entryEarly
      rw [fieldAt_byte, bitAt_toNat]
    dsimp only
    rw [Bool.or_eq_true, Bool.or_eq_true, Bool.and_eq_true, s.hasCompleted_iff, s.hasTriggered_iff, hconcur, hearly, or_assoc]

theorem State.releasable_iff (s : State) (vi q : Nat) {e : List Byte} (hlen : e.length = 64) (hvalid : Spec.EntryValid e) :
    s.releasable vi ((s.vi vi).queue q) e = true ↔ Spec.Releasable s vi q e := by
  have hkind : entryKind e = 2 ↔ e.getD 0 0 = 2 := by
    unfold entryKind
    rw [fieldAt_byte]
    exact BitVec.toNat_inj (y := (2 : Byte))
  have events : (s.vi vi).ev &&& (if entryKind e = 2 then 0 else eventMask (entryWait e)) =
        (if entryKind e = 2 then 0 else eventMask (entryWait e)) ↔
      ∀ n, n < 256 → e.getD 0 0 ≠ 2 → Spec.names e 2 0x20 n = true → (s.vi vi).ev.getLsbD n = true := by
    by_cases h2 : entryKind e = 2
    · rw [if_pos h2]
      exact ⟨fun _ n _ hne => absurd (hkind.1 h2) hne, fun _ => BitVec.and_zero⟩
    · have hcount : (e.getD 2 0).toNat ≤ 8 := by
        rcases hvalid with h | ⟨-, -, -, -, -, -, h, -⟩
        · exact absurd (hkind.2 (BitVec.eq_of_toNat_eq h)) h2
        · exact h
      rw [if_neg h2, and_eq_mask]
      refine forall_congr' (fun n => forall_congr' (fun hn => ?_))
      rw [eventMask_bit _ hn, entryWait_any hlen hcount]
      exact ⟨fun h _ => h, fun h => h (fun e => h2 (hkind.2 e))⟩
  exact (Bool.and_eq_true_iff).trans (and_congr (s.predReached_iff _ _) (decide_eq_true_iff.trans events))

/-- The queues of an interface hold consumed entries (R44). -/
def State.Consumed (s : State) (v : Nat) : Prop :=
  (tblKeys (s.vi v).queues).Nodup ∧ ∀ p ∈ (s.vi v).queues, ∀ e, p.2.held = some e → e.length = 64 ∧ Spec.EntryValid e

theorem State.hasWork_iff {s : State} {v : Nat} (h : s.Consumed v) : s.hasWork v = true ↔ Spec.hasWork s v := by
  obtain ⟨hn, hheld⟩ := h
  have queue : ∀ p ∈ (s.vi v).queues, (p.2.on && !p.2.halt && (match p.2.held with
      | some e => s.releasable v p.2 e
      | none => decide (p.2.qhead ≠ p.2.qtail))) = true ↔
      p.2.qctl.getLsbD 8 = true ∧ p.2.halt = false ∧ match p.2.held with
        | some e => Spec.Releasable s v p.1 e
        | none => p.2.qhead ≠ p.2.qtail := by
    intro p hp
    have hon : p.2.on = p.2.qctl.getLsbD 8 := bitAt_toNat _ _
    have hq : (s.vi v).queue p.1 = p.2 := congrArg (fun o => o.getD {}) (tblFind_of_mem hn hp)
    rw [Bool.and_eq_true, Bool.and_eq_true, Bool.not_eq_true', hon, and_assoc]
    refine and_congr_right (fun _ => and_congr_right (fun _ => ?_))
    cases hx : p.2.held with
    | none => exact decide_eq_true_iff
    | some e =>
      obtain ⟨hlen, hvalid⟩ := hheld p hp e hx
      have released := s.releasable_iff v p.1 hlen hvalid
      rwa [hq] at released
  unfold State.hasWork Spec.hasWork
  rw [Bool.or_eq_true, List.any_eq_true, List.any_eq_true]
  refine or_congr ?_ ?_
  · simp
  · exact exists_congr (fun p => and_congr_right (queue p))

/-! ### Whose slice comes next (R65) -/

theorem foldl_min_of_le {w : Nat} {ns : List Nat} (h : ∀ x ∈ ns, w ≤ x) : ns.foldl min w = w := by
  induction ns with
  | nil => rfl
  | cons n ns ih =>
    rw [List.foldl_cons, min_eq_left (h n List.mem_cons_self), ih (fun x hx => h x (List.mem_cons_of_mem _ hx))]

theorem foldl_min_eq {w : Nat} {ns : List Nat} (hw : w ∈ ns) (h : ∀ x ∈ ns, w ≤ x) {m : Nat} (hm : w ≤ m) : ns.foldl min m = w := by
  induction ns generalizing m with
  | nil => cases hw
  | cons n ns ih =>
    have hn := h n List.mem_cons_self
    have htail : ∀ x ∈ ns, w ≤ x := fun x hx => h x (List.mem_cons_of_mem _ hx)
    rw [List.foldl_cons]
    rcases List.mem_cons.1 hw with rfl | hw
    · rw [min_eq_right hm, foldl_min_of_le htail]
    · exact ih hw htail (le_min hm hn)

/-- The least of some numbers. -/
def leastNumber (ns : List Nat) : Option Nat := if ns.isEmpty then none else some (ns.foldl min (ns.headD 0))

theorem leastNumber_eq {w : Nat} {ns : List Nat} (hw : w ∈ ns) (h : ∀ x ∈ ns, w ≤ x) : leastNumber ns = some w := by
  cases ns with
  | nil => cases hw
  | cons n ns => exact congrArg some (foldl_min_eq hw h (h n List.mem_cons_self))

theorem State.nextTenant_above {s : State} {vis : List Nat} {after w : Nat}
    (h : leastNumber ((vis.filter s.hasWork).filter (fun v => decide (after < v))) = some w) : s.nextTenant vis after = some w := by
  unfold State.nextTenant
  dsimp only
  split
  · rename_i v hv
    exact hv.symm.trans h
  · rename_i hv
    cases hv.symm.trans h

theorem State.nextTenant_round {s : State} {vis : List Nat} {after : Nat}
    (h : leastNumber ((vis.filter s.hasWork).filter (fun v => decide (after < v))) = none) :
    s.nextTenant vis after = leastNumber (vis.filter s.hasWork) := by
  unfold State.nextTenant
  dsimp only
  split
  · rename_i v hv
    cases hv.symm.trans h
  · rfl

theorem State.nextTenant_eq {s : State} {vis : List Nat} {last w : Nat} (hwork : ∀ v ∈ vis, (s.hasWork v = true ↔ Spec.hasWork s v))
    (h : Spec.nextSlice s vis last w) : s.nextTenant vis last = some w := by
  obtain ⟨hw, hww, hnext⟩ := h
  have mem_ok : ∀ x, x ∈ vis.filter s.hasWork ↔ x ∈ vis ∧ Spec.hasWork s x := fun x => by
    rw [List.mem_filter]
    exact and_congr_right (hwork x)
  have hok := (mem_ok w).2 ⟨hw, hww⟩
  by_cases hlast : last < w
  · refine State.nextTenant_above (leastNumber_eq (List.mem_filter.2 ⟨hok, decide_eq_true hlast⟩) (fun x hx => ?_))
    obtain ⟨hx, hl⟩ := List.mem_filter.1 hx
    obtain ⟨hv, hxw⟩ := (mem_ok x).1 hx
    have := hnext x hv hxw
    rw [if_pos hlast] at this
    exact this (of_decide_eq_true hl)
  · have round : ∀ x ∈ vis.filter s.hasWork, w ≤ x ∧ x ≤ last := fun x hx => by
      obtain ⟨hv, hxw⟩ := (mem_ok x).1 hx
      have := hnext x hv hxw
      rwa [if_neg hlast] at this
    have none_above : (vis.filter s.hasWork).filter (fun v => decide (last < v)) = [] := by
      refine List.filter_eq_nil_iff.2 (fun x hx e => ?_)
      have := (round x hx).2
      have := of_decide_eq_true e
      omega
    rw [State.nextTenant_round (by rw [none_above]; rfl)]
    exact leastNumber_eq hok (fun x hx => (round x hx).1)

/-! ### Watchdogs that stand still and run on (R59) -/

theorem State.freezeDogs_changed (s : State) (v : Nat) (hn : (tblKeys (s.vi v).queues).Nodup) :
    QueuesChanged s (s.freezeDogs v) v (tblKeys (s.vi v).queues) (fun _ => Spec.dogStopped s.time) := by
  have chained : s.freezeDogs v = (tblKeys (s.vi v).queues).foldl (fun s q => s.modQueue v q (fun x => x.stopDog s.time)) s := by
    unfold State.freezeDogs tblKeys
    rw [List.foldl_map]
  rw [chained]
  exact State.foldl_modQueue (s0 := s) (g := fun s _ x => x.stopDog s.time) _ (fun t ht q => by rw [ht.eq]; rfl) _ hn s rfl

theorem State.thawDogs_changed (s : State) (v : Nat) (hn : (tblKeys (s.vi v).queues).Nodup) :
    QueuesChanged s (s.thawDogs v) v (tblKeys (s.vi v).queues) (fun _ => Spec.dogStarted s.time) := by
  have chained : s.thawDogs v = (tblKeys (s.vi v).queues).foldl (fun s q => s.modQueue v q (fun x => x.startDog s.time)) s := by
    unfold State.thawDogs tblKeys
    rw [List.foldl_map]
  rw [chained]
  exact State.foldl_modQueue (s0 := s) (g := fun s _ x => x.startDog s.time) _ (fun t ht q => by rw [ht.eq]; rfl) _ hn s rfl

/-- A queue that is listed has been changed. -/
theorem QueuesChanged.found {s t : State} {v : Nat} {f : Nat → Queue → Queue}
    (h : QueuesChanged s t v (tblKeys (s.vi v).queues) f) {q : Nat} {x : Queue} (hx : tblFind (s.vi v).queues q = some x) :
    (t.vi v).queue q = f q x := by
  have hq : (s.vi v).queue q = x := congrArg (fun o => o.getD {}) hx
  rw [h.listed q (List.mem_map_of_mem (mem_of_tblFind hx)), hq]

theorem State.SameButVis.part {s t : State} (h : s.SameButVis t) (n : Nat) : t.part n = s.part n :=
  (congrArg (fun x : State => x.part n) h :)

/-! ### What a tenant left comes back (R356) -/

theorem tblFind_putBack_other {α : Type} (t u : Tbl α) {k : Nat} (hk : k ∉ tblKeys u) : tblFind (putBack t u) k = tblFind t k := by
  induction u generalizing t with
  | nil => rfl
  | cons p u ih =>
    have hp : k ≠ p.1 := fun e => hk (e ▸ List.mem_cons_self)
    exact (ih (tblSet t p.1 p.2) (fun h => hk (List.mem_cons_of_mem _ h))).trans ((tblFind_tblSet _ _ _ _).trans (if_neg hp))

theorem tblFind_putBack {α : Type} (t u : Tbl α) (hn : (tblKeys u).Nodup) {k : Nat} {x : α} (hx : tblFind u k = some x) :
    tblFind (putBack t u) k = some x := by
  induction u generalizing t with
  | nil => cases hx
  | cons p u ih =>
    obtain ⟨j, y⟩ := p
    obtain ⟨hnew, hn⟩ := List.nodup_cons.1 hn
    unfold tblFind at hx
    split at hx
    · rename_i hk
      subst hk
      exact (tblFind_putBack_other (tblSet t k y) u hnew).trans ((tblFind_tblSet _ _ _ _).trans ((if_pos rfl).trans hx))
    · exact ih (tblSet t j y) hn hx

theorem State.bringTenant_none {s : State} {leaf w : Nat} (h : tblFind (s.part leaf).away w = none) : s.bringTenant leaf w = s := by
  unfold State.bringTenant
  rw [h]

theorem State.bringTenant_some {s : State} {leaf w : Nat} {u : Tenancy} (h : tblFind (s.part leaf).away w = some u) :
    s.bringTenant leaf w = (s.bringStores u).modPart leaf (fun p => { p with away := tblErase p.away w }) := by
  unfold State.bringTenant
  rw [h]

theorem State.bringTenant_kept (s : State) (leaf w : Nat) : (s.bringTenant leaf w).vis = s.vis ∧
    (s.bringTenant leaf w).groups = s.groups ∧ (s.bringTenant leaf w).time = s.time := by
  unfold State.bringTenant
  split <;> exact ⟨rfl, rfl, rfl⟩

/-- A leaf takes turns where it has two interfaces or more and is not being drained or moved. -/
def State.TakesTurns (s : State) (leaf : Nat) : Prop := 2 ≤ (s.part leaf).vis.length ∧ s.leafStopped leaf = false

/-- No tenant of a leaf to choose. -/
theorem State.tenantSwitch_idle {s : State} {leaf : Nat} (h : (s.part leaf).vis.length ≤ 1 ∨ s.leafStopped leaf = true) :
    s.tenantSwitch leaf = s :=
  if_pos (by rwa [Bool.or_eq_true, decide_eq_true_iff])

section
variable {s : State} {leaf v : Nat} (h : s.TakesTurns leaf)
include h

theorem State.TakesTurns.running : ((decide ((s.part leaf).vis.length ≤ 1) || s.leafStopped leaf)) ≠ true := by
  obtain ⟨hvis, hrun⟩ := h
  rw [hrun, Bool.or_false, ne_eq, decide_eq_true_iff]
  omega

theorem State.tenantSwitch_chosen (ht : (s.part leaf).tenant = some v) : s.tenantSwitch leaf =
    if s.time < (s.part leaf).since + (s.part leaf).slice * 100000 ∨ ∀ w ∈ (s.part leaf).vis, w ≠ v → ¬ s.hasWork w = true then s
    else (s.freezeDogs v).modPart leaf (fun p => { p with tenant := none, leaving := some v }) := by
  unfold State.tenantSwitch
  rw [if_neg h.running, ht]
  refine if_congr ?_ rfl rfl
  simp only [Bool.or_eq_true, decide_eq_true_iff, Bool.not_eq_true', List.any_eq_false, Bool.and_eq_true, bne_iff_ne, not_and]

theorem State.tenantSwitch_leaving (ht : (s.part leaf).tenant = none) (hl : (s.part leaf).leaving = some v) {w : Nat}
    (hw : s.nextTenant (s.part leaf).vis v = some w) (hne : w ≠ v) (hq : s.leafQuiet leaf = true) :
    s.tenantSwitch leaf = (s.stowTenant leaf v).beginSlice leaf w := by
  unfold State.tenantSwitch
  rw [if_neg h.running, ht, hl]
  dsimp only
  rw [hq, if_neg (by decide), hw]
  exact if_neg hne

theorem State.tenantSwitch_busy (ht : (s.part leaf).tenant = none) (hl : (s.part leaf).leaving = some v)
    (hq : s.leafQuiet leaf = false) : s.tenantSwitch leaf = s := by
  unfold State.tenantSwitch
  rw [if_neg h.running, ht, hl]
  dsimp only
  rw [hq]
  exact if_pos rfl

theorem State.tenantSwitch_first (ht : (s.part leaf).tenant = none) (hl : (s.part leaf).leaving = none) {w : Nat}
    (hw : s.nextTenant (s.part leaf).vis 0 = some w) : s.tenantSwitch leaf = s.beginSlice leaf w := by
  unfold State.tenantSwitch
  rw [if_neg h.running, ht, hl]
  dsimp only
  rw [hw]

end

end Sys2Proof.Machine

namespace Sys2Proof.FrontEnd
open Sys2Proof Sys2Proof.Machine

/-! ### Tenants (R65, R356) -/

/-- What a slice begins with: what the tenant left is brought, and the partition and its watchdogs are changed. -/
structure SliceBegun (s : State) (leaf w : Nat) (t : State) : Prop where
  part : t.part leaf = { (s.bringTenant leaf w).part leaf with tenant := some w, since := s.time, leaving := none }
  dogs : ∀ q x, tblFind (s.vi w).queues q = some x → (t.vi w).queue q = Spec.dogStarted s.time x
  rest : { t with parts := s.parts, vis := s.vis } = { s.bringTenant leaf w with parts := s.parts }

theorem beginSlice_begun (s : State) (leaf w : Nat) (hn : (tblKeys (s.vi w).queues).Nodup) :
    SliceBegun s leaf w (s.beginSlice leaf w) := by
  obtain ⟨hvis, -, htime⟩ := s.bringTenant_kept leaf w
  let u := (s.bringTenant leaf w).modPart leaf (fun p => { p with tenant := some w, since := s.time, leaving := none })
  have hvi : u.vi w = s.vi w := congrArg (fun vs => tblGet vs ({} : VI) w) hvis
  have h : QueuesChanged u (s.beginSlice leaf w) w (tblKeys (u.vi w).queues) (fun _ => Spec.dogStarted u.time) :=
    u.thawDogs_changed w (hvi ▸ hn)
  have hrest := h.rest.eq
  refine ⟨?_, fun q x hx => ?_, ?_⟩
  · rw [h.rest.part]
    exact (State.part_modPart _ leaf leaf _).trans (if_pos rfl)
  · rw [← hvi] at hx
    rw [← htime]
    exact h.found hx
  · rw [hrest, ← hvis]
    rfl

/-- The slice of a tenant ends. -/
theorem sliceEnded (s : State) (leaf v : Nat) (hn : (tblKeys (s.vi v).queues).Nodup) :
    let t := (s.freezeDogs v).modPart leaf (fun p => { p with tenant := none, leaving := some v })
    t.part leaf = { s.part leaf with tenant := none, leaving := some v } ∧
    (∀ q x, tblFind (s.vi v).queues q = some x → (t.vi v).queue q = Spec.dogStopped s.time x) ∧
    { t with parts := s.parts, vis := s.vis } = s := by
  have h := s.freezeDogs_changed v hn
  have hpart := h.rest.part leaf
  refine ⟨?_, fun q x hx => h.found hx, ?_⟩
  · rw [← hpart]
    exact (State.part_modPart _ leaf leaf _).trans (if_pos rfl)
  · exact (congrArg (fun x : State => { x with parts := s.parts }) h.rest :)

/-- A tenant's stores are kept for it, and another begins with none of its own. -/
theorem sliceHanded (s : State) {leaf v w : Nat} (hne : w ≠ v) (haway : tblFind (s.part leaf).away w = none)
    (hn : (tblKeys (s.vi w).queues).Nodup) :
    let u := s.stowTenant leaf v
    let t := u.beginSlice leaf w
    t.part leaf = { s.part leaf with
      tenant := some w, since := s.time, leaving := none, away := tblSet (s.part leaf).away v (s.tenancy leaf) } ∧
    (∀ q x, tblFind (s.vi w).queues q = some x → (t.vi w).queue q = Spec.dogStarted s.time x) ∧
    { t with parts := s.parts, vis := s.vis } = { u with parts := s.parts } := by
  intro u t
  have hpart : u.part leaf = { s.part leaf with away := tblSet (s.part leaf).away v (s.tenancy leaf) } :=
    (State.part_modPart _ leaf leaf _).trans (if_pos rfl)
  have hnone : tblFind (u.part leaf).away w = none := by
    rw [hpart]
    exact (tblFind_tblSet _ _ _ _).trans ((if_neg hne).trans haway)
  have h := beginSlice_begun u leaf w hn
  obtain ⟨part, dogs, rest⟩ := h
  rw [State.bringTenant_none hnone] at part rest
  refine ⟨?_, dogs, ?_⟩
  · rw [part, hpart]
    rfl
  · exact (congrArg (fun x : State => { x with parts := s.parts }) rest :)

theorem tenantSwitches : Spec.TenantSwitches := by
  intro s leaf p
  have hexec : exec (.tenantSwitch leaf) s = .next (s.tenantSwitch leaf) := rfl
  rw [hexec]
  refine ⟨fun h => congrArg _ (State.tenantSwitch_idle h), fun hvis hrun hheld => ?_⟩
  have h : s.TakesTurns leaf := ⟨hvis, hrun⟩
  have hwork : ∀ v ∈ p.vis, (s.hasWork v = true ↔ Spec.hasWork s v) := fun v hv => State.hasWork_iff (hheld v hv)
  have others : ∀ v, (∀ w ∈ p.vis, w ≠ v → ¬ s.hasWork w = true) ↔ ∀ w ∈ p.vis, w ≠ v → ¬ Spec.hasWork s w := fun v =>
    forall₂_congr (fun w hw => imp_congr_right (fun _ => not_congr (hwork w hw)))
  refine ⟨fun v ht hstay => ?stays, fun v ht hover hother hn => ?ends, fun v ht hl hq => ?busy,
    fun v w ht hl hq hnext hne haway hn => ?handed, fun w ht hl hnext hn => ?first⟩
  case stays =>
    rw [State.tenantSwitch_chosen h ht, if_pos (hstay.imp_right (others v).2)]
  case ends =>
    obtain ⟨w, hw, hne, hww⟩ := hother
    have hgo : ¬ (s.time < p.since + p.slice * 100000 ∨ ∀ w ∈ p.vis, w ≠ v → ¬ s.hasWork w = true) := by
      rintro (hearly | hnone)
      · omega
      · exact (others v).1 hnone w hw hne hww
    exact ⟨_, congrArg _ ((State.tenantSwitch_chosen h ht).trans (if_neg hgo)), sliceEnded s leaf v hn⟩
  case busy => rw [State.tenantSwitch_busy h ht hl hq]
  case handed =>
    obtain ⟨part, dogs, rest⟩ := sliceHanded s hne haway hn
    refine ⟨_, s.tenancy leaf, congrArg _ (State.tenantSwitch_leaving h ht hl (State.nextTenant_eq hwork hnext) hne hq), part,
      ?_, ?_, ?_, ?_, ?_, ?_, ?_, ?_, dogs, ?_⟩
    · rfl
    · rfl
    · rfl
    · rfl
    · exact (congrArg State.tiles rest :).trans (List.filter_congr (fun x _ => decide_not))
    · exact (congrArg State.barriers rest :).trans (List.filter_congr (fun x _ => decide_not))
    · exact (congrArg State.runs rest :).trans (List.filter_congr (fun x _ => decide_not))
    · exact (congrArg State.cores rest :)
    · exact (congrArg State.groups rest :)
  case first =>
    obtain ⟨part, dogs, rest⟩ := beginSlice_begun s leaf w hn
    obtain ⟨-, groups, -⟩ := s.bringTenant_kept leaf w
    refine ⟨_, congrArg _ (State.tenantSwitch_first h ht hl (State.nextTenant_eq hwork hnext)), congrArg Part.tenant part,
      congrArg Part.since part, dogs, ?_, fun u hu htiles hcores => ⟨?_, ?_, ?_⟩, fun hnone => ?_⟩
    · exact (congrArg State.groups rest :).trans groups
    · rw [part, State.bringTenant_some hu]
      exact (congrArg (fun q : Part => tblFind q.away w) ((State.part_modPart _ leaf leaf _).trans (if_pos rfl))).trans
        ((tblFind_tblErase _ _ _).trans (if_pos rfl))
    · intro k x hx
      rw [congrArg State.tiles rest, State.bringTenant_some hu]
      exact tblFind_putBack _ _ htiles hx
    · intro c x hx
      have hc := congrArg (fun y : State => y.core c) rest
      rw [State.bringTenant_some hu] at hc
      exact hc.trans (congrArg (fun o => o.getD {}) (tblFind_putBack _ _ hcores hx))
    · rw [State.bringTenant_none hnone] at rest
      exact ⟨(congrArg State.tiles rest :), (congrArg State.cores rest :)⟩

/-- Settles O57, clause by clause: restarts of queue cores, watchdogs, drains, the policy core, tenants, answers of the host, and
pages of stage 2. -/
theorem firmwareWork : Obligations.FirmwareWork :=
  ⟨queueCoreRestart, watchdogExpiry, leafDrains, policyCore, tenantSwitches, assistReplies, pageService⟩

end Sys2Proof.FrontEnd
end

section
/-!
SUPPORT. Instruction words (R85 to R93): what reading a field of a word gives back, the words of every instruction, and sequences
of an instruction's own units.
-/

namespace Sys2Proof.InstructionWords
open Sys2Proof Sys2Proof.Machine

/-! ### Fields -/

@[simp] theorem ok_bind {α β : Type} (a : α) (f : α → Field β) : ((.ok a : Field α) >>= f) = f a := rfl
@[simp] theorem needLo_true : needLo true = .ok () := rfl
@[simp] theorem needHi_true : needHi true = .ok () := rfl

@[simp] theorem fZero_zero (n : Nat) : fZero 0#n = .ok () := by simp [fZero]
@[simp] theorem fV_eq (x : BitVec 7) : fV x = .ok x := rfl
@[simp] theorem fImm_eq (x : BitVec 8) : fImm x = .ok x := rfl

theorem toNat_e7 {n : Nat} (x : BitVec n) (h : n ≤ 7) : (e7 x).toNat = x.toNat :=
  Nat.mod_eq_of_lt (Nat.lt_of_lt_of_le x.isLt (Nat.pow_le_pow_right (by decide) h))

theorem toNat_e8 {n : Nat} (x : BitVec n) (h : n ≤ 8) : (e8 x).toNat = x.toNat :=
  Nat.mod_eq_of_lt (Nat.lt_of_lt_of_le x.isLt (Nat.pow_le_pow_right (by decide) h))

theorem toNat_eD (x : DReg) : (eD x).toNat = 2 * x.toNat := by
  have := x.isLt
  exact Nat.mod_eq_of_lt (by omega)

@[simp] theorem fD_eD (x : DReg) : fD (eD x) = .ok x := by simp [fD, toNat_eD]

@[simp] theorem fK_e7 (x : KReg) : fK (e7 x) = .ok x := by simp [fK, toNat_e7, x.isLt]
@[simp] theorem fP_e7 (x : PReg) : fP (e7 x) = .ok x := by simp [fP, toNat_e7, x.isLt]
@[simp] theorem fT_e7 (x : TReg) : fT (e7 x) = .ok x := by simp [fT, toNat_e7, x.isLt]
@[simp] theorem fW_e7 (x : WReg) : fW (e7 x) = .ok x := by simp [fW, toNat_e7, x.isLt]
@[simp] theorem fF_e7 (x : FReg) : fF (e7 x) = .ok x := by simp [fF, toNat_e7, x.isLt]
@[simp] theorem fSlot_e7 (x : BitVec 3) : fSlot (e7 x) = .ok x := by simp [fSlot, toNat_e7, x.isLt]
@[simp] theorem fKb_e7 {m : Nat} {x : KReg} (h : x.toNat ≤ m) : fKb m (e7 x) = .ok x := by simp [fKb, toNat_e7, h]
@[simp] theorem fX_even {w : Bool} {x : VReg} (h : evenIf w x = true) : fX w x = .ok x := by
  unfold evenIf at h
  simp [fX, h]

/-- B8 of a K register: B8[7] is 1 (R88). -/
theorem toNat_eBK (n : KReg) : (eBK n).toNat = 128 + n.toNat := by
  have := n.isLt
  exact Nat.mod_eq_of_lt (by omega)

theorem ofNat_k (n : KReg) : BitVec.ofNat 6 (128 + n.toNat) = n := by bv_omega

theorem eSrc_k (n : KReg) : eSrc (.k n) = eBK n := rfl
theorem eSrcD_k (n : KReg) : eSrcD (.k n) = eBK n := rfl

theorem fSrcX_eSrc {w : Bool} {b : Src} (h : srcEvenIf w b = true) : fSrcX w (eSrc b) = .ok b := by
  cases b with
  | v n =>
    have hn := n.isLt
    simp only [srcEvenIf, evenIf] at h
    simp [fSrcX, eSrc, Nat.mod_eq_of_lt (show n.toNat < 256 by omega), hn, h]
  | k n =>
    have hn := n.isLt
    simp [fSrcX, eSrc_k, toNat_eBK n, show 128 + n.toNat < 192 by omega, ofNat_k]

@[simp] theorem fSrc_eSrc (b : Src) : fSrc (eSrc b) = .ok b := fSrcX_eSrc (w := false) (by cases b <;> rfl)

@[simp] theorem fSrcX_false (b : Src) : fSrcX false (eSrc b) = .ok b := fSrcX_eSrc (by cases b <;> rfl)

@[simp] theorem fX_false (x : VReg) : fX false x = .ok x := rfl

@[simp] theorem fSrcD_eSrcD (b : SrcD) : fSrcD (eSrcD b) = .ok b := by
  cases b with
  | d n =>
    have hn := n.isLt
    simp [fSrcD, eSrcD, Nat.mod_eq_of_lt (show 2 * n.toNat < 256 by omega), show 2 * n.toNat < 128 by omega]
  | k n =>
    have hn := n.isLt
    simp [fSrcD, eSrcD_k, toNat_eBK n, show 128 + n.toNat < 192 by omega, ofNat_k]

@[simp] theorem fBK_eBK (n : KReg) : fBK (eBK n) = .ok n := by
  have hn := n.isLt
  simp [fBK, toNat_eBK, show 128 + n.toNat < 192 by omega, ofNat_k]

@[simp] theorem fBK2_eBK {n : KReg} (h : n.toNat % 2 = 0) : fBK2 (eBK n) = .ok n := by
  have hn := n.isLt
  simp [fBK2, toNat_eBK, show 128 + n.toNat < 192 by omega, show (128 + n.toNat) % 2 = 0 by omega, ofNat_k]

@[simp] theorem fBP_e8 (x : PReg) : fBP (e8 x) = .ok x := by simp [fBP, toNat_e8, x.isLt]

theorem fSmall_e8 {n : Nat} (x : BitVec n) (h : n ≤ 8) : fSmall n (e8 x) = .ok x := by simp [fSmall, toNat_e8 x h, x.isLt]

theorem fUpTo_e8 {n m : Nat} {x : BitVec n} (h : n ≤ 8) (hx : x.toNat ≤ m) : fUpTo n m (e8 x) = .ok x := by
  simp [fUpTo, toNat_e8 x h, hx]

@[simp] theorem fCtl_listed {x : Imm8} (h : ctlListed x = true) : fCtl x = .ok x := by simp [fCtl, h]
@[simp] theorem fSpecial_listed {x : Imm8} (h : specialListed x = true) : fSpecial x = .ok x := by simp [fSpecial, h]

@[simp] theorem fFn_eFn (b : FloatFn) : fFn (eFn b) = .ok b := by cases b <;> rfl
@[simp] theorem fFTarget_eFTarget (b : FTarget) : fFTarget (eFTarget b).toNat = .ok b := by cases b <;> rfl
@[simp] theorem fITarget_eITarget (b : ITarget) : fITarget (eITarget b) = .ok b := by cases b <;> rfl
@[simp] theorem fBTarget_eBTarget (b : BTarget) : fBTarget (eBTarget b) = .ok b := by cases b <;> rfl

/-- B8 of `cvt.f.f`: the target's tag code in [3:0], and the half that is read in [4] (R234). -/
theorem cvtFF_b8 (b : FTarget) (e1 : Bool) (y : BitVec 8) (hy : y = eFTarget b + (if e1 then 16 else 0)) :
    (y.toNat % 16 == 6) = decide (b = .f64) ∧ y.toNat < 32 ∧ fFTarget (y.toNat % 16) = .ok b ∧
      (y.toNat / 16 % 2 == 1) = e1 := by
  subst hy
  cases b <;> cases e1 <;> decide

/-- D of `fcmp`: the condition above the predicate (R227). -/
theorem toNat_fcmpD (cc : FCond) (d : PReg) :
    (BitVec.ofNat 7 (8 * eFCond cc + d.toNat)).toNat = 8 * eFCond cc + d.toNat := by
  have hd := d.isLt
  have hc : eFCond cc < 8 := by cases cc <;> decide
  exact Nat.mod_eq_of_lt (by omega)

@[simp] theorem fFCond_fcmpD (cc : FCond) (d : PReg) : fFCond (BitVec.ofNat 7 (8 * eFCond cc + d.toNat)) = .ok cc := by
  have hd := d.isLt
  unfold fFCond
  rw [toNat_fcmpD, show (8 * eFCond cc + d.toNat) / 8 = eFCond cc by omega]
  cases cc <;> rfl

@[simp] theorem preg_fcmpD (cc : FCond) (d : PReg) : BitVec.ofNat 3 ((8 * eFCond cc + d.toNat) % 128) = d := by
  bv_omega

@[simp] theorem setWidth_e7 (c : PReg) : (e7 c).setWidth 3 = c := by
  have := c.isLt
  apply BitVec.eq_of_toNat_eq
  rw [BitVec.toNat_setWidth, toNat_e7 c (by decide), Nat.mod_eq_of_lt this]

/-! ### High units -/

@[simp] theorem fGuard_eHi (xop sc : BitVec 4) (im : BitVec 8) (fm : BitVec 4) (c : BitVec 7) (g : GuardF) :
    fGuard (eHi xop sc im fm c g) = .ok g := by
  cases g <;> rfl

section
variable (xop sc : BitVec 4) (im : BitVec 8) (fm : BitVec 4) (c : BitVec 7) (g : GuardF)

@[simp] theorem eHi_xop : (eHi xop sc im fm c g).xop = xop := by cases g <;> rfl
@[simp] theorem eHi_scope : (eHi xop sc im fm c g).scope = sc := by cases g <;> rfl
@[simp] theorem eHi_imm8 : (eHi xop sc im fm c g).imm8 = im := by cases g <;> rfl
@[simp] theorem eHi_fmod : (eHi xop sc im fm c g).fmod = fm := by cases g <;> rfl
@[simp] theorem eHi_c : (eHi xop sc im fm c g).c = c := by cases g <;> rfl

/-- No guard: GEN, GNEG and GP are 0 (R90). -/
@[simp] theorem eHi_none : (!(eHi xop sc im fm c none).gen && !(eHi xop sc im fm c none).gneg &&
    (eHi xop sc im fm c none).gp == 0#3) = true := rfl

end

@[simp] theorem fLong_some (h : HiFields) : fLong (some h) = .ok h := rfl

/-- Fields that an instruction does not use are 0 in its high unit (R89). -/
theorem fUnused_eHi {a b c d : Bool} {xop sc fm : BitVec 4} {im : BitVec 8} {cr : BitVec 7} {g : GuardF}
    (hs : a = true → sc = 0) (hi : b = true → im = 0) (hf : c = true → fm = 0) (hc : d = true → cr = 0) :
    fUnused a b c d (eHi xop sc im fm cr g) = .ok () := by
  have h (u : Bool) {n : Nat} {x : BitVec n} (hx : u = true → x = 0) : (!u || x == 0) = true := by
    cases u
    · rfl
    · simp [hx rfl]
  unfold fUnused
  rw [eHi_scope, eHi_imm8, eHi_fmod, eHi_c, h a hs, h b hi, h c hf, h d hc]
  rfl

theorem fScope_eHi {sc : BitVec 4} (h : scopeOk sc = true) (xop : BitVec 4) (im : BitVec 8) (fm : BitVec 4) (c : BitVec 7)
    (g : GuardF) : fScope (eHi xop sc im fm c g) = .ok sc := by
  unfold scopeOk at h
  simp [fScope, h]

@[simp] theorem wideBit_eHi (xop sc : BitVec 4) (im : BitVec 8) (w : Bool) (c : BitVec 7) (g : GuardF) :
    wideBit (eHi xop sc im (eWide w) c g) = w := by
  cases w <;> simp [wideBit, eWide]

@[simp] theorem fWide_eHi (xop sc : BitVec 4) (im : BitVec 8) (w : Bool) (c : BitVec 7) (g : GuardF) :
    fWide (eHi xop sc im (eWide w) c g) = .ok w := by
  cases w <;> simp [fWide, eWide]

@[simp] theorem fCond_eHi (xop sc : BitVec 4) (im : BitVec 8) (cc : Cond) (c : BitVec 7) (g : GuardF) :
    fCond (eHi xop sc im (eCond cc) c g) = .ok cc := by
  cases cc <;> simp [fCond, eCond]

theorem fUrn_eHi {swap : Bool} {op : UrnOp} (h : swap = true ∨ op ≠ .swap) (xop sc : BitVec 4) (im : BitVec 8) (c : BitVec 7)
    (g : GuardF) : fUrn swap (eHi xop sc im (eUrn op) c g) = .ok op := by
  cases op <;> simp_all [fUrn, eUrn]

@[simp] theorem fMTarget_eHi (xop sc : BitVec 4) (im : BitVec 8) (t : MTarget) (c : BitVec 7) (g : GuardF) :
    fMTarget (eHi xop sc im (eMTarget t) c g) = .ok t := by
  cases t <;> simp [fMTarget, eMTarget]

@[simp] theorem fExch_eHi (xop sc : BitVec 4) (im : BitVec 8) (x : Bool) (c : BitVec 7) (g : GuardF) :
    fExch (eHi xop sc im (eExch x) c g) = .ok x := by
  cases x <;> simp [fExch, eExch]

/-! ### Optional long forms -/

@[simp] theorem fExt_eExt (xop : BitVec 4) (x : Ext) : fExt (eExt xop x) = .ok x := by
  cases x <;> simp [fExt, eExt, fUnused_eHi]

@[simp] theorem fExtH_eExtH (xop : BitVec 4) (x : Bool) : fExtH (eExtH xop x) = .ok x := by
  cases x
  · rfl
  · simp [fExtH, eExtH, fUnused_eHi]

theorem fExtS_eExtS {x : ExtS} (h : extScopeOk x = true) (xop : BitVec 4) : fExtS (eExtS xop x) = .ok x := by
  cases x with
  | short => rfl
  | long sc g => simp [fExtS, eExtS, fUnused_eHi, fScope_eHi (show scopeOk sc = true from h)]

theorem fExtSF_eExtSF {ok : BitVec 4 → Bool} {x : ExtSF} (h : extLoadOk ok x = true) (xop : BitVec 4) :
    fExtSF ok (eExtSF xop x) = .ok x := by
  cases x with
  | short => rfl
  | long sc t g =>
    obtain ⟨hs, ht⟩ : scopeOk sc = true ∧ ok t = true := by simpa [extLoadOk] using h
    simp [fExtSF, eExtSF, fUnused_eHi, fScope_eHi hs, ht]

@[simp] theorem fExtLea_eExtLea (xop : BitVec 4) (x : ExtLea) : fExtLea (eExtLea xop x) = .ok x := by
  cases x with
  | short => rfl
  | long n g =>
    have hn := n.isLt
    simp [fExtLea, eExtLea, fUnused_eHi, Nat.mod_eq_of_lt (show n.toNat < 16 by omega), hn]

/-! ### Words -/

/-- The fields of a short opcode's word, in either form, that decode to `i`; XOP of a long form repeats the low bits of the
opcode (R91). -/
structure ShortWord (i : Instr) (f : LoFields) (h : Option HiFields) : Prop where
  assigned : shortAssigned f.op.toNat = true
  xop : ∀ x ∈ h, x.xop.toNat = f.op.toNat % 4
  decodes : ∀ op, decodeShortOp f.op.toNat { f with op := op } h = .ok i

/-- The fields of a long opcode's word that decode to `i` (R108). -/
structure LongWord (i : Instr) (f : LoFields) (h : HiFields) : Prop where
  space : 64 ≤ f.op.toNat
  xop : h.xop = 0
  decodes : decodeLongOp f.op.toNat f h = .ok i

/-! XOP of an encoded high unit. -/

section
variable {xop : BitVec 4} {n : Nat} (hn : xop.toNat = n)
include hn

theorem eHi_xop_eq {sc : BitVec 4} {im : BitVec 8} {fm : BitVec 4} {c : BitVec 7} {g : GuardF} :
    ∀ h ∈ some (eHi xop sc im fm c g), h.xop.toNat = n := by
  rintro h ⟨⟩
  rw [eHi_xop, hn]

theorem eExt_xop {x : Ext} : ∀ h ∈ eExt xop x, h.xop.toNat = n := by
  cases x with
  | short => rintro h ⟨⟩
  | long g => exact eHi_xop_eq hn

theorem eExtH_xop {x : Bool} : ∀ h ∈ eExtH xop x, h.xop.toNat = n := by
  cases x with
  | false => rintro h ⟨⟩
  | true => exact eHi_xop_eq hn

theorem eExtS_xop {x : ExtS} : ∀ h ∈ eExtS xop x, h.xop.toNat = n := by
  cases x with
  | short => rintro h ⟨⟩
  | long sc g => exact eHi_xop_eq hn

theorem eExtSF_xop {x : ExtSF} : ∀ h ∈ eExtSF xop x, h.xop.toNat = n := by
  cases x with
  | short => rintro h ⟨⟩
  | long sc t g => exact eHi_xop_eq hn

theorem eExtLea_xop {x : ExtLea} : ∀ h ∈ eExtLea xop x, h.xop.toNat = n := by
  cases x with
  | short => rintro h ⟨⟩
  | long s g => exact eHi_xop_eq hn

end

/-- The fields of an instruction's word decode to it. -/
def FieldsDecode (i : Instr) : Prop :=
  match encodeFields i with
  | none => True
  | some (f, h) => if i.longSpace then ∃ x, h = some x ∧ LongWord i f x else ShortWord i f h

/-- What `wait` has across D, A and B8, put together again. -/
theorem wait_split {w : Nat} (h : w < 1048576) : w / 16384 % 256 * 16384 + w / 128 % 128 * 128 + w % 128 = w := by omega

/-- The five limits of `wait`, four bits each, lie across D, A and B8 (R131). -/
theorem wait_word {ur tx cp st ld : BitVec 4} {w : Nat}
    (hw : ur.toNat * 65536 + tx.toNat * 4096 + cp.toNat * 256 + st.toNat * 16 + ld.toNat = w) (x : Bool) :
    ShortWord (.wait ur tx cp st ld x) ⟨0x07, BitVec.ofNat 7 w, BitVec.ofNat 7 (w / 128), BitVec.ofNat 8 (w / 16384)⟩
      (eExtH 3 x) := by
  have h0 := ur.isLt
  have h1 := tx.isLt
  have h2 := cp.isLt
  have h3 := st.isLt
  have h4 := ld.isLt
  have hlt : w < 1048576 := by omega
  have limit (b : BitVec 4) {n : Nat} (h : n % 16 = b.toNat) : BitVec.ofNat 4 n = b := BitVec.eq_of_toNat_eq h
  refine ⟨rfl, eExtH_xop (by simp), fun _ => ?_⟩
  simp [decodeShortOp, decodeShort0, wait_split hlt, show w / 16384 % 256 / 64 = 0 by omega,
    limit ur (n := w / 65536) (by omega), limit tx (n := w / 4096) (by omega), limit cp (n := w / 256) (by omega),
    limit st (n := w / 16) (by omega), limit ld (n := w) (by omega)]

theorem loop_short_word {n : BitVec 7} (h : n.toNat ≠ 0) : FieldsDecode (.loop (.short n)) := by
  refine ⟨rfl, by rintro _ ⟨⟩, fun _ => ?_⟩
  have hn := n.isLt
  simp [decodeShortOp, decodeShort0, toNat_e8 n, show ¬ 128 ≤ n.toNat by omega, bne_iff_ne.2 h]

theorem loop_long_word (n : Imm8) : FieldsDecode (.loop (.long n)) := by
  refine ⟨rfl, eHi_xop_eq (by simp), fun _ => ?_⟩
  simp [decodeShortOp, decodeShort0, fUnused_eHi]

theorem cvtFF_word {d a : VReg} {b : FTarget} (hd : evenIf (decide (b = .f64)) d = true) {e1 : Bool} {x : Ext} :
    FieldsDecode (.cvtFF d a b e1 x) := by
  change ShortWord _ ⟨0xA2, d, a, eFTarget b + _⟩ _
  obtain ⟨hwide, hlt, htarget, he⟩ := cvtFF_b8 b e1 _ rfl
  generalize eFTarget b + (if e1 then 16 else 0) = y at *
  exact ⟨rfl, eExt_xop (by simp), fun _ => by
    simp [decodeShortOp, decodeShortA, hwide, hlt, htarget, he, fX_even hd]⟩

theorem fieldsDecode {i : Instr} (hw : i.wellFormed = true) : FieldsDecode i := by
  cases i with
  | nop x | bra b x | jmp a x | call d b x | callx d a x | exit x | yield x | trigger x | tres d x | spawn a x | getlsw d x
  | brany a b x =>
    exact ⟨rfl, eExt_xop (by simp), fun _ => by simp [decodeShortOp, decodeShort0]⟩
  | wait ur tx cp st ld x => exact wait_word rfl x
  | loop n =>
    cases n with
    | short n => exact loop_short_word (of_decide_eq_true hw)
    | long n => exact loop_long_word n
  | loopK b x | ringAdv d x | ringCur d a x =>
    exact ⟨rfl, eExtH_xop (by simp), fun _ => by simp [decodeShortOp, decodeShort0, toNat_eBK]⟩
  | brall a b x | pand d a b x | por d a b x | pxor d a b x | pandn d a b x | ptest d a x | pget d a x | pmask d b x =>
    exact ⟨rfl, eExt_xop (by simp), fun _ => by simp [decodeShortOp, decodeShort1]⟩
  | mov d b x | addI32 d a b x | subI32 d a b x | mulI32 d a b x | mulhiI32 d a b x | divI32 d a b x | remI32 d a b x
  | minI32 d a b x | maxI32 d a b x | absI32 d a x | negI32 d a x | addiI32 d a b x | andI32 d a b x | orI32 d a b x
  | xorI32 d a b x =>
    exact ⟨rfl, eExt_xop (by simp), fun _ => by simp [decodeShortOp, decodeShort2]⟩
  | madI32 d a b c x =>
    exact ⟨rfl, eHi_xop_eq (by simp), fun _ => by simp [decodeShortOp, decodeShort2, fUnused_eHi]⟩
  | andnI32 d a b x | notI32 d a x | shlI32 d a b x | shrI32 d a b x | shliI32 d a b x | shriI32 d a b x | rotlI32 d a b x
  | popcI32 d a x | clzI32 d a x | brevI32 d a x | bfxI32 d a b x | cmpEqI32 d a b x | cmpNeI32 d a b x | cmpLtI32 d a b x
  | cmpLeI32 d a b x | cmpGtI32 d a b x =>
    exact ⟨rfl, eExt_xop (by simp), fun _ => by simp [decodeShortOp, decodeShort3, fSmall_e8]⟩
  | cmpGeI32 d a b x | addI64 d a b x | subI64 d a b x | mulI64 d a b x | mulwI32 d a b x | shlI64 d a b x | shrI64 d a b x
  | addiI64 d a b x | extI64 d a x | trnI32 d a x | mov64 d b x | kset d a x =>
    exact ⟨rfl, eExt_xop (by simp), fun _ => by simp [decodeShortOp, decodeShort4]⟩
  | smov d b x =>
    obtain ⟨hb, hd⟩ := Bool.and_eq_true_iff.1 hw
    exact ⟨rfl, eExt_xop (by simp), fun _ => by simp [decodeShortOp, decodeShort4, fX_even hd, fSpecial_listed hb]⟩
  | sel d a b c wide x =>
    obtain ⟨hda, hb⟩ := Bool.and_eq_true_iff.1 hw
    obtain ⟨hd, ha⟩ := Bool.and_eq_true_iff.1 hda
    exact ⟨rfl, eHi_xop_eq (by simp), fun _ => by
      simp [decodeShortOp, decodeShort4, fUnused_eHi, fX_even hd, fX_even ha, fSrcX_eSrc hb, toNat_e7, c.isLt]⟩
  | cmpI64 d a b cc x =>
    exact ⟨rfl, eHi_xop_eq (by simp), fun _ => by simp [decodeShortOp, decodeShort4, fUnused_eHi]⟩
  | lea d a b x =>
    exact ⟨rfl, eExtLea_xop (by simp), fun _ => by simp [decodeShortOp, decodeShort4]⟩
  | xfrom d a b x | xrot d a b x | xstep d a b x | xflip d a b x | pany d a x | pevery d a x | xsame d a x | pcollect d a x
  | xpeers d a x | xlow d a x | foldAddI32 d a x | foldMinI32 d a x | foldMaxI32 d a x | foldAndI32 d a x | foldOrI32 d a x
  | scanIncI32 d a x =>
    exact ⟨rfl, eExt_xop (by simp), fun _ => by simp [decodeShortOp, decodeShort6]⟩
  | scanExcI32 d a x | prank d a x | xpack d a b x =>
    exact ⟨rfl, eExt_xop (by simp), fun _ => by simp [decodeShortOp, decodeShort7]⟩
  | rng d a b x =>
    exact ⟨rfl, eExt_xop (by simp), fun _ => by simp [decodeShortOp, decodeShort7, fBK2_eBK (beq_iff_eq.1 hw)]⟩
  | faddF32 d a b x | fsubF32 d a b x | fmulF32 d a b x | fdivF32 d a b x | fsqrtF32 d a x | fminF32 d a b x
  | fmaxF32 d a b x | fminNanF32 d a b x | fmaxNanF32 d a b x | fabsF32 d a x | fnegF32 d a x | fcmpF32 d cc a b x
  | frndF32 d a x | ffuncF32 d a b x | fclass d a x =>
    exact ⟨rfl, eExt_xop (by simp), fun _ => by simp [decodeShortOp, decodeShort8]⟩
  | ffmaF32 d a b c x =>
    exact ⟨rfl, eHi_xop_eq (by simp), fun _ => by simp [decodeShortOp, decodeShort8, fUnused_eHi]⟩
  | faddF64 d a b x | fsubF64 d a b x | fmulF64 d a b x | fdivF64 d a b x | fsqrtF64 d a x | fminF64 d a b x
  | fmaxF64 d a b x | fminNanF64 d a b x | fmaxNanF64 d a b x | fabsF64 d a x | fnegF64 d a x | fcmpF64 d cc a b x
  | frndF64 d a x | ffuncF64 d a b x | fflag d b x =>
    exact ⟨rfl, eExt_xop (by simp), fun _ => by simp [decodeShortOp, decodeShort9]⟩
  | ffmaF64 d a b c x =>
    exact ⟨rfl, eHi_xop_eq (by simp), fun _ => by simp [decodeShortOp, decodeShort9, fUnused_eHi, toNat_eD]⟩
  | cvtFI d a b x =>
    have hd : evenIf (eFTarget b == 6#8) d = true := by cases b <;> exact hw
    exact ⟨rfl, eExt_xop (by simp), fun _ => by simp [decodeShortOp, decodeShortA, fX_even hd]⟩
  | cvtIF d a b x =>
    have hd : evenIf (eITarget b == 3#8 || eITarget b == 4#8) d = true := by cases b <;> exact hw
    exact ⟨rfl, eExt_xop (by simp), fun _ => by simp [decodeShortOp, decodeShortA, fX_even hd]⟩
  | cvtFF d a b e1 x => exact cvtFF_word hw
  | cvtBf16x2F32 d a b x | cvtF16x2F32 d a b x | cvtTbF32 d a b x | tbpk d a x | tbunpk d a b x =>
    exact ⟨rfl, eExt_xop (by simp), fun _ => by simp [decodeShortOp, decodeShortA]⟩
  | ldGI8 d a b x | ldGN8 d a b x | ldGI16 d a b x | ldGN16 d a b x | stG8 d a b x | stG16 d a b x | stG32 d a b x
  | stG64 d a b x =>
    exact ⟨rfl, eExtS_xop (by simp), fun _ => by simp [decodeShortOp, decodeShortB, fExtS_eExtS hw]⟩
  | ldG32 d a b x | ldG64 d a b x =>
    exact ⟨rfl, eExtSF_xop (by simp), fun _ => by simp [decodeShortOp, decodeShortB, fExtSF_eExtSF hw]⟩
  | ldT32 d a b x | stT32 d a b x | apconvT d a b x | apconvL d b x | talloc d a b x =>
    exact ⟨rfl, eExt_xop (by simp), fun _ => by simp [decodeShortOp, decodeShortB, fSmall_e8]⟩
  | aptest d a b x =>
    exact ⟨rfl, eExt_xop (by simp), fun _ => by
      simp [decodeShortOp, decodeShortB, fUpTo_e8 (by decide) (of_decide_eq_true hw)]⟩
  | trel d x | pf a b x | wpos d a x | wskip d b x | ldk d a b x =>
    exact ⟨rfl, eExt_xop (by simp), fun _ => by simp [decodeShortOp, decodeShortC]⟩
  | cp a b x =>
    obtain ⟨ha, hx⟩ := Bool.and_eq_true_iff.1 hw
    exact ⟨rfl, eExtS_xop (by simp), fun _ => by
      simp [decodeShortOp, decodeShortC, fKb_e7 (of_decide_eq_true ha), fExtS_eExtS hx]⟩
  | wset d a x =>
    exact ⟨rfl, eExtH_xop (by simp), fun _ => by simp [decodeShortOp, decodeShortC, fKb_e7 (of_decide_eq_true hw)]⟩
  | wclr d x =>
    exact ⟨rfl, eExtH_xop (by simp), fun _ => by simp [decodeShortOp, decodeShortC]⟩
  | arrive b x | expect a b x | bwait b x | bphase d b x | mwait b x | ored d b x =>
    exact ⟨rfl, eExt_xop (by simp), fun _ => by simp [decodeShortOp, decodeShortD]⟩
  | fence d b x =>
    exact ⟨rfl, eExtH_xop (by simp), fun _ => by
      simp [decodeShortOp, decodeShortD, fUpTo_e8 (by decide) (of_decide_eq_true hw)]⟩
  | fwait d x =>
    exact ⟨rfl, eExtH_xop (by simp), fun _ => by simp [decodeShortOp, decodeShortD]⟩
  | mon a x =>
    exact ⟨rfl, eExtS_xop (by simp), fun _ => by simp [decodeShortOp, decodeShortD, fExtS_eExtS hw]⟩
  | ugetI32 d a b op sc x | ugetI64 d a b op sc x =>
    exact ⟨rfl, eHi_xop_eq (by simp), fun _ => by
      simp [decodeShortOp, decodeShortD, fUnused_eHi, fUrn_eHi (.inl rfl), fScope_eHi hw]⟩
  | uputI32 a b op sc x | uputI64 a b op sc x =>
    obtain ⟨hs, ho⟩ := Bool.and_eq_true_iff.1 hw
    exact ⟨rfl, eHi_xop_eq (by simp), fun _ => by
      simp [decodeShortOp, decodeShortD, fUnused_eHi, fUrn_eHi (.inr (of_decide_eq_true ho)), fScope_eHi hs]⟩
  | ugetFadd d a b wide sc x =>
    obtain ⟨hdb, hs⟩ := Bool.and_eq_true_iff.1 hw
    obtain ⟨hd, hb⟩ := Bool.and_eq_true_iff.1 hdb
    exact ⟨rfl, eHi_xop_eq (by simp), fun _ => by
      simp [decodeShortOp, decodeShortD, fUnused_eHi, fX_even hd, fSrcX_eSrc hb, fScope_eHi hs]⟩
  | uputFadd a b wide sc x =>
    obtain ⟨hb, hs⟩ := Bool.and_eq_true_iff.1 hw
    exact ⟨rfl, eHi_xop_eq (by simp), fun _ => by
      simp [decodeShortOp, decodeShortD, fUnused_eHi, fSrcX_eSrc hb, fScope_eHi hs]⟩
  | ucmpx d a b c wide sc x =>
    obtain ⟨hdcb, hs⟩ := Bool.and_eq_true_iff.1 hw
    obtain ⟨hdc, hb⟩ := Bool.and_eq_true_iff.1 hdcb
    obtain ⟨hd, hc⟩ := Bool.and_eq_true_iff.1 hdc
    unfold evenIf at hc
    exact ⟨rfl, eHi_xop_eq (by simp), fun _ => by
      simp [decodeShortOp, decodeShortD, fUnused_eHi, fX_even hd, fSrcX_eSrc hb, hc, fScope_eHi hs]⟩
  | balloc d a b x | bdrop b x | sys b x | brk b x | sret x | hret x | lswrd d a x =>
    exact ⟨rfl, eExt_xop (by simp), fun _ => by simp [decodeShortOp, decodeShortE, fSmall_e8]⟩
  | hcall d b x =>
    exact ⟨rfl, eExt_xop (by simp), fun _ => by simp [decodeShortOp, decodeShortE, fKb_e7 (of_decide_eq_true hw)]⟩
  | ctlrd d b x | ctlwr a b x =>
    exact ⟨rfl, eExt_xop (by simp), fun _ => by simp [decodeShortOp, decodeShortE, fCtl_listed hw]⟩
  | tinv b x | tprobe d a x | evclr b x | lhalt x =>
    exact ⟨rfl, eExt_xop (by simp), fun _ => by simp [decodeShortOp, decodeShortF]⟩
  | errrd d b x =>
    exact ⟨rfl, eExt_xop (by simp), fun _ => by
      simp [decodeShortOp, decodeShortF, fUpTo_e8 (by decide) (of_decide_eq_true hw)]⟩
  | einj a b x =>
    exact ⟨rfl, eExt_xop (by simp), fun _ => by
      simp [decodeShortOp, decodeShortF, fUpTo_e8 (by decide) (Nat.le_of_lt_succ b.isLt)]⟩
  | mmaTb8 a x | mmaTb6 a x | mmaTb4 a x | mmaBf16 a x | mmaF16 a x | mmaF32 a x | wbld a x | mbias d a x =>
    exact ⟨_, rfl, by simp, eHi_xop .., by
      simp [decodeLongOp, decodeLong4, fUnused_eHi, fKb_e7 (of_decide_eq_true hw)]⟩
  | mzero d x | mrel d x | mload d a x | wbal d a b x | mstat d a x | mxset d b x =>
    exact ⟨_, rfl, by simp, eHi_xop .., by simp [decodeLongOp, decodeLong4, fUnused_eHi, fSmall_e8]⟩
  | mepi d a tgt sc x =>
    obtain ⟨ha, hs⟩ := Bool.and_eq_true_iff.1 hw
    exact ⟨_, rfl, by simp, eHi_xop .., by
      simp [decodeLongOp, decodeLong4, fUnused_eHi, fKb_e7 (of_decide_eq_true ha), fScope_eHi hs]⟩
  | msave d a sc x =>
    exact ⟨_, rfl, by simp, eHi_xop .., by simp [decodeLongOp, decodeLong4, fUnused_eHi, fScope_eHi hw]⟩
  | asnRun a x | asnCont a x | asnBest a x | asnInv a x | asnChk a x =>
    exact ⟨_, rfl, by simp, eHi_xop .., by
      simp [decodeLongOp, decodeLong6, fUnused_eHi, fKb_e7 (of_decide_eq_true hw)]⟩
  | asnStat d x =>
    exact ⟨_, rfl, by simp, eHi_xop .., by simp [decodeLongOp, decodeLong6, fUnused_eHi]⟩
  | fwr a b x | frd a b x | fatom d a exch x | fsend a x | fevent a x | bopen d a x | bpush a x | bclose a x =>
    exact ⟨_, rfl, by simp, eHi_xop .., by
      simp [decodeLongOp, decodeLong7, fUnused_eHi, fKb_e7 (of_decide_eq_true hw)]⟩
  | frdK d a x | fstat d x | bstat d a x | bfree a x =>
    exact ⟨_, rfl, by simp, eHi_xop .., by simp [decodeLongOp, decodeLong7, fUnused_eHi]⟩
  | _ => trivial

/-! ### Units and bytes -/

theorem loUnit_lt (f : LoFields) {ls : Nat} (h : ls < 4) : loUnit ls f < 256 ^ 4 := by
  have := f.op.isLt
  have := f.d.isLt
  have := f.a.isLt
  have := f.b.isLt
  unfold loUnit
  omega

theorem hiUnit_lt (h : HiFields) : hiUnit h < 256 ^ 4 := by
  have := h.gp.isLt
  have := h.gneg.toNat_lt
  have := h.gen.toNat_lt
  have := h.c.isLt
  have := h.fmod.isLt
  have := h.imm8.isLt
  have := h.scope.isLt
  have := h.xop.isLt
  unfold hiUnit
  omega

theorem loUnit_mod (f : LoFields) {ls : Nat} (h : ls < 4) : loUnit ls f % 4 = ls := by
  unfold loUnit
  omega

/-- Reading back the fields of a low unit (R88). -/
theorem loFields_loUnit (f : LoFields) {ls : Nat} (h : ls < 4) : loFields (loUnit ls f) = f := by
  obtain ⟨op, d, a, b⟩ := f
  have := op.isLt
  have := d.isLt
  have := a.isLt
  have := b.isLt
  unfold loFields loUnit
  congr 1 <;> apply BitVec.eq_of_toNat_eq <;> simp only [BitVec.toNat_ofNat] <;> omega

/-- Reading back the fields of a high unit (R90). -/
theorem hiFields_hiUnit (h : HiFields) : hiFields (hiUnit h) = h := by
  obtain ⟨xop, scope, imm8, fmod, c, gen, gneg, gp⟩ := h
  have := xop.isLt
  have := scope.isLt
  have := imm8.isLt
  have := fmod.isLt
  have := c.isLt
  have := gp.isLt
  have h1 := gen.toNat_lt
  have h2 := gneg.toNat_lt
  have flag (x : Bool) {n : Nat} (hn : n % 2 = x.toNat) : (n % 2 == 1) = x := by rw [hn]; cases x <;> rfl
  unfold hiFields hiUnit
  dsimp only
  congr 1
  case e_gen => exact flag gen (by omega)
  case e_gneg => exact flag gneg (by omega)
  all_goals
    apply BitVec.eq_of_toNat_eq
    simp only [BitVec.toNat_ofNat]
    omega

/-! ### Whole words -/

theorem decodeWord_short {i : Instr} {f : LoFields} (h : ShortWord i f none) : decodeWord (loUnit 0 f) 0 = .ok i := by
  unfold decodeWord
  rw [loFields_loUnit f (by decide), loUnit_mod f (by decide)]
  exact h.decodes f.op

/-- The long form of a short opcode: the low unit holds the opcode's high bits, XOP its low two (R91). -/
theorem decodeWord_longForm {i : Instr} {f : LoFields} {h : HiFields} (hw : ShortWord i f (some h)) :
    decodeWord (loUnit 2 { f with op := BitVec.ofNat 8 (f.op.toNat / 4) }) (hiUnit h) = .ok i := by
  have hop := f.op.isLt
  have hx : h.xop.toNat = f.op.toNat % 4 := hw.xop h rfl
  have hq : (BitVec.ofNat 8 (f.op.toNat / 4)).toNat = f.op.toNat / 4 := Nat.mod_eq_of_lt (by omega)
  have hs : 4 * (f.op.toNat / 4) + h.xop.toNat % 4 = f.op.toNat := by omega
  have hany : (shortAssigned (4 * (f.op.toNat / 4)) || shortAssigned (4 * (f.op.toNat / 4) + 1) ||
      shortAssigned (4 * (f.op.toNat / 4) + 2) || shortAssigned (4 * (f.op.toNat / 4) + 3)) = true := by
    have ha := hw.assigned
    rw [← hs] at ha
    generalize 4 * (f.op.toNat / 4) = n at *
    have : h.xop.toNat % 4 < 4 := Nat.mod_lt _ (by decide)
    generalize h.xop.toNat % 4 = k at *
    obtain rfl | rfl | rfl | rfl : k = 0 ∨ k = 1 ∨ k = 2 ∨ k = 3 := by omega
    all_goals simp_all
  unfold decodeWord
  rw [loFields_loUnit _ (by decide), loUnit_mod _ (by decide), hiFields_hiUnit]
  simp only [hq, hs, hany, hw.assigned, hw.decodes, show f.op.toNat / 4 < 64 by omega, show h.xop.toNat < 4 by omega,
    if_true, Bool.not_true, Bool.false_eq_true, if_false, ok_bind, decide_true, needHi_true]

theorem decodeWord_long {i : Instr} {f : LoFields} {h : HiFields} (hw : LongWord i f h) :
    decodeWord (loUnit 2 f) (hiUnit h) = .ok i := by
  have hs := hw.space
  unfold decodeWord
  rw [loFields_loUnit f (by decide), loUnit_mod f (by decide), hiFields_hiUnit]
  simp only [show ¬ f.op.toNat < 64 by omega, if_false, hw.decodes, ok_bind, hw.xop, BEq.rfl, needHi_true]

/-- The units of a word decode to its instruction: one unit of a short word, two of a long one (R85). -/
theorem encodeUnits_decode {i : Instr} (hw : i.wellFormed = true) (hne : encodeUnits i ≠ []) :
    (∃ lo, encodeUnits i = [lo] ∧ lo < 256 ^ 4 ∧ lo % 4 = 0 ∧ decodeWord lo 0 = .ok i) ∨
    (∃ lo hi, encodeUnits i = [lo, hi] ∧ lo < 256 ^ 4 ∧ hi < 256 ^ 4 ∧ lo % 4 = 2 ∧ decodeWord lo hi = .ok i) := by
  have hf := fieldsDecode hw
  unfold FieldsDecode at hf
  unfold encodeUnits at hne ⊢
  rcases he : encodeFields i with _ | ⟨f, _ | h⟩ <;> simp only [he] at hf hne ⊢
  case none => exact absurd rfl hne
  case some.none =>
    cases hl : i.longSpace with
    | true =>
      rw [if_pos hl] at hf
      obtain ⟨x, ⟨⟩, -⟩ := hf
    | false =>
      rw [if_neg (by simp [hl])] at hf
      exact .inl ⟨_, rfl, loUnit_lt f (by decide), loUnit_mod f (by decide), decodeWord_short hf⟩
  case some.some =>
    right
    cases hl : i.longSpace with
    | true =>
      rw [if_pos hl] at hf
      obtain ⟨x, ⟨⟩, hx⟩ := hf
      exact ⟨_, _, rfl, loUnit_lt f (by decide), hiUnit_lt h, loUnit_mod f (by decide), decodeWord_long hx⟩
    | false =>
      rw [if_neg (by simp [hl])] at hf
      exact ⟨_, _, rfl, loUnit_lt _ (by decide), hiUnit_lt h, loUnit_mod _ (by decide), decodeWord_longForm hf⟩

theorem leNat_unit {n : Nat} (h : n < 256 ^ 4) : leNat (leBytes 4 n) = n := by
  rw [leNat_leBytes, Nat.mod_eq_of_lt h]

theorem decodeBytes_short {lo : Nat} {i : Instr} (hlt : lo < 256 ^ 4) (hsel : lo % 4 = 0) (hd : decodeWord lo 0 = .ok i)
    (rest : List Byte) : decodeBytes (leBytes 4 lo ++ rest) = some (i, rest) := by
  have htake : (leBytes 4 lo ++ rest).take 4 = leBytes 4 lo := List.take_left' (leBytes_length 4 lo)
  have hdrop : (leBytes 4 lo ++ rest).drop 4 = rest := List.drop_left' (leBytes_length 4 lo)
  have hlen : ¬ (leBytes 4 lo ++ rest).length < 4 := by rw [List.length_append, leBytes_length]; omega
  unfold decodeBytes
  simp only [htake, hdrop, leNat_unit hlt, hlen, hsel, hd, if_false]
  rfl

theorem decodeBytes_long {lo hi : Nat} {i : Instr} (hlo : lo < 256 ^ 4) (hhi : hi < 256 ^ 4) (hsel : lo % 4 = 2)
    (hd : decodeWord lo hi = .ok i) (rest : List Byte) :
    decodeBytes (leBytes 4 lo ++ (leBytes 4 hi ++ rest)) = some (i, rest) := by
  have htake : (leBytes 4 lo ++ (leBytes 4 hi ++ rest)).take 4 = leBytes 4 lo := List.take_left' (leBytes_length 4 lo)
  have hdrop : (leBytes 4 lo ++ (leBytes 4 hi ++ rest)).drop 4 = leBytes 4 hi ++ rest :=
    List.drop_left' (leBytes_length 4 lo)
  have htake' : (leBytes 4 hi ++ rest).take 4 = leBytes 4 hi := List.take_left' (leBytes_length 4 hi)
  have hdrop' : (leBytes 4 lo ++ (leBytes 4 hi ++ rest)).drop 8 = rest := by
    rw [← List.append_assoc]
    exact List.drop_left' (by rw [List.length_append, leBytes_length, leBytes_length])
  have hlen : 8 ≤ (leBytes 4 lo ++ (leBytes 4 hi ++ rest)).length := by
    rw [List.length_append, List.length_append, leBytes_length, leBytes_length]; omega
  unfold decodeBytes
  simp only [htake, hdrop, htake', hdrop', leNat_unit hlo, leNat_unit hhi, Nat.not_lt.2 hlen,
    show ¬ (leBytes 4 lo ++ (leBytes 4 hi ++ rest)).length < 4 by omega, hsel, hd, if_false]
  rfl

/-- Settles O30, by what reading each field of a word gives back: the fields decode to the instruction, the word holds its
fields, and its bytes its units. -/
theorem decodeEncode : Obligations.DecodeEncode := by
  intro i rest hne hw
  have hu : encodeUnits i ≠ [] := fun h => hne (by unfold encode; rw [h]; rfl)
  unfold encode
  obtain ⟨lo, he, hlo, hsel, hd⟩ | ⟨lo, hi, he, hlo, hhi, hsel, hd⟩ := encodeUnits_decode hw hu
  · rw [he, List.flatMap_singleton]
    exact ⟨decodeBytes_short hlo hsel hd rest, .inl (leBytes_length 4 lo)⟩
  · rw [he, List.flatMap_cons, List.flatMap_singleton, List.append_assoc]
    exact ⟨decodeBytes_long hlo hhi hsel hd rest, .inr (by rw [List.length_append, leBytes_length, leBytes_length])⟩

/-! ### Sequences without prefixes (R87) -/

theorem offending_of_decodes {lo hi : Nat} {i : Instr} (h : decodeWord lo hi = .ok i) : offending lo hi = none := by
  unfold offending
  rw [h]

/-- A sequence of an instruction's units alone binds no stream and no prefixes of it offend. -/
theorem decodeSeq_noPrefix {lo : Nat} {rest : List Nat} {i : Instr} (hd : decodeWord lo (rest.headD 0) = .ok i)
    (hrest : lo % 4 = 2 → rest ≠ []) : decodeSeq [] (lo :: rest) = .ok ⟨{}, 0, i, if lo % 4 == 2 then 2 else 1⟩ := by
  have hend : (lo % 4 == 2 && rest.isEmpty) = false := by
    cases rest with
    | nil => simpa using fun h => hrest h rfl
    | cons => exact Bool.and_false _
  rw [List.headD_eq_head?_getD] at hd
  unfold decodeSeq
  simp [goodPfx, offending_of_decodes hd, hd, hend]

/-- Settles O29: each word by running the decoder, sequences by the lemma on a sequence without prefixes. -/
theorem wordsDecode : Obligations.WordsDecode := by
  refine ⟨?_, ?_, ?_, ?_, ?_, ?_, ?_, ?_, ?_, ?_, ?_, fun lo i hlo hd => ?short, fun lo hi i hlo hd => ?long⟩
  case short =>
    have h := decodeSeq_noPrefix (rest := []) hd (fun h => by omega)
    rwa [hlo] at h
  case long =>
    have h := decodeSeq_noPrefix (rest := [hi]) hd (fun _ => List.cons_ne_nil _ _)
    rwa [hlo] at h
  all_goals decide

end Sys2Proof.InstructionWords
end

section
/-!
SUPPORT. Issues that nothing holds up: instructions that move the lanes (R113, R135, R138), and moves, selection and predicate
operations (R114, R142, R143, R149).
-/

namespace Sys2Proof.Machine
open Sys2Proof

/-! ### Ends of an issue (R86, R111, R119) -/

theorem LaneEnd.move_live (d : LaneEnd) (g : Group) (iss : Issue) (l : Lane) :
    (d.move g iss l).absent = l.absent ∧ (d.move g iss l).exited = l.exited := by
  have passes (m : Mode) (a : BitVec 16) (b : BitVec 6) :
      (l.setPasses m a b).absent = l.absent ∧ (l.setPasses m a b).exited = l.exited := by
    cases m <;> exact ⟨rfl, rfl⟩
  cases d with
  | past => exact Lane.pass_live l iss
  | goto a => exact passes _ _ _
  | back => exact passes _ _ _
  | stay => exact ⟨rfl, rfl⟩
  | trap c v | trapPast c v =>
    cases ht : trapMode g l.mode with
    | none => simp only [LaneEnd.move, ht, and_self]
    | some p =>
      simp only [LaneEnd.move, ht]
      exact Lane.enter_live ..

/-- A live lane is still there when its issue ends. -/
theorem LaneEnd.move_there {l : Lane} (h : l.live = true) (d : LaneEnd) (g : Group) (iss : Issue) :
    ((d.move g iss l).absent || (d.move g iss l).exited) = false := by
  obtain ⟨ha, he⟩ := LaneEnd.move_live d g iss l
  unfold Lane.live at h
  rw [ha, he]
  cases hA : l.absent <;> cases hE : l.exited <;> simp_all

/-- Only the lanes of the issue set end as an end says. -/
theorem Group.endsAs_congr {g : Group} {iss : Issue} {j : Nat} {l l' : Lane} (h : j ∈ iss.lanes → l = l') :
    g.endsAs iss j l = g.endsAs iss j l' := by
  unfold Group.endsAs
  split
  · rw [h ‹_›]
  · rfl

theorem SameGroup.of_lanes {g g1 g' : Group} (h' : SameGroup g1 g') (h : { g1 with lanes := g.lanes } = g) :
    SameGroup g g' := by
  generalize g.lanes = ls at h
  subst h
  exact congrArg (fun x : Group => { x with lanes := ls }) h'

section
variable {s : State} {iss : Issue} {g : Group} {i : Instr} {e : Entry}

/-- A free issue whose body changes nothing and ends each lane as `l` says. -/
theorem endsIn_of_ends (hx : exec i s = serve i s e) (h : Free s iss g i e.mode e.ok e.cls) {ends : List (Nat × LaneEnd)}
    (hb : e.body (s.plainCtx iss g i) s (g.asLane ((s.plainCtx iss g i).lowest.getD 0)) = .done s ends none [])
    (hh : ∀ j ∈ iss.lanes, (endOf ends j).handled g (g.lane j) = true) {l : Nat → Lane}
    (hl : ∀ j ∈ iss.lanes, (endOf ends j).move g iss (g.lane j) = l j) : EndsIn s iss i s g l := by
  obtain ⟨j, hj⟩ := List.exists_mem_of_ne_nil _ h.lanes
  obtain ⟨s', g', hs, hg, hsame, hlanes, hout⟩ := serve_done h hb h.group (.inl rfl) hh h.settled
    ⟨j, hj, LaneEnd.move_there (h.live j hj).2.1 ..⟩
  exact ⟨s', g', hx.trans hs, hg, hsame, fun j => (hlanes j).trans (Group.endsAs_congr (hl j)), hout⟩

/-- A free issue whose body changes lanes of the issue set by `f`, and ends each lane past its sequence. -/
theorem endsIn_of_lanes (hx : exec i s = serve i s e) (h : Free s iss g i e.mode e.ok e.cls) {f : Nat → Lane → Lane}
    (hb : e.body (s.plainCtx iss g i) s (g.asLane ((s.plainCtx iss g i).lowest.getD 0)) =
      .done (s.modLanes iss.gid (g.activeLanes iss i) f) [] none [])
    (hf : ∀ j l, (f j l).absent = l.absent ∧ (f j l).exited = l.exited) :
    EndsIn s iss i s g (fun j => (if j ∈ g.activeLanes iss i then f j (g.lane j) else g.lane j).pass iss) := by
  have hsub : ∀ j ∈ g.activeLanes iss i, j ∈ iss.lanes := fun j hj => (List.mem_filter.1 hj).1
  let g1 := (g.activeLanes iss i).foldl (fun g j => g.modLane j (f j)) g
  have hlane (j : Nat) : g1.lane j = if j ∈ g.activeLanes iss i then f j (g.lane j) else g.lane j :=
    Group.lane_foldl _ f g j (h.nodup.filter _)
  have hrest : { g1 with lanes := g.lanes } = g := Group.foldl_lanes_only _ f g
  have hops : g1.ops = g.ops := by have y := congrArg Group.ops hrest; exact y
  have hloc : g1.local_ = g.local_ := by have y := congrArg Group.local_ hrest; exact y
  have hu : Upd s (s.modLanes iss.gid (g.activeLanes iss i) f) iss.gid g1 := (Upd.refl h.group).modGroup _
  obtain ⟨s', g', hs, hg, hsame, hlanes, hout⟩ := serve_done h hb hu.group (.inl rfl) (fun _ _ => rfl)
    (by rw [hops]; exact h.settled) (h.pass_live (fun j => by rw [hlane]; split <;> simp [hf]))
  refine ⟨s', g', hx.trans hs, hg, ?_, fun j => ?_, (hu.outside h.group hloc).trans hout⟩
  · exact hsame.of_lanes hrest
  · rw [hlanes j]
    dsimp only
    rw [← hlane]
    unfold Group.endsAs
    split
    · rfl
    · rw [hlane, if_neg (fun hj => ‹¬ j ∈ iss.lanes› (hsub j hj))]

end

/-! ### Instructions that only move lanes (R113, R135, R138) -/

/-- YIELD set on a lane stays set past its sequence. -/
theorem Lane.pass_yielded (l : Lane) (iss : Issue) :
    Lane.pass { l with yielded := true } iss = { l.pass iss with yielded := true } := by
  have passes (m : Mode) (a : BitVec 16) (b : BitVec 6) :
      Lane.setPasses { l with yielded := true } m a b = { l.setPasses m a b with yielded := true } := by cases m <;> rfl
  have loop (m : Mode) : (Lane.ms { l with yielded := true } m).loop = (l.ms m).loop := by cases m <;> rfl
  have moves : Lane.moveOn { l with yielded := true } iss = { l.moveOn iss with yielded := true } := by
    unfold Lane.moveOn
    rw [passes, passes, loop]
    split <;> rfl
  unfold Lane.pass
  rw [passes, moves, loop]
  split
  · split <;> rfl
  · rfl

end Sys2Proof.Machine

namespace Sys2Proof.InstructionWords
open Sys2Proof Sys2Proof.Machine

theorem loop_ends {s : State} {iss : Issue} {g : Group} {i : Instr} {e : Entry} {n : Nat} (hx : exec i s = serve i s e)
    (h : Free s iss g i e.mode e.ok e.cls)
    (hb : e.body (s.plainCtx iss g i) s (g.asLane ((s.plainCtx iss g i).lowest.getD 0)) =
      .done s (iss.lanes.map (fun j => (j, if iss.loopPass + 1 < n then .back else .past))) none []) :
    EndsIn s iss i s g (fun j => if iss.loopPass + 1 < n then Spec.nextPass (g.lane j) iss else (g.lane j).pass iss) := by
  have hend (j : Nat) (hj : j ∈ iss.lanes) : endOf (iss.lanes.map (fun j => (j,
      if iss.loopPass + 1 < n then LaneEnd.back else .past))) j = if iss.loopPass + 1 < n then .back else .past := by
    rw [endOf_map, if_pos hj]
  refine endsIn_of_ends hx h hb (fun j hj => ?_) (fun j hj => ?_)
  · rw [hend j hj]; split <;> rfl
  · rw [hend j hj]; split <;> rfl

/-- Settles O11, instruction by instruction: `nop` and `loop` change nothing and end their lanes, `yield` sets YIELD. -/
theorem laneMoves : Obligations.LaneMoves := by
  intro s iss g i hm h
  cases i with
  | nop x => exact endsIn_of_ends (ends := []) rfl h rfl (fun _ _ => rfl) (fun _ _ => rfl)
  | yield x =>
    have hx : exec (.yield x) s = serve (.yield x) s
        { body := fun c s _ => .done (s.modLanes c.gid c.active (fun _ l => { l with yielded := true })) [] none [] } := rfl
    have hy := endsIn_of_lanes hx h rfl (fun _ _ => ⟨rfl, rfl⟩)
    have e (j : Nat) :
        (if j ∈ g.activeLanes iss (.yield x) then { g.lane j with yielded := true } else g.lane j).pass iss =
          (Spec.moved iss g (.yield x) j).getD (g.lane j) := by
      unfold Spec.moved
      rw [Option.getD_some, apply_ite (Lane.pass · iss), Lane.pass_yielded]
    exact funext e ▸ hy
  | loop n =>
    cases n with
    | short n => exact loop_ends rfl h rfl
    | long n => exact loop_ends rfl h rfl
  | loopK b x =>
    refine loop_ends rfl h ?_
    have hk (n : Nat) : (s.plainCtx iss g (.loopK b x)).kB (g.asLane n) = g.kGet b.toNat := Group.asLane_kGet_ ..
    simp only [loopEntry, hk]
    rfl
  | _ => cases hm 0

end Sys2Proof.InstructionWords

namespace Sys2Proof.Machine
open Sys2Proof

/-! ### Instructions that compute lane by lane -/

section
variable {s : State} {iss : Issue} {g : Group} {i : Instr} {e : Entry} {x y : Nat → DWord} {t : Option Tag}

/-- A free issue of an instruction that computes `x` lane by lane from the registers it finds. -/
theorem computes_of_pure {tag : Ctx → Option Tag} {f : Ctx → Group → Nat → DWord} (hx : exec i s = serve i s e)
    (h : Free s iss g i e.mode e.ok e.cls) (hb : e.body = pureLanes tag f) (hk : takesResult (s.slots g iss i).d = true)
    (hf : ∀ n j, f (s.plainCtx iss g i) (g.asLane n) j = x j) (ht : tag (s.plainCtx iss g i) = t) :
    Computes s iss g i x t := by
  obtain ⟨s', g', hs, hg, hdest, htag, hrest⟩ := serve_pure h hb hk
  subst ht
  exact ⟨s', g', hx.trans hs, hg, funext (hf _) ▸ hdest, htag, hrest⟩

/-- A 32-bit destination holds the low half of a result. -/
theorem Computes.of_low {n : Nat} (h : Computes s iss g i x t) (hd : (s.slots g iss i).d = .v n)
    (hxy : ∀ j, BitVec.ofNat 32 (x j).toNat = BitVec.ofNat 32 (y j).toNat) : Computes s iss g i y t := by
  obtain ⟨s', g', hs, hg, hdest, hrest⟩ := h
  refine ⟨s', g', hs, hg, fun j hj => ?_, hrest⟩
  have hv := hdest j hj
  simp only [hd] at hv ⊢
  rw [hv, hxy]

end

end Sys2Proof.Machine

namespace Sys2Proof.InstructionWords
open Sys2Proof Sys2Proof.Machine

/-! ### Moves, selection and predicates (R114, R142, R143, R149) -/

/-- What a 32-bit slot reads is the low half of what the slot reads (R89). -/
theorem registers_word (s : State) (iss : Issue) (g : Group) (i : Instr) (sl : SlotName) (j : Nat) :
    (Spec.registers s iss g i).word sl j = ((s.slots g iss i).slot sl).read32 g iss.mode j := by
  rw [← read64_low, BitVec.ofNat_toNat]
  rfl

theorem movesAndSelection : Spec.MovesAndSelection := by
  intro s iss g i r hr h
  cases i with
  | mov d b x =>
    obtain rfl := Option.some.inj hr
    have hmov := computes_of_pure (e := movEntry) (x := fun j => (s.slots g iss (.mov d b x)).b.read64 g iss.mode j)
      rfl h rfl rfl (fun n j => by rw [plainCtx_b64, read64_asLane]) rfl
    have low (j : Nat) : BitVec.ofNat 32 ((s.slots g iss (.mov d b x)).b.read64 g iss.mode j).toNat =
        BitVec.ofNat 32 (((Spec.registers s iss g (.mov d b x)).word .b j).setWidth 64).toNat := by
      rw [read64_low, registers_word, BitVec.toNat_setWidth_of_le (by decide), BitVec.ofNat_toNat, BitVec.setWidth_eq]
      rfl
    cases b with
    | v n => exact hmov.of_low rfl low
    | k n => exact hmov.of_low rfl low
  | sel d a b c wide x =>
    obtain rfl := Option.some.inj hr
    refine computes_of_pure (e := selEntry c) rfl h rfl (by cases wide <;> rfl) (fun n j => ?_) rfl
    simp only [plainCtx_a64, plainCtx_b64, read64_asLane, Group.asLane_pGet_]
    rfl
  | _ => cases hr

/-- A predicate as a lane-by-lane computation gives it. -/
theorem ofNat_toNat_pred (b : Bool) : BitVec.ofNat 64 b.toNat = Spec.pred b := by cases b <;> rfl

theorem predicateOperations : Spec.PredicateOperations := by
  intro s iss g i r hr h
  cases i with
  | pand d a b x | por d a b x | pxor d a b x | pandn d a b x =>
    obtain rfl := Option.some.inj hr
    refine computes_of_pure rfl h rfl rfl (fun n j => ?_) rfl
    simp only [ofNat_toNat_pred, Ctx.predA, Ctx.predB, Group.asLane_pGet_]
    rfl
  | pget d a x =>
    obtain rfl := Option.some.inj hr
    refine computes_of_pure rfl h rfl rfl (fun n j => ?_) rfl
    simp only [ofNat_toNat_pred, Ctx.predA, Group.asLane_pGet_]
    rfl
  | ptest d a x =>
    obtain rfl := Option.some.inj hr
    refine computes_of_pure rfl h rfl rfl (fun n j => ?_) rfl
    simp only [ofNat_toNat_pred, plainCtx_a32, read32_asLane, registers_word]
    exact congrArg Spec.pred (Bool.eq_iff_iff.2 (bne_iff_ne.trans decide_eq_true_iff.symm))
  | pmask d b x =>
    obtain rfl := Option.some.inj hr
    refine computes_of_pure rfl h rfl rfl (fun n j => ?_) rfl
    simp only [ofNat_toNat_pred, Ctx.kB, Group.asLane_kGet_, bitAt_toNat]
    rfl
  | getlsw d x =>
    obtain rfl := Option.some.inj hr
    refine computes_of_pure rfl h rfl rfl (fun n j => ?_) rfl
    simp only [Group.asLane_lane_, BitVec.ofNat_toNat, BitVec.setWidth_eq]
    rfl
  | _ => cases hr

/-- Settles O18: what each lane computes is what its row states. -/
theorem movesAndPredicates : Obligations.MovesAndPredicates := ⟨movesAndSelection, predicateOperations⟩

end Sys2Proof.InstructionWords
end

section
/-!
SUPPORT. Issues that a fault ends: an instruction below its mode (R109), a tag that a slot does not accept (R106, R110), and an
engine that the role does not allow (R127).
-/

namespace Sys2Proof.Machine
open Sys2Proof

/-! ### Issues that a fault ends (R106, R109, R110, R127) -/

section
variable {s : State} {iss : Issue} {g : Group} {i : Instr} {e : Entry}

/-- An issue of which the machine traps every lane ends so, and does nothing else (R111). -/
theorem allTrap_of_trapAll (h : Spec.InHand s iss g) (hx : exec i s = serve i s e) {c : BitVec 8} {v : DWord}
    (ht : s.serveIssue iss g i e = s.trapAll iss c v (memIssueOf i || !iss.pfx.streams.isEmpty)) :
    Spec.AllTrap s iss g i c v := by
  have hend (j : Nat) (hj : j ∈ iss.lanes) : endOf (iss.lanes.map (fun i => (i, LaneEnd.trap c v))) j = .trap c v := by
    rw [endOf_map, if_pos hj]
  have hserve : serve i s e = .next (s.serveIssue iss g i e) := by simp only [serve, h.issue, h.group]
  obtain ⟨j, hj⟩ := List.exists_mem_of_ne_nil _ h.lanes
  obtain ⟨g', hg, hsame, hlanes, hout⟩ := State.endIssue_facts
    (mem := memIssueOf i || !iss.pfx.streams.isEmpty) (lines := 0) h.group (h.sorted.imp Nat.ne_of_lt) h.order
    (fun n hn => by
      obtain ⟨-, -, hm⟩ := h.live n hn
      rw [hend n hn, LaneEnd.handled, hm]
      exact h.handler)
    h.settled ⟨j, hj, (h.live j hj).1, LaneEnd.move_there (h.live j hj).2.1 ..⟩
  exact ⟨_, g', hx.trans (hserve.trans (congrArg _ ht)), hg, hsame,
    fun n => (hlanes n).trans (Group.endsAs_congr (fun hn => by rw [hend n hn])), hout⟩

/-- An instruction below its mode (R109). -/
theorem allTrap_of_mode (h : Spec.InHand s iss g) (hx : exec i s = serve i s e) (hm : iss.mode.num < e.mode.num) :
    Spec.AllTrap s iss g i causePriv (BitVec.ofNat 64 iss.iaddr) :=
  allTrap_of_trapAll h hx (if_pos hm)

/-- A slot with a tag that it does not accept, in an instruction of user mode (R106). -/
theorem allTrap_of_formatFault (h : Spec.InHand s iss g) (hx : exec i s = serve i s e) (hm : e.mode = .user) {v : DWord}
    (hf : State.formatFault g iss (s.slots g iss i)
      (e.ok (s.tagOf g iss i .a) (s.tagOf g iss i .b) (s.tagOf g iss i .c)) = some v) :
    Spec.AllTrap s iss g i causeFormat v := by
  have hlow : ¬ iss.mode.num < e.mode.num := by rw [hm]; exact Nat.not_lt_zero _
  unfold State.tagOf at hf
  exact allTrap_of_trapAll h hx (by simp only [State.serveIssue, if_neg hlow, hf])

/-- An instruction of user mode, whose slots accept every tag, and that the group's role does not allow (R127). -/
theorem allTrap_of_roleFault (h : Spec.InHand s iss g) (hx : exec i s = serve i s e) (hm : e.mode = .user)
    (hok : e.ok = fun _ _ _ _ => []) {v : DWord} (hf : roleFault g i iss.pfx = some v) :
    Spec.AllTrap s iss g i causeEngine v := by
  have hlow : ¬ iss.mode.num < e.mode.num := by rw [hm]; exact Nat.not_lt_zero _
  have hfmt : State.formatFault g iss (s.slots g iss i) (fun _ => []) = none := rfl
  exact allTrap_of_trapAll h hx (by simp only [State.serveIssue, if_neg hlow, hok, hfmt, hf])

/-! ### The tag check (R106, R110) -/

/-- A slot is bound to a pattern that is not set, and FORMAT gives it no tag. -/
def Group.unset (g : Group) (p : Prefixes) (sl : SlotName) : Bool :=
  match p.streamed sl with
  | some w => (tblFind g.w w).isNone && (p.formatted sl).isNone
  | none => false

/-- The tags that the machine checks in a slot are those it is found with. -/
theorem found_eq (sl : SlotName) : Spec.found s iss g i sl =
    if g.unset iss.pfx sl then [] else g.tagsOf iss.mode iss.pfx sl ((s.slots g iss i).slot sl) := by
  unfold Spec.found State.tagOf
  change (if g.unset iss.pfx sl then [] else _) = _
  cases (s.slots g iss i).slot sl with
  | pair n => cases hf : iss.pfx.formatted sl <;> simp only [Group.tagsOf, Group.slotTag, hf] <;> rfl
  | _ => rfl

/-- What a slot of an issue reports, in the words of the statements. -/
theorem slotFault_eq (ok : SlotName → List Tag) (sl : SlotName) :
    (if (ok sl).isEmpty then none else g.slotFault iss.mode iss.pfx sl ((s.slots g iss i).slot sl) (ok sl)) =
      (Spec.mismatch ok (Spec.found s iss g i) sl).map
        (fun p => BitVec.ofNat 64 (p.1.num + 2 ^ 4 * p.2.num + 2 ^ 8 * sl.num)) := by
  unfold Spec.mismatch
  cases ok sl with
  | nil => rfl
  | cons t ts =>
    rw [found_eq]
    change (if g.unset iss.pfx sl then none else _) = _
    cases g.unset iss.pfx sl with
    | true => rfl
    | false =>
      simp only [Bool.false_eq_true, if_false]
      cases List.find? _ _ <;> rfl

/-- The first slot of A, B, C and D that fails is the one reported. -/
theorem formatFault_first {ok : SlotName → List Tag} {n : Nat} {sl : SlotName} {u t : Tag}
    (hn : [SlotName.a, .b, .c, .d][n]? = some sl) (hf : Spec.mismatch ok (Spec.found s iss g i) sl = some (u, t))
    (hb : ∀ m sl', m < n → [SlotName.a, .b, .c, .d][m]? = some sl' →
      Spec.mismatch ok (Spec.found s iss g i) sl' = none) :
    State.formatFault g iss (s.slots g iss i) ok = some (BitVec.ofNat 64 (u.num + 2 ^ 4 * t.num + 2 ^ 8 * n)) := by
  have hnum : sl.num = n := by
    match n with
    | 0 | 1 | 2 | 3 => obtain rfl := Option.some.inj hn; rfl
    | n + 4 => cases hn
  have hsplit := List.take_append_drop n [SlotName.a, .b, .c, .d]
  obtain ⟨hlt, hget⟩ := List.getElem?_eq_some_iff.1 hn
  rw [List.drop_eq_getElem_cons hlt, hget] at hsplit
  simp only [State.formatFault, slotFault_eq]
  refine List.findSome?_eq_some_iff.2 ⟨_, sl, _, hsplit.symm, ?_, fun x hx => ?_⟩
  · rw [hf, Option.map_some, hnum]
  · obtain ⟨m, hm, rfl⟩ := List.mem_take_iff_getElem.1 hx
    rw [hb m _ (by omega) (List.getElem?_eq_getElem _), Option.map_none]

end

end Sys2Proof.Machine

namespace Sys2Proof.InstructionWords
open Sys2Proof Sys2Proof.Machine

/-! ### The tags that the rows accept are those of the instructions' descriptions (R106, R144) -/

/-- An instruction of user mode whose slots accept, with the tags it finds, what `ok` lists. -/
def AcceptsTags (s : State) (iss : Issue) (g : Group) (i : Instr) (ok : Tag → Tag → Tag → SlotName → List Tag) : Prop :=
  ∃ e : Entry, exec i s = serve i s e ∧ e.mode = .user ∧
    e.ok (s.tagOf g iss i .a) (s.tagOf g iss i .b) (s.tagOf g iss i .c) =
      ok (s.tagOf g iss i .a) (s.tagOf g iss i .b) (s.tagOf g iss i .c)

theorem intOk_32 : intOk 32 = Spec.ok32 := by
  funext ta tb tc sl
  cases ta <;> cases sl <;> rfl

theorem intOk_64 : intOk 64 = Spec.ok64 := by
  funext ta tb tc sl
  cases ta <;> cases sl <;> rfl

theorem floatType_eq (wide : Bool) (ta : Tag) : floatType wide ta = Spec.floatTy wide ta := by
  cases wide <;> cases ta <;> rfl

theorem floatTag_eq (ta : Tag) : (if ta = .f64 then Tag.f64 else Tag.f32) = Spec.floatTag (decide (ta = .f64)) := by
  cases ta <;> rfl

/-- A tag that slot A alone requires. -/
theorem onlyA_congr {t u : Tag} (h : t = u) :
    (fun sl : SlotName => if sl = .a then [t] else []) = fun sl => if sl = .a then [u] else [] := by rw [h]

section
variable {rd : Spec.Reads} {s : State} {iss : Issue} {g : Group} {i : Instr} {r : Spec.Row} {q : Spec.RowF}

theorem accepts_int32 {e : Entry} (hx : exec i s = serve i s e) (hm : e.mode = .user) (hok : e.ok = intOk 32) :
    AcceptsTags s iss g i Spec.ok32 := ⟨e, hx, hm, by rw [hok, intOk_32]⟩

theorem accepts_int64 {e : Entry} (hx : exec i s = serve i s e) (hm : e.mode = .user) (hok : e.ok = intOk 64) :
    AcceptsTags s iss g i Spec.ok64 := ⟨e, hx, hm, by rw [hok, intOk_64]⟩

theorem exactRow_accepts (h : Spec.exactRow rd s iss g i = some r) : AcceptsTags s iss g i r.ok := by
  cases i with
  | addI32 | subI32 | mulI32 | mulhiI32 | madI32 | minI32 | maxI32 | absI32 | negI32 | addiI32 | shlI32 | shrI32 | shliI32
  | shriI32 =>
    obtain rfl := Option.some.inj h
    exact accepts_int32 rfl rfl rfl
  | _ => cases h

theorem bitRow_accepts (h : Spec.bitRow rd s iss g i = some r) : AcceptsTags s iss g i r.ok := by
  cases i with
  | andI32 | orI32 | xorI32 | andnI32 | notI32 | rotlI32 | popcI32 | clzI32 | brevI32 | bfxI32 =>
    obtain rfl := Option.some.inj h
    exact accepts_int32 rfl rfl rfl
  | _ => cases h

theorem divRow_accepts (h : Spec.divRow rd s iss g i = some r) : AcceptsTags s iss g i r.ok := by
  cases i with
  | divI32 | remI32 =>
    obtain rfl := Option.some.inj h
    exact accepts_int32 rfl rfl rfl
  | _ => cases h

theorem widthRow_accepts (h : Spec.widthRow rd s iss g i = some r) : AcceptsTags s iss g i r.ok := by
  cases i with
  | extI64 | mulwI32 =>
    obtain rfl := Option.some.inj h
    exact accepts_int32 rfl rfl rfl
  | trnI32 =>
    obtain rfl := Option.some.inj h
    exact accepts_int64 rfl rfl rfl
  | lea d a b x =>
    obtain rfl := Option.some.inj h
    exact ⟨leaEntry (scaleOf x), rfl, rfl, funext fun sl => by cases sl <;> rfl⟩
  | _ => cases h

theorem compareRow_accepts (h : Spec.compareRow rd s iss g i = some r) : AcceptsTags s iss g i r.ok := by
  cases i with
  | cmpEqI32 | cmpNeI32 | cmpLtI32 | cmpLeI32 | cmpGtI32 | cmpGeI32 =>
    obtain rfl := Option.some.inj h
    exact accepts_int32 rfl rfl rfl
  | cmpI64 =>
    obtain rfl := Option.some.inj h
    exact accepts_int64 rfl rfl rfl
  | _ => cases h

theorem moveRow_accepts (h : Spec.moveRow rd s iss g i = some r) : AcceptsTags s iss g i r.ok := by
  cases i with
  | mov | sel =>
    obtain rfl := Option.some.inj h
    exact ⟨_, rfl, rfl, rfl⟩
  | _ => cases h

theorem row64_accepts (h : Spec.row64 rd s iss g i = some r) : AcceptsTags s iss g i r.ok := by
  cases i with
  | addI64 | subI64 | mulI64 | addiI64 | shlI64 | shrI64 =>
    obtain rfl := Option.some.inj h
    exact accepts_int64 rfl rfl rfl
  | _ => cases h

theorem predicateRow_accepts (h : Spec.predicateRow rd s iss g i = some r) : AcceptsTags s iss g i r.ok := by
  cases i with
  | pand | por | pxor | pandn | ptest | pmask | pget | getlsw =>
    obtain rfl := Option.some.inj h
    exact ⟨_, rfl, rfl, rfl⟩
  | _ => cases h

theorem laneReadRow_accepts (h : Spec.laneReadRow rd s iss g i = some r) : AcceptsTags s iss g i r.ok := by
  cases i with
  | xfrom | xrot | xstep | xflip =>
    obtain rfl := Option.some.inj h
    exact ⟨_, rfl, rfl, rfl⟩
  | _ => cases h

theorem voteRow_accepts (h : Spec.voteRow rd s iss g i = some r) : AcceptsTags s iss g i r.ok := by
  cases i with
  | pany | pevery | xsame | pcollect | xpeers | prank | xlow | xpack =>
    obtain rfl := Option.some.inj h
    exact ⟨_, rfl, rfl, rfl⟩
  | _ => cases h

theorem foldRow_accepts (h : Spec.foldRow rd s iss g i = some r) : AcceptsTags s iss g i r.ok := by
  cases i with
  | foldAddI32 | foldMinI32 | foldMaxI32 | foldAndI32 | foldOrI32 | scanIncI32 | scanExcI32 =>
    obtain rfl := Option.some.inj h
    exact accepts_int32 rfl rfl rfl
  | _ => cases h

theorem rngRow_accepts (h : Spec.rngRow rd s iss g i = some r) : AcceptsTags s iss g i r.ok := by
  cases i with
  | rng =>
    obtain rfl := Option.some.inj h
    exact ⟨rngEntry, rfl, rfl, rfl⟩
  | _ => cases h

theorem apertureRow_accepts (h : Spec.apertureRow rd s iss g i = some r) : AcceptsTags s iss g i r.ok := by
  cases i with
  | apconvT | apconvL | aptest =>
    obtain rfl := Option.some.inj h
    exact ⟨_, rfl, rfl, rfl⟩
  | wpos d a x =>
    obtain ⟨-, hr⟩ := Option.ite_none_left_eq_some.1 h
    obtain rfl := Option.some.inj hr
    exact ⟨wposEntry, rfl, rfl, rfl⟩
  | _ => cases h

theorem floatRow_accepts (h : Spec.floatRow rd s iss g i = some q) : AcceptsTags s iss g i q.ok := by
  have float {wide : Bool} {f} (hx : exec i s = serve i s (floatOp wide f)) : AcceptsTags s iss g i
      (fun _ _ _ sl => if sl = .d then [] else [Spec.floatTy wide (s.tagOf g iss i .a)]) :=
    ⟨_, hx, rfl, congrArg (fun t sl => if sl = SlotName.d then [] else [t]) (floatType_eq wide _)⟩
  cases i with
  | faddF32 | fsubF32 | fmulF32 | ffmaF32 | fdivF32 | fsqrtF32 | fminF32 | fmaxF32 | fminNanF32 | fmaxNanF32 | fabsF32 | fnegF32
  | frndF32 | faddF64 | fsubF64 | fmulF64 | ffmaF64 | fdivF64 | fsqrtF64 | fminF64 | fmaxF64 | fminNanF64 | fmaxNanF64 | fabsF64
  | fnegF64 | frndF64 =>
    obtain rfl := Option.some.inj h
    exact float rfl
  | _ => cases h

theorem fcmpRow_accepts (h : Spec.fcmpRow rd s iss g i = some q) : AcceptsTags s iss g i q.ok := by
  cases i with
  | fcmpF32 | fcmpF64 | ffuncF32 | ffuncF64 =>
    obtain rfl := Option.some.inj h
    exact ⟨_, rfl, rfl, rfl⟩
  | _ => cases h

theorem intSource_eq (ta : Tag) : intSource ta = if ta = .n32 ∨ ta = .i64 ∨ ta = .n64 then ta else .i32 := by
  cases ta <;> rfl

theorem floatSource_eq (ta : Tag) :
    floatSource ta = if ta ∈ [Tag.f64, .bf16x2, .f16x2, .tb8, .tb6, .tb4] then ta else .f32 := by
  cases ta <;> rfl

theorem convertRow_accepts (h : Spec.convertRow rd s iss g i = some q) : AcceptsTags s iss g i q.ok := by
  cases i with
  | cvtFI d a b x =>
    obtain rfl := Option.some.inj h
    exact ⟨cvtFIEntry b, rfl, rfl, onlyA_congr (intSource_eq _)⟩
  | cvtIF d a b x =>
    obtain rfl := Option.some.inj h
    exact ⟨cvtIFEntry b, rfl, rfl, onlyA_congr (floatTag_eq _)⟩
  | cvtFF d a b el x =>
    obtain ⟨-, hr⟩ := Option.ite_none_left_eq_some.1 h
    obtain rfl := Option.some.inj hr
    exact ⟨cvtFFEntry b el, rfl, rfl, onlyA_congr (floatSource_eq _)⟩
  | cvtBf16x2F32 | cvtF16x2F32 =>
    obtain rfl := Option.some.inj h
    exact ⟨_, rfl, rfl, rfl⟩
  | _ => cases h

theorem blockRow_accepts (h : Spec.blockRow rd s iss g i = some q) : AcceptsTags s iss g i q.ok := by
  cases i with
  | cvtTbF32 d a b x =>
    obtain rfl := Option.some.inj h
    exact ⟨cvtTbEntry b, rfl, rfl, rfl⟩
  | _ => cases h

theorem packTag_eq (ta : Tag) :
    packTag ta = (Spec.blockOf (if ta = .tb6 then .tb6 else if ta = .tb4 then .tb4 else .tb8)).2 := by
  cases ta <;> rfl

theorem blockFormRow_accepts (h : Spec.blockFormRow rd s iss g i = some r) : AcceptsTags s iss g i r.ok := by
  cases i with
  | fclass =>
    obtain rfl := Option.some.inj h
    exact ⟨fclassEntry, rfl, rfl, onlyA_congr (floatTag_eq _)⟩
  | tbpk =>
    obtain rfl := Option.some.inj h
    exact ⟨tbpkEntry, rfl, rfl, onlyA_congr (packTag_eq _)⟩
  | tbunpk d a b x =>
    obtain rfl := Option.some.inj h
    exact ⟨tbunpkEntry b, rfl, rfl, rfl⟩
  | _ => cases h

theorem classRow_accepts (h : Spec.classRow rd s iss g i = some r) : AcceptsTags s iss g i r.ok := by
  cases i with
  | fclass => exact blockFormRow_accepts h
  | _ => cases h

/-- A row that raises no flag accepts what it accepted. -/
theorem quiet_accepts {row : Spec.Reads → State → Issue → Group → Instr → Option Spec.Row}
    (hrow : ∀ {r : Spec.Row}, row rd s iss g i = some r → AcceptsTags s iss g i r.ok)
    (h : (row rd s iss g i).map Spec.Row.quiet = some q) : AcceptsTags s iss g i q.ok := by
  obtain ⟨r, hr, rfl⟩ := Option.map_eq_some_iff.1 h
  exact hrow hr

/-- One of two rows. -/
theorem or_accepts {x y : Option Spec.RowF} (hx : x = some q → AcceptsTags s iss g i q.ok)
    (hy : y = some q → AcceptsTags s iss g i q.ok)
    (h : x.or y = some q) : AcceptsTags s iss g i q.ok := by
  rcases Option.or_eq_some_iff.1 h with h | ⟨-, h⟩
  · exact hx h
  · exact hy h

theorem streamRow_accepts : Spec.streamRow rd s iss g i = some q → AcceptsTags s iss g i q.ok :=
  or_accepts (quiet_accepts exactRow_accepts) <| or_accepts (quiet_accepts bitRow_accepts) <|
    or_accepts (quiet_accepts divRow_accepts) <| or_accepts (quiet_accepts widthRow_accepts) <|
    or_accepts (quiet_accepts compareRow_accepts) <| or_accepts (quiet_accepts moveRow_accepts) <|
    or_accepts (quiet_accepts classRow_accepts) <| or_accepts floatRow_accepts <|
    or_accepts fcmpRow_accepts convertRow_accepts

/-- An instruction that computes lane by lane accepts what its row states. -/
theorem anyRow_accepts : Spec.anyRow rd s iss g i = some q → AcceptsTags s iss g i q.ok :=
  or_accepts streamRow_accepts <| or_accepts (quiet_accepts row64_accepts) <|
    or_accepts (quiet_accepts predicateRow_accepts) <| or_accepts (quiet_accepts laneReadRow_accepts) <|
    or_accepts (quiet_accepts voteRow_accepts) <| or_accepts (quiet_accepts foldRow_accepts) <|
    or_accepts (quiet_accepts rngRow_accepts) <| or_accepts blockRow_accepts <|
    or_accepts (quiet_accepts blockFormRow_accepts) (quiet_accepts apertureRow_accepts)

end

/-! ### Privilege and roles (R109, R127) -/

/-- An instruction that user mode may not execute has its lowest mode in its description (R344). -/
theorem lowest_entry (i : Instr) (h : Spec.lowest i ≠ .user) (s : State) :
    ∃ e : Entry, exec i s = serve i s e ∧ e.mode = Spec.lowest i := by
  cases i with
  | sret x => exact ⟨retEntry .supervisor Lane.xpcS, rfl, rfl⟩
  | hret x => exact ⟨retEntry .hypervisor Lane.xpcH, rfl, rfl⟩
  | ctlrd | ctlwr | lswrd | tinv | tprobe | evclr | errrd | lhalt | einj => exact ⟨_, rfl, rfl⟩
  | _ => exact absurd rfl h

/-- An instruction of the long space is one of user mode, and its slots accept every tag. -/
theorem longSpace_entry (i : Instr) (h : i.longSpace = true) (s : State) :
    ∃ e : Entry, exec i s = serve i s e ∧ e.mode = .user ∧ e.ok = fun _ _ _ _ => [] := by
  cases i with
  | mmaTb8 | mmaTb6 | mmaTb4 | mmaBf16 | mmaF16 | mmaF32 | mzero | mepi | mrel | msave | mload | wbal | wbld | mbias | mstat
  | mxset | asnRun | asnCont | asnBest | asnInv | asnStat | asnChk | fwr | frd | frdK | fatom | fsend | fevent | fstat | bopen
  | bpush | bclose | bstat | bfree => exact ⟨_, rfl, rfl, rfl⟩
  | _ => cases h

theorem isLong_of_longSpace {i : Instr} (h : i.longSpace = true) : i.isLong = true := by
  have hor : (!i.longSpace || i.isLong) = true := by cases i <;> rfl
  rwa [h] at hor

/-- The classes of the engines are those of the statement: their opcodes lie in order (R127). -/
theorem roleAllows_engine {i : Instr} (h : i.longSpace = true) (p : Prefixes) (role : Nat) :
    roleAllows role (roleClass i p) = true ↔ Spec.engineRole i role := by
  unfold roleClass Spec.engineRole
  simp only [h, if_true]
  by_cases h60 : i.opcode < 0x60
  · simp [h60, roleAllows, show i.opcode < 0x70 by omega]
  · by_cases h70 : i.opcode < 0x70 <;> simp [h60, h70, roleAllows]

/-- An engine's instruction outside its roles reports its opcode, its length and the role. -/
theorem roleFault_engine {g : Group} {i : Instr} {p : Prefixes} (h : i.longSpace = true)
    (hr : ¬ Spec.engineRole i g.role) :
    roleFault g i p = some (BitVec.ofNat 64 (i.opcode + 2 ^ 8 + 2 ^ 9 * g.role)) := by
  have hno : roleAllows g.role (roleClass i p) = false := by
    rw [← Bool.not_eq_true, roleAllows_engine h]
    exact hr
  simp [roleFault, hno, h, isLong_of_longSpace h]

/-- Settles O31: the machine checks the mode, the tags and the role in this order, and a check that fails ends the issue. -/
theorem issueFaults : Obligations.IssueFaults := by
  intro s iss g i h
  refine ⟨fun hlow => ?priv, ?format, fun hlong _ hrole => ?engine⟩
  case priv =>
    obtain ⟨e, hx, hm⟩ := lowest_entry i (fun hu => absurd hlow (by rw [hu]; exact Nat.not_lt_zero _)) s
    exact allTrap_of_mode h hx (hm ▸ hlow)
  case format =>
    intro r n sl u t hr fails hn hf hb
    obtain ⟨e, hx, hm, hok⟩ := anyRow_accepts hr
    exact allTrap_of_formatFault h hx hm (by rw [hok]; exact formatFault_first hn hf hb)
  case engine =>
    obtain ⟨e, hx, hm, hok⟩ := longSpace_entry i hlong s
    exact allTrap_of_roleFault h hx hm hok (roleFault_engine hlong hrole)

end Sys2Proof.InstructionWords
end

section
/-!
SUPPORT. The end of an issue that leaves an operation behind: what retires with it (R125), the group it leaves, and the
issues that are blocked; what a monitor touched by an access changes in its group (R301).
-/

namespace Sys2Proof.Machine
open Sys2Proof

/-! ### Retirement (R125, R394) -/

theorem retire_length_le (os : List Op) (held : List Cls) : (retire os held).1.length ≤ os.length := by
  induction os generalizing held with
  | nil => exact Nat.le_refl _
  | cons o os ih =>
    unfold retire
    split
    · exact Nat.le_succ_of_le (ih held)
    · exact Nat.succ_le_succ (ih (o.cls :: held))

/-- Where nothing retires, an operation added at the end retires only if it has ended and no older one of its class stands. -/
theorem retire_concat {os : List Op} {held : List Cls} (h : retire os held = (os, [])) (o : Op) (he : o.err = none) :
    retire (os ++ [o]) held =
      (if o.ended ∧ o.cls ∉ held ∧ (∀ p ∈ os, p.cls ≠ o.cls) then os else os ++ [o], []) := by
  induction os generalizing held with
  | nil =>
    cases hd : o.ended <;> by_cases hc : o.cls ∈ held <;> simp [retire, hd, hc, he]
  | cons p os ih =>
    have hstays : (p.ended && !held.contains p.cls) = false := by
      cases hp : (p.ended && !held.contains p.cls) with
      | false => rfl
      | true =>
        have hlen := retire_length_le os held
        rw [retire, if_pos hp] at h
        have hfst : (retire os held).1 = p :: os := congrArg Prod.fst h
        rw [hfst] at hlen
        exact absurd hlen (Nat.not_succ_le_self _)
    rw [retire, if_neg (by rw [hstays]; decide)] at h
    have htail : retire os (p.cls :: held) = (os, []) := by
      obtain ⟨hk, herr⟩ := Prod.mk.inj h
      exact Prod.ext (List.cons.inj hk).2 herr
    rw [List.cons_append, retire, if_neg (by rw [hstays]; decide), ih htail]
    by_cases hcls : p.cls = o.cls
    · simp [hcls]
    · have hiff : (o.ended ∧ o.cls ∉ held ∧ ∀ q ∈ p :: os, q.cls ≠ o.cls) ↔
          (o.ended ∧ o.cls ∉ p.cls :: held ∧ ∀ q ∈ os, q.cls ≠ o.cls) := by
        simp [hcls, Ne.symm hcls]
      simp only [hiff]
      split <;> rfl

/-- An operation that has not ended stays. -/
theorem retire_concat_pending {os : List Op} (h : retire os [] = (os, [])) (o : Op) (he : o.err = none) (hn : o.ended = false) :
    retire (os ++ [o]) [] = (os ++ [o], []) := by
  rw [retire_concat h o he, hn]
  rfl

/-- Retirement without errors keeps all of a group but its operations, while one of its lanes is there. -/
theorem Group.settle_there {g : Group} {keep : List Op} (h : retire g.ops [] = (keep, [])) (hx : g.allExited = false) :
    g.settle = { g with ops := keep } := by
  have e : g.settle = if { g with ops := keep }.allExited && keep.isEmpty then { g with ops := keep, freed := true }
      else { g with ops := keep } := by
    unfold Group.settle
    rw [h]
    rfl
  have hx' : { g with ops := keep }.allExited = false := hx
  rw [e, hx']
  rfl

/-! ### The end of an issue -/

theorem SameOutside.spend (s : State) (leaf k n gid : Nat) : SameOutside s (s.spend leaf k n) gid := by
  have hrest := State.spend_rest s leaf k n
  have hcores : (s.spend leaf k n).cores = s.cores := by have x := congrArg State.cores hrest; exact x
  refine ⟨?_, fun h _ => State.group_spend .., fun m => ?_, State.part_spend s leaf k n, fun a l => ?_⟩
  · generalize s.spend leaf k n = t at hrest
    cases s; cases t; simp_all
  · unfold State.core; rw [hcores]
  · refine State.readByte_congr ?_ ?_ ?_ (fun h => by rw [State.group_spend]) a l
    · have x := congrArg State.flight hrest; exact x
    · have x := congrArg State.mem hrest; exact x
    · have x := congrArg State.tiles hrest; exact x

theorem SameOutside.stamped (s : State) (n : Nat) (i : Option Issue) (gid : Nat) :
    SameOutside s { s with stamp := n, issue := i } gid :=
  ⟨rfl, fun _ _ => rfl, fun _ => rfl, fun _ => rfl, fun _ _ => rfl⟩

/-- The end of an issue up to the retirement of what has ended: lanes end, ages and measurements move on. -/
theorem State.endIssue_settles {s : State} {iss : Issue} {g : Group} {ends : List (Nat × LaneEnd)} (mem : Bool) (lines : Nat)
    (hg : s.group iss.gid = some g) (hn : iss.lanes.Nodup) (hc : iss.considered.Nodup)
    (he : ∀ i ∈ iss.lanes, (endOf ends i).handled g (g.lane i) = true) :
    ∃ t g', s.endIssue iss ends mem lines = t.settle iss.gid ∧ t.group iss.gid = some g' ∧ SameGroup g g' ∧
      (∀ j, g'.lane j = g.endsAs iss j ((endOf ends j).move g iss (g.lane j))) ∧ SameOutside s t iss.gid := by
  obtain ⟨g1, hu, hrest, hlanes⟩ := State.endLanes_upd ends iss.lanes hn he
    (show (s.spend g.leaf 0 1).group iss.gid = some g by rw [State.group_spend, hg])
  have hs : s.endIssue iss ends mem lines =
      (let s1 := iss.lanes.foldl (fun s i => s.endLane iss i (endOf ends i)) (s.spend g.leaf 0 1)
      let s2 := s1.modGroup iss.gid (fun g =>
        { g.ageAll iss with meas := g.meas.add iss mem lines, lastIssue := s1.stamp + 1 })
      let s3 := (s2.countEvent g.core 2 1).countEvent g.core 3 iss.lanes.length
      { s3 with stamp := s3.stamp + 1, issue := none }.settle iss.gid) := by
    unfold State.endIssue
    rw [hg]
  generalize iss.lanes.foldl (fun s i => s.endLane iss i (endOf ends i)) (s.spend g.leaf 0 1) = s1 at hu hs
  have hage := Group.ageAll_rest g1 iss
  have hu2 := ((hu.modGroup (fun g =>
    { g.ageAll iss with meas := g.meas.add iss mem lines, lastIssue := s1.stamp + 1 })).countEvent g.core 2 1).countEvent
      g.core 3 iss.lanes.length
  refine ⟨_, _, hs, hu2.group, ?_, fun j => ?_, ?_⟩
  · show { g1.ageAll iss with lanes := g.lanes, meas := g.meas, lastIssue := g.lastIssue } = g
    generalize g1.ageAll iss = x at hage
    cases g; cases g1; cases x; simp_all
  · show (g1.ageAll iss).lane j = _
    rw [Group.lane_ageAll g1 iss hn hc j]
    unfold Group.endsAs
    rw [hlanes]
    by_cases h : j ∈ iss.lanes <;> simp [h]
  · have hlocal : (g1.ageAll iss).local_ = g.local_ := by
      have x := congrArg Group.local_ hage
      have y := congrArg Group.local_ hrest
      exact (show (g1.ageAll iss).local_ = g1.local_ from x).trans y
    exact ((SameOutside.spend s g.leaf 0 1 iss.gid).trans (hu2.outside (by rw [State.group_spend, hg]) hlocal)).trans
      (SameOutside.stamped ..)

/-- The end of an issue whose traps have handlers, where `keep` of the group's operations stay and those that leave met no error. -/
theorem State.endIssue_keeps {s : State} {iss : Issue} {g : Group} {ends : List (Nat × LaneEnd)} (mem : Bool) (lines : Nat)
    {keep : List Op} (hg : s.group iss.gid = some g) (hn : iss.lanes.Nodup) (hc : iss.considered.Nodup)
    (he : ∀ i ∈ iss.lanes, (endOf ends i).handled g (g.lane i) = true) (hr : retire g.ops [] = (keep, []))
    (hl : ∃ j ∈ iss.lanes, j < 32 ∧ (((endOf ends j).move g iss (g.lane j)).absent ||
      ((endOf ends j).move g iss (g.lane j)).exited) = false) :
    ∃ g', (s.endIssue iss ends mem lines).group iss.gid = some g' ∧ SameGroup { g with ops := keep } g' ∧
      (∀ j, g'.lane j = g.endsAs iss j ((endOf ends j).move g iss (g.lane j))) ∧
      SameOutside s (s.endIssue iss ends mem lines) iss.gid := by
  obtain ⟨t, g1, hs, hg1, hsame, hlanes, hout⟩ := State.endIssue_settles mem lines hg hn hc he
  have hops : g1.ops = g.ops := by have x := congrArg Group.ops hsame; exact x
  have hthere : g1.allExited = false := by
    obtain ⟨j, hj, h32, hx⟩ := hl
    refine Group.allExited_false h32 ?_
    rw [hlanes j, Group.endsAs, if_pos hj]
    exact hx
  have hsettle : g1.settle = { g1 with ops := keep } := Group.settle_there (by rw [hops]; exact hr) hthere
  have hu : Upd t (t.settle iss.gid) iss.gid { g1 with ops := keep } := hsettle ▸ (Upd.refl hg1).modGroup Group.settle
  have hsame' : SameGroup { g with ops := keep } { g1 with ops := keep } := by
    have x := congrArg (fun x : Group => { x with ops := keep }) hsame; exact x
  rw [hs]
  exact ⟨_, hu.group, hsame', hlanes, hout.trans (hu.outside hg1 rfl)⟩

/-! ### Issues served -/

section
variable {s s1 : State} {iss : Issue} {g g1 : Group} {i : Instr} {e : Entry} {ends : List (Nat × LaneEnd)}

/-- The tag that an instruction leaves in slot D: none where every lane of its issue set traps (R106). -/
def leftTag (iss : Issue) (ends : List (Nat × LaneEnd)) (t : Option Tag) : Option Tag :=
  if iss.lanes.all (fun j => (endOf ends j).isTrap) then none else t

theorem leftTag_none (iss : Issue) (ends : List (Nat × LaneEnd)) : leftTag iss ends none = none := by
  unfold leftTag
  split <;> rfl

theorem leftTag_of_not_trap {iss : Issue} {ends : List (Nat × LaneEnd)} {j : Nat} (hj : j ∈ iss.lanes)
    (h : (endOf ends j).isTrap = false) (t : Option Tag) : leftTag iss ends t = t := by
  unfold leftTag
  rw [if_neg]
  intro hall
  have hall := List.all_eq_true.1 hall j hj
  rw [h] at hall
  cases hall

theorem leftTag_past {iss : Issue} (h : iss.lanes ≠ []) (t : Option Tag) : leftTag iss [] t = t := by
  obtain ⟨j, hj⟩ := List.exists_mem_of_ne_nil _ h
  exact leftTag_of_not_trap hj rfl t

theorem tagged_lane (s : State) (iss : Issue) (g : Group) (i : Instr) (t : Option Tag) (g1 : Group) (j : Nat) :
    (tagged s iss g i t g1).lane j = g1.lane j := by
  have hlanes : (tagged s iss g i t g1).lanes = g1.lanes := by
    have y := congrArg Group.lanes (tagged_rest s iss g i t g1); exact y
  unfold Group.lane
  rw [hlanes]

/-- How a lane ends is a matter of its own. -/
theorem Group.endsAs_of_lane {g g1 : Group} {iss : Issue} {j : Nat} (h : g1.lane j = g.lane j) (l : Lane) :
    g1.endsAs iss j l = g.endsAs iss j l := by
  unfold Group.endsAs
  rw [h]

/-- The lane is of its group: it is not absent and has not exited. -/
def Lane.There (l : Lane) : Prop := (l.absent || l.exited) = false

theorem Lane.there_of_live {l : Lane} (h : l.live = true) : l.There := by
  unfold Lane.live at h
  unfold Lane.There
  cases hA : l.absent <;> cases hE : l.exited <;> simp_all

theorem Lane.There.move {l : Lane} (h : l.There) (d : LaneEnd) (g : Group) (iss : Issue) : (d.move g iss l).There := by
  obtain ⟨ha, he⟩ := LaneEnd.move_live d g iss l
  unfold Lane.There at h ⊢
  rw [ha, he]
  exact h

/-- A free issue whose body leaves group `g1`, of whose operations `keep` stay. -/
theorem endsIn_of_done (hx : exec i s = serve i s e) (h : Free s iss g i e.mode e.ok e.cls) {t : Option Tag}
    {lines : List Nat} {keep : List Op}
    (hb : e.body (s.plainCtx iss g i) s (g.asLane ((s.plainCtx iss g i).lowest.getD 0)) = .done s1 ends t lines)
    (hg : s1.group iss.gid = some g1) (hh : ∀ j ∈ iss.lanes, (endOf ends j).handled g1 (g1.lane j) = true)
    (hr : retire g1.ops [] = (keep, [])) (hl : ∀ j ∈ iss.lanes, (g1.lane j).There) :
    EndsIn s iss i s1 (tagged s iss g i (leftTag iss ends t) { g1 with ops := keep })
      (fun j => (endOf ends j).move g1 iss (g1.lane j)) := by
  obtain ⟨s2, hu, hserve⟩ : ∃ s2, Upd s1 s2 iss.gid (tagged s iss g i (leftTag iss ends t) g1) ∧
      serve i s e = .next (s2.endIssue iss ends (memIssueOf i) (if memIssueOf i then (distinct lines).length else 0)) := by
    rw [serve_free h hb]
    cases t with
    | none => rw [leftTag_none]; exact ⟨s1, Upd.refl hg, rfl⟩
    | some t =>
      unfold leftTag
      dsimp only
      split
      · exact ⟨s1, Upd.refl hg, rfl⟩
      · exact ⟨_, (Upd.refl hg).modGroup _, rfl⟩
  have hrest := tagged_rest s iss g i (leftTag iss ends t) g1
  have hkeep : { tagged s iss g i (leftTag iss ends t) g1 with ops := keep } =
      tagged s iss g i (leftTag iss ends t) { g1 with ops := keep } := by
    cases leftTag iss ends t with
    | none => rfl
    | some t => cases hd : (s.slots g iss i).d <;> simp only [tagged, hd] <;> rfl
  generalize tagged s iss g i (leftTag iss ends t) g1 = g2 at hu hrest hkeep
  have hlanes : g2.lanes = g1.lanes := by have x := congrArg Group.lanes hrest; exact x
  have hops : g2.ops = g1.ops := by have x := congrArg Group.ops hrest; exact x
  have hlocal : g2.local_ = g1.local_ := by have x := congrArg Group.local_ hrest; exact x
  have hlane (j : Nat) : g2.lane j = g1.lane j := by unfold Group.lane; rw [hlanes]
  have htrap (m : Mode) : trapMode g2 m = trapMode g1 m := by
    have a : g2.tvecS = g1.tvecS := by have x := congrArg Group.tvecS hrest; exact x
    have b : g2.tvecH = g1.tvecH := by have x := congrArg Group.tvecH hrest; exact x
    unfold trapMode
    rw [a, b]
  have hmove (d : LaneEnd) (l : Lane) : d.move g2 iss l = d.move g1 iss l := by
    cases d <;> simp only [LaneEnd.move, htrap]
  have hhand (d : LaneEnd) (l : Lane) : d.handled g2 l = d.handled g1 l := by
    cases d <;> simp only [LaneEnd.handled, htrap]
  obtain ⟨j0, hj0⟩ := List.exists_mem_of_ne_nil _ h.lanes
  obtain ⟨g3, hg3, hsame, hlane3, hout⟩ := State.endIssue_keeps (memIssueOf i)
    (if memIssueOf i then (distinct lines).length else 0) hu.group h.nodup h.order
    (fun j hj => by rw [hhand, hlane]; exact hh j hj) (by rw [hops]; exact hr)
    ⟨j0, hj0, (h.live j0 hj0).1, Lane.There.move (by rw [hlane]; exact hl j0 hj0) ..⟩
  refine ⟨_, g3, hx.trans hserve, hg3, hkeep ▸ hsame, fun j => ?_, (hu.outside hg hlocal).trans hout⟩
  rw [hlane3]
  have hlane' : (tagged s iss g i (leftTag iss ends t) { g1 with ops := keep }).lane j = g2.lane j := by
    rw [← hkeep]; rfl
  unfold Group.endsAs
  rw [hlane', hmove, hlane]

/-- A blocked issue leaves the state as it was (R118). -/
theorem serve_blocked (h : Free s iss g i e.mode e.ok e.cls)
    (hb : e.body (s.plainCtx iss g i) s (g.asLane ((s.plainCtx iss g i).lowest.getD 0)) = .blocked) :
    serve i s e = .next { s with issue := none } := by
  have hm : ¬ iss.mode.num < e.mode.num := Nat.not_lt.2 h.mode
  have ht := h.tags
  unfold State.tagOf at ht
  unfold State.plainCtx State.tagOf Group.activeLanes at hb
  have hx (l : List Nat) : l.filter (fun _ => true) = l := List.filter_eq_self.2 (fun _ _ => rfl)
  unfold serve
  simp only [h.issue, h.group]
  unfold State.serveIssue
  simp only [if_neg hm, ht, h.role, h.ready, h.clean, State.readBad_nil, State.readAs_nil, Bool.false_and, h.plain, List.foldl_nil,
    Streams.values, List.find?_nil, Bool.false_eq_true, if_false, h.group, Option.getD_some, List.any_nil, Bool.not_false, hx,
    hb, List.isEmpty_nil, Bool.not_true, Bool.or_false]

/-- The lanes of the issue set are there in a group that has them as they were. -/
theorem Free.lanes_there {low : Mode} {ok : Tag → Tag → Tag → SlotName → List Tag} {cls : Option Cls}
    (h : Free s iss g i low ok cls) (hlane : ∀ j ∈ iss.lanes, g1.lane j = g.lane j) : ∀ j ∈ iss.lanes, (g1.lane j).There :=
  fun j hj => by rw [hlane j hj]; exact Lane.there_of_live (h.live j hj).2.1

/-- The operations of a group that takes a further one, which has not ended. -/
theorem retire_withOp {g : Group} (h : retire g.ops [] = (g.ops, [])) (c : Cls) (k : OpKind) (opc : Nat) :
    retire (Spec.withOp g c k opc).ops [] = ((Spec.withOp g c k opc).ops, []) :=
  retire_concat_pending h _ rfl rfl

/-- Those of one that takes an operation which has ended at once. -/
theorem retire_empty {g : Group} (h : retire g.ops [] = (g.ops, [])) (c : Cls) :
    retire (g.ops ++ [{ id := g.nextOp, cls := c, kind := .empty, ended := true }]) [] = ((Spec.withEmpty g c).ops, []) := by
  rw [retire_concat h _ rfl]
  simp only [true_and, List.not_mem_nil, not_false_eq_true]
  rfl

theorem tagged_none (s : State) (iss : Issue) (g : Group) (i : Instr) (g1 : Group) : tagged s iss g i none g1 = g1 := rfl

/-- A free issue that adds an operation to a group `g1`, and after which every lane goes on. -/
theorem endsIn_of_addOp (hx : exec i s = serve i s e) (h : Free s iss g i e.mode e.ok e.cls) {t : Option Tag}
    {lines : List Nat} {c : Cls} {k : OpKind} {opc : Nat}
    (hb : e.body (s.plainCtx iss g i) s (g.asLane ((s.plainCtx iss g i).lowest.getD 0)) =
      .done (s1.addOp iss.gid c k opc) [] t lines)
    (hg : s1.group iss.gid = some g1) (hr : retire g1.ops [] = (g1.ops, [])) (hl : ∀ j ∈ iss.lanes, (g1.lane j).There) :
    EndsIn s iss i s1 (tagged s iss g i t (Spec.withOp g1 c k opc)) (fun j => (g1.lane j).pass iss) := by
  have hu : Upd s1 (s1.addOp iss.gid c k opc) iss.gid (Spec.withOp g1 c k opc) := (Upd.refl hg).modGroup _
  obtain ⟨s', g', hs, hg', hsame, hlanes, hout⟩ := endsIn_of_done hx h hb hu.group (fun _ _ => rfl)
    (retire_withOp hr c k opc) hl
  rw [leftTag_past h.lanes] at hsame hlanes
  exact ⟨s', g', hs, hg', hsame, hlanes, (hu.outside hg rfl).trans hout⟩

/-- A free issue with an operation that has ended at once (R125). -/
theorem endsIn_of_addEmpty (hx : exec i s = serve i s e) (h : Free s iss g i e.mode e.ok e.cls) {t : Option Tag}
    {lines : List Nat} {c : Cls}
    (hb : e.body (s.plainCtx iss g i) s (g.asLane ((s.plainCtx iss g i).lowest.getD 0)) = .done (s.addEmpty iss.gid c) [] t lines) :
    EndsIn s iss i s (tagged s iss g i t (Spec.withEmpty g c)) (fun j => (g.lane j).pass iss) := by
  have hu : Upd s (s.addEmpty iss.gid c) iss.gid
      { g with ops := g.ops ++ [{ id := g.nextOp, cls := c, kind := .empty, ended := true }], nextOp := g.nextOp + 1 } :=
    (Upd.refl h.group).modGroup _
  obtain ⟨s', g', hs, hg', hsame, hlanes, hout⟩ := endsIn_of_done hx h hb hu.group (fun _ _ => rfl)
    (retire_empty h.settled c) (h.lanes_there (fun _ _ => rfl))
  rw [leftTag_past h.lanes] at hsame hlanes
  exact ⟨s', g', hs, hg', hsame, hlanes, (hu.outside h.group rfl).trans hout⟩

/-- A free issue that changes nothing and whose guard-active lanes take one trap. -/
theorem endsIn_of_trapActive (hx : exec i s = serve i s e) (h : Free s iss g i e.mode e.ok e.cls)
    (hm : (trapMode g iss.mode).isSome = true) {c : BitVec 8} {v : DWord}
    (hb : e.body (s.plainCtx iss g i) s (g.asLane ((s.plainCtx iss g i).lowest.getD 0)) = trapActive (s.plainCtx iss g i) s c v) :
    EndsIn s iss i s g (fun j => if j ∈ g.activeLanes iss i then (LaneEnd.trap c v).move g iss (g.lane j)
      else (g.lane j).pass iss) := by
  have hends (j : Nat) : endOf ((s.plainCtx iss g i).active.map (fun j => (j, LaneEnd.trap c v))) j =
      if j ∈ g.activeLanes iss i then .trap c v else .past := endOf_map j
  refine endsIn_of_ends hx h hb (fun j hj => ?_) (fun j hj => ?_)
  · rw [hends]
    split
    · rw [LaneEnd.handled, (h.live j hj).2.2]; exact hm
    · rfl
  · rw [hends]
    split <;> rfl

end

/-! ### Groups whose monitor an access may touch (R301) -/

/-- The group, but for its monitor, the lanes parked in `mwait` that its touch has released, and the units it has fetched. -/
structure Group.Woken (g g1 : Group) : Prop where
  rest : { g1 with mon := g.mon, lanes := g.lanes, icache := g.icache } = g
  live : ∀ j, (g.lane j).live = true → g1.lane j = g.lane j
  there : ∀ j, (g1.lane j).absent = (g.lane j).absent ∧ (g1.lane j).exited = (g.lane j).exited

theorem Group.Woken.refl (g : Group) : g.Woken g := ⟨rfl, fun _ _ => rfl, fun _ => ⟨rfl, rfl⟩⟩

theorem Group.Woken.trans {g g1 g2 : Group} (h : g.Woken g1) (h' : g1.Woken g2) : g.Woken g2 := by
  refine ⟨?_, fun j hj => ?_, fun j => ?_⟩
  · have a := h.rest
    have b := h'.rest
    generalize g.mon = m, g.lanes = ls, g.icache = ic at *
    cases g; cases g1; cases g2; simp_all
  · have e := h.live j hj
    exact (h'.live j (by rw [e]; exact hj)).trans e
  · exact ⟨(h'.there j).1.trans (h.there j).1, (h'.there j).2.trans (h.there j).2⟩

theorem Lane.unparkMonitor_of_live {l : Lane} (h : l.live = true) : l.unparkMonitor = l := by
  unfold Lane.unparkMonitor
  rw [if_neg]
  intro hp
  simp [Lane.live, Lane.parked, hp] at h

theorem Lane.unparkMonitor_there (l : Lane) : l.unparkMonitor.absent = l.absent ∧ l.unparkMonitor.exited = l.exited := by
  unfold Lane.unparkMonitor
  split
  · dsimp only
    split
    · cases l.mode <;> exact ⟨rfl, rfl⟩
    · exact ⟨rfl, rfl⟩
  · exact ⟨rfl, rfl⟩

theorem Group.lane_unparkAll (g : Group) (m : Monitor) (j : Nat) :
    ({ g with mon := m, lanes := g.lanes.map (fun p => (p.1, p.2.unparkMonitor)) } : Group).lane j = (g.lane j).unparkMonitor := by
  unfold Group.lane tblGet
  dsimp only
  rw [tblFind_map g.lanes (fun p => (p.1, p.2.unparkMonitor)) (fun _ => rfl) j]
  cases tblFind g.lanes j <;> rfl

theorem Group.touch_woken (g : Group) : g.Woken g.touch := by
  unfold Group.touch
  split
  · refine ⟨rfl, fun j hj => ?_, fun j => ?_⟩
    · rw [Group.lane_unparkAll, Lane.unparkMonitor_of_live hj]
    · rw [Group.lane_unparkAll]
      exact Lane.unparkMonitor_there _
  · exact ⟨rfl, fun _ _ => rfl, fun _ => ⟨rfl, rfl⟩⟩

/-- Every group stands, woken or as it was. -/
structure State.Wakes (s t : State) : Prop where
  woken : ∀ gid g, s.group gid = some g → ∃ g1, t.group gid = some g1 ∧ g.Woken g1

theorem State.Wakes.of_groups {s t : State} (h : t.groups = s.groups) : s.Wakes t :=
  ⟨fun gid g hg => ⟨g, by unfold State.group at hg ⊢; rw [h, hg], .refl g⟩⟩

theorem State.Wakes.refl (s : State) : s.Wakes s := .of_groups rfl

theorem State.Wakes.trans {s t u : State} (h : s.Wakes t) (h' : t.Wakes u) : s.Wakes u := by
  refine ⟨fun gid g hg => ?_⟩
  obtain ⟨g1, hg1, hw1⟩ := h.woken gid g hg
  obtain ⟨g2, hg2, hw2⟩ := h'.woken gid g1 hg1
  exact ⟨g2, hg2, hw1.trans hw2⟩

/-- Groups of which some are touched. -/
theorem State.Wakes.of_touched {s t : State} (p : Nat × Group → Bool)
    (h : t.groups = s.groups.map (fun x => if p x then (x.1, x.2.touch) else x)) : s.Wakes t := by
  refine ⟨fun gid g hg => ?_⟩
  unfold State.group at hg ⊢
  rw [h, tblFind_map _ _ (fun x => by split <;> rfl), hg]
  dsimp only [Option.map]
  split
  · exact ⟨_, rfl, Group.touch_woken g⟩
  · exact ⟨_, rfl, .refl g⟩

theorem State.putMem_wakes (s : State) (a : Nat) (bs : List Byte) : s.Wakes (s.putMem a bs) := .of_touched _ rfl

theorem State.askError_wakes (s : State) (leaf : Nat) : s.Wakes (s.askError leaf) := by
  unfold State.askError
  split
  · unfold State.askAssist
    dsimp only
    split
    · rename_i s2 r hr
      unfold State.mgmtRecord at hr
      split at hr
      · cases hr
      · cases hr
        exact ⟨(State.putMem_wakes s _ _).woken⟩
    · exact .of_groups rfl
  · exact .refl s

theorem State.meet_wakes (s : State) (launch leaf : Nat) (l : Loc) : s.Wakes (s.meet launch leaf l) := by
  unfold State.meet
  split
  · rename_i n _
    dsimp only
    split
    · split
      · refine State.Wakes.trans ?_ (State.askError_wakes _ leaf)
        exact .of_groups rfl
      · exact .of_groups rfl
    · split
      · refine State.Wakes.trans ?_ (State.askError_wakes _ leaf)
        exact .of_groups rfl
      · exact .refl s
  · exact .refl s

theorem State.meetEntries_wakes (es : List TlbEntry) (s : State) (launch leaf : Nat) : s.Wakes (s.meetEntries launch leaf es) := by
  induction es generalizing s with
  | nil => exact .refl s
  | cons e es ih => exact (State.meet_wakes s launch leaf _).trans (ih _)

theorem State.spend_groups (s : State) (leaf k n : Nat) : (s.spend leaf k n).groups = s.groups := by
  have x := congrArg State.groups (State.spend_rest s leaf k n); exact x

theorem State.noteWalk_wakes (s : State) (x : Xlate) (launch va : Nat) (es : List TlbEntry) (out : Option Nat) :
    s.Wakes (s.noteWalk x launch va es out) := by
  unfold State.noteWalk
  split
  · exact .refl s
  · dsimp only
    split
    · exact .refl s
    · refine State.Wakes.trans ?_ (.of_groups (State.spend_groups ..))
      refine State.Wakes.trans ?_ (State.meetEntries_wakes ..)
      exact .of_groups rfl

/-- An access whose lanes all pass their checks gives every lane its place, in order, and wakes what its walks touch. -/
theorem State.accessLanes_pass {s s1 : State} {c : Ctx} {h : Group} {size align : Nat} {n : Need} {as : List (Nat × DWord)}
    {oks : List (Nat × Loc × DWord)} (hs : s.accessLanes c h size align n as = (s1, [], oks)) :
    s.Wakes s1 ∧ oks.map (fun p => (p.1, p.2.2)) = as := by
  induction as generalizing s oks with
  | nil =>
    cases hs
    exact ⟨.refl _, rfl⟩
  | cons x as ih =>
    obtain ⟨j, a⟩ := x
    unfold State.accessLanes at hs
    cases ha : s.accessLane c h j a size align n with
    | mk s2 r =>
      rw [ha] at hs
      cases r with
      | error e => cases hs
      | ok l =>
        cases hr : s2.accessLanes c h size align n as with
        | mk s3 r =>
          obtain ⟨es, oks3⟩ := r
          simp only [hr] at hs
          cases hs
          obtain ⟨hw, hoks⟩ := ih hr
          refine ⟨State.Wakes.trans ?_ hw, by rw [List.map_cons, hoks]⟩
          unfold State.accessLane at ha
          dsimp only at ha
          split at ha
          · rename_i hl
            cases ha
            unfold State.noteCheck
            rw [hl]
            exact State.noteWalk_wakes ..
          · cases ha
          · split at ha <;> cases ha
          · cases ha

section
variable {g g1 : Group} (h : g.Woken g1)
include h

theorem Group.Woken.ops : g1.ops = g.ops := by have x := congrArg Group.ops h.rest; exact x
theorem Group.Woken.nextOp : g1.nextOp = g.nextOp := by have x := congrArg Group.nextOp h.rest; exact x
theorem Group.Woken.local_ : g1.local_ = g.local_ := by have x := congrArg Group.local_ h.rest; exact x
theorem Group.Woken.vtag : g1.vtag = g.vtag := by have x := congrArg Group.vtag h.rest; exact x
theorem Group.Woken.launch : g1.launch = g.launch := by have x := congrArg Group.launch h.rest; exact x

theorem Group.Woken.trapMode (m : Mode) : Machine.trapMode g1 m = Machine.trapMode g m := by
  have a : g1.tvecS = g.tvecS := by have x := congrArg Group.tvecS h.rest; exact x
  have b : g1.tvecH = g.tvecH := by have x := congrArg Group.tvecH h.rest; exact x
  unfold Machine.trapMode
  rw [a, b]

theorem Group.Woken.move (d : LaneEnd) (iss : Issue) (l : Lane) : d.move g1 iss l = d.move g iss l := by
  cases d <;> simp only [LaneEnd.move, h.trapMode]

theorem Group.Woken.handled (d : LaneEnd) (l : Lane) : d.handled g1 l = d.handled g l := by
  cases d <;> simp only [LaneEnd.handled, h.trapMode]

end

/-- The lanes of the issue set stand as they were in a group that has been woken. -/
theorem Free.lane_woken {s : State} {iss : Issue} {g g1 : Group} {i : Instr} {low : Mode}
    {ok : Tag → Tag → Tag → SlotName → List Tag} {cls : Option Cls} (h : Free s iss g i low ok cls) (hw : g.Woken g1) {j : Nat}
    (hj : j ∈ iss.lanes) : g1.lane j = g.lane j := hw.live j (h.live j hj).2.1

theorem Free.settled_woken {s : State} {iss : Issue} {g g1 : Group} {i : Instr} {low : Mode}
    {ok : Tag → Tag → Tag → SlotName → List Tag} {cls : Option Cls} (h : Free s iss g i low ok cls) (hw : g.Woken g1) :
    retire g1.ops [] = (g1.ops, []) := by rw [hw.ops]; exact h.settled

end Sys2Proof.Machine

namespace Sys2Proof.Machine
open Sys2Proof

/-! ### Readings of a completed issue -/

/-- An issue that completes with group `g1` beside `s1` completes with `g2` beside `s2`, where the two differ in nothing but lanes
that end alike. -/
theorem EndsIn.as {s s1 s2 : State} {iss : Issue} {i : Instr} {g1 g2 : Group} {e1 e2 : Nat → Lane}
    (h : EndsIn s iss i s1 g1 e1) (hrest : { g1 with lanes := g2.lanes } = g2)
    (hlanes : ∀ j, g1.endsAs iss j (e1 j) = g2.endsAs iss j (e2 j)) (hout : SameOutside s2 s1 iss.gid) :
    EndsIn s iss i s2 g2 e2 := by
  obtain ⟨s', g', hs, hg, hsame, hl, ho⟩ := h
  exact ⟨s', g', hs, hg, hsame.of_lanes hrest, fun j => (hl j).trans (hlanes j), hout.trans ho⟩

theorem Group.asLane_eq (g : Group) (n : Nat) : ∃ ps, g.asLane n = { g with pieces := ps } := by
  unfold Group.asLane
  dsimp only
  split
  · exact ⟨g.pieces, rfl⟩
  · exact ⟨_, rfl⟩

@[simp] theorem Group.asLane_count (g : Group) (n : Nat) (c : Cls) : (g.asLane n).count c = g.count c := by
  unfold Group.count
  rw [Group.asLane_ops]

@[simp] theorem State.trapFlags_asLane (s : State) (g : Group) (n : Nat) : s.trapFlags (g.asLane n) = s.trapFlags g := by
  unfold State.trapFlags State.launchOf
  rw [Group.asLane_launch]

/-! ### wait (R137, R307, R394) -/

theorem lt_15_iff (l : BitVec 4) : l.toNat ≤ 14 ↔ l ≠ 15 := by
  have hlt := l.isLt
  constructor
  · rintro h rfl
    exact absurd h (by decide)
  · intro h
    by_contra hc
    exact h (BitVec.eq_of_toNat_eq (by show l.toNat = 15; omega))

theorem limitMet_iff (l : BitVec 4) (n : Nat) : limitMet l.toNat n = true ↔ Spec.within l n := by
  have h15 := lt_15_iff l
  have hlt := l.isLt
  simp only [limitMet, Spec.within, Bool.or_eq_true, beq_iff_eq, decide_eq_true_eq]
  by_cases h : l = 15
  · subst h
    exact iff_of_true (.inl rfl) (.inl rfl)
  · have hle := h15.2 h
    simp only [h, false_or]
    omega

theorem waitMet_iff (g : Group) (ur tx cp st ld : BitVec 4) :
    (limitMet ur.toNat (g.count .ur) && limitMet tx.toNat (g.count .tx) && limitMet cp.toNat (g.count .cp) &&
      limitMet st.toNat (g.count .st) && limitMet ld.toNat (g.count .ld)) = true ↔ Spec.waitMet g ur tx cp st ld := by
  simp only [Bool.and_eq_true, limitMet_iff, Spec.waitMet, and_assoc]

/-- A group but for the errors that are pending. -/
def Group.SameButErrors (g h : Group) : Prop :=
  { h with pendST := g.pendST, pendCP := g.pendCP, pendTX := g.pendTX } = g

/-- The error that a `wait` takes is of the first class, in the order ST, CP, TX, that it waits for (R394). -/
theorem Group.deliver_eq (g : Group) (st cp tx : Nat) : g.deliver st cp tx =
    if st ≤ 14 ∧ g.pendST.isSome then g.pendST.map (fun e => (e, { g with pendST := none }))
    else if cp ≤ 14 ∧ g.pendCP.isSome then g.pendCP.map (fun e => (e, { g with pendCP := none }))
    else if tx ≤ 14 then g.pendTX.map (fun e => (e, { g with pendTX := none })) else none := by
  unfold Group.deliver
  cases g.pendST <;> cases g.pendCP <;> cases g.pendTX <;> simp

theorem Group.deliver_error (g : Group) (st cp tx : BitVec 4) :
    (g.deliver st.toNat cp.toNat tx.toNat).map (·.1) = Spec.delivered g tx cp st := by
  rw [Group.deliver_eq]
  unfold Spec.delivered
  simp only [lt_15_iff]
  split
  · rw [Option.map_map]; exact Option.map_id'
  · split
    · rw [Option.map_map]; exact Option.map_id'
    · split
      · rw [Option.map_map]; exact Option.map_id'
      · rfl

theorem Group.deliver_rest {g h : Group} {st cp tx : Nat} {e : PendErr} (hd : g.deliver st cp tx = some (e, h)) :
    g.SameButErrors h := by
  have key (p : Option PendErr) {f : Group → Group} (hf : g.SameButErrors (f g))
      (hp : p.map (fun e => (e, f g)) = some (e, h)) : g.SameButErrors h := by
    cases p with
    | none => cases hp
    | some e => cases hp; exact hf
  rw [Group.deliver_eq] at hd
  split at hd
  · exact key _ (f := fun g => { g with pendST := none }) rfl hd
  · split at hd
    · exact key _ (f := fun g => { g with pendCP := none }) rfl hd
    · split at hd
      · exact key _ (f := fun g => { g with pendTX := none }) rfl hd
      · cases hd

/-- Which lane reads the group makes no difference to the error. -/
theorem Group.deliver_asLane (g : Group) (n st cp tx : Nat) :
    ((g.asLane n).deliver st cp tx).map (·.1) = (g.deliver st cp tx).map (·.1) := by
  obtain ⟨ps, hps⟩ := g.asLane_eq n
  rw [hps, Group.deliver_eq, Group.deliver_eq]
  dsimp only
  split
  · rw [Option.map_map, Option.map_map]; rfl
  · split
    · rw [Option.map_map, Option.map_map]; rfl
    · split
      · rw [Option.map_map, Option.map_map]; rfl
      · rfl

end Sys2Proof.Machine

namespace Sys2Proof.IssuingLanes
open Sys2Proof Sys2Proof.Machine

section
variable {s : State} {iss : Issue} {g : Group} {ur tx cp st ld : BitVec 4} {x : Bool}

theorem wait_blocks (h : Free s iss g (.wait ur tx cp st ld x) .user (fun _ _ _ _ => []) none)
    (hw : ¬ Spec.waitMet g ur tx cp st ld) :
    exec (.wait ur tx cp st ld x) s = .next { s with issue := none } := by
  refine serve_blocked (e := waitEntry ur.toNat tx.toNat cp.toNat st.toNat ld.toNat) h ?_
  rw [← waitMet_iff] at hw
  simp only [waitEntry, Group.asLane_count, Bool.eq_false_iff.2 hw, Bool.not_false, if_true]

/-- A `wait` whose conditions hold and that finds no error, as its body reads it. -/
theorem wait_finds_none (hw : Spec.waitMet g ur tx cp st ld) (hd : Spec.delivered g tx cp st = none) (n : Nat) :
    (waitEntry ur.toNat tx.toNat cp.toNat st.toNat ld.toNat).body (s.plainCtx iss g (.wait ur tx cp st ld x)) s (g.asLane n) =
      if ur = 0 then
        let s1 := s.modGroup iss.gid (fun h =>
          { iss.lanes.foldl (fun h j => h.modLane j (fun l => l.raise g.remote)) h with remote := 0 })
        if fpTraps (s.trapFlags g) g.remote then
          .done s1 (iss.lanes.map (fun j => (j, .trap causeFP (fpVal g.remote)))) none []
        else .done s1 [] none []
      else .done s [] none [] := by
  rw [← waitMet_iff] at hw
  rw [← Group.deliver_error, ← Group.deliver_asLane g n, Option.map_eq_none_iff] at hd
  have hur : ur.toNat = 0 ↔ ur = 0 := ⟨fun e => BitVec.eq_of_toNat_eq e, fun e => by rw [e]; rfl⟩
  simp only [waitEntry, Group.asLane_count, hw, Bool.not_true, Bool.false_eq_true, if_false, hd, hur, Group.asLane_remote,
    State.trapFlags_asLane]
  rfl

theorem wait_merges (h : Free s iss g (.wait 0 tx cp st ld x) .user (fun _ _ _ _ => []) none)
    (hw : Spec.waitMet g 0 tx cp st ld) (hd : Spec.delivered g tx cp st = none)
    (hfp : fpTraps (s.trapFlags g) g.remote = false) :
    EndsIn s iss (.wait 0 tx cp st ld x) s { g with remote := 0 } (fun j => ((g.lane j).raise g.remote).pass iss) := by
  let g0 := iss.lanes.foldl (fun h j => h.modLane j (fun l => l.raise g.remote)) g
  have hrest : { g0 with lanes := g.lanes } = g := Group.foldl_lanes_only iss.lanes (fun _ l => l.raise g.remote) g
  have hlane (j : Nat) : g0.lane j = if j ∈ iss.lanes then (g.lane j).raise g.remote else g.lane j :=
    Group.lane_foldl iss.lanes (fun _ l => l.raise g.remote) g j h.nodup
  have hops : g0.ops = g.ops := by have y := congrArg Group.ops hrest; exact y
  have hlocal : g0.local_ = g.local_ := by have y := congrArg Group.local_ hrest; exact y
  have hbody := wait_finds_none (s := s) (iss := iss) (x := x) hw hd ((s.plainCtx iss g (.wait 0 tx cp st ld x)).lowest.getD 0)
  rw [if_pos rfl] at hbody
  simp only [hfp, Bool.false_eq_true, if_false] at hbody
  have hu : Upd s (s.modGroup iss.gid (fun h =>
      { iss.lanes.foldl (fun h j => h.modLane j (fun l => l.raise g.remote)) h with remote := 0 })) iss.gid
      { g0 with remote := 0 } := (Upd.refl h.group).modGroup _
  have hends := endsIn_of_done rfl h hbody hu.group (fun _ _ => rfl) (keep := g.ops)
    (show retire g0.ops [] = _ by rw [hops]; exact h.settled)
    (fun j hj => by
      show (g0.lane j).There
      rw [hlane, if_pos hj]
      exact Lane.there_of_live (h.live j hj).2.1)
  rw [leftTag_none] at hends
  refine hends.as ?_ (fun j => ?_) (hu.outside h.group hlocal)
  · have y := congrArg (fun g' : Group => { g' with remote := 0, ops := g.ops }) hrest; exact y
  · show Group.endsAs g0 iss j ((g0.lane j).pass iss) = g.endsAs iss j _
    unfold Group.endsAs
    rw [hlane]
    split <;> rfl

theorem wait_passes (h : Free s iss g (.wait ur tx cp st ld x) .user (fun _ _ _ _ => []) none)
    (hw : Spec.waitMet g ur tx cp st ld) (hd : Spec.delivered g tx cp st = none) (h0 : ur ≠ 0) :
    EndsIn s iss (.wait ur tx cp st ld x) s g (fun j => (g.lane j).pass iss) :=
  endsIn_of_ends (e := waitEntry ur.toNat tx.toNat cp.toNat st.toNat ld.toNat) rfl h
    (by rw [wait_finds_none hw hd, if_neg h0]) (fun _ _ => rfl) (fun _ _ => rfl)

theorem wait_delivers (h : Free s iss g (.wait ur tx cp st ld x) .user (fun _ _ _ _ => []) none)
    (hw : Spec.waitMet g ur tx cp st ld) (hm : (trapMode g iss.mode).isSome = true) {e : PendErr}
    (he : Spec.delivered g tx cp st = some e) :
    ∃ s' g', exec (.wait ur tx cp st ld x) s = .next s' ∧ s'.group iss.gid = some g' ∧ g'.remote = g.remote ∧
      ∀ j ∈ iss.lanes, g'.lane j = g.endsAs iss j ((LaneEnd.trap e.cause e.xval).move g iss (g.lane j)) := by
  rw [← waitMet_iff] at hw
  rw [← Group.deliver_error] at he
  obtain ⟨⟨e', g1⟩, hd, rfl⟩ := Option.map_eq_some_iff.1 he
  have hrest := Group.deliver_rest hd
  let n := (s.plainCtx iss g (.wait ur tx cp st ld x)).lowest.getD 0
  rw [← Group.deliver_asLane g n] at he
  obtain ⟨⟨e2, g2⟩, hd2, rfl⟩ := Option.map_eq_some_iff.1 he
  have hlanes : g1.lanes = g.lanes := by have y := congrArg Group.lanes hrest; exact y
  have hops : g1.ops = g.ops := by have y := congrArg Group.ops hrest; exact y
  have hlane (j : Nat) : g1.lane j = g.lane j := by unfold Group.lane; rw [hlanes]
  have htrap (m : Mode) : trapMode g1 m = trapMode g m := by
    have a : g1.tvecS = g.tvecS := by have y := congrArg Group.tvecS hrest; exact y
    have b : g1.tvecH = g.tvecH := by have y := congrArg Group.tvecH hrest; exact y
    unfold trapMode
    rw [a, b]
  have hends (j : Nat) : endOf (iss.lanes.map (fun j => (j, LaneEnd.trap e2.cause e2.xval))) j =
      if j ∈ iss.lanes then .trap e2.cause e2.xval else .past := endOf_map j
  have hg1 : (s.modGroup iss.gid (fun h => match h.deliver st.toNat cp.toNat tx.toNat with
      | some (_, h) => h
      | none => h)).group iss.gid = some g1 := by
    rw [State.group_modGroup, if_pos rfl, h.group, Option.map_some, hd]
  obtain ⟨s', g', hs, hg', hsame, hlanes', -⟩ :=
    endsIn_of_done (e := waitEntry ur.toNat tx.toNat cp.toNat st.toNat ld.toNat) rfl h
      (ends := iss.lanes.map (fun j => (j, LaneEnd.trap e2.cause e2.xval))) (t := none) (lines := []) (keep := g1.ops)
      (by simp only [waitEntry, Group.asLane_count, hw, Bool.not_true, Bool.false_eq_true, if_false]
          rw [hd2]
          rfl) hg1
      (fun j hj => by
        rw [hends, if_pos hj]
        show (trapMode g1 (g1.lane j).mode).isSome = true
        rw [htrap, hlane, (h.live j hj).2.2]
        exact hm)
      (by rw [hops]; exact h.settled) (h.lanes_there (fun j _ => hlane j))
  rw [leftTag_none] at hsame hlanes'
  have hremote : g'.remote = g1.remote := by have y := congrArg Group.remote hsame; exact y
  have hremote1 : g1.remote = g.remote := by have y := congrArg Group.remote hrest; exact y
  refine ⟨s', g', hs, hg', hremote.trans hremote1, fun j hj => ?_⟩
  simp only [hlanes' j, hends, hj, if_true, Group.endsAs, hlane, LaneEnd.move, htrap]

end

/-- Settles O12: the conditions of a `wait` decide whether it is blocked; what it delivers is the first pending error of the classes it
waits for; and else its lanes take the remote flags where its UR limit is 0. -/
theorem wait : Obligations.Wait := by
  intro s iss g ur tx cp st ld x h
  refine ⟨wait_blocks h, fun hw hd hfp => ?_, fun hw hm e he => ?_⟩
  · by_cases h0 : ur = 0
    · subst h0
      exact wait_merges h hw hd (hfp rfl)
    · simp only [if_neg h0]
      exact wait_passes h hw hd h0
  · exact wait_delivers h hw hm he

end Sys2Proof.IssuingLanes

namespace Sys2Proof.Machine
open Sys2Proof

/-! ### Group registers and ring words (R128, R141, R154) -/

/-- A free issue that changes its group in neither lanes, operations nor LOCAL bytes, and after which every lane goes on. -/
theorem endsIn_of_modGroup {s : State} {iss : Issue} {g : Group} {i : Instr} {e : Entry} (hx : exec i s = serve i s e)
    (h : Free s iss g i e.mode e.ok e.cls) {f : Group → Group}
    (hb : e.body (s.plainCtx iss g i) s (g.asLane ((s.plainCtx iss g i).lowest.getD 0)) = .done (s.modGroup iss.gid f) [] none [])
    (hlanes : (f g).lanes = g.lanes) (hops : (f g).ops = g.ops) (hlocal : (f g).local_ = g.local_) :
    EndsIn s iss i s (f g) (fun j => (g.lane j).pass iss) := by
  have hlane (j : Nat) : (f g).lane j = g.lane j := by unfold Group.lane; rw [hlanes]
  have hu : Upd s (s.modGroup iss.gid f) iss.gid (f g) := (Upd.refl h.group).modGroup f
  have hends := endsIn_of_done hx h hb hu.group (fun _ _ => rfl) (keep := (f g).ops) (by rw [hops]; exact h.settled)
    (h.lanes_there (fun j _ => hlane j))
  rw [leftTag_none] at hends
  refine hends.as rfl (fun j => Group.endsAs_congr (fun _ => ?_)) (hu.outside h.group hlocal)
  rw [hlane]
  rfl

theorem ringBad_iff (w : DWord) : ringBad w = true ↔ ¬ Spec.ringOk w := by
  have hsplit : w.toNat / 2 ^ 49 ≠ 0 ↔ ¬ w.toNat < 2 ^ 49 := by omega
  simp only [ringBad, Bool.or_eq_true, bne_iff_ne, beq_iff_eq, decide_eq_true_eq, hsplit]
  unfold Spec.ringOk ringDepth ringIndex
  generalize w.toNat / 2 ^ 32 % 256 = d, w.toNat / 2 ^ 40 % 256 = n
  omega

/-- Bit 48 of a number below 2^49, turned over. -/
theorem xor_bit48 {n : Nat} (h : n < 2 ^ 49) : n ^^^ 2 ^ 48 = n % 2 ^ 48 + (1 - n / 2 ^ 48) * 2 ^ 48 := by
  have hdiv : (n ^^^ 2 ^ 48) / 2 ^ 48 = n / 2 ^ 48 ^^^ 1 := Nat.xor_div_two_pow
  have hmod : (n ^^^ 2 ^ 48) % 2 ^ 48 = n % 2 ^ 48 := by rw [Nat.xor_mod_two_pow]; exact Nat.xor_zero _
  have hbit : n / 2 ^ 48 ^^^ 1 = 1 - n / 2 ^ 48 := by
    have hle : n / 2 ^ 48 < 2 := by omega
    generalize n / 2 ^ 48 = b at hle
    interval_cases b <;> rfl
  omega

/-- A ring word as its fields. -/
theorem ring_fields {w : DWord} (h : w.toNat < 2 ^ 49) : ∃ base d n p, base < 2 ^ 32 ∧ d < 256 ∧ n < 256 ∧ p < 2 ∧
    w.toNat = base + d * 2 ^ 32 + n * 2 ^ 40 + p * 2 ^ 48 ∧ ringBase w = base ∧ ringDepth w = d ∧ ringIndex w = n ∧
    ringPhase w = p := by
  refine ⟨_, _, _, _, ?_, ?_, ?_, ?_, ?_, rfl, rfl, rfl, rfl⟩ <;> simp only [ringBase, ringDepth, ringIndex, ringPhase] <;> omega

/-- The next word of a ring is one stage on: INDEX rises, or goes back to 0 with PHASE turned over (R141). -/
theorem ringNext_eq {w : DWord} (h : Spec.ringOk w) : ringNext w = Spec.ringStep w := by
  obtain ⟨hlt, -⟩ := h
  obtain ⟨base, d, n, p, hbase, hd, hn, hp, hw, eb, ed, en, ep⟩ := ring_fields hlt
  apply BitVec.eq_of_toNat_eq
  have hd' : w.toNat / 2 ^ 32 % 256 = d := ed
  have hn' : w.toNat / 2 ^ 40 % 256 = n := en
  simp only [ringNext, Spec.ringStep, eb, ed, en, ep, hd', hn', beq_iff_eq]
  by_cases hlast : n + 1 = d
  · have hsub : (w - BitVec.ofNat 64 (n * 2 ^ 40)).toNat = base + d * 2 ^ 32 + p * 2 ^ 48 := by
      rw [BitVec.toNat_sub, BitVec.toNat_ofNat]
      omega
    rw [if_pos hlast, if_pos hlast, if_pos hlast, BitVec.toNat_xor, hsub, BitVec.toNat_ofNat, BitVec.toNat_ofNat,
      Nat.mod_eq_of_lt (show (2 : Nat) ^ 48 < 2 ^ 64 by decide), xor_bit48 (by omega)]
    have hphase : (base + d * 2 ^ 32 + p * 2 ^ 48) / 2 ^ 48 = p := by omega
    rw [hphase]
    clear hd' hn' eb ed en ep hw
    omega
  · rw [if_neg hlast, if_neg hlast, if_neg hlast, BitVec.toNat_add, BitVec.toNat_ofNat, BitVec.toNat_ofNat]
    omega

theorem ringHandle_eq (w : DWord) : ringHandle w =
    BitVec.ofNat 64 ((w.toNat + w.toNat / 2 ^ 40 % 256) % 2 ^ 32 + 2 ^ 32 * (w.toNat / 2 ^ 48 % 2)) := by
  unfold ringHandle ringBase ringIndex ringPhase
  rw [Nat.mod_add_mod, Nat.mul_comm]

end Sys2Proof.Machine

namespace Sys2Proof.IssuingLanes
open Sys2Proof Sys2Proof.Machine

/-- A ring instruction whose word R128 allows writes a function of it to K[d]. -/
theorem ring_ends {s : State} {iss : Issue} {g : Group} {i : Instr} {f : DWord → DWord} {read : Ctx → Nat} {w : DWord}
    (hx : exec i s = serve i s (ringEntry f read)) (h : Free s iss g i .user (fun _ _ _ _ => []) none)
    (hw : g.kGet (read (s.plainCtx iss g i)) = w) (hok : Spec.ringOk w) :
    EndsIn s iss i s (g.kPut (s.slots g iss i).d.num (f w)) (fun j => (g.lane j).pass iss) := by
  have hbad : ringBad w = false := Bool.eq_false_iff.2 (fun hb => (ringBad_iff w).1 hb hok)
  refine endsIn_of_modGroup hx h (f := fun h => h.kPut (s.slots g iss i).d.num (f w)) ?_ rfl rfl rfl
  simp only [ringEntry, Group.asLane_kGet_, hw, hbad, Bool.false_eq_true, if_false, plainCtx_gid, plainCtx_o]

theorem groupRegisters : Spec.GroupRegisters := by
  intro s iss g i hi h hok
  cases i with
  | kset d a x =>
    unfold Spec.kWrite
    cases hl : (g.activeLanes iss (.kset d a x)).head? with
    | none =>
      refine endsIn_of_ends (e := ksetEntry) (ends := []) rfl h ?_ (fun _ _ => rfl) (fun _ _ => rfl)
      simp only [ksetEntry, Ctx.lowest, plainCtx_active, hl]
    | some j =>
      refine endsIn_of_modGroup (e := ksetEntry) (f := fun h => h.kPut d.toNat ((s.slots g iss (.kset d a x)).a.read64 g iss.mode j))
        rfl h ?_ rfl rfl rfl
      simp only [ksetEntry, Ctx.lowest, plainCtx_active, hl, plainCtx_a64, read64_asLane]
      rfl
  | ringAdv d x =>
    have hw := hok _ rfl
    rw [Spec.kWrite, ← ringNext_eq hw]
    exact ring_ends rfl h rfl hw
  | ringCur d a x =>
    have hw := hok _ rfl
    rw [Spec.kWrite, ← ringHandle_eq]
    exact ring_ends rfl h rfl hw
  | _ => exact hi.elim

theorem ring_traps {s : State} {iss : Issue} {g : Group} {i : Instr} {f : DWord → DWord} {read : Ctx → Nat} {w : DWord}
    (hx : exec i s = serve i s (ringEntry f read)) (h : Free s iss g i .user (fun _ _ _ _ => []) none)
    (hm : (trapMode g iss.mode).isSome = true) (hw : g.kGet (read (s.plainCtx iss g i)) = w) (hbad : ¬ Spec.ringOk w) :
    EndsIn s iss i s g (fun j => if j ∈ g.activeLanes iss i then (LaneEnd.trap 0x11 w).move g iss (g.lane j)
      else (g.lane j).pass iss) := by
  refine endsIn_of_trapActive (c := 0x11) hx h hm ?_
  simp only [ringEntry, Group.asLane_kGet_, hw, (ringBad_iff w).2 hbad, if_true]
  rfl

theorem ringWordTraps : Spec.RingWordTraps := by
  intro s iss g i w hw hbad h hm
  cases i with
  | ringAdv d x => exact ring_traps rfl h hm (Option.some.inj hw) hbad
  | ringCur d a x => exact ring_traps rfl h hm (Option.some.inj hw) hbad
  | _ => cases hw

/-- Settles O21: the K writes of `kset` and the ring instructions, and the ring words that trap. -/
theorem groupRegistersAndRings : Obligations.GroupRegistersAndRings := ⟨groupRegisters, ringWordTraps⟩

end Sys2Proof.IssuingLanes

namespace Sys2Proof.Machine
open Sys2Proof

/-! ### Results written beside an end of the lanes -/

section
variable (g : Group) (o : Opd) (m : Mode) (ls : List Nat) (x : Nat → DWord)

theorem Group.writes_lanes : (g.writes o m ls x).lanes = g.lanes := by
  have y := congrArg Group.lanes (Group.writes_rest g o m ls x); exact y
theorem Group.writes_ops : (g.writes o m ls x).ops = g.ops := by
  have y := congrArg Group.ops (Group.writes_rest g o m ls x); exact y
theorem Group.writes_local : (g.writes o m ls x).local_ = g.local_ := by
  have y := congrArg Group.local_ (Group.writes_rest g o m ls x); exact y
theorem Group.writes_lane (j : Nat) : (g.writes o m ls x).lane j = g.lane j := by
  unfold Group.lane; rw [Group.writes_lanes]
theorem trapMode_writes (k : Mode) : trapMode (g.writes o m ls x) k = trapMode g k := by
  have a : (g.writes o m ls x).tvecS = g.tvecS := by
    have y := congrArg Group.tvecS (Group.writes_rest g o m ls x); exact y
  have b : (g.writes o m ls x).tvecH = g.tvecH := by
    have y := congrArg Group.tvecH (Group.writes_rest g o m ls x); exact y
  unfold trapMode
  rw [a, b]
theorem LaneEnd.move_writes (d : LaneEnd) (iss : Issue) (l : Lane) : d.move (g.writes o m ls x) iss l = d.move g iss l := by
  cases d <;> simp only [LaneEnd.move, trapMode_writes]
theorem LaneEnd.handled_writes (d : LaneEnd) (l : Lane) : d.handled (g.writes o m ls x) l = d.handled g l := by
  cases d <;> simp only [LaneEnd.handled, trapMode_writes]

end

section
variable {s s1 : State} {iss : Issue} {g g1 : Group} {i : Instr} {e : Entry} {ends : List (Nat × LaneEnd)}

/-- Results put where no stream takes them are written to slot D. -/
theorem State.putResults_writes (s1 s : State) (iss : Issue) (g : Group) (i : Instr) (ls : List Nat) (x : Nat → DWord) :
    s1.putResults (s.plainCtx iss g i) (ls.map (fun j => (j, x j))) =
      s1.modGroup iss.gid (fun g' => g'.writes (s.slots g iss i).d iss.mode ls x) := by
  unfold State.putResults Group.writes State.plainCtx Ctx.gid Ctx.m
  simp only [List.foldl_map]

/-- A free issue that writes `x` to slot D in lanes `ls` of a group `g1`, and in which not every lane traps. -/
theorem endsWith_of_results (hx : exec i s = serve i s e) (h : Free s iss g i e.mode e.ok e.cls) {t : Tag} {lines : List Nat}
    {ls : List Nat} {x : Nat → DWord}
    (hb : e.body (s.plainCtx iss g i) s (g.asLane ((s.plainCtx iss g i).lowest.getD 0)) =
      .done (s1.putResults (s.plainCtx iss g i) (ls.map (fun j => (j, x j)))) ends (some t) lines)
    (hg : s1.group iss.gid = some g1) (hslots : s.slots g1 iss i = s.slots g iss i)
    (hr : retire g1.ops [] = (g1.ops, [])) (hl : ∀ j ∈ iss.lanes, (g1.lane j).There)
    (hls : ∀ j ∈ ls, j ∈ iss.lanes) (hk : takesResult (s.slots g iss i).d = true)
    (hgoes : ∃ j ∈ iss.lanes, (endOf ends j).isTrap = false)
    (hh : ∀ j ∈ iss.lanes, (endOf ends j).handled g1 (g1.lane j) = true) :
    EndsWith s iss i s1 g1 (fun j => (endOf ends j).move g1 iss (g1.lane j)) ls x t := by
  have hu : Upd s1 (s1.putResults (s.plainCtx iss g i) (ls.map (fun j => (j, x j)))) iss.gid
      (g1.writes (s.slots g iss i).d iss.mode ls x) :=
    State.putResults_writes s1 s iss g i ls x ▸ (Upd.refl hg).modGroup _
  obtain ⟨s', g', hs, hg', hsame, hlanes, hout⟩ := endsIn_of_done hx h hb hu.group
    (fun j hj => by rw [LaneEnd.handled_writes, Group.writes_lane]; exact hh j hj) 
    (keep := (g1.writes (s.slots g iss i).d iss.mode ls x).ops) (by rw [Group.writes_ops]; exact hr) (fun j hj => by rw [Group.writes_lane]; exact hl j hj)
  obtain ⟨j0, hj0, htrap0⟩ := hgoes
  rw [leftTag_of_not_trap hj0 htrap0] at hsame hlanes
  have hsame : SameGroup (tagged s iss g i (some t) (g1.writes (s.slots g iss i).d iss.mode ls x)) g' := hsame
  have hfacts := result_facts (s := s) (iss := iss) (i := i) (g := g1) (g' := g') (t := some t) (ls := ls) (x := x)
    (nv := s.nvregOf g) (fun j hj => (h.live j (hls j hj)).1)
  rw [hslots] at hfacts
  obtain ⟨hdest, htag, hrest⟩ := hfacts h.destLegal hk hsame
  refine ⟨s', g', hs, hg', hdest, htag t rfl, hrest, fun j => ?_, (hu.outside hg (Group.writes_local ..)).trans hout⟩
  have hlanes2 : (tagged s iss g i (some t) (g1.writes (s.slots g iss i).d iss.mode ls x)).lanes = g1.lanes := by
    have y := congrArg Group.lanes (tagged_rest s iss g i (some t) (g1.writes (s.slots g iss i).d iss.mode ls x))
    exact Eq.trans y (Group.writes_lanes ..)
  rw [hlanes j]
  simp only [LaneEnd.move_writes, Group.writes_lane, Group.endsAs]
  simp only [Group.lane, hlanes2]

end

/-! ### Task slots (R139, R140) -/

section
variable {α : Type}

theorem tblFind_none_of_keys {t : Tbl α} {k : Nat} (h : ∀ p ∈ t, p.1 ≠ k) : tblFind t k = none := by
  cases hf : tblFind t k with
  | none => rfl
  | some v => exact absurd rfl (h _ (mem_of_tblFind hf))

/-- The lowest number from `n` on that a table does not list. -/
theorem firstFree_lowest {t : Tbl α} {n : Nat} (hs : t.Pairwise (fun p q => p.1 < q.1)) (hn : ∀ p ∈ t, n ≤ p.1) :
    n ≤ firstFree t n ∧ tblFind t (firstFree t n) = none ∧ ∀ k, n ≤ k → k < firstFree t n → tblFind t k ≠ none := by
  induction t generalizing n with
  | nil => exact ⟨Nat.le_refl n, rfl, fun k hk hlt => absurd hlt (Nat.not_lt.2 hk)⟩
  | cons p t ih =>
    obtain ⟨j, v⟩ := p
    obtain ⟨hj, hs⟩ := List.pairwise_cons.1 hs
    unfold firstFree
    by_cases h : j = n
    · subst h
      obtain ⟨hle, hnone, hall⟩ := ih hs (n := j + 1) (fun q hq => hj q hq)
      rw [if_pos rfl]
      refine ⟨by omega, ?_, fun k hk hlt => ?_⟩
      · rw [tblFind, if_neg (by omega)]
        exact hnone
      · rw [tblFind]
        split
        · exact Option.some_ne_none _
        · exact hall k (by omega) hlt
    · have hlt : n < j := Nat.lt_of_le_of_ne (hn _ List.mem_cons_self) (Ne.symm h)
      rw [if_neg h]
      refine ⟨Nat.le_refl n, tblFind_none_of_keys (fun q hq => ?_), fun k hk hlt => absurd hlt (Nat.not_lt.2 hk)⟩
      rcases List.mem_cons.1 hq with rfl | hq
      · exact h
      · have := hj q hq; omega

theorem tblSet_sorted {t : Tbl α} (k : Nat) (v : α) (hs : t.Pairwise (fun p q => p.1 < q.1)) :
    (tblSet t k v).Pairwise (fun p q => p.1 < q.1) := by
  induction t with
  | nil => exact List.pairwise_singleton _ _
  | cons p t ih =>
    obtain ⟨j, u⟩ := p
    obtain ⟨hj, hs'⟩ := List.pairwise_cons.1 hs
    unfold tblSet
    split
    · subst k
      exact List.pairwise_cons.2 ⟨hj, hs'⟩
    · split
      · refine List.pairwise_cons.2 ⟨fun q hq => ?_, hs⟩
        rcases List.mem_cons.1 hq with rfl | hq
        · assumption
        · exact Nat.lt_trans ‹k < j› (hj q hq)
      · refine List.pairwise_cons.2 ⟨fun q hq => ?_, ih hs'⟩
        rcases mem_tblSet hq with rfl | hq
        · show j < k; omega
        · exact hj q hq

end

/-- The numbers below `cap` with a property begin with the lowest that has it. -/
theorem filter_range_lowest {p : Nat → Bool} {n cap : Nat} (hp : p n = true) (hbelow : ∀ k < n, p k = false) (hn : n < cap) :
    (List.range cap).filter p = n :: (List.range cap).filter (fun k => p k && decide (k ≠ n)) := by
  obtain ⟨m, rfl⟩ : ∃ m, cap = n + (m + 1) := ⟨cap - n - 1, by omega⟩
  have hnil : (List.range n).filter p = [] :=
    List.filter_eq_nil_iff.2 (fun k hk => by rw [hbelow k (List.mem_range.1 hk)]; decide)
  have hnil' : (List.range n).filter (fun k => p k && decide (k ≠ n)) = [] :=
    List.filter_eq_nil_iff.2 (fun k hk => by rw [hbelow k (List.mem_range.1 hk)]; exact Bool.false_ne_true)
  rw [List.range_add, List.filter_append, List.filter_append, hnil, hnil', List.nil_append, List.nil_append,
    List.range_succ_eq_map, List.map_cons, Nat.add_zero, List.filter_cons_of_pos hp, List.filter_cons_of_neg (by simp)]
  congr 1
  refine List.filter_congr (fun k hk => ?_)
  obtain ⟨x, hx, rfl⟩ := List.mem_map.1 hk
  obtain ⟨y, -, rfl⟩ := List.mem_map.1 hx
  simp

/-- The free slots of a ring begin with the lowest one. -/
theorem freeSlots_eq {l : Launch} (hs : l.tasks.Pairwise (fun p q => p.1 < q.1)) (v : SlotState) :
    Spec.freeSlots l = if l.taskRing = 0 ∨ l.taskCap ≤ firstFree l.tasks 0 then []
      else firstFree l.tasks 0 :: Spec.freeSlots { l with tasks := tblSet l.tasks (firstFree l.tasks 0) v } := by
  obtain ⟨-, hnone, hall⟩ := firstFree_lowest hs (fun p _ => Nat.zero_le p.1)
  generalize firstFree l.tasks 0 = n at hnone hall
  have hlisted (k : Nat) (hk : k < n) : (tblFind l.tasks k).isNone = false :=
    Option.isNone_eq_false_iff.2 (Option.isSome_iff_ne_none.2 (hall k (Nat.zero_le k) hk))
  have hring : fieldAt l.record 0x50 8 = l.taskRing := rfl
  have hcap : fieldAt l.record 0x58 4 = l.taskCap := rfl
  unfold Spec.freeSlots
  dsimp only
  rw [hring, hcap]
  by_cases h0 : l.taskRing = 0
  · rw [if_pos h0, if_pos (.inl h0)]
  rw [if_neg h0, if_neg h0]
  by_cases hle : l.taskCap ≤ n
  · rw [if_pos (.inr hle), List.filter_eq_nil_iff]
    intro k hk
    rw [hlisted k (Nat.lt_of_lt_of_le (List.mem_range.1 hk) hle)]
    exact Bool.false_ne_true
  · rw [if_neg (by rintro (h | h); exacts [h0 h, hle h]),
      filter_range_lowest (by rw [hnone]; rfl) hlisted (Nat.not_le.1 hle)]
    congr 1
    refine List.filter_congr (fun k _ => ?_)
    rw [tblFind_tblSet]
    by_cases hk : k = n <;> simp [hk]

/-- The address that a lane finds for a slot it has taken, 0 for one that has none. -/
def slotAddr (l : Launch) (taken : List (Nat × Nat)) (j : Nat) : DWord :=
  match taken.find? (fun p => decide (p.1 = j)) with
  | some p => BitVec.ofNat 64 (l.taskRing + 64 * p.2)
  | none => 0

/-- Lanes take the free slots in order, as far as they go (R139). -/
theorem takeSlots_eq (gid : Nat) {js : List Nat} (hn : js.Nodup) {l : Launch} (hs : l.tasks.Pairwise (fun p q => p.1 < q.1)) :
    takeSlots gid l js = ({ l with tasks := (js.zip (Spec.freeSlots l)).foldl (fun t p => tblSet t p.2 (.reserved gid p.1)) l.tasks },
      js.map (fun j => (j, slotAddr l (js.zip (Spec.freeSlots l)) j))) := by
  induction js generalizing l with
  | nil => rfl
  | cons j js ih =>
    obtain ⟨hj, hn⟩ := List.nodup_cons.1 hn
    unfold takeSlots
    rw [freeSlots_eq hs (.reserved gid j)]
    by_cases hfull : l.taskRing = 0 ∨ l.taskCap ≤ firstFree l.tasks 0
    · have hfull' : (decide (l.taskRing = 0) || decide (l.taskCap ≤ firstFree l.tasks 0)) = true := by simpa using hfull
      have hnone := freeSlots_eq hs (.reserved gid j)
      rw [if_pos hfull] at hnone ⊢
      simp only [hfull', if_true, ih hn hs, hnone, List.zip_nil_right, List.foldl_nil, List.map_cons]
      rfl
    · have hfull' : (decide (l.taskRing = 0) || decide (l.taskCap ≤ firstFree l.tasks 0)) = false := by simpa using hfull
      let l1 : Launch := { l with tasks := tblSet l.tasks (firstFree l.tasks 0) (.reserved gid j) }
      have ih1 := ih hn (l := l1) (tblSet_sorted _ _ hs)
      rw [if_neg hfull]
      simp only [hfull', Bool.false_eq_true, if_false, List.zip_cons_cons, List.foldl_cons, List.map_cons]
      simp only [l1] at ih1
      simp only [ih1]
      have hhead : slotAddr l ((j, firstFree l.tasks 0) :: js.zip (Spec.freeSlots l1)) j =
          BitVec.ofNat 64 (l.taskRing + 64 * firstFree l.tasks 0) := by
        rw [slotAddr, List.find?_cons_of_pos (by exact decide_eq_true rfl)]
      have htail (k : Nat) (hk : k ∈ js) : slotAddr l ((j, firstFree l.tasks 0) :: js.zip (Spec.freeSlots l1)) k =
          slotAddr l1 (js.zip (Spec.freeSlots l1)) k := by
        rw [slotAddr, List.find?_cons_of_neg (by simpa using fun e : j = k => hj (e ▸ hk))]
        rfl
      refine Prod.ext rfl (List.cons_eq_cons.2 ⟨Prod.ext rfl hhead.symm, ?_⟩)
      exact List.map_congr_left (fun k hk => Prod.ext rfl (htail k hk).symm)

end Sys2Proof.Machine

namespace Sys2Proof.IssuingLanes
open Sys2Proof Sys2Proof.Machine

/-- A trigger waits for what its lanes have in flight and what the group's fences cover (R136, R286). -/
theorem trigger_counts : Spec.Trigger := by
  intro s iss g x h
  refine endsIn_of_addOp (s1 := s) (e := { cls := some .st, body := _ }) (t := none) (c := .st) (opc := 0) (lines := []) rfl h ?_ h.group h.settled
    (h.lanes_there (fun _ _ => rfl))
  simp only [Group.asLane_fwaited, plainCtx_active, plainCtx_gid]

theorem tres_ends {s : State} {iss : Issue} {g : Group} {l : Launch} (hl : s.launch g.launch = some l) {d : DReg} {x : Ext}
    (h : Free s iss g (.tres d x) .user (fun _ _ _ _ => []) none) (hs : l.tasks.Pairwise (fun p q => p.1 < q.1)) :
    let taken := (g.activeLanes iss (.tres d x)).zip (Spec.freeSlots l)
    EndsWith s iss (.tres d x) (s.modLaunch g.launch (fun l =>
        { l with tasks := taken.foldl (fun t p => tblSet t p.2 (.reserved iss.gid p.1)) l.tasks })) g (fun j => (g.lane j).pass iss)
      (g.activeLanes iss (.tres d x)) (slotAddr l taken) .n64 := by
  intro taken
  obtain ⟨j0, hj0⟩ := List.exists_mem_of_ne_nil _ h.lanes
  have htake := takeSlots_eq iss.gid (h.nodup.filter (g.guarded (guardOf iss (.tres d x)))) hs
  have hlaunch : (s.modLaunch g.launch (fun l =>
      { l with tasks := taken.foldl (fun t p => tblSet t p.2 (.reserved iss.gid p.1)) l.tasks })) =
      s.modLaunch g.launch (fun _ =>
        { l with tasks := taken.foldl (fun t p => tblSet t p.2 (.reserved iss.gid p.1)) l.tasks }) := by
    unfold State.modLaunch
    rw [tblMod_congr (fun v hv => ?_)]
    cases (show some l = some v from hl.symm.trans hv)
    rfl
  rw [hlaunch]
  refine endsWith_of_results (ends := []) (lines := []) rfl h ?_ (show s.group iss.gid = some g from h.group) rfl h.settled
    (h.lanes_there (fun _ _ => rfl)) (fun j hj => (List.mem_filter.1 hj).1) rfl ⟨j0, hj0, rfl⟩ (fun _ _ => rfl)
  have hfound : s.launchOf (g.asLane ((s.plainCtx iss g (.tres d x)).lowest.getD 0)) = some l := by
    unfold State.launchOf
    rw [Group.asLane_launch, hl]
  simp only [hfound, Group.asLane_launch, plainCtx_gid, plainCtx_active]
  rw [show takeSlots iss.gid l (g.activeLanes iss (.tres d x)) = _ from htake]
  rfl

/-- Lanes that hold their slots hand them over (R140). -/
theorem spawn_ends {s : State} {iss : Issue} {g : Group} {l : Launch} (hl : s.launch g.launch = some l) {a : DReg} {x : Ext}
    {slot : Nat → Nat} (h : Free s iss g (.spawn a x) .user (fun _ _ _ => Spec.okAddress) (some .st))
    (hne : g.activeLanes iss (.spawn a x) ≠ []) :
    let e := g.activeLanes iss (.spawn a x)
    let addr (j : Nat) : Nat := (g.dGet iss.mode ((s.slots g iss (.spawn a x)).a.num) j).toNat % 2 ^ 48
    (∀ j ∈ e, l.ownSlot iss.gid j (addr j) = some (slot j)) → l.counter + e.length ≤ 0xFFFFFFFF →
    EndsIn s iss (.spawn a x) (s.modLaunch g.launch (fun l => { l with
        tasks := e.foldl (fun t j => tblSet t (slot j) .spawned) l.tasks, counter := l.counter + e.length }))
      (Spec.withOp g .st (.spawn (e.map (fun j => BitVec.ofNat 64 (addr j))) (e.flatMap (fun j => s.laneOwn iss.gid j))))
      (fun j => (g.lane j).pass iss) := by
  intro e addr hown hroom
  refine endsIn_of_addOp (s1 := s.modLaunch g.launch (fun l => { l with
        tasks := e.foldl (fun t j => tblSet t (slot j) .spawned) l.tasks, counter := l.counter + e.length }))
    (e := spawnEntry) (t := none) (c := .st) (opc := 0) (lines := []) rfl h ?_ (show s.group iss.gid = some g from h.group)
    h.settled (h.lanes_there (fun _ _ => rfl))
  have hfound : s.launchOf (g.asLane ((s.plainCtx iss g (.spawn a x)).lowest.getD 0)) = some l := by
    unfold State.launchOf
    rw [Group.asLane_launch, hl]
  have hrs : e.map (fun j => (j, addr j, l.ownSlot iss.gid j (addr j))) = e.map (fun j => (j, addr j, some (slot j))) :=
    List.map_congr_left (fun j hj => by rw [hown j hj])
  have hactive (n j : Nat) : ((s.plainCtx iss g (.spawn a x)).a64 (g.asLane n) j).toNat % 2 ^ 48 = addr j := by
    rw [plainCtx_a64, read64_asLane]
    rfl
  have hgood : (e.map (fun j => (j, addr j, some (slot j)))).filter (fun r => r.2.2.isSome) =
      e.map (fun j => (j, addr j, some (slot j))) := by
    rw [List.filter_map]
    exact congrArg _ (List.filter_eq_self.2 (fun _ _ => rfl))
  have hbad : (e.map (fun j => (j, addr j, some (slot j)))).filter (fun r => r.2.2.isNone) = [] := by
    rw [List.filter_map]
    exact congrArg _ (List.filter_eq_nil_iff.2 (fun _ _ => Bool.false_ne_true))
  have hsome : (e.map (fun j => (j, addr j, some (slot j)))).isEmpty = false := by
    rw [List.isEmpty_map]
    exact List.isEmpty_eq_false_iff.2 hne
  simp only [spawnEntry, hfound, hactive, plainCtx_active, plainCtx_gid]
  rw [show g.activeLanes iss (.spawn a x) = e from rfl, hrs, hgood, hbad, hsome, List.length_map,
    if_neg (Nat.not_lt.2 hroom)]
  simp only [Bool.false_eq_true, if_false, List.map_map, List.foldl_map, List.flatMap_map, List.map_nil, Option.getD_some,
    Group.asLane_launch]
  rfl

/-- Settles O25: `trigger` adds an operation, `tres` takes the lowest free slots, and `spawn` hands over those its lanes hold. -/
theorem triggersAndSpawns : Obligations.TriggersAndSpawns :=
  ⟨trigger_counts, fun _ _ _ _ hl => ⟨fun _ _ h hs => tres_ends hl h hs, fun _ _ _ h hne hown hroom => spawn_ends hl h hne hown hroom⟩⟩

end Sys2Proof.IssuingLanes

namespace Sys2Proof.Machine
open Sys2Proof

/-! ### Branches (R132, R133) -/

theorem State.modGroup_wakes (s : State) (gid : Nat) {f : Group → Group} (hf : ∀ g : Group, g.Woken (f g)) : s.Wakes (s.modGroup gid f) := by
  refine ⟨fun h g hg => ?_⟩
  rw [State.group_modGroup]
  split
  · subst h
    exact ⟨f g, by rw [hg]; rfl, hf g⟩
  · exact ⟨g, hg, .refl g⟩

theorem State.fetch_wakes {s s1 : State} {gid : Nat} {m : Mode} {a u : Nat} (h : s.fetch gid m a = .ok (s1, u)) : s.Wakes s1 := by
  unfold State.fetch at h
  cases hg : s.group gid with
  | none => rw [hg] at h; cases h
  | some g =>
    cases hu : s.unitAt g m a with
    | error e => simp only [hg, hu] at h; cases h
    | ok r =>
      obtain ⟨u', es, l⟩ := r
      simp only [hg, hu] at h
      cases h
      refine State.Wakes.trans ?_ (State.modGroup_wakes _ gid (fun g => ⟨rfl, fun _ _ => rfl, fun _ => ⟨rfl, rfl⟩⟩))
      cases l with
      | none => exact State.noteWalk_wakes ..
      | some l => exact (State.noteWalk_wakes ..).trans (State.meet_wakes ..)

/-- Lanes whose targets are headers go to them. -/
theorem State.branchLanes_reach {c : Ctx} {ts : List (Nat × BitVec 48)} {s s1 : State}
    (h : Spec.reach s c.gid c.m (ts.map (·.2)) = some s1) :
    s.Wakes s1 ∧ s.branchLanes c ts = (s1, ts.map (fun p => (p.1, .goto p.2))) := by
  induction ts generalizing s with
  | nil =>
    cases h
    exact ⟨.refl _, rfl⟩
  | cons p ts ih =>
    obtain ⟨j, t⟩ := p
    rw [List.map_cons, Spec.reach] at h
    split at h
    · cases h
    · rename_i h8
      split at h
      · rename_i s2 u hf
        split at h
        · rename_i h4
          obtain ⟨hw, hr⟩ := ih h
          have h8 : t.toNat % 8 = 0 := Decidable.not_not.1 h8
          have hat : t.toNat / 4 * 4 = t.toNat := by omega
          have hlane : s.branchLane c j t = (s2, .goto t) := by
            unfold State.branchLane
            simp only [hat, hf, h4, h8, decide_true, Bool.and_self, if_true]
          refine ⟨(State.fetch_wakes hf).trans hw, ?_⟩
          rw [State.branchLanes, hlane]
          simp only [hr, List.map_cons]
        · cases h
      · cases h

/-- Lanes whose targets can be fetched and are no headers trap BAD_TARGET. -/
theorem State.branchLanes_fetched {c : Ctx} {ts : List (Nat × BitVec 48)} {s s1 : State} {us : List Nat}
    (h : Spec.fetched s c.gid c.m (ts.map (·.2)) = some (s1, us))
    (hbad : ∀ (n : Nat) (t : BitVec 48) (u : Nat), (ts.map (·.2))[n]? = some t → us[n]? = some u → t.toNat % 8 ≠ 0 ∨ u % 4 ≠ 3) :
    s.Wakes s1 ∧ s.branchLanes c ts = (s1, ts.map (fun p => (p.1, .trap 0x03 (p.2.setWidth 64)))) := by
  induction ts generalizing s us with
  | nil =>
    cases h
    exact ⟨.refl _, rfl⟩
  | cons p ts ih =>
    obtain ⟨j, t⟩ := p
    rw [List.map_cons, Spec.fetched] at h
    split at h
    · rename_i s2 u hf
      obtain ⟨⟨s3, us'⟩, hr, he⟩ := Option.map_eq_some_iff.1 h
      cases he
      obtain ⟨hw, hrest⟩ := ih hr (fun n t u ht hu => hbad (n + 1) t u ht hu)
      have hno : ¬ (u % 4 = 3 ∧ t.toNat % 8 = 0) := by
        rcases hbad 0 t u rfl rfl with h8 | h4
        · exact fun hc => h8 hc.2
        · exact fun hc => h4 hc.1
      have hlane : s.branchLane c j t = (s2, .trap 0x03 (t.setWidth 64)) := by
        have hval : BitVec.ofNat 64 t.toNat = t.setWidth 64 := by
          apply BitVec.eq_of_toNat_eq
          rw [BitVec.toNat_ofNat, BitVec.toNat_setWidth]
        unfold State.branchLane
        simp only [hf, Bool.and_eq_true, decide_eq_true_eq, if_neg hno, hval]
        rfl
      refine ⟨(State.fetch_wakes hf).trans hw, ?_⟩
      rw [State.branchLanes, hlane]
      simp only [hrest, List.map_cons]
    · cases h

/-- The ends of lanes of which some have a target. -/
theorem endOf_filterMap {ls : List Nat} {d : Nat → Option (BitVec 48)} {e : BitVec 48 → LaneEnd} (j : Nat) :
    endOf ((ls.filterMap (fun k => (d k).map (fun t => (k, t)))).map (fun p => (p.1, e p.2))) j =
      match (if j ∈ ls then d j else none) with
      | some t => e t
      | none => .past := by
  induction ls with
  | nil => rfl
  | cons k ls ih =>
    cases hd : d k with
    | none =>
      rw [List.filterMap_cons_none (by rw [hd]; rfl), ih]
      by_cases hj : j = k
      · subst hj
        simp [hd]
      · simp [hj]
    | some t =>
      rw [List.filterMap_cons_some (by rw [hd]; rfl), List.map_cons]
      by_cases hj : k = j
      · subst hj
        simp [endOf, hd]
      · rw [endOf, List.find?_cons_of_neg (by simpa using hj)]
        have ih' := ih
        rw [endOf] at ih'
        rw [ih']
        simp [Ne.symm hj]

theorem EndsWith.congr {s s1 : State} {iss : Issue} {i : Instr} {g1 : Group} {e e' : Nat → Lane} {ls : List Nat} {x : Nat → DWord}
    {t : Tag} (h : EndsWith s iss i s1 g1 e ls x t) (he : ∀ j ∈ iss.lanes, e j = e' j) : EndsWith s iss i s1 g1 e' ls x t := by
  obtain ⟨s', g', hs, hg, hd, ht, hb, hl, ho⟩ := h
  exact ⟨s', g', hs, hg, hd, ht, hb, fun j => (hl j).trans (Group.endsAs_congr (he j)), ho⟩

/-- A group that is as before, but for its lanes and the tag of slot D. -/
theorem SameButD.of_tagged {s : State} {iss : Issue} {g g1 g' : Group} {i : Instr} {t : Option Tag}
    (hd : opdIllegal (s.nvregOf g) (s.slots g1 iss i).d = false) (hslots : s.slots g1 iss i = s.slots g iss i)
    (hk : t ≠ none → takesResult (s.slots g1 iss i).d = true) (h : SameGroup (tagged s iss g i t g1) g') :
    SameButD s g1 g' iss i [] := by
  cases t with
  | none =>
    have h : SameGroup g1 g' := h
    have hv : g'.v = g1.v := by have x := congrArg Group.v h; exact x
    have ht : g'.vtag = g1.vtag := by have x := congrArg Group.vtag h; exact x
    have hp : g'.p = g1.p := by have x := congrArg Group.p h; exact x
    exact ⟨by rw [← hv, ← ht, ← hp]; exact h, fun m r j _ _ _ => Group.vGet_of_v hv m r j,
      fun m r _ _ => by unfold Group.tag; rw [ht], fun n j _ _ => Group.pGet_of_p hp n j⟩
  | some t =>
    unfold tagged at h
    rw [← hslots] at h
    exact (result_facts (s := s) (iss := iss) (i := i) (g := g1) (g' := g') (t := some t) (ls := []) (x := fun _ => 0) nofun hd
      (hk (Option.some_ne_none t)) h).2.2

end Sys2Proof.Machine

namespace Sys2Proof.IssuingLanes
open Sys2Proof Sys2Proof.Machine

/-- The guard-active lanes that have a target, with it. -/
def targets (g : Group) (iss : Issue) (i : Instr) (dest : Nat → Option (BitVec 48)) : List (Nat × BitVec 48) :=
  (g.activeLanes iss i).filterMap (fun j => (dest j).map (fun t => (j, t)))

/-- An instruction that branches: its entry, whose guard-active lanes go where `dest` says. -/
structure BranchOf (s : State) (iss : Issue) (g : Group) (i : Instr) (link : Bool) (dest : Nat → Option (BitVec 48))
    (ok : List Tag) (lanes : Ctx → Group → List (Nat × BitVec 48)) : Prop where
  runs : exec i s = serve i s (branchEntry ok link lanes)
  accepts : Spec.okBranch i = fun sl => if sl = .a then ok else []
  lanes : ∀ n, lanes (s.plainCtx iss g i) (g.asLane n) = targets g iss i dest
  fixed : ∀ g1 : Group, s.slots g1 iss i = s.slots g iss i
  links : link = true → takesResult (s.slots g iss i).d = true ∧ ∀ j, (dest j).isSome = true

theorem branch_entry {s : State} {iss : Issue} {g : Group} {i : Instr} {link : Bool} {dest : Nat → Option (BitVec 48)}
    (h : Spec.branch s iss g i = some (link, dest)) : ∃ ok lanes, BranchOf s iss g i link dest ok lanes := by
  have all (ls : List Nat) (f : Nat → BitVec 48) :
      ls.map (fun j => (j, f j)) = ls.filterMap (fun j => (some (f j)).map (fun t => (j, t))) :=
    (List.filterMap_eq_map (f := fun j => (j, f j)) ▸ rfl)
  have when (p : Bool) (ls : List Nat) (t : BitVec 48) : (if p then ls.map (fun j => (j, t)) else []) =
      ls.filterMap (fun j => (if p then some t else none).map (fun t => (j, t))) := by
    cases p
    · exact (List.filterMap_eq_nil_iff.2 (fun _ _ => rfl)).symm
    · exact all ls (fun _ => t)
  have noTags : (fun _ => []) = fun sl : SlotName => if sl = .a then ([] : List Tag) else [] :=
    funext fun sl => (ite_self _).symm
  cases i with
  | bra b x =>
    cases h
    exact ⟨[], allTo b, rfl, noTags, fun n => all _ _, fun _ => rfl, nofun⟩
  | brany a b x =>
    cases h
    refine ⟨[], allIf (fun l => l.any id) b, rfl, noTags, fun n => ?_, fun _ => rfl, nofun⟩
    have hc : ((g.activeLanes iss (.brany a b x)).map (fun j => (g.asLane n).pGet a.toNat j)).any id =
        (g.activeLanes iss (.brany a b x)).any (g.pGet a.toNat) := by
      simp only [Group.asLane_pGet_, List.any_map]
      rfl
    exact (congrArg (fun p : Bool => if p then allTo b (s.plainCtx iss g (.brany a b x)) g else []) hc).trans (when _ _ _)
  | brall a b x =>
    cases h
    refine ⟨[], allIf (fun l => l.all id) b, rfl, noTags, fun n => ?_, fun _ => rfl, nofun⟩
    have hc : ((g.activeLanes iss (.brall a b x)).map (fun j => (g.asLane n).pGet a.toNat j)).all id =
        (g.activeLanes iss (.brall a b x)).all (g.pGet a.toNat) := by
      simp only [Group.asLane_pGet_, List.all_map]
      rfl
    exact (congrArg (fun p : Bool => if p then allTo b (s.plainCtx iss g (.brall a b x)) g else []) hc).trans (when _ _ _)
  | jmp a x =>
    cases h
    refine ⟨[.n64, .raw], allOwn, rfl, rfl, fun n => ?_, fun _ => rfl, nofun⟩
    simp only [allOwn, plainCtx_active, plainCtx_a64, read64_asLane]
    exact all _ _
  | call d b x =>
    cases h
    exact ⟨[], allTo b, rfl, noTags, fun n => all _ _, fun _ => rfl, fun _ => ⟨rfl, fun _ => rfl⟩⟩
  | callx d a x =>
    cases h
    refine ⟨[.n64, .raw], allOwn, rfl, rfl, fun n => ?_, fun _ => rfl, fun _ => ⟨rfl, fun _ => rfl⟩⟩
    simp only [allOwn, plainCtx_active, plainCtx_a64, read64_asLane]
    exact all _ _
  | _ => cases h

section
variable {s s1 : State} {iss : Issue} {g g1 : Group} {i : Instr} {link : Bool} {dest : Nat → Option (BitVec 48)}

theorem targets_snd : (targets g iss i dest).map (·.2) = (g.activeLanes iss i).filterMap dest := by
  unfold targets
  rw [List.map_filterMap]
  refine congrArg (fun f => List.filterMap f _) (funext fun j => ?_)
  rw [Option.map_map]
  exact Option.map_id'

theorem targets_fst (h : ∀ j, (dest j).isSome = true) : (targets g iss i dest).map (·.1) = g.activeLanes iss i := by
  unfold targets
  rw [List.map_filterMap]
  have e : (fun j => ((dest j).map (fun t => (j, t))).map (·.1)) = some := funext fun j => by
    obtain ⟨t, ht⟩ := Option.isSome_iff_exists.1 (h j)
    rw [ht]
    rfl
  rw [e, List.filterMap_some]

/-- The ends that reach a header: only their lanes link. -/
def reached (ends : List (Nat × LaneEnd)) : List (Nat × LaneEnd) :=
  ends.filter (fun p => match p.2 with
    | .goto _ => true
    | _ => false)

theorem reached_all {ts : List (Nat × BitVec 48)} :
    reached (ts.map (fun p => (p.1, .goto p.2))) = ts.map (fun p => (p.1, .goto p.2)) :=
  List.filter_eq_self.2 (fun p hp => by obtain ⟨q, -, rfl⟩ := List.mem_map.1 hp; rfl)

theorem reached_none {ts : List (Nat × BitVec 48)} {v : BitVec 48 → DWord} :
    reached (ts.map (fun p => (p.1, .trap 0x03 (v p.2)))) = [] :=
  List.filter_eq_nil_iff.2 (fun p hp => by obtain ⟨q, -, rfl⟩ := List.mem_map.1 hp; exact Bool.false_ne_true)

/-- The body of a branch whose lanes end as `ends` says. -/
theorem BranchOf.body {ok : List Tag} {lanes : Ctx → Group → List (Nat × BitVec 48)} (hi : BranchOf s iss g i link dest ok lanes)
    {ends : List (Nat × LaneEnd)} (hgo : s.branchLanes (s.plainCtx iss g i) (targets g iss i dest) = (s1, ends)) (n : Nat) :
    (branchEntry ok link lanes).body (s.plainCtx iss g i) s (g.asLane n) =
      .done (if link then
          s1.putResults (s.plainCtx iss g i) ((reached ends).map (fun p => (p.1, BitVec.ofNat 64 iss.following))) else s1)
        ends (if link then some .n64 else none) [] := by
  unfold branchEntry
  dsimp only
  rw [hi.lanes, hgo]
  rfl

/-- Branches to headers (R132, R133). -/
theorem branches : Spec.Branches := by
  intro s s1 iss g g1 i link dest hb h hreach hg1 e
  obtain ⟨ok, lanes, hi⟩ := branch_entry hb
  rw [hi.accepts] at h
  rw [← targets_snd] at hreach
  obtain ⟨hwakes, hgo⟩ := State.branchLanes_reach (c := s.plainCtx iss g i) hreach
  obtain ⟨g1', hg1', hw⟩ := hwakes.woken _ _ h.group
  cases hg1.symm.trans hg1'
  let ends := (targets g iss i dest).map (fun p => (p.1, LaneEnd.goto p.2))
  have hends (j : Nat) : endOf ends j = match (if j ∈ g.activeLanes iss i then dest j else none) with
      | some t => .goto t
      | none => .past := endOf_filterMap j
  have hhandled (j : Nat) (_ : j ∈ iss.lanes) : (endOf ends j).handled g1 (g1.lane j) = true := by
    rw [hends]
    split <;> rfl
  have hlane (j : Nat) (hj : j ∈ iss.lanes) : (endOf ends j).move g1 iss (g1.lane j) = e j := by
    rw [hends, h.lane_woken hw hj]
    unfold e
    by_cases hact : j ∈ g.activeLanes iss i
    · rw [if_pos hact, if_pos hact]
      cases dest j <;> rfl
    · rw [if_neg hact, if_neg hact]
      rfl
  have hthere : ∀ j ∈ iss.lanes, (g1.lane j).There := h.lanes_there (fun j hj => h.lane_woken hw hj)
  have hbody := hi.body hgo ((s.plainCtx iss g i).lowest.getD 0)
  rw [reached_all] at hbody
  cases link with
  | false =>
    obtain ⟨s', g', hs, hg', hsame, hlanes, hout⟩ := endsIn_of_done hi.runs h hbody hg1 hhandled (h.settled_woken hw) hthere
    exact ⟨s', g', hs, hg', by rw [if_neg (by decide), leftTag_none] at hsame; exact hsame, fun j => by
      rw [hlanes j, if_neg (by decide), leftTag_none]
      exact Group.endsAs_congr (hlane j), hout⟩
  | true =>
    obtain ⟨htakes, hall⟩ := hi.links rfl
    have hres : ends.map (fun p => (p.1, BitVec.ofNat 64 iss.following)) =
        (g.activeLanes iss i).map (fun j => (j, BitVec.ofNat 64 iss.following)) := by
      rw [← targets_fst (g := g) (iss := iss) (i := i) hall, List.map_map, List.map_map]
      rfl
    rw [hres] at hbody
    obtain ⟨j0, hj0⟩ := List.exists_mem_of_ne_nil _ h.lanes
    refine (endsWith_of_results hi.runs h hbody hg1 (hi.fixed g1) (h.settled_woken hw) hthere
      (fun j hj => (List.mem_filter.1 hj).1) htakes ⟨j0, hj0, ?_⟩ hhandled).congr hlane
    rw [hends]
    split <;> rfl

/-- Branches to what is no header (R132, R133, R396). -/
theorem badTargets : Spec.BadTargets := by
  intro s s1 iss g g1 i link dest us hb h hm ts hfetched hg1 hbad
  obtain ⟨ok, lanes, hi⟩ := branch_entry hb
  rw [hi.accepts] at h
  have hts : ts = (targets g iss i dest).map (·.2) := targets_snd.symm
  rw [hts] at hfetched hbad
  obtain ⟨hwakes, hgo⟩ := State.branchLanes_fetched (c := s.plainCtx iss g i) hfetched hbad
  obtain ⟨g1', hg1', hw⟩ := hwakes.woken _ _ h.group
  cases hg1.symm.trans hg1'
  let trapAt (t : BitVec 48) : LaneEnd := .trap 0x03 (t.setWidth 64)
  let ends := (targets g iss i dest).map (fun p => (p.1, trapAt p.2))
  have hends (j : Nat) : endOf ends j = match (if j ∈ g.activeLanes iss i then dest j else none) with
      | some t => trapAt t
      | none => .past := endOf_filterMap j
  have hhandled (j : Nat) (hj : j ∈ iss.lanes) : (endOf ends j).handled g1 (g1.lane j) = true := by
    rw [hends]
    split
    · show (trapMode g1 (g1.lane j).mode).isSome = true
      rw [hw.trapMode, h.lane_woken hw hj, (h.live j hj).2.2]
      exact hm
    · rfl
  let s2 := if link then s1.putResults (s.plainCtx iss g i) [] else s1
  have hu : Upd s1 s2 iss.gid g1 := by
    unfold s2
    split
    · exact (Upd.refl hg1).modGroup (fun g => g)
    · exact Upd.refl hg1
  have hbody := hi.body hgo ((s.plainCtx iss g i).lowest.getD 0)
  rw [reached_none (v := fun t => t.setWidth 64), List.map_nil] at hbody
  obtain ⟨s', g', hs, hg', hsame, hlanes, hout⟩ := endsIn_of_done hi.runs h hbody hu.group hhandled (h.settled_woken hw)
    (h.lanes_there (fun j hj => h.lane_woken hw hj))
  refine ⟨s', g', hs, hg', ?_, (hu.outside hg1 rfl).trans hout, fun j => ?_⟩
  · refine SameButD.of_tagged (by rw [hi.fixed]; exact h.destLegal) (hi.fixed g1) (fun hne => ?_) hsame
    rw [hi.fixed]
    cases link with
    | true => exact (hi.links rfl).1
    | false => exact absurd (leftTag_none iss ends) hne
  · refine ((hlanes j).trans (Group.endsAs_of_lane (tagged_lane ..) _)).trans (Group.endsAs_congr (fun _ => ?_))
    refine (congrArg (fun d : LaneEnd => d.move g1 iss (g1.lane j)) (hends j)).trans ?_
    cases (if j ∈ g.activeLanes iss i then dest j else none) <;> rfl

/-- Settles O20: every lane that branches reaches its header or traps, and only lanes that reach theirs link. -/
theorem branchesAndTargets : Obligations.BranchesAndTargets := ⟨branches, badTargets⟩

end

end Sys2Proof.IssuingLanes

namespace Sys2Proof.Machine
open Sys2Proof

/-! ### Loads (R185 to R187, R190) -/

/-- The lane that an issue's body reads the group as. -/
theorem plainCtx_lowest (s : State) (iss : Issue) (g : Group) (i : Instr) :
    g.asLane ((s.plainCtx iss g i).lowest.getD 0) = Spec.seenBy iss g i := by
  unfold Ctx.lowest Spec.seenBy
  rw [plainCtx_active, ← List.headD_eq_head?_getD]

/-- A scaled offset of 8 bits added to an address (R185). -/
theorem offset_eq (x : DWord) (b : Imm8) (n : Nat) :
    BitVec.ofInt 64 (x.toNat + sext8 b * n) = x + b.signExtend 64 * BitVec.ofNat 64 n := by
  rw [BitVec.ofInt_add, BitVec.ofInt_mul, BitVec.ofInt_natCast, BitVec.ofInt_natCast, BitVec.ofNat_toNat, BitVec.setWidth_eq]
  rfl

theorem Ctx.addrs_eq (s : State) (iss : Issue) (g : Group) (i : Instr) (n : Nat) (b : Imm8) (size : Nat) :
    (s.plainCtx iss g i).addrs (g.asLane n) b size = (g.activeLanes iss i).map (fun j =>
      (j, (s.slots g iss i).a.read64 g iss.mode j + b.signExtend 64 * BitVec.ofNat 64 size)) := by
  unfold Ctx.addrs
  simp only [offset_eq, plainCtx_active, plainCtx_a64, read64_asLane]

/-- The tile address of a lane of `ld.t.32` or `st.t.32`, where it has one (R190). -/
def tileOffset (s : State) (iss : Issue) (g : Group) (i : Instr) (j : Nat) : Option DWord :=
  let h := (g.tGet (s.slots g iss i).a.num).handle
  let off := ((s.slots g iss i).b.read32 g iss.mode j).toNat
  if h = 0xFFFFFFFF ∨ 2 ^ 24 ≤ off then none else some (tileAddr h.toNat off)

theorem Ctx.tileAddrs_eq (s : State) (iss : Issue) (g : Group) (i : Instr) (n : Nat)
    (h : ∀ j ∈ g.activeLanes iss i, (tileOffset s iss g i j).isSome = true) :
    (s.plainCtx iss g i).tileAddrs (g.asLane n) = ([], (g.activeLanes iss i).map (fun j => (j, (tileOffset s iss g i j).getD 0))) := by
  unfold Ctx.tileAddrs tileOffset at *
  simp only [plainCtx_o, plainCtx_active, Group.asLane_tGet_, plainCtx_b32, read32_asLane] at h ⊢
  generalize (g.tGet (s.slots g iss i).a.num).handle = hd at h ⊢
  generalize g.activeLanes iss i = ls at h ⊢
  by_cases hh : hd = 0xFFFFFFFF
  · subst hh
    cases ls with
    | nil => rfl
    | cons j ls => exact absurd (h j List.mem_cons_self) (by simp)
  · have hlt (j : Nat) (hj : j ∈ ls) : ((s.slots g iss i).b.read32 g iss.mode j).toNat < 2 ^ 24 := by
      by_contra hc
      have := h j hj
      rw [if_pos (.inr (Nat.not_lt.1 hc))] at this
      cases this
    rw [if_neg hh]
    have hnone : ls.filter (fun j => 2 ^ 24 ≤ ((s.slots g iss i).b.read32 g iss.mode j).toNat) = [] :=
      List.filter_eq_nil_iff.2 (fun j hj hc => absurd (of_decide_eq_true hc) (Nat.not_le.2 (hlt j hj)))
    have hall : ls.filter (fun j => ((s.slots g iss i).b.read32 g iss.mode j).toNat < 2 ^ 24) = ls :=
      List.filter_eq_self.2 (fun j hj => decide_eq_true (hlt j hj))
    rw [hnone, hall, List.map_nil]
    refine congrArg (Prod.mk []) (List.map_congr_left (fun j hj => ?_))
    rw [if_neg (by rintro (e | e); exacts [hh e, absurd (hlt j hj) (Nat.not_lt.2 e)])]
    rfl

theorem State.earlyRead_eq (s : State) (gid : Nat) (g : Group) (n : Nat) (l : Loc) (size : Nat) :
    s.earlyRead gid (g.asLane n) l size = Spec.atIssue s gid g l size := by
  unfold State.earlyRead Spec.atIssue Group.poisonTrap Group.agent
  rw [Group.asLane_trapen, Group.asLane_core, bitAt_toNat]

/-- The natural tag of `ld.t.32` (R190). -/
theorem tileTag_eq (t : Tag) : (if loadTag32 (BitVec.ofNat 4 t.num) && decide (t ≠ .raw) then t else .i32) =
    if t ∈ [Tag.i32, .n32, .f32, .bf16x2, .f16x2, .tb8, .tb6, .tb4, .i8x4, .n8x4] then t else .i32 := by
  cases t <;> rfl

end Sys2Proof.Machine

namespace Sys2Proof.IssuingLanes
open Sys2Proof Sys2Proof.Machine

/-- An instruction that loads, with the entry whose body it runs. -/
structure LoadOf (s : State) (iss : Issue) (g : Group) (i : Instr) (acc : Spec.Access) (e : Entry) : Prop where
  runs : exec i s = serve i s e
  mode : e.mode = .user
  ok : e.ok = fun _ _ _ => acc.ok
  cls : e.cls = some .ld
  size : acc.size = (Spec.loaded s iss g i).1.size
  body : acc.held = false → (∀ j ∈ g.activeLanes iss i, (acc.addr j).isSome = true) → ∀ n,
    e.body (s.plainCtx iss g i) s (g.asLane n) = s.loadLanes (s.plainCtx iss g i) (g.asLane n) (Spec.loaded s iss g i).1
      (Spec.loaded s iss g i).2 [] ((g.activeLanes iss i).map (fun j => (j, (acc.addr j).getD 0)))

theorem load_entry {s : State} {iss : Issue} {g : Group} {i : Instr} {acc : Spec.Access}
    (h : Spec.access s iss g i = some acc) (hs : acc.store = false) : ∃ e, LoadOf s iss g i acc e := by
  cases i with
  | ldGI8 d a b x | ldGN8 d a b x | ldGI16 d a b x | ldGN16 d a b x =>
    cases h
    refine ⟨loadEntry b _ _, rfl, rfl, rfl, rfl, rfl, fun _ _ n => ?_⟩
    exact congrArg (s.loadLanes _ (g.asLane n) _ _ []) (Ctx.addrs_eq s iss g _ n b _)
  | ldG32 d a b x | ldG64 d a b x =>
    cases h
    refine ⟨loadEntry b _ (loadTag _ x), rfl, rfl, rfl, rfl, rfl, fun _ _ n => ?_⟩
    exact congrArg (s.loadLanes _ (g.asLane n) _ _ []) (Ctx.addrs_eq s iss g _ n b _)
  | ldT32 d a b x =>
    cases h
    refine ⟨ldTEntry, rfl, rfl, rfl, rfl, rfl, fun hheld haddr n => ?_⟩
    have hfree : s.tBusy (g.asLane n) (s.slots g iss (.ldT32 d a b x)).a.num = false := by
      unfold State.tBusy
      rw [Group.asLane_tGet_]
      exact hheld
    simp only [ldTEntry, plainCtx_o, hfree, Bool.false_eq_true, if_false, Group.asLane_tGet_]
    rw [tileTag_eq, Ctx.tileAddrs_eq s iss g (.ldT32 d a b x) n haddr]
    rfl
  | stG8 _ _ _ _ | stG16 _ _ _ _ | stG32 _ _ _ _ | stG64 _ _ _ _ | stT32 _ _ _ _ => cases h; cases hs
  | _ => cases h

/-- A load with no guard-active lane (R125). -/
theorem load_of_none {s : State} {iss : Issue} {g : Group} {i : Instr} {acc : Spec.Access} {e : Entry}
    (hi : LoadOf s iss g i acc e) (h : Free s iss g i e.mode e.ok e.cls) (hnone : g.activeLanes iss i = [])
    (hheld : acc.held = false) :
    EndsIn s iss i s ((s.slots g iss i).d.retag (Spec.withEmpty g .ld) iss.mode
      ((iss.pfx.formatted .d).getD (Spec.loaded s iss g i).2)) (fun j => (g.lane j).pass iss) := by
  refine endsIn_of_addEmpty (t := some (Spec.loaded s iss g i).2) (lines := []) hi.runs h ?_
  rw [hi.body hheld (by rw [hnone]; exact nofun), hnone]
  rfl

/-- The tag of slot D and an operation more are two changes of a group that do not meet. -/
theorem withOp_retag (o : Opd) (g : Group) (m : Mode) (t : Tag) (c : Cls) (k : OpKind) :
    o.retag (Spec.withOp g c k) m t = Spec.withOp (o.retag g m t) c k := by
  cases o <;> rfl

/-- A load whose lanes pass their checks (R185 to R187, R190). -/
theorem load_of_passes {s s1 : State} {iss : Issue} {g g1 : Group} {i : Instr} {acc : Spec.Access}
    {oks : List (Nat × Loc × DWord)} {e : Entry} (hi : LoadOf s iss g i acc e) (h : Free s iss g i e.mode e.ok e.cls)
    (hs : acc.store = false) (hp : Spec.Passes s s1 iss g i acc oks) (hg1 : s1.group iss.gid = some g1) :
    let o := s.slots g iss i
    let r := Spec.loaded s iss g i
    EndsIn s iss i s1 (Spec.withOp (o.d.retag g1 iss.mode ((iss.pfx.formatted .d).getD r.2)) .ld
      (.load o.d.num (decide (r.1 = .w64)) r.1 (oks.map (fun p =>
        { lane := p.1, mode := iss.mode, loc := p.2.1, read := false, val := 0,
          early := Spec.atIssue s1 iss.gid g p.2.1 r.1.size })))) (fun j => (g1.lane j).pass iss) := by
  intro o r
  have hchecks := hp.checks
  rw [hs, if_neg (by decide), hi.size] at hchecks
  obtain ⟨hwakes, hoks⟩ := State.accessLanes_pass hchecks
  obtain ⟨g1', hg1', hw⟩ := hwakes.woken _ _ h.group
  cases hg1.symm.trans hg1'
  have hne : oks ≠ [] := fun e => by
    rw [e] at hoks
    exact hp.lanes (List.map_eq_nil_iff.1 hoks.symm)
  rw [← withOp_retag]
  refine endsIn_of_addOp (t := some r.2) (opc := 0) (lines := linesTouched r.1.size oks) hi.runs h ?_ hg1 (h.settled_woken hw)
    (h.lanes_there (fun j hj => h.lane_woken hw hj))
  have hbusy : ((g.activeLanes iss i).map (fun j => (j, (acc.addr j).getD 0))).any
      (fun p => s.addrBusy iss.gid (Spec.seenBy iss g i) p.1 p.2) = false := by
    rw [List.any_map, List.any_eq_false]
    exact fun j hj => Bool.eq_false_iff.1 (hp.tiles j hj)
  rw [hi.body hp.held hp.addrs, plainCtx_lowest]
  unfold State.loadLanes
  rw [plainCtx_gid, hbusy, hchecks]
  simp only [Bool.false_eq_true, if_false, List.isEmpty_map, List.isEmpty_eq_false_iff.2 hne, List.nil_append, plainCtx_m,
    plainCtx_o]
  simp only [Spec.seenBy, State.earlyRead_eq]
  rfl

/-- Settles O13: what a load's body does with the addresses of its lanes, none or all of which pass their checks. -/
theorem loads : Obligations.Loads := by
  refine ⟨fun s iss g i acc hacc hs h hnone hheld => ?_, fun s s1 iss g g1 i acc oks hacc hs h hp hg1 => ?_⟩
  · obtain ⟨e, hi⟩ := load_entry hacc hs
    exact load_of_none hi (by rw [hi.mode, hi.ok, hi.cls]; exact h) hnone hheld
  · obtain ⟨e, hi⟩ := load_entry hacc hs
    exact load_of_passes hi (by rw [hi.mode, hi.ok, hi.cls]; exact h) hs hp hg1

end Sys2Proof.IssuingLanes

namespace Sys2Proof.Machine
open Sys2Proof

/-! ### Host calls (R342, R343) -/

/-- Lanes changed one by one, each listed once, are changed as they stood. -/
theorem Group.foldl_modLane_eq {ls : List Nat} (hn : ls.Nodup) (f : Nat → Lane → Lane) (g : Group) :
    ls.foldl (fun g j => g.modLane j (f j)) g = { g with lanes := ls.foldl (fun t j => tblSet t j (f j (g.lane j))) g.lanes } := by
  induction ls generalizing g with
  | nil => rfl
  | cons i ls ih =>
    obtain ⟨hi, hn⟩ := List.nodup_cons.1 hn
    rw [List.foldl_cons, ih hn, List.foldl_cons]
    have hsame : ls.foldl (fun t j => tblSet t j (f j ((g.modLane i (f i)).lane j))) (g.modLane i (f i)).lanes =
        ls.foldl (fun t j => tblSet t j (f j (g.lane j))) (g.modLane i (f i)).lanes := by
      refine List.foldl_ext _ _ _ (fun t j hj => ?_)
      rw [Group.lane_modLane, if_neg (by rintro rfl; exact hi hj)]
    rw [hsame]
    rfl

theorem lanesMask_eq (ls : List Nat) : lanesMask ls = BitVec.ofNat 32 ((ls.map (2 ^ ·)).sum) := by
  have key (ls : List Nat) (n : Nat) : ls.foldl (fun n j => n + 2 ^ j) n = n + (ls.map (2 ^ ·)).sum := by
    induction ls generalizing n with
    | nil => rfl
    | cons j ls ih =>
      rw [List.foldl_cons, ih, List.map_cons, List.sum_cons]
      omega
  unfold lanesMask
  rw [key, Nat.zero_add]

theorem ringOn_eq (ctl : BitVec 32) : ringOn ctl = ctl.getLsbD 8 := bitAt_toNat ctl 8

end Sys2Proof.Machine

namespace Sys2Proof.IssuingLanes
open Sys2Proof Sys2Proof.Machine

section
variable {s : State} {iss : Issue} {g : Group} {d : KReg} {b : Imm8} {x : Ext}
variable (h : Free s iss g (.hcall d b x) .user (fun _ _ _ _ => []) (some .st))
include h

theorem hcall_of_none (hnone : g.activeLanes iss (.hcall d b x) = []) :
    EndsIn s iss (.hcall d b x) s (Spec.withEmpty g .st) (fun j => (g.lane j).pass iss) := by
  refine endsIn_of_addEmpty (e := hcallEntry b) (t := none) (lines := []) rfl h ?_
  simp only [hcallEntry, plainCtx_active, hnone, List.isEmpty_nil, if_true, plainCtx_gid]

variable (hne : g.activeLanes iss (.hcall d b x) ≠ [])
include hne

/-- An interface without a host-call ring (R343). -/
theorem hcall_traps (hoff : (s.vi g.vi).hctl.getLsbD 8 = false) (hm : (trapMode g iss.mode).isSome = true) :
    EndsIn s iss (.hcall d b x) s g (fun j =>
      if j ∈ g.activeLanes iss (.hcall d b x) then (LaneEnd.trap 0x0D (b.setWidth 64)).move g iss (g.lane j)
      else (g.lane j).pass iss) := by
  refine endsIn_of_trapActive (e := hcallEntry b) (c := 0x0D) rfl h hm ?_
  have hval : BitVec.ofNat 64 b.toNat = b.setWidth 64 := by
    apply BitVec.eq_of_toNat_eq
    rw [BitVec.toNat_ofNat, BitVec.toNat_setWidth]
  simp only [hcallEntry, plainCtx_active, List.isEmpty_eq_false_iff.2 hne, Bool.false_eq_true, if_false, Group.asLane_vi,
    ringOn_eq, hoff, Bool.not_false, if_true, hval]
  rfl

theorem hcall_blocks (hon : (s.vi g.vi).hctl.getLsbD 8 = true)
    (hfull : 2 ^ ((s.vi g.vi).hctl.toNat % 32) ≤ ((s.vi g.vi).htail - (s.vi g.vi).hhead).toNat) :
    exec (.hcall d b x) s = .next { s with issue := none } := by
  refine serve_blocked (e := hcallEntry b) h ?_
  have hfull' : ringFull (s.vi g.vi).htail (s.vi g.vi).hhead (s.vi g.vi).hctl = true := decide_eq_true hfull
  simp only [hcallEntry, plainCtx_active, List.isEmpty_eq_false_iff.2 hne, Bool.false_eq_true, if_false, Group.asLane_vi,
    ringOn_eq, hon, Bool.not_true, hfull', if_true]

/-- The live lanes of a group park, and the call is counted with what the group has written (R343). -/
theorem hcall_parks (hon : (s.vi g.vi).hctl.getLsbD 8 = true)
    (hroom : ¬ 2 ^ ((s.vi g.vi).hctl.toNat % 32) ≤ ((s.vi g.vi).htail - (s.vi g.vi).hhead).toNat) :
    let live := (List.range 32).filter (fun j => (g.lane j).live)
    let mask (ls : List Nat) : LaneMask := BitVec.ofNat 32 ((ls.map (2 ^ ·)).sum)
    let g1 : Group := { g with
      lanes := live.foldl (fun t j => tblSet t j { g.lane j with park := .hostcall }) g.lanes
      hostcall := { waiting := true, seq := 0, kd := d, lanes := mask live } }
    EndsIn s iss (.hcall d b x) s (Spec.withOp g1 .st (.hcall b iss.mode (mask (g.activeLanes iss (.hcall d b x)))
      ((List.range 4).map (fun n => g.kGet (d.toNat + n))) d.toNat (s.ownWrites iss.gid))) (fun j => (g1.lane j).pass iss) := by
  intro live mask g1
  have hnodup : live.Nodup := List.nodup_range.filter _
  have hparked : live.foldl (fun g j => g.modLane j (fun l => { l with park := .hostcall })) g =
      { g with lanes := g1.lanes } := Group.foldl_modLane_eq hnodup (fun _ l => { l with park := .hostcall }) g
  have hlane (j : Nat) : g1.lane j = if j ∈ live then { g.lane j with park := .hostcall } else g.lane j := by
    have hl := Group.lane_foldl live (fun _ l => { l with park := .hostcall }) g j hnodup
    rw [hparked] at hl
    exact hl
  let call (g : Group) : Group := { g with hostcall := { waiting := true, seq := 0, kd := d, lanes := mask live } }
  have hu : Upd s ((s.modLanes iss.gid live (fun _ l => { l with park := .hostcall })).modGroup iss.gid call) iss.gid g1 := by
    have hu := ((Upd.refl h.group).modGroup
      (fun g => live.foldl (fun g j => g.modLane j (fun l => { l with park := .hostcall })) g)).modGroup call
    rw [hparked] at hu
    exact hu
  have hends := endsIn_of_addOp (e := hcallEntry b) (t := none) (lines := []) (c := .st) (opc := 0)
    (k := .hcall b iss.mode (mask (g.activeLanes iss (.hcall d b x)))
      ((List.range 4).map (fun n => g.kGet (d.toNat + n))) d.toNat (s.ownWrites iss.gid)) rfl h (by
      have hkd : BitVec.ofNat 6 (s.plainCtx iss g (.hcall d b x)).o.d.num = d := BitVec.ofNat_toNat 6 d
      have hroom' : ringFull (s.vi g.vi).htail (s.vi g.vi).hhead (s.vi g.vi).hctl = false := decide_eq_false hroom
      simp only [hcallEntry, plainCtx_active, List.isEmpty_eq_false_iff.2 hne, Bool.false_eq_true, if_false, Group.asLane_vi,
        ringOn_eq, hon, Bool.not_true, hroom', Group.asLane_lane_, Group.asLane_kGet_, plainCtx_gid, plainCtx_m, lanesMask_eq, hkd]
      rfl) hu.group h.settled (fun j hj => by
      have hthere := Lane.there_of_live (h.live j hj).2.1
      rw [hlane]
      split
      · exact hthere
      · exact hthere)
  exact hends.as rfl (fun _ => rfl) (hu.outside h.group rfl)

end

end Sys2Proof.IssuingLanes

namespace Sys2Proof.Machine
open Sys2Proof

/-! ### The front end's reads and writes (R31, R37, R182) -/

/-- The line of a place of memory is marked to meet an uncorrectable error at its next read. -/
def State.hard (s : State) (a : Nat) : Bool := s.hardNext.contains (a / 128)

theorem except_bind_ok {ε α β : Type} {x : Except ε α} {f : α → Except ε β} {b : β} (h : (x >>= f) = .ok b) :
    ∃ a, x = .ok a ∧ f a = .ok b := by
  cases x with
  | error e => cases h
  | ok a => exact ⟨a, rfl, h⟩

section
variable {s : State} {x : Xlate} (hx : x.cluster = none)
include hx

/-- What the hub reads of a table meets no uncorrectable error. -/
theorem readEntry_soft {stage level input a v : Nat} (h : s.readEntry x stage level input a = .ok v) : s.hard a = false := by
  unfold State.readEntry State.cached at h
  rw [hx] at h
  simp only [Option.isSome_none, Bool.false_and, Bool.false_eq_true, if_false] at h
  split at h
  · cases h
  · split at h
    · cases h
    · rename_i hc
      exact (Bool.or_eq_false_iff.1 (Bool.eq_false_iff.2 hc)).2

theorem walk2_soft {gpa : Nat} {lvl tbl e l : Nat} {es : List TlbEntry} (h : s.walk2 x gpa lvl tbl = .ok (e, l, es)) :
    ∀ q ∈ es, s.hard q.at_ = false := by
  induction lvl generalizing tbl e l es with
  | zero =>
    unfold State.walk2 at h
    obtain ⟨v, hv, h⟩ := except_bind_ok h
    split at h
    · cases h
    · split at h
      · cases h
      · cases h
        exact List.forall_mem_singleton.2 (readEntry_soft hx hv)
  | succ lvl ih =>
    unfold State.walk2 at h
    obtain ⟨v, hv, h⟩ := except_bind_ok h
    split at h
    · cases h
    · split at h
      · cases h
      · split at h
        · obtain ⟨⟨l', k, es'⟩, hr, h⟩ := except_bind_ok h
          cases h
          exact List.forall_mem_cons.2 ⟨readEntry_soft hx hv, ih hr⟩
        · cases h
          exact List.forall_mem_singleton.2 (readEntry_soft hx hv)

theorem stage2_soft {n : Need} {gpa a : Nat} {es : List TlbEntry} (h : s.stage2 x n gpa = .ok (a, es)) :
    ∀ q ∈ es, s.hard q.at_ = false := by
  unfold State.stage2 at h
  obtain ⟨⟨e, l, es'⟩, hw, h⟩ := except_bind_ok h
  dsimp only at h
  split at h
  · cases h
  · split at h
    · cases h
      exact walk2_soft hx hw
    · cases h

theorem walk1_soft {va : Nat} {lvl tbl e l : Nat} {es : List TlbEntry} (h : s.walk1 x va lvl tbl = .ok (e, l, es)) :
    ∀ q ∈ es, s.hard q.at_ = false := by
  induction lvl generalizing tbl e l es with
  | zero =>
    unfold State.walk1 at h
    obtain ⟨⟨a, es2⟩, h2, h⟩ := except_bind_ok h
    obtain ⟨v, hv, h⟩ := except_bind_ok h
    split at h
    · cases h
    · split at h
      · cases h
      · cases h
        exact List.forall_mem_append.2 ⟨stage2_soft hx h2, List.forall_mem_singleton.2 (readEntry_soft hx hv)⟩
  | succ lvl ih =>
    unfold State.walk1 at h
    obtain ⟨⟨a, es2⟩, h2, h⟩ := except_bind_ok h
    obtain ⟨v, hv, h⟩ := except_bind_ok h
    split at h
    · cases h
    · split at h
      · cases h
      · split at h
        · obtain ⟨⟨l', k, es'⟩, hr, h⟩ := except_bind_ok h
          cases h
          exact List.forall_mem_append.2 ⟨stage2_soft hx h2, List.forall_mem_cons.2 ⟨readEntry_soft hx hv, ih hr⟩⟩
        · cases h
          exact List.forall_mem_append.2 ⟨stage2_soft hx h2, List.forall_mem_singleton.2 (readEntry_soft hx hv)⟩

theorem translate_soft {n : Need} {va a : Nat} {es : List TlbEntry} (h : s.translate x n va = .ok (a, es)) :
    ∀ q ∈ es, s.hard q.at_ = false := by
  unfold State.translate at h
  split at h
  · cases h
  · obtain ⟨⟨gpa, es1⟩, h1, h⟩ := except_bind_ok h
    obtain ⟨⟨a', es2⟩, h2, h⟩ := except_bind_ok h
    cases h
    refine List.forall_mem_append.2 ⟨?_, stage2_soft hx h2⟩
    unfold State.stage1 at h1
    dsimp only at h1
    split at h1
    · cases h1
      exact nofun
    · obtain ⟨⟨e, l, es'⟩, hw, h1⟩ := except_bind_ok h1
      dsimp only at h1
      split at h1
      · cases h1
      · cases h1
        exact walk1_soft hx hw

end

/-- The places that the front end reaches lie in memory, and what it read of the tables meets no uncorrectable error. -/
theorem frontReach_soft {s : State} {leaf vi a n : Nat} {m : Need} {ls : List Loc} {es : List TlbEntry}
    (h : s.frontReach leaf vi a m n = .ok (ls, es)) : (∀ q ∈ es, s.hard q.at_ = false) ∧ ∀ l ∈ ls, ∃ p, l = .sys p := by
  induction n generalizing a ls es with
  | zero =>
    cases h
    exact ⟨nofun, nofun⟩
  | succ n ih =>
    unfold State.frontReach at h
    obtain ⟨⟨p, es1⟩, ht, h⟩ := except_bind_ok h
    obtain ⟨⟨ls', es2⟩, hr, h⟩ := except_bind_ok h
    cases h
    obtain ⟨hes, hls⟩ := ih hr
    refine ⟨?_, List.forall_mem_cons.2 ⟨⟨p, rfl⟩, hls⟩⟩
    split
    · exact List.forall_mem_append.2 ⟨translate_soft rfl ht, hes⟩
    · exact hes

/-! What the tables say does not depend on what the interfaces hold but their roots. -/

section
variable {s : State} {vs : Tbl VI} (hroot : ∀ v, (State.vi { s with vis := vs } v).sroot = (s.vi v).sroot)

theorem walk2_vis (x : Xlate) (gpa lvl tbl : Nat) : State.walk2 { s with vis := vs } x gpa lvl tbl = s.walk2 x gpa lvl tbl := by
  induction lvl generalizing tbl with
  | zero => rfl
  | succ lvl ih =>
    unfold State.walk2
    simp only [ih]
    rfl

theorem stage2_vis (x : Xlate) (n : Need) (gpa : Nat) : State.stage2 { s with vis := vs } x n gpa = s.stage2 x n gpa := by
  unfold State.stage2
  rw [walk2_vis]
  rfl

theorem walk1_vis (x : Xlate) (va lvl tbl : Nat) : State.walk1 { s with vis := vs } x va lvl tbl = s.walk1 x va lvl tbl := by
  induction lvl generalizing tbl with
  | zero =>
    unfold State.walk1
    simp only [stage2_vis]
    rfl
  | succ lvl ih =>
    unfold State.walk1
    simp only [stage2_vis, ih]
    rfl

include hroot

theorem translate_vis (x : Xlate) (n : Need) (va : Nat) : State.translate { s with vis := vs } x n va = s.translate x n va := by
  unfold State.translate State.stage1
  simp only [stage2_vis, walk1_vis, hroot]

theorem frontReach_vis (leaf vi a : Nat) (m : Need) (n : Nat) :
    State.frontReach { s with vis := vs } leaf vi a m n = s.frontReach leaf vi a m n := by
  induction n generalizing a with
  | zero => rfl
  | succ n ih =>
    unfold State.frontReach
    simp only [translate_vis hroot, ih]

end

end Sys2Proof.Machine

namespace Sys2Proof.Machine
open Sys2Proof

/-- `t` is `s` but for the marks of corrected errors, the counts of the leaves, and the flags of launches. -/
def State.SameButMarks (s t : State) : Prop :=
  { t with softNext := s.softNext, parts := s.parts, launches := s.launches } = s

theorem State.SameButMarks.trans {s t u : State} (h : s.SameButMarks t) (h' : t.SameButMarks u) : s.SameButMarks u := by
  unfold State.SameButMarks at *
  cases s; cases t; cases u
  simp_all

section
variable {s t : State} (h : s.SameButMarks t)
include h

theorem State.SameButMarks.groups : t.groups = s.groups := by have e := congrArg State.groups h; exact e
theorem State.SameButMarks.vis : t.vis = s.vis := by have e := congrArg State.vis h; exact e
theorem State.SameButMarks.mem : t.mem = s.mem := by have e := congrArg State.mem h; exact e
theorem State.SameButMarks.flight : t.flight = s.flight := by have e := congrArg State.flight h; exact e

theorem State.SameButMarks.hard (a : Nat) : t.hard a = s.hard a := by
  have e : t.hardNext = s.hardNext := by have e := congrArg State.hardNext h; exact e
  unfold State.hard
  rw [e]

theorem State.SameButMarks.poison (a : Nat) : t.poison (.sys a) = s.poison (.sys a) := by
  have e : t.poisoned = s.poisoned := by have e := congrArg State.poisoned h; exact e
  have e' : t.time = s.time := by have e := congrArg State.time h; exact e
  unfold State.poison State.memLine State.linePoisoned
  rw [e, e']

theorem State.SameButMarks.readByte (a : Agent) (l : Loc) : t.readByte a l = s.readByte a l := by
  refine State.readByte_congr h.flight h.mem ?_ (fun k => ?_) a l
  · have e := congrArg State.tiles h; exact e
  · unfold State.group; rw [h.groups]

end

theorem State.meet_marks {s : State} {a : Nat} (h : s.hard a = false) (launch leaf : Nat) :
    s.SameButMarks (s.meet launch leaf (.sys a)) := by
  have hsoft (t : State) (ht : s.SameButMarks t) : s.SameButMarks (if t.hardNext.contains (a / 128) then
      (({ t with hardNext := t.hardNext.filter (fun x => x ≠ a / 128), poisoned := a / 128 :: t.poisoned }.countErr leaf 1).addFlags
        launch 16).askError leaf else t) := by
    have hhard : t.hardNext.contains (a / 128) = false := by
      have e := ht.hard a
      rw [h] at e
      exact e
    rw [hhard]
    exact ht
  unfold State.meet State.memLine
  refine hsoft _ ?_
  split <;> rfl

theorem State.meetAll_marks {ls : List Loc} {s : State} (h : ∀ l ∈ ls, ∃ p, l = .sys p ∧ s.hard p = false) (launch leaf : Nat) :
    s.SameButMarks (ls.foldl (fun s l => s.meet launch leaf l) s) := by
  induction ls generalizing s with
  | nil => rfl
  | cons l ls ih =>
    obtain ⟨⟨p, rfl, hp⟩, hls⟩ := List.forall_mem_cons.1 h
    have hm := State.meet_marks hp launch leaf
    exact hm.trans (ih (fun l hl => by
      obtain ⟨q, e, hq⟩ := hls l hl
      exact ⟨q, e, by rw [hm.hard]; exact hq⟩))

theorem State.hubWalk_marks {s : State} {es : List TlbEntry} (h : ∀ q ∈ es, s.hard q.at_ = false) (launch leaf : Nat) :
    s.SameButMarks (s.hubWalk launch leaf es) := by
  have hmeet : s.SameButMarks (s.meetEntries launch leaf es) := by
    have hm := State.meetAll_marks (s := s) (ls := es.map (fun e => .sys e.at_)) (fun l hl => by
      obtain ⟨e, he, rfl⟩ := List.mem_map.1 hl
      exact ⟨e.at_, rfl, h e he⟩) launch leaf
    rw [List.foldl_map] at hm
    exact hm
  have hrest := State.spend_rest (s.meetEntries launch leaf es) leaf 5 es.length
  refine hmeet.trans ?_
  unfold State.hubWalk State.SameButMarks
  generalize (s.meetEntries launch leaf es) = t at hrest ⊢
  generalize t.spend leaf 5 es.length = u at hrest ⊢
  cases t; cases u
  simp_all

/-- Every place is one of memory that a read finds in order. -/
def State.Sound (s : State) (ls : List Loc) : Prop := ∀ l ∈ ls, ∃ p, l = .sys p ∧ s.hard p = false ∧ s.poison (.sys p) = false

/-- A front-end read of places in order gives their bytes. -/
theorem State.frontLoad_of_sound {s : State} {leaf vi launch a n : Nat} {ls : List Loc} {es : List TlbEntry}
    (h : s.frontReach leaf vi a { r := true } n = .ok (ls, es)) (hs : s.Sound ls) :
    ∃ t, s.SameButMarks t ∧ s.frontLoad leaf vi launch a n = (t, some (ls.map (fun l => (s.readByte hub l).1))) := by
  have hw := State.hubWalk_marks (frontReach_soft h).1 launch leaf
  have hm := hw.trans (State.meetAll_marks (ls := ls) (fun l hl => by
    obtain ⟨p, e, hp, -⟩ := hs l hl
    exact ⟨p, e, by rw [hw.hard]; exact hp⟩) launch leaf)
  refine ⟨_, hm, ?_⟩
  have hclean : ls.any ((ls.foldl (fun s l => s.meet launch leaf l) (s.hubWalk launch leaf es)).poison) = false := by
    rw [List.any_eq_false]
    intro l hl
    obtain ⟨p, rfl, -, hp⟩ := hs l hl
    rw [hm.poison, hp]
    exact Bool.false_ne_true
  unfold State.frontLoad
  rw [h]
  simp only [hclean, Bool.false_eq_true, if_false, hm.readByte]

/-! A line poisoned stays so, and one that is to meet an uncorrectable error is poisoned when it is read. -/

theorem State.askError_poisoned (s : State) (leaf : Nat) : (s.askError leaf).poisoned = s.poisoned ∧ (s.askError leaf).time = s.time := by
  unfold State.askError
  split
  · unfold State.askAssist
    dsimp only
    split
    · rename_i s2 r hr
      unfold State.mgmtRecord at hr
      split at hr
      · cases hr
      · cases hr
        exact ⟨rfl, rfl⟩
    · exact ⟨rfl, rfl⟩
  · exact ⟨rfl, rfl⟩

theorem State.poison_mono {s t : State} (hp : ∀ n ∈ s.poisoned, n ∈ t.poisoned) (ht : t.time = s.time) {a : Nat}
    (h : s.poison (.sys a) = true) : t.poison (.sys a) = true := by
  unfold State.poison State.memLine State.linePoisoned at *
  simp only [Bool.or_eq_true, List.contains_iff_mem] at *
  rw [ht]
  exact h.imp_left (hp _)

theorem State.meet_poisons (s : State) (launch leaf a : Nat) : (s.meet launch leaf (.sys a)).time = s.time ∧
    (∀ n ∈ s.poisoned, n ∈ (s.meet launch leaf (.sys a)).poisoned) ∧
    (s.hard a = true → a / 128 ∈ (s.meet launch leaf (.sys a)).poisoned) := by
  have hsoft (t : State) (htime : t.time = s.time) (hpoison : t.poisoned = s.poisoned) (hhard : t.hardNext = s.hardNext) :
      let u := if t.hardNext.contains (a / 128) then
        (({ t with hardNext := t.hardNext.filter (fun x => x ≠ a / 128), poisoned := a / 128 :: t.poisoned }.countErr leaf 1).addFlags
          launch 16).askError leaf else t
      u.time = s.time ∧ (∀ n ∈ s.poisoned, n ∈ u.poisoned) ∧ (s.hard a = true → a / 128 ∈ u.poisoned) := by
    dsimp only
    rw [hhard, ← hpoison, ← htime]
    split
    · obtain ⟨hp, ht⟩ := State.askError_poisoned ((({ t with
        hardNext := s.hardNext.filter (fun x => x ≠ a / 128), poisoned := a / 128 :: t.poisoned }.countErr leaf 1).addFlags
          launch 16)) leaf
      rw [hp, ht]
      exact ⟨rfl, fun n hn => List.mem_cons_of_mem _ hn, fun _ => List.mem_cons_self⟩
    · rename_i hc
      exact ⟨rfl, fun n hn => hn, fun h => absurd h hc⟩
  unfold State.meet State.memLine
  dsimp only
  split <;> exact hsoft _ rfl rfl rfl

theorem State.poison_of_meets {ls : List Loc} {s : State} (launch leaf : Nat) (hsys : ∀ l ∈ ls, ∃ p, l = .sys p) {a : Nat}
    (h : s.poison (.sys a) = true) : (ls.foldl (fun s l => s.meet launch leaf l) s).poison (.sys a) = true := by
  induction ls generalizing s with
  | nil => exact h
  | cons l ls ih =>
    obtain ⟨⟨p, rfl⟩, hls⟩ := List.forall_mem_cons.1 hsys
    obtain ⟨ht, hp, -⟩ := State.meet_poisons s launch leaf p
    exact ih hls (State.poison_mono hp ht h)

/-- Places that are in order once their errors are met were so before. -/
theorem State.sound_of_meets {ls : List Loc} {s : State} {launch leaf : Nat} (hsys : ∀ l ∈ ls, ∃ p, l = .sys p)
    (h : ∀ l ∈ ls, (ls.foldl (fun s l => s.meet launch leaf l) s).poison l = false) : s.Sound ls := by
  induction ls generalizing s with
  | nil => exact nofun
  | cons l ls ih =>
    obtain ⟨⟨p, rfl⟩, hsys'⟩ := List.forall_mem_cons.1 hsys
    obtain ⟨hl, hls⟩ := List.forall_mem_cons.1 h
    obtain ⟨ht, hp, hmet⟩ := State.meet_poisons s launch leaf p
    have hsoft : s.hard p = false := by
      by_contra hc
      have hbad : (s.meet launch leaf (.sys p)).poison (.sys p) = true := by
        unfold State.poison State.memLine State.linePoisoned
        rw [Bool.or_eq_true, List.contains_iff_mem]
        exact .inl (hmet (Bool.not_eq_false _ ▸ hc))
      rw [List.foldl_cons, State.poison_of_meets launch leaf hsys' hbad] at hl
      cases hl
    have hm := State.meet_marks hsoft launch leaf
    refine List.forall_mem_cons.2 ⟨⟨p, rfl, hsoft, ?_⟩, fun l hmem => ?_⟩
    · by_contra hc
      rw [State.poison_of_meets launch leaf hsys (Bool.not_eq_false _ ▸ hc)] at hl
      cases hl
    · obtain ⟨q, e, hq, hq'⟩ := ih hsys' hls l hmem
      exact ⟨q, e, by rw [← hm.hard]; exact hq, by rw [← hm.poison]; exact hq'⟩

/-- A front-end read that gives bytes found every place in order, and the bytes are those of memory. -/
theorem State.frontLoad_some {s : State} {leaf vi launch a n : Nat} {bs : List (BitVec 8)}
    (h : (s.frontLoad leaf vi launch a n).2 = some bs) : ∃ ls es, s.frontReach leaf vi a { r := true } n = .ok (ls, es) ∧
      s.Sound ls ∧ bs = ls.map (fun l => (s.readByte hub l).1) := by
  cases hr : s.frontReach leaf vi a { r := true } n with
  | error e =>
    unfold State.frontLoad at h
    rw [hr] at h
    dsimp only at h
    split at h <;> contradiction
  | ok r =>
    obtain ⟨ls, es⟩ := r
    obtain ⟨hes, hsys⟩ := frontReach_soft hr
    have hw := State.hubWalk_marks hes launch leaf
    have hsound : s.Sound ls := by
      by_contra hc
      unfold State.frontLoad at h
      rw [hr] at h
      dsimp only at h
      split at h
      · cases h
      · rename_i hany
        refine hc fun l hl => ?_
        obtain ⟨p, e, hp, hp'⟩ := State.sound_of_meets (launch := launch) (leaf := leaf) hsys
          (fun l hl => Bool.eq_false_iff.2 (List.any_eq_false.1 (Bool.eq_false_iff.2 hany) l hl)) l hl
        exact ⟨p, e, by rw [← hw.hard]; exact hp, by rw [← hw.poison]; exact hp'⟩
    obtain ⟨t, -, e⟩ := State.frontLoad_of_sound (launch := launch) hr hsound
    rw [e] at h
    exact ⟨ls, es, rfl, hsound, (Option.some.inj h).symm⟩

end Sys2Proof.Machine

namespace Sys2Proof.Machine
open Sys2Proof

/-! ### A host call's record, and its completion (R343) -/

/-- A front-end write leaves the interfaces, and every group but for what it touches. -/
theorem State.frontWrite_keeps {s s1 : State} {leaf vi launch a w : Nat} {bs : List (BitVec 8)}
    (h : s.frontWrite leaf vi launch a bs = .ok (s1, w)) : s1.vis = s.vis ∧
      ∀ gid g, s.group gid = some g → ∃ g', s1.group gid = some g' := by
  unfold State.frontWrite at h
  obtain ⟨⟨ls, es⟩, hr, h⟩ := except_bind_ok h
  cases h
  have hw := State.hubWalk_marks (frontReach_soft hr).1 launch leaf
  refine ⟨hw.vis, fun gid g hg => ?_⟩
  obtain ⟨gs, e, hgs⟩ := State.addWrite_eq (s.hubWalk launch leaf es).bump { id := (s.hubWalk launch leaf es).nextId, gid := 0, lane := 0, launch := launch, core := none, level := 4, bytes := ls.zip bs }
  rw [e]
  obtain ⟨g', hg', -⟩ := hgs gid g (by
    unfold State.group at hg ⊢
    rw [show (s.hubWalk launch leaf es).bump.groups = s.groups from hw.groups]
    exact hg)
  exact ⟨g', hg'⟩

theorem VI.send_msix (v : VI) (n : Nat) : (v.send n).msix = v.msix ++ (if n ≤ 64 then [n] else []) := by
  unfold VI.send
  split
  · rfl
  · exact (List.append_nil _).symm

theorem VI.send_htail (v : VI) (n : Nat) : (v.send n).htail = v.htail := by
  unfold VI.send
  split <;> rfl

end Sys2Proof.Machine

namespace Sys2Proof.IssuingLanes
open Sys2Proof Sys2Proof.Machine

/-- The record goes to its ring with the vector, and the operation ends (R343). -/
theorem hostcallRecordWrite_writes {s s1 : State} {gid kd w : Nat} {g : Group} {o : Op} {imm : BitVec 8} {m : Mode}
    {lanes : LaneMask} {args : List DWord} {ws : List Nat} (hawake : s.awake gid = some g)
    (hop : g.firstOp (fun o => match o.kind with
        | .hcall _ _ _ _ _ ws => ws.all (fun w => s.performed w 6)
        | _ => false) = some o) (hkind : o.kind = .hcall imm m lanes args kd ws)
    (hroom : ((s.vi g.vi).htail - (s.vi g.vi).hhead).toNat < 2 ^ ((s.vi g.vi).hctl.toNat % 32))
    (hrun : s.exhausted g.leaf 5 = false)
    (hwrite : s.frontWrite g.leaf g.vi g.launch ((s.vi g.vi).hostcallSlot (s.vi g.vi).htail)
        (hostcallRecord (s.vi g.vi).htail imm m gid lanes args) = .ok (s1, w)) :
    ∃ s' g', exec (.hostcallRecordWrite gid) s = .next s' ∧ s'.group gid = some g' ∧
      s'.flight = s1.flight ∧ s'.mem = s1.mem ∧ (s'.vi g.vi).htail = (s.vi g.vi).htail + 1 ∧
      (s'.vi g.vi).msix = (s.vi g.vi).msix ++
        (if (s.vi g.vi).hctl.toNat / 4096 % 256 ≤ 64 then [(s.vi g.vi).hctl.toNat / 4096 % 256] else []) ∧
      g'.hostcall.seq = (s.vi g.vi).htail ∧ (∀ p ∈ g'.ops, p.id = o.id → p.ended = true) := by
  obtain ⟨hvis, hgroups⟩ := State.frontWrite_keeps hwrite
  obtain ⟨g1, hg1⟩ := hgroups gid g (State.group_of_awake hawake)
  have hvi : s1.vi g.vi = s.vi g.vi := by
    unfold State.vi
    rw [hvis]
  let s2 := (s1.modVI g.vi (fun v => ({ v with htail := v.htail + 1 }).send (ringVec v.hctl))).modGroup gid
    (fun g1 => { g1 with hostcall := { g1.hostcall with seq := (s.vi g.vi).htail } })
  have hg2 : s2.group gid = some { g1 with hostcall := { g1.hostcall with seq := (s.vi g.vi).htail } } := by
    rw [State.group_modGroup, if_pos rfl]
    exact congrArg (Option.map _) hg1
  obtain ⟨g', hg', hsame, hended, -⟩ := State.endOp_facts hg2 o.id none
  have hstep : exec (.hostcallRecordWrite gid) s = .next (s2.endOp gid o.id) := by
    have hfull : ringFull (s.vi g.vi).htail (s.vi g.vi).hhead (s.vi g.vi).hctl = false :=
      decide_eq_false (Nat.not_le.2 hroom)
    refine Eq.trans (show exec (.hostcallRecordWrite gid) s = .next (s.hostcallWrite gid) from rfl) ?_
    unfold State.hostcallWrite
    rw [hawake]
    dsimp only
    split
    · rename_i hnone
      cases hop.symm.trans hnone
    · rename_i o' hsome
      cases hop.symm.trans hsome
      rw [hkind]
      simp only [hfull, hrun, Bool.or_self, Bool.false_eq_true, if_false, hwrite]
      rfl
  have hafter : (s2.endOp gid o.id).vi g.vi =
      ({ s.vi g.vi with htail := (s.vi g.vi).htail + 1 }).send (ringVec (s.vi g.vi).hctl) := by
    have hv := State.vi_modVI s1 g.vi g.vi (fun v => ({ v with htail := v.htail + 1 }).send (ringVec v.hctl))
    rw [if_pos rfl, hvi] at hv
    exact hv
  refine ⟨_, g', hstep, hg', rfl, rfl, ?_, ?_, ?_, hended⟩
  · rw [hafter, VI.send_htail]
  · rw [hafter, VI.send_msix]
    rfl
  · have e := congrArg (fun g => g.hostcall.seq) hsame
    exact e

/-- RESULT goes to K[d], and the lanes that the call parked go on (R343). -/
theorem hdoneWrite_resumes {s : State} {vi gid : Nat} {seq : BitVec 32} {g : Group} {bs : List Byte}
    (hfind : s.groups.find? (fun p => p.2.awaitsCall vi seq) = some (gid, g)) (hg : s.group gid = some g)
    (hres : g.resident = true) (hread : (s.frontLoad g.leaf g.vi g.launch ((s.vi g.vi).hostcallSlot seq + 0x38) 8).2 = some bs) :
    ∃ s' g', exec (.hdoneWrite vi seq) s = .next s' ∧ s'.group gid = some g' ∧ (s'.vi vi).hdone = seq ∧
      (∀ n, n < 64 → g'.kGet n = if n = g.hostcall.kd.toNat then BitVec.ofNat 64 (leNat bs) else g.kGet n) ∧
      g'.v = g.v ∧ g'.p = g.p ∧ g'.hostcall.waiting = false ∧
      (∀ j, g'.lane j = if g.hostcall.lanes.getLsbD j = true ∧ (g.lane j).park = .hostcall then
        { g.lane j with park := .none } else g.lane j) := by
  have hawaits := List.find?_some hfind
  unfold Group.awaitsCall at hawaits
  simp only [Bool.and_eq_true, beq_iff_eq] at hawaits
  obtain ⟨⟨⟨-, hvi⟩, hseq⟩, -⟩ := hawaits
  let s0 := s.modVI vi (fun v => { v with hdone := seq })
  have hv (v : Nat) : (s0.vi v).sroot = (s.vi v).sroot ∧ (s0.vi v).hbase = (s.vi v).hbase ∧ (s0.vi v).hctl = (s.vi v).hctl := by
    rw [State.vi_modVI]
    split
    · rename_i e
      rw [e]
      exact ⟨rfl, rfl, rfl⟩
    · exact ⟨rfl, rfl, rfl⟩
  have hslot : (s0.vi g.vi).hostcallSlot g.hostcall.seq = (s.vi g.vi).hostcallSlot seq := by
    obtain ⟨-, hbase, hctl⟩ := hv g.vi
    unfold VI.hostcallSlot
    rw [hbase, hctl, hseq]
  obtain ⟨ls, es, hreach, hsound, rfl⟩ := State.frontLoad_some hread
  rw [← frontReach_vis (vs := s0.vis) (fun v => (hv v).1)] at hreach
  obtain ⟨t, hmarks, hload⟩ := State.frontLoad_of_sound (s := s0) (launch := g.launch) hreach hsound
  let bs := ls.map (fun l => (s.readByte hub l).1)
  let ps := allLanes.filter (fun i => g.hostcall.lanes.getLsbD i)
  let wake (l : Lane) : Lane := if l.park = .hostcall then { l with park := .none } else l
  let gk : Group := { g.kPut g.hostcall.kd.toNat (BitVec.ofNat 64 (leNat bs)) with hostcall := {} }
  let g' : Group := ps.foldl (fun g i => g.modLane i wake) gk
  have hgt : t.group gid = some g := by
    unfold State.group
    rw [hmarks.groups]
    exact hg
  have hstep : exec (.hdoneWrite vi seq) s = .next ((t.modGroup gid (fun g =>
      { g.kPut g.hostcall.kd.toNat (BitVec.ofNat 64 (leNat bs)) with hostcall := {} })).modLanes gid ps (fun _ => wake)) := by
    refine Eq.trans (show exec (.hdoneWrite vi seq) s = .next (s.hostDone vi seq) from rfl) ?_
    unfold State.hostDone
    have hfind0 : s0.groups.find? (fun p => p.2.awaitsCall vi seq) = some (gid, g) := hfind
    simp only [show s.modVI vi (fun v => { v with hdone := seq }) = s0 from rfl, hfind0, hres, if_true]
    unfold State.callDone
    rw [hslot, hload]
    rfl
  have hg' := ((Upd.refl hgt).modGroup (fun g =>
    { g.kPut g.hostcall.kd.toNat (BitVec.ofNat 64 (leNat bs)) with hostcall := {} })).modGroup (fun g =>
      ps.foldl (fun g i => g.modLane i wake) g)
  have hlanes : g' = { gk with lanes := _ } := Group.foldl_modLane_eq (List.nodup_range.filter _) (fun _ => wake) gk
  refine ⟨_, g', hstep, hg'.group, ?_, fun n _ => ?_, ?_, ?_, ?_, fun j => ?_⟩
  · have hvis : (t.vi vi).hdone = (s0.vi vi).hdone := by
      unfold State.vi
      rw [hmarks.vis]
    refine Eq.trans hvis ?_
    rw [State.vi_modVI, if_pos rfl]
  · rw [hlanes]
    exact tblGet_tblPut _ _ _ _ _
  · exact Eq.trans (congrArg Group.v hlanes) rfl
  · exact Eq.trans (congrArg Group.p hlanes) rfl
  · exact congrArg (fun g => g.hostcall.waiting) hlanes
  · have hl := Group.lane_foldl ps (fun _ => wake) gk j (List.nodup_range.filter _)
    have hmem : j ∈ ps ↔ g.hostcall.lanes.getLsbD j = true :=
      ⟨fun hj => of_decide_eq_true (by simpa using (List.mem_filter.1 hj).2), fun hj => List.mem_filter.2 ⟨List.mem_range.2 (by
        by_contra hc
        rw [BitVec.getLsbD_of_ge _ _ (Nat.not_lt.1 hc)] at hj
        cases hj), hj⟩⟩
    refine hl.trans ?_
    by_cases hj : g.hostcall.lanes.getLsbD j = true
    · rw [if_pos (hmem.2 hj)]
      exact if_congr (iff_of_eq (by rw [eq_true hj, true_and]; rfl)) rfl rfl
    · rw [if_neg (fun hc => hj (hmem.1 hc)), if_neg (fun hc => hj hc.1)]
      rfl

/-- A group that is not resident keeps the completion for its restore (R343). -/
theorem hdoneWrite_holds {s : State} {vi gid : Nat} {seq : BitVec 32} {g : Group}
    (hfind : s.groups.find? (fun p => p.2.awaitsCall vi seq) = some (gid, g)) (hg : s.group gid = some g)
    (hres : g.resident = false) : ∃ s', exec (.hdoneWrite vi seq) s = .next s' ∧ (s'.vi vi).hdone = seq ∧
      s'.group gid = some { g with hostcall := { g.hostcall with held := true } } := by
  let s0 := s.modVI vi (fun v => { v with hdone := seq })
  have hfind0 : s0.groups.find? (fun p => p.2.awaitsCall vi seq) = some (gid, g) := hfind
  refine ⟨s0.modGroup gid (fun g => { g with hostcall := { g.hostcall with held := true } }), ?_, ?_, ?_⟩
  · refine Eq.trans (show exec (.hdoneWrite vi seq) s = .next (s.hostDone vi seq) from rfl) ?_
    unfold State.hostDone
    simp only [show s.modVI vi (fun v => { v with hdone := seq }) = s0 from rfl, hfind0, hres, Bool.false_eq_true, if_false]
  · show (s0.vi vi).hdone = seq
    rw [State.vi_modVI, if_pos rfl]
  · rw [State.group_modGroup, if_pos rfl]
    exact congrArg (Option.map _) hg

/-- Settles O35: clause by clause, the call at its issue, its record, and its completion. -/
theorem hostCalls : Obligations.HostCalls := by
  unfold Obligations.HostCalls
  refine fun s => ⟨fun iss g d b x => ?_, ?_, ?_, ?_⟩
  · intro i v full h
    exact ⟨hcall_of_none h, fun hne => ⟨hcall_traps h hne, hcall_blocks h hne, hcall_parks h hne⟩⟩
  · intro gid g o imm m lanes args kd ws s1 w v hawake hop hkind hroom hrun hwrite
    exact hostcallRecordWrite_writes hawake hop hkind hroom hrun hwrite
  · intro vi gid seq g bs hfind hg hres hread
    exact hdoneWrite_resumes hfind hg hres hread
  · intro vi gid seq g hfind hg hres
    exact hdoneWrite_holds hfind hg hres

end Sys2Proof.IssuingLanes

namespace Sys2Proof.IssuingLanes
open Sys2Proof Sys2Proof.Machine Sys2Proof.Tests

/-! ### An access translated through a table entry that another interface brought into the cache (R176, R182, R66)

The walk counts as one that read the entry, for the cache holds it under another interface. So an uncorrectable error marked on
its line is met at issue, and the model asks the host about it through the assist ring: memory of the host is written, and a
monitor armed there is touched. -/

/-- What an outcome computes of its state. -/
def inNext {α : Type} (f : State → α) : Out → Option α
  | .next s => some (f s)
  | _ => none

theorem monitor_of_next {o : Out} {s' : State} {gid : Nat} {g' : Machine.Group} {m : MonState} (hs' : o = .next s')
    (hg' : s'.group gid = some g') (h : inNext (fun s' => (s'.group gid).map (fun g => g.mon.state)) o = some (some m)) :
    g'.mon.state = m := by
  rw [hs'] at h
  have e : (s'.group gid).map (fun g => g.mon.state) = some m := Option.some.inj h
  rw [hg'] at e
  exact Option.some.inj e

/-- The root entry of the leaf's stage 2, as a walk for interface 2 has brought it into the cluster's cache. -/
def rootForAnother : TlbEntry :=
  { cluster := 0, leaf := 0, vi := 2, stage := 2, level := 3, input := 0, at_ := placedTable, value := 0x2001 }

/-- The test group, its monitor armed on the line of the assist ring's first record. -/
def watchingGroup : Group := { group0 with mon := { state := .armed, place := (Loc.sys hostBase).line } }

/-- The test machine, in which the next read of the line of the leaf's stage-2 root meets an uncorrectable error. The host, which
decides about errors of the leaf, has set up an assist ring. -/
def accessMeetsError : State :=
  { state0 watchingGroup issueT with
    flight := [], tlb := [rootForAnother], hardNext := [placedTable / 128], mgmt := { assist := { ctl := 0x100 } }
    parts := [(0, { configured := true, clusters := 7, channels := 1, slices := 1, modes := 0x20, s2root := placedTable, vis := [1, 2] })] }

/-- The store of lane 0, to system address 0x8000. -/
def storeInstr : Instr := .stG32 5 8 0 .short

def storeAccess : Spec.Access := (Spec.access accessMeetsError issueT watchingGroup storeInstr).getD ⟨0, false, fun _ => [], false, fun _ => none⟩

/-- The step puts the host's record, a request of function 5, at the ring's first place. -/
theorem store_asks_host : inNext (fun s' => (s'.readByte hub (.sys (hostBase + 4))).1) (exec storeInstr accessMeetsError) =
    some (tblGet (memPut accessMeetsError.mem hostBase (assistRecord 0 0 5 [])) 0 (hostBase + 4)) := rfl

/-- Byte 4 of the ring, the function of the request, is 5 after the step, and was 0 before it. -/
theorem store_changes_host_memory :
    inNext (fun s' => (s'.readByte hub (.sys (hostBase + 4))).1) (exec storeInstr accessMeetsError) = some 5 ∧
      (accessMeetsError.readByte hub (.sys (hostBase + 4))).1 = 0 := by
  have length : (assistRecord 0 0 5 []).length = 64 := rfl
  have inRecord : hostBase ≤ hostBase + 4 ∧ hostBase + 4 < hostBase + (assistRecord 0 0 5 []).length := by omega
  have byte : (assistRecord 0 0 5 []).getD 4 0 = 5 := rfl
  refine ⟨?_, by decide +kernel⟩
  rw [store_asks_host, memPut_get, if_pos inRecord, Nat.add_sub_cancel_left, byte]

/-- Refutes O14: a store whose lanes pass their checks may change a byte of host memory, for its walk can meet an uncorrectable
error (R182), and the host is asked about it through the assist ring (R66). -/
theorem not_stores : ¬ Obligations.Stores := by
  unfold Obligations.Stores
  rintro ⟨-, hStore⟩
  have hpasses : Spec.Passes accessMeetsError (checked accessMeetsError issueT watchingGroup storeInstr storeAccess).1 issueT
      watchingGroup storeInstr storeAccess (checked accessMeetsError issueT watchingGroup storeInstr storeAccess).2.2 :=
    passes_of (by decide) (by decide) rfl (by decide +kernel) (by decide +kernel)
  obtain ⟨-, s', hs', hOthers, -⟩ := hStore accessMeetsError _ _ issueT watchingGroup { watchingGroup with mon.state := .touched } storeInstr storeAccess _ _ rfl rfl
    (free_of_check (by decide)) hpasses rfl (by decide +kernel)
  obtain ⟨after, before⟩ := store_changes_host_memory
  have same := hOthers hub (.sys (hostBase + 4)) (.inl nofun)
  rw [hs'] at after
  rw [before] at same
  exact absurd (same.symm.trans (Option.some.inj after)) (by decide)

/-- Refutes O16: the check of `ldk`'s access may touch the monitor of its group, so that more of the group changes than
LoadK allows: the host is asked, through the assist ring on which the group has armed its monitor, about an error that the walk
meets (R66, R182). -/
theorem not_loadK : ¬ Obligations.LoadK := by
  unfold Obligations.LoadK
  intro hLoad
  obtain ⟨-, hIssue⟩ := hLoad accessMeetsError issueT watchingGroup 4 8 0 .short (free_of_check (by decide))
  obtain ⟨s', g', hs', hg', hSame, -, -⟩ := hIssue 0 (.sys 0x8000) _ rfl (by decide +kernel) rfl
  have touched : inNext (fun s' => (s'.group 7).map (fun g => g.mon.state)) (exec (.ldk 4 8 0 .short) accessMeetsError) =
      some (some .touched) := by decide +kernel
  have armed : g'.mon.state = .armed := congrArg (fun g => g.mon.state) hSame
  exact absurd (armed.symm.trans (monitor_of_next hs' hg' touched)) (by decide)

/-! ### A halt whose record lands on a line that the group watches (R301, R334, R393) -/

/-- The hypervisor group of the tests, its monitor armed on the line in host memory at which the halt ring begins. -/
def watchingHypervisor : Group := { groupH .hypervisor with mon := { state := .armed, place := (Loc.sys hostBase).line } }

/-- A machine with that group, for which the host has set up a halt ring of two records. -/
def haltIsReported : State := { state0 watchingHypervisor (issueH .hypervisor) with mgmt := { halt := { ctl := 0x101 } } }

/-- Refutes O34: `lhalt` may change the monitor of its group, which InvalidationsAndInjection has stay as it was: the record of
the halt is written to the halt ring (R393), on whose line the group has armed its monitor (R301). -/
theorem not_invalidationsAndInjection : ¬ Obligations.InvalidationsAndInjection := by
  unfold Obligations.InvalidationsAndInjection
  intro hAll
  obtain ⟨-, -, hHalt⟩ := hAll haltIsReported (issueH .hypervisor) watchingHypervisor
  obtain ⟨s', g', hs', hg', hSame, -⟩ := hHalt .short (free_of_check (by decide))
  have touched : inNext (fun s' => (s'.group 7).map (fun g => g.mon.state)) (exec (.lhalt .short) haltIsReported) =
      some (some .touched) := by decide +kernel
  have armed : g'.mon.state = .armed := congrArg (fun g => g.mon.state) hSame
  exact absurd (armed.symm.trans (monitor_of_next hs' hg' touched)) (by decide)

end Sys2Proof.IssuingLanes

namespace Sys2Proof.Machine
open Sys2Proof

/-! ### Barrier changes (R293, R296, R297) -/

theorem Group.asLane_unread (g : Group) (n : Nat) : (g.asLane n).unread = g.unread := by
  unfold Group.unread
  rw [Group.asLane_ops]

theorem State.coverNow_asLane (s : State) (gid : Nat) (g : Group) (n : Nat) :
    s.coverNow gid (g.asLane n) = { writes := s.ownWrites gid ++ g.seen ++ g.fwaited, loads := g.unread } := by
  unfold State.coverNow
  rw [Group.asLane_seen, Group.asLane_fwaited, Group.asLane_unread]

theorem plainCtx_kB (s : State) (iss : Issue) (g : Group) (i : Instr) (n : Nat) :
    (s.plainCtx iss g i).kB (g.asLane n) = g.kGet (s.slots g iss i).b.num := Group.asLane_kGet_ ..

theorem plainCtx_kA (s : State) (iss : Issue) (g : Group) (i : Instr) (n k : Nat) :
    (s.plainCtx iss g i).kA (g.asLane n) k = g.kGet ((s.slots g iss i).a.num + k) := Group.asLane_kGet_ ..

/-- The change that an instruction sends to an object. -/
def newChange (s : State) (iss : Issue) (g : Group) (h : Nat) (pkg : Option Nat) (q : BarAsk) : Change :=
  { gid := iss.gid, op := some g.nextOp, handle := h, pkg := pkg, ask := q,
    cover := { writes := s.ownWrites iss.gid ++ g.seen ++ g.fwaited, loads := g.unread },
    scope := s.barrierScope h pkg, leaf := g.leaf }

theorem State.askBarrier_eq (s : State) (iss : Issue) (g : Group) (i : Instr) (n h : Nat) (pkg : Option Nat) (q : BarAsk) :
    s.askBarrier (s.plainCtx iss g i) (g.asLane n) h pkg q =
      State.addOp { s with nextId := s.nextId + 1, changes := tblSet s.changes s.nextId (newChange s iss g h pkg q) } iss.gid .st
        (.barrier s.nextId) := by
  unfold State.askBarrier newChange
  rw [State.coverNow_asLane, Group.asLane_nextOp, Group.asLane_leaf]
  rfl

/-- `expect` traps of what R297 refuses. -/
theorem overAsk_expect {s : State} {h : Nat} {pkg : Option Nat} {v : DWord} :
    Spec.overAsk s h pkg (.expect (v.toNat % 2 ^ 24) v) ↔ (decide (v.toNat / 2 ^ 24 ≠ 0) || (match pkg with
      | some _ => false
      | none => (s.applyExpect h (v.toNat % 2 ^ 24)).2)) = true := by
  have hword : 2 ^ 24 ≤ v.toNat ↔ v.toNat / 2 ^ 24 ≠ 0 := by omega
  rw [Bool.or_eq_true, decide_eq_true_eq]
  refine or_congr hword ?_
  cases pkg with
  | some p => simp
  | none =>
    unfold State.applyExpect Barrier.expect
    cases hb : tblFind s.barriers h with
    | none => simp
    | some b =>
      have hlimit : 2 ^ 24 ≤ b.expb + v.toNat % 2 ^ 24 ↔ 0xFFFFFF < b.expb + v.toNat % 2 ^ 24 := by omega
      simp only [true_and, Option.some.injEq, exists_eq_left', hlimit]
      split <;> rename_i hover <;> split at hover <;> simp_all

end Sys2Proof.Machine

namespace Sys2Proof.IssuingLanes
open Sys2Proof Sys2Proof.Machine

/-- An instruction that asks for a change, with the entry whose body it runs. -/
structure ChangeOf (s : State) (iss : Issue) (g : Group) (i : Instr) (b : KReg) (q : BarAsk) (e : Entry) : Prop where
  runs : exec i s = serve i s e
  mode : e.mode = .user
  ok : e.ok = fun _ _ _ _ => []
  cls : e.cls = some .st
  none_ : g.activeLanes iss i = [] → ∀ n, e.body (s.plainCtx iss g i) s (g.asLane n) = .done (s.addEmpty iss.gid .st) [] none []
  unnamed : g.activeLanes iss i ≠ [] → ∀ n, s.barrierFor iss.gid (g.asLane n) (g.kGet b.toNat) = none →
    e.body (s.plainCtx iss g i) s (g.asLane n) = trapActive (s.plainCtx iss g i) s 0x11 (g.kGet b.toNat)
  refused : g.activeLanes iss i ≠ [] → ∀ n h pkg, s.barrierFor iss.gid (g.asLane n) (g.kGet b.toNat) = some (h, pkg) →
    ∀ m v, q = .expect m v → Spec.overAsk s h pkg q →
      e.body (s.plainCtx iss g i) s (g.asLane n) = trapActive (s.plainCtx iss g i) s 0x11 v
  asks : g.activeLanes iss i ≠ [] → ∀ n h pkg, s.barrierFor iss.gid (g.asLane n) (g.kGet b.toNat) = some (h, pkg) →
    ¬ Spec.overAsk s h pkg q → e.body (s.plainCtx iss g i) s (g.asLane n) =
      .done (s.askBarrier (s.plainCtx iss g i) (g.asLane n) h pkg q) [] none []

/-- `arrive` and `bdrop`, which R297 never refuses. -/
theorem changeOf_count {s : State} {iss : Issue} {g : Group} {i : Instr} {b : KReg} {ask : Nat → BarAsk}
    (hrun : exec i s = serve i s (changeEntry ask)) (hslot : (s.slots g iss i).b.num = b.toNat)
    (hask : ∀ n m v, ask n ≠ .expect m v) :
    ChangeOf s iss g i b (ask (g.activeLanes iss i).length) (changeEntry ask) where
  runs := hrun
  mode := rfl
  ok := rfl
  cls := rfl
  none_ hnone n := by
    simp only [changeEntry, plainCtx_active, hnone, List.isEmpty_nil, if_true, plainCtx_gid]
  unnamed hne n hb := by
    simp only [changeEntry, plainCtx_active, List.isEmpty_eq_false_iff.2 hne, Bool.false_eq_true, if_false, plainCtx_kB, hslot,
      plainCtx_gid, hb]
    rfl
  refused hne n h pkg hb m v hq := absurd hq (hask _ m v)
  asks hne n h pkg hb _ := by
    simp only [changeEntry, plainCtx_active, List.isEmpty_eq_false_iff.2 hne, Bool.false_eq_true, if_false, plainCtx_kB, hslot,
      plainCtx_gid, hb]

theorem changeOf_expect (s : State) (iss : Issue) (g : Group) (a b : KReg) (x : Ext) :
    ChangeOf s iss g (.expect a b x) b (.expect ((g.kGet a.toNat).toNat % 2 ^ 24) (g.kGet a.toNat)) expectEntry where
  runs := rfl
  mode := rfl
  ok := rfl
  cls := rfl
  none_ hnone n := by
    simp only [expectEntry, plainCtx_active, hnone, List.isEmpty_nil, if_true, plainCtx_gid]
  unnamed hne n hb := by
    simp only [expectEntry, plainCtx_active, List.isEmpty_eq_false_iff.2 hne, Bool.false_eq_true, if_false, plainCtx_kB,
      plainCtx_gid]
    rw [show (s.slots g iss (.expect a b x)).b.num = b.toNat from rfl, hb]
    rfl
  refused hne n h pkg hb m v hq hover := by
    cases hq
    have hover := overAsk_expect.1 hover
    simp only [expectEntry, plainCtx_active, List.isEmpty_eq_false_iff.2 hne, Bool.false_eq_true, if_false, plainCtx_kB,
      plainCtx_gid, plainCtx_kA]
    rw [show (s.slots g iss (.expect a b x)).b.num = b.toNat from rfl, hb]
    exact if_pos hover
  asks hne n h pkg hb hover := by
    have hover := mt overAsk_expect.2 hover
    simp only [expectEntry, plainCtx_active, List.isEmpty_eq_false_iff.2 hne, Bool.false_eq_true, if_false, plainCtx_kB,
      plainCtx_gid, plainCtx_kA]
    rw [show (s.slots g iss (.expect a b x)).b.num = b.toNat from rfl, hb]
    exact if_neg hover

theorem change_entry {s : State} {iss : Issue} {g : Group} {i : Instr} {b : KReg} {q : BarAsk}
    (h : Spec.asked iss g i = some (b, q)) : ∃ e, ChangeOf s iss g i b q e := by
  cases i with
  | arrive b x => cases h; exact ⟨_, changeOf_count rfl rfl nofun⟩
  | bdrop b x => cases h; exact ⟨_, changeOf_count rfl rfl nofun⟩
  | expect a b x => cases h; exact ⟨_, changeOf_expect s iss g a b x⟩
  | _ => cases h

/-- `arrive`, `bdrop` and `expect` (R125, R293, R296, R297). -/
theorem barrierChanges : Spec.BarrierChanges := by
  intro s iss g i b q hasked w g' traps h
  obtain ⟨e, he⟩ := change_entry (s := s) hasked
  have h : Free s iss g i e.mode e.ok e.cls := by rw [he.mode, he.ok, he.cls]; exact h
  have hseen : g' = g.asLane ((s.plainCtx iss g i).lowest.getD 0) := (plainCtx_lowest s iss g i).symm
  rw [hseen]
  refine ⟨fun hnone => ?_, fun hne => ⟨fun hb hm => ?_, fun hd pkg hb => ⟨fun n v hq hover hm => ?_, fun hover => ?_⟩⟩⟩
  · exact endsIn_of_addEmpty he.runs h (he.none_ hnone _)
  · exact endsIn_of_trapActive he.runs h hm (he.unnamed hne _ hb)
  · exact endsIn_of_trapActive he.runs h hm (he.refused hne _ hd pkg hb n v hq hover)
  · exact endsIn_of_addOp (t := none) (lines := []) (opc := 0) he.runs h
      ((he.asks hne _ hd pkg hb hover).trans (by rw [State.askBarrier_eq]; rfl)) h.group h.settled (h.lanes_there (fun _ _ => rfl))

section
variable {s : State} {iss : Issue} {g : Group} {b : KReg} {x : Ext}

/-- `bwait` (R291, R298). -/
theorem bwait_waits (h : Free s iss g (.bwait b x) .user (fun _ _ _ _ => []) none) (hne : g.activeLanes iss (.bwait b x) ≠ []) :
    (s.barrierFor iss.gid (Spec.seenBy iss g (.bwait b x)) (g.kGet b.toNat) = none → (trapMode g iss.mode).isSome = true →
      EndsIn s iss (.bwait b x) s g (fun j => if j ∈ g.activeLanes iss (.bwait b x) then
        (LaneEnd.trap 0x11 (g.kGet b.toNat)).move g iss (g.lane j) else (g.lane j).pass iss)) ∧
    ∀ hd pkg, s.barrierFor iss.gid (Spec.seenBy iss g (.bwait b x)) (g.kGet b.toNat) = some (hd, pkg) →
      ((s.phaseOf hd pkg).getLsbD 0 = (g.kGet b.toNat).getLsbD 32 → exec (.bwait b x) s = .next { s with issue := none }) ∧
      ((s.phaseOf hd pkg).getLsbD 0 ≠ (g.kGet b.toNat).getLsbD 32 →
        EndsIn s iss (.bwait b x) s g (fun j => (g.lane j).pass iss)) := by
  have hbody (n : Nat) : bwaitEntry.body (s.plainCtx iss g (.bwait b x)) s (g.asLane n) =
      match s.barrierFor iss.gid (g.asLane n) (g.kGet b.toNat) with
      | none => trapActive (s.plainCtx iss g (.bwait b x)) s 0x11 (g.kGet b.toNat)
      | some (hd, pkg) => if (s.phaseOf hd pkg).getLsbD 0 == (g.kGet b.toNat).getLsbD 32 then .blocked else .done s [] none [] := by
    simp only [bwaitEntry, plainCtx_active, List.isEmpty_eq_false_iff.2 hne, Bool.false_eq_true, if_false, plainCtx_kB,
      plainCtx_gid, wordPhase, bitAt_toNat]
    rfl
  rw [← plainCtx_lowest s]
  refine ⟨fun hb hm => endsIn_of_trapActive (e := bwaitEntry) rfl h hm (by rw [hbody, hb]), fun hd pkg hb => ⟨fun hph => ?_, fun hph => ?_⟩⟩
  · exact serve_blocked (e := bwaitEntry) h (by rw [hbody, hb]; exact if_pos (beq_iff_eq.2 hph))
  · exact endsIn_of_ends (e := bwaitEntry) (ends := []) rfl h
      (by rw [hbody, hb]; exact if_neg (fun e => hph (beq_iff_eq.1 e))) (fun _ _ => rfl) (fun _ _ => rfl)

/-- `bphase` (R291, R298). -/
theorem bphase_reads {d : VReg} {hd : Nat} {pkg : Option Nat} (h : Free s iss g (.bphase d b x) .user (fun _ _ _ _ => []) none)
    (hne : g.activeLanes iss (.bphase d b x) ≠ [])
    (hb : s.barrierFor iss.gid (Spec.seenBy iss g (.bphase d b x)) (g.kGet b.toNat) = some (hd, pkg)) :
    EndsWith s iss (.bphase d b x) s g (fun j => (g.lane j).pass iss) (g.activeLanes iss (.bphase d b x))
      (fun _ => (s.phaseOf hd pkg).setWidth 64) .n32 := by
  obtain ⟨j0, hj0⟩ := List.exists_mem_of_ne_nil _ h.lanes
  refine endsWith_of_results (e := bphaseEntry) (ends := []) (lines := []) rfl h ?_ h.group rfl h.settled
    (h.lanes_there (fun _ _ => rfl)) (fun j hj => (List.mem_filter.1 hj).1) rfl ⟨j0, hj0, rfl⟩ (fun _ _ => rfl)
  rw [← plainCtx_lowest s] at hb
  simp only [bphaseEntry, plainCtx_active, List.isEmpty_eq_false_iff.2 hne, Bool.false_eq_true, if_false, plainCtx_kB,
    plainCtx_gid]
  rw [show (s.slots g iss (.bphase d b x)).b.num = b.toNat from rfl, hb]
  have hphase : BitVec.ofNat 64 (s.phaseOf hd pkg).toNat = (s.phaseOf hd pkg).setWidth 64 := BitVec.ofNat_toNat 64 _
  rw [← hphase]

end

theorem barrierReads : Spec.BarrierReads :=
  fun _ _ _ => ⟨fun _ _ h hne => bwait_waits h hne, fun _ _ _ _ _ h hne hb => bphase_reads h hne hb⟩

/-- Settles O42: the changes and the reads of barrier objects. -/
theorem barriers : Obligations.Barriers := ⟨barrierChanges, barrierReads⟩

end Sys2Proof.IssuingLanes

namespace Sys2Proof.Machine
open Sys2Proof

/-! ### Requests of an issue (R303, R304) -/

/-- A lane joins the request on its address. -/
theorem joinRequest_eq (i : Nat) (l : Loc) (a : DWord) (rs : List (DWord × Loc × List Nat)) (hn : (rs.map (·.1)).Nodup) :
    joinRequest i l a rs = if a ∈ rs.map (·.1) then rs.map (fun r => if r.1 = a then (r.1, r.2.1, r.2.2 ++ [i]) else r)
      else rs ++ [(a, l, [i])] := by
  induction rs with
  | nil => rfl
  | cons r rs ih =>
    rw [List.map_cons, List.nodup_cons] at hn
    obtain ⟨hr, hn⟩ := hn
    unfold joinRequest
    by_cases h : r.1 = a
    · subst h
      have hrest : rs.map (fun q => if q.1 = r.1 then (q.1, q.2.1, q.2.2 ++ [i]) else q) = rs := by
        refine (List.map_congr_left (fun q hq => ?_)).trans (List.map_id rs)
        rw [if_neg (fun e => hr (List.mem_map.2 ⟨q, hq, e⟩))]
        rfl
      rw [if_pos rfl, if_pos (by rw [List.map_cons]; exact List.mem_cons_self), List.map_cons, if_pos rfl, hrest]
    · rw [if_neg h, ih hn]
      by_cases ha : a ∈ rs.map (·.1)
      · rw [if_pos ha, if_pos (by rw [List.map_cons]; exact List.mem_cons_of_mem _ ha), List.map_cons, if_neg h]
      · rw [if_neg ha, if_neg (by rw [List.map_cons, List.mem_cons]; rintro (e | e); exacts [h e.symm, ha e]), List.cons_append]

/-- What the lanes `ps` of one issue have on the address of lane `p`. -/
def requestOn (ps : List (Nat × Loc × DWord)) (p : Nat × Loc × DWord) : DWord × Loc × List Nat :=
  (p.2.2, p.2.1, Spec.sharing ps p)

theorem sharing_append (ps : List (Nat × Loc × DWord)) (q p : Nat × Loc × DWord) :
    Spec.sharing (ps ++ [q]) p = Spec.sharing ps p ++ if q.2.2 = p.2.2 then [q.1] else [] := by
  unfold Spec.sharing
  rw [List.filter_append, List.map_append]
  congr 1
  by_cases h : q.2.2 = p.2.2 <;> simp [h]

theorem mem_sharing {ps : List (Nat × Loc × DWord)} {p : Nat × Loc × DWord} {i : Nat} :
    i ∈ Spec.sharing ps p ↔ ∃ q ∈ ps, q.2.2 = p.2.2 ∧ q.1 = i := by
  unfold Spec.sharing
  simp only [List.mem_map, List.mem_filter, decide_eq_true_eq, and_assoc]

/-- A further lane is the first of its address where no lane before it names that address. -/
theorem firsts_append {ps : List (Nat × Loc × DWord)} {q : Nat × Loc × DWord} (hn : ∀ p ∈ ps, p.1 ≠ q.1) :
    Spec.firsts (ps ++ [q]) = Spec.firsts ps ++ if Spec.sharing ps q = [] then [q] else [] := by
  unfold Spec.firsts
  rw [List.filter_append]
  congr 1
  · refine List.filter_congr (fun p hp => ?_)
    obtain ⟨i, is, hs⟩ := List.exists_cons_of_ne_nil (List.ne_nil_of_mem (mem_sharing.2 ⟨p, hp, rfl, rfl⟩))
    rw [sharing_append, hs]
    rfl
  · have hlast : Spec.sharing (ps ++ [q]) q = Spec.sharing ps q ++ [q.1] := by rw [sharing_append, if_pos rfl]
    by_cases h : Spec.sharing ps q = []
    · rw [if_pos h]
      exact List.filter_cons_of_pos (decide_eq_true (by rw [hlast, h]; rfl))
    · obtain ⟨i, is, hs⟩ := List.exists_cons_of_ne_nil h
      obtain ⟨p, hp, -, hpi⟩ := mem_sharing.1 (hs ▸ List.mem_cons_self : i ∈ Spec.sharing ps q)
      rw [if_neg h]
      refine List.filter_cons_of_neg (fun hd => hn p hp ?_)
      rw [hlast, hs] at hd
      exact hpi.trans (Option.some.inj (of_decide_eq_true hd))

/-- The address of a lane that shares it is that of some first lane. -/
theorem mem_firsts_of_sharing {ps : List (Nat × Loc × DWord)} {q : Nat × Loc × DWord} (h : Spec.sharing ps q ≠ []) :
    ∃ p ∈ Spec.firsts ps, p.2.2 = q.2.2 := by
  obtain ⟨i, is, hs⟩ := List.exists_cons_of_ne_nil h
  obtain ⟨p, hp, ha, hpi⟩ := mem_sharing.1 (hs ▸ List.mem_cons_self : i ∈ Spec.sharing ps q)
  have hsame : Spec.sharing ps p = Spec.sharing ps q := by unfold Spec.sharing; rw [ha]
  exact ⟨p, List.mem_filter.2 ⟨hp, decide_eq_true (by rw [hsame, hs, hpi]; rfl)⟩, ha⟩

/-- The requests of an issue are one for each address, in the order of its first lane, with the lanes that name it in order. -/
theorem byAddress_eq {ps : List (Nat × Loc × DWord)} (hn : (ps.map (·.1)).Nodup) :
    byAddress ps = (Spec.firsts ps).map (requestOn ps) ∧ ((byAddress ps).map (·.1)).Nodup := by
  induction ps using List.reverseRecOn with
  | nil => exact ⟨rfl, List.nodup_nil⟩
  | append_singleton ps q ih =>
    rw [List.map_append, List.nodup_append] at hn
    obtain ⟨hps, -, hdisj⟩ := hn
    obtain ⟨heq, hnodup⟩ := ih hps
    have hq : ∀ p ∈ ps, p.1 ≠ q.1 := fun p hp => hdisj _ (List.mem_map_of_mem hp) _ List.mem_cons_self
    have hstep : byAddress (ps ++ [q]) = joinRequest q.1 q.2.1 q.2.2 (byAddress ps) := by
      unfold byAddress
      rw [List.foldl_append]
      rfl
    have haddr : (byAddress ps).map (·.1) = (Spec.firsts ps).map (·.2.2) := by
      rw [heq, List.map_map]
      rfl
    have hon (p : Nat × Loc × DWord) : requestOn (ps ++ [q]) p =
        if q.2.2 = p.2.2 then (p.2.2, p.2.1, Spec.sharing ps p ++ [q.1]) else requestOn ps p := by
      unfold requestOn
      rw [sharing_append]
      split <;> simp
    rw [hstep, joinRequest_eq _ _ _ _ hnodup, firsts_append hq, haddr]
    by_cases h : Spec.sharing ps q = []
    · have hnew : q.2.2 ∉ (Spec.firsts ps).map (·.2.2) := by
        intro hm
        obtain ⟨p, hp, ha⟩ := List.mem_map.1 hm
        have hshare := mem_sharing.2 ⟨p, (List.mem_filter.1 hp).1, ha, rfl⟩
        rw [h] at hshare
        cases hshare
      rw [if_neg hnew, if_pos h, List.map_append, List.map_append]
      constructor
      · rw [heq]
        congr 1
        · refine List.map_congr_left (fun p hp => ?_)
          rw [hon, if_neg (fun e => hnew (List.mem_map.2 ⟨p, hp, Eq.symm e⟩))]
        · rw [List.map_singleton, hon, if_pos rfl, h]
          rfl
      · rw [List.nodup_append]
        refine ⟨hnodup, List.nodup_singleton _, fun a ha b hb e => hnew ?_⟩
        rw [← haddr]
        rw [List.mem_singleton.1 hb] at e
        exact (show a = q.2.2 from e) ▸ ha
    · obtain ⟨p, hp, ha⟩ := mem_firsts_of_sharing h
      rw [if_pos (List.mem_map.2 ⟨p, hp, ha⟩), if_neg h, List.append_nil]
      constructor
      · rw [heq, List.map_map]
        refine List.map_congr_left (fun r _ => ?_)
        rw [hon]
        by_cases e : q.2.2 = r.2.2
        · rw [if_pos e]
          exact if_pos e.symm
        · rw [if_neg e]
          exact if_neg (fun e' => e e'.symm)
      · have hkeys : ((byAddress ps).map (fun r => if r.1 = q.2.2 then (r.1, r.2.1, r.2.2 ++ [q.1]) else r)).map (·.1) =
            (byAddress ps).map (·.1) := by
          rw [List.map_map]
          refine List.map_congr_left (fun r _ => ?_)
          dsimp only [Function.comp]
          split <;> rfl
        rw [hkeys]
        exact hnodup

/-! ### Requests sent (R283, R302 to R306) -/

/-- The combiner's fold of the lanes of a request (R304). -/
theorem foldUrn_eq (r : UrnReq) (val : Nat → DWord) (is : List Nat) {v : Nat} (hv : r.Reads v) :
    foldUrn r val is v = Spec.combined r.act r.bytes v (is.map (fun j => (val j).toNat % 256 ^ r.bytes)) := by
  induction is generalizing v with
  | nil => rfl
  | cons i is ih =>
    have hm : 256 ^ r.bytes = 2 ^ (8 * r.bytes) := by rw [Nat.pow_mul]
    have hb : (val i).toNat % 2 ^ (8 * r.bytes) < 2 ^ (8 * r.bytes) := Nat.mod_lt _ (by positivity)
    have hstep := urnNew_eq r hv hb 0
    have hreads := hstep ▸ urnNew_reads r hv hb 0
    unfold foldUrn
    simp only [hstep]
    rw [ih hreads, List.map_cons, Spec.combined, hm]

/-- Further writes in flight, with the numbers they take. -/
def State.withFlight (s : State) (ws : List Write) : State := { s with flight := s.flight ++ ws, nextId := s.nextId + ws.length }

theorem Upd.withFlight {s t : State} {gid : Nat} {g : Group} (h : Upd s t gid g) (ws : List Write) :
    Upd (s.withFlight ws) (t.withFlight ws) gid g := by
  obtain ⟨hg, ho, hr, hc⟩ := h
  refine ⟨hg, ho, ?_, hc⟩
  have hf : t.flight = s.flight := by have e := congrArg State.flight hr; exact e
  have hn : t.nextId = s.nextId := by have e := congrArg State.nextId hr; exact e
  have e := congrArg (fun s => s.withFlight ws) hr
  exact e

theorem State.withFlight_cons (s : State) (w : Write) (ws : List Write) :
    (s.withFlight [w]).withFlight ws = s.withFlight (w :: ws) := by
  show { s with flight := (s.flight ++ [w]) ++ ws, nextId := s.nextId + 1 + ws.length } =
    ({ s with flight := s.flight ++ w :: ws, nextId := s.nextId + (ws.length + 1) } : State)
  rw [List.append_assoc, Nat.add_assoc, Nat.add_comm 1]
  rfl

theorem State.withFlight_nil (s : State) : s.withFlight [] = s := by
  show ({ s with flight := s.flight ++ [] } : State) = s
  rw [List.append_nil]

/-- The lanes of a request, as the operation holds them. -/
def requestLanes (reply : Bool) (m : Mode) (w : Write) : List UrnLane :=
  (if reply then w.lane :: w.sharers else [w.lane]).map (fun j =>
    { lane := j, mode := m, wid := w.id, reply := none, landed := !reply })

/-- What is left once a request is sent. -/
def sentState (t : State) (gid core : Nat) (r : Write × Flags) : State :=
  ((t.modGroup gid (fun g => { g with remote := g.remote ||| r.2 })).withFlight [r.1]).countEvent core 0x0A 1

/-- The parts of a request of lane `j` and lanes `js`, and the flags of the combiner (R304). -/
def partsOf (act : UrnAct) (bytes : Nat) (reply : Bool) (b c : Nat → DWord) (j : Nat) (js : List Nat) :
    List (Nat × DWord × DWord) × Flags :=
  if reply then ((j :: js).map (fun j => (j, b j, c j)), 0)
  else
    let v := foldUrn { act := act, bytes := bytes, level := 0, parts := [] } b js ((b j).toNat % 2 ^ (8 * bytes))
    ([(j, BitVec.ofNat 64 v.1, 0)], v.2)

/-- Fold of the lanes of a request: its level and parts do not enter. -/
theorem foldUrn_congr (act : UrnAct) (bytes l l' : Nat) (b : Nat → DWord) (js : List Nat) (v : Nat) :
    foldUrn { act := act, bytes := bytes, level := l, parts := [] } b js v =
      foldUrn { act := act, bytes := bytes, level := l', parts := [] } b js v := by
  induction js generalizing v with
  | nil => rfl
  | cons j js ih =>
    unfold foldUrn
    simp only [ih]
    rfl

/-- One request after another. -/
theorem State.sendUrns_cons (t : State) (c : Ctx) (h : Group) (op : Nat) (act : UrnAct) (bytes level : Nat) (reply : Bool) (a : DWord)
    (l : Loc) (j : Nat) (js : List Nat) (rest : List (DWord × Loc × List Nat)) :
    let q := partsOf act bytes reply (c.b64 h) (c.c64 h) j js
    let w : Write :=
      { id := t.nextId, gid := c.gid, lane := j, launch := h.launch, core := some h.core, level := 0,
        bytes := (List.range bytes).map (fun k => (l.add k, 0))
        urn := some { act := act, bytes := bytes, level := level, parts := q.1 }, op := op, sharers := js }
    let sent := (sentState t c.gid h.core (w, q.2)).sendUrns c h op act bytes level reply rest
    t.sendUrns c h op act bytes level reply ((a, l, j :: js) :: rest) = (sent.1, requestLanes reply c.m w ++ sent.2) := by
  intro q w sent
  unfold State.sendUrns
  cases reply with
  | true => rfl
  | false =>
    simp only [foldUrn_congr act bytes level 0]
    rfl

section
variable (s s1 : State) (iss : Issue) (g : Group) (i : Instr) (f : Spec.UrnForm) (oks : List (Nat × Loc × DWord))

/-- The request on the address of `p` is what the model sends for the lanes on it. -/
theorem request_eq {p : Nat × Loc × DWord} {js : List Nat} (hp : Spec.sharing oks p = p.1 :: js) (k : Nat) :
    let q := partsOf f.act f.bytes f.reply ((s.slots g iss i).b.read64 g iss.mode) ((s.slots g iss i).c.read64 g iss.mode) p.1 js
    Spec.request s s1 iss g i f oks k p =
      ({ id := s1.nextId + k, gid := iss.gid, lane := p.1, launch := g.launch, core := some g.core, level := 0,
         bytes := (List.range f.bytes).map (fun k => (p.2.1.add k, 0))
         urn := some { act := f.act, bytes := f.bytes, level := scopeLevel (max f.scope 2), parts := q.1 }
         op := g.nextOp, sharers := js }, q.2) := by
  intro q
  have hm : 256 ^ f.bytes = 2 ^ (8 * f.bytes) := by rw [Nat.pow_mul]
  have hreads : UrnReq.Reads { act := f.act, bytes := f.bytes, level := 0, parts := [] }
      (((s.slots g iss i).b.read64 g iss.mode p.1).toNat % 2 ^ (8 * f.bytes)) := fun _ _ _ => Nat.mod_lt _ (by positivity)
  simp only [q, partsOf, Spec.request, hp, List.drop_succ_cons, List.drop_zero, foldUrn_eq _ _ _ hreads, hm]
  cases f.reply <;> rfl

/-- The requests of an issue sent, one after the other. -/
theorem State.sendUrns_eq (n : Nat) (ps : List (Nat × Loc × DWord)) (hps : ∀ p ∈ ps, (Spec.sharing oks p).head? = some p.1)
    {t : State} {gt : Group} {k : Nat} (hg : t.group iss.gid = some gt) (hk : t.nextId = s1.nextId + k) :
    let rs := (ps.zipIdx k).map (fun q => Spec.request s s1 iss g i f oks q.2 q.1)
    ∃ t', t.sendUrns (s.plainCtx iss g i) (g.asLane n) g.nextOp f.act f.bytes (scopeLevel (max f.scope 2)) f.reply
        (ps.map (requestOn oks)) = (t', rs.flatMap (fun r => requestLanes f.reply iss.mode r.1)) ∧
      Upd (t.withFlight (rs.map (·.1))) t' iss.gid { gt with remote := rs.foldl (fun x r => x ||| r.2) gt.remote } := by
  induction ps generalizing t gt k with
  | nil => exact ⟨t, rfl, (State.withFlight_nil t).symm ▸ Upd.refl hg⟩
  | cons p ps ih =>
    obtain ⟨hp, hps⟩ := List.forall_mem_cons.1 hps
    intro rs
    let r := Spec.request s s1 iss g i f oks k p
    have hu : Upd (t.withFlight [r.1]) (sentState t iss.gid g.core r) iss.gid { gt with remote := gt.remote ||| r.2 } :=
      ((Upd.refl (s := t.withFlight [r.1]) hg).modGroup (fun g => { g with remote := g.remote ||| r.2 })).countEvent g.core 0x0A 1
    have hnext : (sentState t iss.gid g.core r).nextId = s1.nextId + (k + 1) := by
      have e : (sentState t iss.gid g.core r).nextId = t.nextId + 1 := rfl
      rw [e, hk, Nat.add_assoc]
    obtain ⟨t', hsent, hu'⟩ := ih hps hu.group hnext
    have hrs : rs = r :: (ps.zipIdx (k + 1)).map (fun q => Spec.request s s1 iss g i f oks q.2 q.1) := rfl
    refine ⟨t', ?_, ?_⟩
    · obtain ⟨js, hjs⟩ : ∃ js, Spec.sharing oks p = p.1 :: js := by
        cases h : Spec.sharing oks p with
        | nil => rw [h] at hp; cases hp
        | cons j js => rw [h] at hp; cases hp; exact ⟨js, rfl⟩
      have hr : r = _ := request_eq s s1 iss g i f oks hjs k
      rw [← hk] at hr
      have hb : (s.plainCtx iss g i).b64 (g.asLane n) = (s.slots g iss i).b.read64 g iss.mode := funext (fun _ => read64_asLane ..)
      have hc : (s.plainCtx iss g i).c64 (g.asLane n) = (s.slots g iss i).c.read64 g iss.mode := funext (fun _ => read64_asLane ..)
      rw [List.map_cons, requestOn, hjs, State.sendUrns_cons, hb, hc, Group.asLane_launch, Group.asLane_core, plainCtx_gid, plainCtx_m, ← hr]
      rw [hsent, hrs, List.flatMap_cons]
      exact congrArg (fun w => (t', requestLanes f.reply iss.mode w ++ _)) (congrArg Prod.fst hr).symm
    · rw [hrs, List.map_cons, ← State.withFlight_cons, List.foldl_cons]
      exact (hu.withFlight _).trans hu'

end

end Sys2Proof.Machine

namespace Sys2Proof.Machine
open Sys2Proof

/-! ### Atomics and reductions at issue (R125, R302 to R306, R308) -/

/-- What an entry allows matters only for the tags that its slots have. -/
theorem Free.with_tags {s : State} {iss : Issue} {g : Group} {i : Instr} {low : Mode} {cls : Option Cls}
    {ok ok' : Tag → Tag → Tag → SlotName → List Tag} (h : Free s iss g i low ok cls)
    (he : ok' (s.tagOf g iss i .a) (s.tagOf g iss i .b) (s.tagOf g iss i .c) =
      ok (s.tagOf g iss i .a) (s.tagOf g iss i .b) (s.tagOf g iss i .c)) : Free s iss g i low ok' cls :=
  { h with tags := he ▸ h.tags }

/-- An issue that changes nothing and all of whose lanes take one trap; its instruction then leaves no tag (R106). -/
theorem endsIn_of_allTrap {s : State} {iss : Issue} {g : Group} {i : Instr} {e : Entry} (hx : exec i s = serve i s e)
    (h : Free s iss g i e.mode e.ok e.cls) (hm : (trapMode g iss.mode).isSome = true) (hall : g.activeLanes iss i = iss.lanes)
    {c : BitVec 8} {v : DWord} {t : Option Tag}
    (hb : e.body (s.plainCtx iss g i) s (g.asLane ((s.plainCtx iss g i).lowest.getD 0)) = trapActive (s.plainCtx iss g i) s c v t) :
    Spec.AllTrap s iss g i c v := by
  have hends (j : Nat) (hj : j ∈ iss.lanes) : endOf ((s.plainCtx iss g i).active.map (fun j => (j, LaneEnd.trap c v))) j = .trap c v := by
    refine (endOf_map j).trans (if_pos ?_)
    rw [plainCtx_active, hall]
    exact hj
  have hnone : leftTag iss ((s.plainCtx iss g i).active.map (fun j => (j, LaneEnd.trap c v))) t = none := by
    unfold leftTag
    rw [if_pos (List.all_eq_true.2 (fun j hj => by rw [hends j hj]; rfl))]
  obtain ⟨s', g', hs, hg', hsame, hlanes, hout⟩ := endsIn_of_done hx h hb h.group
    (fun j hj => by rw [hends j hj, LaneEnd.handled, (h.live j hj).2.2]; exact hm) h.settled (h.lanes_there (fun _ _ => rfl))
  rw [hnone] at hsame hlanes
  refine ⟨s', g', hs, hg', hsame, fun j => (hlanes j).trans ?_, hout⟩
  exact Group.endsAs_congr (fun hj => congrArg (fun e => LaneEnd.move e g iss (g.lane j)) (hends j hj))

end Sys2Proof.Machine

namespace Sys2Proof.IssuingLanes
open Sys2Proof Sys2Proof.Machine

/-- An atomic or a reduction, with the parameters of its entry. -/
structure UrnOf (s : State) (iss : Issue) (g : Group) (i : Instr) (f : Spec.UrnForm) (act : Tag → UrnAct) (req res : Tag → Tag) :
    Prop where
  runs : exec i s = serve i s (urnEntry act f.bytes f.scope f.reply req res)
  act : act (s.tagOf g iss i .b) = f.act
  req : req (s.tagOf g iss i .b) = f.tag
  res : res (s.tagOf g iss i .b) = f.tag

theorem intType_32 (t : Tag) : intType 32 t = Spec.type32 t := by cases t <;> rfl
theorem intType_64 (t : Tag) : intType 64 t = Spec.type64 t := by cases t <;> rfl

theorem signed_32 (t : Tag) : (Spec.type32 t).signed = decide (Spec.type32 t = .i32) := by cases t <;> rfl
theorem signed_64 (t : Tag) : (Spec.type64 t).signed = decide (Spec.type64 t = .i64) := by cases t <;> rfl

theorem urn_entry {s : State} {iss : Issue} {g : Group} {i : Instr} {f : Spec.UrnForm}
    (h : Spec.urnForm i (s.tagOf g iss i .b) = some f) : ∃ act req res, UrnOf s iss g i f act req res := by
  cases i with
  | ugetI32 d a b op sc x | uputI32 a b op sc x =>
    cases h
    refine ⟨_, _, _, rfl, ?_, intType_32 _, intType_32 _⟩
    rw [intType_32, signed_32]
  | ugetI64 d a b op sc x | uputI64 a b op sc x =>
    cases h
    refine ⟨_, _, _, rfl, ?_, intType_64 _, intType_64 _⟩
    rw [intType_64, signed_64]
  | ugetFadd d a b w sc x | uputFadd a b w sc x =>
    cases h
    exact ⟨_, _, _, rfl, rfl, rfl, rfl⟩
  | ucmpx d a b c w sc x =>
    cases h
    cases w with
    | true => exact ⟨_, _, _, rfl, rfl, intType_64 _, intType_64 _⟩
    | false => exact ⟨_, _, _, rfl, rfl, intType_32 _, intType_32 _⟩
  | _ => cases h

section
variable {s : State} {iss : Issue} {g : Group} {i : Instr} {f : Spec.UrnForm} {act : Tag → UrnAct} {req res : Tag → Tag}
variable (hi : UrnOf s iss g i f act req res)
include hi

theorem UrnOf.free (h : Free s iss g i .user (fun _ _ _ sl => match sl with
      | .a => [.n64, .i64, .raw]
      | .b => [f.tag]
      | .c => [f.tag]
      | .d => []) (some .ur)) :
    Free s iss g i (urnEntry act f.bytes f.scope f.reply req res).mode (urnEntry act f.bytes f.scope f.reply req res).ok
      (urnEntry act f.bytes f.scope f.reply req res).cls := by
  refine Free.with_tags h (funext fun sl => ?_)
  have hreq := hi.req
  cases sl with
  | a => rfl
  | b => exact congrArg (fun t => [t]) hreq
  | c => exact congrArg (fun t => [t]) hreq
  | d => rfl

/-- The tag that the instruction leaves in slot D, where it has a reply (R303, R305). -/
theorem UrnOf.tagged_eq (g1 : Group) :
    tagged s iss g i (if f.reply then some (res (s.tagOf g iss i .b)) else none) g1 =
      if f.reply then (s.slots g iss i).d.retag g1 iss.mode ((iss.pfx.formatted .d).getD f.tag) else g1 := by
  rw [hi.res]
  cases f.reply <;> rfl

theorem urn_det_iff (n : Nat) : (decide (act (s.tagOf g iss i .b) = .fadd) && s.det (g.asLane n)) = true ↔
    f.act = .fadd ∧ s.det g = true := by
  rw [hi.act, Bool.and_eq_true, decide_eq_true_eq]
  unfold State.det State.launchOf
  rw [Group.asLane_launch]

/-- The body past its first check, where no lane's tile is busy. -/
theorem urn_body (n : Nat) (hdet : ¬ (f.act = .fadd ∧ s.det g = true)) {s1 : State} {oks : List (Nat × Loc × DWord)}
    (hbusy : ∀ j ∈ g.activeLanes iss i, s.addrBusy iss.gid (g.asLane n) j ((s.slots g iss i).a.read64 g iss.mode j) = false)
    (hchecks : s.accessLanes (s.plainCtx iss g i) (g.asLane n) f.bytes f.bytes { r := true, w := true }
      ((g.activeLanes iss i).map (fun j => (j, (s.slots g iss i).a.read64 g iss.mode j))) = (s1, [], oks))
    (hlocal : ∀ p ∈ oks, ∀ h n a, p.2.1 ≠ .loc h n a) (hroom : byAddress oks ≠ [] → ∀ cl, s.urnPending cl + (byAddress oks).length ≤ 256) :
    (urnEntry act f.bytes f.scope f.reply req res).body (s.plainCtx iss g i) s (g.asLane n) =
      let sent := s1.sendUrns (s.plainCtx iss g i) (g.asLane n) g.nextOp f.act f.bytes (scopeLevel (max f.scope 2)) f.reply (byAddress oks)
      .done (if sent.2.isEmpty then sent.1.addEmpty iss.gid .ur
        else sent.1.addOp iss.gid .ur (.urn (if f.reply then some (s.slots g iss i).d.num else none) (decide (f.bytes = 8))
          (scopeLevel (max f.scope 2)) sent.2)) [] (if f.reply then some (res (s.tagOf g iss i .b)) else none) (linesTouched f.bytes oks) := by
  have hd : (decide (f.act = .fadd) && s.det (g.asLane n)) = false :=
    Bool.eq_false_iff.2 (fun h => hdet ((urn_det_iff hi n).1 (by rw [hi.act]; exact h)))
  have haddrs : ((g.activeLanes iss i).map (fun j => (j, (s.plainCtx iss g i).a64 (g.asLane n) j))) =
      (g.activeLanes iss i).map (fun j => (j, (s.slots g iss i).a.read64 g iss.mode j)) := by
    simp only [plainCtx_a64, read64_asLane]
  have hfree : ((g.activeLanes iss i).map (fun j => (j, (s.slots g iss i).a.read64 g iss.mode j))).any
      (fun p => s.addrBusy iss.gid (g.asLane n) p.1 p.2) = false := by
    rw [List.any_map, List.any_eq_false]
    exact fun j hj => Bool.eq_false_iff.1 (hbusy j hj)
  have hplaces : noLocal (s1, [], oks) = (s1, [], oks) := by
    have hmem (p : Nat × Loc × DWord) (hp : p ∈ oks) : (match p.2.1 with
        | .loc _ _ _ => true
        | _ => false) = false := by
      split
      · rename_i hl
        exact absurd hl (hlocal p hp _ _ _)
      · rfl
    have hnone := List.filter_eq_nil_iff.2 (fun p hp => Bool.eq_false_iff.1 (hmem p hp))
    have hall := List.filter_eq_self.2 (fun p hp => (congrArg (!·) (hmem p hp)))
    exact Prod.ext rfl (Prod.ext (congrArg (List.map (fun p : Nat × Loc × DWord => (p.1, LaneEnd.trap causeAccess p.2.2))) hnone) hall)
  have hspace : (byAddress oks).any (fun p => decide (urnQueue < s.urnPending (s.urnCluster g.leaf p.2.1) +
      ((byAddress oks).filter (fun q => s.urnCluster g.leaf q.2.1 == s.urnCluster g.leaf p.2.1)).length)) = false := by
    rw [List.any_eq_false]
    intro p hp
    have hlen := List.length_filter_le (fun q => s.urnCluster g.leaf q.2.1 == s.urnCluster g.leaf p.2.1) (byAddress oks)
    have hmax := hroom (List.ne_nil_of_mem hp) (s.urnCluster g.leaf p.2.1)
    rw [decide_eq_true_eq]
    exact Nat.not_lt.2 (Nat.le_trans (Nat.add_le_add_left hlen _) hmax)
  simp only [urnEntry, plainCtx_tb, plainCtx_active, plainCtx_gid, plainCtx_o, hd, Bool.false_eq_true, if_false, haddrs, hfree, hchecks,
    hplaces, hi.act, Group.asLane_nextOp, Group.asLane_leaf, hspace]

end

/-- The lanes of an access that passes its checks, each once. -/
theorem nodup_oks {as : List Nat} {addr : Nat → DWord} {oks : List (Nat × Loc × DWord)} (hn : as.Nodup)
    (h : oks.map (fun p => (p.1, p.2.2)) = as.map (fun j => (j, addr j))) : (oks.map (·.1)).Nodup := by
  have hfst := congrArg (List.map Prod.fst) h
  rw [List.map_map, List.map_map] at hfst
  have hid : List.map (Prod.fst ∘ fun j => (j, addr j)) as = as := List.map_id as
  rw [hid] at hfst
  exact (show oks.map (·.1) = as from hfst) ▸ hn

theorem foldl_flags (rs : List (Write × Flags)) (x : Flags) :
    rs.foldl (fun x r => x ||| r.2) x = x ||| rs.foldl (fun x r => x ||| r.2) 0 := by
  induction rs generalizing x with
  | nil => exact (BitVec.or_zero).symm
  | cons r rs ih =>
    rw [List.foldl_cons, List.foldl_cons, ih, ih (0 ||| r.2), show (0 : Flags) ||| r.2 = r.2 from BitVec.zero_or, BitVec.or_assoc]

theorem withFlight_map (s : State) (rs : List (Write × Flags)) :
    s.withFlight (rs.map (·.1)) = { s with flight := s.flight ++ rs.map (·.1), nextId := s.nextId + rs.length } := by
  unfold State.withFlight
  rw [List.length_map]

/-- The tag of slot D, an operation more and further remote flags are changes of a group that do not meet. -/
theorem tagged_sends (b : Bool) (o : Opd) (g : Group) (x : Flags) (m : Mode) (t : Tag) (k : OpKind) :
    (if b then o.retag (Spec.withOp { g with remote := x } .ur k) m t else Spec.withOp { g with remote := x } .ur k) =
      { Spec.withOp (if b then o.retag g m t else g) .ur k with remote := x } := by
  cases b with
  | true => cases o <;> rfl
  | false => rfl

section
variable {s s1 : State} {iss : Issue} {g g1 : Group} {i : Instr} {f : Spec.UrnForm} {act : Tag → UrnAct} {req res : Tag → Tag}
  {oks : List (Nat × Loc × DWord)}

/-- An atomic or a reduction whose lanes pass their checks (R302 to R306). -/
theorem urn_sends (hi : UrnOf s iss g i f act req res)
    (h : Free s iss g i (urnEntry act f.bytes f.scope f.reply req res).mode (urnEntry act f.bytes f.scope f.reply req res).ok
      (urnEntry act f.bytes f.scope f.reply req res).cls) (hdet : ¬ (f.act = .fadd ∧ s.det g = true)) (hne : g.activeLanes iss i ≠ [])
    (hbusy : ∀ j ∈ g.activeLanes iss i, s.addrBusy iss.gid (Spec.seenBy iss g i) j ((s.slots g iss i).a.read64 g iss.mode j) = false)
    (hchecks : s.accessLanes (s.plainCtx iss g i) (Spec.seenBy iss g i) f.bytes f.bytes { r := true, w := true }
      ((g.activeLanes iss i).map (fun j => (j, (s.slots g iss i).a.read64 g iss.mode j))) = (s1, [], oks))
    (hlocal : ∀ p ∈ oks, ∀ h n a, p.2.1 ≠ .loc h n a) (hroom : ∀ cl, s.urnPending cl + oks.length ≤ 256)
    (hg1 : s1.group iss.gid = some g1) :
    let rs := (Spec.firsts oks).zipIdx.map (fun q => Spec.request s s1 iss g i f oks q.2 q.1)
    let lanes := rs.flatMap (fun r => requestLanes f.reply iss.mode r.1)
    EndsIn s iss i (s1.withFlight (rs.map (·.1)))
      (tagged s iss g i (if f.reply then some (res (s.tagOf g iss i .b)) else none)
        (Spec.withOp { g1 with remote := g1.remote ||| rs.foldl (fun x r => x ||| r.2) 0 } .ur
          (.urn (if f.reply then some (s.slots g iss i).d.num else none) (decide (f.bytes = 8)) (scopeLevel (max f.scope 2)) lanes)))
      (fun j => (g1.lane j).pass iss) := by
  intro rs lanes
  obtain ⟨hwakes, hoks⟩ := State.accessLanes_pass hchecks
  obtain ⟨g1', hg1', hw⟩ := hwakes.woken _ _ h.group
  cases hg1.symm.trans hg1'
  have hnodup := nodup_oks (h.nodup.filter _) hoks
  obtain ⟨hreqs, -⟩ := byAddress_eq hnodup
  obtain ⟨t', hsent, hu⟩ := State.sendUrns_eq s s1 iss g i f oks ((s.plainCtx iss g i).lowest.getD 0) (Spec.firsts oks)
    (fun p hp => of_decide_eq_true (List.mem_filter.1 hp).2) (t := s1) (k := 0) hg1 rfl
  rw [foldl_flags] at hu
  change _ = (t', lanes) at hsent
  have hlen : (byAddress oks).length ≤ oks.length := by
    rw [hreqs, List.length_map]
    exact List.length_filter_le ..
  have hb := urn_body hi ((s.plainCtx iss g i).lowest.getD 0) hdet (by rw [plainCtx_lowest]; exact hbusy)
    (by rw [plainCtx_lowest]; exact hchecks) hlocal (fun _ cl => Nat.le_trans (Nat.add_le_add_left hlen _) (hroom cl))
  rw [hreqs, hsent] at hb
  have hsome : lanes ≠ [] := by
    obtain ⟨p, hp⟩ := List.exists_mem_of_ne_nil oks (fun e => by
      rw [e] at hoks
      exact hne (List.map_eq_nil_iff.1 hoks.symm))
    obtain ⟨q, hq, -⟩ := mem_firsts_of_sharing (List.ne_nil_of_mem (mem_sharing.2 ⟨p, hp, rfl, rfl⟩))
    have hrs : rs ≠ [] := fun e => List.ne_nil_of_mem hq (List.zipIdx_eq_nil_iff.1 (List.map_eq_nil_iff.1 e))
    obtain ⟨r, hr⟩ := List.exists_mem_of_ne_nil rs hrs
    intro e
    have hnil := List.flatMap_eq_nil_iff.1 e r hr
    unfold requestLanes at hnil
    split at hnil <;> cases hnil
  simp only [List.isEmpty_eq_false_iff.2 hsome, Bool.false_eq_true, if_false] at hb
  have hlane := fun j hj => h.lane_woken hw (j := j) hj
  have hends := endsIn_of_addOp hi.runs (h := h) (g1 := { g1 with remote := g1.remote ||| rs.foldl (fun x r => x ||| r.2) 0 }) (opc := 0)
    hb hu.group
    (show retire g1.ops [] = (g1.ops, []) from h.settled_woken hw)
    (fun j hj => h.lanes_there hlane j hj)
  exact hends.as rfl (fun _ => rfl) (hu.outside hg1 rfl)

end

/-- Settles O44: `urn_entry` gives an atomic or reduction its parameters; `urn_sends` the requests that its lanes send. -/
theorem urnRequests : Obligations.UrnRequests := by
  intro s iss g i f hf o addr det h tagged
  obtain ⟨act, req, res, hi⟩ := urn_entry hf
  refine ⟨fun hdet hnone => ?_, fun hne hdet hm hall => ?_, ?_⟩
  · have hb := urn_body hi ((s.plainCtx iss g i).lowest.getD 0) hdet (s1 := s) (oks := []) (by rw [hnone]; exact nofun)
      (by rw [hnone]; rfl) nofun (fun h => absurd rfl h)
    have hends := endsIn_of_addEmpty hi.runs (hi.free h) hb
    rw [hi.tagged_eq] at hends
    exact hends
  · exact endsIn_of_allTrap hi.runs (hi.free h) hm hall (if_pos ((urn_det_iff hi _).2 hdet))
  · intro s1 g1 oks hdet hne hbusy hchecks hlocal hroom hg1
    have hends := urn_sends hi (hi.free h) hdet hne hbusy hchecks hlocal hroom hg1
    dsimp only at hends
    rw [hi.tagged_eq, tagged_sends, withFlight_map] at hends
    exact hends

end Sys2Proof.IssuingLanes

namespace Sys2Proof.Machine
open Sys2Proof

/-! ### Tile ranges (R164, R166, R168) -/

theorem aperture_tile {a : DWord} (h : Spec.wellFormed 2 a ∨ Spec.wellFormed 3 a) :
    aperture a = some (.tile (Spec.wellFormed 3 a) (a.toNat / 2 ^ 24 % 2 ^ 32) (a.toNat % 2 ^ 24)) := by
  unfold Spec.wellFormed at h ⊢
  simp only [decide_eq_true_eq] at h
  unfold aperture
  dsimp only
  rcases h with h | h
  · have htop : a.toNat / 2 ^ 60 = 0xD := by omega
    rw [htop, h]
    rfl
  · have htop : a.toNat / 2 ^ 60 = 0xE := by omega
    rw [htop, h]
    rfl

theorem aperture_global {a : DWord} (h : Spec.wellFormed 0 a) : aperture a = some (.global a.toNat) := by
  have h : a.toNat < 2 ^ 48 := of_decide_eq_true h
  have htop : a.toNat / 2 ^ 60 = 0 := Nat.div_eq_of_lt (by omega)
  unfold aperture
  dsimp only
  rw [htop, if_pos rfl, if_pos h]

/-- The tile that a lane of the group may use under a handle is the tile of that handle. -/
theorem State.tile_of_tileFor {s : State} {gid : Nat} {g : Group} {cl : Bool} {h : Nat} {t : Tile}
    (ht : s.tileFor gid g cl h = some t) : tblFind s.tiles h = some t := by
  unfold State.tileFor at ht
  cases hf : tblFind s.tiles h with
  | none =>
    rw [hf] at ht
    exact absurd ht (by simp)
  | some t' =>
    rw [hf] at ht
    by_cases ho : g.owns gid t'.owner = true
    · simp only [ho, if_true] at ht
      exact (Option.ite_none_left_eq_some.1 ht).2
    · simp [ho] at ht

section
variable {s : State} {gid : Nat} {g : Group} {base : DWord} {stride rows bytes : Nat}
variable (h : Spec.rowsOk s gid g base stride rows bytes)
include h

theorem tileHandle_of_rowsOk : tileHandle base = some (base.toNat / 2 ^ 24 % 2 ^ 32) := by
  obtain ⟨hform, -⟩ := h
  unfold tileHandle
  rw [aperture_tile hform]

theorem rowsFault_of_rowsOk : s.rowsFault gid g ⟨base, stride, rows, bytes⟩ = none := by
  obtain ⟨hform, t, ht, -, hrows⟩ := h
  have hfind : (List.range rows).find? (fun i => decide (t.size < base.toNat % 2 ^ 24 + i * stride + bytes)) = none :=
    List.find?_eq_none.2 (fun i hi hc => absurd (of_decide_eq_true hc) (Nat.not_lt.2 (hrows i (List.mem_range.1 hi))))
  unfold State.rowsFault
  simp only [aperture_tile hform, ht, hfind]

theorem tileHeld_of_rowsOk : s.tileHeld (base.toNat / 2 ^ 24 % 2 ^ 32) = false := by
  obtain ⟨-, t, ht, hready, -⟩ := h
  unfold State.tileHeld
  rw [State.tile_of_tileFor ht]
  exact decide_eq_false (fun hc => hc hready)

theorem addrBusy_of_rowsOk (g' : Group) (lane : Nat) : s.addrBusy gid g' lane base = false := by
  obtain ⟨hform, t, ht, hready, -⟩ := h
  unfold State.addrBusy
  rw [aperture_tile hform]
  dsimp only
  split
  · rename_i t' ht'
    cases (State.tile_of_tileFor ht').symm.trans (State.tile_of_tileFor ht)
    rw [decide_eq_false (p := t.state ≠ .ready) (fun hc => hc hready), Bool.and_false]
  · rfl

end

/-! ### Regions and claims (R240, R246, R254) -/

theorem regionFor_eq {s : State} {gid : Nat} {g : Group} {h : Nat} {r : WRegion} :
    s.regionFor gid g h = some r ↔ Spec.regionOk s gid g h r := by
  unfold State.regionFor Spec.regionOk
  have hbad : (h / 2 ^ 31 != 1 || h / 2 ^ 22 % 512 != g.core || h / 16 % 2 ^ 18 != 0) = true ↔
      ¬ (h / 2 ^ 31 = 1 ∧ h / 2 ^ 22 % 512 = g.core ∧ h / 16 % 2 ^ 18 = 0) := by
    simp only [Bool.or_eq_true, bne_iff_ne]
    tauto
  by_cases hok : h / 2 ^ 31 = 1 ∧ h / 2 ^ 22 % 512 = g.core ∧ h / 16 % 2 ^ 18 = 0
  · rw [if_neg (fun hc => hbad.1 hc hok)]
    obtain ⟨h1, h2, h3⟩ := hok
    cases hf : tblFind (s.core g.core).regions (h % 16) with
    | none => simp
    | some r' =>
      by_cases ho : g.owns gid r'.owner = true
      · simp only [ho, if_true, h1, h2, h3, true_and, Option.some.injEq]
        exact ⟨fun e => ⟨e, e ▸ ho⟩, fun e => e.1⟩
      · simp only [ho, h1, h2, h3, true_and, Option.some.injEq]
        exact ⟨nofun, fun e => absurd (e.1 ▸ e.2) ho⟩
  · rw [if_pos (hbad.2 hok)]
    exact ⟨nofun, fun e => absurd ⟨e.1, e.2.1, e.2.2.1⟩ hok⟩

/-- A group with a lane that is there holds the sets that name it. -/
theorem holder_eq {s : State} {gid : Nat} {g : Group} (hg : s.group gid = some g) (hx : g.allExited = false) (core z : Nat) :
    s.holder core z = some gid ↔ ((s.core core).set z).claim = some gid := by
  unfold State.holder
  cases hc : ((s.core core).set z).claim with
  | none => exact Iff.rfl
  | some k =>
    dsimp only
    constructor
    · intro h
      split at h
      · split at h
        · cases h
        · exact h
      · cases h
    · intro h
      cases h
      rw [hg]
      simp [hx]

/-! ### The checks of an engine instruction (R242, R246) -/

/-- A range of rows that a lane may use, all inside its tile. -/
def TileRows.Fit (r : TileRows) (s : State) (gid : Nat) (g : Group) : Prop := Spec.rowsOk s gid g r.base r.stride r.rows r.bytes

/-- Orders 3 to 5 of R246 find no fault, and every tile is READY. -/
structure EngineCheck.Passes (k : EngineCheck) (s : State) (gid : Nat) (g : Group) : Prop where
  tiles : ∀ a ∈ k.tiles, isTileAddr a = true
  access : ∀ p ∈ k.access, p.1 = false
  align : ∀ p ∈ k.align, p.1 = false
  ranges : ∀ r ∈ k.ranges, r.Fit s gid g
  extent : ∀ p ∈ k.extent, p.1 = false

theorem isTileAddr_of_rowsOk {s : State} {gid : Nat} {g : Group} {base : DWord} {stride rows bytes : Nat}
    (h : Spec.rowsOk s gid g base stride rows bytes) : isTileAddr base = true := by
  unfold isTileAddr
  rw [tileHandle_of_rowsOk h]
  rfl

theorem firstHeld_none {l : List (Bool × DWord)} (h : ∀ p ∈ l, p.1 = false) : firstHeld l = none := by
  unfold firstHeld
  rw [List.find?_eq_none.2 (fun p hp => Bool.eq_false_iff.1 (h p hp))]
  rfl

section
variable {s : State} {c : Ctx} {g : Group} {k : EngineCheck}

theorem engineFault_bad (h : k.bad = true) : s.engineFault c g k = some (0x12, 0x8000000000000003) := by
  unfold State.engineFault
  rw [if_pos h]
  rfl

theorem engineFault_unclaimed (hb : k.bad = false) {z : Nat} (hz : k.set = some z) (h : s.holder g.core z ≠ some c.gid) :
    s.engineFault c g k = some (0x12, 0x8000000000000001) := by
  unfold State.engineFault
  simp only [hb, hz, Bool.false_eq_true, if_false]
  exact if_pos (decide_eq_true h)

theorem engineFault_none (hb : k.bad = false) (hset : ∀ z, k.set = some z → s.holder g.core z = some c.gid)
    (h : k.Passes s c.gid g) : s.engineFault c g k = none := by
  obtain ⟨htiles, haccess, halign, hranges, hextent⟩ := h
  have ht : k.tiles.find? (fun a => !isTileAddr a) = none :=
    List.find?_eq_none.2 (fun a ha => by rw [htiles a ha]; decide)
  have hr : k.ranges.findSome? (s.rowsFault c.gid g) = none :=
    List.findSome?_eq_none_iff.2 (fun r hr => rowsFault_of_rowsOk (hranges r hr))
  unfold State.engineFault
  simp only [hb, Bool.false_eq_true, if_false, ht, firstHeld_none haccess, firstHeld_none halign, hr, firstHeld_none hextent,
    Option.map_none]
  cases hz : k.set with
  | none => rfl
  | some z => exact if_neg (fun hc => absurd (hset z hz) (of_decide_eq_true hc))

theorem ranges_free (h : k.Passes s c.gid g) : (k.ranges.filterMap (fun r => tileHandle r.base)).any s.tileHeld = false := by
  rw [List.any_eq_false]
  intro n hn
  obtain ⟨r, hr, hrn⟩ := List.mem_filterMap.1 hn
  rw [tileHandle_of_rowsOk (h.ranges r hr)] at hrn
  rw [← Option.some.inj hrn, tileHeld_of_rowsOk (h.ranges r hr)]
  exact Bool.false_ne_true

end

end Sys2Proof.Machine

namespace Sys2Proof.IssuingLanes
open Sys2Proof Sys2Proof.Machine

/-- An engine instruction, with the checks and the effect of its entry. -/
structure EngineOf (s : State) (iss : Issue) (g : Group) (i : Instr) (e : Spec.EngineAsk) (check : State → Ctx → Group → EngineCheck)
    (effect : State → Ctx → Group → Res) : Prop where
  runs : exec i s = serve i s (engineEntry check effect)
  bad : (check s (s.plainCtx iss g i) (Spec.seenBy iss g i)).bad = true ↔ ¬ e.fields
  set : (check s (s.plainCtx iss g i) (Spec.seenBy iss g i)).set = e.set
  passes : e.fields → e.rest → (check s (s.plainCtx iss g i) (Spec.seenBy iss g i)).Passes s iss.gid (Spec.seenBy iss g i)
  effect : effect s (s.plainCtx iss g i) (Spec.seenBy iss g i) = .done (s.addOp iss.gid .tx (.matrix e.op)) [] none []

section
variable {s : State} {iss : Issue} {g : Group} {i : Instr} {e : Spec.EngineAsk} {check : State → Ctx → Group → EngineCheck}
  {effect : State → Ctx → Group → Res}

/-- A claim of a set is that of the group that holds it. -/
theorem holds_iff {low : Mode} {ok : Tag → Tag → Tag → SlotName → List Tag} {cls : Option Cls} (h : Free s iss g i low ok cls)
    (z : Nat) : s.holder g.core z = some iss.gid ↔ Spec.claims s iss g z := by
  obtain ⟨j, hj⟩ := List.exists_mem_of_ne_nil _ h.lanes
  exact holder_eq h.group (Group.allExited_false (h.live j hj).1 (Lane.there_of_live (h.live j hj).2.1)) g.core z

variable (hi : EngineOf s iss g i e check effect)
variable (h : Free s iss g i .user (fun _ _ _ _ => []) (some .tx))
include hi h

theorem engine_of_none (hnone : g.activeLanes iss i = []) :
    EndsIn s iss i s (Spec.withEmpty g .tx) (fun j => (g.lane j).pass iss) :=
  endsIn_of_addEmpty (e := engineEntry check effect) (t := none) (lines := []) hi.runs h (by
    simp only [engineEntry, plainCtx_active, hnone, List.isEmpty_nil, if_true, plainCtx_gid])

variable (hne : g.activeLanes iss i ≠ [])
include hne

theorem engine_traps (hm : (trapMode g iss.mode).isSome = true) {c : BitVec 8} {v : DWord}
    (hf : s.engineFault (s.plainCtx iss g i) (Spec.seenBy iss g i) (check s (s.plainCtx iss g i) (Spec.seenBy iss g i)) = some (c, v)) :
    Spec.ActiveTrap s iss g i c v :=
  endsIn_of_trapActive (e := engineEntry check effect) hi.runs h hm (by
    rw [plainCtx_lowest]
    simp only [engineEntry, plainCtx_active, List.isEmpty_eq_false_iff.2 hne, Bool.false_eq_true, if_false, hf])

theorem engine_joins (hfields : e.fields) (hset : ∀ z, e.set = some z → Spec.claims s iss g z) (hrest : e.rest) :
    EndsIn s iss i s (Spec.withOp g .tx (.matrix e.op)) (fun j => (g.lane j).pass iss) := by
  have hbad : (check s (s.plainCtx iss g i) (Spec.seenBy iss g i)).bad = false :=
    Bool.eq_false_iff.2 (fun hb => hi.bad.1 hb hfields)
  have hpass := hi.passes hfields hrest
  have hfault := engineFault_none (c := s.plainCtx iss g i) hbad (fun z hz => by
    rw [← plainCtx_lowest s, Group.asLane_core]
    exact (holds_iff h z).2 (hset z (hi.set ▸ hz))) hpass
  have hfree := ranges_free (c := s.plainCtx iss g i) hpass
  refine endsIn_of_addOp (e := engineEntry check effect) (t := none) (lines := []) (opc := 0) hi.runs h ?_ h.group h.settled
    (h.lanes_there (fun _ _ => rfl))
  rw [plainCtx_lowest]
  simp only [engineEntry, plainCtx_active, List.isEmpty_eq_false_iff.2 hne, Bool.false_eq_true, if_false, hfault, hfree, hi.effect]

theorem engine_bad (hm : (trapMode g iss.mode).isSome = true) (hfields : ¬ e.fields) :
    Spec.ActiveTrap s iss g i 0x12 0x8000000000000003 :=
  engine_traps hi h hne hm (engineFault_bad (hi.bad.2 hfields))

theorem engine_unclaimed (hm : (trapMode g iss.mode).isSome = true) (hfields : e.fields) {z : Nat} (hz : e.set = some z)
    (hclaim : ¬ Spec.claims s iss g z) : Spec.ActiveTrap s iss g i 0x12 0x8000000000000001 :=
  engine_traps hi h hne hm (engineFault_unclaimed (Bool.eq_false_iff.2 (fun hb => hi.bad.1 hb hfields)) (hi.set.trans hz) (by
    rw [← plainCtx_lowest s, Group.asLane_core]
    exact fun hc => hclaim ((holds_iff h z).1 hc)))

end

end Sys2Proof.IssuingLanes

namespace Sys2Proof.IssuingLanes
open Sys2Proof Sys2Proof.Machine

/-! ### The engine instructions (R244, R246, R250, R253, R256) -/

section
variable (s : State) (iss : Issue) (g : Group) (i : Instr)

theorem kA_seen (k : Nat) : (s.plainCtx iss g i).kA (Spec.seenBy iss g i) k = g.kGet ((s.slots g iss i).a.num + k) :=
  Group.asLane_kGet_ ..

theorem kB_seen : (s.plainCtx iss g i).kB (Spec.seenBy iss g i) = g.kGet (s.slots g iss i).b.num := Group.asLane_kGet_ ..

theorem lowest_eq : (s.plainCtx iss g i).lowest.getD 0 = (g.activeLanes iss i).headD 0 := by
  unfold Ctx.lowest
  rw [plainCtx_active, List.headD_eq_head?_getD]

end

theorem misaligned {a b n : Nat} : (a % n != 0 || b % n != 0) = false ↔ a % n = 0 ∧ b % n = 0 := by
  simp only [Bool.or_eq_false_iff, bne_eq_false_iff_eq]

section
variable (s : State) (iss : Issue) (g : Group)

/-- What an operation that joins the queue leaves. -/
theorem queueOp_eq (i : Instr) (act : MatAct) (z kd n : Nat) :
    queueOp act z kd n s (s.plainCtx iss g i) (Spec.seenBy iss g i) = .done (s.addOp iss.gid .tx (.matrix
      { act := act, set := z, kd := kd, words := (List.range n).map (fun k => g.kGet ((s.slots g iss i).a.num + k)),
        lane := (g.activeLanes iss i).headD 0 })) [] none [] := by
  unfold queueOp
  simp only [kA_seen, lowest_eq, plainCtx_gid]

theorem mrel_engine (d : ZReg) (x : GuardF) : ∃ check effect e, Spec.engineAsk s iss g (.mrel d x) = some e ∧
    EngineOf s iss g (.mrel d x) e check effect := by
  refine ⟨_, _, _, rfl, rfl, ?_, rfl, fun _ _ => ⟨nofun, nofun, nofun, nofun, nofun⟩, queueOp_eq s iss g _ _ _ _ _⟩
  exact ⟨fun h => (Bool.false_ne_true h).elim, fun h => absurd trivial h⟩

theorem mstat_engine (d : KReg) (a : ZReg) (x : GuardF) : ∃ check effect e, Spec.engineAsk s iss g (.mstat d a x) = some e ∧
    EngineOf s iss g (.mstat d a x) e check effect := by
  refine ⟨_, _, _, rfl, rfl, ?_, rfl, fun _ _ => ⟨nofun, nofun, nofun, nofun, nofun⟩, queueOp_eq s iss g _ _ _ _ _⟩
  exact ⟨fun h => (Bool.false_ne_true h).elim, fun h => absurd trivial h⟩

theorem mxset_engine (d : ZReg) (b : KReg) (x : GuardF) : ∃ check effect e, Spec.engineAsk s iss g (.mxset d b x) = some e ∧
    EngineOf s iss g (.mxset d b x) e check effect := by
  refine ⟨_, _, _, rfl, rfl, ?_, rfl, fun _ _ => ⟨nofun, nofun, nofun, nofun, nofun⟩, ?_⟩
  · have hword (w : DWord) : (w.toNat / 65536 != 0 || decide (signed16 w < -512) || decide (511 < signed16 w)) = true ↔
        ¬ (w < 65536 ∧ -512 ≤ (w.setWidth 16).toInt ∧ (w.setWidth 16).toInt ≤ 511) := by
      have hlow : w < 65536 ↔ w.toNat / 65536 = 0 := by
        rw [BitVec.lt_def]
        exact (Nat.div_eq_zero_iff_lt (by decide)).symm
      have hsigned : (w.setWidth 16).toInt = signed16 w := by
        unfold signed16
        rw [BitVec.ofNat_toNat]
      rw [hlow, hsigned]
      simp only [Bool.or_eq_true, bne_iff_ne, decide_eq_true_eq]
      omega
    simp only [kB_seen]
    exact hword _
  · simp only [kB_seen, lowest_eq, plainCtx_gid]
    rfl

/-- `msave` and `mload` (R256). -/
theorem image_engine {i : Instr} {d : ZReg} {a : KReg} {act : MatAct} (hrun : exec i s = serve i s (imageEntry act))
    (hd : (s.slots g iss i).d.num = d.toNat) (ha : (s.slots g iss i).a.num = a.toNat) :
    ∃ check effect, EngineOf s iss g i
      { op := { act := act, set := d.toNat, kd := 0, words := (List.range 1).map (fun n => g.kGet (a.toNat + n))
                lane := (g.activeLanes iss i).headD 0 }
        fields := True, set := some d.toNat
        rest := (g.kGet (a.toNat + 0)).toNat % 16 = 0 ∧ Spec.rowsOk s iss.gid (Spec.seenBy iss g i) (g.kGet (a.toNat + 0)) 0 1 66576 }
      check effect := by
  refine ⟨_, _, hrun, ?_, congrArg some hd, ?_, ?_⟩
  · exact ⟨fun h => (Bool.false_ne_true h).elim, fun h => absurd trivial h⟩
  · rintro - ⟨halign, hrows⟩
    simp only [kA_seen, ha]
    exact ⟨List.forall_mem_singleton.2 (isTileAddr_of_rowsOk hrows), nofun,
      List.forall_mem_singleton.2 (bne_eq_false_iff_eq.2 halign), List.forall_mem_singleton.2 hrows, nofun⟩
  · rw [queueOp_eq, ha, plainCtx_o, hd]

theorem mbias_engine (d : ZReg) (a : KReg) (x : GuardF) : ∃ check effect e, Spec.engineAsk s iss g (.mbias d a x) = some e ∧
    EngineOf s iss g (.mbias d a x) e check effect := by
  refine ⟨_, _, _, rfl, rfl, ?_, rfl, ?_, queueOp_eq s iss g _ _ _ _ _⟩
  · simp only [kA_seen]
    exact bne_iff_ne
  · rintro - ⟨halign0, halign1, hrows⟩
    simp only [kA_seen]
    exact ⟨List.forall_mem_singleton.2 (isTileAddr_of_rowsOk hrows), nofun,
      List.forall_mem_cons.2 ⟨bne_eq_false_iff_eq.2 halign0, List.forall_mem_singleton.2 (bne_eq_false_iff_eq.2 halign1)⟩,
      List.forall_mem_singleton.2 hrows, nofun⟩

/-- Checks of rows at one address, and of a plane of exponents at another where the format has one. -/
theorem passes_plane {gid : Nat} {h : Group} {bad m0 m1 b : Bool} {set : Option Nat} {acc ext : List (Bool × DWord)} {a0 a1 : DWord}
    {n0 n1 rows w0 w1 : Nat} (hacc : ∀ p ∈ acc, p.1 = false) (hext : ∀ p ∈ ext, p.1 = false) (h0 : m0 = false)
    (hr0 : Spec.rowsOk s gid h a0 n0 rows w0) (hplane : b = false → m1 = false ∧ Spec.rowsOk s gid h a1 n1 rows w1) :
    EngineCheck.Passes { bad := bad, set := set, tiles := if b then [a0] else [a0, a1], access := acc
                         align := [(m0, a0)] ++ (if b then [] else [(m1, a1)])
                         ranges := ⟨a0, n0, rows, w0⟩ :: (if b then [] else [⟨a1, n1, rows, w1⟩]), extent := ext } s gid h := by
  cases b with
  | true => exact ⟨List.forall_mem_singleton.2 (isTileAddr_of_rowsOk hr0), hacc, List.forall_mem_singleton.2 h0,
      List.forall_mem_singleton.2 hr0, hext⟩
  | false =>
    obtain ⟨h1, hr1⟩ := hplane rfl
    exact ⟨List.forall_mem_cons.2 ⟨isTileAddr_of_rowsOk hr0, List.forall_mem_singleton.2 (isTileAddr_of_rowsOk hr1)⟩, hacc,
      List.forall_mem_cons.2 ⟨h0, List.forall_mem_singleton.2 h1⟩, List.forall_mem_cons.2 ⟨hr0, List.forall_mem_singleton.2 hr1⟩, hext⟩

/-- What `mepi` allows of a target: its plane, where it has one, has a range of its own (R253). -/
theorem mepi_engine (d : ZReg) (a : KReg) (t : MTarget) (sc : BitVec 4) (x : GuardF) :
    ∃ check effect e, Spec.engineAsk s iss g (.mepi d a t sc x) = some e ∧ EngineOf s iss g (.mepi d a t sc x) e check effect := by
  have hieee : t.ieee = decide (t = .f32 ∨ t = .bf16 ∨ t = .f16) := by cases t <;> rfl
  refine ⟨_, _, _, rfl, rfl, ?_, rfl, ?_, queueOp_eq s iss g _ _ _ _ _⟩
  · have hfield (w : DWord) : (t.ieee && w != 0) = true ↔ ¬ (decide (t = .f32 ∨ t = .bf16 ∨ t = .f16) = true → w = 0) := by
      rw [hieee, Bool.and_eq_true, bne_iff_ne, Classical.not_imp]
    simp only [kA_seen]
    exact hfield _
  · rintro - ⟨halign0, halign1, hrows, hplane⟩
    simp only [kA_seen, mepiRows]
    refine passes_plane s nofun nofun (misaligned.2 ⟨halign0, halign1⟩) (by cases t <;> exact hrows) (fun hb => ?_)
    obtain ⟨hp0, hp1, hprows⟩ := hplane (hieee ▸ hb)
    exact ⟨misaligned.2 ⟨hp0, hp1⟩, hprows⟩

/-- What `mma` asks in a format with `exb` exponent bytes a row (R243, R244, R246). -/
def mmaAsk (i : Instr) (a : KReg) (n exb : Nat) : Spec.EngineAsk :=
  let k (m : Nat) : DWord := g.kGet (a.toNat + m)
  let lo (x : DWord) : Nat := x.toNat % 2 ^ 32
  let hi (x : DWord) : Nat := x.toNat / 2 ^ 32
  let nk := (k 4).toNat % 8192 + 1
  let z : BitVec 2 := (k 4).extractLsb' 18 2
  { op := { act := .mma n, set := z.toNat, kd := 0, words := (List.range 8).map k, lane := (g.activeLanes iss i).headD 0 }
    fields := k 4 < 2 ^ 20 ∧ (k 4).extractLsb' 13 4 = 0 ∧ nk ≤ 4096 ∧ k 5 = 0 ∧ k 6 = 0 ∧ k 7 = 0 ∧
      (exb = 0 → k 1 = 0 ∧ hi (k 2) = 0)
    set := some z.toNat
    rest := (∃ r, Spec.regionOk s iss.gid (Spec.seenBy iss g i) (lo (k 3)) r ∧ hi (k 3) < r.len) ∧
      (k 0).toNat % 16 = 0 ∧ lo (k 2) % 16 = 0 ∧ Spec.rowsOk s iss.gid (Spec.seenBy iss g i) (k 0) (lo (k 2)) 64 (96 * nk) ∧
      (exb ≠ 0 → (k 1).toNat % 2 = 0 ∧ hi (k 2) % 2 = 0 ∧
        Spec.rowsOk s iss.gid (Spec.seenBy iss g i) (k 1) (hi (k 2)) 64 (exb * nk)) }

theorem mma_engine {i : Instr} {a : KReg} {n exb : Nat} (hrun : exec i s = serve i s (mmaEntry n))
    (ha : (s.slots g iss i).a.num = a.toNat) (hieee : (mfmt n).ieee.isSome = decide (exb = 0))
    (hexb : exb ≠ 0 → (mfmt n).exb = exb) : ∃ check effect, EngineOf s iss g i (mmaAsk s iss g i a n exb) check effect := by
  have hset (w : DWord) : w.toNat / 2 ^ 18 % 4 = (w.extractLsb' 18 2).toNat := by
    rw [BitVec.extractLsb'_toNat, Nat.shiftRight_eq_div_pow]
  refine ⟨_, _, hrun, ?_, ?_, ?_, ?_⟩
  · have hfield (w1 w2 w4 w5 w6 w7 : DWord) :
        (w4.toNat / 2 ^ 20 != 0 || w4.toNat / 2 ^ 13 % 16 != 0 || decide (4096 < w4.toNat % 8192 + 1) || w5 != 0 || w6 != 0 || w7 != 0 ||
          (decide (exb = 0) && (w1 != 0 || hi32 w2 != 0))) = true ↔
        ¬ (w4 < 2 ^ 20 ∧ w4.extractLsb' 13 4 = 0 ∧ w4.toNat % 8192 + 1 ≤ 4096 ∧ w5 = 0 ∧ w6 = 0 ∧ w7 = 0 ∧
          (exb = 0 → w1 = 0 ∧ w2.toNat / 2 ^ 32 = 0)) := by
      have hlow : w4 < 2 ^ 20 ↔ w4.toNat / 2 ^ 20 = 0 := by
        rw [BitVec.lt_def]
        exact (Nat.div_eq_zero_iff_lt (by decide)).symm
      have hmid : w4.extractLsb' 13 4 = 0 ↔ w4.toNat / 2 ^ 13 % 16 = 0 := by
        rw [← BitVec.toNat_inj, BitVec.extractLsb'_toNat, Nat.shiftRight_eq_div_pow]
        rfl
      rw [hlow, hmid, iff_not_comm]
      unfold hi32
      simp only [Bool.or_eq_true, Bool.and_eq_true, bne_iff_ne, decide_eq_true_eq, not_or, not_and, ne_eq, not_not, Nat.not_lt, and_assoc]
    simp only [mmaCheck, kA_seen, ha, hieee]
    exact hfield ..
  · simp only [mmaCheck, kA_seen, ha, hset]
    rfl
  · rintro - ⟨⟨r, hr, hlen⟩, halign0, halign1, hrows, hplane⟩
    have hreg : s.regionFor (s.plainCtx iss g i).gid (Spec.seenBy iss g i) (lo32 (g.kGet (a.toNat + 3))) = some r := regionFor_eq.2 hr
    simp only [mmaCheck, kA_seen, ha]
    refine passes_plane s (List.forall_mem_singleton.2 ?_) (List.forall_mem_singleton.2 ?_) (misaligned.2 ⟨halign0, halign1⟩) hrows
      (fun hb => ?_)
    · rw [hreg]
      rfl
    · rw [hreg]
      exact decide_eq_false (Nat.not_le.2 hlen)
    · have hne : exb ≠ 0 := of_decide_eq_false (hieee ▸ hb)
      obtain ⟨hp0, hp1, hprows⟩ := hplane hne
      exact ⟨misaligned.2 ⟨hp0, hp1⟩, by rw [hexb hne]; exact hprows⟩
  · simp only [queueOp_eq, kA_seen, ha, hset]
    rfl

end

/-- Every engine instruction that only queues its operation has an entry of these checks. -/
theorem engine_entry {s : State} {iss : Issue} {g : Group} {i : Instr} {e : Spec.EngineAsk} (h : Spec.engineAsk s iss g i = some e) :
    ∃ check effect, EngineOf s iss g i e check effect := by
  have of {e' : Spec.EngineAsk} (he' : Spec.engineAsk s iss g i = some e') (hx : ∃ check effect, EngineOf s iss g i e' check effect) :
      ∃ check effect, EngineOf s iss g i e check effect := by
    cases h.symm.trans he'
    exact hx
  have of' (hx : ∃ check effect e', Spec.engineAsk s iss g i = some e' ∧ EngineOf s iss g i e' check effect) :
      ∃ check effect, EngineOf s iss g i e check effect := by
    obtain ⟨check, effect, e', he', hx⟩ := hx
    exact of he' ⟨check, effect, hx⟩
  cases i with
  | mepi d a t sc x => exact of' (mepi_engine s iss g d a t sc x)
  | mrel d x => exact of' (mrel_engine s iss g d x)
  | msave d a sc x => exact of rfl (image_engine s iss g rfl rfl rfl)
  | mload d a x => exact of rfl (image_engine s iss g rfl rfl rfl)
  | mbias d a x => exact of' (mbias_engine s iss g d a x)
  | mstat d a x => exact of' (mstat_engine s iss g d a x)
  | mxset d b x => exact of' (mxset_engine s iss g d b x)
  | mmaTb8 a x | mmaTb6 a x | mmaTb4 a x => exact of rfl (mma_engine s iss g rfl rfl rfl (fun _ => rfl))
  | mmaBf16 a x | mmaF16 a x | mmaF32 a x => exact of rfl (mma_engine s iss g rfl rfl rfl (fun h => absurd rfl h))
  | _ => cases h

end Sys2Proof.IssuingLanes

namespace Sys2Proof.IssuingLanes
open Sys2Proof Sys2Proof.Machine

/-! ### `mzero`, `wbal` and `wbld` (R240, R250, R254, R255) -/

section
variable {s : State} {iss : Issue} {g : Group}

theorem mzero_of_none {d : ZReg} {x : GuardF} (h : Free s iss g (.mzero d x) .user (fun _ _ _ _ => []) (some .tx))
    (hnone : g.activeLanes iss (.mzero d x) = []) :
    EndsIn s iss (.mzero d x) s (Spec.withEmpty g .tx) (fun j => (g.lane j).pass iss) :=
  endsIn_of_addEmpty (e := mzeroEntry) (t := none) (lines := []) rfl h (by
    simp only [mzeroEntry, plainCtx_active, hnone, List.isEmpty_nil, if_true, plainCtx_gid])

/-- The claim is taken at issue (R240). -/
theorem mzero_claims {d : ZReg} {x : GuardF} (h : Free s iss g (.mzero d x) .user (fun _ _ _ _ => []) (some .tx))
    (hne : g.activeLanes iss (.mzero d x) ≠ []) (hold : ∀ k, s.holder g.core d.toNat = some k → k = iss.gid) :
    EndsIn s iss (.mzero d x) (s.modSet g.core d.toNat (fun z => { z with claim := some iss.gid }))
      (Spec.withOp g .tx (.matrix { act := .mzero, set := d.toNat, kd := 0, words := [], lane := (g.activeLanes iss (.mzero d x)).headD 0 }))
      (fun j => (g.lane j).pass iss) := by
  refine endsIn_of_addOp (e := mzeroEntry) (t := none) (lines := []) (opc := 0) rfl h ?_
    (show (s.modSet g.core d.toNat _).group iss.gid = some g from h.group) h.settled (h.lanes_there (fun _ _ => rfl))
  have hcore : (Spec.seenBy iss g (.mzero d x)).core = g.core := Group.asLane_core ..
  have hq := queueOp_eq (s.modSet g.core d.toNat (fun z => { z with claim := some iss.gid })) iss g (.mzero d x) .mzero d.toNat 0 0
  rw [plainCtx_lowest]
  simp only [mzeroEntry, plainCtx_active, List.isEmpty_eq_false_iff.2 hne, Bool.false_eq_true, if_false, plainCtx_gid, hcore]
  refine (if_neg ?_).trans hq
  split
  · rename_i k hk
    rw [hold k hk, bne_self_eq_false]
    exact Bool.false_ne_true
  · exact Bool.false_ne_true

/-- What R254 allows to ask for. -/
def regionFits (l : Launch) (k : BitVec 3) (w : DWord) : Prop :=
  w.toNat < 65536 ∧ w.toNat % 64 = 0 ∧ 64 ≤ w.toNat ∧ w.toNat ≤ 16384 ∧ k ≠ 0 ∧ k.toNat < l.nlevel ∧ l.tile k.toNat = true ∧
    l.domain k.toNat ≤ 1

theorem regionBad_iff (l : Launch) (k : BitVec 3) (w : DWord) : regionBad l k.toNat w = true ↔ ¬ regionFits l k w := by
  have hk : k ≠ 0 ↔ ¬ k.toNat = 0 := by
    rw [ne_eq, ← BitVec.toNat_inj]
    rfl
  rw [iff_not_comm]
  unfold regionBad regionFits bufferUnits
  simp only [Bool.or_eq_true, bne_iff_ne, decide_eq_true_eq, beq_iff_eq, Bool.not_eq_true', not_or, ne_eq, not_not, Nat.not_lt,
    Bool.not_eq_false, and_assoc, hk, Nat.not_le]
  constructor
  · rintro ⟨h1, h2, h3, h4, h5⟩
    exact ⟨by omega, by omega, by omega, h4, h5⟩
  · rintro ⟨h1, h2, h3, h4, h5⟩
    exact ⟨by omega, by omega, by omega, h4, h5⟩

/-- The length under a key: of its region, or of the request that waits for one. -/
def lengthAsked (s : State) (core : Nat) (ow : Owner) (kd : Nat) : Option Nat :=
  match (s.core core).regionOf ow kd with
  | some (_, r) => some r.len
  | none => s.regionPending ow kd

/-- There is a length under the key, and it is another. -/
def differs (o : Option Nat) (n : Nat) : Bool :=
  match o with
  | some m => decide (m ≠ n)
  | none => false

theorem differs_eq_false {o : Option Nat} {n : Nat} (h : ∀ m, o = some m → m = n) : differs o n = false := by
  cases o with
  | none => rfl
  | some m => exact decide_eq_false (fun hc => hc (h m rfl))

theorem lengthAsked_eq {core kd n m : Nat} {ow : Owner}
    (hregions : ∀ p ∈ (s.core core).regions, p.2.owner = ow → p.2.reg = kd → p.2.len = n)
    (hpending : ∀ y, s.regionPending ow kd = some y → y = n) (h : lengthAsked s core ow kd = some m) : m = n := by
  unfold lengthAsked at h
  split at h
  · rename_i j r hr
    unfold Core.regionOf at hr
    have hkey := List.find?_some hr
    simp only [Bool.and_eq_true, decide_eq_true_eq] at hkey
    cases h
    exact hregions _ (List.mem_of_find?_eq_some hr) hkey.1 hkey.2
  · exact hpending m h

section
variable {d a : KReg} {k : BitVec 3} {x : GuardF}
variable (h : Free s iss g (.wbal d a k x) .user (fun _ _ _ _ => []) (some .tx))
include h

theorem wbal_of_none (hnone : g.activeLanes iss (.wbal d a k x) = []) :
    EndsIn s iss (.wbal d a k x) s (Spec.withEmpty g .tx) (fun j => (g.lane j).pass iss) :=
  endsIn_of_addEmpty (e := wbalEntry k.toNat) (t := none) (lines := []) rfl h (by
    simp only [wbalEntry, plainCtx_active, hnone, List.isEmpty_nil, if_true, plainCtx_gid])

variable (hne : g.activeLanes iss (.wbal d a k x) ≠ []) {l : Launch} (hl : s.launch g.launch = some l) {ow : Owner}
variable (how : (Spec.seenBy iss g (.wbal d a k x)).ownerAt iss.gid k.toNat = some ow)
include hne hl how

omit h in
/-- `wbal` past its first checks. -/
theorem wbal_body :
    (wbalEntry k.toNat).body (s.plainCtx iss g (.wbal d a k x)) s (Spec.seenBy iss g (.wbal d a k x)) =
      if regionBad l k.toNat (g.kGet a.toNat) || differs (lengthAsked s g.core ow d.toNat) ((g.kGet a.toNat).toNat % 65536)
      then trapActive (s.plainCtx iss g (.wbal d a k x)) s 0x10 (g.kGet a.toNat)
      else queueOp (.wbal ow) 0 d.toNat 1 { s with waits := s.waits ++ [{ gid := iss.gid, op := g.nextOp, lvl := false, unit := g.core }] }
        (s.plainCtx iss g (.wbal d a k x)) (Spec.seenBy iss g (.wbal d a k x)) := by
  have hfound : s.launchOf (Spec.seenBy iss g (.wbal d a k x)) = some l :=
    (congrArg s.launch (Group.asLane_launch ..)).trans hl
  have hcore : (Spec.seenBy iss g (.wbal d a k x)).core = g.core := Group.asLane_core ..
  have hnext : (Spec.seenBy iss g (.wbal d a k x)).nextOp = g.nextOp := Group.asLane_nextOp ..
  simp only [wbalEntry, plainCtx_active, List.isEmpty_eq_false_iff.2 hne, Bool.false_eq_true, if_false, hfound, plainCtx_gid, how, hcore,
    hnext, kA_seen]
  rfl

theorem wbal_waits (hfits : regionFits l k (g.kGet a.toNat))
    (hone : (∀ p ∈ (s.core g.core).regions, p.2.owner = ow → p.2.reg = d.toNat → p.2.len = (g.kGet a.toNat).toNat) ∧
      ∀ y, s.regionPending ow d.toNat = some y → y = (g.kGet a.toNat).toNat) :
    EndsIn s iss (.wbal d a k x) { s with waits := s.waits ++ [{ gid := iss.gid, op := g.nextOp, lvl := false, unit := g.core }] }
      (Spec.withOp g .tx (.matrix { act := .wbal ow, set := 0, kd := d.toNat, words := [g.kGet a.toNat],
                                    lane := (g.activeLanes iss (.wbal d a k x)).headD 0 }))
      (fun j => (g.lane j).pass iss) := by
  obtain ⟨hregions, hpending⟩ := hone
  have hlen : (g.kGet a.toNat).toNat % 65536 = (g.kGet a.toNat).toNat := Nat.mod_eq_of_lt hfits.1
  have hbad : regionBad l k.toNat (g.kGet a.toNat) = false := Bool.eq_false_iff.2 (fun hb => (regionBad_iff l k _).1 hb hfits)
  refine endsIn_of_addOp (e := wbalEntry k.toNat) (t := none) (lines := []) (opc := 0) rfl h ?_
    (show s.group iss.gid = some g from h.group) h.settled (h.lanes_there (fun _ _ => rfl))
  rw [plainCtx_lowest, wbal_body hne hl how, hbad, Bool.false_or, hlen,
    differs_eq_false (fun _ => lengthAsked_eq hregions hpending)]
  exact queueOp_eq _ iss g _ _ _ _ _

theorem wbal_traps (hfits : ¬ regionFits l k (g.kGet a.toNat)) (hm : (trapMode g iss.mode).isSome = true) :
    Spec.ActiveTrap s iss g (.wbal d a k x) 0x10 (g.kGet a.toNat) := by
  refine endsIn_of_trapActive (e := wbalEntry k.toNat) rfl h hm ?_
  rw [plainCtx_lowest, wbal_body hne hl how, (regionBad_iff l k _).2 hfits, Bool.true_or]
  rfl

end

section
variable {a : KReg} {x : GuardF} (h : Free s iss g (.wbld a x) .user (fun _ _ _ _ => []) (some .tx))
include h

theorem wbld_of_none (hnone : g.activeLanes iss (.wbld a x) = []) :
    EndsIn s iss (.wbld a x) s (Spec.withEmpty g .tx) (fun j => (g.lane j).pass iss) :=
  endsIn_of_addEmpty (e := wbldEntry) (t := none) (lines := []) rfl h (by
    simp only [wbldEntry, plainCtx_active, hnone, List.isEmpty_nil, if_true, plainCtx_gid])

variable (hne : g.activeLanes iss (.wbld a x) ≠ [])
include hne

theorem wbld_traps (hbad : (g.kGet (a.toNat + 2)).toNat = 0 ∨ 16384 < (g.kGet (a.toNat + 2)).toNat)
    (hm : (trapMode g iss.mode).isSome = true) : Spec.ActiveTrap s iss g (.wbld a x) 0x12 0x8000000000000003 := by
  refine endsIn_of_trapActive (e := wbldEntry) rfl h hm ?_
  have hrange (n : Nat) (hn : n = 0 ∨ 16384 < n) : (n / 32768 != 0 || n % 32768 == 0 || decide (bufferUnits < n % 32768)) = true := by
    unfold bufferUnits
    simp only [Bool.or_eq_true, bne_iff_ne, beq_iff_eq, decide_eq_true_eq]
    omega
  rw [plainCtx_lowest]
  simp only [wbldEntry, plainCtx_active, List.isEmpty_eq_false_iff.2 hne, Bool.false_eq_true, if_false, kA_seen]
  exact if_pos (hrange _ hbad)

theorem wbld_joins (hlow : (g.kGet (a.toNat + 2)).toNat < 2 ^ 15) (hone : 1 ≤ (g.kGet (a.toNat + 2)).toNat)
    (hmax : (g.kGet (a.toNat + 2)).toNat ≤ 16384)
    (hsrc : Spec.wellFormed 0 (g.kGet a.toNat) ∨ Spec.rowsOk s iss.gid (Spec.seenBy iss g (.wbld a x)) (g.kGet a.toNat) 0 1 1)
    (halign : (g.kGet a.toNat).toNat % 16 = 0) {r : WRegion}
    (hr : Spec.regionOk s iss.gid (Spec.seenBy iss g (.wbld a x)) ((g.kGet (a.toNat + 1)).toNat % 2 ^ 32) r)
    (hlen : (g.kGet (a.toNat + 1)).toNat / 2 ^ 32 + (g.kGet (a.toNat + 2)).toNat ≤ r.len) :
    EndsIn s iss (.wbld a x) s (Spec.withOp g .tx (.wbld ((g.kGet (a.toNat + 1)).toNat % 2 ^ 32 % 16)
      ((g.kGet (a.toNat + 1)).toNat / 2 ^ 32) (Spec.regionCopy g iss (.wbld a x) a))) (fun j => (g.lane j).pass iss) := by
  refine endsIn_of_addOp (e := wbldEntry) (t := none) (lines := []) (opc := 0) rfl h ?_ h.group h.settled (h.lanes_there (fun _ _ => rfl))
  have hmod : (g.kGet (a.toNat + 2)).toNat % 32768 = (g.kGet (a.toNat + 2)).toNat := Nat.mod_eq_of_lt hlow
  have hrange : ((g.kGet (a.toNat + 2)).toNat / 32768 != 0 || (g.kGet (a.toNat + 2)).toNat == 0 ||
      decide (bufferUnits < (g.kGet (a.toNat + 2)).toNat)) = false := by
    unfold bufferUnits
    simp only [Bool.or_eq_false_iff, bne_eq_false_iff_eq, beq_eq_false_iff_ne, decide_eq_false_iff_not]
    omega
  have hplace : (copyAperture (g.kGet a.toNat)).isNone = false ∧
      ∀ g' lane, s.addrBusy iss.gid g' lane (g.kGet a.toNat) = false := by
    rcases hsrc with hglobal | hrows
    · have hap := aperture_global hglobal
      unfold copyAperture State.addrBusy
      rw [hap]
      exact ⟨rfl, fun _ _ => rfl⟩
    · refine ⟨?_, addrBusy_of_rowsOk hrows⟩
      unfold copyAperture
      rw [aperture_tile hrows.1]
      rfl
  obtain ⟨hap, hbusy⟩ := hplace
  have hreg : s.regionFor iss.gid (Spec.seenBy iss g (.wbld a x)) (lo32 (g.kGet (a.toNat + 1))) = some r := regionFor_eq.2 hr
  have hcopy : wbldCopy (s.plainCtx iss g (.wbld a x)) (Spec.seenBy iss g (.wbld a x)) = Spec.regionCopy g iss (.wbld a x) a := by
    unfold wbldCopy Spec.regionCopy
    rw [kA_seen, kA_seen, lowest_eq]
    rfl
  rw [plainCtx_lowest]
  simp only [wbldEntry, plainCtx_active, List.isEmpty_eq_false_iff.2 hne, Bool.false_eq_true, if_false, kA_seen, plainCtx_gid, hcopy]
  rw [show (s.slots g iss (.wbld a x)).a.num = a.toNat from rfl, Nat.add_zero a.toNat, hmod, hrange, hap, hreg]
  simp only [Bool.false_eq_true, if_false, halign, bne_self_eq_false, hbusy]
  exact if_neg (Nat.not_lt.2 hlen)

end

end

/-- Settles O47: `engine_entry` gives each engine instruction the checks of its entry, which decide what becomes of it; `mzero`, `wbal` and
`wbld` have checks of their own. -/
theorem matrixIssue : Obligations.MatrixIssue := by
  intro s iss g i h
  refine ⟨?_, fun hne => ?_⟩
  · rintro hnone (hask | ⟨d, x, rfl⟩ | ⟨d, a, k, x, rfl⟩ | ⟨a, x, rfl⟩)
    · obtain ⟨e, he⟩ := Option.isSome_iff_exists.1 hask
      obtain ⟨check, effect, hi⟩ := engine_entry he
      exact engine_of_none hi h hnone
    · exact mzero_of_none h hnone
    · exact wbal_of_none h hnone
    · exact wbld_of_none h hnone
  · intro g' el
    refine ⟨fun e he => ?_, ?_, ?_, ?_⟩
    · obtain ⟨check, effect, hi⟩ := engine_entry he
      exact ⟨engine_joins hi h hne, engine_bad hi h hne, fun z hm hfields hz => engine_unclaimed hi h hne hm hfields hz⟩
    · rintro d x rfl hold
      exact mzero_claims h hne hold
    · rintro d a k x l ow rfl hl how
      exact ⟨fun hfits hone => wbal_waits h hne hl how hfits hone, fun hfits hm => wbal_traps h hne hl how hfits hm⟩
    · rintro a x rfl
      refine ⟨?_, fun hbad hm => wbld_traps h hne hbad hm⟩
      rintro hlow hone hmax hsrc halign ⟨r, hr, hlen⟩
      exact wbld_joins h hne hlow hone hmax hsrc halign hr hlen

end Sys2Proof.IssuingLanes

namespace Sys2Proof.IssuingLanes
open Sys2Proof Sys2Proof.Machine

/-! ### Fields of a word -/

theorem lt_two_pow_iff (w : DWord) {n : Nat} (hn : n < 64) : w < 2 ^ n ↔ w.toNat / 2 ^ n = 0 := by
  have hpow : ((2 : DWord) ^ n).toNat = 2 ^ n := by
    rw [BitVec.toNat_pow]
    exact Nat.mod_eq_of_lt (Nat.pow_lt_pow_right (by decide) hn)
  rw [BitVec.lt_def, hpow]
  exact (Nat.div_eq_zero_iff_lt (Nat.two_pow_pos n)).symm

theorem field_toNat (w : DWord) (a n : Nat) : (w.extractLsb' a n).toNat = w.toNat / 2 ^ a % 2 ^ n := by
  rw [BitVec.extractLsb'_toNat, Nat.shiftRight_eq_div_pow]

theorem field_eq_zero (w : DWord) (a n : Nat) : w.extractLsb' a n = 0 ↔ w.toNat / 2 ^ a % 2 ^ n = 0 := by
  rw [← BitVec.toNat_inj, field_toNat]
  rfl

theorem field_low (w : DWord) (n : Nat) : BitVec.ofNat n w.toNat = w.extractLsb' 0 n := by
  apply BitVec.eq_of_toNat_eq
  rw [field_toNat, BitVec.toNat_ofNat, Nat.pow_zero, Nat.div_one]

theorem winBad_iff (w : DWord) : winBad w = true ↔ ¬ w < 2 ^ 54 := by
  rw [lt_two_pow_iff w (by decide)]
  exact bne_iff_ne

theorem farOff_eq (w : DWord) : farOff w = Spec.offOf w := by
  unfold farOff Spec.offOf
  rw [field_toNat, Nat.pow_zero, Nat.div_one]

theorem farVi_eq (w : DWord) : farVi w = Spec.viOf w := (field_toNat w 24 11).symm

theorem ifaceBad_iff (w : DWord) : ifaceBad w = true ↔ ¬ Spec.ifaceOk w := by
  unfold ifaceBad Spec.ifaceOk
  rw [iff_not_comm, lt_two_pow_iff w (by decide), field_eq_zero, field_eq_zero, farVi_eq]
  simp only [Bool.or_eq_true, bne_iff_ne, beq_iff_eq, decide_eq_true_eq, not_or, ne_eq, not_not, Nat.not_lt, and_assoc,
    Nat.pow_zero, Nat.div_one, Nat.one_le_iff_ne_zero, Nat.reducePow]

theorem rankBad_iff (w : DWord) : rankBad w = true ↔ ¬ (w < 2 ^ 48 ∧ w.extractLsb' 12 12 = 0) := by
  unfold rankBad
  rw [iff_not_comm, lt_two_pow_iff w (by decide), field_eq_zero]
  simp only [Bool.or_eq_true, bne_iff_ne, not_or, ne_eq, not_not]

/-! ### Places of a message or of a session (R318, R321) -/

theorem globalAt_passes {a : DWord} {n : Nat} (h : Spec.globalOk a n) : (globalAt a n).1.1 = false ∧ (globalAt a n).2.1 = false := by
  obtain ⟨hform, halign⟩ := h
  unfold globalAt
  rw [aperture_global hform]
  exact ⟨rfl, bne_eq_false_iff_eq.2 halign⟩

theorem copyAperture_global {a : DWord} (h : Spec.wellFormed 0 a) : copyAperture a = some (.global a.toNat) := by
  unfold copyAperture
  rw [aperture_global h]

theorem copyAperture_tile {a : DWord} (h : Spec.wellFormed 2 a ∨ Spec.wellFormed 3 a) :
    copyAperture a = some (.tile (Spec.wellFormed 3 a) (Spec.handleOf a) (Spec.offsetOf a)) := by
  unfold copyAperture
  rw [aperture_tile h]
  rfl

theorem rowsFit_global {a : DWord} {n : Nat} (h : Spec.wellFormed 0 a) (hn : a.toNat + n ≤ 2 ^ 48) : rowsFit a 0 1 n = true := by
  have ha : a.toNat < 2 ^ 48 := of_decide_eq_true h
  unfold rowsFit
  rw [aperture_global h]
  simp only [Nat.cast_one, sub_self, zero_mul, add_zero, Bool.and_self, Bool.and_eq_true, decide_eq_true_eq]
  omega

theorem rowsFit_tile {a : DWord} {n : Nat} (h : Spec.wellFormed 2 a ∨ Spec.wellFormed 3 a) (hn : Spec.offsetOf a + n ≤ 2 ^ 24) :
    rowsFit a 0 1 n = true := by
  unfold Spec.offsetOf at hn
  unfold rowsFit
  rw [aperture_tile h]
  simp only [Nat.cast_one, sub_self, zero_mul, add_zero, Bool.and_self, Bool.and_eq_true, decide_eq_true_eq]
  omega

/-- An end in an aperture of copies, its row inside, passes order 1 of R197. -/
theorem reaches {a : DWord} {n : Nat} {p : Aperture} (ha : copyAperture a = some p) (hfit : rowsFit a 0 1 n = true) :
    ((copyAperture a).isNone || !rowsFit a 0 1 n) = false := by
  rw [ha, hfit]
  rfl

/-! ### The fabric and Blend instructions but copies (R317 to R321) -/

/-- A fabric instruction, with the checks and the act of its entry. -/
structure FabricOf (s : State) (iss : Issue) (g : Group) (i : Instr) (f : Spec.FabricAsk) (check : Ctx → Group → EngineCheck)
    (act : Ctx → Group → FabAct) (target : Ctx → Group → DWord) : Prop where
  runs : exec i s = serve i s (fabricEntry f.cls f.opc check act target)
  bad : (check (s.plainCtx iss g i) (Spec.seenBy iss g i)).bad = true ↔ ¬ f.fields
  set : (check (s.plainCtx iss g i) (Spec.seenBy iss g i)).set = none
  passes : f.fields → f.rest → (check (s.plainCtx iss g i) (Spec.seenBy iss g i)).Passes s iss.gid (Spec.seenBy iss g i)
  act : act (s.plainCtx iss g i) (Spec.seenBy iss g i) = f.act
  target : target (s.plainCtx iss g i) (Spec.seenBy iss g i) = f.target

section
variable {s : State} {iss : Issue} {g : Group} {i : Instr} {f : Spec.FabricAsk} {check : Ctx → Group → EngineCheck}
  {act : Ctx → Group → FabAct} {target : Ctx → Group → DWord}
variable (hi : FabricOf s iss g i f check act target) (h : Free s iss g i .user (fun _ _ _ _ => []) (some f.cls))
include hi h

theorem fabric_of_none (hnone : g.activeLanes iss i = []) :
    EndsIn s iss i s (Spec.withEmpty g f.cls) (fun j => (g.lane j).pass iss) :=
  endsIn_of_addEmpty (e := fabricEntry f.cls f.opc check act target) (t := none) (lines := []) hi.runs h (by
    simp only [fabricEntry, plainCtx_active, hnone, List.isEmpty_nil, if_true, plainCtx_gid])

variable (hne : g.activeLanes iss i ≠ [])
include hne

theorem fabric_joins (hfields : f.fields) (hrest : f.rest) :
    EndsIn s iss i s (Spec.withOp g f.cls (.fabric f.act f.target iss.mode (s.ownWrites iss.gid ++ g.fwaited) false none) f.opc)
      (fun j => (g.lane j).pass iss) := by
  have hbad : (check (s.plainCtx iss g i) (Spec.seenBy iss g i)).bad = false :=
    Bool.eq_false_iff.2 (fun hb => hi.bad.1 hb hfields)
  have hpass := hi.passes hfields hrest
  have hfault := engineFault_none (c := s.plainCtx iss g i) hbad (fun z hz => nomatch hi.set.symm.trans hz) hpass
  have hfree := ranges_free (c := s.plainCtx iss g i) hpass
  have hwaited : (Spec.seenBy iss g i).fwaited = g.fwaited := Group.asLane_fwaited ..
  refine endsIn_of_addOp (e := fabricEntry f.cls f.opc check act target) (t := none) (lines := []) hi.runs h ?_ h.group h.settled
    (h.lanes_there (fun _ _ => rfl))
  rw [plainCtx_lowest]
  simp only [fabricEntry, plainCtx_active, List.isEmpty_eq_false_iff.2 hne, Bool.false_eq_true, if_false, hfault, hfree, hi.act,
    hi.target, plainCtx_gid, plainCtx_m, hwaited]

theorem fabric_bad (hm : (trapMode g iss.mode).isSome = true) (hfields : ¬ f.fields) :
    Spec.ActiveTrap s iss g i 0x12 0x8000000000000003 :=
  endsIn_of_trapActive (e := fabricEntry f.cls f.opc check act target) hi.runs h hm (by
    rw [plainCtx_lowest]
    simp only [fabricEntry, plainCtx_active, List.isEmpty_eq_false_iff.2 hne, Bool.false_eq_true, if_false,
      engineFault_bad (hi.bad.2 hfields)])

end

section
variable (s : State) (iss : Issue) (g : Group)

/-- An entry of these checks fits the instruction's ask. -/
def FabricEntry (i : Instr) (f : Spec.FabricAsk) : Prop := ∃ check act target, FabricOf s iss g i f check act target

/-- No check at all. -/
theorem fabric_unchecked {i : Instr} {f : Spec.FabricAsk} {act : Ctx → Group → FabAct} {target : Ctx → Group → DWord}
    (hrun : exec i s = serve i s (fabricEntry f.cls f.opc (fun _ _ => {}) act target)) (hf : f.fields)
    (hact : act (s.plainCtx iss g i) (Spec.seenBy iss g i) = f.act)
    (htarget : target (s.plainCtx iss g i) (Spec.seenBy iss g i) = f.target) : FabricEntry s iss g i f :=
  ⟨_, _, _, hrun, ⟨fun h => (Bool.false_ne_true h).elim, fun h => absurd hf h⟩, rfl, fun _ _ => ⟨nofun, nofun, nofun, nofun, nofun⟩,
    hact, htarget⟩

theorem fstat_entry (d : KReg) (x : GuardF) : ∃ f, Spec.fabricAsk s iss g (.fstat d x) = some f ∧ FabricEntry s iss g (.fstat d x) f :=
  ⟨_, rfl, fabric_unchecked s iss g rfl trivial rfl rfl⟩

theorem bstat_entry (d a : KReg) (x : GuardF) :
    ∃ f, Spec.fabricAsk s iss g (.bstat d a x) = some f ∧ FabricEntry s iss g (.bstat d a x) f :=
  ⟨_, rfl, fabric_unchecked s iss g rfl trivial (congrArg _ (kA_seen ..)) (kA_seen ..)⟩

theorem bfree_entry (a : KReg) (x : GuardF) :
    ∃ f, Spec.fabricAsk s iss g (.bfree a x) = some f ∧ FabricEntry s iss g (.bfree a x) f :=
  ⟨_, rfl, fabric_unchecked s iss g rfl trivial (congrArg _ (kA_seen ..)) (kA_seen ..)⟩

/-- The check of a window word (R316, R317). -/
theorem wordCheck_passes {i : Instr} {a : KReg} (ha : (s.slots g iss i).a.num = a.toNat)
    (h : Spec.offOf (g.kGet (a.toNat + 0)) % 8 = 0) :
    (wordCheck (s.plainCtx iss g i) (Spec.seenBy iss g i)).Passes s iss.gid (Spec.seenBy iss g i) := by
  simp only [wordCheck, kA_seen, ha, farOff_eq]
  exact ⟨nofun, nofun, List.forall_mem_singleton.2 (bne_eq_false_iff_eq.2 h), nofun, nofun⟩

theorem wordCheck_bad {i : Instr} {a : KReg} (ha : (s.slots g iss i).a.num = a.toNat) :
    (wordCheck (s.plainCtx iss g i) (Spec.seenBy iss g i)).bad = true ↔ ¬ g.kGet (a.toNat + 0) < 2 ^ 54 := by
  simp only [wordCheck, kA_seen, ha]
  exact winBad_iff _

theorem frdK_entry (d a : KReg) (x : GuardF) :
    ∃ f, Spec.fabricAsk s iss g (.frdK d a x) = some f ∧ FabricEntry s iss g (.frdK d a x) f :=
  ⟨_, rfl, _, _, _, rfl, wordCheck_bad s iss g rfl, rfl, fun _ h => wordCheck_passes s iss g rfl h, rfl, kA_seen ..⟩

theorem fatom_entry (d a : KReg) (ex : Bool) (x : GuardF) :
    ∃ f, Spec.fabricAsk s iss g (.fatom d a ex x) = some f ∧ FabricEntry s iss g (.fatom d a ex x) f :=
  ⟨_, rfl, _, _, _, rfl, wordCheck_bad s iss g rfl, rfl, fun _ h => wordCheck_passes s iss g rfl h, congrArg _ (kA_seen ..), kA_seen ..⟩

theorem fevent_entry (a : KReg) (x : GuardF) :
    ∃ f, Spec.fabricAsk s iss g (.fevent a x) = some f ∧ FabricEntry s iss g (.fevent a x) f := by
  refine ⟨_, rfl, _, _, _, rfl, ?_, rfl, fun _ _ => ⟨nofun, nofun, nofun, nofun, nofun⟩, ?_, kA_seen ..⟩
  · have hfield (w v : DWord) : (ifaceBad w || v.toNat / 256 != 0) = true ↔ ¬ (Spec.ifaceOk w ∧ v < 256) := by
      have hlow : v < 256 ↔ v.toNat / 256 = 0 := lt_two_pow_iff v (n := 8) (by decide)
      rw [Bool.or_eq_true, ifaceBad_iff, bne_iff_ne, hlow, not_and_or]
    simp only [kA_seen]
    exact hfield ..
  · simp only [kA_seen, field_low]
    rfl

theorem msgLen_eq (w : DWord) : msgLen w = (w.extractLsb' 32 8).toNat := (field_toNat w 32 8).symm

theorem fsend_entry (a : KReg) (x : GuardF) :
    ∃ f, Spec.fabricAsk s iss g (.fsend a x) = some f ∧ FabricEntry s iss g (.fsend a x) f := by
  refine ⟨_, rfl, _, _, _, rfl, ?_, rfl, ?_, ?_, kA_seen ..⟩
  · have hfield (w v : DWord) : (ifaceBad w || v.toNat / 2 ^ 40 != 0 || decide (240 < msgLen v)) = true ↔
        ¬ (Spec.ifaceOk w ∧ v < 2 ^ 40 ∧ (v.extractLsb' 32 8).toNat ≤ 240) := by
      rw [lt_two_pow_iff v (by decide), ← msgLen_eq]
      simp only [Bool.or_eq_true, ifaceBad_iff, bne_iff_ne, decide_eq_true_eq]
      rw [not_and_or, not_and_or, Nat.not_le, or_assoc]
    simp only [fsendCheck, kA_seen]
    exact hfield ..
  · rintro - ⟨halign, hplace⟩
    simp only [fsendCheck, kA_seen, msgLen_eq]
    have halign : ((g.kGet (a.toNat + 0)).toNat % 16 != 0) = false := bne_eq_false_iff_eq.2 halign
    rcases hplace with ⟨hglobal, hlen⟩ | ⟨hrows, hlen⟩
    · have hnot : isTileAddr (g.kGet (a.toNat + 0)) = false := by
        unfold isTileAddr tileHandle
        rw [aperture_global hglobal]
        rfl
      refine ⟨nofun, List.forall_mem_singleton.2 ?_, List.forall_mem_singleton.2 halign, ?_, nofun⟩
      · exact reaches (copyAperture_global hglobal) (rowsFit_global hglobal hlen)
      · exact (if_neg (Bool.eq_false_iff.1 hnot)).symm ▸ nofun
    · refine ⟨nofun, List.forall_mem_singleton.2 ?_, List.forall_mem_singleton.2 halign, ?_, nofun⟩
      · exact reaches (copyAperture_tile hrows.1) (rowsFit_tile hrows.1 hlen)
      · exact (if_pos (isTileAddr_of_rowsOk hrows)).symm ▸ List.forall_mem_singleton.2 hrows
  · simp only [kA_seen, field_low, msgLen_eq]
    rfl

theorem bclose_entry (a : KReg) (x : GuardF) :
    ∃ f, Spec.fabricAsk s iss g (.bclose a x) = some f ∧ FabricEntry s iss g (.bclose a x) f := by
  refine ⟨_, rfl, _, _, _, rfl, ?_, rfl, fun _ _ => ⟨nofun, nofun, nofun, nofun, nofun⟩, ?_, kA_seen ..⟩
  · simp only [kA_seen]
    exact rankBad_iff _
  · simp only [kA_seen]
    rfl

theorem bpush_entry (a : KReg) (x : GuardF) :
    ∃ f, Spec.fabricAsk s iss g (.bpush a x) = some f ∧ FabricEntry s iss g (.bpush a x) f := by
  refine ⟨_, rfl, _, _, _, rfl, ?_, rfl, ?_, ?_, kA_seen ..⟩
  · have hfield (w : DWord) : (rankBad w || rankItems w == 0) = true ↔
        ¬ ((w < 2 ^ 48 ∧ w.extractLsb' 12 12 = 0) ∧ w.extractLsb' 24 24 ≠ 0) := by
      have hitems : w.extractLsb' 24 24 = 0 ↔ rankItems w = 0 := field_eq_zero w 24 24
      rw [Bool.or_eq_true, rankBad_iff, beq_iff_eq, ne_eq, hitems]
      tauto
    simp only [bpushCheck, kA_seen]
    exact hfield _
  · rintro - hplace
    obtain ⟨haccess, halign⟩ := globalAt_passes hplace
    simp only [bpushCheck, kA_seen]
    exact ⟨nofun, List.forall_mem_singleton.2 haccess, List.forall_mem_singleton.2 halign, nofun, nofun⟩
  · simp only [kA_seen]
    rfl

theorem bopen_entry (d a : KReg) (x : GuardF) :
    ∃ f, Spec.fabricAsk s iss g (.bopen d a x) = some f ∧ FabricEntry s iss g (.bopen d a x) f := by
  refine ⟨_, rfl, _, _, _, rfl, ?_, rfl, ?_, ?_, rfl⟩
  · have hfield (w v : DWord) :
        (w.toNat / 2 ^ 56 != 0 || w.toNat / 2 ^ 13 % 16 != 0 || decide (openCap w < 2) || (openFmt w != 1 && openFmt w != 5) ||
          openThresh w == 0 || decide (1024 < openThresh w) || openRanks w == 0 || decide (4096 < openRanks w) ||
          v.toNat / 2 ^ 48 != 0) = true ↔
        ¬ (w < 2 ^ 56 ∧ w.extractLsb' 13 4 = 0 ∧ 2 ≤ (w.extractLsb' 32 24).toNat ∧
          ((w.extractLsb' 28 4).toNat = 1 ∨ (w.extractLsb' 28 4).toNat = 5) ∧ 1 ≤ (w.extractLsb' 17 11).toNat ∧
          (w.extractLsb' 17 11).toNat ≤ 1024 ∧ 1 ≤ (w.extractLsb' 0 13).toNat ∧ (w.extractLsb' 0 13).toNat ≤ 4096 ∧ v < 2 ^ 48) := by
      unfold openCap openFmt openThresh openRanks
      rw [iff_not_comm, lt_two_pow_iff w (by decide), lt_two_pow_iff v (by decide)]
      simp only [field_eq_zero, field_toNat, Bool.or_eq_true, Bool.and_eq_true, bne_iff_ne, beq_iff_eq, decide_eq_true_eq, not_or,
        ne_eq, not_not, Nat.not_lt, and_assoc, not_and_or, Nat.pow_zero, Nat.div_one, Nat.one_le_iff_ne_zero, Nat.reducePow]
    simp only [bopenCheck, kA_seen]
    exact hfield ..
  · rintro - ⟨hout, hdone⟩
    obtain ⟨haccess0, halign0⟩ := globalAt_passes hout
    obtain ⟨haccess1, halign1⟩ := globalAt_passes hdone
    simp only [bopenCheck, kA_seen]
    exact ⟨nofun, List.forall_mem_cons.2 ⟨haccess0, List.forall_mem_singleton.2 haccess1⟩,
      List.forall_mem_cons.2 ⟨halign0, List.forall_mem_singleton.2 halign1⟩, nofun, nofun⟩
  · simp only [kA_seen]
    rfl

end

/-- Every fabric or Blend instruction but the copies has an entry of these checks. -/
theorem fabric_entry {s : State} {iss : Issue} {g : Group} {i : Instr} {f : Spec.FabricAsk} (h : Spec.fabricAsk s iss g i = some f) :
    FabricEntry s iss g i f := by
  have of (hx : ∃ f', Spec.fabricAsk s iss g i = some f' ∧ FabricEntry s iss g i f') : FabricEntry s iss g i f := by
    obtain ⟨f', hf', hx⟩ := hx
    cases h.symm.trans hf'
    exact hx
  cases i with
  | frdK d a x => exact of (frdK_entry s iss g d a x)
  | fatom d a ex x => exact of (fatom_entry s iss g d a ex x)
  | fsend a x => exact of (fsend_entry s iss g a x)
  | fevent a x => exact of (fevent_entry s iss g a x)
  | fstat d x => exact of (fstat_entry s iss g d x)
  | bopen d a x => exact of (bopen_entry s iss g d a x)
  | bpush a x => exact of (bpush_entry s iss g a x)
  | bclose a x => exact of (bclose_entry s iss g a x)
  | bstat d a x => exact of (bstat_entry s iss g d a x)
  | bfree a x => exact of (bfree_entry s iss g a x)
  | _ => cases h

end Sys2Proof.IssuingLanes

namespace Sys2Proof.IssuingLanes
open Sys2Proof Sys2Proof.Machine

/-! ### The local end of a fabric copy (R168, R197, R317) -/

/-- The local end of a fabric copy of `n` bytes: GLOBAL, or inside a tile that the group may use. -/
def FarEnd (s : State) (gid : Nat) (g : Group) (a : DWord) (n : Nat) : Prop :=
  (Spec.wellFormed 0 a = true ∧ a.toNat + n ≤ 2 ^ 48) ∨
    ((Spec.wellFormed 2 a ∨ Spec.wellFormed 3 a) ∧ Spec.offsetOf a + n ≤ 2 ^ 24 ∧
      ∃ t, s.tileFor gid g (Spec.wellFormed 3 a) (Spec.handleOf a) = some t ∧ Spec.offsetOf a + n ≤ t.size)

section
variable {s : State} {gid : Nat} {g : Group} {a : DWord} {n : Nat} (h : FarEnd s gid g a n)
include h

theorem reaches_of_farEnd : ((copyAperture a).isNone || !rowsFit a 0 1 n) = false := by
  rcases h with ⟨hform, hn⟩ | ⟨hform, hn, -⟩
  · exact reaches (copyAperture_global hform) (rowsFit_global hform hn)
  · exact reaches (copyAperture_tile hform) (rowsFit_tile hform hn)

theorem tileRange_of_farEnd : s.tileRange gid g a 0 1 n = none := by
  unfold State.tileRange
  rcases h with ⟨hform, -⟩ | ⟨hform, -, t, ht, hn⟩
  · rw [aperture_global hform]
  · unfold Spec.handleOf at ht
    unfold Spec.offsetOf at hn
    rw [aperture_tile hform]
    dsimp only
    rw [ht]
    dsimp only
    rw [if_neg (by omega), if_neg (fun hc => absurd hc.1 (lt_irrefl _))]

theorem tileHandle_of_farEnd : tileHandle a = Spec.tileNamed a := by
  unfold tileHandle Spec.tileNamed
  rcases h with ⟨hform, -⟩ | ⟨hform, -⟩
  · have hlow : a.toNat < 2 ^ 48 := of_decide_eq_true hform
    have hnone : (Spec.wellFormed 2 a || Spec.wellFormed 3 a) = false := by
      unfold Spec.wellFormed
      simp only [Bool.or_eq_false_iff, decide_eq_false_iff_not]
      omega
    rw [aperture_global hform, hnone]
    rfl
  · rw [aperture_tile hform, Bool.or_eq_true_iff.2 hform]
    rfl

end

/-- The change of a tile that a fabric copy makes: bytes leave it or come into it (R168). -/
def farChange (out : Bool) : TileState → Option TileState := if out then Spec.leaving else Spec.entering

theorem more_of_free {out : Bool} {t : TileState} (h : (farChange out t).isSome = true) :
    t.more (!out) = (farChange out t).getD t := by
  cases out with
  | true => cases t with
    | filling n => cases h
    | ready | draining n => rfl
  | false => cases t with
    | draining n => cases h
    | ready | filling n => rfl

section
variable {s : State} {a : DWord} {out : Bool} (hname : tileHandle a = Spec.tileNamed a) (hfree : Spec.tileFree s a (farChange out))
include hname hfree

theorem copyBlocked_of_free : s.copyBlocked a (!out) = false := by
  unfold State.copyBlocked
  rw [hname]
  split
  · rfl
  · rename_i n hn
    split
    · rfl
    · rename_i t ht
      have hsome := hfree n t hn ht
      cases out <;> split <;> simp_all [farChange, Spec.leaving, Spec.entering]

theorem tileCopy_of_free :
    s.tileCopy a (fun t => t.more (!out)) = Spec.tileState s a (fun t => (farChange out t).getD t) := by
  unfold State.tileCopy Spec.tileState tblMod
  rw [hname]
  cases hn : Spec.tileNamed a with
  | none => rfl
  | some n =>
    dsimp only
    cases ht : tblFind s.tiles n with
    | none => rfl
    | some t =>
      dsimp only
      rw [more_of_free (hfree n t hn ht)]

end

theorem tileState_group (s : State) (a : DWord) (f : TileState → TileState) (gid : Nat) :
    (Spec.tileState s a f).group gid = s.group gid := by
  unfold Spec.tileState
  split
  · rfl
  · split
    · rfl
    · rfl

theorem credit_good {s : State} {gid : Nat} {g : Group} {w : DWord}
    (h : ∀ b, (if w.getLsbD 32 then some (w.extractLsb' 0 32) else none) = some b → s.ownBarrier gid g b.toNat = true) :
    s.creditBad gid g w = false := by
  unfold State.creditBad wordHandle
  rw [bitAt_toNat]
  cases hw : w.getLsbD 32 with
  | false => rfl
  | true =>
    have hown := h (w.extractLsb' 0 32) (by rw [hw]; rfl)
    rw [field_toNat, Nat.pow_zero, Nat.div_one] at hown
    rw [hown]
    rfl

/-! ### `fwr` and `frd` -/

/-- Fields of the words of `fwr` and `frd` in range (R317). -/
def farFields (w n b : DWord) : Prop :=
  w < 2 ^ 54 ∧ n < 2 ^ 32 ∧ 4 ≤ n.toNat ∧ n.toNat ≤ 16777216 ∧ n.toNat % 4 = 0 ∧ b < 2 ^ 33

theorem farPkg_eq (w : DWord) : farPkg w = Spec.dpkgOf w := (field_toNat w 40 14).symm

theorem farWin_eq (w : DWord) : farWin w = Spec.winOf w := (field_toNat w 36 4).symm

theorem farFields_iff (w n b : DWord) :
    (winBad w || hi32 n != 0 || decide (lo32 n < 4) || decide (16777216 < lo32 n) || lo32 n % 4 != 0 || b.toNat / 2 ^ 33 != 0) = true ↔
      ¬ farFields w n b := by
  unfold farFields
  rw [iff_not_comm, lt_two_pow_iff n (by decide), lt_two_pow_iff b (by decide)]
  simp only [Bool.or_eq_true, winBad_iff, bne_iff_ne, decide_eq_true_eq, not_or, ne_eq, not_not, Nat.not_lt, and_assoc]
  unfold hi32 lo32
  constructor
  · rintro ⟨hw, h1, h2, h3, h4, hb⟩
    exact ⟨hw, h1, by omega, by omega, by omega, hb⟩
  · rintro ⟨hw, h1, h2, h3, h4, hb⟩
    exact ⟨hw, h1, by omega, by omega, by omega, hb⟩

/-- The copy of a `fwr` or `frd`, by the pod of its package. -/
def farOp (s : State) (iss : Issue) (g : Group) (i : Instr) (out : Bool) (a b : KReg) : CopyOp :=
  Spec.remoteCopy g iss i out a b (decide (Spec.dpkgOf (g.kGet (a.toNat + 1)) / 256 = s.dpkg / 256))

section
variable {s : State} {iss : Issue} {g : Group} {i : Instr} {out : Bool} {a b : KReg} {opc : Nat}
variable (hrun : exec i s = serve i s (farCopyEntry out opc)) (ha : (s.slots g iss i).a.num = a.toNat)
  (hb : (s.slots g iss i).b.num = b.toNat)
variable (h : Free s iss g i .user (fun _ _ _ _ => []) (some .cp))

include hrun h in
theorem far_of_none (hnone : g.activeLanes iss i = []) :
    EndsIn s iss i s (Spec.withEmpty g .cp) (fun j => (g.lane j).pass iss) :=
  endsIn_of_addEmpty (e := farCopyEntry out opc) (t := none) (lines := []) hrun h (by
    simp only [farCopyEntry, plainCtx_active, hnone, List.isEmpty_nil, if_true, plainCtx_gid])

include ha hb in
theorem farCopy_eq : farCopy (s.plainCtx iss g i) (Spec.seenBy iss g i) out (s.farLevel (Spec.dpkgOf (g.kGet (a.toNat + 1)))) =
    farOp s iss g i out a b := by
  have hcredit (w : DWord) : creditOf w = if w.getLsbD 32 then some (w.extractLsb' 0 32) else none := by
    unfold creditOf
    rw [bitAt_toNat, field_low]
  have hlen (w : DWord) : lo32 w = (w.extractLsb' 0 32).toNat := by
    rw [field_toNat, Nat.pow_zero, Nat.div_one]
    rfl
  have hscope (d : Nat) : (if s.farLevel d = 5 then 6 else 10 : Nat) = if decide (d / 256 = s.dpkg / 256) then 6 else 10 := by
    unfold State.farLevel State.samePod
    by_cases hd : d / 256 = s.dpkg / 256
    · rw [hd, beq_self_eq_true, decide_eq_true rfl]
      rfl
    · rw [beq_eq_false_iff_ne.2 hd, decide_eq_false hd]
      rfl
  unfold farCopy farOp Spec.remoteCopy
  rw [hscope, kA_seen, kA_seen, kB_seen, ha, hb, hcredit, hlen, lowest_eq]
  rfl

include hrun ha hb h in
theorem far_bad (hne : g.activeLanes iss i ≠ []) (hm : (trapMode g iss.mode).isSome = true)
    (hfields : ¬ farFields (g.kGet (a.toNat + 1)) (g.kGet (a.toNat + 2)) (g.kGet b.toNat)) :
    Spec.ActiveTrap s iss g i 0x12 0x8000000000000003 :=
  endsIn_of_trapActive (e := farCopyEntry out opc) hrun h hm (by
    have hfault : s.farCopyFault (s.plainCtx iss g i) (Spec.seenBy iss g i) = some (causeEngine, engineCode 3) := by
      unfold State.farCopyFault
      simp only [kA_seen, kB_seen, ha, hb]
      exact if_pos ((farFields_iff ..).2 hfields)
    rw [plainCtx_lowest]
    simp only [farCopyEntry, plainCtx_active, List.isEmpty_eq_false_iff.2 hne, Bool.false_eq_true, if_false, hfault]
    rfl)

include hrun ha hb h in
theorem far_joins (hne : g.activeLanes iss i ≠ [])
    (hfields : farFields (g.kGet (a.toNat + 1)) (g.kGet (a.toNat + 2)) (g.kGet b.toNat))
    (halign : (g.kGet a.toNat).toNat % 4 = 0 ∧ Spec.offOf (g.kGet (a.toNat + 1)) % 4 = 0)
    (hend : FarEnd s iss.gid (Spec.seenBy iss g i) (g.kGet a.toNat) (g.kGet (a.toNat + 2)).toNat)
    (hcredit : ∀ n, (farOp s iss g i out a b).credit = some n →
      s.ownBarrier iss.gid (Spec.seenBy iss g i) n.toNat = true)
    (hfree : Spec.tileFree s (g.kGet a.toNat) (farChange out)) :
    EndsIn s iss i (Spec.tileState s (g.kGet a.toNat) (fun t => (farChange out t).getD t))
      (Spec.withOp g .cp (.remoteCopy out (Spec.dpkgOf (g.kGet (a.toNat + 1))) (Spec.winOf (g.kGet (a.toNat + 1)))
        (Spec.offOf (g.kGet (a.toNat + 1)))
        (farOp s iss g i out a b)) opc)
      (fun j => (g.lane j).pass iss) := by
  have hlen : lo32 (g.kGet (a.toNat + 2)) = (g.kGet (a.toNat + 2)).toNat := by
    obtain ⟨-, -, -, hmax, -⟩ := hfields
    exact Nat.mod_eq_of_lt (by omega)
  have hfault : s.farCopyFault (s.plainCtx iss g i) (Spec.seenBy iss g i) = none := by
    have hbad := Bool.eq_false_iff.2 (fun hc => (farFields_iff ..).1 hc hfields)
    unfold State.farCopyFault
    simp only [kA_seen, kB_seen, ha, hb, Nat.add_zero]
    rw [hbad, hlen, reaches_of_farEnd hend, farOff_eq, misaligned.2 halign, plainCtx_gid, tileRange_of_farEnd hend, credit_good hcredit]
    rfl
  have hname := tileHandle_of_farEnd hend
  refine endsIn_of_addOp (e := farCopyEntry out opc) (t := none) (lines := []) hrun h ?_
    ((tileState_group ..).trans h.group) h.settled (h.lanes_there (fun _ _ => rfl))
  rw [plainCtx_lowest]
  simp only [farCopyEntry, plainCtx_active, List.isEmpty_eq_false_iff.2 hne, Bool.false_eq_true, if_false, hfault, kA_seen, ha,
    Nat.add_zero, copyBlocked_of_free hname hfree, tileCopy_of_free hname hfree, farCopy_eq ha hb, plainCtx_gid, farPkg_eq, farWin_eq,
    farOff_eq]

end

/-- Settles O50: `fabric_entry` gives each fabric or Blend instruction but the copies the checks of its entry, which decide what becomes of
it; `fwr` and `frd` have checks of their own. -/
theorem fabricIssue : Obligations.FabricIssue := by
  intro s iss g i
  have copies {out : Bool} {a b : KReg} (h : Spec.remoteCopyOf i = some (out, a, b)) :
      exec i s = serve i s (farCopyEntry out (if out then 0x70 else 0x71)) ∧ (s.slots g iss i).a.num = a.toNat ∧
        (s.slots g iss i).b.num = b.toNat := by
    cases i with
    | fwr a' b' x | frd a' b' x =>
      cases h
      exact ⟨rfl, rfl, rfl⟩
    | _ => cases h
  refine ⟨?_, fun hne => ⟨fun f hf h => ?_, fun out a b hc h => ?_⟩⟩
  · rintro cls (⟨f, hf, rfl⟩ | ⟨hcopy, rfl⟩) h hnone
    · obtain ⟨check, act, target, hi⟩ := fabric_entry hf
      exact fabric_of_none hi h hnone
    · obtain ⟨⟨out, a, b⟩, hc⟩ := Option.isSome_iff_exists.1 hcopy
      exact far_of_none (copies hc).1 h hnone
  · obtain ⟨check, act, target, hi⟩ := fabric_entry hf
    exact ⟨fabric_joins hi h hne, fun hfields hm => fabric_bad hi h hne hm hfields⟩
  · obtain ⟨hrun, ha, hb⟩ := copies hc
    exact ⟨fun hfields halign0 halign1 hend hcredit hfree => far_joins hrun ha hb h hne hfields ⟨halign0, halign1⟩ hend hcredit hfree,
      fun hfields hm => far_bad hrun ha hb h hne hm hfields⟩

end Sys2Proof.IssuingLanes

namespace Sys2Proof.IssuingLanes
open Sys2Proof Sys2Proof.Machine

/-! ### An issue slot (R118) -/

/-- The issue of a sequence, of the units `pfx` before those of its instruction, `ins`, at the address of lanes that stand in a block, before
its steps (R118). -/
def issueAt (gid : Nat) (g : Group) (ls cs : List Nat) (b : Block) (pfx ins : List Nat) (p : Prefixes) : Issue :=
  let l := g.lane (ls.headD 0)
  let a := l.addr.toNat + 4 * pfx.length
  let size := if ins.headD 0 % 4 = 2 then 8 else 4
  { gid := gid, lanes := ls, considered := cs, mode := l.mode, addr := l.addr.toNat, iaddr := a, header := b.header,
    next := if b.stop ≤ a + size then b.following else a + size, following := b.following, pfx := p,
    loopPass := (l.ms l.mode).loop.toNat, repPass := (l.ms l.mode).rep.toNat,
    stepD := 0, stepA := 0, stepB := 0, stepC := 0, stepT := 0 }

/-- A sequence that decodes and passes the checks of order 3 is issued (R110). -/
theorem prepareSeq_issues {s s3 : State} {gid : Nat} {g : Group} {ls cs pfx ins : List Nat} {b : Block} {q : Seq} {x : Issue}
    (hg : s.group gid = some g)
    (hfetch : s.fetchSeq gid (g.lane (ls.headD 0)).mode b.stop (g.lane (ls.headD 0)).addr.toNat = .ok (s3, pfx, ins))
    (hdecode : decodeSeq pfx ins = .ok q) (hx : issueAt gid g ls cs b pfx ins q.pfx = x)
    (hlate : s3.lateIllegal g x b pfx q = none) :
    s.prepareSeq gid ls cs b = .issue { s3 with issue := some (x.inPass b.word x.repPass) } q.instr := by
  subst hx
  unfold State.prepareSeq
  cases ins with
  | nil | cons lo rest =>
    simp only [hg, hfetch, hdecode]
    split
    · rename_i n hn
      exact nomatch hn.symm.trans hlate
    · rfl

/-- What a slot of a group has chosen: the group may issue, and `ls` stand together, all framed, in the state `sf` (R118, R395). -/
structure Chosen (s : State) (gid : Nat) (ls cs : List Nat) (sf : State) (gf : Group) : Prop where
  slot : ∃ g, s.group gid = some g ∧ (!g.resident || g.freed || g.hostcall.waiting || s.overdue g || s.asleep g.core ||
    s.exhausted g.leaf 0 || s.leafStopped g.leaf || s.gangApart g) = false
  framed : ∃ gh sc gc, (s.frameHeaders gid).group gid = some gh ∧ (s.frameHeaders gid).considered gid gh = (sc, cs) ∧
    sc.group gid = some gc ∧ sc.frameReturns gid (gc.choose cs) = (sf, true)
  group : sf.group gid = some gf
  lanes : gf.sameBlock (gf.choose cs) = ls
  nonempty : ls ≠ []

/-- Lanes chosen prepare the sequence of the block in whose body they stand, or whose header they take. -/
theorem Chosen.prepare {s sf s2 : State} {gid : Nat} {gf : Group} {ls cs : List Nat} {b : Block} (h : Chosen s gid ls cs sf gf)
    (hstand : sf.standOf gid (gf.lane (ls.headD 0)) = .ok (s2, .inside b) ∨ ∃ sa sb,
      sf.standOf gid (gf.lane (ls.headD 0)) = .ok (sa, .atHeader) ∧
      sa.headerAt gid (gf.lane (ls.headD 0)).mode (gf.lane (ls.headD 0)).addr.toNat = .ok (sb, .block b) ∧
      sb.takeHeader gid ls b = s2) : s.prepare gid = s2.prepareSeq gid ls cs b := by
  obtain ⟨⟨g, hg, hmay⟩, ⟨gh, sc, gc, hgh, hcons, hgc, hreturns⟩, hgf, hls, hne⟩ := h
  obtain ⟨j, js, rfl⟩ := List.exists_cons_of_ne_nil hne
  unfold State.prepare
  simp only [hg, hmay, hgh, Option.getD_some, hcons, hgc, hreturns, hgf, hls, if_true, Bool.false_eq_true, if_false]
  rcases hstand with hin | ⟨sa, sb, hat, hblock, rfl⟩
  · rw [List.headD_cons] at hin
    rw [hin]
  · rw [List.headD_cons] at hat hblock
    rw [hat]
    dsimp only
    rw [hblock]

/-- Settles O28: `Chosen.prepare` and `prepareSeq_issues` say what an issue slot prepares, which the step executes. -/
theorem stepRunsDecoded : Obligations.StepRunsDecoded := by
  intro s s1 sh sc sf sa sb s2 s3 gid dt r g gh gc gf g3 ls cs pfx ins b q iss hagenda hs1 hg hres hfree hcall hover hasleep hbudget hstop
    hgang hsh hgh hcons hgc hreturns hgf hls hne l0 hstand hg3 l hfetch hdecode size a rep loop hiss hlate
  subst hsh
  have hchosen : Chosen s1 gid ls cs sf gf :=
    ⟨⟨g, hg, by rw [hres, hfree, hcall, hover, hasleep, hbudget, hstop, hgang]; rfl⟩, ⟨gh, sc, gc, hgh, hcons, hgc, hreturns⟩, hgf, hls,
      hne⟩
  have hprepare := hchosen.prepare (s2 := s2) (b := b) (hstand.imp id (fun h => ⟨sa, sb, h⟩))
  have hx : issueAt gid g3 ls cs b pfx ins q.pfx = { iss with stepD := 0, stepA := 0, stepB := 0, stepC := 0, stepT := 0 } := by
    rw [hiss]
    rfl
  have hpass : Issue.inPass { iss with stepD := 0, stepA := 0, stepB := 0, stepC := 0, stepT := 0 } b.word iss.repPass = iss := by
    rw [hiss]
    rfl
  have hissues := hprepare.trans (prepareSeq_issues hg3 hfetch hdecode hx hlate)
  unfold step
  rw [hagenda]
  dsimp only
  rw [hs1]
  unfold perform
  dsimp only
  rw [hissues]
  exact congrArg (fun x => exec q.instr { s3 with issue := some x }) hpass

end Sys2Proof.IssuingLanes
end
